-- ==== Sys2Proof/Word.lean ====
section
/-!
DEFINITION. The byte type of memory images, and the types a command can carry.
-/

namespace Sys2Proof

/-- One byte of a memory image, a descriptor or a message (R3). -/
abbrev Byte := BitVec 8

/-- The place of a task in the task table of a die (R53): the die that holds it and its table index. -/
structure TaskId where
  die : Nat
  index : Nat
deriving DecidableEq, Repr

/-- A packet of the torus: the header fields of R281 and the payload bytes. -/
structure Packet where
  dst : Nat
  src : Nat
  jobId : Nat
  op : Nat
  tc : Nat
  dateline : Nat
  addr : Nat
  length : Nat
  status : Nat
  fmt : Nat
  seq : Nat
  contribId : Nat
  poisonMap : Nat
  arg0 : Nat
  arg1 : Nat
  payload : List Byte
deriving DecidableEq, Repr

/-- What another module answers to a get (R282, R288): the bytes from one global address on, or a status.
A step that fetches from other modules (SAMPLE, LOOKUP, TABLE_REFRESH, a stream) carries the answers it received. -/
structure RemoteReply where
  addr : Nat
  status : Nat
  /-- Bit b covers data bytes 64b to 64b + 63 (R288). -/
  poisonMap : Nat
  data : List Byte
deriving DecidableEq, Repr

/-- A codeword of HBM in which a read finds symbol errors (R82): an offset in it, the DQ lanes in error, and whether the
controller finds it uncorrectable (R83, R84). -/
structure CodewordError where
  offset : Nat
  lanes : List Nat
  uncorrectable : Bool
deriving DecidableEq, Repr

/-- A task that reads HBM, with the codewords in which its reads find symbol errors. -/
structure TaskReads where
  task : TaskId
  errors : List CodewordError
deriving DecidableEq, Repr

/-- What a BAR2 access reads: the bytes that a read asks for, and the codewords in which it finds symbol errors. -/
structure Bar2Reads where
  length : Nat
  errors : List CodewordError
deriving DecidableEq, Repr

/-- A rail's report (R361): the rail, its average currents in mA over 1 µs, 10 µs and 100 µs, and the cycles that its die has
stretched for it. -/
structure RailReport where
  rail : Nat
  average1 : Nat
  average10 : Nat
  average100 : Nat
  stretched : Nat
deriving DecidableEq, Repr

/-- How a PCIe completion ended (R398): with data, or with Unsupported Request or Completer Abort. -/
inductive CplStatus where
  | success
  | unsupportedRequest
  | completerAbort
deriving DecidableEq, Repr

/-- Where a parity error or an uncorrectable SRAM error is met (R341, R343). -/
inductive ParitySite where
  /-- A transfer into memory: the aligned 64-byte destination block at this memory key. -/
  | transfer (key : Nat)
  /-- An operand or intermediate inside an engine of this tile, which runs this task or a slice of it. -/
  | tileEngine (task : TaskId) (tile : Nat)
  /-- A control structure that this task reads. -/
  | control (task : TaskId)
  /-- The ring entry at the head of this ring. -/
  | ringEntry (ring : Nat)
  /-- The task-table entry of this task. -/
  | taskEntry (task : TaskId)
  /-- A shared control table entry that names a job, or whose job field is unreadable (none). -/
  | sharedTable (job : Option Nat)
  /-- A correctable error in a tile's store, or in control SRAM (none): corrected and counted. -/
  | sramCorrected (tile : Option Nat)
  /-- An uncorrectable error in a tile-store block at this memory key. -/
  | sramUncorrectable (key : Nat)
deriving DecidableEq, Repr

/-- A safety trip's reading, for the record of R435: the tripping sensor's number and its value. -/
structure Reading where
  sensor : Nat
  value : Nat
deriving DecidableEq, Repr

/-- What the rails and sensors report to the Pilot at the end of a 10 µs interval (R369, R370, R380). -/
structure DieMeasure where
  /-- Busy cycles by phase ID in the interval. -/
  busyByPhase : List (Nat × Nat)
  /-- Measured die power in milliwatts. -/
  powerMw : Nat
  /-- Leakage of the die at its voltage and temperature, and at the planned voltage of each entry 0 to 63, in milliwatts. -/
  leakMw : Nat
  leakPlanMw : List Nat
  /-- Hottest junction in °C. -/
  tj : Nat
deriving DecidableEq, Repr

/-- One interval's measurements for the whole module. -/
structure PilotMeasure where
  dies : List DieMeasure
  /-- Input voltage in 10 mV units, input power in W, conversion loss and auxiliary power in W. -/
  vin : Nat
  pinW : Nat
  lossW : Nat
  auxW : Nat
  /-- Measured power of all HBM stacks and of the I/O dies, in W. -/
  hbmW : Nat
  ioW : Nat
  /-- Measured energy of the interval in µJ by domain: dies 0 to 7, HBM, I/O, and the rest. -/
  energyDies : List Nat
  energyHbm : Nat
  energyIo : Nat
  energyRest : Nat
  /-- Attribution weights by (job, amount): busy cycles per die, tags and miss registers held, packets. -/
  weightDies : List (List (Nat × Nat))
  weightHbm : List (Nat × Nat)
  weightIo : List (Nat × Nat)
deriving DecidableEq, Repr

/-- The transports of management messages (R436, R437). -/
inductive MgmtTransport where
  | i3c
  | pcie
  | torus (src : Nat)
deriving DecidableEq, Repr

/-- A management request: its transport, sequence number and body (R436). -/
structure MgmtRequest where
  transport : MgmtTransport
  seq : Nat
  body : List Byte
deriving DecidableEq, Repr

/-- The supported capability registers a configuration write can reach (R386), by the standard's names. -/
inductive CfgRegister where
  /-- Power Management Control/Status: PowerState in bits 1:0 (0 D0, 3 D3hot). -/
  | powerControl
  /-- Resizable BAR Control: the size of BAR2, as its log2 in MiB in bits 13:8. -/
  | resizableBar
  /-- Device Control: Max_Payload_Size in bits 7:5, Max_Read_Request_Size in bits 14:12. -/
  | deviceControl
  /-- Device Control 2: Completion Timeout Value in bits 3:0; Completion Timeout Disable is hardwired 0. -/
  | deviceControl2
  /-- MSI-X Message Control: MSI-X Enable in bit 15, Function Mask in bit 14. -/
  | msixControl
  /-- Link Control 2 and 3, L0p, AER masks and severities: kept as written. -/
  | kept (number : Nat)
deriving DecidableEq, Repr

/-- A fresh random value that the step draws from outside the spec's rules is carried by the command that draws it. -/
abbrev Nonce := List Byte

end Sys2Proof
end

