-- ==== Sys2Proof/Syntax.lean ====
section
/-!
DEFINITION. The commands of the block: one constructor per row of spec/opcode_table.json, in the table's order.
-/

namespace Sys2Proof

/-- A command: a host or torus access, a management message, an event at a connector or sensor, or one of the
indivisible internal steps of spec/95. -/
inductive Instr where
  /-- R7, R389: a BAR0 write of size bytes at a byte offset. -/
  | registerWrite (offset size value : Nat)
  /-- R44: load written to CHT_CTRL, with unload written in the same cycle or not (R47). -/
  | load (withUnload : Bool)
  /-- R41: the checks of the load in progress end. -/
  | loadChecksEnd
  /-- R47: unload written to CHT_CTRL. -/
  | unload
  /-- R47: force set in CHT_CTRL. -/
  | force
  /-- R47: no task remains during DRAINING; zeroing runs. -/
  | unloadDrained
  /-- R47: zeroing ended. -/
  | unloadDone
  /-- R64, R391: a write to a ring's doorbell page at a page offset. -/
  | doorbellTail (ring pageOffset size value : Nat)
  /-- R66, R391: a cq_head write to a ring's doorbell page. -/
  | cqHead (ring size value : Nat)
  /-- R62: the ring takes an entry of kind NOP (or of a reserved kind, which it rejects). -/
  | ringNop (ring : Nat)
  /-- R62: the ring takes an entry of kind TASKS. -/
  | tasks (ring : Nat)
  /-- R62: the ring takes an entry of kind SIGNAL. -/
  | signal (ring : Nat)
  /-- R70: the ring takes an entry of kind DISCARD. -/
  | discard (ring : Nat)
  /-- R62: the ring takes an entry of kind FENCE. -/
  | fence (ring : Nat)
  /-- R62: the fence of a ring opens. -/
  | fenceCleared (ring : Nat)
  /-- R52: the next descriptor of the ring's TASKS entry is registered. -/
  | taskRegister (ring : Nat)
  /-- R59: the free engine of a class at a place (tile, die or I/O die) takes a task. -/
  | dispatch (engine place : Nat)
  /-- R56: a task whose engine has finished completes. For a shadowed task (R353) the output checksums of its own run,
  the shadow run and, where they differ, the third run and the suspect tile's further run; the empty list: all agree. -/
  | taskComplete (task : TaskId) (runs : List (Option Nat))
  /-- R66: the oldest waiting completion record of a ring is written. -/
  | completionRecordWrite (ring : Nat)
  /-- R57: the waiting successor signals of a task are placed. -/
  | successorSignalPlace (task : TaskId)
  /-- R67: a delay task's wait ends. -/
  | delayExpiry (task : TaskId)
  /-- R69: a deadline expires. -/
  | deadlineExpiry (task : TaskId)
  /-- R67: a write to SCH_TICK. -/
  | tickWrite (value : Nat)
  /-- R78: enable 1 written for the selected ring. -/
  | ringEnable
  /-- R78: enable 0 written for the selected ring. -/
  | ringDisable
  /-- R51: a dispatched NOP task. -/
  | nop (task : TaskId)
  /-- R92: a DMA COPY, with the codeword errors that its reads meet. -/
  | copy (reads : TaskReads)
  /-- R92: a DMA COPY2D, with the codeword errors that its reads meet. -/
  | copy2d (reads : TaskReads)
  /-- R92: a DMA FILL. -/
  | fill (task : TaskId)
  /-- R95: a DMA STREAM_OPEN. -/
  | streamOpen (task : TaskId)
  /-- R92: a DMA STREAM_CLOSE. -/
  | streamClose (task : TaskId)
  /-- R96: a stream block arrives; for a source on another module the owner's answer is carried. -/
  | streamBlockArrival (die slot block : Nat) (remote : List RemoteReply)
  /-- R97: the consumer takes the next block; the flag tells whether more than 75 % of the die's tags were in use. -/
  | streamBlockConsume (die slot : Nat) (tagsBusy : Bool)
  /-- R90: the cap of a die is re-evaluated; what the window saw is carried. -/
  | bankCapEval (die : Nat) (waitedWhileFull poolRanOut : Bool)
  /-- R101: scrub reads the codeword at an HBM offset and finds symbol errors on these DQ lanes. -/
  | scrubCodeword (offset : Nat) (lanes : List Nat) (uncorrectable : Bool)
  /-- R117: a SAMPLE task, with the answers to its remote gets. -/
  | sample (task : TaskId) (remote : List RemoteReply)
  /-- R135: a LOOKUP, with the answers to its list gets. -/
  | lookup (task : TaskId) (remote : List RemoteReply)
  /-- R143: a PUSH. -/
  | push (task : TaskId)
  /-- R132: a TABLE_OPEN. -/
  | tableOpen (task : TaskId)
  /-- R146: a TABLE_SWAP. -/
  | tableSwap (task : TaskId)
  /-- R146: the swap of a table completes. -/
  | swapComplete (table : Nat)
  /-- R145: a TABLE_REFRESH, with the answers to its list gets. -/
  | tableRefresh (task : TaskId) (remote : List RemoteReply)
  /-- R191: a GATHER; the answers serve a stream from another module. -/
  | gather (task : TaskId) (remote : List RemoteReply)
  /-- R186: a SEG_REDUCE; the answers serve a stream from another module. -/
  | segReduce (task : TaskId) (remote : List RemoteReply)
  /-- R193: a SCATTER_ADD. -/
  | scatterAdd (task : TaskId)
  /-- R195: an INTERSECT. -/
  | intersect (task : TaskId)
  /-- R200: an ARRAY_A or ARRAY_B PRODUCT. -/
  | product (task : TaskId)
  /-- R228: a PRODUCT_SPARSE. -/
  | productSparse (task : TaskId)
  /-- R206: the next pass of an array task starts. -/
  | arrayPassStart (task : TaskId)
  /-- R239: a VECTOR CHAIN. -/
  | chain (task : TaskId)
  /-- R262: an ARRAY_AB GRAD. -/
  | grad (task : TaskId)
  /-- R174: a write to TEL_DRIFT_CFG. -/
  | driftCfgWrite (value : Nat)
  /-- R291: a REMOTE PUT. -/
  | remotePut (task : TaskId)
  /-- R291: a REMOTE GET. -/
  | remoteGet (task : TaskId)
  /-- R301: a REMOTE EXACT_ACC. -/
  | remoteExactAcc (task : TaskId)
  /-- R285: a REMOTE NM_ACC. -/
  | remoteNmAcc (task : TaskId)
  /-- R286: a REMOTE CAS. -/
  | remoteCas (task : TaskId)
  /-- R287: a REMOTE PUT_SIGNAL. -/
  | remotePutSignal (task : TaskId)
  /-- R271, R274: a unit arrives on a port: its flit's implicit sequence number, its place in the port's stream since the link
came up at its width, what FEC made of its codeword (0 no error, 1 corrected, else uncorrectable), and its 514 bits, the
first received lowest. -/
  | flitReceive (port seq unit fec value : Nat)
  /-- R273: an ACK_CREDIT control flit. -/
  | ackCredit (port ackSeq : Nat) (freed : List Nat)
  /-- R274: a NAK control flit. -/
  | nak (port expected : Nat)
  /-- R273: a KEEPALIVE control flit. -/
  | keepalive (port : Nat)
  /-- R295: an IDENT control flit: part index and its content; the nonce this end draws at part 0. -/
  | ident (port part : Nat) (content : List Byte)
  /-- R297: a WIDTH control flit. -/
  | width (port code : Nat)
  /-- R296: a CHART control flit: part, Chart state, node ID, system ID and 32 digest bytes. -/
  | chart (port part state node systemId : Nat) (digest : List Byte)
  /-- R274: the NAK of a port is due again. -/
  | nakRepeat (port : Nat)
  /-- R274: the ACK_CREDIT timer of a port. -/
  | ackTimer (port : Nat)
  /-- R274: no ack progress for 100 µs. -/
  | ackProgressTimeout (port : Nat)
  /-- R296: CHART parts are sent again. -/
  | chartResend (port : Nat)
  /-- R292: the packet-gap timer of an open packet. -/
  | packetGapTimeout (port vc : Nat)
  /-- R284: the response timer of a request. -/
  | responseTimeout (seq : Nat)
  /-- R279: a BREAK notice arrives on a port. -/
  | breakNotice (port : Nat) (packet : Packet)
  /-- R283: a PUT request. -/
  | put (packet : Packet)
  /-- R283: a GET request. -/
  | get (packet : Packet)
  /-- R282: a LIST_GET request. -/
  | listGet (packet : Packet)
  /-- R308: an EXACT_ACC packet. -/
  | exactAcc (packet : Packet)
  /-- R285: an NM_ACC request. -/
  | nmAcc (packet : Packet)
  /-- R286: a CAS request. -/
  | cas (packet : Packet)
  /-- R287: a PUT_SIGNAL request. -/
  | putSignal (packet : Packet)
  /-- R436: an MGMT packet. -/
  | mgmt (packet : Packet)
  /-- R284: an ACK response. -/
  | ack (packet : Packet)
  /-- R282: a GET_RESP response. -/
  | getResp (packet : Packet)
  /-- R282: a LIST_RESP response. -/
  | listResp (packet : Packet)
  /-- R282: a CAS_RESP response. -/
  | casResp (packet : Packet)
  /-- R294: a port finds signal. -/
  | linkTrainStart (port : Nat)
  /-- R294: step 2 ends, well or not. -/
  | equalisationEnd (port : Nat) (ok : Bool)
  /-- R294: step 3 ends, well or not; the nonce this end draws for the identity exchange. -/
  | alignmentEnd (port : Nat) (ok : Bool) (nonce : Nonce)
  /-- R294: a DOWN port tries again. -/
  | trainingRetry (port : Nat)
  /-- R294: FEC lock lost for 1 µs. -/
  | fecLockLost (port : Nat)
  /-- R294: no flit for 1 ms. -/
  | keepaliveLost (port : Nat)
  /-- R295: accept written to FAB_Pp_CTRL. -/
  | accept (port : Nat)
  /-- R294: retrain written to FAB_Pp_CTRL. -/
  | retrain (port : Nat)
  /-- R298: enable written in FAB_Pp_CTRL. -/
  | portEnable (port : Nat) (enable : Bool)
  /-- R307: a COLLECTIVE OPEN. -/
  | collOpen (task : TaskId)
  /-- R310: a COLLECTIVE CLOSE. -/
  | collClose (task : TaskId)
  /-- R310: a waiting counted CLOSE finds its ledger complete. -/
  | closeLedgerComplete (task : TaskId)
  /-- R311, R314, R318: a collective deadline expires. -/
  | collectiveDeadline (task : TaskId)
  /-- R314: a BARRIER task arrives. -/
  | barrier (task : TaskId)
  /-- R315: a BROADCAST task runs. -/
  | broadcast (task : TaskId)
  /-- R318: a FIX task stops dispatch. -/
  | fix (task : TaskId)
  /-- R318: the job is drained. -/
  | fixDrained (task : TaskId)
  /-- R314: BAR_UP. -/
  | barUp (packet : Packet)
  /-- R314: BAR_DOWN. -/
  | barDown (packet : Packet)
  /-- R315: BCAST_DATA. -/
  | bcastData (packet : Packet)
  /-- R318: FIX_UP. -/
  | fixUp (packet : Packet)
  /-- R318: FIX_DOWN. -/
  | fixDown (packet : Packet)
  /-- R319: a write to COL_SYSRESET. -/
  | sysreset (value : Nat)
  /-- R319: RESET_DOWN. -/
  | resetDown (packet : Packet)
  /-- R319: RESET_UP. -/
  | resetUp (packet : Packet)
  /-- R328: an UPDATE NORM. -/
  | norm (task : TaskId)
  /-- R327: an UPDATE APPLY. -/
  | apply (task : TaskId)
  /-- R335: an UPDATE STORE. -/
  | store (task : TaskId)
  /-- R334: an UPDATE ROOT. -/
  | root (task : TaskId)
  /-- R339: an UPDATE EXPORT. -/
  | exportRows (task : TaskId)
  /-- R343: a parity or uncorrectable SRAM error. -/
  | parityError (site : ParitySite)
  /-- R346: kill written to ERR_JOB_CTRL. -/
  | jobKill
  /-- R346: the termination of a job completes. -/
  | jobTerminated (job : Nat)
  /-- R347: revive written to ERR_JOB_CTRL. -/
  | jobRevive
  /-- R357: enable written to ERR_LOG_CFG. -/
  | errLogEnable (enable : Bool)
  /-- R357: head written to ERR_LOG_PTR. -/
  | errLogHead (head : Nat)
  /-- R370: a 10 µs interval ends, with its measurements. -/
  | pilotInterval (measure : PilotMeasure)
  /-- R364: a root changes mult by one step. -/
  | multSlewStep (die : Nat)
  /-- R367: a die adjusts its voltage for the worst slack in ps. -/
  | voltageAdjust (die : Nat) (slackPs : Int)
  /-- R372: a 1 ms window of a phase ends: wait cycles, busy cycles, and whether its dies ran at pref, ungated. -/
  | prefRevise (phase waitCycles busyCycles : Nat) (atPref : Bool)
  /-- R361: a rail reports its averages, and the g of 64 to which its die gates issue where a limit acts. -/
  | railLimit (report : RailReport) (gate : Nat)
  /-- R375: a droop stretches this many cycles of a die. -/
  | droop (die cycles : Nat)
  /-- R375: the droop of a die lasted 1 µs. -/
  | droopPersist (die : Nat)
  /-- R375: the hold of a die ends. -/
  | droopHoldEnd (die : Nat)
  /-- R376: once per second: hottest junction, inlet in °C, input power in W. -/
  | rthUpdate (tjMax tIn pIn : Nat)
  /-- R376: a die reports its junction, every 100 µs. -/
  | junctionThrottle (die tj : Nat)
  /-- R377: drift in ppm of each of the 64 tiles. -/
  | ageingMeasure (driftPpm : List Nat)
  /-- R377: the Binnacle stores drift and planned voltages. -/
  | ageingStore
  /-- R368: a write to PLT_CAP. -/
  | capWrite (value : Nat)
  /-- R366: a write to PLT_OPP_i. -/
  | oppWrite (entry value : Nat)
  /-- R359: the input falls below 40 V: input voltage in 10 mV units. -/
  | inputLow (vin : Nat)
  /-- R381: anchor written to PLT_CTRL. -/
  | anchor
  /-- R382: entry to the anchor watch commits. -/
  | anchorCommit
  /-- R384: wake written to PLT_CTRL. -/
  | wake
  /-- R384: the wake completes. -/
  | wakeComplete
  /-- R390: a BAR2 write (with data and EP) or a BAR2 read of a length, with the codeword errors that it meets. -/
  | bar2Access (offset : Nat) (write : Option (List Byte)) (ep : Bool) (reads : Bar2Reads)
  /-- R393: commit written to DEV_FEAT_CTRL. -/
  | featCommit
  /-- R396: enable written to DEV_EVQ_CFG. -/
  | evqEnable (enable : Bool)
  /-- R396: head written to DEV_EVQ_PTR. -/
  | evqHead (head : Nat)
  /-- R394: the holdoff of a vector ends. -/
  | msixHoldoffEnd (vector : Nat)
  /-- R394: a vector is unmasked. -/
  | msixUnmask (vector : Nat)
  /-- R398: a HOST_DMA TO_HOST. -/
  | toHost (task : TaskId)
  /-- R398: a HOST_DMA FROM_HOST. -/
  | fromHost (task : TaskId)
  /-- R398: a PCIe completion for a read tag. -/
  | hostCompletion (tag : Nat) (status : CplStatus) (ep : Bool) (data : List Byte)
  /-- R399: the completion timeout of a read tag. -/
  | hostTimeout (tag : Nat)
  /-- R387: the PCIe link trained or changed: speed and width codes of DEV_LINK, and FLIT mode. -/
  | linkChanged (speed width : Nat) (flit : Bool)
  /-- R400: a function reset. -/
  | functionReset
  /-- R400: a write to DEV_RESET. -/
  | devReset (value : Nat)
  /-- R400: PERST# or a system reset resets the module. -/
  | moduleReset
  /-- R402: the boot sequence. -/
  | boot
  /-- R402: the flash write that boot waited for ends. -/
  | bootFlashWaitEnd
  /-- R406: commit_svn written to SEC_CTRL. -/
  | commitSvn
  /-- R407: update written to SEC_CTRL. -/
  | update
  /-- R407: the flash write of an update ends, well or not. -/
  | updateDone (ok : Bool)
  /-- R409: recover written to SEC_CTRL. -/
  | recover
  /-- R414: GET_CERT, with its request body. -/
  | getCert (body : List Byte)
  /-- R414: GET_NONCE, with its request body and the fresh nonce. -/
  | getNonce (body : List Byte) (nonce : Nonce)
  /-- R415: GET_REPORT, with its request body. -/
  | getReport (body : List Byte)
  /-- R416: a DOE ENROLL, with its request body. -/
  | enroll (body : List Byte)
  /-- R417: a DOE RELEASE, with its request body. -/
  | release (body : List Byte)
  /-- R362: the next step of the power-up sequence ends, its rails up or not. -/
  | powerSequence (ok : Bool)
  /-- R425: the input is below 38 V for 100 µs. -/
  | inputUndervoltage (vin : Nat)
  /-- R425: the input has been within 40 to 60 V for 10 ms. -/
  | inputRestored (vin : Nat)
  /-- R425: the input is above 64 V, and whether it stayed for 100 µs. -/
  | inputOvervoltage (vin : Nat) (persisted : Bool)
  /-- R431: the latch opens while a main rail is on. -/
  | latchUnderPower
  /-- R432: PRES_S breaks. -/
  | presSBreak
  /-- R429: a press shorter than 2 s. -/
  | attentionPress
  /-- R429: a press of 5 s or longer. -/
  | attentionLongPress
  /-- R416, R428: the 60 s window ends. -/
  | presenceWindowEnd
  /-- R434: a rail exceeds 125 % of its 1 µs limit. -/
  | railOvercurrent (reading : Reading)
  /-- R434: a die reaches 110 °C. -/
  | junctionOvertemp (reading : Reading)
  /-- R434: the cold plate warms too fast. -/
  | coolantLoss (reading : Reading)
  /-- R434: more than 20 mA leaks to chassis. -/
  | leakage (reading : Reading)
  /-- R434: the handle exceeds 55 °C. -/
  | handleHot (celsius : Nat)
  /-- R434: the handle falls below 53 °C. -/
  | handleCool (celsius : Nat)
  /-- R424: both P48V and AUX12 are absent. -/
  | vauxLoss
  /-- R437: the management messages. -/
  | getStatus (request : MgmtRequest)
  | getSensors (request : MgmtRequest)
  | getEvents (request : MgmtRequest)
  | setIdentify (request : MgmtRequest)
  | powerOn (request : MgmtRequest)
  | powerOff (request : MgmtRequest)
  | clearSafe (request : MgmtRequest)
  | setAutoOn (request : MgmtRequest)
  | mgmtEnroll (request : MgmtRequest)
  | clearRetired (request : MgmtRequest)
  | clearPeer (request : MgmtRequest)
  | getAgeing (request : MgmtRequest)
  /-- R7, R389: a BAR0 read of size bytes. -/
  | rcRead (offset size : Nat)
  /-- R386: a configuration write of a value to a capability register. -/
  | configurationRequest (register : CfgRegister) (value : Nat)
  /-- R297: the KEEPALIVE timer of a narrow link. -/
  | keepaliveTimer (port : Nat)
  /-- R425: the input rises into 60 to 64 V. -/
  | inputHigh (vin : Nat)
  /-- R297: both ends have retrained their 15 lanes. -/
  | returnTo16Lanes (port : Nat)
  /-- R409: the flash write of a recovery ends, well or not. -/
  | recoveryFlashWriteEnd (ok : Bool)
deriving DecidableEq, Repr

end Sys2Proof
end

