-- ==== Sys2Proof/Decode.lean ====
section
/-!
DEFINITION. The words of the opcode table. The block has no instruction decoder: commands arrive as accesses, packets,
messages and events, and spec/opcode_table.json gives no row any bits.
-/

namespace Sys2Proof

/-- The command a word spells by the table's bits: no row gives bits, so no word spells one. -/
def decodeTableWord (_nbits _w : Nat) : Option Instr := none

end Sys2Proof
end

