-- ==== Sys2Proof/Config.lean ====
section
/-!
DEFINITION. What an implementation fixes, and the free values: constants without a body, so that no proof can see them.
-/

namespace Sys2Proof.Config

/-- A value the spec leaves open: number n of the run (State.free counts them). Log entry 2. -/
opaque freeValue : Nat → Nat

/-- A byte the spec leaves undefined: draw n of the run, byte i of the undefined range. Log entry 2. -/
opaque freeByte : Nat → Nat → BitVec 8

/-- The correctly rounded value of a transcendental function where the model's enclosures do not decide it: function
code, FP32 bits of the operand. Log entry 9. -/
opaque undecidedRounding : Nat → Nat → Nat

/-- A die's characterised full-activity switched capacitance (R370): die, in µW per (V² · GHz). Log entry 12. -/
opaque fullActivity : Nat → Nat

/-- The planned voltage in mV that manufacturing characterised for a die at a mult it has not run and cannot
extrapolate (R367): die, mult. Log entry 12. -/
opaque plannedMv : Nat → Nat → Nat

/-- How the body of a management response lays out the values that R437 names for its code: code, values in the table's
order. The spec gives the content and no layout. Log entry 14. -/
opaque messageBody : Nat → List Nat → List (BitVec 8)

/-- The addr field of a response packet: the request's addr and seq. The spec says no value of it. Log entry 2. -/
opaque responseAddr : Nat → Nat → Nat

end Sys2Proof.Config
end

