-- ==== Sys2Proof/Machine/RegMap.lean ====
section
/-!
DEFINITION. The register map: every field of every register table of the spec, with its BAR0 offset, place, width,
reset value, type (R7) and, where the table lists reserved encodings, its permitted values (R6).
-/

namespace Sys2Proof.Machine

/-- The register type codes of R7. -/
inductive FieldType where
  | ro
  | rw
  | w1c
  | w1s
  | wo
  | rc
deriving DecidableEq, Repr

/-- A register field: BAR0 offset of its register, lowest bit, width, reset value, type, and the ranges of values
that are not reserved encodings (the empty list: every value). -/
structure Field where
  off : Nat
  lo : Nat
  width : Nat
  reset : Nat
  ty : FieldType
  legal : List (Nat × Nat)
deriving DecidableEq, Repr

/-- A register, or a family of registers at a stride: first offset, stride, number, size in bytes, and its fields. -/
structure RegSpec where
  base : Nat
  stride : Nat
  count : Nat
  bytes : Nat
  fields : Nat → List Field

namespace Reg

/-- HBM offset of the image, in 4 KiB units (02 R40). -/
def CHT_IMAGE_ADDR_addr : Field := ⟨0xB00000, 12, 33, 0, .rw, []⟩

/-- Image length in bytes (02 R40). -/
def CHT_IMAGE_LEN_len : Field := ⟨0xB00008, 0, 32, 0, .rw, []⟩

/-- An unload terminates the remaining tasks (02 R40). -/
def CHT_CTRL_force : Field := ⟨0xB00010, 2, 1, 0, .rw, []⟩

/-- Start an unload; clears when the state reaches NONE (02 R40). -/
def CHT_CTRL_unload : Field := ⟨0xB00010, 1, 1, 0, .w1s, []⟩

/-- Start a load; clears when the load ends (02 R40). -/
def CHT_CTRL_load : Field := ⟨0xB00010, 0, 1, 0, .w1s, []⟩

/-- Image byte offset of the failing field (02 R40). -/
def CHT_STATUS_fail_offset : Field := ⟨0xB00018, 32, 32, 0, .ro, []⟩

/-- Failure reason, as in R42 (02 R40). -/
def CHT_STATUS_reason : Field := ⟨0xB00018, 16, 8, 0, .ro, []⟩

/-- 0x00 OK or 0x0E CHART_INVALID for the last load (02 R40). -/
def CHT_STATUS_status : Field := ⟨0xB00018, 8, 8, 0, .ro, []⟩

/-- 0 NONE, 1 LOADING, 2 ACTIVE, 3 DRAINING (02 R40). -/
def CHT_STATUS_state : Field := ⟨0xB00018, 0, 2, 0, .ro, []⟩

/-- An unload reached NONE (02 R40). -/
def CHT_EVENT_unload_done : Field := ⟨0xB00020, 2, 1, 0, .w1c, []⟩

/-- A load was rejected (02 R40). -/
def CHT_EVENT_load_failed : Field := ⟨0xB00020, 1, 1, 0, .w1c, []⟩

/-- A load reached ACTIVE (02 R40). -/
def CHT_EVENT_load_done : Field := ⟨0xB00020, 0, 1, 0, .w1c, []⟩

/-- Serial of the active Chart (02 R40). -/
def CHT_SERIAL_serial : Field := ⟨0xB00028, 0, 64, 0, .ro, []⟩

/-- Tiles the module has retired (02 R40). -/
def CHT_RETIRED_MASK_retired : Field := ⟨0xB00030, 0, 64, 0, .ro, []⟩

/-- SHAKE256 prehash of the active Chart (8 words) (02 R40). -/
def CHT_DIGEST_digest : Field := ⟨0xB00040, 0, 512, 0, .ro, []⟩

/-- SHAKE256 over the common records of the active Chart, concatenated in image order (8 words) (02 R40). -/
def CHT_COMMON_DIGEST_digest : Field := ⟨0xB00080, 0, 512, 0, .ro, []⟩

/-- Fingerprint of the enrolled owner key; zero when no owner is enrolled (02 R40). -/
def CHT_OWNER_FP_fp : Field := ⟨0xB000C0, 0, 128, 0, .ro, []⟩

/-- Bell tick in reference cycles, 1–100,000; 0 and 100,001–131,071 are reserved encodings (03 R77). -/
def SCH_TICK_period : Field := ⟨0x100000, 0, 17, 100, .rw, [(1, 100000)]⟩

/-- Delay list 3 step is scale3_m1 + 1 ticks (03 R77). -/
def SCH_DELAY_SCALE_scale3_m1 : Field := ⟨0x100008, 48, 16, 4095, .rw, []⟩

/-- Delay list 2 (03 R77). -/
def SCH_DELAY_SCALE_scale2_m1 : Field := ⟨0x100008, 32, 16, 255, .rw, []⟩

/-- Delay list 1 (03 R77). -/
def SCH_DELAY_SCALE_scale1_m1 : Field := ⟨0x100008, 16, 16, 15, .rw, []⟩

/-- Delay list 0 (03 R77). -/
def SCH_DELAY_SCALE_scale0_m1 : Field := ⟨0x100008, 0, 16, 0, .rw, []⟩

/-- Selected ring ID (03 R77). -/
def SCH_RING_SEL_ring : Field := ⟨0x100010, 0, 15, 0, .rw, []⟩

/-- HBM offset of the ring, in 64-byte units (03 R77). -/
def SCH_RING_BASE_base : Field := ⟨0x100018, 6, 39, 0, .rw, []⟩

/-- 1 enables the ring (03 R77). -/
def SCH_RING_CFG_enable : Field := ⟨0x100020, 8, 1, 0, .rw, []⟩

/-- 6–20; other values are reserved encodings (03 R77). -/
def SCH_RING_CFG_log2_size : Field := ⟨0x100020, 0, 5, 6, .rw, [(6, 20)]⟩

/-- HBM offset of the completion queue, in 16-byte units (03 R77). -/
def SCH_RING_CQ_cq_base : Field := ⟨0x100028, 4, 41, 0, .rw, []⟩

/-- Entries taken (03 R77). -/
def SCH_RING_STATE_head : Field := ⟨0x100030, 32, 32, 0, .ro, []⟩

/-- 0 disabled, 1 idle, 2 running, 3 table full, 4 completion queue full, 5 fenced, 6 pending table full; 7 reserved (03 R77). -/
def SCH_RING_STATE_state : Field := ⟨0x100030, 0, 3, 0, .ro, []⟩

/-- Completion records written (03 R77). -/
def SCH_RING_TAILS_cq_tail : Field := ⟨0x100038, 32, 32, 0, .ro, []⟩

/-- Last accepted doorbell tail (03 R77). -/
def SCH_RING_TAILS_tail : Field := ⟨0x100038, 0, 32, 0, .ro, []⟩

/-- Highest live count since last read, 0–131,072 (03 R77). -/
def SCH_TABLE_USE_peak (n : Nat) : Field := ⟨0x100040 + 0x8 * n, 32, 18, 0, .rc, []⟩

/-- Live task entries, 0–131,072 (03 R77). -/
def SCH_TABLE_USE_live (n : Nat) : Field := ⟨0x100040 + 0x8 * n, 0, 18, 0, .ro, []⟩

/-- Pending-signal entries in use, 0–65,536 (03 R77). -/
def SCH_PENDING_USE_live : Field := ⟨0x100080, 0, 17, 0, .ro, []⟩

/-- Doorbells ignored under R64 and R391, and cq_head writes ignored under R66 (03 R77). -/
def SCH_CNT_DOORBELL_IGNORED : Field := ⟨0x100088, 0, 64, 0, .rc, []⟩

/-- Excess and misdirected signals under R55, R57 and R71 (03 R77). -/
def SCH_CNT_SIGNAL_EXCESS : Field := ⟨0x100090, 0, 64, 0, .rc, []⟩

/-- Speculative tasks committed (03 R77). -/
def SCH_CNT_SPEC_COMMIT : Field := ⟨0x100098, 0, 64, 0, .rc, []⟩

/-- Speculative tasks discarded (03 R77). -/
def SCH_CNT_SPEC_DISCARD : Field := ⟨0x1000A0, 0, 64, 0, .rc, []⟩

/-- Second runs under R72 (03 R77). -/
def SCH_CNT_SPEC_RERUN : Field := ⟨0x1000A8, 0, 64, 0, .rc, []⟩

/-- A ring enable was refused (03 R77). -/
def SCH_EVENT_ring_error : Field := ⟨0x1000B0, 2, 1, 0, .w1c, []⟩

/-- The pending-signal table filled (03 R77). -/
def SCH_EVENT_pending_full : Field := ⟨0x1000B0, 1, 1, 0, .w1c, []⟩

/-- A die's task table filled (03 R77). -/
def SCH_EVENT_table_full : Field := ⟨0x1000B0, 0, 1, 0, .w1c, []⟩

/-- 1 lets the T860 vary e under R90 (04 R102). -/
def MEM_BANK_CAP_adapt : Field := ⟨0x200000, 8, 1, 1, .rw, []⟩

/-- Highest cap exponent e, 3–5; 0–2 and 6–7 are reserved encodings (04 R102). -/
def MEM_BANK_CAP_limit : Field := ⟨0x200000, 0, 3, 5, .rw, [(3, 5)]⟩

/-- Current cap exponent e (04 R102). -/
def MEM_DIE_cap_exp (n : Nat) : Field := ⟨0x200008 + 0x8 * n, 32, 3, 3, .ro, []⟩

/-- Miss registers in use, 0–8,192 (04 R102). -/
def MEM_DIE_miss_live (n : Nat) : Field := ⟨0x200008 + 0x8 * n, 16, 14, 0, .ro, []⟩

/-- DMA tags in use, 0–4,096 (04 R102). -/
def MEM_DIE_tags_live (n : Nat) : Field := ⟨0x200008 + 0x8 * n, 0, 13, 0, .ro, []⟩

/-- Requests that found their bank at its cap (R88) (04 R102). -/
def MEM_CNT_HOT_BANK : Field := ⟨0x200048, 0, 64, 0, .rc, []⟩

/-- Reads attached to a miss register (R87) (04 R102). -/
def MEM_CNT_MERGED : Field := ⟨0x200050, 0, 64, 0, .rc, []⟩

/-- Stream blocks requested (04 R102). -/
def MEM_PF_ISSUED : Field := ⟨0x200058, 0, 64, 0, .rc, []⟩

/-- Blocks consumed after arrival (04 R102). -/
def MEM_PF_USED : Field := ⟨0x200060, 0, 64, 0, .rc, []⟩

/-- Blocks consumed while not yet arrived (R97) (04 R102). -/
def MEM_PF_LATE : Field := ⟨0x200068, 0, 64, 0, .rc, []⟩

/-- Blocks fetched and never consumed (R98) (04 R102). -/
def MEM_CNT_PREFETCH_DROPPED : Field := ⟨0x200070, 0, 64, 0, .rc, []⟩

/-- Stream blocks outside their bound (R96) (04 R102). -/
def MEM_CNT_INDEX_RANGE : Field := ⟨0x200078, 0, 64, 0, .rc, []⟩

/-- Suppressed accesses and descriptors (R99, R100) (04 R102). -/
def MEM_CNT_SPEC_FAULT_SUPPRESSED : Field := ⟨0x200080, 0, 64, 0, .rc, []⟩

/-- Codewords corrected by the outer code (04 R102). -/
def MEM_CNT_CE : Field := ⟨0x200088, 0, 64, 0, .rc, []⟩

/-- Codewords found uncorrectable (04 R102). -/
def MEM_CNT_UE : Field := ⟨0x200090, 0, 64, 0, .rc, []⟩

/-- DQ lane most recently marked failed (04 R102). -/
def MEM_LANE_last_lane (s : Nat) : Field := ⟨0x200098 + 0x8 * s, 16, 16, 0, .ro, []⟩

/-- Lanes marked failed on the stack (04 R102). -/
def MEM_LANE_failed (s : Nat) : Field := ⟨0x200098 + 0x8 * s, 0, 16, 0, .ro, []⟩

/-- Patrol scrub on (04 R102). -/
def MEM_SCRUB_CFG_enable : Field := ⟨0x200118, 8, 1, 1, .rw, []⟩

/-- Scrub period in hours, 1–24; 0 and 25–31 are reserved encodings (04 R102). -/
def MEM_SCRUB_CFG_period_h : Field := ⟨0x200118, 0, 5, 24, .rw, [(1, 24)]⟩

/-- Full passes completed since reset (04 R102). -/
def MEM_SCRUB_STATUS_passes : Field := ⟨0x200120, 32, 32, 0, .ro, []⟩

/-- Current pass in thousandths, 0–999 (04 R102). -/
def MEM_SCRUB_STATUS_progress : Field := ⟨0x200120, 0, 10, 0, .ro, []⟩

/-- Die of the stream (04 R102). -/
def MEM_STREAM_SEL_die : Field := ⟨0x200128, 8, 3, 0, .rw, []⟩

/-- Stream slot (04 R102). -/
def MEM_STREAM_SEL_slot : Field := ⟨0x200128, 0, 8, 0, .rw, []⟩

/-- The selected stream is open (04 R102). -/
def MEM_STREAM_STATE_open : Field := ⟨0x200130, 63, 1, 0, .ro, []⟩

/-- Current lookahead in blocks (04 R102). -/
def MEM_STREAM_STATE_depth : Field := ⟨0x200130, 48, 15, 0, .ro, []⟩

/-- Late blocks since open, saturating (04 R102). -/
def MEM_STREAM_STATE_late : Field := ⟨0x200130, 24, 24, 0, .ro, []⟩

/-- Blocks consumed since open, saturating (04 R102). -/
def MEM_STREAM_STATE_consumed : Field := ⟨0x200130, 0, 24, 0, .ro, []⟩

/-- A patrol pass completed (04 R102). -/
def MEM_EVENT_scrub_pass : Field := ⟨0x200138, 3, 1, 0, .w1c, []⟩

/-- A die's cap exponent rose (04 R102). -/
def MEM_EVENT_hot_bank : Field := ⟨0x200138, 2, 1, 0, .w1c, []⟩

/-- A lane was marked, or a third lane in one pseudo-channel failed (04 R102). -/
def MEM_EVENT_lane_failed : Field := ⟨0x200138, 1, 1, 0, .w1c, []⟩

/-- A codeword was found uncorrectable (04 R102). -/
def MEM_EVENT_uncorrectable : Field := ⟨0x200138, 0, 1, 0, .w1c, []⟩

/-- Remote gets in flight per die, 1–2,048; 0 and 2,049–4,095 are reserved encodings (05 R125). -/
def SND_CFG_remote_limit : Field := ⟨0x300000, 0, 12, 2048, .rw, [(1, 2048)]⟩

/-- A SAMPLE task runs on die n, n = 0–7 (05 R125). -/
def SND_DIE_busy (n : Nat) : Field := ⟨0x300008 + 0x8 * n, 63, 1, 0, .ro, []⟩

/-- Remote gets in flight (05 R125). -/
def SND_DIE_remote_live (n : Nat) : Field := ⟨0x300008 + 0x8 * n, 32, 12, 0, .ro, []⟩

/-- Keys in the on-die hash, 0–262,144 (05 R125). -/
def SND_DIE_hash_live (n : Nat) : Field := ⟨0x300008 + 0x8 * n, 0, 19, 0, .ro, []⟩

/-- SAMPLE tasks completed (05 R125). -/
def SND_CNT_TASKS : Field := ⟨0x300048, 0, 64, 0, .rc, []⟩

/-- Edges written to blocks (05 R125). -/
def SND_CNT_EDGES : Field := ⟨0x300050, 0, 64, 0, .rc, []⟩

/-- Repeated keys removed (R117) (05 R125). -/
def SND_CNT_DUP_NODES : Field := ⟨0x300058, 0, 64, 0, .rc, []⟩

/-- Seeds and neighbours at or above node_count (05 R125). -/
def SND_CNT_INDEX_RANGE : Field := ⟨0x300060, 0, 64, 0, .rc, []⟩

/-- Destinations cut (R117) (05 R125). -/
def SND_CNT_CAPPED : Field := ⟨0x300068, 0, 64, 0, .rc, []⟩

/-- Remote gets issued (05 R125). -/
def SND_CNT_REMOTE_GETS : Field := ⟨0x300070, 0, 64, 0, .rc, []⟩

/-- Bytes received by remote gets (05 R125). -/
def SND_CNT_REMOTE_BYTES : Field := ⟨0x300078, 0, 64, 0, .rc, []⟩

/-- Keys placed in spill buffers (R123) (05 R125). -/
def SND_CNT_SPILL : Field := ⟨0x300080, 0, 64, 0, .rc, []⟩

/-- A task used its spill buffer (05 R125). -/
def SND_EVENT_spill : Field := ⟨0x300088, 1, 1, 0, .w1c, []⟩

/-- A block was written with capped set (05 R125). -/
def SND_EVENT_capped : Field := ⟨0x300088, 0, 1, 0, .w1c, []⟩

/-- Overflows into format code f, f = 0–7 (07 R174). -/
def TEL_FMT_OVF (f : Nat) : Field := ⟨0x900000 + 0x8 * f, 0, 64, 0, .rc, []⟩

/-- Vanished values in format code f (07 R174). -/
def TEL_FMT_VANISH (f : Nat) : Field := ⟨0x900040 + 0x8 * f, 0, 64, 0, .rc, []⟩

/-- Non-finite blocks and inputs for format code f (07 R174). -/
def TEL_FMT_NONFINITE (f : Nat) : Field := ⟨0x900080 + 0x8 * f, 0, 64, 0, .rc, []⟩

/-- Instructions aborted under R162 (07 R174). -/
def TEL_CNT_SCALE_SKEW : Field := ⟨0x9000C0, 0, 64, 0, .rc, []⟩

/-- Elements rounded stochastically (07 R174). -/
def TEL_CNT_SR : Field := ⟨0x9000C8, 0, 64, 0, .rc, []⟩

/-- Largest permitted change of the window's largest scale byte (07 R174). -/
def TEL_DRIFT_CFG_shift_limit : Field := ⟨0x9000D0, 32, 8, 4, .rw, []⟩

/-- Vanished elements per 65,536 (07 R174). -/
def TEL_DRIFT_CFG_vanish_limit : Field := ⟨0x9000D0, 16, 16, 64, .rw, []⟩

/-- Blocks per window, 2^10–2^30; 0–9 and 31 are reserved encodings (07 R174). -/
def TEL_DRIFT_CFG_window_log2 : Field := ⟨0x9000D0, 8, 5, 20, .rw, [(10, 30)]⟩

/-- Drift watch on (07 R174). -/
def TEL_DRIFT_CFG_enable : Field := ⟨0x9000D0, 0, 1, 1, .rw, []⟩

/-- FP32 bits of the largest amax since last read (07 R174). -/
def TEL_AMAX_amax (k : Nat) : Field := ⟨0x9000D8 + 0x8 * k, 0, 32, 0, .rc, []⟩

/-- Largest scale byte of the last window (07 R174). -/
def TEL_DRIFT_STATUS_last_max (k : Nat) : Field := ⟨0x900100 + 0x8 * k, 40, 8, 0, .ro, []⟩

/-- Largest scale byte of the window before (07 R174). -/
def TEL_DRIFT_STATUS_prev_max (k : Nat) : Field := ⟨0x900100 + 0x8 * k, 32, 8, 0, .ro, []⟩

/-- Vanished elements per 65,536 in the last window, saturating (07 R174). -/
def TEL_DRIFT_STATUS_vanish_frac (k : Nat) : Field := ⟨0x900100 + 0x8 * k, 16, 16, 0, .ro, []⟩

/-- A window ended with the clamp cause (07 R174). -/
def TEL_DRIFT_STATUS_clamp (k : Nat) : Field := ⟨0x900100 + 0x8 * k, 2, 1, 0, .w1c, []⟩

/-- A window ended with the shift cause (07 R174). -/
def TEL_DRIFT_STATUS_shift (k : Nat) : Field := ⟨0x900100 + 0x8 * k, 1, 1, 0, .w1c, []⟩

/-- A window ended with the vanish cause (07 R174). -/
def TEL_DRIFT_STATUS_vanish (k : Nat) : Field := ⟨0x900100 + 0x8 * k, 0, 1, 0, .w1c, []⟩

/-- A block was scaled to 0xFF (07 R174). -/
def TEL_EVENT_nonfinite : Field := ⟨0x900128, 2, 1, 0, .w1c, []⟩

/-- An instruction aborted under R162 (07 R174). -/
def TEL_EVENT_scale_skew : Field := ⟨0x900128, 1, 1, 0, .w1c, []⟩

/-- A drift window ended with a cause set (07 R174). -/
def TEL_EVENT_calibration_drift : Field := ⟨0x900128, 0, 1, 0, .w1c, []⟩

/-- An EDGE task runs (08 R197). -/
def TIL_EDG_STATUS_busy (t : Nat) : Field := ⟨0xC03000 + 0x10000 * t, 63, 1, 0, .ro, []⟩

/-- Op of the running task; 0 when idle (08 R197). -/
def TIL_EDG_STATUS_op (t : Nat) : Field := ⟨0xC03000 + 0x10000 * t, 0, 8, 0, .ro, []⟩

/-- Elements accumulated or compared (08 R197). -/
def TIL_EDG_CNT_CONTRIB (t : Nat) : Field := ⟨0xC03008 + 0x10000 * t, 0, 64, 0, .rc, []⟩

/-- Edges, indices and value rows processed (08 R197). -/
def TIL_EDG_CNT_EDGES (t : Nat) : Field := ⟨0xC03010 + 0x10000 * t, 0, 64, 0, .rc, []⟩

/-- Entries dropped as INDEX_RANGE (08 R197). -/
def TIL_EDG_CNT_INDEX_RANGE (t : Nat) : Field := ⟨0xC03018 + 0x10000 * t, 0, 64, 0, .rc, []⟩

/-- Contributions truncated below the window (R179) (08 R197). -/
def TIL_EDG_CNT_WINDOW_UNDERFLOW (t : Nat) : Field := ⟨0xC03020 + 0x10000 * t, 0, 64, 0, .rc, []⟩

/-- Accumulators made invalid (R179, R183) (08 R197). -/
def TIL_EDG_CNT_ANCHOR_OVF (t : Nat) : Field := ⟨0xC03028 + 0x10000 * t, 0, 64, 0, .rc, []⟩

/-- Malformed or unbuffered segments (R180, R185) (08 R197). -/
def TIL_EDG_CNT_BAD_SEGMENT (t : Nat) : Field := ⟨0xC03030 + 0x10000 * t, 0, 64, 0, .rc, []⟩

/-- Segments and bags read twice (R180) (08 R197). -/
def TIL_EDG_CNT_REREAD (t : Nat) : Field := ⟨0xC03038 + 0x10000 * t, 0, 64, 0, .rc, []⟩

/-- Value rows joined to a touched target (R193) (08 R197). -/
def TIL_EDG_CNT_MERGED (t : Nat) : Field := ⟨0xC03040 + 0x10000 * t, 0, 64, 0, .rc, []⟩

/-- Descending positions in intersected lists (R195) (08 R197). -/
def TIL_EDG_CNT_UNSORTED (t : Nat) : Field := ⟨0xC03048 + 0x10000 * t, 0, 64, 0, .rc, []⟩

/-- Cycles with a task running (08 R197). -/
def TIL_EDG_CNT_BUSY (t : Nat) : Field := ⟨0xC03050 + 0x10000 * t, 0, 64, 0, .rc, []⟩

/-- Busy cycles with no operand available (08 R197). -/
def TIL_EDG_CNT_WAIT (t : Nat) : Field := ⟨0xC03058 + 0x10000 * t, 0, 64, 0, .rc, []⟩

/-- A segment was written under R180 or R185 (08 R197). -/
def TIL_EDG_EVENT_bad_segment (t : Nat) : Field := ⟨0xC03060 + 0x10000 * t, 1, 1, 0, .w1c, []⟩

/-- An accumulator was made invalid (08 R197). -/
def TIL_EDG_EVENT_anchor_ovf (t : Nat) : Field := ⟨0xC03060 + 0x10000 * t, 0, 1, 0, .w1c, []⟩

/-- Slot A holds a task (09 R219). -/
def TIL_ARR_STATUS_a_busy (t : Nat) : Field := ⟨0xC02000 + 0x10000 * t, 63, 1, 0, .ro, []⟩

/-- Slot B holds a task (09 R219). -/
def TIL_ARR_STATUS_b_busy (t : Nat) : Field := ⟨0xC02000 + 0x10000 * t, 62, 1, 0, .ro, []⟩

/-- The tile runs in a wide-and-shallow group (09 R219). -/
def TIL_ARR_STATUS_ws (t : Nat) : Field := ⟨0xC02000 + 0x10000 * t, 61, 1, 0, .ro, []⟩

/-- Drain rows reserved on slot B, 0–1,024 (09 R219). -/
def TIL_ARR_STATUS_drain_b (t : Nat) : Field := ⟨0xC02000 + 0x10000 * t, 16, 11, 0, .ro, []⟩

/-- Drain rows reserved on slot A, 0–1,024 (09 R219). -/
def TIL_ARR_STATUS_drain_a (t : Nat) : Field := ⟨0xC02000 + 0x10000 * t, 0, 11, 0, .ro, []⟩

/-- Array tasks completed, both slots (09 R219). -/
def TIL_ARR_CNT_TASKS (t : Nat) : Field := ⟨0xC02008 + 0x10000 * t, 0, 64, 0, .rc, []⟩

/-- MACs on slot A, counting logical MACs on the sparse array (09 R219). -/
def TIL_ARR_CNT_MAC_A (t : Nat) : Field := ⟨0xC02010 + 0x10000 * t, 0, 64, 0, .rc, []⟩

/-- MACs on slot B (09 R219). -/
def TIL_ARR_CNT_MAC_B (t : Nat) : Field := ⟨0xC02018 + 0x10000 * t, 0, 64, 0, .rc, []⟩

/-- Cycles with a pass streaming on slot A (09 R219). -/
def TIL_ARR_CNT_BUSY_A (t : Nat) : Field := ⟨0xC02020 + 0x10000 * t, 0, 64, 0, .rc, []⟩

/-- Cycles with a pass streaming on slot B (09 R219). -/
def TIL_ARR_CNT_BUSY_B (t : Nat) : Field := ⟨0xC02028 + 0x10000 * t, 0, 64, 0, .rc, []⟩

/-- Cycles beyond a task's own start-up in which it waited, under R206, both slots (09 R219). -/
def TIL_ARR_CNT_WAIT (t : Nat) : Field := ⟨0xC02030 + 0x10000 * t, 0, 64, 0, .rc, []⟩

/-- Block terms truncated below the window (R211) (09 R219). -/
def TIL_ARR_CNT_WINDOW_UNDERFLOW (t : Nat) : Field := ⟨0xC02038 + 0x10000 * t, 0, 64, 0, .rc, []⟩

/-- Output elements written as NaN or infinity (R213) (09 R219). -/
def TIL_ARR_CNT_NONFINITE (t : Nat) : Field := ⟨0xC02040 + 0x10000 * t, 0, 64, 0, .rc, []⟩

/-- Accumulators made invalid under R214 (09 R219). -/
def TIL_ARR_CNT_CARRY_MISMATCH (t : Nat) : Field := ⟨0xC02048 + 0x10000 * t, 0, 64, 0, .rc, []⟩

/-- Data tiles turned by the transposing buffer (09 R219). -/
def TIL_ARR_CNT_TRANSPOSED (t : Nat) : Field := ⟨0xC02050 + 0x10000 * t, 0, 64, 0, .rc, []⟩

/-- Passes run on the structured-sparse arrays (09 R219). -/
def TIL_ARR_CNT_SPARSE_TILES (t : Nat) : Field := ⟨0xC02058 + 0x10000 * t, 0, 64, 0, .rc, []⟩

/-- A carry record was rejected under R214 (09 R219). -/
def TIL_ARR_EVENT_carry_mismatch (t : Nat) : Field := ⟨0xC02060 + 0x10000 * t, 1, 1, 0, .w1c, []⟩

/-- An output element was written as NaN or infinity (09 R219). -/
def TIL_ARR_EVENT_nonfinite (t : Nat) : Field := ⟨0xC02060 + 0x10000 * t, 0, 1, 0, .w1c, []⟩

/-- Slots stored with dense 0 (10 R236). -/
def TIL_SPR_CNT_COMPRESSED (t : Nat) : Field := ⟨0xC05000 + 0x10000 * t, 0, 64, 0, .rc, []⟩

/-- Groups pruned under PRUNE (R226) (10 R236). -/
def TIL_SPR_CNT_PRUNED (t : Nat) : Field := ⟨0xC05008 + 0x10000 * t, 0, 64, 0, .rc, []⟩

/-- Slots stored with dense 1, either cause (10 R236). -/
def TIL_SPR_CNT_DENSE_FALLBACK (t : Nat) : Field := ⟨0xC05010 + 0x10000 * t, 0, 64, 0, .rc, []⟩

/-- Of those, slots stored dense under policy DENSE (10 R236). -/
def TIL_SPR_CNT_DENSE_POLICY (t : Nat) : Field := ⟨0xC05018 + 0x10000 * t, 0, 64, 0, .rc, []⟩

/-- Second values dropped under R231 (10 R236). -/
def TIL_SPR_CNT_DUP_INDEX (t : Nat) : Field := ⟨0xC05020 + 0x10000 * t, 0, 64, 0, .rc, []⟩

/-- Values dropped for rows beyond k_total (R231) (10 R236). -/
def TIL_SPR_CNT_INDEX_RANGE (t : Nat) : Field := ⟨0xC05028 + 0x10000 * t, 0, 64, 0, .rc, []⟩

/-- A metadata nibble held two equal indices (10 R236). -/
def TIL_SPR_EVENT_dup_index (t : Nat) : Field := ⟨0xC05030 + 0x10000 * t, 1, 1, 0, .w1c, []⟩

/-- A slot was stored dense under policy DENSE (10 R236). -/
def TIL_SPR_EVENT_dense_policy (t : Nat) : Field := ⟨0xC05030 + 0x10000 * t, 0, 1, 0, .w1c, []⟩

/-- A VECTOR task runs (11 R253). -/
def TIL_VEC_STATUS_busy (t : Nat) : Field := ⟨0xC04000 + 0x10000 * t, 63, 1, 0, .ro, []⟩

/-- Stage_mask of the running task; 0 when idle (11 R253). -/
def TIL_VEC_STATUS_stage_mask (t : Nat) : Field := ⟨0xC04000 + 0x10000 * t, 0, 8, 0, .ro, []⟩

/-- VECTOR tasks completed (11 R253). -/
def TIL_VEC_CNT_TASKS (t : Nat) : Field := ⟨0xC04008 + 0x10000 * t, 0, 64, 0, .rc, []⟩

/-- Chunks processed (11 R253). -/
def TIL_VEC_CNT_CHUNKS (t : Nat) : Field := ⟨0xC04010 + 0x10000 * t, 0, 64, 0, .rc, []⟩

/-- Cycles with a task running (11 R253). -/
def TIL_VEC_CNT_BUSY (t : Nat) : Field := ⟨0xC04018 + 0x10000 * t, 0, 64, 0, .rc, []⟩

/-- Busy cycles in which a stage occupied the lanes (11 R253). -/
def TIL_VEC_CNT_ISSUE (t : Nat) : Field := ⟨0xC04020 + 0x10000 * t, 0, 64, 0, .rc, []⟩

/-- Busy cycles waiting for operands (11 R253). -/
def TIL_VEC_CNT_WAIT_IN (t : Nat) : Field := ⟨0xC04028 + 0x10000 * t, 0, 64, 0, .rc, []⟩

/-- Busy cycles waiting to write outputs (11 R253). -/
def TIL_VEC_CNT_WAIT_OUT (t : Nat) : Field := ⟨0xC04030 + 0x10000 * t, 0, 64, 0, .rc, []⟩

/-- Lane-stages left inactive by masks (R241) (11 R253). -/
def TIL_VEC_CNT_INACTIVE (t : Nat) : Field := ⟨0xC04038 + 0x10000 * t, 0, 64, 0, .rc, []⟩

/-- A GRAD task holds the slots (12 R269). -/
def TIL_BWD_STATUS_busy (t : Nat) : Field := ⟨0xC06000 + 0x10000 * t, 63, 1, 0, .ro, []⟩

/-- Parts of the running task; 0 when idle (12 R269). -/
def TIL_BWD_STATUS_parts (t : Nat) : Field := ⟨0xC06000 + 0x10000 * t, 0, 2, 0, .ro, []⟩

/-- GRAD tasks completed (12 R269). -/
def TIL_BWD_CNT_TASKS (t : Nat) : Field := ⟨0xC06008 + 0x10000 * t, 0, 64, 0, .rc, []⟩

/-- G tiles read once and consumed (R262) (12 R269). -/
def TIL_BWD_CNT_G_TILES (t : Nat) : Field := ⟨0xC06010 + 0x10000 * t, 0, 64, 0, .rc, []⟩

/-- DW row blocks skipped, per column tile (R265) (12 R269). -/
def TIL_BWD_CNT_BLOCKS_MASKED (t : Nat) : Field := ⟨0xC06018 + 0x10000 * t, 0, 64, 0, .rc, []⟩

/-- DW rows not written, per column tile (R265) (12 R269). -/
def TIL_BWD_CNT_ROWS_MASKED (t : Nat) : Field := ⟨0xC06020 + 0x10000 * t, 0, 64, 0, .rc, []⟩

/-- Tiles above their summary bound (R261) (12 R269). -/
def TIL_BWD_CNT_SUMMARY_LOW (t : Nat) : Field := ⟨0xC06028 + 0x10000 * t, 0, 64, 0, .rc, []⟩

/-- Cycles the transposing buffer set the pace (R264) (12 R269). -/
def TIL_BWD_CNT_BUFFER_WAIT (t : Nat) : Field := ⟨0xC06030 + 0x10000 * t, 0, 64, 0, .rc, []⟩

/-- Output tiles were made invalid under R261 (12 R269). -/
def TIL_BWD_EVENT_summary_low (t : Nat) : Field := ⟨0xC06038 + 0x10000 * t, 0, 1, 0, .w1c, []⟩

/-- Accept a peer when the port has no record (R295) (13 R298). -/
def FAB_CFG_auto_accept_first : Field := ⟨0x400000, 48, 1, 0, .rw, []⟩

/-- Response timer in µs, 10–100,000; other values are reserved encodings (13 R298). -/
def FAB_CFG_resp_us : Field := ⟨0x400000, 24, 17, 1000, .rw, [(10, 100000)]⟩

/-- Packet-gap timer in µs, 1–10,000; 0 and 10,001–16,383 are reserved encodings (13 R298). -/
def FAB_CFG_gap_us : Field := ⟨0x400000, 0, 14, 20, .rw, [(1, 10000)]⟩

/-- Bit c: the link between coordinates c and (c + 1) mod k_d of this ring is a break (13 R298). -/
def FAB_BREAK_links (d : Nat) : Field := ⟨0x400010 + 0x8 * d, 0, 16, 0, .ro, []⟩

/-- Responses discarded under R293 (13 R298). -/
def FAB_CNT_STALE_RESP : Field := ⟨0x400030, 0, 64, 0, .rc, []⟩

/-- Requests ended by the response timer (R284) (13 R298). -/
def FAB_CNT_RESP_TIMEOUT : Field := ⟨0x400038, 0, 64, 0, .rc, []⟩

/-- Packets with no route (R280) (13 R298). -/
def FAB_CNT_UNREACHABLE : Field := ⟨0x400040, 0, 64, 0, .rc, []⟩

/-- Packets forwarded for other modules (13 R298). -/
def FAB_CNT_TRANSIT : Field := ⟨0x400048, 0, 64, 0, .rc, []⟩

/-- Packets discarded for a reserved op (R281), or for a reserved encoding, a bad length or a range beyond the result block or range in an EXACT_ACC packet (R308) (13 R298). -/
def FAB_CNT_BAD_HEADER : Field := ⟨0x400050, 0, 64, 0, .rc, []⟩

/-- Requests awaiting responses on XD1, 0–16,384 (13 R298). -/
def FAB_OUTSTANDING_xd1 : Field := ⟨0x400058, 32, 15, 0, .ro, []⟩

/-- Requests awaiting responses on XD0, 0–16,384 (13 R298). -/
def FAB_OUTSTANDING_xd0 : Field := ⟨0x400058, 0, 15, 0, .ro, []⟩

/-- A FAB_BREAK_d changed (13 R298). -/
def FAB_EVENT_break_changed : Field := ⟨0x400060, 4, 1, 0, .w1c, []⟩

/-- A link ended its Chart check in MGMT_ONLY (13 R298). -/
def FAB_EVENT_mgmt_only : Field := ⟨0x400060, 3, 1, 0, .w1c, []⟩

/-- A link became UP (13 R298). -/
def FAB_EVENT_link_up : Field := ⟨0x400060, 2, 1, 0, .w1c, []⟩

/-- A link went DOWN (13 R298). -/
def FAB_EVENT_link_down : Field := ⟨0x400060, 1, 1, 0, .w1c, []⟩

/-- PEER_CHANGED was posted (13 R298). -/
def FAB_EVENT_peer_changed : Field := ⟨0x400060, 0, 1, 0, .w1c, []⟩

/-- Accept the current peer (R295); clears when recorded (13 R298). -/
def FAB_P_CTRL_accept (p : Nat) : Field := ⟨0x401000 + 0x100 * p, 2, 1, 0, .w1s, []⟩

/-- Retrain the link; clears at step 1 of R294 (13 R298). -/
def FAB_P_CTRL_retrain (p : Nat) : Field := ⟨0x401000 + 0x100 * p, 1, 1, 0, .w1s, []⟩

/-- The port may train (13 R298). -/
def FAB_P_CTRL_enable (p : Nat) : Field := ⟨0x401000 + 0x100 * p, 0, 1, 1, .rw, []⟩

/-- Node ID the peer reported (13 R298). -/
def FAB_P_STATE_peer_node (p : Nat) : Field := ⟨0x401008 + 0x100 * p, 16, 16, 0, .ro, []⟩

/-- The link runs on lane 0 (R297) (13 R298). -/
def FAB_P_STATE_narrow (p : Nat) : Field := ⟨0x401008 + 0x100 * p, 8, 1, 0, .ro, []⟩

/-- 0 none, 1 peer_changed, 2 no_record, 3 signature, 4 chart_not_active, 5 system_mismatch, 6 digest_mismatch, 7 extent_one, 8 coord_mismatch, 9 retry_exhausted, 10 keepalive_lost; 11–15 reserved (13 R298). -/
def FAB_P_STATE_reason (p : Nat) : Field := ⟨0x401008 + 0x100 * p, 4, 4, 0, .ro, []⟩

/-- 0 DISABLED, 1 DOWN, 2 TRAINING, 3 IDENTITY, 4 QUARANTINE, 5 MGMT_ONLY, 6 UP; 7–15 reserved (13 R298). -/
def FAB_P_STATE_state (p : Nat) : Field := ⟨0x401008 + 0x100 * p, 0, 4, 1, .ro, []⟩

/-- Fingerprint from the last identity exchange (2 words) (13 R298). -/
def FAB_P_PEER_FP_fp (p : Nat) : Field := ⟨0x401010 + 0x100 * p, 0, 128, 0, .ro, []⟩

/-- Fingerprint accepted for the port; zero when none (2 words) (13 R298). -/
def FAB_P_ACCEPTED_FP_fp (p : Nat) : Field := ⟨0x401020 + 0x100 * p, 0, 128, 0, .ro, []⟩

/-- Flits discarded for CRC, FEC or reserved kind (13 R298). -/
def FAB_P_CNT_CRC (p : Nat) : Field := ⟨0x401030 + 0x100 * p, 0, 64, 0, .rc, []⟩

/-- Flits resent under R274 (13 R298). -/
def FAB_P_CNT_REPLAY (p : Nat) : Field := ⟨0x401038 + 0x100 * p, 0, 64, 0, .rc, []⟩

/-- Codewords corrected (13 R298). -/
def FAB_P_CNT_FEC_CORR (p : Nat) : Field := ⟨0x401040 + 0x100 * p, 0, 64, 0, .rc, []⟩

/-- Codewords uncorrectable (13 R298). -/
def FAB_P_CNT_FEC_UNCORR (p : Nat) : Field := ⟨0x401048 + 0x100 * p, 0, 64, 0, .rc, []⟩

/-- Trainings started (13 R298). -/
def FAB_P_CNT_RETRAIN (p : Nat) : Field := ⟨0x401050 + 0x100 * p, 0, 64, 0, .rc, []⟩

/-- Packets discarded by the gap timer (R292) (13 R298). -/
def FAB_P_CNT_TRUNC (p : Nat) : Field := ⟨0x401058 + 0x100 * p, 0, 64, 0, .rc, []⟩

/-- Data flits discarded under R293 (13 R298). -/
def FAB_P_CNT_ORPHAN (p : Nat) : Field := ⟨0x401060 + 0x100 * p, 0, 64, 0, .rc, []⟩

/-- Header and data flits sent (13 R298). -/
def FAB_P_CNT_TX (p : Nat) : Field := ⟨0x401068 + 0x100 * p, 0, 64, 0, .rc, []⟩

/-- Header and data flits accepted (13 R298). -/
def FAB_P_CNT_RX (p : Nat) : Field := ⟨0x401070 + 0x100 * p, 0, 64, 0, .rc, []⟩

/-- Combining entries in use, 0–4,096 (14 R320). -/
def COL_STATUS_combine_live : Field := ⟨0x500000, 32, 13, 0, .ro, []⟩

/-- Open and closed reductions held, 0–4,096 (14 R320). -/
def COL_STATUS_reductions : Field := ⟨0x500000, 0, 13, 0, .ro, []⟩

/-- 0x5253_4554 starts a system reset (R319) (14 R320). -/
def COL_SYSRESET_confirm : Field := ⟨0x500008, 0, 32, 0, .wo, []⟩

/-- Packets applied (R308) (14 R320). -/
def COL_CNT_CONTRIB : Field := ⟨0x500010, 0, 64, 0, .rc, []⟩

/-- Contribution elements applied (14 R320). -/
def COL_CNT_ELEMENTS : Field := ⟨0x500018, 0, 64, 0, .rc, []⟩

/-- Packets failing the arrival check (R304) (14 R320). -/
def COL_CNT_CSUM_ARRIVAL : Field := ⟨0x500020, 0, 64, 0, .rc, []⟩

/-- Blocks failing the close check (R304) (14 R320). -/
def COL_CNT_CSUM_CLOSE : Field := ⟨0x500028, 0, 64, 0, .rc, []⟩

/-- Second copies under REPEAT, and contributors out of range (14 R320). -/
def COL_CNT_DUPLICATE : Field := ⟨0x500030, 0, 64, 0, .rc, []⟩

/-- Second copies under BACKUP (14 R320). -/
def COL_CNT_BACKUP_DISCARDED : Field := ⟨0x500038, 0, 64, 0, .rc, []⟩

/-- Packets for closed reductions or other steps (14 R320). -/
def COL_CNT_LATE_ARRIVAL : Field := ⟨0x500040, 0, 64, 0, .rc, []⟩

/-- Packets matching no reduction (14 R320). -/
def COL_CNT_NOT_OPEN : Field := ⟨0x500048, 0, 64, 0, .rc, []⟩

/-- Packets refused for lack of pool entries (14 R320). -/
def COL_CNT_POOL_FULL : Field := ⟨0x500050, 0, 64, 0, .rc, []⟩

/-- Contribution elements whose entry was not cached (R307) (14 R320). -/
def COL_CNT_CACHE_MISS : Field := ⟨0x500058, 0, 64, 0, .rc, []⟩

/-- Cells made invalid (R299) (14 R320). -/
def COL_CNT_CELL_INVALID : Field := ⟨0x500060, 0, 64, 0, .rc, []⟩

/-- COLLECTIVE tasks ended with LATE (14 R320). -/
def COL_CNT_LATE : Field := ⟨0x500068, 0, 64, 0, .rc, []⟩

/-- BARRIER, BROADCAST and FIX tasks completed (14 R320). -/
def COL_CNT_GLOBAL_OPS : Field := ⟨0x500070, 0, 64, 0, .rc, []⟩

/-- A reset notice was received; kept only until the module's own reset (14 R320). -/
def COL_EVENT_sysreset_seen : Field := ⟨0x500078, 3, 1, 0, .w1c, []⟩

/-- A second copy arrived under REPEAT (14 R320). -/
def COL_EVENT_duplicate : Field := ⟨0x500078, 2, 1, 0, .w1c, []⟩

/-- A COLLECTIVE task ended with LATE (14 R320). -/
def COL_EVENT_late : Field := ⟨0x500078, 1, 1, 0, .w1c, []⟩

/-- A checksum failed at arrival or at close (14 R320). -/
def COL_EVENT_csum_mismatch : Field := ⟨0x500078, 0, 1, 0, .w1c, []⟩

/-- An UPDATE task runs on die n, n = 0–7 (15 R340). -/
def UPD_DIE_busy (n : Nat) : Field := ⟨0x600000 + 0x8 * n, 63, 1, 0, .ro, []⟩

/-- Op of the running task; 0 when idle (15 R340). -/
def UPD_DIE_op (n : Nat) : Field := ⟨0x600000 + 0x8 * n, 0, 8, 0, .ro, []⟩

/-- UPDATE tasks completed (15 R340). -/
def UPD_CNT_TASKS : Field := ⟨0x600040, 0, 64, 0, .rc, []⟩

/-- Elements updated by APPLY (15 R340). -/
def UPD_CNT_ELEMENTS : Field := ⟨0x600048, 0, 64, 0, .rc, []⟩

/-- Table rows updated (R331) (15 R340). -/
def UPD_CNT_ROWS : Field := ⟨0x600050, 0, 64, 0, .rc, []⟩

/-- Elements passed as frozen (R332) (15 R340). -/
def UPD_CNT_FROZEN : Field := ⟨0x600058, 0, 64, 0, .rc, []⟩

/-- Elements not updated, or written non-finite (R327, R329, R333) (15 R340). -/
def UPD_CNT_NONFINITE : Field := ⟨0x600060, 0, 64, 0, .rc, []⟩

/-- Step counts that saturated (R331) (15 R340). -/
def UPD_CNT_STEP_SAT : Field := ⟨0x600068, 0, 64, 0, .rc, []⟩

/-- Factor roots recomputed (R334) (15 R340). -/
def UPD_CNT_ROOT_TILES : Field := ⟨0x600070, 0, 64, 0, .rc, []⟩

/-- Roots returned as zero (R334) (15 R340). -/
def UPD_CNT_ROOT_FAIL : Field := ⟨0x600078, 0, 64, 0, .rc, []⟩

/-- Ratio watch on (R338) (15 R340). -/
def UPD_RATIO_CFG_enable : Field := ⟨0x600080, 32, 1, 0, .rw, []⟩

/-- FP32 ratio limit, 0.01 (15 R340). -/
def UPD_RATIO_CFG_limit : Field := ⟨0x600080, 0, 32, 0x3C23D70A, .rw, []⟩

/-- A step count saturated (15 R340). -/
def UPD_EVENT_step_sat : Field := ⟨0x600088, 2, 1, 0, .w1c, []⟩

/-- An APPLY met a non-finite norm, gradient or result (15 R340). -/
def UPD_EVENT_nonfinite : Field := ⟨0x600088, 1, 1, 0, .w1c, []⟩

/-- An APPLY's ratio exceeded limit (15 R340). -/
def UPD_EVENT_ratio_high : Field := ⟨0x600088, 0, 1, 0, .w1c, []⟩

/-- HBM offset of the log, in 64-byte units (16 R358). -/
def ERR_LOG_BASE_base : Field := ⟨0x800000, 6, 39, 0, .rw, []⟩

/-- Write records to the log; while 0, records are counted in ERR_CNT_LOST (16 R358). -/
def ERR_LOG_CFG_enable : Field := ⟨0x800008, 8, 1, 0, .rw, []⟩

/-- 6–16; other values are reserved encodings (16 R358). -/
def ERR_LOG_CFG_log2_entries : Field := ⟨0x800008, 0, 5, 10, .rw, [(6, 16)]⟩

/-- Free-running count of records you have consumed (16 R358). -/
def ERR_LOG_PTR_head : Field := ⟨0x800010, 32, 32, 0, .rw, []⟩

/-- Free-running count of records written (16 R358). -/
def ERR_LOG_PTR_tail : Field := ⟨0x800010, 0, 32, 0, .ro, []⟩

/-- Bit i: tasks of phase i run shadowed (R352) (16 R358). -/
def ERR_SHADOW_PHASES_mask : Field := ⟨0x800018, 0, 64, 0, .rw, []⟩

/-- Job for ERR_JOB_CTRL and ERR_JOB_STATE (16 R358). -/
def ERR_JOB_SEL_job_id : Field := ⟨0x800020, 0, 16, 0, .rw, []⟩

/-- Return a KILLED job to RUNNING (R347); clears when done (16 R358). -/
def ERR_JOB_CTRL_revive : Field := ⟨0x800028, 1, 1, 0, .w1s, []⟩

/-- Terminate the job (R346); clears at KILLED (16 R358). -/
def ERR_JOB_CTRL_kill : Field := ⟨0x800028, 0, 1, 0, .w1s, []⟩

/-- Status that caused termination; 0x0D for kill (16 R358). -/
def ERR_JOB_STATE_cause : Field := ⟨0x800030, 8, 8, 0, .ro, []⟩

/-- 0 ABSENT, 1 RUNNING, 2 TERMINATING, 3 KILLED (16 R358). -/
def ERR_JOB_STATE_state : Field := ⟨0x800030, 0, 2, 0, .ro, []⟩

/-- 4 bits per tile, saturating: parity errors and suspect verdicts since reset (16 R358). -/
def ERR_TILE_SUSPECT_counts (n : Nat) : Field := ⟨0x800038 + 0x8 * n, 0, 32, 0, .ro, []⟩

/-- SRAM words corrected (16 R358). -/
def ERR_CNT_SRAM_CE : Field := ⟨0x800078, 0, 64, 0, .rc, []⟩

/-- SRAM blocks found uncorrectable (16 R358). -/
def ERR_CNT_SRAM_UE : Field := ⟨0x800080, 0, 64, 0, .rc, []⟩

/-- Parity errors detected (16 R358). -/
def ERR_CNT_PARITY : Field := ⟨0x800088, 0, 64, 0, .rc, []⟩

/-- Tasks ended with POISON (16 R358). -/
def ERR_CNT_POISON_CONSUMED : Field := ⟨0x800090, 0, 64, 0, .rc, []⟩

/-- Replay attempts (R348) (16 R358). -/
def ERR_CNT_REPLAY : Field := ⟨0x800098, 0, 64, 0, .rc, []⟩

/-- Attempts on the same tile that succeeded (16 R358). -/
def ERR_CNT_REPLAY_TRANSIENT : Field := ⟨0x8000A0, 0, 64, 0, .rc, []⟩

/-- Shadowed tasks completed (16 R358). -/
def ERR_CNT_SHADOW : Field := ⟨0x8000A8, 0, 64, 0, .rc, []⟩

/-- Comparisons that differed (R353) (16 R358). -/
def ERR_CNT_SHADOW_MISMATCH : Field := ⟨0x8000B0, 0, 64, 0, .rc, []⟩

/-- Tasks not shadowed under R352 (16 R358). -/
def ERR_CNT_SHADOW_SKIPPED : Field := ⟨0x8000B8, 0, 64, 0, .rc, []⟩

/-- Terminations completed (16 R358). -/
def ERR_CNT_JOBS_KILLED : Field := ⟨0x8000C0, 0, 64, 0, .rc, []⟩

/-- Records not written (R357) (16 R358). -/
def ERR_CNT_LOST : Field := ⟨0x8000C8, 0, 64, 0, .rc, []⟩

/-- A record was lost (16 R358). -/
def ERR_EVENT_log_overflow : Field := ⟨0x8000D0, 4, 1, 0, .w1c, []⟩

/-- A tile was retired (16 R358). -/
def ERR_EVENT_tile_retired : Field := ⟨0x8000D0, 3, 1, 0, .w1c, []⟩

/-- A shadow comparison differed (16 R358). -/
def ERR_EVENT_shadow_mismatch : Field := ⟨0x8000D0, 2, 1, 0, .w1c, []⟩

/-- A job reached KILLED (16 R358). -/
def ERR_EVENT_job_killed : Field := ⟨0x8000D0, 1, 1, 0, .w1c, []⟩

/-- A record was written (16 R358). -/
def ERR_EVENT_error_logged : Field := ⟨0x8000D0, 0, 1, 0, .w1c, []⟩

/-- Cap in W, 0–2,800; 2,801–4,095 are reserved encodings (17 R385). -/
def PLT_CAP_cap_w : Field := ⟨0x700000, 0, 12, 2800, .rw, [(0, 2800)]⟩

/-- 22–66; other values are reserved encodings (17 R385). -/
def PLT_CTRL_fixed_mult : Field := ⟨0x700008, 8, 7, 66, .rw, [(22, 66)]⟩

/-- Fixed-frequency mode (R373) (17 R385). -/
def PLT_CTRL_fixed_freq : Field := ⟨0x700008, 2, 1, 0, .rw, []⟩

/-- Leave the anchor watch; clears when the wake completes (17 R385). -/
def PLT_CTRL_wake : Field := ⟨0x700008, 1, 1, 0, .w1s, []⟩

/-- Enter the anchor watch; clears at entry or refusal (17 R385). -/
def PLT_CTRL_anchor : Field := ⟨0x700008, 0, 1, 0, .w1s, []⟩

/-- Fixed_freq in effect at fixed_mult (17 R385). -/
def PLT_STATUS_fixed_held : Field := ⟨0x700010, 50, 1, 0, .ro, []⟩

/-- The module is in the anchor watch (17 R385). -/
def PLT_STATUS_anchor : Field := ⟨0x700010, 49, 1, 0, .ro, []⟩

/-- R371 (17 R385). -/
def PLT_STATUS_cap_unreachable : Field := ⟨0x700010, 48, 1, 0, .ro, []⟩

/-- Lowest die fmax (R378) (17 R385). -/
def PLT_STATUS_fmax_mult : Field := ⟨0x700010, 40, 8, 0, .ro, []⟩

/-- Budget in force (R368) (17 R385). -/
def PLT_STATUS_budget_w : Field := ⟨0x700010, 0, 12, 2800, .ro, []⟩

/-- Input voltage in 10 mV units (17 R385). -/
def PLT_POWER_vin : Field := ⟨0x700018, 32, 16, 0, .ro, []⟩

/-- Input power over the last interval, W (17 R385). -/
def PLT_POWER_pin_w : Field := ⟨0x700018, 0, 12, 0, .ro, []⟩

/-- Die power over the last interval, W (17 R385). -/
def PLT_DIE_p_w (n : Nat) : Field := ⟨0x700020 + 0x8 * n, 52, 12, 0, .ro, []⟩

/-- R369; 0 for I/O dies (17 R385). -/
def PLT_DIE_phase (n : Nat) : Field := ⟨0x700020 + 0x8 * n, 46, 6, 0, .ro, []⟩

/-- Current root multiplier (17 R385). -/
def PLT_DIE_mult (n : Nat) : Field := ⟨0x700020 + 0x8 * n, 39, 7, 66, .ro, []⟩

/-- G of R370; 64 for I/O dies (17 R385). -/
def PLT_DIE_gate (n : Nat) : Field := ⟨0x700020 + 0x8 * n, 32, 7, 64, .ro, []⟩

/-- Rail voltage, mV; after reset 700 for compute dies and 750 for I/O dies, the voltages that R362 sequences (17 R385). -/
def PLT_DIE_v_mv (n : Nat) : Field := ⟨0x700020 + 0x8 * n, 16, 16, (if n < 8 then 700 else 750), .ro, []⟩

/-- Hottest junction, °C (17 R385). -/
def PLT_DIE_tj (n : Nat) : Field := ⟨0x700020 + 0x8 * n, 8, 8, 0, .ro, []⟩

/-- Power of all stacks, W (17 R385). -/
def PLT_HBM_p_w : Field := ⟨0x700070, 0, 12, 0, .ro, []⟩

/-- Ring-oscillator slowdown (R377) (17 R385). -/
def PLT_AGE_drift_ppm (n : Nat) : Field := ⟨0x700078 + 0x8 * n, 32, 16, 0, .ro, []⟩

/-- Guardband, ps (17 R385). -/
def PLT_AGE_gb_ps (n : Nat) : Field := ⟨0x700078 + 0x8 * n, 16, 16, 0, .ro, []⟩

/-- Worst monitor slack, ps, two's complement (17 R385). -/
def PLT_AGE_slack_ps (n : Nat) : Field := ⟨0x700078 + 0x8 * n, 0, 16, 0, .ro, []⟩

/-- Highest planned voltage over the dies (17 R385). -/
def PLT_OPP_v_mv (i : Nat) : Field := ⟨0x700100 + 0x8 * i, 16, 16, 0, .ro, []⟩

/-- 22–72, non-descending (R366) (17 R385). -/
def PLT_OPP_mult (i : Nat) : Field := ⟨0x700100 + 0x8 * i, 0, 7, (min 72 (22 + i)), .rw, [(22, 72)]⟩

/-- Preferred entry (R372) (17 R385). -/
def PLT_PHASE_pref (p : Nat) : Field := ⟨0x700300 + 0x8 * p, 32, 8, 0, .ro, []⟩

/-- Learned die power at pref, W (17 R385). -/
def PLT_PHASE_est_w (p : Nat) : Field := ⟨0x700300 + 0x8 * p, 16, 16, 0, .ro, []⟩

/-- The Chart defines the phase (17 R385). -/
def PLT_PHASE_valid (p : Nat) : Field := ⟨0x700300 + 0x8 * p, 0, 1, 0, .ro, []⟩

/-- R_th, µK/W (17 R385). -/
def PLT_THERMAL_rth : Field := ⟨0x700500, 48, 16, 0, .ro, []⟩

/-- Coolant inlet, °C (17 R385). -/
def PLT_THERMAL_tin : Field := ⟨0x700500, 40, 8, 0, .ro, []⟩

/-- Hottest junction of the module, °C (17 R385). -/
def PLT_THERMAL_tj_max : Field := ⟨0x700500, 32, 8, 0, .ro, []⟩

/-- Thermal limit, W, saturating (17 R385). -/
def PLT_THERMAL_p_th_w : Field := ⟨0x700500, 20, 12, 2800, .ro, []⟩

/-- °C, 60–100; other values are reserved encodings (17 R385). -/
def PLT_THERMAL_tj_target : Field := ⟨0x700500, 0, 8, 90, .rw, [(60, 100)]⟩

/-- Job for PLT_JOB_ENERGY (17 R385). -/
def PLT_JOB_SEL_job_id : Field := ⟨0x700508, 0, 16, 0, .rw, []⟩

/-- Energy of the selected job, mJ (R380) (17 R385). -/
def PLT_JOB_ENERGY_mj : Field := ⟨0x700510, 0, 64, 0, .ro, []⟩

/-- Unattributed energy, mJ (17 R385). -/
def PLT_UNATTRIBUTED_mj : Field := ⟨0x700518, 0, 64, 0, .ro, []⟩

/-- Cycles stretched (R375) (17 R385). -/
def PLT_CNT_STRETCH : Field := ⟨0x700520, 0, 64, 0, .rc, []⟩

/-- Intervals with g below 64 (17 R385). -/
def PLT_CNT_GATE : Field := ⟨0x700528, 0, 64, 0, .rc, []⟩

/-- Intervals in which a rail limit acted (R361) (17 R385). -/
def PLT_CNT_RAIL_LIMIT : Field := ⟨0x700530, 0, 64, 0, .rc, []⟩

/-- Requests answered with TRUNC (R383) (17 R385). -/
def PLT_CNT_WAKE_REFUSED : Field := ⟨0x700538, 0, 64, 0, .rc, []⟩

/-- Fixed-frequency mode yielded to the budget (17 R385). -/
def PLT_EVENT_fixed_lost : Field := ⟨0x700540, 6, 1, 0, .w1c, []⟩

/-- Input below 40 V (17 R385). -/
def PLT_EVENT_input_low : Field := ⟨0x700540, 5, 1, 0, .w1c, []⟩

/-- The thermal limit fell below the cap (17 R385). -/
def PLT_EVENT_thermal_limit : Field := ⟨0x700540, 4, 1, 0, .w1c, []⟩

/-- A die's fmax fell (17 R385). -/
def PLT_EVENT_fmax_reduced : Field := ⟨0x700540, 3, 1, 0, .w1c, []⟩

/-- A wake completed (17 R385). -/
def PLT_EVENT_anchor_exit : Field := ⟨0x700540, 2, 1, 0, .w1c, []⟩

/-- Anchor watch entry refused (17 R385). -/
def PLT_EVENT_anchor_refused : Field := ⟨0x700540, 1, 1, 0, .w1c, []⟩

/-- CAP_UNREACHABLE was posted (17 R385). -/
def PLT_EVENT_cap_unreachable : Field := ⟨0x700540, 0, 1, 0, .w1c, []⟩

/-- Device ID (18 R401). -/
def DEV_ID_device : Field := ⟨0x0, 16, 16, 0x0860, .ro, []⟩

/-- Silicon stepping (18 R401). -/
def DEV_ID_stepping : Field := ⟨0x0, 8, 8, 0, .ro, []⟩

/-- Running firmware major version (18 R401). -/
def DEV_ID_fw_major : Field := ⟨0x0, 0, 8, 0, .ro, []⟩

/-- Offered features (R392), 4 words (18 R401). -/
def DEV_FEAT_OFFER_offer : Field := ⟨0x10, 0, 256, 0, .ro, []⟩

/-- Accepted features (R393), 4 words (18 R401). -/
def DEV_FEAT_ACCEPT_accept : Field := ⟨0x30, 0, 256, 0, .rw, []⟩

/-- An accepted set is in effect (18 R401). -/
def DEV_FEAT_CTRL_committed : Field := ⟨0x50, 1, 1, 0, .ro, []⟩

/-- Check and apply DEV_FEAT_ACCEPT; clears when done (18 R401). -/
def DEV_FEAT_CTRL_commit : Field := ⟨0x50, 0, 1, 0, .w1s, []⟩

/-- HBM offset of BAR2 offset 0, in 1 GiB units (18 R401). -/
def DEV_BAR2_BASE_base : Field := ⟨0x58, 30, 10, 0, .rw, []⟩

/-- 0x4D52_5354 starts a module reset; other values are ignored (18 R401). -/
def DEV_RESET_confirm : Field := ⟨0x60, 0, 32, 0, .wo, []⟩

/-- FLIT mode in use (18 R401). -/
def DEV_LINK_flit : Field := ⟨0x68, 8, 1, 0, .ro, []⟩

/-- 1 x1, 4 x4, 8 x8, 0xF x16 (18 R401). -/
def DEV_LINK_width : Field := ⟨0x68, 4, 4, 0, .ro, []⟩

/-- 1 2.5, 4 8, 5 16, 6 32, 7 64 GT/s (18 R401). -/
def DEV_LINK_speed : Field := ⟨0x68, 0, 4, 0, .ro, []⟩

/-- HBM offset of the event ring, in 32-byte units (18 R401). -/
def DEV_EVQ_BASE_base : Field := ⟨0x70, 5, 40, 0, .rw, []⟩

/-- Write records to the ring (18 R401). -/
def DEV_EVQ_CFG_enable : Field := ⟨0x78, 8, 1, 0, .rw, []⟩

/-- 6–16; other values are reserved encodings (18 R401). -/
def DEV_EVQ_CFG_log2_size : Field := ⟨0x78, 0, 5, 10, .rw, [(6, 16)]⟩

/-- Free-running count of records you have consumed (18 R401). -/
def DEV_EVQ_PTR_head : Field := ⟨0x80, 32, 32, 0, .rw, []⟩

/-- Free-running count of records written (18 R401). -/
def DEV_EVQ_PTR_tail : Field := ⟨0x80, 0, 32, 0, .ro, []⟩

/-- Ring for DEV_RING_VEC (18 R401). -/
def DEV_RING_VEC_SEL_ring : Field := ⟨0x88, 0, 15, 0, .rw, []⟩

/-- 1–2,047; 0 is a reserved encoding (18 R401). -/
def DEV_RING_VEC_vector : Field := ⟨0x90, 0, 11, 1, .rw, [(1, 2047)]⟩

/-- Per-vector holdoff in µs; 0 means none (18 R401). -/
def DEV_MSIX_MOD_holdoff_us : Field := ⟨0x98, 0, 16, 0, .rw, []⟩

/-- Event records not written (R396) (18 R401). -/
def DEV_CNT_EVENT_LOST : Field := ⟨0xA0, 0, 64, 0, .rc, []⟩

/-- BAR0 accesses discarded (R389); head writes ignored and enable writes refused (R357, R396) (18 R401). -/
def DEV_CNT_BAD_ACCESS : Field := ⟨0xA8, 0, 64, 0, .rc, []⟩

/-- HOST_DMA tasks failed under R399 (18 R401). -/
def DEV_CNT_HOSTTIMEOUT : Field := ⟨0xB0, 0, 64, 0, .rc, []⟩

/-- An event record was lost (18 R401). -/
def DEV_EVENT_event_lost : Field := ⟨0xB8, 2, 1, 0, .w1c, []⟩

/-- The link's rate or width changed (18 R401). -/
def DEV_EVENT_link_changed : Field := ⟨0xB8, 1, 1, 0, .w1c, []⟩

/-- A commit was refused (18 R401). -/
def DEV_EVENT_feat_rejected : Field := ⟨0xB8, 0, 1, 0, .w1c, []⟩

/-- Reason of the last failed update (R405) (19 R421). -/
def SEC_STATUS_upd_reason : Field := ⟨0xA00000, 40, 8, 0, .ro, []⟩

/-- 0 IDLE, 1 BUSY, 2 DONE, 3 FAILED (19 R421). -/
def SEC_STATUS_upd_state : Field := ⟨0xA00000, 36, 2, 0, .ro, []⟩

/-- Reason that entered RECOVERY (19 R421). -/
def SEC_STATUS_reason : Field := ⟨0xA00000, 16, 8, 0, .ro, []⟩

/-- R412 (19 R421). -/
def SEC_STATUS_identity_valid : Field := ⟨0xA00000, 8, 1, 0, .ro, []⟩

/-- 0 BOOTING, 1 RUNNING, 2 RECOVERY; 3 reserved (19 R421). -/
def SEC_STATUS_state : Field := ⟨0xA00000, 0, 2, 0, .ro, []⟩

/-- R406; clears when done (19 R421). -/
def SEC_CTRL_commit_svn : Field := ⟨0xA00008, 3, 1, 0, .w1s, []⟩

/-- R407; clears when upd_state leaves BUSY (19 R421). -/
def SEC_CTRL_update : Field := ⟨0xA00008, 2, 1, 0, .w1s, []⟩

/-- R409; acts only in RECOVERY (19 R421). -/
def SEC_CTRL_recover : Field := ⟨0xA00008, 1, 1, 0, .w1s, []⟩

/-- HBM offset of an update image, in 4 KiB units (19 R421). -/
def SEC_IMAGE_ADDR_addr : Field := ⟨0xA00010, 12, 33, 0, .rw, []⟩

/-- Image length in bytes (19 R421). -/
def SEC_IMAGE_LEN_len : Field := ⟨0xA00018, 0, 32, 0, .rw, []⟩

/-- Monotonic counter (19 R421). -/
def SEC_SVN_counter : Field := ⟨0xA00020, 32, 32, 0, .ro, []⟩

/-- Running svn; 0 in recovery (19 R421). -/
def SEC_SVN_svn : Field := ⟨0xA00020, 0, 32, 0, .ro, []⟩

/-- Identity fingerprint (2 words) (19 R421). -/
def SEC_ID_FP_fp : Field := ⟨0xA00030, 0, 128, 0, .ro, []⟩

/-- Measurement register Mi, i = 0–5 (8 words) (19 R421). -/
def SEC_MEAS_value (i : Nat) : Field := ⟨0xA00040 + 0x40 * i, 0, 512, 0, .ro, []⟩

/-- An owner was enrolled or released (19 R421). -/
def SEC_EVENT_owner_changed : Field := ⟨0xA001C0, 3, 1, 0, .w1c, []⟩

/-- An update was written (19 R421). -/
def SEC_EVENT_update_done : Field := ⟨0xA001C0, 2, 1, 0, .w1c, []⟩

/-- An update was refused (19 R421). -/
def SEC_EVENT_update_failed : Field := ⟨0xA001C0, 1, 1, 0, .w1c, []⟩

/-- R412 (19 R421). -/
def SEC_EVENT_identity_invalid : Field := ⟨0xA001C0, 0, 1, 0, .w1c, []⟩

end Reg

/-- The registers of 02 R40. -/
def chtRegs : List RegSpec :=
  [
    ⟨0xB00000, 0x0, 1, 8, fun _ => [Reg.CHT_IMAGE_ADDR_addr]⟩,
    ⟨0xB00008, 0x0, 1, 8, fun _ => [Reg.CHT_IMAGE_LEN_len]⟩,
    ⟨0xB00010, 0x0, 1, 8, fun _ => [Reg.CHT_CTRL_force, Reg.CHT_CTRL_unload, Reg.CHT_CTRL_load]⟩,
    ⟨0xB00018, 0x0, 1, 8, fun _ => [Reg.CHT_STATUS_fail_offset, Reg.CHT_STATUS_reason, Reg.CHT_STATUS_status, Reg.CHT_STATUS_state]⟩,
    ⟨0xB00020, 0x0, 1, 8, fun _ => [Reg.CHT_EVENT_unload_done, Reg.CHT_EVENT_load_failed, Reg.CHT_EVENT_load_done]⟩,
    ⟨0xB00028, 0x0, 1, 8, fun _ => [Reg.CHT_SERIAL_serial]⟩,
    ⟨0xB00030, 0x0, 1, 8, fun _ => [Reg.CHT_RETIRED_MASK_retired]⟩,
    ⟨0xB00040, 0x0, 1, 64, fun _ => [Reg.CHT_DIGEST_digest]⟩,
    ⟨0xB00080, 0x0, 1, 64, fun _ => [Reg.CHT_COMMON_DIGEST_digest]⟩,
    ⟨0xB000C0, 0x0, 1, 16, fun _ => [Reg.CHT_OWNER_FP_fp]⟩]

/-- The registers of 03 R77. -/
def schRegs : List RegSpec :=
  [
    ⟨0x100000, 0x0, 1, 8, fun _ => [Reg.SCH_TICK_period]⟩,
    ⟨0x100008, 0x0, 1, 8, fun _ => [Reg.SCH_DELAY_SCALE_scale3_m1, Reg.SCH_DELAY_SCALE_scale2_m1, Reg.SCH_DELAY_SCALE_scale1_m1, Reg.SCH_DELAY_SCALE_scale0_m1]⟩,
    ⟨0x100010, 0x0, 1, 8, fun _ => [Reg.SCH_RING_SEL_ring]⟩,
    ⟨0x100018, 0x0, 1, 8, fun _ => [Reg.SCH_RING_BASE_base]⟩,
    ⟨0x100020, 0x0, 1, 8, fun _ => [Reg.SCH_RING_CFG_enable, Reg.SCH_RING_CFG_log2_size]⟩,
    ⟨0x100028, 0x0, 1, 8, fun _ => [Reg.SCH_RING_CQ_cq_base]⟩,
    ⟨0x100030, 0x0, 1, 8, fun _ => [Reg.SCH_RING_STATE_head, Reg.SCH_RING_STATE_state]⟩,
    ⟨0x100038, 0x0, 1, 8, fun _ => [Reg.SCH_RING_TAILS_cq_tail, Reg.SCH_RING_TAILS_tail]⟩,
    ⟨0x100040, 0x8, 8, 8, fun i => [Reg.SCH_TABLE_USE_peak i, Reg.SCH_TABLE_USE_live i]⟩,
    ⟨0x100080, 0x0, 1, 8, fun _ => [Reg.SCH_PENDING_USE_live]⟩,
    ⟨0x100088, 0x0, 1, 8, fun _ => [Reg.SCH_CNT_DOORBELL_IGNORED]⟩,
    ⟨0x100090, 0x0, 1, 8, fun _ => [Reg.SCH_CNT_SIGNAL_EXCESS]⟩,
    ⟨0x100098, 0x0, 1, 8, fun _ => [Reg.SCH_CNT_SPEC_COMMIT]⟩,
    ⟨0x1000A0, 0x0, 1, 8, fun _ => [Reg.SCH_CNT_SPEC_DISCARD]⟩,
    ⟨0x1000A8, 0x0, 1, 8, fun _ => [Reg.SCH_CNT_SPEC_RERUN]⟩,
    ⟨0x1000B0, 0x0, 1, 8, fun _ => [Reg.SCH_EVENT_ring_error, Reg.SCH_EVENT_pending_full, Reg.SCH_EVENT_table_full]⟩]

/-- The registers of 04 R102. -/
def memRegs : List RegSpec :=
  [
    ⟨0x200000, 0x0, 1, 8, fun _ => [Reg.MEM_BANK_CAP_adapt, Reg.MEM_BANK_CAP_limit]⟩,
    ⟨0x200008, 0x8, 8, 8, fun i => [Reg.MEM_DIE_cap_exp i, Reg.MEM_DIE_miss_live i, Reg.MEM_DIE_tags_live i]⟩,
    ⟨0x200048, 0x0, 1, 8, fun _ => [Reg.MEM_CNT_HOT_BANK]⟩,
    ⟨0x200050, 0x0, 1, 8, fun _ => [Reg.MEM_CNT_MERGED]⟩,
    ⟨0x200058, 0x0, 1, 8, fun _ => [Reg.MEM_PF_ISSUED]⟩,
    ⟨0x200060, 0x0, 1, 8, fun _ => [Reg.MEM_PF_USED]⟩,
    ⟨0x200068, 0x0, 1, 8, fun _ => [Reg.MEM_PF_LATE]⟩,
    ⟨0x200070, 0x0, 1, 8, fun _ => [Reg.MEM_CNT_PREFETCH_DROPPED]⟩,
    ⟨0x200078, 0x0, 1, 8, fun _ => [Reg.MEM_CNT_INDEX_RANGE]⟩,
    ⟨0x200080, 0x0, 1, 8, fun _ => [Reg.MEM_CNT_SPEC_FAULT_SUPPRESSED]⟩,
    ⟨0x200088, 0x0, 1, 8, fun _ => [Reg.MEM_CNT_CE]⟩,
    ⟨0x200090, 0x0, 1, 8, fun _ => [Reg.MEM_CNT_UE]⟩,
    ⟨0x200098, 0x8, 16, 8, fun i => [Reg.MEM_LANE_last_lane i, Reg.MEM_LANE_failed i]⟩,
    ⟨0x200118, 0x0, 1, 8, fun _ => [Reg.MEM_SCRUB_CFG_enable, Reg.MEM_SCRUB_CFG_period_h]⟩,
    ⟨0x200120, 0x0, 1, 8, fun _ => [Reg.MEM_SCRUB_STATUS_passes, Reg.MEM_SCRUB_STATUS_progress]⟩,
    ⟨0x200128, 0x0, 1, 8, fun _ => [Reg.MEM_STREAM_SEL_die, Reg.MEM_STREAM_SEL_slot]⟩,
    ⟨0x200130, 0x0, 1, 8, fun _ => [Reg.MEM_STREAM_STATE_open, Reg.MEM_STREAM_STATE_depth, Reg.MEM_STREAM_STATE_late, Reg.MEM_STREAM_STATE_consumed]⟩,
    ⟨0x200138, 0x0, 1, 8, fun _ => [Reg.MEM_EVENT_scrub_pass, Reg.MEM_EVENT_hot_bank, Reg.MEM_EVENT_lane_failed, Reg.MEM_EVENT_uncorrectable]⟩]

/-- The registers of 05 R125. -/
def sndRegs : List RegSpec :=
  [
    ⟨0x300000, 0x0, 1, 8, fun _ => [Reg.SND_CFG_remote_limit]⟩,
    ⟨0x300008, 0x8, 8, 8, fun i => [Reg.SND_DIE_busy i, Reg.SND_DIE_remote_live i, Reg.SND_DIE_hash_live i]⟩,
    ⟨0x300048, 0x0, 1, 8, fun _ => [Reg.SND_CNT_TASKS]⟩,
    ⟨0x300050, 0x0, 1, 8, fun _ => [Reg.SND_CNT_EDGES]⟩,
    ⟨0x300058, 0x0, 1, 8, fun _ => [Reg.SND_CNT_DUP_NODES]⟩,
    ⟨0x300060, 0x0, 1, 8, fun _ => [Reg.SND_CNT_INDEX_RANGE]⟩,
    ⟨0x300068, 0x0, 1, 8, fun _ => [Reg.SND_CNT_CAPPED]⟩,
    ⟨0x300070, 0x0, 1, 8, fun _ => [Reg.SND_CNT_REMOTE_GETS]⟩,
    ⟨0x300078, 0x0, 1, 8, fun _ => [Reg.SND_CNT_REMOTE_BYTES]⟩,
    ⟨0x300080, 0x0, 1, 8, fun _ => [Reg.SND_CNT_SPILL]⟩,
    ⟨0x300088, 0x0, 1, 8, fun _ => [Reg.SND_EVENT_spill, Reg.SND_EVENT_capped]⟩]

/-- The registers of 07 R174. -/
def telRegs : List RegSpec :=
  [
    ⟨0x900000, 0x8, 8, 8, fun i => [Reg.TEL_FMT_OVF i]⟩,
    ⟨0x900040, 0x8, 8, 8, fun i => [Reg.TEL_FMT_VANISH i]⟩,
    ⟨0x900080, 0x8, 8, 8, fun i => [Reg.TEL_FMT_NONFINITE i]⟩,
    ⟨0x9000C0, 0x0, 1, 8, fun _ => [Reg.TEL_CNT_SCALE_SKEW]⟩,
    ⟨0x9000C8, 0x0, 1, 8, fun _ => [Reg.TEL_CNT_SR]⟩,
    ⟨0x9000D0, 0x0, 1, 8, fun _ => [Reg.TEL_DRIFT_CFG_shift_limit, Reg.TEL_DRIFT_CFG_vanish_limit, Reg.TEL_DRIFT_CFG_window_log2, Reg.TEL_DRIFT_CFG_enable]⟩,
    ⟨0x9000D8, 0x8, 5, 8, fun i => [Reg.TEL_AMAX_amax i]⟩,
    ⟨0x900100, 0x8, 5, 8, fun i => [Reg.TEL_DRIFT_STATUS_last_max i, Reg.TEL_DRIFT_STATUS_prev_max i, Reg.TEL_DRIFT_STATUS_vanish_frac i, Reg.TEL_DRIFT_STATUS_clamp i, Reg.TEL_DRIFT_STATUS_shift i, Reg.TEL_DRIFT_STATUS_vanish i]⟩,
    ⟨0x900128, 0x0, 1, 8, fun _ => [Reg.TEL_EVENT_nonfinite, Reg.TEL_EVENT_scale_skew, Reg.TEL_EVENT_calibration_drift]⟩]

/-- The registers of 08 R197. -/
def edgRegs : List RegSpec :=
  [
    ⟨0xC03000, 0x10000, 64, 8, fun i => [Reg.TIL_EDG_STATUS_busy i, Reg.TIL_EDG_STATUS_op i]⟩,
    ⟨0xC03008, 0x10000, 64, 8, fun i => [Reg.TIL_EDG_CNT_CONTRIB i]⟩,
    ⟨0xC03010, 0x10000, 64, 8, fun i => [Reg.TIL_EDG_CNT_EDGES i]⟩,
    ⟨0xC03018, 0x10000, 64, 8, fun i => [Reg.TIL_EDG_CNT_INDEX_RANGE i]⟩,
    ⟨0xC03020, 0x10000, 64, 8, fun i => [Reg.TIL_EDG_CNT_WINDOW_UNDERFLOW i]⟩,
    ⟨0xC03028, 0x10000, 64, 8, fun i => [Reg.TIL_EDG_CNT_ANCHOR_OVF i]⟩,
    ⟨0xC03030, 0x10000, 64, 8, fun i => [Reg.TIL_EDG_CNT_BAD_SEGMENT i]⟩,
    ⟨0xC03038, 0x10000, 64, 8, fun i => [Reg.TIL_EDG_CNT_REREAD i]⟩,
    ⟨0xC03040, 0x10000, 64, 8, fun i => [Reg.TIL_EDG_CNT_MERGED i]⟩,
    ⟨0xC03048, 0x10000, 64, 8, fun i => [Reg.TIL_EDG_CNT_UNSORTED i]⟩,
    ⟨0xC03050, 0x10000, 64, 8, fun i => [Reg.TIL_EDG_CNT_BUSY i]⟩,
    ⟨0xC03058, 0x10000, 64, 8, fun i => [Reg.TIL_EDG_CNT_WAIT i]⟩,
    ⟨0xC03060, 0x10000, 64, 8, fun i => [Reg.TIL_EDG_EVENT_bad_segment i, Reg.TIL_EDG_EVENT_anchor_ovf i]⟩]

/-- The registers of 09 R219. -/
def arrRegs : List RegSpec :=
  [
    ⟨0xC02000, 0x10000, 64, 8, fun i => [Reg.TIL_ARR_STATUS_a_busy i, Reg.TIL_ARR_STATUS_b_busy i, Reg.TIL_ARR_STATUS_ws i, Reg.TIL_ARR_STATUS_drain_b i, Reg.TIL_ARR_STATUS_drain_a i]⟩,
    ⟨0xC02008, 0x10000, 64, 8, fun i => [Reg.TIL_ARR_CNT_TASKS i]⟩,
    ⟨0xC02010, 0x10000, 64, 8, fun i => [Reg.TIL_ARR_CNT_MAC_A i]⟩,
    ⟨0xC02018, 0x10000, 64, 8, fun i => [Reg.TIL_ARR_CNT_MAC_B i]⟩,
    ⟨0xC02020, 0x10000, 64, 8, fun i => [Reg.TIL_ARR_CNT_BUSY_A i]⟩,
    ⟨0xC02028, 0x10000, 64, 8, fun i => [Reg.TIL_ARR_CNT_BUSY_B i]⟩,
    ⟨0xC02030, 0x10000, 64, 8, fun i => [Reg.TIL_ARR_CNT_WAIT i]⟩,
    ⟨0xC02038, 0x10000, 64, 8, fun i => [Reg.TIL_ARR_CNT_WINDOW_UNDERFLOW i]⟩,
    ⟨0xC02040, 0x10000, 64, 8, fun i => [Reg.TIL_ARR_CNT_NONFINITE i]⟩,
    ⟨0xC02048, 0x10000, 64, 8, fun i => [Reg.TIL_ARR_CNT_CARRY_MISMATCH i]⟩,
    ⟨0xC02050, 0x10000, 64, 8, fun i => [Reg.TIL_ARR_CNT_TRANSPOSED i]⟩,
    ⟨0xC02058, 0x10000, 64, 8, fun i => [Reg.TIL_ARR_CNT_SPARSE_TILES i]⟩,
    ⟨0xC02060, 0x10000, 64, 8, fun i => [Reg.TIL_ARR_EVENT_carry_mismatch i, Reg.TIL_ARR_EVENT_nonfinite i]⟩]

/-- The registers of 10 R236. -/
def sprRegs : List RegSpec :=
  [
    ⟨0xC05000, 0x10000, 64, 8, fun i => [Reg.TIL_SPR_CNT_COMPRESSED i]⟩,
    ⟨0xC05008, 0x10000, 64, 8, fun i => [Reg.TIL_SPR_CNT_PRUNED i]⟩,
    ⟨0xC05010, 0x10000, 64, 8, fun i => [Reg.TIL_SPR_CNT_DENSE_FALLBACK i]⟩,
    ⟨0xC05018, 0x10000, 64, 8, fun i => [Reg.TIL_SPR_CNT_DENSE_POLICY i]⟩,
    ⟨0xC05020, 0x10000, 64, 8, fun i => [Reg.TIL_SPR_CNT_DUP_INDEX i]⟩,
    ⟨0xC05028, 0x10000, 64, 8, fun i => [Reg.TIL_SPR_CNT_INDEX_RANGE i]⟩,
    ⟨0xC05030, 0x10000, 64, 8, fun i => [Reg.TIL_SPR_EVENT_dup_index i, Reg.TIL_SPR_EVENT_dense_policy i]⟩]

/-- The registers of 11 R253. -/
def vecRegs : List RegSpec :=
  [
    ⟨0xC04000, 0x10000, 64, 8, fun i => [Reg.TIL_VEC_STATUS_busy i, Reg.TIL_VEC_STATUS_stage_mask i]⟩,
    ⟨0xC04008, 0x10000, 64, 8, fun i => [Reg.TIL_VEC_CNT_TASKS i]⟩,
    ⟨0xC04010, 0x10000, 64, 8, fun i => [Reg.TIL_VEC_CNT_CHUNKS i]⟩,
    ⟨0xC04018, 0x10000, 64, 8, fun i => [Reg.TIL_VEC_CNT_BUSY i]⟩,
    ⟨0xC04020, 0x10000, 64, 8, fun i => [Reg.TIL_VEC_CNT_ISSUE i]⟩,
    ⟨0xC04028, 0x10000, 64, 8, fun i => [Reg.TIL_VEC_CNT_WAIT_IN i]⟩,
    ⟨0xC04030, 0x10000, 64, 8, fun i => [Reg.TIL_VEC_CNT_WAIT_OUT i]⟩,
    ⟨0xC04038, 0x10000, 64, 8, fun i => [Reg.TIL_VEC_CNT_INACTIVE i]⟩]

/-- The registers of 12 R269. -/
def bwdRegs : List RegSpec :=
  [
    ⟨0xC06000, 0x10000, 64, 8, fun i => [Reg.TIL_BWD_STATUS_busy i, Reg.TIL_BWD_STATUS_parts i]⟩,
    ⟨0xC06008, 0x10000, 64, 8, fun i => [Reg.TIL_BWD_CNT_TASKS i]⟩,
    ⟨0xC06010, 0x10000, 64, 8, fun i => [Reg.TIL_BWD_CNT_G_TILES i]⟩,
    ⟨0xC06018, 0x10000, 64, 8, fun i => [Reg.TIL_BWD_CNT_BLOCKS_MASKED i]⟩,
    ⟨0xC06020, 0x10000, 64, 8, fun i => [Reg.TIL_BWD_CNT_ROWS_MASKED i]⟩,
    ⟨0xC06028, 0x10000, 64, 8, fun i => [Reg.TIL_BWD_CNT_SUMMARY_LOW i]⟩,
    ⟨0xC06030, 0x10000, 64, 8, fun i => [Reg.TIL_BWD_CNT_BUFFER_WAIT i]⟩,
    ⟨0xC06038, 0x10000, 64, 8, fun i => [Reg.TIL_BWD_EVENT_summary_low i]⟩]

/-- The registers of 13 R298. -/
def fabRegs : List RegSpec :=
  [
    ⟨0x400000, 0x0, 1, 8, fun _ => [Reg.FAB_CFG_auto_accept_first, Reg.FAB_CFG_resp_us, Reg.FAB_CFG_gap_us]⟩,
    ⟨0x400010, 0x8, 4, 8, fun i => [Reg.FAB_BREAK_links i]⟩,
    ⟨0x400030, 0x0, 1, 8, fun _ => [Reg.FAB_CNT_STALE_RESP]⟩,
    ⟨0x400038, 0x0, 1, 8, fun _ => [Reg.FAB_CNT_RESP_TIMEOUT]⟩,
    ⟨0x400040, 0x0, 1, 8, fun _ => [Reg.FAB_CNT_UNREACHABLE]⟩,
    ⟨0x400048, 0x0, 1, 8, fun _ => [Reg.FAB_CNT_TRANSIT]⟩,
    ⟨0x400050, 0x0, 1, 8, fun _ => [Reg.FAB_CNT_BAD_HEADER]⟩,
    ⟨0x400058, 0x0, 1, 8, fun _ => [Reg.FAB_OUTSTANDING_xd1, Reg.FAB_OUTSTANDING_xd0]⟩,
    ⟨0x400060, 0x0, 1, 8, fun _ => [Reg.FAB_EVENT_break_changed, Reg.FAB_EVENT_mgmt_only, Reg.FAB_EVENT_link_up, Reg.FAB_EVENT_link_down, Reg.FAB_EVENT_peer_changed]⟩,
    ⟨0x401000, 0x100, 8, 8, fun i => [Reg.FAB_P_CTRL_accept i, Reg.FAB_P_CTRL_retrain i, Reg.FAB_P_CTRL_enable i]⟩,
    ⟨0x401008, 0x100, 8, 8, fun i => [Reg.FAB_P_STATE_peer_node i, Reg.FAB_P_STATE_narrow i, Reg.FAB_P_STATE_reason i, Reg.FAB_P_STATE_state i]⟩,
    ⟨0x401010, 0x100, 8, 16, fun i => [Reg.FAB_P_PEER_FP_fp i]⟩,
    ⟨0x401020, 0x100, 8, 16, fun i => [Reg.FAB_P_ACCEPTED_FP_fp i]⟩,
    ⟨0x401030, 0x100, 8, 8, fun i => [Reg.FAB_P_CNT_CRC i]⟩,
    ⟨0x401038, 0x100, 8, 8, fun i => [Reg.FAB_P_CNT_REPLAY i]⟩,
    ⟨0x401040, 0x100, 8, 8, fun i => [Reg.FAB_P_CNT_FEC_CORR i]⟩,
    ⟨0x401048, 0x100, 8, 8, fun i => [Reg.FAB_P_CNT_FEC_UNCORR i]⟩,
    ⟨0x401050, 0x100, 8, 8, fun i => [Reg.FAB_P_CNT_RETRAIN i]⟩,
    ⟨0x401058, 0x100, 8, 8, fun i => [Reg.FAB_P_CNT_TRUNC i]⟩,
    ⟨0x401060, 0x100, 8, 8, fun i => [Reg.FAB_P_CNT_ORPHAN i]⟩,
    ⟨0x401068, 0x100, 8, 8, fun i => [Reg.FAB_P_CNT_TX i]⟩,
    ⟨0x401070, 0x100, 8, 8, fun i => [Reg.FAB_P_CNT_RX i]⟩]

/-- The registers of 14 R320. -/
def colRegs : List RegSpec :=
  [
    ⟨0x500000, 0x0, 1, 8, fun _ => [Reg.COL_STATUS_combine_live, Reg.COL_STATUS_reductions]⟩,
    ⟨0x500008, 0x0, 1, 8, fun _ => [Reg.COL_SYSRESET_confirm]⟩,
    ⟨0x500010, 0x0, 1, 8, fun _ => [Reg.COL_CNT_CONTRIB]⟩,
    ⟨0x500018, 0x0, 1, 8, fun _ => [Reg.COL_CNT_ELEMENTS]⟩,
    ⟨0x500020, 0x0, 1, 8, fun _ => [Reg.COL_CNT_CSUM_ARRIVAL]⟩,
    ⟨0x500028, 0x0, 1, 8, fun _ => [Reg.COL_CNT_CSUM_CLOSE]⟩,
    ⟨0x500030, 0x0, 1, 8, fun _ => [Reg.COL_CNT_DUPLICATE]⟩,
    ⟨0x500038, 0x0, 1, 8, fun _ => [Reg.COL_CNT_BACKUP_DISCARDED]⟩,
    ⟨0x500040, 0x0, 1, 8, fun _ => [Reg.COL_CNT_LATE_ARRIVAL]⟩,
    ⟨0x500048, 0x0, 1, 8, fun _ => [Reg.COL_CNT_NOT_OPEN]⟩,
    ⟨0x500050, 0x0, 1, 8, fun _ => [Reg.COL_CNT_POOL_FULL]⟩,
    ⟨0x500058, 0x0, 1, 8, fun _ => [Reg.COL_CNT_CACHE_MISS]⟩,
    ⟨0x500060, 0x0, 1, 8, fun _ => [Reg.COL_CNT_CELL_INVALID]⟩,
    ⟨0x500068, 0x0, 1, 8, fun _ => [Reg.COL_CNT_LATE]⟩,
    ⟨0x500070, 0x0, 1, 8, fun _ => [Reg.COL_CNT_GLOBAL_OPS]⟩,
    ⟨0x500078, 0x0, 1, 8, fun _ => [Reg.COL_EVENT_sysreset_seen, Reg.COL_EVENT_duplicate, Reg.COL_EVENT_late, Reg.COL_EVENT_csum_mismatch]⟩]

/-- The registers of 15 R340. -/
def updRegs : List RegSpec :=
  [
    ⟨0x600000, 0x8, 8, 8, fun i => [Reg.UPD_DIE_busy i, Reg.UPD_DIE_op i]⟩,
    ⟨0x600040, 0x0, 1, 8, fun _ => [Reg.UPD_CNT_TASKS]⟩,
    ⟨0x600048, 0x0, 1, 8, fun _ => [Reg.UPD_CNT_ELEMENTS]⟩,
    ⟨0x600050, 0x0, 1, 8, fun _ => [Reg.UPD_CNT_ROWS]⟩,
    ⟨0x600058, 0x0, 1, 8, fun _ => [Reg.UPD_CNT_FROZEN]⟩,
    ⟨0x600060, 0x0, 1, 8, fun _ => [Reg.UPD_CNT_NONFINITE]⟩,
    ⟨0x600068, 0x0, 1, 8, fun _ => [Reg.UPD_CNT_STEP_SAT]⟩,
    ⟨0x600070, 0x0, 1, 8, fun _ => [Reg.UPD_CNT_ROOT_TILES]⟩,
    ⟨0x600078, 0x0, 1, 8, fun _ => [Reg.UPD_CNT_ROOT_FAIL]⟩,
    ⟨0x600080, 0x0, 1, 8, fun _ => [Reg.UPD_RATIO_CFG_enable, Reg.UPD_RATIO_CFG_limit]⟩,
    ⟨0x600088, 0x0, 1, 8, fun _ => [Reg.UPD_EVENT_step_sat, Reg.UPD_EVENT_nonfinite, Reg.UPD_EVENT_ratio_high]⟩]

/-- The registers of 16 R358. -/
def errRegs : List RegSpec :=
  [
    ⟨0x800000, 0x0, 1, 8, fun _ => [Reg.ERR_LOG_BASE_base]⟩,
    ⟨0x800008, 0x0, 1, 8, fun _ => [Reg.ERR_LOG_CFG_enable, Reg.ERR_LOG_CFG_log2_entries]⟩,
    ⟨0x800010, 0x0, 1, 8, fun _ => [Reg.ERR_LOG_PTR_head, Reg.ERR_LOG_PTR_tail]⟩,
    ⟨0x800018, 0x0, 1, 8, fun _ => [Reg.ERR_SHADOW_PHASES_mask]⟩,
    ⟨0x800020, 0x0, 1, 8, fun _ => [Reg.ERR_JOB_SEL_job_id]⟩,
    ⟨0x800028, 0x0, 1, 8, fun _ => [Reg.ERR_JOB_CTRL_revive, Reg.ERR_JOB_CTRL_kill]⟩,
    ⟨0x800030, 0x0, 1, 8, fun _ => [Reg.ERR_JOB_STATE_cause, Reg.ERR_JOB_STATE_state]⟩,
    ⟨0x800038, 0x8, 8, 8, fun i => [Reg.ERR_TILE_SUSPECT_counts i]⟩,
    ⟨0x800078, 0x0, 1, 8, fun _ => [Reg.ERR_CNT_SRAM_CE]⟩,
    ⟨0x800080, 0x0, 1, 8, fun _ => [Reg.ERR_CNT_SRAM_UE]⟩,
    ⟨0x800088, 0x0, 1, 8, fun _ => [Reg.ERR_CNT_PARITY]⟩,
    ⟨0x800090, 0x0, 1, 8, fun _ => [Reg.ERR_CNT_POISON_CONSUMED]⟩,
    ⟨0x800098, 0x0, 1, 8, fun _ => [Reg.ERR_CNT_REPLAY]⟩,
    ⟨0x8000A0, 0x0, 1, 8, fun _ => [Reg.ERR_CNT_REPLAY_TRANSIENT]⟩,
    ⟨0x8000A8, 0x0, 1, 8, fun _ => [Reg.ERR_CNT_SHADOW]⟩,
    ⟨0x8000B0, 0x0, 1, 8, fun _ => [Reg.ERR_CNT_SHADOW_MISMATCH]⟩,
    ⟨0x8000B8, 0x0, 1, 8, fun _ => [Reg.ERR_CNT_SHADOW_SKIPPED]⟩,
    ⟨0x8000C0, 0x0, 1, 8, fun _ => [Reg.ERR_CNT_JOBS_KILLED]⟩,
    ⟨0x8000C8, 0x0, 1, 8, fun _ => [Reg.ERR_CNT_LOST]⟩,
    ⟨0x8000D0, 0x0, 1, 8, fun _ => [Reg.ERR_EVENT_log_overflow, Reg.ERR_EVENT_tile_retired, Reg.ERR_EVENT_shadow_mismatch, Reg.ERR_EVENT_job_killed, Reg.ERR_EVENT_error_logged]⟩]

/-- The registers of 17 R385. -/
def pltRegs : List RegSpec :=
  [
    ⟨0x700000, 0x0, 1, 8, fun _ => [Reg.PLT_CAP_cap_w]⟩,
    ⟨0x700008, 0x0, 1, 8, fun _ => [Reg.PLT_CTRL_fixed_mult, Reg.PLT_CTRL_fixed_freq, Reg.PLT_CTRL_wake, Reg.PLT_CTRL_anchor]⟩,
    ⟨0x700010, 0x0, 1, 8, fun _ => [Reg.PLT_STATUS_fixed_held, Reg.PLT_STATUS_anchor, Reg.PLT_STATUS_cap_unreachable, Reg.PLT_STATUS_fmax_mult, Reg.PLT_STATUS_budget_w]⟩,
    ⟨0x700018, 0x0, 1, 8, fun _ => [Reg.PLT_POWER_vin, Reg.PLT_POWER_pin_w]⟩,
    ⟨0x700020, 0x8, 10, 8, fun i => [Reg.PLT_DIE_p_w i, Reg.PLT_DIE_phase i, Reg.PLT_DIE_mult i, Reg.PLT_DIE_gate i, Reg.PLT_DIE_v_mv i, Reg.PLT_DIE_tj i]⟩,
    ⟨0x700070, 0x0, 1, 8, fun _ => [Reg.PLT_HBM_p_w]⟩,
    ⟨0x700078, 0x8, 8, 8, fun i => [Reg.PLT_AGE_drift_ppm i, Reg.PLT_AGE_gb_ps i, Reg.PLT_AGE_slack_ps i]⟩,
    ⟨0x700100, 0x8, 64, 8, fun i => [Reg.PLT_OPP_v_mv i, Reg.PLT_OPP_mult i]⟩,
    ⟨0x700300, 0x8, 64, 8, fun i => [Reg.PLT_PHASE_pref i, Reg.PLT_PHASE_est_w i, Reg.PLT_PHASE_valid i]⟩,
    ⟨0x700500, 0x0, 1, 8, fun _ => [Reg.PLT_THERMAL_rth, Reg.PLT_THERMAL_tin, Reg.PLT_THERMAL_tj_max, Reg.PLT_THERMAL_p_th_w, Reg.PLT_THERMAL_tj_target]⟩,
    ⟨0x700508, 0x0, 1, 8, fun _ => [Reg.PLT_JOB_SEL_job_id]⟩,
    ⟨0x700510, 0x0, 1, 8, fun _ => [Reg.PLT_JOB_ENERGY_mj]⟩,
    ⟨0x700518, 0x0, 1, 8, fun _ => [Reg.PLT_UNATTRIBUTED_mj]⟩,
    ⟨0x700520, 0x0, 1, 8, fun _ => [Reg.PLT_CNT_STRETCH]⟩,
    ⟨0x700528, 0x0, 1, 8, fun _ => [Reg.PLT_CNT_GATE]⟩,
    ⟨0x700530, 0x0, 1, 8, fun _ => [Reg.PLT_CNT_RAIL_LIMIT]⟩,
    ⟨0x700538, 0x0, 1, 8, fun _ => [Reg.PLT_CNT_WAKE_REFUSED]⟩,
    ⟨0x700540, 0x0, 1, 8, fun _ => [Reg.PLT_EVENT_fixed_lost, Reg.PLT_EVENT_input_low, Reg.PLT_EVENT_thermal_limit, Reg.PLT_EVENT_fmax_reduced, Reg.PLT_EVENT_anchor_exit, Reg.PLT_EVENT_anchor_refused, Reg.PLT_EVENT_cap_unreachable]⟩]

/-- The registers of 18 R401. -/
def devRegs : List RegSpec :=
  [
    ⟨0x0, 0x0, 1, 8, fun _ => [Reg.DEV_ID_device, Reg.DEV_ID_stepping, Reg.DEV_ID_fw_major]⟩,
    ⟨0x10, 0x0, 1, 32, fun _ => [Reg.DEV_FEAT_OFFER_offer]⟩,
    ⟨0x30, 0x0, 1, 32, fun _ => [Reg.DEV_FEAT_ACCEPT_accept]⟩,
    ⟨0x50, 0x0, 1, 8, fun _ => [Reg.DEV_FEAT_CTRL_committed, Reg.DEV_FEAT_CTRL_commit]⟩,
    ⟨0x58, 0x0, 1, 8, fun _ => [Reg.DEV_BAR2_BASE_base]⟩,
    ⟨0x60, 0x0, 1, 8, fun _ => [Reg.DEV_RESET_confirm]⟩,
    ⟨0x68, 0x0, 1, 8, fun _ => [Reg.DEV_LINK_flit, Reg.DEV_LINK_width, Reg.DEV_LINK_speed]⟩,
    ⟨0x70, 0x0, 1, 8, fun _ => [Reg.DEV_EVQ_BASE_base]⟩,
    ⟨0x78, 0x0, 1, 8, fun _ => [Reg.DEV_EVQ_CFG_enable, Reg.DEV_EVQ_CFG_log2_size]⟩,
    ⟨0x80, 0x0, 1, 8, fun _ => [Reg.DEV_EVQ_PTR_head, Reg.DEV_EVQ_PTR_tail]⟩,
    ⟨0x88, 0x0, 1, 8, fun _ => [Reg.DEV_RING_VEC_SEL_ring]⟩,
    ⟨0x90, 0x0, 1, 8, fun _ => [Reg.DEV_RING_VEC_vector]⟩,
    ⟨0x98, 0x0, 1, 8, fun _ => [Reg.DEV_MSIX_MOD_holdoff_us]⟩,
    ⟨0xA0, 0x0, 1, 8, fun _ => [Reg.DEV_CNT_EVENT_LOST]⟩,
    ⟨0xA8, 0x0, 1, 8, fun _ => [Reg.DEV_CNT_BAD_ACCESS]⟩,
    ⟨0xB0, 0x0, 1, 8, fun _ => [Reg.DEV_CNT_HOSTTIMEOUT]⟩,
    ⟨0xB8, 0x0, 1, 8, fun _ => [Reg.DEV_EVENT_event_lost, Reg.DEV_EVENT_link_changed, Reg.DEV_EVENT_feat_rejected]⟩]

/-- The registers of 19 R421. -/
def secRegs : List RegSpec :=
  [
    ⟨0xA00000, 0x0, 1, 8, fun _ => [Reg.SEC_STATUS_upd_reason, Reg.SEC_STATUS_upd_state, Reg.SEC_STATUS_reason, Reg.SEC_STATUS_identity_valid, Reg.SEC_STATUS_state]⟩,
    ⟨0xA00008, 0x0, 1, 8, fun _ => [Reg.SEC_CTRL_commit_svn, Reg.SEC_CTRL_update, Reg.SEC_CTRL_recover]⟩,
    ⟨0xA00010, 0x0, 1, 8, fun _ => [Reg.SEC_IMAGE_ADDR_addr]⟩,
    ⟨0xA00018, 0x0, 1, 8, fun _ => [Reg.SEC_IMAGE_LEN_len]⟩,
    ⟨0xA00020, 0x0, 1, 8, fun _ => [Reg.SEC_SVN_counter, Reg.SEC_SVN_svn]⟩,
    ⟨0xA00030, 0x0, 1, 16, fun _ => [Reg.SEC_ID_FP_fp]⟩,
    ⟨0xA00040, 0x40, 6, 64, fun i => [Reg.SEC_MEAS_value i]⟩,
    ⟨0xA001C0, 0x0, 1, 8, fun _ => [Reg.SEC_EVENT_owner_changed, Reg.SEC_EVENT_update_done, Reg.SEC_EVENT_update_failed, Reg.SEC_EVENT_identity_invalid]⟩]

/-- The registers of one tile window (09 R219, 08 R197, 11 R253, 10 R236, 12 R269). -/
def tileRegs : List RegSpec := edgRegs ++ arrRegs ++ sprRegs ++ vecRegs ++ bwdRegs

/-- The registers of the block that a BAR0 offset lies in: 1 MiB per block, the tile windows from 0x00C0_0000. -/
def blockRegs (off : Nat) : List RegSpec :=
  match off / 0x100000 with
  | 0 => devRegs
  | 1 => schRegs
  | 2 => memRegs
  | 3 => sndRegs
  | 4 => fabRegs
  | 5 => colRegs
  | 6 => updRegs
  | 7 => pltRegs
  | 8 => errRegs
  | 9 => telRegs
  | 10 => secRegs
  | 11 => chtRegs
  | 12 | 13 | 14 | 15 => tileRegs
  | _ => []

/-- The index of the register of a family whose bytes hold an offset. -/
def RegSpec.indexAt (r : RegSpec) (off : Nat) : Option Nat :=
  if off < r.base then none
  else if r.stride = 0 then (if off < r.base + r.bytes then some 0 else none)
  else
    let i := (off - r.base) / r.stride
    if i < r.count ∧ off < r.base + r.stride * i + r.bytes then some i else none

/-- The fields of the register that holds an offset; none for an unused offset (R389). -/
def fieldsAt (off : Nat) : List Field :=
  ((blockRegs off).filterMap fun r => (r.indexAt off).map r.fields).flatten

/-- The largest value of a field, plus one. -/
def Field.bound (f : Field) : Nat := 2 ^ f.width

/-- R6: a value is a reserved encoding of a field when its permitted ranges leave it out. -/
def Field.permits (f : Field) (v : Nat) : Bool :=
  f.legal.isEmpty || f.legal.any fun r => decide (r.1 ≤ v ∧ v ≤ r.2)

end Sys2Proof.Machine
end

