-- ==== Sys2Proof/Machine/State.lean ====
section
/-!
DEFINITION. The state of the block: plain data, every piece of state the spec gives the module, its value right after
reset, and the reasons a step can stop.
-/

namespace Sys2Proof.Machine

/-- Why a step stops with a fault. -/
inductive Fault where
  /-- A command names a die, tile, port, ring, stack, vector, entry or I/O die that the module does not have (R13, R63,
  R366, R394), or carries a list of the wrong length. Every command can raise it. Safe: no hardware accepts it. -/
  | noSuchUnit
deriving DecidableEq, Repr

/-- Why a step has no meaning. -/
inductive Refusal where
  /-- A command whose meaning has not been written. Safe. -/
  | notModelled (mnemonic : String)
deriving DecidableEq, Repr

/-! ### Memory -/

/-- HBM and tile stores. A key is the low 48 bits of a global address: space in bits 47:45, offset below (R21, R22).
Space 3 is backed by HBM (R80) and space 2 is never reached (R23), so keys name space 0 and space 1 bytes.
The cells are strictly rising and hold no zero byte; the poisoned blocks (key / 64) are strictly rising (R85). -/
structure Memory where
  cells : List Host.Cell
  poison : List Nat
deriving DecidableEq, Repr

/-! ### The structure image (02) -/

/-- A TILE_GROUP entry (R31). -/
structure TileGroup where
  id : Nat
  wide : Bool
  mask : Nat
deriving DecidableEq, Repr

/-- A STORE_PART entry (R31). -/
structure StorePart where
  tile : Nat
  part : Nat
  job : Nat
  base : Nat
  size : Nat
deriving DecidableEq, Repr

/-- A RING_ALLOC entry (R31). -/
structure RingAlloc where
  first : Nat
  count : Nat
  job : Nat
deriving DecidableEq, Repr

/-- A job window (R31). -/
structure Window where
  remote : Bool
  write : Bool
  read : Bool
  space : Nat
  base : Nat
  length : Nat
deriving DecidableEq, Repr

/-- A JOB record (R31). -/
structure ChartJob where
  id : Nat
  seed : Nat
  groupMask : Nat
  windows : List Window
deriving DecidableEq, Repr

/-- A PART_MAP or SHARD_MAP record (R31, R32): for a PART_MAP kind and unitBytes are 0. -/
structure OwnerMap where
  id : Nat
  kind : Nat
  unitBytes : Nat
  count : Nat
  entries : List (Nat × Nat)
deriving DecidableEq, Repr

/-- A PHASE_TABLE entry (R31). -/
structure PhaseEntry where
  startOp : Nat
  ioWeight : Nat
  hbmWeight : Nat
  arrayWeight : Nat
  learn : Bool
  valid : Bool
deriving DecidableEq, Repr

/-- The installed structures of the active Chart. -/
structure Chart where
  serial : Nat
  extents : List Nat
  systemId : Nat
  nodeId : Nat
  identityFp : List Byte
  groups : List TileGroup
  parts : List StorePart
  rings : List RingAlloc
  jobs : List ChartJob
  partMaps : List OwnerMap
  shardMaps : List OwnerMap
  hotBytes : Nat
  hotRows : List (Nat × Nat)
  phases : List PhaseEntry
  excluded : Nat
  digest : List Byte
  commonDigest : List Byte
deriving DecidableEq, Repr

/-- A Chart load in progress: the bytes read once into internal storage (R43), when it started, and an unload that
waits for its end (R47). -/
structure Load where
  image : List Byte
  fits : Bool
  started : Nat
deriving DecidableEq, Repr

/-! ### Tasks and rings (03) -/

/-- What a consumer took from a stream (R190): its bytes with their poison, the status with which the block's get failed, and
where it was staged; a stream that has ended gives nothing. -/
inductive Taken where
  | block (bytes : List (Byte × Bool)) (failed : Option Nat) (addr : Nat)
  | ended
deriving DecidableEq, Repr

/-- The fields of a task descriptor (R50). -/
structure TaskDesc where
  engine : Nat
  delayList : Nat
  waitMode : Nat
  spec : Bool
  priority : Nat
  depCount : Nat
  place : Nat
  placeTile : Bool
  phaseId : Nat
  commitCount : Nat
  args : Nat
  argsBytes : Nat
  waitTicks : Nat
  signalTag : Nat
  userTag : Nat
  succ : List Nat
  expirySucc : Nat
  interrupt : Bool
  notify : Bool
deriving DecidableEq, Repr

/-- Where a task stands between registration and the end of its table entry (R53 to R72). -/
inductive TaskPhase where
  /-- Its dependence counter is above zero. -/
  | waiting
  /-- In a delay list until this bell tick has passed (R67). -/
  | delaying (dueTick : Nat)
  /-- On a ready list since this time (R59). -/
  | ready (since : Nat)
  /-- Dispatched: its engine runs it. -/
  | running
  /-- Its engine has finished, with the task's status; completion is due. -/
  | finished
  /-- Speculative and finished: commit or discard decides it (R70). -/
  | undecided
  /-- Completed: its record waits for room in the completion queue (R66). -/
  | recordDue
  /-- No longer live; some successor signals are not placed (R57). -/
  | signalling
deriving DecidableEq, Repr

/-- One task-table entry. -/
structure Task where
  id : TaskId
  job : Nat
  ring : Nat
  desc : TaskDesc
  counter : Nat
  commit : Nat
  phase : TaskPhase
  /-- The tile, die or I/O die that holds or runs it; 255 before it is placed. -/
  tile : Nat
  /-- The substitute tile of remote-read mode, when one runs it (R349, R351). -/
  substitute : Option Nat
  /-- Tiles of its wide-and-shallow group whose slices run on a substitute, each with that substitute (R217, R351). -/
  moved : List (Nat × Nat)
  status : Nat
  /-- A suppressed access has marked it (R99). -/
  marked : Bool
  /-- Cleared spec for the second run of R72. -/
  rerun : Bool
  /-- Commit reached before or at finishing (R70). -/
  committed : Bool
  /-- The bell tick after which its deadline expires (R67, R69). -/
  deadlineTick : Option Nat
  /-- Signals it still owes to successors (R57). -/
  owed : List Nat
  /-- The first poisoned input block it consumed (R345). -/
  poisonAt : Option Nat
  /-- The bytes of its argument block as read at dispatch (R54). -/
  args : List Byte
  /-- Key ranges it may write, for R73 and the undefined contents of failures. -/
  outs : List (Nat × Nat)
  /-- Key ranges it reads, and how many writes State.writes held when its run began: a later one by another task makes its
  outputs undefined (R177, R233, R251). -/
  ins : List (Nat × Nat)
  startedAt : Nat
  /-- Stream blocks it has consumed so far (R97, R190). -/
  blocks : List Taken
  /-- When it became ready: its age among the running tasks of its class (R59). -/
  age : Nat
  /-- Time of dispatch, and the time at which a collective deadline expires (R305). -/
  dispatched : Option Nat
  expires : Option Nat
  /-- Array passes started (R206) and drain rows reserved on slots A and B. -/
  passes : Nat
  drainA : Nat
  drainB : Nat
  /-- Replay attempts made, and the tile that the run before a second attempt was on (R348). -/
  attempts : Nat
  faulty : Option Nat
  /-- The output checksum that its run formed, where its phase is shadowed, and whether the comparisons are over (R353). -/
  csum : Option Nat
  settled : Bool
  /-- Table rows that it has asked other modules for, in order, and the list gets that asked for them (R136, R139). -/
  fetched : List Nat
  listGets : Nat
  /-- The statistics record that it writes when it finishes, where its run ends before that: its bytes with their poison (R139). -/
  statsRecord : List (Byte × Bool)
  /-- What its class needs besides: a stage number of a collective or wait. -/
  stage : Nat
deriving DecidableEq, Repr

/-- A completion record before it is written (R66), and the task it belongs to; none for a rejected entry or a
descriptor that failed registration. -/
structure WaitingRecord where
  userTag : Nat
  signalTag : Nat
  status : Nat
  tile : Nat
  task : Option TaskId
  interrupt : Bool
  /-- done_time: the timebase at completion. -/
  time : Nat
deriving DecidableEq, Repr

/-- A ring entry's fields (R61). -/
structure RingEntry where
  kind : Nat
  target : Nat
  addr : Nat
  count : Nat
  tag : Nat
deriving DecidableEq, Repr

/-- A submission ring that has left its reset values (R61 to R66, R77, R78). -/
structure Ring where
  id : Nat
  base : Nat
  log2Size : Nat
  enabled : Bool
  cqBase : Nat
  head : Nat
  tail : Nat
  cqTail : Nat
  cqHead : Nat
  /-- Registering a TASKS entry: the next descriptor of its array, the array's address and its count. -/
  progress : Option (Nat × Nat × Nat)
  /-- The current entry has failed and its record waits; the ring goes on once it is written (R65). -/
  heldByRecord : Bool
  fenced : Bool
  tableFull : Bool
  /-- The SIGNAL entry it has taken and that waits for a pending-signal entry (R57, R65). -/
  stalled : Option RingEntry
  /-- Its current entry was taken before the ring was last enabled, so its end does not move head (log entry 20). -/
  carried : Bool
  /-- Disabled once its last completion record is written (R346). -/
  closing : Bool
  waiting : List WaitingRecord
  vector : Nat
deriving DecidableEq, Repr

/-- A pending-signal entry (R57). -/
structure PendingSignal where
  job : Nat
  tag : Nat
  count : Nat
deriving DecidableEq, Repr

/-- The state of a job on this module (R346, R358): 1 RUNNING, 2 TERMINATING, 3 KILLED; the status that caused
termination; a FIX holds its dispatch (R318); its energy account in µJ (R380). -/
structure Job where
  id : Nat
  state : Nat
  cause : Nat
  energy : Nat
deriving DecidableEq, Repr

/-! ### Memory system, tables (04, 06) -/

/-- What became of a fetched stream block (R96): it arrived, its staging slot was filled with zeros, or its get failed with a
status. -/
inductive BlockState where
  | arrived
  | zeroFilled
  | failed (status : Nat)
deriving DecidableEq, Repr

/-- A stream block that has been issued and has not arrived (R96): its source address, none where it lies outside the stream's
bound, and whether its index was read poisoned. -/
structure Flying where
  block : Nat
  addr : Option Nat
  marked : Bool
deriving DecidableEq, Repr

/-- A request in a die's memory queue (R86, R88, R89): the die and the banks it goes to, the stream (die, slot) and block it is
for, whether it holds its tag, and whether it has been counted as finding its bank at its cap. -/
structure MemRequest where
  die : Nat
  banks : List Nat
  stream : Nat × Nat
  block : Nat
  granted : Bool
  counted : Bool
deriving DecidableEq, Repr

/-- An open prefetch stream (R94 to R98). -/
structure Stream where
  die : Nat
  slot : Nat
  job : Nat
  src : Nat
  dst : Nat
  blockBytes : Nat
  blockCount : Nat
  stride : Int
  bound : Nat
  slots : Nat
  depthMin : Nat
  depthMax : Nat
  indexed : Bool
  adapt : Bool
  idx : Nat
  spec : Bool
  depth : Nat
  consumed : Nat
  issued : Nat
  late : Nat
  lateInWindow : Nat
  /-- The consumer has asked for the next block before it arrived (R97). -/
  asked : Bool
  flying : List Flying
  arrivals : List (Nat × BlockState)
  /-- How many writes State.writes held when it opened: a later one of its source makes what is not consumed undefined
  (R98). -/
  openedAt : Nat
deriving DecidableEq, Repr

/-- The state of an open table (R128, R132): descriptor, live and retained epochs, replica epoch (none: not valid). -/
structure OpenTable where
  table : Nat
  job : Nat
  edge : Bool
  format : Nat
  width : Nat
  region0 : Nat
  region1 : Nat
  grad : Nat
  edgeRows : Nat
  live : Nat
  retained : Option Nat
  replica : Option Nat
  /-- The TABLE_SWAP task that waits for the retained epoch (R146). -/
  swapTask : Option TaskId
  /-- Its TABLE_REFRESH tasks in dispatch order (R145). -/
  refreshes : List TaskId
deriving DecidableEq, Repr

/-- The drift watch of one tensor kind (R173): blocks and vanish count of the window, its largest scale byte, whether a
block was clamped, and the previous window's largest scale byte. -/
structure DriftWindow where
  blocks : Nat
  vanish : Nat
  maxScale : Nat
  clamped : Bool
  previous : Option Nat
deriving DecidableEq, Repr

/-- Errors of severity CORRECTED from one stack or one tile store that a record is to hold (R357): the location (die, tile,
unit), the address of the first, when it came, and how many have come. -/
structure Correction where
  die : Nat
  tile : Nat
  unit : Nat
  addr : Nat
  since : Nat
  count : Nat
deriving DecidableEq, Repr

/-- Corrections of one DQ lane's symbol, and whether it is marked failed (R82). -/
structure LaneCount where
  stack : Nat
  pseudo : Nat
  lane : Nat
  corrections : Nat
  marked : Bool
deriving DecidableEq, Repr

/-! ### Fabric (13) and collectives (14) -/

/-- A flit in a replay buffer or a queue: virtual channel, unit type, 64 bytes without sequence number (R272, R274). -/
structure Flit where
  vc : Nat
  unitType : Nat
  bytes : List Byte
deriving DecidableEq, Repr

/-- Where a packet whose header has arrived goes (R277, R280). -/
inductive Course where
  /-- To this module. -/
  | here
  /-- On, by a port, without waiting for its data (R278). -/
  | via (port : Nat)
  /-- Nowhere: it is discarded. -/
  | away
deriving DecidableEq, Repr

/-- A packet being received on a virtual channel (R276, R292): its tag and header, where it goes, the payload bytes that
have come, those of them that are kept for this module, the flits whose credit it holds, and when its last flit came. -/
structure OpenPacket where
  vc : Nat
  tag : Nat
  header : Packet
  course : Course
  got : Nat
  data : List Byte
  flits : Nat
  lastAt : Nat
deriving DecidableEq, Repr

/-- A packet that leaves by a port (R276, R278): its VC there and its tag, the flits of it that wait, the data flits that
have yet to arrive, for a transit packet its input port and VC and whether its flits hold credit there (R275), and for a
request of this module its number. -/
structure OutPacket where
  vc : Nat
  tag : Nat
  flits : List Flit
  left : Nat
  source : Option (Nat × Nat)
  credit : Bool
  request : Option Nat
deriving DecidableEq, Repr

/-- A torus port beyond its registers (R270 to R298). -/
structure Port where
  coefficients : Bool
  /-- Step 2 of the training in progress has ended well (R294). -/
  equalised : Bool
  /-- Receive side: next expected sequence number, flits accepted since the last ACK_CREDIT, flits freed per VC,
  a NAK that is outstanding (its time), open packets, headers received per VC. -/
  rxExpected : Nat
  rxSinceAck : Nat
  rxFreed : List Nat
  nakAt : Option Nat
  lastAckAt : Nat
  lastFlitAt : Nat
  open_ : List OpenPacket
  /-- By lane, the codeword last counted as corrected or uncorrectable, plus one (R271, R298). -/
  fecCounted : List Nat
  /-- Send side: next sequence number, replay buffer (oldest first) with the number of its first flit, flits sent and
  freed per VC, packets sent per VC, the packets that wait in the order of their headers, consecutive NAKs and their number, last progress,
  the VC last served. -/
  txSeq : Nat
  replay : List Flit
  replayFirst : Nat
  txSent : List Nat
  txFreed : List Nat
  txPackets : List Nat
  queue : List OutPacket
  nakRun : Nat
  nakSeq : Nat
  lastProgressAt : Nat
  lastVc : Nat
  /-- Identity exchange (R295, R419): own nonce, peer nonce, statement parts received. -/
  ownNonce : List Byte
  peerNonce : List Byte
  parts : List (Nat × List Byte)
  /-- The peer's identity is accepted, and the Chart check has begun (R296). -/
  identified : Bool
  /-- The peer's Chart state as its CHART parts gave it (R296): state, node, system ID and both digest halves. -/
  peerState : Option Nat
  peerSystem : Nat
  peerDigest0 : List Byte
  peerDigest1 : Option (List Byte)
  /-- WIDTH exchange (R297): a narrow or full request of this end is outstanding; a full grant is being carried out. -/
  narrowAsked : Bool
  fullAsked : Bool
  widening : Bool
  lastKeepaliveAt : Nat
  /-- When the port last went DOWN or last sent CHART parts. -/
  downAt : Nat
  chartSentAt : Nat
deriving DecidableEq, Repr

/-- A request that awaits its response (R284, R291), and what its data is for. -/
structure Request where
  seq : Nat
  task : TaskId
  op : Nat
  remote : Nat
  length : Nat
  localAddr : Nat
  /-- When its last flit left the module, which starts its response timer (R284). -/
  sentAt : Option Nat
  /-- LIST_GET: the addresses of its rows, and how many still await their LIST_RESP. -/
  rows : List Nat
  left : Nat
  /-- Status once it has ended; the entry then stays until its task has all answers. -/
  ended : Option Nat
deriving DecidableEq, Repr

/-- A reduction that OPEN installed (R305 to R310). -/
structure Reduction where
  job : Nat
  addr : Nat
  length : Nat
  pool : Nat
  poolEntries : Nat
  counted : Bool
  backup : Bool
  keepCells : Bool
  contributors : Nat
  ledger : Nat
  rowBytes : Nat
  step : Nat
  closed : Bool
  /-- Running checksum of accepted packets of each touched result block (uncounted reductions; counted ones keep it in
  their ledger, R307). -/
  sums : List (Nat × Nat)
deriving DecidableEq, Repr

/-- A packet that has arrived whole and waits for its owner's engine: the port it came by (8: none), its VC there and the
flits whose credit it holds (R275, R287). -/
structure Arrival where
  packet : Packet
  port : Nat
  vc : Nat
  flits : Nat
deriving DecidableEq, Repr

/-- A part of a broadcast that a member has received (R315): its offset in the buffer, its poison map and its bytes. -/
structure BroadcastPart where
  offset : Nat
  poisonMap : Nat
  bytes : List Byte
deriving DecidableEq, Repr

/-- A combining entry (R313): its key, the local task, the messages that have arrived for it (op, sender, scope), whether
the message to the parent has gone, and for a broadcast the packets that wait for the task and the parts received. -/
structure Combining where
  job : Nat
  tc : Nat
  id : Nat
  task : Option TaskId
  messages : List (Nat × Nat × Nat)
  upSent : Bool
  held : List Arrival
  received : List BroadcastPart
deriving DecidableEq, Repr

/-- A system reset in progress (R319): whether this module started it, its parent, and the children that have answered. -/
structure SysReset where
  initiator : Bool
  root : Nat
  answered : List Nat
  /-- Everything below this module has answered: its own reset follows. -/
  ready : Bool
deriving DecidableEq, Repr

/-- What the routers know of the torus (R277): this module's node ID and the extents. -/
structure Routing where
  node : Nat
  extents : List Nat
deriving DecidableEq, Repr

/-- An entry of a die's coalescer (R140): its key, the bytes of its row, the task whose edge engine fetches it, the tasks that
its row goes to, and the number of the list get that carries it, once that has left. -/
structure RowFetch where
  die : Nat
  job : Nat
  table : Nat
  epoch : Nat
  addr : Nat
  bytes : Nat
  issuer : TaskId
  waiters : List TaskId
  sent : Option Nat
deriving DecidableEq, Repr

/-- The torus side: ports P0 to P7, outstanding requests, next request number per I/O die, arrived packets that wait. -/
structure Fabric where
  ports : List Port
  /-- What the routers keep of the last Chart: a function reset leaves the routers as they are (R400). -/
  routing : Option Routing
  requests : List Request
  /-- Answers that have arrived for the gets of engines (R119, R136), until their tasks finish. -/
  replies : List (TaskId × RemoteReply)
  /-- Requests that wait for a free slot of their I/O die: task, I/O die, packet (R291). -/
  waiting : List (TaskId × Nat × Packet)
  /-- The coalescers' entries with the row requests that wait for one, oldest first (R140). -/
  coalescer : List RowFetch
  nextSeq : List Nat
  inbox : List Arrival
  /-- Class-3 packets that hold their credit until a pending-signal entry frees (R57, R287). -/
  heldSignals : List Arrival
deriving DecidableEq, Repr

/-! ### Power (17) -/

/-- A compute or I/O die's power state beyond PLT_DIE_n: target mult, operating entry, droop hold and when it began,
junction above its target, fmax, the Pilot's g, and the settled voltages in mV by mult (R364 to R379). -/
structure DiePower where
  target : Nat
  entry : Nat
  held : Bool
  heldAt : Nat
  hot : Bool
  fmax : Nat
  gate : Nat
  planned : List (Nat × Nat)
deriving DecidableEq, Repr

/-- The stages of the anchor watch (R381 to R384). -/
inductive AnchorStage where
  | awake
  | entering
  | watching
  | waking
deriving DecidableEq, Repr

/-- The Pilot and the power input (R359 to R384). -/
structure Power where
  dies : List DiePower
  /-- a[p] of R370 in W/(V² · GHz), and the learned HBM and I/O power in W, by phase. -/
  activity : List (Nat × Rat)
  hbmLearned : List (Nat × Rat)
  ioLearned : List (Nat × Rat)
  /-- Input voltage in 10 mV units; coolant inlet in °C once it has been reported; R_th in µK/W. -/
  vin : Nat
  tin : Option Nat
  rth : Rat
  /-- Drift of each compute die in ppm (R377). -/
  drift : List Nat
  /-- A rail limit acted in the current interval (R361). -/
  railActed : Bool
  /-- The rail limits that act: rail, and the g to which it holds its die (R361). -/
  railActing : List (Nat × Nat)
  /-- Fixed-frequency mode has yielded to the budget (R373). -/
  fixedLost : Bool
  anchor : AnchorStage
  /-- Doorbells kept until the wake has ended (R382, R384): ring, value. -/
  keptDoorbells : List (Nat × Nat)
  thermalLow : Bool
  unattributed : Nat
  rails : List Bool
deriving DecidableEq, Repr

/-! ### Host interface (18) -/

/-- An MSI-X table entry (R388, R394). -/
structure MsixEntry where
  vector : Nat
  addr : Nat
  data : Nat
  masked : Bool
deriving DecidableEq, Repr

/-- A host read that awaits its completion (R398, R399). -/
structure HostRead where
  tag : Nat
  task : TaskId
  hostAddr : Nat
  length : Nat
  localKey : Nat
  issued : Nat
deriving DecidableEq, Repr

/-- Configuration space and MSI-X state (R386 to R394). -/
structure Pcie where
  d3hot : Bool
  bar2Log2Gib : Nat
  maxPayload : Nat
  maxRead : Nat
  cplTimeout : Nat
  msixEnable : Bool
  msixMaskAll : Bool
  kept : List (Nat × Nat)
  msix : List MsixEntry
  pba : List Nat
  /-- Vectors inside a holdoff: vector, end time, whether a trigger waits. -/
  holdoff : List (Nat × Nat × Bool)
  reads : List HostRead
  nextTag : Nat
  linkUp : Bool
  /-- The DOE nonce of GET_NONCE: bytes and time of issue (R417). -/
  nonce : Option (List Byte × Nat)
  /-- AER: an Unexpected Completion has arrived (R399). -/
  unexpected : Bool
deriving DecidableEq, Repr

/-- What leaves the module at its connectors. -/
inductive Output where
  /-- BAR0 or BAR4 read completion. -/
  | readData (value : Nat)
  /-- BAR2 read completion, with the EP bit of each 64-byte block's bytes folded to one flag per byte block. -/
  | bar2Data (bytes : List Byte) (poisonedBlocks : List Nat)
  /-- Unsupported Request. -/
  | unsupported
  /-- Configuration Request Retry Status. -/
  | retryStatus
  /-- An MSI-X message: its address and data. -/
  | msix (vector addr data : Nat)
  /-- A memory write of TO_HOST. -/
  | hostWrite (addr : Nat) (bytes : List Byte) (ep noSnoop relaxed : Bool)
  /-- A memory read of FROM_HOST. -/
  | hostReadReq (tag addr length : Nat) (noSnoop relaxed : Bool)
  /-- A DOE response object's payload. -/
  | doe (bytes : List Byte)
  /-- A management message to a transport. -/
  | mgmt (transport : MgmtTransport) (bytes : List Byte)
  /-- A header or data flit sent on a port: its sequence number and the 514 bits of its unit, the first sent lowest (R271). -/
  | flit (port seq unit : Nat)
  /-- A control flit sent on a port: the 514 bits of its unit. -/
  | control (port unit : Nat)
  /-- A packet that this module serves to itself or that has no port (kept to show local delivery). -/
  | localPacket (packet : Packet)
  /-- Bus controller and host messages of the Binnacle: REMOVE_REQUEST, REMOVE_CANCEL, SAFE_STATE (R437). -/
  | notice (code cause : Nat)
  /-- input_high is reported, with the input voltage in 10 mV units (R425). -/
  | inputHigh (vin : Nat)
  /-- The power-up sequence has stopped at this step, and the Binnacle reports it (R362). -/
  | railFailure (step : Nat)
deriving DecidableEq, Repr

/-! ### Boot and security (19), carrier (20) -/

/-- A flash write in progress: what wrote it and the image. -/
structure FlashWrite where
  image : List Byte
  recovery : Bool
deriving DecidableEq, Repr

/-- A trip record (R435) or a removal event (R431): its sequence number, cause, time, and the tripping sensor's reading. -/
structure BinnacleEvent where
  seq : Nat
  cause : Nat
  time : Nat
  reading : Reading
deriving DecidableEq, Repr

/-- The records in the Binnacle flash, which outlast resets (04 R82, 16 R351, 17 R376, R377, 19, 20 R426, R435). -/
structure Binnacle where
  retired : Nat
  ownerKey : Option (List Byte)
  acceptedFp : List (List Byte)
  /-- PEER_CHANGED as posted to the Binnacle: port and new fingerprint, oldest first (R295). -/
  peerChanges : List (Nat × List Byte)
  lanes : List LaneCount
  lastLane : List Nat
  counter : Nat
  flash : List Byte
  /-- The slot's last write was cut off by the loss of VAUX (R408). -/
  torn : Bool
  helperReadable : Bool
  certificate : List Byte
  autoOn : Bool
  /-- The last 256 trip records, removal events, and the sequence number of the next of either (R435, R437). -/
  trips : List BinnacleEvent
  removals : List BinnacleEvent
  eventSeq : Nat
  driftPpm : List Nat
  plannedStore : List (List (Nat × Nat))
  /-- R_th in µK/W; none on a module without a record (R376). -/
  rth : Option Nat
deriving DecidableEq, Repr

/-- What is fixed in this module's silicon and ROM (R402, R404, R410, R392): read-only inputs of the boot. -/
structure Silicon where
  stepping : Nat
  puf : List Byte
  romDigest : List Byte
  firmwareKey : List Byte
  /-- Features the running firmware offers (R392). -/
  offer : Nat
deriving DecidableEq, Repr

/-- The boot and identity state in XD0 (R402 to R413). -/
structure Boot where
  /-- The private key in the key store and its public key. -/
  privateKey : List Byte
  publicKey : List Byte
  fwVersion : Nat
  svn : Nat
  offer : Nat
  writing : Option FlashWrite
  /-- Boot waits at step 3 for the flash write to end. -/
  waiting : Bool
deriving DecidableEq, Repr

/-- The power states of the module as the Binnacle keeps them (R362, R433). -/
inductive PowerState where
  /-- Neither P48V nor AUX12 is present (R424). -/
  | off
  /-- VAUX only. -/
  | auxOnly
  /-- Power-up has finished this many steps after step 1 (R362). -/
  | sequencing (step : Nat)
  | on
  | safe
deriving DecidableEq, Repr

/-- The carrier: supplies, latch, front panel, trips and sensors (R424 to R437). -/
structure Carrier where
  power : PowerState
  inputOk : Bool
  vin : Nat
  /-- The converters turned off for a low input: power-up restarts when the input is back (R425). -/
  restart : Bool
  presS : Bool
  latchOpen : Bool
  interlock : Bool
  handle : Nat
  /-- Trip conditions present now: causes. -/
  tripsPresent : List Nat
  /-- The 60 s window of a button press: its start. -/
  pressedAt : Option Nat
  identify : Bool
  removeRequested : Bool
deriving DecidableEq, Repr

/-! ### The state -/

/-- The block's state. -/
structure State where
  pending : List Instr
  now : Nat
  free : Nat
  tick : Nat
  boundary : Nat
  period : Nat
  mem : Memory
  /-- The ranges written so far, oldest first: the model's own record, for what a write makes undefined (R98, R177). -/
  writes : List (Nat × Nat)
  regs : List (Nat × Nat)
  /-- Event records since function reset (R395) and error records since module reset (R356). -/
  eventSeq : Nat
  errorSeq : Nat
  chart : Option Chart
  load : Option Load
  unloadWaiting : Bool
  zeroing : Bool
  rings : List Ring
  tasks : List Task
  signals : List PendingSignal
  jobs : List Job
  streams : List Stream
  /-- The memory queues of the dies, in the order in which requests entered them (R89). -/
  memQueue : List MemRequest
  tables : List OpenTable
  drift : List DriftWindow
  lanes : List LaneCount
  corrections : List Correction
  /-- Codewords read in the current patrol pass, by stack (R101). -/
  scrubbed : List Nat
  bankQuiet : List Nat
  fabric : Fabric
  reductions : List Reduction
  combining : List Combining
  sysreset : Option SysReset
  power : Power
  pcie : Pcie
  boot : Boot
  binnacle : Binnacle
  silicon : Silicon
  carrier : Carrier
  outputs : List Output
deriving DecidableEq, Repr

/-! ### Reset -/

/-- A port after reset. -/
def Port.reset : Port where
  coefficients := false
  equalised := false
  rxExpected := 0
  rxSinceAck := 0
  rxFreed := List.replicate 16 0
  nakAt := none
  lastAckAt := 0
  lastFlitAt := 0
  open_ := []
  fecCounted := List.replicate 16 0
  txSeq := 0
  replay := []
  replayFirst := 0
  txSent := List.replicate 16 0
  txFreed := List.replicate 16 0
  txPackets := List.replicate 16 0
  queue := []
  nakRun := 0
  nakSeq := 0
  lastProgressAt := 0
  lastVc := 15
  ownNonce := []
  peerNonce := []
  parts := []
  identified := false
  peerState := none
  peerSystem := 0
  peerDigest0 := []
  peerDigest1 := none
  narrowAsked := false
  fullAsked := false
  widening := false
  lastKeepaliveAt := 0
  downAt := 0
  chartSentAt := 0

/-- The torus side after reset. -/
def Fabric.reset : Fabric where
  ports := List.replicate 8 Port.reset
  routing := none
  requests := []
  replies := []
  waiting := []
  coalescer := []
  nextSeq := [0, 0]
  inbox := []
  heldSignals := []

/-- A die after reset: mult 66 (R362, R363), fmax 72 (R379). -/
def DiePower.reset : DiePower where
  target := 66
  entry := 44
  held := false
  heldAt := 0
  hot := false
  fmax := 72
  gate := 64
  planned := []

/-- The Pilot after reset: ten dies, 48 V, R_th 0.0185 K/W (R376), awake. -/
def Power.reset : Power where
  dies := List.replicate 10 DiePower.reset
  activity := []
  hbmLearned := []
  ioLearned := []
  vin := 4800
  tin := none
  rth := 18500
  drift := List.replicate 8 0
  railActed := false
  railActing := []
  fixedLost := false
  anchor := .awake
  keptDoorbells := []
  thermalLow := false
  unattributed := 0
  rails := List.replicate 26 true

/-- PCIe after reset: D0, BAR2 1 GiB (R388), Completion Timeout Value 0 (R399); log entry 5 for the rest. -/
def Pcie.reset : Pcie where
  d3hot := false
  bar2Log2Gib := 0
  maxPayload := 128
  maxRead := 512
  cplTimeout := 0
  msixEnable := false
  msixMaskAll := false
  kept := []
  msix := []
  pba := []
  holdoff := []
  reads := []
  nextTag := 0
  linkUp := false
  nonce := none
  unexpected := false

/-- The n little-endian bytes of a named value. -/
def named (n v : Nat) : List Byte := (List.range n).map (fun i => BitVec.ofNat 8 (v / 256 ^ i))

/-- The public key of the identity that R410 derives from the silicon's named PUF response, the empty one (log entry 4). -/
def namedIdentity : List Byte :=
  named 57 0x1085f38d4fc9fedda1d4f066535566abfc81c86517c4ecefc75ed46ce3fbc7096470751f10c2f4be6a1ffa8214cbdb810f34197e01b1221f

/-- The named firmware signing key in the ROM (log entry 4). -/
def namedFirmwareKey : List Byte :=
  named 57 0xd2ade1741465aea77de2b7816422dea3a603f1bc7a97604a685c3ec459c2d6f5dfcc2d9ff7a70133b776c68d229bb353fa9426c9160251ba

/-- The named manufacturing certificate: the identity key as RFC 8410 encodes it, in the frame of RFC 5280 (log entry 4). -/
def namedCertificate : List Byte :=
  [0x30, 0x81, 0xD8, 0x30, 0x5A, 0xA0, 0x03, 0x02, 0x01, 0x02, 0x02, 0x01, 0x01, 0x30, 0x05, 0x06, 0x03, 0x2B, 0x65, 0x71] ++
    [0x30, 0x00, 0x30, 0x00, 0x30, 0x00, 0x30, 0x43, 0x30, 0x05, 0x06, 0x03, 0x2B, 0x65, 0x71, 0x03, 0x3A, 0x00] ++
    namedIdentity ++ [0x30, 0x05, 0x06, 0x03, 0x2B, 0x65, 0x71, 0x03, 0x73, 0x00] ++ List.replicate 114 0

/-- The named firmware image in the flash slot: R403's header with svn 0 and version 1, 64 bytes of body, and the signature of
R404 under the named key (log entry 4). -/
def namedFirmware : List Byte :=
  named 4 0x57465451 ++ named 2 1 ++ named 2 0x0860 ++ named 4 256 ++ named 4 0 ++ named 4 0x01000000 ++
    named 16 0xf982dfea5ed725c6284006b09fe56ccd ++ List.replicate 28 0 ++ List.replicate 64 0 ++
    named 57 0xe9f5cde1efa44e7bb2c9686763f3d805db505c1f085c1e4520220d3af04beec597d9243d738349972a261216776a97a26da23b83565b6140 ++
    named 57 0x1c325008e084af3c9fb240600249f9d3e093a06323cb28aad064d66937b55ac07b2c19d3b91fbfd2d6eba9883c57c3c0a4a64934ed9e13ab ++
    List.replicate 14 0

/-- A module that nobody owns, with no peers accepted, as manufactured (log entry 4). -/
def Binnacle.fresh : Binnacle where
  retired := 0
  ownerKey := none
  acceptedFp := List.replicate 8 []
  peerChanges := []
  lanes := []
  lastLane := List.replicate 16 0
  counter := 0
  flash := namedFirmware
  torn := false
  helperReadable := true
  certificate := namedCertificate
  autoOn := true
  trips := []
  removals := []
  eventSeq := 0
  driftPpm := List.replicate 8 0
  plannedStore := List.replicate 8 []
  rth := none

/-- The silicon's fixed inputs at their named values (log entry 4). -/
def Silicon.fresh : Silicon where
  stepping := 0
  puf := []
  romDigest := List.replicate 64 0
  firmwareKey := namedFirmwareKey
  offer := 0x3F

/-- Before the boot sequence: DEV_FEAT_OFFER has its value loaded (R9), the rest is not there yet. -/
def Boot.reset : Boot where
  privateKey := []
  publicKey := []
  fwVersion := 0
  svn := 0
  offer := 0x3F
  writing := none
  waiting := false

/-- The carrier in its bay with power on (log entry 4). -/
def Carrier.fresh : Carrier where
  power := .on
  inputOk := true
  vin := 4800
  restart := false
  presS := true
  latchOpen := false
  interlock := false
  handle := 25
  tripsPresent := []
  pressedAt := none
  identify := false
  removeRequested := false

/-- A drift window that has seen nothing. -/
def DriftWindow.reset : DriftWindow where
  blocks := 0
  vanish := 0
  maxScale := 0
  clamped := false
  previous := none

/-- The machine right after module reset: every register at the value of its table (R9), no Chart, no task, memory
with nothing listed. SEC_STATUS state is BOOTING: the boot sequence (R402) is the command boot. -/
def State.reset : State where
  pending := []
  now := 0
  free := 0
  tick := 0
  boundary := 100
  period := 100
  mem := ⟨[], []⟩
  writes := []
  regs := []
  eventSeq := 0
  errorSeq := 0
  chart := none
  load := none
  unloadWaiting := false
  zeroing := false
  rings := []
  tasks := []
  signals := []
  jobs := []
  streams := []
  memQueue := []
  tables := []
  drift := List.replicate 5 DriftWindow.reset
  lanes := []
  corrections := []
  scrubbed := List.replicate 16 0
  bankQuiet := List.replicate 8 0
  fabric := Fabric.reset
  reductions := []
  combining := []
  sysreset := none
  power := Power.reset
  pcie := Pcie.reset
  boot := Boot.reset
  binnacle := Binnacle.fresh
  silicon := Silicon.fresh
  carrier := Carrier.fresh
  outputs := []

end Sys2Proof.Machine
end

