-- ==== Sys2Proof/WellFormed.lean ====
section
/-!
DEFINITION. The checks a command must pass before the block can receive it: it names only units that R13 gives the
module, rings of R63, vectors of R394 and entries of R366, and its lists have the lengths of what they stand for.
-/

namespace Sys2Proof

/-- A torus packet the model can carry: its payload is at most 4,096 bytes (R281). -/
def Packet.wf (p : Packet) : Bool := decide (p.payload.length ≤ 4096)

/-- A task handle names a compute die. -/
def TaskId.wf (t : TaskId) : Bool := decide (t.die < 8)

/-- A memory key of an HBM or tile-store byte (R22). -/
def keyExists (k : Nat) : Bool := decide (k < 0xC000000000) || (decide (2 ^ 45 ≤ k) && decide (k < 2 ^ 45 + 2 ^ 31))

/-- A codeword error lies in HBM and names DQ lanes of its codeword. -/
def CodewordError.wf (e : CodewordError) : Bool := decide (e.offset < 0xC000000000) && e.lanes.all (fun l => decide (l < 72))

/-- The task and the codewords exist. -/
def TaskReads.wf (r : TaskReads) : Bool := r.task.wf && r.errors.all CodewordError.wf

/-- What a parity error names exists. -/
def ParitySite.wf : ParitySite → Bool
  | .transfer k => keyExists k
  | .tileEngine t tile => t.wf && decide (tile < 64)
  | .control t => t.wf
  | .ringEntry r => decide (r < 32768)
  | .taskEntry t => t.wf
  | .sharedTable _ => true
  | .sramCorrected t => (t.map (fun (x : Nat) => decide (x < 64))).getD true
  | .sramUncorrectable k => decide (2 ^ 45 ≤ k) && keyExists k

/-- A measurement covers the ten dies and the eight compute-die domains. -/
def PilotMeasure.wf (m : PilotMeasure) : Bool :=
  decide (m.dies.length = 10) && decide (m.energyDies.length = 8) && decide (m.weightDies.length = 8) &&
    m.dies.all (fun d => decide (d.leakPlanMw.length = 64))

/-- The units, rings, vectors and lengths that a command names exist. -/
def Instr.wf : Instr → Bool
  | .registerWrite _ _ _ => true
  | .load _ => true
  | .loadChecksEnd => true
  | .unload => true
  | .force => true
  | .unloadDrained => true
  | .unloadDone => true
  | .doorbellTail r _ _ _ => decide (r < 32768)
  | .cqHead r _ _ => decide (r < 32768)
  | .ringNop r => decide (r < 32768)
  | .tasks r => decide (r < 32768)
  | .signal r => decide (r < 32768)
  | .discard r => decide (r < 32768)
  | .fence r => decide (r < 32768)
  | .fenceCleared r => decide (r < 32768)
  | .taskRegister r => decide (r < 32768)
  | .dispatch e p => decide (e < 12) && decide (p < 64)
  | .taskComplete t _ => t.wf
  | .completionRecordWrite r => decide (r < 32768)
  | .successorSignalPlace t => t.wf
  | .delayExpiry t => t.wf
  | .deadlineExpiry t => t.wf
  | .tickWrite _ => true
  | .ringEnable => true
  | .ringDisable => true
  | .nop t => t.wf
  | .copy r => r.wf
  | .copy2d r => r.wf
  | .fill t => t.wf
  | .streamOpen t => t.wf
  | .streamClose t => t.wf
  | .streamBlockArrival d sl _ _ => decide (d < 8) && decide (sl < 256)
  | .streamBlockConsume d sl _ => decide (d < 8) && decide (sl < 256)
  | .bankCapEval d _ _ => decide (d < 8)
  | .scrubCodeword o ls u => (CodewordError.mk o ls u).wf
  | .sample t _ => t.wf
  | .lookup t _ => t.wf
  | .push t => t.wf
  | .tableOpen t => t.wf
  | .tableSwap t => t.wf
  | .swapComplete t => decide (t < 4096)
  | .tableRefresh t _ => t.wf
  | .gather t _ => t.wf
  | .segReduce t _ => t.wf
  | .scatterAdd t => t.wf
  | .intersect t => t.wf
  | .product t => t.wf
  | .productSparse t => t.wf
  | .arrayPassStart t => t.wf
  | .chain t => t.wf
  | .grad t => t.wf
  | .driftCfgWrite _ => true
  | .remotePut t => t.wf
  | .remoteGet t => t.wf
  | .remoteExactAcc t => t.wf
  | .remoteNmAcc t => t.wf
  | .remoteCas t => t.wf
  | .remotePutSignal t => t.wf
  | .flitReceive p _ _ _ v => decide (p < 8) && decide (v < 2 ^ 514)
  | .ackCredit p _ f => decide (p < 8) && decide (f.length = 16)
  | .nak p _ => decide (p < 8)
  | .keepalive p => decide (p < 8)
  | .ident p _ _ => decide (p < 8)
  | .width p _ => decide (p < 8)
  | .chart p _ _ _ _ d => decide (p < 8) && decide (d.length = 32)
  | .nakRepeat p => decide (p < 8)
  | .ackTimer p => decide (p < 8)
  | .ackProgressTimeout p => decide (p < 8)
  | .chartResend p => decide (p < 8)
  | .packetGapTimeout p v => decide (p < 8) && decide (v < 16)
  | .responseTimeout _ => true
  | .breakNotice p k => decide (p < 8) && k.wf
  | .put k => k.wf
  | .get k => k.wf
  | .listGet k => k.wf
  | .exactAcc k => k.wf
  | .nmAcc k => k.wf
  | .cas k => k.wf
  | .putSignal k => k.wf
  | .mgmt k => k.wf
  | .ack k => k.wf
  | .getResp k => k.wf
  | .listResp k => k.wf
  | .casResp k => k.wf
  | .linkTrainStart p => decide (p < 8)
  | .equalisationEnd p _ => decide (p < 8)
  | .alignmentEnd p _ _ => decide (p < 8)
  | .trainingRetry p => decide (p < 8)
  | .fecLockLost p => decide (p < 8)
  | .keepaliveLost p => decide (p < 8)
  | .accept p => decide (p < 8)
  | .retrain p => decide (p < 8)
  | .portEnable p _ => decide (p < 8)
  | .collOpen t => t.wf
  | .collClose t => t.wf
  | .closeLedgerComplete t => t.wf
  | .collectiveDeadline t => t.wf
  | .barrier t => t.wf
  | .broadcast t => t.wf
  | .fix t => t.wf
  | .fixDrained t => t.wf
  | .barUp k => k.wf
  | .barDown k => k.wf
  | .bcastData k => k.wf
  | .fixUp k => k.wf
  | .fixDown k => k.wf
  | .sysreset _ => true
  | .resetDown k => k.wf
  | .resetUp k => k.wf
  | .norm t => t.wf
  | .apply t => t.wf
  | .store t => t.wf
  | .root t => t.wf
  | .exportRows t => t.wf
  | .parityError x => x.wf
  | .jobKill => true
  | .jobTerminated _ => true
  | .jobRevive => true
  | .errLogEnable _ => true
  | .errLogHead _ => true
  | .pilotInterval m => m.wf
  | .multSlewStep d => decide (d < 10)
  | .voltageAdjust d _ => decide (d < 8)
  | .prefRevise p _ _ _ => decide (p < 64)
  | .railLimit r g => decide (r.rail < 27) && decide (0 < g) && decide (g ≤ 64)
  | .droop d _ => decide (d < 8)
  | .droopPersist d => decide (d < 8)
  | .droopHoldEnd d => decide (d < 8)
  | .rthUpdate _ _ _ => true
  | .junctionThrottle d _ => decide (d < 10)
  | .ageingMeasure l => decide (l.length = 64)
  | .ageingStore => true
  | .capWrite _ => true
  | .oppWrite e _ => decide (e < 64)
  | .inputLow _ => true
  | .anchor => true
  | .anchorCommit => true
  | .wake => true
  | .wakeComplete => true
  | .bar2Access _ _ _ r => r.errors.all CodewordError.wf
  | .featCommit => true
  | .evqEnable _ => true
  | .evqHead _ => true
  | .msixHoldoffEnd v => decide (v < 2048)
  | .msixUnmask v => decide (v < 2048)
  | .toHost t => t.wf
  | .fromHost t => t.wf
  | .hostCompletion g _ _ _ => decide (g < 16384)
  | .hostTimeout g => decide (g < 16384)
  | .linkChanged _ _ _ => true
  | .functionReset => true
  | .devReset _ => true
  | .moduleReset => true
  | .boot => true
  | .bootFlashWaitEnd => true
  | .commitSvn => true
  | .update => true
  | .updateDone _ => true
  | .recover => true
  | .getCert _ => true
  | .getNonce _ _ => true
  | .getReport _ => true
  | .enroll _ => true
  | .release _ => true
  | .powerSequence _ => true
  | .inputUndervoltage _ => true
  | .inputRestored _ => true
  | .inputOvervoltage _ _ => true
  | .latchUnderPower => true
  | .presSBreak => true
  | .attentionPress => true
  | .attentionLongPress => true
  | .presenceWindowEnd => true
  | .railOvercurrent _ => true
  | .junctionOvertemp _ => true
  | .coolantLoss _ => true
  | .leakage _ => true
  | .handleHot _ => true
  | .handleCool _ => true
  | .vauxLoss => true
  | .getStatus _ => true
  | .getSensors _ => true
  | .getEvents _ => true
  | .setIdentify _ => true
  | .powerOn _ => true
  | .powerOff _ => true
  | .clearSafe _ => true
  | .setAutoOn _ => true
  | .mgmtEnroll _ => true
  | .clearRetired _ => true
  | .clearPeer _ => true
  | .getAgeing _ => true
  | .rcRead _ _ => true
  | .configurationRequest _ _ => true
  | .keepaliveTimer p => decide (p < 8)
  | .inputHigh _ => true
  | .returnTo16Lanes p => decide (p < 8)
  | .recoveryFlashWriteEnd _ => true

end Sys2Proof
end

