-- ==== Sys2Proof/Machine/Ops.lean ====
section
/-!
DEFINITION. The named operations over bits and bytes, memory, the register file, and the lists the state holds.
-/

namespace Sys2Proof.Machine

/-- The outcome of a command whose effect is the state t: a fault where the command names a unit the module lacks. -/
def perform (c : Instr) (t : State) : Host.Outcome State Fault Refusal :=
  if c.wf then .next t else .fault .noSuchUnit

/-! ### Bits and bytes (R3) -/

/-- Bits hi to lo of a value. -/
def bits (v hi lo : Nat) : Nat := v / 2 ^ lo % 2 ^ (hi + 1 - lo)

/-- Bit i of a value. -/
def bit (v i : Nat) : Bool := v / 2 ^ i % 2 == 1

/-- One as a number for a flag that is set. -/
def flag (b : Bool) : Nat := if b then 1 else 0

/-- The two's complement reading of w bits. -/
def toSigned (w v : Nat) : Int := if v % 2 ^ w < 2 ^ (w - 1) then (v % 2 ^ w : Nat) else (v % 2 ^ w : Nat) - (2 ^ w : Nat)

/-- The w-bit two's complement of an integer. -/
def ofSigned (w : Nat) (x : Int) : Nat := (x % (2 ^ w : Nat)).toNat

/-- A little-endian value of bytes (R3). -/
def leNat : List Byte → Nat
  | [] => 0
  | b :: r => b.toNat + 256 * leNat r

/-- The n little-endian bytes of a value (R3). -/
def leBytes : Nat → Nat → List Byte
  | 0, _ => []
  | n + 1, v => BitVec.ofNat 8 v :: leBytes n (v / 256)

/-- n bytes of a byte list from an offset; bytes beyond its end read as zero. -/
def sliceBytes (l : List Byte) (off n : Nat) : List Byte :=
  let t := (l.drop off).take n
  t ++ List.replicate (n - t.length) 0

/-- An n-byte field of a structure at a byte offset. -/
def fieldLe (l : List Byte) (off n : Nat) : Nat := leNat (sliceBytes l off n)

/-- Replace the bytes of a list from an offset on. -/
def putBytes (l : List Byte) (off : Nat) (b : List Byte) : List Byte :=
  l.take off ++ b ++ l.drop (off + b.length)

/-- n rounded up to a multiple of m. -/
def roundUp (n m : Nat) : Nat := (n + m - 1) / m * m

/-- n divided by m, rounded up. -/
def ceilDiv (n m : Nat) : Nat := (n + m - 1) / m

/-- Replace element i of a list. -/
def setAt {α : Type} (l : List α) (i : Nat) (f : α → α) : List α := l.modify i f

/-- Put an element before the first of a list that it goes before. -/
def insertBy {α : Type} (before : α → α → Bool) (a : α) : List α → List α
  | [] => [a]
  | b :: r => if before a b then a :: b :: r else b :: insertBy before a r

/-- Sort a list; of equal elements the earlier stays first. -/
def sortBy {α : Type} (before : α → α → Bool) (l : List α) : List α := l.reverse.foldl (fun r a => insertBy (fun x y => !before y x) a r) []

/-- The sum of a list of numbers. -/
def sumNat (l : List Nat) : Nat := l.foldl (· + ·) 0

/-- The largest of a list of numbers, 0 of an empty one. -/
def maxNat (l : List Nat) : Nat := l.foldl Nat.max 0

/-! ### Memory (R21, R22, R81, R85, R402) -/

/-- What an unlisted byte reads as: HBM and tile stores are zeroed (R47, R400, R402). -/
def Memory.unlisted : Byte := 0

/-- Insert a number into a strictly rising list. -/
def insertNat (k : Nat) : List Nat → List Nat
  | [] => [k]
  | h :: r => if k < h then k :: h :: r else if k = h then h :: r else h :: insertNat k r

/-- The byte a list of cells holds at a key. -/
def cellAt (k : Nat) : List Host.Cell → Byte
  | [] => Memory.unlisted
  | c :: r => if c.1 = k then c.2 else cellAt k r

/-- One byte of memory. -/
def Memory.read (m : Memory) (k : Nat) : Byte := cellAt k m.cells

/-- The cells of a list of cells inside [k, k + n), as n bytes. -/
def cellBytes (cells : List Host.Cell) (k n : Nat) : List Byte :=
  let near := cells.filter (fun c => decide (k ≤ c.1) && decide (c.1 < k + n))
  (List.range n).map (fun i => cellAt (k + i) near)

/-- n bytes of memory from a key on. -/
def Memory.readN (m : Memory) (k n : Nat) : List Byte := cellBytes m.cells k n

/-- The bytes of a list from key k on, as cells, zero bytes left out. -/
def cellsOf (k : Nat) : List Byte → List Host.Cell
  | [] => []
  | b :: r => if b = Memory.unlisted then cellsOf (k + 1) r else (k, b) :: cellsOf (k + 1) r

/-- Cells below key k. -/
def cellsBelow (cells : List Host.Cell) (k : Nat) : List Host.Cell := cells.filter (fun c => decide (c.1 < k))

/-- Cells from key k on. -/
def cellsFrom (cells : List Host.Cell) (k : Nat) : List Host.Cell := cells.filter (fun c => decide (k ≤ c.1))

/-- The 64-byte blocks that [k, k + n) touches. -/
def blocksOf (k n : Nat) : List Nat :=
  if n = 0 then [] else (List.range ((k + n - 1) / 64 + 1 - k / 64)).map (· + k / 64)

/-- Whether any 64-byte block that [k, k + n) touches is poisoned. -/
def Memory.poisoned (m : Memory) (k n : Nat) : Bool :=
  decide (0 < n) && m.poison.any (fun b => decide (k / 64 ≤ b) && decide (b ≤ (k + n - 1) / 64))

/-- The key of the first poisoned block that [k, k + n) touches. -/
def Memory.firstPoison (m : Memory) (k n : Nat) : Option Nat :=
  if n = 0 then none
  else (m.poison.find? (fun b => decide (k / 64 ≤ b) && decide (b ≤ (k + n - 1) / 64))).map (· * 64)

/-- One effect on memory. -/
inductive MemOp where
  /-- Bytes written from a key on; clean data clears the poison of the blocks it covers whole (R85). -/
  | write (key : Nat) (data : List Byte)
  /-- Bytes written that carry poison: every block touched becomes poisoned (R85). -/
  | writePoisoned (key : Nat) (data : List Byte)
  /-- n bytes moved from src to dst, poison carried with them (R85, R344). -/
  | move (src dst n : Nat)
  /-- n bytes set to zero, their poison cleared. -/
  | zero (key n : Nat)
  /-- Every block that [key, key + n) touches becomes poisoned; data stays. -/
  | poison (key n : Nat)
  /-- n bytes whose contents the spec leaves undefined: free bytes of the given draw. -/
  | undefinedBytes (key n draw : Nat)
deriving DecidableEq, Repr

/-- The keys an effect on memory may change: start and length. -/
def MemOp.range : MemOp → Nat × Nat
  | .write k d => (k, d.length)
  | .writePoisoned k d => (k, d.length)
  | .move _ d n => (d, n)
  | .zero k n => (k, n)
  | .poison k _ => (k, 0)
  | .undefinedBytes k n _ => (k, n)

/-- Bytes with the poison of each. -/
abbrev Marked := List (Byte × Bool)

/-- Write bytes; then every 64-byte block that holds a poisoned one is marked (R344, R345). -/
def markedWrite (key : Nat) (l : Marked) : List MemOp :=
  if l.isEmpty then []
  else .write key (l.map (·.1)) :: (l.zipIdx.filter (fun p => p.1.2)).map (fun p => .poison (key + p.2) 1)

/-- Plain bytes, none poisoned. -/
def cleanBytes (l : List Byte) : Marked := l.map (fun b => (b, false))

/-- Poison left after clean data is written to [k, k + n): that of blocks not covered whole (R85). -/
def poisonAfterWrite (p : List Nat) (k n : Nat) : List Nat :=
  p.filter (fun b => !(decide (k ≤ b * 64) && decide (b * 64 + 64 ≤ k + n)))

/-- Mark blocks poisoned. -/
def addPoison (p : List Nat) (blocks : List Nat) : List Nat := blocks.foldl (fun a b => insertNat b a) p

/-- The cells after the bytes of [k, k + n) are replaced by the cells mid. -/
def spliceCells (cells : List Host.Cell) (k n : Nat) (mid : List Host.Cell) : List Host.Cell :=
  cellsBelow cells k ++ mid ++ cellsFrom cells (k + n)

/-- Bytes written from a key on, clean. -/
def Memory.write (m : Memory) (k : Nat) (d : List Byte) : Memory :=
  { cells := spliceCells m.cells k d.length (cellsOf k d), poison := poisonAfterWrite m.poison k d.length }

/-- Destination blocks of a move that receive a byte of a poisoned block. -/
def movedPoison (p : List Nat) (src dst n : Nat) : List Nat :=
  (p.filter (fun b => decide (src < b * 64 + 64) && decide (b * 64 < src + n))).flatMap (fun b =>
    let lo := Nat.max src (b * 64)
    let hi := Nat.min (src + n) (b * 64 + 64)
    blocksOf (dst + (lo - src)) (hi - lo))

/-- The cells of [src, src + n) shifted to dst. -/
def shiftedCells (cells : List Host.Cell) (src dst n : Nat) : List Host.Cell :=
  (cells.filter (fun c => decide (src ≤ c.1) && decide (c.1 < src + n))).map (fun c => (c.1 - src + dst, c.2))

/-- Apply one effect on memory. -/
def Memory.apply (m : Memory) : MemOp → Memory
  | .write k d => m.write k d
  | .writePoisoned k d =>
    { cells := spliceCells m.cells k d.length (cellsOf k d), poison := addPoison m.poison (blocksOf k d.length) }
  | .move src dst n =>
    { cells := spliceCells m.cells dst n (shiftedCells m.cells src dst n),
      poison := addPoison (poisonAfterWrite m.poison dst n) (movedPoison m.poison src dst n) }
  | .zero k n => { cells := spliceCells m.cells k n [], poison := poisonAfterWrite m.poison k n }
  | .poison k n => { cells := m.cells, poison := addPoison m.poison (blocksOf k n) }
  | .undefinedBytes k n draw =>
    { cells := spliceCells m.cells k n (cellsOf k ((List.range n).map (Config.freeByte draw))),
      poison := poisonAfterWrite m.poison k n }

/-- Apply effects on memory in order. -/
def Memory.applyAll (m : Memory) (ops : List MemOp) : Memory := ops.foldl Memory.apply m

/-- Keys of cells strictly rising above a bound, no cell equal to what an unlisted address reads as. -/
def cellsRising : Option Nat → List Host.Cell → Bool
  | _, [] => true
  | lo, c :: r => (match lo with | none => true | some l => decide (l < c.1)) && decide (c.2 ≠ Memory.unlisted) &&
      cellsRising (some c.1) r

/-- Numbers strictly rising above a bound. -/
def natsRising : Option Nat → List Nat → Bool
  | _, [] => true
  | lo, b :: r => (match lo with | none => true | some l => decide (l < b)) && natsRising (some b) r

/-- The canonical form of memory: cells strictly rising and none zero, poisoned blocks strictly rising. -/
def Memory.wf (m : Memory) : Bool := cellsRising none m.cells && natsRising none m.poison

/-- Memory effects on the state. -/
def State.write (s : State) (k : Nat) (d : List Byte) : State :=
  { s with mem := s.mem.write k d, writes := s.writes ++ [(k, d.length)] }

/-- Memory effects on the state. -/
def State.memOps (s : State) (ops : List MemOp) : State :=
  { s with mem := s.mem.applyAll ops, writes := s.writes ++ ops.map MemOp.range }

/-- Whether two ranges have a byte in common. -/
def rangesMeet (p q : Nat × Nat) : Bool :=
  decide (0 < p.2) && decide (0 < q.2) && decide (p.1 < q.1 + q.2) && decide (q.1 < p.1 + p.2)

/-- Whether any of a list of ranges has been written since the first n writes. -/
def State.writtenSince (s : State) (n : Nat) (l : List (Nat × Nat)) : Bool := (s.writes.drop n).any (fun w => l.any (rangesMeet w))

/-- The key of a tile-store byte (R22). -/
def tileKey (tile off : Nat) : Nat := 2 ^ 45 + tile * 2 ^ 25 + off

/-- One past the last HBM offset (R22). -/
def hbmEnd : Nat := 0xC000000000

/-! ### The register file (R7) -/

/-- The key of a field in the register file: its register's offset and its lowest bit. -/
def Field.key (f : Field) : Nat := f.off * 64 + f.lo

/-- Look a key up in a list of pairs. -/
def lookupNat (k : Nat) : List (Nat × Nat) → Option Nat
  | [] => none
  | p :: r => if p.1 = k then some p.2 else lookupNat k r

/-- Set a key in a list of pairs in strictly rising key order. -/
def storeNat (k v : Nat) : List (Nat × Nat) → List (Nat × Nat)
  | [] => [(k, v)]
  | p :: r => if k < p.1 then (k, v) :: p :: r else if k = p.1 then (k, v) :: r else p :: storeNat k v r

/-- The value the register file holds for a field: its reset value until something sets it. -/
def State.reg (s : State) (f : Field) : Nat := (lookupNat f.key s.regs).getD f.reset

/-- Set a field, cut to its width. -/
def State.setReg (s : State) (f : Field) (v : Nat) : State :=
  { s with regs := storeNat f.key (v % 2 ^ f.width) s.regs }

/-- Set several fields in order. -/
def State.setRegs (s : State) (l : List (Field × Nat)) : State := l.foldl (fun s p => s.setReg p.1 p.2) s

/-- Add to a counter, which wraps at its width. -/
def State.bump (s : State) (f : Field) (n : Nat) : State := s.setReg f (s.reg f + n)

/-- Add to several counters. -/
def State.bumps (s : State) (l : List (Field × Nat)) : State := l.foldl (fun s p => s.bump p.1 p.2) s

/-- Raise a field to a value if it is below. -/
def State.raiseReg (s : State) (f : Field) (v : Nat) : State := if s.reg f < v then s.setReg f v else s

/-- Forget the values of every field a test on the register offset selects: they read as reset again. -/
def State.resetRegs (s : State) (sel : Nat → Bool) : State :=
  { s with regs := s.regs.filter (fun p => !sel (p.1 / 64)) }

/-- Draw the next free value (log entry 2). -/
def State.draw (s : State) : Nat × State := (Config.freeValue s.free, { s with free := s.free + 1 })

/-- Send something out of a connector. -/
def State.emit (s : State) (o : Output) : State := { s with outputs := s.outputs ++ [o] }

/-! ### What the host reaches (R387, R400, R409, R433) -/

/-- The main rails are on: dies, links and host port run. -/
def State.powered (s : State) : Bool := decide (s.carrier.power = .on)

/-- SEC_STATUS state: BOOTING. -/
def secBooting : Nat := 0
/-- SEC_STATUS state: RUNNING. -/
def secRunning : Nat := 1
/-- SEC_STATUS state: RECOVERY. -/
def secRecovery : Nat := 2

/-- The effect t of a host write to a boot and attestation register: none without power, Unsupported Request in D3hot. -/
def State.secWrite (s t : State) : State :=
  if !s.powered then s else if s.pcie.d3hot then s.emit .unsupported else t

/-- The effect t of a host write to any other register or doorbell: in RECOVERY only the SEC_ registers are served. -/
def State.hostWrite (s t : State) : State :=
  s.secWrite (if s.reg Reg.SEC_STATUS_state = secRecovery then s else t)

/-! ### Tasks, rings, jobs -/

/-- A task by its place in the task table. -/
def State.task? (s : State) (id : TaskId) : Option Task := s.tasks.find? (fun t => decide (t.id = id))

/-- Replace the entry of a task. -/
def State.setTask (s : State) (t : Task) : State :=
  { s with tasks := s.tasks.map (fun u => if u.id = t.id then t else u) }

/-- Free the entry of a task. -/
def State.dropTask (s : State) (id : TaskId) : State :=
  { s with tasks := s.tasks.filter (fun u => !decide (u.id = id)) }

/-- A ring that still has its reset values. -/
def Ring.initial (id : Nat) : Ring where
  id := id
  base := 0
  log2Size := 6
  enabled := false
  cqBase := 0
  head := 0
  tail := 0
  cqTail := 0
  cqHead := 0
  progress := none
  heldByRecord := false
  fenced := false
  tableFull := false
  stalled := none
  carried := false
  closing := false
  waiting := []
  vector := 1 + id % 2047

/-- A ring. -/
def State.ring (s : State) (id : Nat) : Ring := (s.rings.find? (fun r => decide (r.id = id))).getD (Ring.initial id)

/-- Insert or replace a ring, in rising ID order. -/
def putRing (r : Ring) : List Ring → List Ring
  | [] => [r]
  | h :: t => if r.id < h.id then r :: h :: t else if r.id = h.id then r :: t else h :: putRing r t

/-- Replace a ring. -/
def State.setRing (s : State) (r : Ring) : State := { s with rings := putRing r s.rings }

/-- The Chart's record of a job. -/
def State.chartJob? (s : State) (job : Nat) : Option ChartJob :=
  s.chart.bind (fun c => c.jobs.find? (fun j => decide (j.id = job)))

/-- The job a ring is allocated to (R36). -/
def Chart.ringJob? (c : Chart) (ring : Nat) : Option Nat :=
  (c.rings.find? (fun a => decide (a.first ≤ ring) && decide (ring < a.first + a.count))).map (·.job)

/-- The job a ring is allocated to. -/
def State.ringJob? (s : State) (ring : Nat) : Option Nat := s.chart.bind (·.ringJob? ring)

/-- A job's run state on this module. -/
def State.job? (s : State) (job : Nat) : Option Job := s.jobs.find? (fun j => decide (j.id = job))

/-- ERR_JOB_STATE's state of a job: 0 ABSENT, 1 RUNNING, 2 TERMINATING, 3 KILLED. -/
def State.jobState (s : State) (job : Nat) : Nat := ((s.job? job).map (·.state)).getD 0

/-- Change a job's run state. -/
def State.setJob (s : State) (j : Job) : State :=
  { s with jobs := s.jobs.map (fun k => if k.id = j.id then j else k) }

/-- CHT_STATUS.state: NONE. -/
def chtNone : Nat := 0
/-- CHT_STATUS.state: LOADING. -/
def chtLoading : Nat := 1
/-- CHT_STATUS.state: ACTIVE. -/
def chtActive : Nat := 2
/-- CHT_STATUS.state: DRAINING. -/
def chtDraining : Nat := 3

/-- The Chart state (R40). -/
def State.chtState (s : State) : Nat := s.reg Reg.CHT_STATUS_state

/-- The module's node ID; none while it has no coordinates (R45). -/
def State.node? (s : State) : Option Nat := s.chart.map (·.nodeId)

/-- Whether a feature has been accepted (R392, R393). -/
def State.accepted (s : State) (f : Nat) : Bool :=
  s.reg Reg.DEV_FEAT_CTRL_committed == 1 && bit (s.reg Reg.DEV_FEAT_ACCEPT_accept) f

/-! ### Status codes (R354) -/

/-- Completed. -/
def stOK : Nat := 0x00
/-- Beyond the buffer bound. -/
def stBOUND : Nat := 0x01
/-- Scale and data streams out of step. -/
def stSCALE_SKEW : Nat := 0x02
/-- Poisoned data consumed. -/
def stPOISON : Nat := 0x03
/-- Packet truncated or unreachable. -/
def stTRUNC : Nat := 0x04
/-- Deadline expired or contribution too late. -/
def stLATE : Nat := 0x05
/-- Contribution failed its checksum. -/
def stCSUM : Nat := 0x06
/-- Window or placement violation. -/
def stACCESS : Nat := 0x07
/-- Speculative task discarded. -/
def stSPEC_DISCARD : Nat := 0x08
/-- Data-path parity or control-structure error. -/
def stPARITY : Nat := 0x09
/-- Invalid format, encoding or combination. -/
def stFORMAT : Nat := 0x0A
/-- Table epoch not available. -/
def stEPOCH_STALE : Nat := 0x0B
/-- PCIe completion timeout. -/
def stHOSTTIMEOUT : Nat := 0x0C
/-- Job terminated. -/
def stJOB_KILLED : Nat := 0x0D
/-- Structure image rejected. -/
def stCHART_INVALID : Nat := 0x0E
/-- Shadow execution found no majority. -/
def stSHADOW_MISMATCH : Nat := 0x0F

/-- The first status of a list of checks that is not OK, in order. -/
def firstFailure : List Nat → Nat
  | [] => stOK
  | x :: r => if x = stOK then firstFailure r else x

/-- A check: the status where its condition fails. -/
def failIf (bad : Bool) (status : Nat) : Nat := if bad then status else stOK

end Sys2Proof.Machine
end

