-- ==== Sys2Proof/Machine/Flags.lean ====
section
/-!
DEFINITION. The status the block shows outside: event bits and the device event ring (R395, R396), MSI-X (R394), error
records (R356, R357), completion queues' vectors, and the registers whose value is a view of other state.
-/

namespace Sys2Proof.Machine

/-! ### MSI-X (R394) -/

/-- A vector's table entry; an entry nothing has written is masked. -/
def State.msixEntry (s : State) (v : Nat) : MsixEntry :=
  (s.pcie.msix.find? (fun e => decide (e.vector = v))).getD ⟨v, 0, 0, true⟩

/-- Whether a vector may not be sent now: its mask bit, the function mask, or MSI-X disabled (log entry 5). -/
def State.vectorMasked (s : State) (v : Nat) : Bool :=
  (s.msixEntry v).masked || s.pcie.msixMaskAll || !s.pcie.msixEnable

/-- Send a vector's message and start its holdoff. -/
def State.sendVector (s : State) (v : Nat) : State :=
  let e := s.msixEntry v
  let h := s.reg Reg.DEV_MSIX_MOD_holdoff_us
  let hold := s.pcie.holdoff.filter (fun x => !decide (x.1 = v))
  let hold' := if h = 0 then hold else (v, s.now + h * 100, false) :: hold
  { s with
    pcie := { s.pcie with pba := s.pcie.pba.filter (fun x => !decide (x = v)), holdoff := hold' },
    outputs := s.outputs ++ [.msix v e.addr e.data] }

/-- Trigger a vector: masked, it sets its PBA bit; inside a holdoff, it waits for the end; else it is sent (R394). -/
def State.raiseVector (s : State) (v : Nat) : State :=
  if s.vectorMasked v then { s with pcie := { s.pcie with pba := insertNat v s.pcie.pba } }
  else if s.pcie.holdoff.any (fun x => decide (x.1 = v)) then
    { s with pcie := { s.pcie with holdoff := s.pcie.holdoff.map (fun x => if x.1 = v then (x.1, x.2.1, true) else x) } }
  else s.sendVector v

/-- The vector of a ring's completions (R392, R394). -/
def State.ringVector (s : State) (ring : Nat) : Nat := if s.accepted 2 then (s.ring ring).vector else 1

/-! ### The device event ring (R395, R396) -/

/-- The 32 bytes of an event record. -/
def eventRecord (f : Field) (unit phase seq time arg0 arg1 : Nat) : List Byte :=
  let page := if 0xC00000 ≤ f.off then f.off / 0x1000 % 16 else 0
  leBytes 2 (f.off / 0x100000 % 256 * 256 + page * 8 + f.lo % 8) ++ leBytes 1 unit ++ leBytes 1 phase ++ leBytes 4 seq ++
    leBytes 8 time ++ leBytes 8 arg0 ++ leBytes 8 arg1

/-- The phase bit of record number n of a ring of 2^log2 records (R66). -/
def phaseBit (n log2 : Nat) : Nat := 1 - n / 2 ^ log2 % 2

/-- Write an event record, or count it as lost (R396); without EVENT_RING accepted neither (R392). -/
def State.eventRing (s : State) (f : Field) (unit arg0 arg1 : Nat) : State :=
  let log2 := s.reg Reg.DEV_EVQ_CFG_log2_size
  let tail := s.reg Reg.DEV_EVQ_PTR_tail
  let head := s.reg Reg.DEV_EVQ_PTR_head
  if !s.accepted 1 then s
  else if s.reg Reg.DEV_EVQ_CFG_enable = 0 ∨ (tail + 2 ^ 32 - head) % 2 ^ 32 = 2 ^ log2 then
    (s.bump Reg.DEV_CNT_EVENT_LOST 1).setReg Reg.DEV_EVENT_event_lost 1
  else
    let rec_ := eventRecord f unit (phaseBit tail log2) s.eventSeq s.now arg0 arg1
    let s1 := s.write (s.reg Reg.DEV_EVQ_BASE_base * 32 + tail % 2 ^ log2 * 32) rec_
    let s2 := s1.setReg Reg.DEV_EVQ_PTR_tail (tail + 1)
    { s2 with eventSeq := s2.eventSeq + 1 }.raiseVector 0

/-- An event that a chapter posts: its W1C bit is set, and it goes to the device event ring (R395). -/
def State.post (s : State) (f : Field) (unit : Nat := 0xFF) (arg0 : Nat := 0) (arg1 : Nat := 0) : State :=
  (s.setReg f 1).eventRing f unit arg0 arg1

/-! ### Error records (R356, R357) -/

/-- The fields of an error record that its writer chooses. -/
structure ErrorRecord where
  source : Nat
  status : Nat := 0
  severity : Nat
  die : Nat
  tile : Nat := 0xFF
  unit : Nat := 0xFF
  job : Nat := 0xFFFF
  addr : Nat := 0
  signalTag : Nat := 0
  userTag : Nat := 0
  count : Nat := 1
  detail0 : Nat := 0
  detail1 : Nat := 0
deriving DecidableEq, Repr

/-- The 64 bytes of an error record. -/
def ErrorRecord.bytes (r : ErrorRecord) (time seq phase : Nat) : List Byte :=
  leBytes 1 r.source ++ leBytes 1 r.status ++ leBytes 1 r.severity ++ leBytes 1 r.die ++ leBytes 1 r.tile ++
    leBytes 1 r.unit ++ leBytes 2 r.job ++ leBytes 8 r.addr ++ leBytes 4 r.signalTag ++ leBytes 4 r.userTag ++
    leBytes 8 time ++ leBytes 4 seq ++ leBytes 4 r.count ++ leBytes 8 r.detail0 ++ leBytes 8 r.detail1 ++ leBytes 8 phase

/-- Write an error record to the log and post error_logged; a record the log cannot take is counted (R357). -/
def State.logError (s : State) (r : ErrorRecord) : State :=
  let log2 := s.reg Reg.ERR_LOG_CFG_log2_entries
  let tail := s.reg Reg.ERR_LOG_PTR_tail
  let head := s.reg Reg.ERR_LOG_PTR_head
  if s.reg Reg.ERR_LOG_CFG_enable = 0 then s.bump Reg.ERR_CNT_LOST 1
  else if (tail + 2 ^ 32 - head) % 2 ^ 32 = 2 ^ log2 then (s.bump Reg.ERR_CNT_LOST 1).post Reg.ERR_EVENT_log_overflow
  else
    let at_ := s.reg Reg.ERR_LOG_BASE_base * 64 + tail % 2 ^ log2 * 64
    (({ s with errorSeq := s.errorSeq + 1 }.write at_ (r.bytes s.now s.errorSeq (phaseBit tail log2))).setReg Reg.ERR_LOG_PTR_tail (tail + 1)).post
      Reg.ERR_EVENT_error_logged

/-- How long errors of severity CORRECTED from one location merge into one record: 1 ms in reference cycles (R357). -/
def mergeCycles : Nat := 100000

/-- The record of merged corrections. R356 names no source of its own for them: a stack's has HBM_UE, a tile store's SRAM_UE
(log entry 10). -/
def Correction.record (c : Correction) : ErrorRecord :=
  { source := if c.tile = 0xFF then 1 else 2, severity := 0, die := c.die, tile := c.tile, unit := c.unit, addr := c.addr,
    count := c.count }

/-- An error of severity CORRECTED joins the record of its location that is open, or opens one (R357). -/
def State.corrected (s : State) (die tile unit addr : Nat) : State :=
  let here := fun (c : Correction) => decide (c.die = die) && decide (c.tile = tile) && decide (c.unit = unit)
  { s with corrections :=
      if s.corrections.any here then s.corrections.map (fun c => if here c then { c with count := c.count + 1 } else c)
      else s.corrections ++ [⟨die, tile, unit, addr, s.now, 1⟩] }

/-- Merged records whose 1 ms has passed are written (R357). -/
def State.writeCorrections (s : State) : State :=
  let due := fun (c : Correction) => decide (c.since + mergeCycles ≤ s.now)
  (s.corrections.filter due).foldl (fun a c => a.logError c.record)
    { s with corrections := s.corrections.filter (fun c => !due c) }

/-- The die of a tile. -/
def tileDie (tile : Nat) : Nat := tile / 8

/-! ### Views: RO fields whose value other state gives -/

/-- The tiles the module has retired (R49). -/
def State.retiredMask (s : State) : Nat := s.binnacle.retired

/-- The entry that a ring has taken is not finished (R62, R65, R78). -/
def Ring.inWork (r : Ring) : Bool := r.progress.isSome || r.heldByRecord || r.stalled.isSome

/-- SCH_RING_STATE.state (R77). -/
def ringStateCode (r : Ring) : Nat :=
  if !r.enabled && !r.inWork then 0
  else if r.tableFull then 3
  else if r.stalled.isSome then 6
  else if r.fenced then 5
  else if r.heldByRecord || (r.cqTail + 2 ^ 32 - r.cqHead) % 2 ^ 32 = 2 ^ r.log2Size then 4
  else if r.progress.isSome || r.head ≠ r.tail then 2
  else 1

/-- Table entries in use on a die (R53). -/
def State.tableUse (s : State) (die : Nat) : Nat := (s.tasks.filter (fun t => decide (t.id.die = die))).length

/-- Whether the engine of a class at a place runs a task. -/
def State.engineBusy (s : State) (engine place : Nat) : Bool :=
  s.tasks.any (fun t => decide (t.desc.engine = engine) && decide (t.phase = .running) &&
    decide (t.substitute.getD t.tile = place))

end Sys2Proof.Machine
end

