-- ==== Sys2Proof/Machine/Numbers.lean ====
section
/-!
DEFINITION. Number formats (R149 to R153), narrowing and stochastic rounding (R152, R171), block scaling (R156), the
rotation transform (R164), Philox (R169, R170), and the numeric telemetry (R172, R173).
-/

namespace Sys2Proof.Machine

/-! ### Exact values -/

/-- A value: NaN, a signed infinity, or (−1)^neg · mag · 2^exp, so that a zero keeps its sign. -/
inductive Num where
  | nan
  | inf (neg : Bool)
  | fin (neg : Bool) (mag : Nat) (exp : Int)
deriving DecidableEq, Repr

/-- Positive zero. -/
def Num.zero : Num := .fin false 0 0

/-- A finite value. -/
def Num.isFinite : Num → Bool
  | .fin _ _ _ => true
  | _ => false

/-- A finite value other than zero. -/
def Num.isNonzero : Num → Bool
  | .fin _ m _ => decide (m ≠ 0)
  | _ => false

/-- The integer i times 2^e. -/
def Num.ofInt (i : Int) (e : Int) : Num := .fin (decide (i < 0)) i.natAbs e

/-- The signed mantissa of a finite value. -/
def signedMag (neg : Bool) (m : Nat) : Int := if neg then -(m : Int) else m

/-- The negated value. -/
def Num.neg : Num → Num
  | .nan => .nan
  | .inf n => .inf (!n)
  | .fin n m e => .fin (!n) m e

/-- The magnitude. -/
def Num.abs : Num → Num
  | .nan => .nan
  | .inf _ => .inf false
  | .fin _ m e => .fin false m e

/-- The sign bit; a NaN's is clear. -/
def Num.isNeg : Num → Bool
  | .nan => false
  | .inf n => n
  | .fin n _ _ => n

/-- A finite value times 2^k. -/
def Num.scale (v : Num) (k : Int) : Num :=
  match v with
  | .fin n m e => .fin n m (e + k)
  | x => x

/-- The mantissa of a value at a lower exponent. -/
def alignTo (m : Int) (e lo : Int) : Int := m * 2 ^ (e - lo).toNat

/-- IEEE 754 product, exact (R212). -/
def Num.mul : Num → Num → Num
  | .nan, _ => .nan
  | _, .nan => .nan
  | .inf a, .inf b => .inf (a != b)
  | .inf a, .fin b m _ => if m = 0 then .nan else .inf (a != b)
  | .fin a m _, .inf b => if m = 0 then .nan else .inf (a != b)
  | .fin a m e, .fin b n f => .fin (a != b) (m * n) (e + f)

/-- IEEE 754 sum, exact, with the zero signs of round-to-nearest. -/
def Num.add : Num → Num → Num
  | .nan, _ => .nan
  | _, .nan => .nan
  | .inf a, .inf b => if a = b then .inf a else .nan
  | .inf a, .fin _ _ _ => .inf a
  | .fin _ _ _, .inf b => .inf b
  | .fin a m e, .fin b n f =>
    let lo := min e f
    let sum := alignTo (signedMag a m) e lo + alignTo (signedMag b n) f lo
    if sum = 0 then .fin (a && b) 0 0 else Num.ofInt sum lo

/-- Compare two finite magnitudes m·2^e and n·2^f: less than. -/
def magLt (m : Nat) (e : Int) (n : Nat) (f : Int) : Bool :=
  let lo := min e f
  decide (alignTo m e lo < alignTo n f lo)

/-- Less than, for values that are no NaN: the order of the extended reals, zeros equal. -/
def Num.lt : Num → Num → Bool
  | .nan, _ => false
  | _, .nan => false
  | .inf a, .inf b => a && !b
  | .inf a, .fin _ _ _ => a
  | .fin _ _ _, .inf b => !b
  | .fin a m e, .fin b n f =>
    let lo := min e f
    decide (alignTo (signedMag a m) e lo < alignTo (signedMag b n) f lo)

/-- The larger of two magnitudes of finite values; other values count as zero. -/
def maxAbs (a b : Num) : Num :=
  match a, b with
  | .fin _ m e, .fin _ n f => if magLt m e n f then .fin false n f else .fin false m e
  | .fin _ m e, _ => .fin false m e
  | _, .fin _ n f => .fin false n f
  | _, _ => .zero

/-! ### Formats (R149) -/

/-- FP32. -/
def fmtFP32 : Nat := 0
/-- BF16. -/
def fmtBF16 : Nat := 1
/-- FP16. -/
def fmtFP16 : Nat := 2
/-- E4M3. -/
def fmtE4M3 : Nat := 3
/-- E5M2. -/
def fmtE5M2 : Nat := 4
/-- E3M2. -/
def fmtE3M2 : Nat := 5
/-- E2M1. -/
def fmtE2M1 : Nat := 6
/-- INT8. -/
def fmtINT8 : Nat := 7

/-- Exponent bits, bias and mantissa bits of a floating format. -/
def fmtShape : Nat → Nat × Nat × Nat
  | 0 => (8, 127, 23)
  | 1 => (8, 127, 7)
  | 2 => (5, 15, 10)
  | 3 => (4, 7, 3)
  | 4 => (5, 15, 2)
  | 5 => (3, 3, 2)
  | 6 => (2, 1, 1)
  | _ => (0, 0, 7)

/-- Storage bits of an element (R126, R151): E3M2 takes a byte. -/
def fmtBits : Nat → Nat
  | 0 => 32
  | 1 => 16
  | 2 => 16
  | 6 => 4
  | _ => 8

/-- Bits of an encoding without its sign. -/
def fmtMagBits (f : Nat) : Nat := let (e, _, m) := fmtShape f; e + m

/-- The code of the largest finite magnitude (R149). -/
def fmtMaxCode : Nat → Nat
  | 0 => 0x7F7FFFFF
  | 1 => 0x7F7F
  | 2 => 0x7BFF
  | 3 => 0x7E
  | 4 => 0x7B
  | 5 => 0x1F
  | 6 => 0x7
  | _ => 127

/-- The canonical NaN (R150); formats without NaN have 0. -/
def fmtNaN : Nat → Nat
  | 0 => 0x7FC00000
  | 1 => 0x7FC0
  | 2 => 0x7E00
  | 3 => 0x7F
  | 4 => 0x7F
  | _ => 0

/-- The code of +infinity, for formats that have one. -/
def fmtInf? : Nat → Option Nat
  | 0 => some 0x7F800000
  | 1 => some 0x7F80
  | 2 => some 0x7C00
  | 4 => some 0x7C
  | _ => none

/-- Formats of fewer than 8 bits: E3M2 has 6 and E2M1 has 4 (R149). -/
def fmtBelow8 (f : Nat) : Bool := f == 5 || f == 6

/-- Formats of 8 bits or fewer. -/
def fmtNarrow (f : Nat) : Bool := decide (3 ≤ f)

/-- The value of a magnitude code of a floating format. -/
def codeMag (f c : Nat) : Nat × Int :=
  let (_, bias, man) := fmtShape f
  let field := c / 2 ^ man
  if field = 0 then (c, 1 - (bias : Int) - man)
  else (2 ^ man + c % 2 ^ man, (field : Int) - bias - man)

/-- The value of an element's stored bits (R149, R151). -/
def decodeElem (f bits_ : Nat) : Num :=
  if f = fmtINT8 then Num.ofInt (toSigned 8 bits_) 0
  else
    let mb := fmtMagBits f
    let neg := bit bits_ mb
    let c := bits_ % 2 ^ mb
    if c ≤ fmtMaxCode f then let (m, e) := codeMag f c; .fin neg m e
    else if fmtInf? f = some c then .inf neg
    else .nan

/-- The largest finite value of a format. -/
def fmtMax (f : Nat) : Nat × Int := if f = fmtINT8 then (127, 0) else codeMag f (fmtMaxCode f)

/-! ### Rounding (R152, R171) -/

/-- p / q rounded to the nearest integer, ties to even. -/
def rneDiv (p q : Nat) : Nat :=
  let n := p / q
  let r := p % q
  if 2 * r < q then n else if q < 2 * r then n + 1 else if n % 2 = 0 then n else n + 1

/-- The floor of log2 of p/q times 2^e, for p and q above zero. -/
def ratLog2 (p q : Nat) (e : Int) : Int :=
  let d : Int := (Nat.log2 p : Int) - (Nat.log2 q : Int)
  let below : Bool := if 0 ≤ d then decide (p < q * 2 ^ d.toNat) else decide (p * 2 ^ (-d).toNat < q)
  (if below then d - 1 else d) + e

/-- The exponent of one step of a floating format around a magnitude, as a count above the smallest subnormal's. -/
def stepIndex (f p q : Nat) (e : Int) : Nat :=
  (ratLog2 p q e - (1 - ((fmtShape f).2.1 : Int))).toNat

/-- The exponent of the smallest subnormal of a floating format. -/
def fmtMinExp (f : Nat) : Int := let (_, bias, man) := fmtShape f; 1 - (bias : Int) - man

/-- The fraction p/q times 2^(e − x) as a ratio of naturals. -/
def shiftRatio (p q : Nat) (d : Int) : Nat × Nat := if 0 ≤ d then (p * 2 ^ d.toNat, q) else (p, q * 2 ^ (-d).toNat)

/-- The magnitude code nearest to p/q · 2^e in a floating format, exponent range unbounded above, ties to even; INT8
rounds to an integer. -/
def nearestCode (f p q : Nat) (e : Int) : Nat :=
  if p = 0 then 0
  else if f = fmtINT8 then let (a, b) := shiftRatio p q e; rneDiv a b
  else
    let man := (fmtShape f).2.2
    let k := stepIndex f p q e
    let (a, b) := shiftRatio p q (e - (fmtMinExp f + k))
    k * 2 ^ man + rneDiv a b

/-- The magnitude code at or just below p/q · 2^e, and the 16-bit truncated position to the next code (R171). -/
def floorCode (f p q : Nat) (e : Int) : Nat × Nat :=
  if p = 0 then (0, 0)
  else
    let man := if f = fmtINT8 then 0 else (fmtShape f).2.2
    let k := if f = fmtINT8 then 0 else stepIndex f p q e
    let lo : Int := if f = fmtINT8 then 0 else fmtMinExp f + k
    let (a, b) := shiftRatio p q (e - lo)
    ((if f = fmtINT8 then 0 else k * 2 ^ man) + a / b, a % b * 65536 / b)

/-- The stored bits of a magnitude code with a sign. -/
def withSign (f : Nat) (neg : Bool) (c : Nat) : Nat :=
  if f = fmtINT8 then ofSigned 8 (signedMag neg c) else c + (if neg then 2 ^ fmtMagBits f else 0)

/-- Counts of conversions into one target format (R172). -/
structure Tele where
  ovf : Nat := 0
  vanish : Nat := 0
  nonfinite : Nat := 0
  sr : Nat := 0
deriving DecidableEq, Repr

/-- The sum of two counts. -/
def Tele.plus (a b : Tele) : Tele := ⟨a.ovf + b.ovf, a.vanish + b.vanish, a.nonfinite + b.nonfinite, a.sr + b.sr⟩

/-- Finish a rounded magnitude of a value that is or is not zero: overflow to infinity or to the largest finite value,
zero with the value's sign (R150, R152). -/
def finishCode (f : Nat) (neg nonzero : Bool) (c : Nat) : Nat × Tele :=
  if fmtMaxCode f < c then
    match f with
    | 0 | 1 | 2 => (withSign f neg ((fmtInf? f).getD 0), { ovf := 1 })
    | _ => (withSign f neg (fmtMaxCode f), { ovf := 1 })
  else (withSign f neg c, { vanish := flag (nonzero && decide (c = 0)) })

/-- Conversion of the ratio p/q · 2^e with a sign, round to nearest even (R152). -/
def convertRatio (f : Nat) (neg : Bool) (p q : Nat) (e : Int) : Nat × Tele :=
  finishCode f neg (decide (p ≠ 0)) (nearestCode f p q e)

/-- Conversion of an infinity (R152). -/
def convertInf (f : Nat) (neg : Bool) : Nat :=
  match fmtInf? f with
  | some c => withSign f neg c
  | none => if f = fmtE4M3 then fmtNaN f else withSign f neg (fmtMaxCode f)

/-- Conversion by round to nearest, ties to even (R152). -/
def convertRne (f : Nat) (v : Num) : Nat × Tele :=
  match v with
  | .nan => (fmtNaN f, { nonfinite := 1 })
  | .inf n => (convertInf f n, { nonfinite := 1 })
  | .fin n m e => convertRatio f n m 1 e

/-- Whether a magnitude code is exactly p/q · 2^e. -/
def codeIsExact (f c p q : Nat) (e : Int) : Bool :=
  let (a, x) := if f = fmtINT8 then (c, (0 : Int)) else codeMag f c
  !magLt (a * q) x p e && !magLt p e (a * q) x

/-- The 16-bit position of a negative value −p/q · 2^e above its lower neighbour, whose magnitude is the larger (R171). -/
def negPosition (f p q : Nat) (e : Int) : Nat :=
  let k := if f = fmtINT8 then 0 else stepIndex f p q e
  let lo : Int := if f = fmtINT8 then 0 else fmtMinExp f + k
  let (a, b) := shiftRatio p q (e - lo)
  (b - a % b) * 65536 / b

/-- Stochastic rounding of ±p/q · 2^e with 16 random bits (R171). -/
def convertSrRatio (f r : Nat) (n : Bool) (p q : Nat) (e : Int) : Nat × Tele :=
  let (mm, me) := fmtMax f
  if magLt (mm * q) me p e then (withSign f n (fmtMaxCode f), { ovf := 1, sr := 1 })
  else
    let (c, frac) := floorCode f p q e
    let up := if n then decide (¬ (r < negPosition f p q e)) else decide (r < frac)
    let c' := if decide (frac = 0) && codeIsExact f c p q e then c else if up then c + 1 else c
    (withSign f n c', { vanish := flag (decide (p ≠ 0) && decide (c' = 0)), sr := 1 })

/-- Stochastic rounding with 16 random bits (R171): an infinity saturates to the largest finite value and counts as OVERFLOW.
R171 gives a NaN no result; it becomes the target's canonical NaN and counts as NONFINITE (R150, R152; log entry 43). -/
def convertSr (f : Nat) (r : Nat) (v : Num) : Nat × Tele :=
  match v with
  | .nan => (fmtNaN f, { nonfinite := 1, sr := 1 })
  | .inf n => (withSign f n (fmtMaxCode f), { ovf := 1, sr := 1 })
  | .fin n m e => convertSrRatio f r n m 1 e

/-- FP32 bits of a value, rounded to nearest even. -/
def toFp32 (v : Num) : Nat := (convertRne fmtFP32 v).1

/-- The value of FP32 bits. -/
def ofFp32 (b : Nat) : Num := decodeElem fmtFP32 b

/-! ### Checksum coefficients (R303) -/

/-- 2^61 − 1. -/
def csumP : Nat := 2 ^ 61 - 1

/-- coef of R303. -/
def coef (i : Nat) : Nat := 1 + i * 0x9E3779B97F4A7C15 % 2 ^ 64 % (csumP - 1)

/-! ### Stored elements (R126, R151) -/

/-- Bytes that n elements take. -/
def elemBytes (f n : Nat) : Nat := ceilDiv (n * fmtBits f) 8

/-- Element i of a run of stored elements. -/
def elemBits (f : Nat) (b : List Byte) (i : Nat) : Nat :=
  if f = fmtE2M1 then (fieldLe b (i / 2) 1) / 16 ^ (i % 2) % 16
  else
    let w := fmtBits f / 8
    let v := fieldLe b (i * w) w
    if f = fmtE3M2 then v % 64 else v

/-- The values of n stored elements. -/
def decodeElems (f : Nat) (b : List Byte) (n : Nat) : List Num :=
  (List.range n).map (fun i => decodeElem f (elemBits f b i))

/-- The bytes of a list of stored element codes. -/
def packElems (f : Nat) : List Nat → List Byte
  | [] => []
  | c :: r =>
    if f = fmtE2M1 then
      match r with
      | [] => [BitVec.ofNat 8 (c % 16)]
      | d :: r' => BitVec.ofNat 8 (c % 16 + d % 16 * 16) :: packElems f r'
    else leBytes (fmtBits f / 8) c ++ packElems f r

/-! ### Philox4x32-10 and the bits of stochastic rounding (R169, R170) -/

/-- One round of Philox4x32. -/
def philoxRound (k0 k1 : Nat) (c : List Nat) : List Nat :=
  match c with
  | [c0, c1, c2, c3] =>
    let p0 := 0xD2511F53 * c0
    let p1 := 0xCD9E8D57 * c2
    [Nat.xor (Nat.xor (p1 / 2 ^ 32) c1) k0, p1 % 2 ^ 32, Nat.xor (Nat.xor (p0 / 2 ^ 32) c3) k1, p0 % 2 ^ 32]
  | x => x

/-- n rounds of Philox4x32, the key bumped between them. -/
def philoxRounds : Nat → Nat → Nat → List Nat → List Nat
  | 0, _, _, c => c
  | n + 1, k0, k1, c => philoxRounds n ((k0 + 0x9E3779B9) % 2 ^ 32) ((k1 + 0xBB67AE85) % 2 ^ 32) (philoxRound k0 k1 c)

/-- Philox4x32-10: the words w0 to w3. -/
def philox (k0 k1 : Nat) (c : List Nat) : List Nat := philoxRounds 10 k0 k1 c

/-- The 16 random bits of an element (R170). -/
def srBits (seed idx tensorId step : Nat) : Nat :=
  let q := idx / 8
  let w := philox (seed % 2 ^ 32) (seed / 2 ^ 32 % 2 ^ 32)
    [q % 2 ^ 32, Nat.lor (bits q 44 32) (0x52 * 2 ^ 24), step % 2 ^ 32, tensorId % 2 ^ 32]
  let j := idx % 8
  w.getD (j / 2) 0 / 2 ^ (16 * (j % 2)) % 65536

/-- How a conversion rounds: to nearest even, or stochastically with the 16 bits of each element. -/
inductive Rounding where
  | rne
  | sr (bitsOf : List Nat)
deriving DecidableEq, Repr

/-- Element i of a list converted with its rounding. -/
def convertAt (f : Nat) (mode : Rounding) (i : Nat) (v : Num) : Nat × Tele :=
  match mode with
  | .rne => convertRne f v
  | .sr l => if f = fmtFP32 then convertRne f v else convertSr f (l.getD i 0) v

/-- A list converted element by element. -/
def convertList (f : Nat) (mode : Rounding) (l : List Num) : List Nat × Tele :=
  let r := l.zipIdx.map (fun p => convertAt f mode p.2 p.1)
  (r.map (·.1), (r.map (·.2)).foldl Tele.plus {})

/-! ### Block scaling (R156) -/

/-- What the telemetry keeps of a scaled block (R172, R173). -/
structure BlockStat where
  kind : Nat
  scale : Nat
  vanish : Nat
  clamped : Bool
  amax : Nat
deriving DecidableEq, Repr

/-- A scaled block: its scale byte, stored codes, counts and record. -/
structure Scaled where
  scale : Nat
  codes : List Nat
  tele : Tele
  stat : BlockStat
deriving DecidableEq, Repr

/-- The smallest x with m·2^e · 2^−x at most fmax, for m above zero: the ceiling of log2 of the ratio. -/
def scaleExp (f m : Nat) (e : Int) : Int :=
  let (mm, me) := fmtMax f
  -- ceil(log2 (m 2^e / (mm 2^me)))
  let fl := ratLog2 m mm (e - me)
  let (a, b) := shiftRatio m mm (e - me - fl)
  if a = b then fl else fl + 1

/-- scale_block of R156. -/
def scaleBlock (v : List Num) (f kind : Nat) (mode : Rounding) : Scaled :=
  if v.any (fun x => !x.isFinite) then
    ⟨0xFF, v.map (fun _ => 0), { nonfinite := 1 }, ⟨kind, 0xFF, 0, false, 0⟩⟩
  else
    match v.foldl maxAbs .zero with
    | .fin _ m e =>
      if m = 0 then ⟨0, v.map (fun _ => 0), {}, ⟨kind, 0, 0, false, 0⟩⟩
      else
        let x0 := scaleExp f m e
        let x := max (-127) x0
        let (codes, t) := convertList f mode (v.map (fun y => y.scale (-x)))
        ⟨(x + 127).toNat, codes, t, ⟨kind, (x + 127).toNat, t.vanish, decide (x0 < -127), toFp32 (.fin false m e)⟩⟩
    | _ => ⟨0, v.map (fun _ => 0), {}, ⟨kind, 0, 0, false, 0⟩⟩

/-- The value of a stored element under a scale byte (R153). -/
def scaledValue (f s code : Nat) : Num := if s = 0xFF then .nan else (decodeElem f code).scale ((s : Int) - 127)

/-! ### The rotation transform (R164) -/

/-- The sign of entry (i, j) of the Sylvester Hadamard matrix: negative where i AND j has odd parity. -/
def hadamardNeg (i j : Nat) : Bool :=
  let x := Nat.land i j
  ((List.range 7).filter (bit x)).length % 2 == 1

/-- Row-vector times H_n, exact: component j of a group of n values. -/
def hadamard (v : List Num) : List Num :=
  (List.range v.length).map (fun j =>
    (v.zipIdx.map (fun p => if hadamardNeg p.2 j then p.1.neg else p.1)).foldl Num.add .zero)

/-- (1/n)·H_nᵀ applied to a group of n values. -/
def hadamardScaled (v : List Num) : List Num := (hadamard v).map (fun x => x.scale (-(Nat.log2 v.length : Int)))

/-- A list cut into pieces of n. -/
def chunksFuel {α : Type} (n : Nat) : Nat → List α → List (List α)
  | 0, _ => []
  | k + 1, l => if l.isEmpty then [] else l.take n :: chunksFuel n k (l.drop n)

/-- A list cut into pieces of n. -/
def chunks {α : Type} (n : Nat) (l : List α) : List (List α) := chunksFuel n l.length l

/-! ### Telemetry (R172, R173) -/

/-- The counters of conversions into a format. -/
def teleBumps (f : Nat) (t : Tele) : List (Field × Nat) :=
  [(Reg.TEL_FMT_OVF f, t.ovf), (Reg.TEL_FMT_VANISH f, t.vanish), (Reg.TEL_FMT_NONFINITE f, t.nonfinite),
    (Reg.TEL_CNT_SR, t.sr)]

/-- The drift watch of a kind. -/
def State.driftOf (s : State) (k : Nat) : DriftWindow := s.drift.getD k DriftWindow.reset

/-- One scaled block enters the drift watch of its kind; a full window is evaluated (R173). -/
def State.driftBlock (s : State) (b : BlockStat) : State :=
  if s.reg Reg.TEL_DRIFT_CFG_enable = 0 ∨ 5 ≤ b.kind then s
  else
    let w := s.driftOf b.kind
    let w1 : DriftWindow :=
      { blocks := w.blocks + 1, vanish := w.vanish + b.vanish,
        maxScale := if b.scale = 0xFF then w.maxScale else Nat.max w.maxScale b.scale,
        clamped := w.clamped || b.clamped, previous := w.previous }
    if w1.blocks < 2 ^ s.reg Reg.TEL_DRIFT_CFG_window_log2 then { s with drift := s.drift.set b.kind w1 }
    else
      let frac := w1.vanish * 65536 / (w1.blocks * 32)
      let vanish := decide (s.reg Reg.TEL_DRIFT_CFG_vanish_limit * (w1.blocks * 32) < w1.vanish * 65536)
      let prev := w1.previous.getD w1.maxScale
      let shift := decide (s.reg Reg.TEL_DRIFT_CFG_shift_limit < Nat.max prev w1.maxScale - Nat.min prev w1.maxScale)
      let s1 := { s with drift := s.drift.set b.kind { DriftWindow.reset with previous := some w1.maxScale } }
      if vanish || shift || w1.clamped then
        let s2 := s1.setRegs [(Reg.TEL_DRIFT_STATUS_last_max b.kind, w1.maxScale),
          (Reg.TEL_DRIFT_STATUS_prev_max b.kind, w1.previous.getD 0),
          (Reg.TEL_DRIFT_STATUS_vanish_frac b.kind, Nat.min frac 65535)]
        let s3 := if w1.clamped then s2.setReg (Reg.TEL_DRIFT_STATUS_clamp b.kind) 1 else s2
        let s4 := if shift then s3.setReg (Reg.TEL_DRIFT_STATUS_shift b.kind) 1 else s3
        let s5 := if vanish then s4.setReg (Reg.TEL_DRIFT_STATUS_vanish b.kind) 1 else s4
        s5.post Reg.TEL_EVENT_calibration_drift b.kind
      else s1

/-- A scaled block reaches the telemetry: amax of its kind, a 0xFF block's event, and the drift watch (R172, R173). -/
def State.blockStat (s : State) (b : BlockStat) : State :=
  let s1 := if b.kind < 5 then s.raiseReg (Reg.TEL_AMAX_amax b.kind) b.amax else s
  let s2 := if b.scale = 0xFF then s1.post Reg.TEL_EVENT_nonfinite else s1
  s2.driftBlock b

/-- Scaled blocks reach the telemetry in order. -/
def State.blockStats (s : State) (l : List BlockStat) : State := l.foldl State.blockStat s

end Sys2Proof.Machine
end

