-- ==== Sys2Proof/Machine/Functions.lean ====
section
/-!
DEFINITION. The correctly rounded functions of the vector engine (R244) and of SOFTMAX (R188). A transcendental function is
enclosed between two fixed-point numbers; where both round to the same FP32 value that is the result, else it is left open
(log entry 9).
-/

namespace Sys2Proof.Machine

/-! ### Fixed point: integers that stand for multiples of 2^−640 -/

/-- The number of fraction bits of an enclosure. -/
def fixBits : Nat := 640

/-- One, in fixed point. -/
def fixOne : Nat := 2 ^ fixBits

/-- An enclosure: a lower and an upper bound in fixed point. -/
structure Enclosure where
  lo : Nat
  hi : Nat
deriving DecidableEq, Repr

/-- The enclosure of p/q · 2^e. -/
def Enclosure.ofRatio (p q : Nat) (e : Int) : Enclosure :=
  let (a, b) := shiftRatio p q (e + fixBits)
  ⟨a / b, ceilDiv a b⟩

/-- The sum of two enclosures. -/
def Enclosure.add (a b : Enclosure) : Enclosure := ⟨a.lo + b.lo, a.hi + b.hi⟩

/-- The difference of two enclosures whose lower bound is not negative. -/
def Enclosure.sub (a b : Enclosure) : Enclosure := ⟨a.lo - b.hi, a.hi - b.lo⟩

/-- The product of two enclosures. -/
def Enclosure.mul (a b : Enclosure) : Enclosure := ⟨a.lo * b.lo / fixOne, ceilDiv (a.hi * b.hi) fixOne⟩

/-- The quotient of two enclosures, the divisor above zero. -/
def Enclosure.div (a b : Enclosure) : Enclosure := ⟨a.lo * fixOne / b.hi, ceilDiv (a.hi * fixOne) b.lo⟩

/-- An enclosure times a natural number. -/
def Enclosure.scale (a : Enclosure) (n : Nat) : Enclosure := ⟨a.lo * n, a.hi * n⟩

/-- Terms of a positive series: term k+1 is term k times x times num k over den k; the sum of the terms left below n, and a
remainder no larger than the last term counts as the upper bound's excess. -/
def seriesLow (x : Nat) (num den : Nat → Nat) : Nat → Nat → Nat → Nat → Nat
  | 0, _, _, acc => acc
  | n + 1, k, term, acc => seriesLow x num den n (k + 1) (term * x / fixOne * num k / den k) (acc + term)

/-- The same sum with every term rounded up. -/
def seriesHigh (x : Nat) (num den : Nat → Nat) : Nat → Nat → Nat → Nat → Nat
  | 0, _, term, acc => acc + 2 * term
  | n + 1, k, term, acc => seriesHigh x num den n (k + 1) (ceilDiv (ceilDiv (term * x) fixOne * num k) (den k)) (acc + term)

/-- The enclosure of a series of positive terms that shrink at least by half from term n on. -/
def series (n : Nat) (x first : Enclosure) (num den : Nat → Nat) : Enclosure :=
  ⟨seriesLow x.lo num den n 0 first.lo 0, seriesHigh x.hi num den n 0 first.hi 0⟩

/-- Square an enclosure n times. -/
def Enclosure.square : Nat → Enclosure → Enclosure
  | 0, a => a
  | n + 1, a => Enclosure.square n (a.mul a)

/-- e^x for x in 0 to 256: the series at x / 4096, squared twelve times. -/
def expPos (x : Enclosure) : Enclosure :=
  let y : Enclosure := ⟨x.lo / 4096, ceilDiv x.hi 4096⟩
  (series 110 y ⟨fixOne, fixOne⟩ (fun _ => 1) (fun k => k + 1)).square 12

/-- One, enclosed. -/
def oneEnc : Enclosure := ⟨fixOne, fixOne⟩

/-- e^±x. -/
def expEnc (neg : Bool) (x : Enclosure) : Enclosure := if neg then oneEnc.div (expPos x) else expPos x

/-- 2 atanh(p/q), the logarithm of (q + p)/(q − p), for p/q at most 1/3. -/
def twoAtanh (p q : Nat) : Enclosure :=
  let z := Enclosure.ofRatio p q 0
  (series 220 (z.mul z) z (fun k => 2 * k + 1) (fun k => 2 * k + 3)).scale 2

/-- ln 2. -/
def ln2 : Enclosure := twoAtanh 1 3

/-- The floor of the square root of n, one bit of the result at a time from bit k down. -/
def isqrtBits (n : Nat) : Nat → Nat → Nat
  | 0, r => r
  | k + 1, r => let t := r + 2 ^ k; isqrtBits n k (if t * t ≤ n then t else r)

/-- The floor of the square root of n. -/
def isqrt (n : Nat) : Nat := isqrtBits n (Nat.log2 n / 2 + 1) 0

/-- atan(1/n), by its alternating series. -/
def atanInv (n : Nat) : Enclosure :=
  let x := Enclosure.ofRatio 1 (n * n * n * n) 0
  let plus := series 150 x (Enclosure.ofRatio 1 n 0) (fun k => 4 * k + 1) (fun k => 4 * k + 5)
  let minus := series 150 x (Enclosure.ofRatio 1 (3 * n * n * n) 0) (fun k => 4 * k + 3) (fun k => 4 * k + 7)
  plus.sub minus

/-- π, by Machin's formula. -/
def piEnc : Enclosure := ((atanInv 5).scale 16).sub ((atanInv 239).scale 4)

/-- The square root of an enclosure. -/
def Enclosure.sqrt (a : Enclosure) : Enclosure := ⟨isqrt (a.lo * fixOne), isqrt (a.hi * fixOne) + 1⟩

/-- Φ(x) − 1/2 for x from 0 to 16: φ(x) times the sum of x^(2n+1)/(2n+1)!!. -/
def normalHalf (x : Enclosure) : Enclosure :=
  let x2 := x.mul x
  let half : Enclosure := ⟨x2.lo / 2, ceilDiv x2.hi 2⟩
  let phi := (expEnc true half).div ((piEnc.scale 2).sqrt)
  phi.mul (series 900 x2 x (fun _ => 1) (fun k => 2 * k + 3))

/-- One half, enclosed. -/
def halfEnc : Enclosure := ⟨fixOne / 2, fixOne / 2⟩

/-- Round an enclosed value to FP32; function code and operand name the value where the enclosure does not decide it. -/
def roundEnclosure (fn arg : Nat) (neg : Bool) (x : Enclosure) : Nat :=
  let a := (convertRatio fmtFP32 neg x.lo 1 (-(fixBits : Int))).1
  let b := (convertRatio fmtFP32 neg x.hi 1 (-(fixBits : Int))).1
  if a = b then a else Config.undecidedRounding fn arg

/-! ### FP32 functions -/

/-- Canonical NaN. -/
def nan32 : Nat := 0x7FC00000

/-- Infinity with a sign. -/
def inf32 (neg : Bool) : Nat := if neg then 0xFF800000 else 0x7F800000

/-- Zero with a sign. -/
def zero32 (neg : Bool) : Nat := if neg then 0x80000000 else 0

/-- One with a sign. -/
def one32 (neg : Bool) : Nat := if neg then 0xBF800000 else 0x3F800000

/-- m · 2^e is at least n. -/
def atLeast (m : Nat) (e : Int) (n : Nat) : Bool := !magLt m e n 0

/-- e^v of a value, rounded to nearest even (R188, R244): beyond 2^128 it is +infinity, below 2^−150 it is +0. -/
def exp32 (arg : Nat) (v : Num) : Nat :=
  match v with
  | .nan => nan32
  | .inf n => if n then 0 else inf32 false
  | .fin n m e =>
    if m = 0 then one32 false
    else if atLeast m e 105 then (if n then 0 else inf32 false)
    else roundEnclosure 0x10 arg false (expEnc n (Enclosure.ofRatio m 1 e))

/-- ln v. -/
def log32 (arg : Nat) (v : Num) : Nat :=
  match v with
  | .nan => nan32
  | .inf n => if n then nan32 else inf32 false
  | .fin n m e =>
    if m = 0 then inf32 true
    else if n then nan32
    else
      let l := Nat.log2 m
      let k := (l : Int) + e
      let frac := twoAtanh (m - 2 ^ l) (m + 2 ^ l)
      let whole := ln2.scale k.natAbs
      if 0 ≤ k then (if m = 2 ^ l ∧ k = 0 then 0 else roundEnclosure 0x11 arg false (whole.add frac))
      else roundEnclosure 0x11 arg true (whole.sub frac)

/-- tanh v. -/
def tanh32 (arg : Nat) (v : Num) : Nat :=
  match v with
  | .nan => nan32
  | .inf n => one32 n
  | .fin n m e =>
    if m = 0 then zero32 n
    else if atLeast m e 20 then one32 n
    else
      let x := expPos (Enclosure.ofRatio m 1 (e + 1))
      roundEnclosure 0x12 arg n ((x.sub oneEnc).div (x.add oneEnc))

/-- e^v / (1 + e^v) for a finite non-zero v, enclosed. -/
def sigmoidEnc (n : Bool) (m : Nat) (e : Int) : Enclosure :=
  let x := expPos (Enclosure.ofRatio m 1 e)
  if n then oneEnc.div (oneEnc.add x) else x.div (oneEnc.add x)

/-- 1 ÷ (1 + e^−v). -/
def sigmoid32 (arg : Nat) (v : Num) : Nat :=
  match v with
  | .nan => nan32
  | .inf n => if n then 0 else one32 false
  | .fin n m e =>
    if m = 0 then 0x3F000000
    else if atLeast m e 105 then (if n then 0 else one32 false)
    else roundEnclosure 0x13 arg false (sigmoidEnc n m e)

/-- v ÷ (1 + e^−v). -/
def silu32 (arg : Nat) (v : Num) : Nat :=
  match v with
  | .nan => nan32
  | .inf n => if n then zero32 true else inf32 false
  | .fin n m e =>
    if m = 0 then zero32 n
    else if atLeast m e 120 then (if n then zero32 true else toFp32 v)
    else roundEnclosure 0x15 arg n ((Enclosure.ofRatio m 1 e).mul (sigmoidEnc n m e))

/-- v × Φ(v). -/
def gelu32 (arg : Nat) (v : Num) : Nat :=
  match v with
  | .nan => nan32
  | .inf n => if n then zero32 true else inf32 false
  | .fin n m e =>
    if m = 0 then zero32 n
    else if atLeast m e 15 then (if n then zero32 true else toFp32 v)
    else
      let x := Enclosure.ofRatio m 1 e
      let h := normalHalf x
      roundEnclosure 0x14 arg n (x.mul (if n then halfEnc.sub h else halfEnc.add h))

/-- The FP32 value nearest to the square root of num/den · 2^e, e even and num/den at least 2^60: the integer part with a
sticky half, since no square root is a midpoint. -/
def roundRoot (num den : Nat) (e : Int) : Nat :=
  let s := isqrt (num / den)
  if s * s * den = num then (convertRatio fmtFP32 false s 1 (e / 2)).1
  else (convertRatio fmtFP32 false (2 * s + 1) 1 (e / 2 - 1)).1

/-- √v. -/
def sqrt32 (v : Num) : Nat :=
  match v with
  | .nan => nan32
  | .inf n => if n then nan32 else inf32 false
  | .fin n m e =>
    if m = 0 then zero32 n
    else if n then nan32
    else
      let t : Nat := if e % 2 = 0 then 64 else 65
      roundRoot (m * 2 ^ t) 1 (e - t)

/-- 1 ÷ √v. -/
def rsqrt32 (v : Num) : Nat :=
  match v with
  | .nan => nan32
  | .inf n => if n then nan32 else 0
  | .fin n m e =>
    if m = 0 then inf32 n
    else if n then nan32
    else
      let t : Nat := 2 * (64 + Nat.log2 m) + (if e % 2 = 0 then 0 else 1)
      roundRoot (2 ^ t) m (-e - t)

/-- The exact quotient of two values, rounded to nearest even (R244). -/
def div32 (a b : Num) : Nat :=
  match a, b with
  | .nan, _ => nan32
  | _, .nan => nan32
  | .inf _, .inf _ => nan32
  | .inf x, .fin y _ _ => inf32 (x != y)
  | .fin x _ _, .inf y => zero32 (x != y)
  | .fin x m e, .fin y n f =>
    if n = 0 then (if m = 0 then nan32 else inf32 (x != y))
    else if m = 0 then zero32 (x != y)
    else (convertRatio fmtFP32 (x != y) m n (e - f)).1

end Sys2Proof.Machine
end

