-- ==== Sys2Proof/Machine/Crypto.lean ====
section
/-!
DEFINITION. The published functions that R2 names: SHAKE256 (FIPS 202), Ed448 and Ed448ph (RFC 8032), CRC-24 (RFC 4880), and
the fingerprint of R27. Log entry 6.
-/

namespace Sys2Proof.Machine

/-! ### Keccak-f[1600] and SHAKE256 -/

/-- The 64-bit rotation to the left. -/
def rotl64 (x n : Nat) : Nat := (x * 2 ^ n % 2 ^ 64) + x / 2 ^ (64 - n)

/-- Lane i of a Keccak state. -/
def lane (a : List Nat) (i : Nat) : Nat := a.getD i 0

/-- The rotation offsets of rho, by lane index x + 5y. -/
def rhoOffsets : List Nat :=
  [0, 1, 62, 28, 27, 36, 44, 6, 55, 20, 3, 10, 43, 25, 39, 41, 45, 15, 21, 8, 18, 2, 61, 56, 14]

/-- The round constants of iota. -/
def roundConstants : List Nat :=
  [0x0000000000000001, 0x0000000000008082, 0x800000000000808A, 0x8000000080008000, 0x000000000000808B, 0x0000000080000001,
    0x8000000080008081, 0x8000000000008009, 0x000000000000008A, 0x0000000000000088, 0x0000000080008009, 0x000000008000000A] ++
  [0x000000008000808B, 0x800000000000008B, 0x8000000000008089, 0x8000000000008003, 0x8000000000008002, 0x8000000000000080,
    0x000000000000800A, 0x800000008000000A, 0x8000000080008081, 0x8000000000008080, 0x0000000080000001, 0x8000000080008008]

/-- theta. -/
def keccakTheta (a : List Nat) : List Nat :=
  let c := (List.range 5).map (fun x =>
    Nat.xor (lane a x) (Nat.xor (lane a (x + 5)) (Nat.xor (lane a (x + 10)) (Nat.xor (lane a (x + 15)) (lane a (x + 20))))))
  let d := (List.range 5).map (fun x => Nat.xor (lane c ((x + 4) % 5)) (rotl64 (lane c ((x + 1) % 5)) 1))
  a.zipIdx.map (fun p => Nat.xor p.1 (lane d (p.2 % 5)))

/-- rho and pi: lane (x, y) of the result is lane (x + 3y, x) rotated. -/
def keccakRhoPi (a : List Nat) : List Nat :=
  (List.range 25).map (fun i =>
    let x := i % 5
    let y := i / 5
    let j := (x + 3 * y) % 5 + 5 * x
    rotl64 (lane a j) (rhoOffsets.getD j 0))

/-- chi. -/
def keccakChi (a : List Nat) : List Nat :=
  (List.range 25).map (fun i =>
    let y := i / 5 * 5
    Nat.xor (lane a i) (Nat.land (2 ^ 64 - 1 - lane a (y + (i + 1) % 5)) (lane a (y + (i + 2) % 5))))

/-- One round with its constant. -/
def keccakRound (a : List Nat) (rc : Nat) : List Nat :=
  match keccakChi (keccakRhoPi (keccakTheta a)) with
  | h :: r => Nat.xor h rc :: r
  | [] => []

/-- Keccak-f[1600]. -/
def keccakF (a : List Nat) : List Nat := roundConstants.foldl keccakRound a

/-- Absorb 136-byte blocks. -/
def absorb (fuel : Nat) (st : List Nat) (m : List Byte) : List Nat :=
  match fuel with
  | 0 => st
  | n + 1 =>
    if m.isEmpty then st
    else
      let words := (List.range 25).map (fun i => if i < 17 then fieldLe m (8 * i) 8 else 0)
      absorb n (keccakF ((st.zip words).map (fun p => Nat.xor p.1 p.2))) (m.drop 136)

/-- The 136 bytes that a state gives. -/
def squeezeBlock (st : List Nat) : List Byte := (st.take 17).flatMap (leBytes 8)

/-- Squeeze n blocks. -/
def squeeze : Nat → List Nat → List Byte
  | 0, _ => []
  | n + 1, st => squeezeBlock st ++ squeeze n (keccakF st)

/-- SHAKE256 padding: the suffix 1111 and the rule pad10*1. -/
def shakePad (m : List Byte) : List Byte :=
  let k := 136 - m.length % 136
  if k = 1 then m ++ [0x9F] else m ++ [0x1F] ++ List.replicate (k - 2) 0 ++ [0x80]

/-- SHAKE256 with an n-byte output. -/
def shake256 (m : List Byte) (n : Nat) : List Byte :=
  let p := shakePad m
  (squeeze (ceilDiv n 136) (absorb (p.length / 136) (List.replicate 25 0) p)).take n

/-- A fingerprint of a 57-byte key (R27). -/
def fingerprint (key : List Byte) : List Byte := shake256 key 16

/-- The bytes of an ASCII string. -/
def ascii (t : String) : List Byte := t.toList.map (fun c => BitVec.ofNat 8 c.toNat)

/-! ### Ed448 -/

/-- The field prime 2^448 − 2^224 − 1. -/
def edP : Nat := 2 ^ 448 - 2 ^ 224 - 1

/-- The curve constant d = −39081. -/
def edD : Nat := edP - 39081

/-- The order of the base point. -/
def edL : Nat := 2 ^ 446 - 0x8335dc163bb124b65129c96fde933d8d723a70aadc873d6d54a7bb0d

/-- The difference of two field elements. -/
def fsub (a b : Nat) : Nat := (a + edP - b % edP) % edP

/-- Power by squaring over the bits of an exponent, least significant first. -/
def fpowBits : Nat → Nat → Nat → Nat → Nat
  | 0, _, _, acc => acc
  | n + 1, b, e, acc => fpowBits n (b * b % edP) (e / 2) (if e % 2 = 1 then acc * b % edP else acc)

/-- Power in the field. -/
def fpow (b e : Nat) : Nat := fpowBits (Nat.log2 e + 1) (b % edP) e 1

/-- Inverse in the field. -/
def finv (a : Nat) : Nat := fpow a (edP - 2)

/-- A point in projective coordinates. -/
structure EdPoint where
  x : Nat
  y : Nat
  z : Nat
deriving DecidableEq, Repr

/-- The neutral point. -/
def EdPoint.zero : EdPoint := ⟨0, 1, 1⟩

/-- Addition (RFC 8032, 5.2.4). -/
def EdPoint.add (p q : EdPoint) : EdPoint :=
  let a := p.z * q.z % edP
  let b := a * a % edP
  let c := p.x * q.x % edP
  let d := p.y * q.y % edP
  let e := edD * c % edP * d % edP
  let f := fsub b e
  let g := (b + e) % edP
  let h := (p.x + p.y) * (q.x + q.y) % edP
  ⟨a * f % edP * fsub (fsub h c) d % edP, a * g % edP * fsub d c % edP, f * g % edP⟩

/-- Scalar multiple over the bits of the scalar. -/
def EdPoint.mulBits : Nat → EdPoint → Nat → EdPoint → EdPoint
  | 0, _, _, acc => acc
  | n + 1, p, k, acc => EdPoint.mulBits n (p.add p) (k / 2) (if k % 2 = 1 then acc.add p else acc)

/-- Scalar multiple. -/
def EdPoint.mul (p : EdPoint) (k : Nat) : EdPoint := EdPoint.mulBits (Nat.log2 k + 1) p k EdPoint.zero

/-- Equality of points. -/
def EdPoint.same (p q : EdPoint) : Bool :=
  decide (p.x * q.z % edP = q.x * p.z % edP) && decide (p.y * q.z % edP = q.y * p.z % edP)

/-- The base point. -/
def edBase : EdPoint :=
  { x := 0x4F1970C66BED0DED221D15A622BF36DA9E146570470F1767EA6DE324A3D3A46412AE1AF72AB66511433B80E18B00938E2626A82BC70CC05E,
    y := 0x693F46716EB6BC248876203756C9C7624BEA73736CA3984087789C1E05A0C2D73AD3FF1CE67C39C4FDBD132C4ED7C8AD9808795BF230FA14,
    z := 1 }

/-- The 57 bytes of a point. -/
def EdPoint.encode (p : EdPoint) : List Byte :=
  let zi := finv p.z
  leBytes 57 (p.y * zi % edP + p.x * zi % edP % 2 * 2 ^ 455)

/-- The point that 57 bytes encode, if any. -/
def decodePoint (b : List Byte) : Option EdPoint :=
  let v := leNat b
  let y := v % 2 ^ 455
  let sign := v / 2 ^ 455
  if b.length ≠ 57 ∨ edP ≤ y then none
  else
    let u := fsub (y * y % edP) 1
    let w := fsub (edD * (y * y % edP) % edP) 1
    let u3w := u * u % edP * u % edP * w % edP
    let x := u3w * fpow (u3w * (u * u % edP) % edP * (w * w % edP) % edP) ((edP - 3) / 4) % edP
    if w * (x * x % edP) % edP ≠ u then none
    else if x = 0 ∧ sign = 1 then none
    else some ⟨if x % 2 = sign then x else edP - x, y, 1⟩

/-- The prefix string dom4 of RFC 8032. -/
def dom4 (ph : Nat) (context : List Byte) : List Byte :=
  ascii "SigEd448" ++ leBytes 1 ph ++ leBytes 1 context.length ++ context

/-- The secret scalar and the second half of a private key's hash. -/
def edSecret (sk : List Byte) : Nat × List Byte :=
  let h := shake256 sk 114
  let a := leNat (h.take 57)
  (a % 2 ^ 447 / 4 * 4 + 2 ^ 447, h.drop 57)

/-- The public key of a private key. -/
def edPublic (sk : List Byte) : List Byte := (edBase.mul (edSecret sk).1).encode

/-- An Ed448 signature (ph 0) or Ed448ph signature of a prehashed message (ph 1). -/
def edSign (ph : Nat) (sk context m : List Byte) : List Byte :=
  let (a, pre) := edSecret sk
  let dom := dom4 ph context
  let r := leNat (shake256 (dom ++ pre ++ m) 114) % edL
  let rp := (edBase.mul r).encode
  let k := leNat (shake256 (dom ++ rp ++ edPublic sk ++ m) 114) % edL
  rp ++ leBytes 57 ((r + k * a) % edL)

/-- Whether a 114-byte signature of a message verifies under a key. -/
def edVerify (ph : Nat) (key context m sig : List Byte) : Bool :=
  let rb := sig.take 57
  let s := leNat (sig.drop 57)
  match decodePoint key, decodePoint rb with
  | some a, some r =>
    if sig.length ≠ 114 ∨ edL ≤ s then false
    else
      let k := leNat (shake256 (dom4 ph context ++ rb ++ key ++ m) 114) % edL
      let left := (edBase.mul s).mul 4
      let right := (r.add (a.mul k)).mul 4
      left.same right
  | _, _ => false

/-- A pure Ed448 signature verifies (R411, R417, R419). -/
def ed448Verify (key context m sig : List Byte) : Bool := edVerify 0 key context m sig

/-- An Ed448ph signature over bytes whose 64-byte SHAKE256 digest is the prehash (R28, R404). -/
def ed448phVerify (key context digest sig : List Byte) : Bool := edVerify 1 key context digest sig

/-! ### CRC-24 (R272) -/

/-- Eight steps of the CRC-24 register. -/
def crc24Bits : Nat → Nat → Nat
  | 0, c => c
  | n + 1, c => crc24Bits n (if 2 ^ 23 ≤ c then Nat.xor (c * 2) 0x1864CFB % 2 ^ 24 else c * 2)

/-- CRC-24 of RFC 4880 over bytes. -/
def crc24 (b : List Byte) : Nat := b.foldl (fun c x => crc24Bits 8 (Nat.xor c (x.toNat * 2 ^ 16))) 0xB704CE

end Sys2Proof.Machine
end

