-- ==== Sys2Proof/Machine/Operands.lean ====
section
/-!
DEFINITION. The operand forms: global addresses and their checks (R21 to R23, R76, R438), task descriptors (R50), ring
entries (R61), and the tile groups and substitutes that a place names (R37, R49, R58, R349).
-/

namespace Sys2Proof.Machine

/-! ### Global addresses (R21) -/

/-- node field of a global address. -/
def addrNode (a : Nat) : Nat := bits a 63 48

/-- space field of a global address. -/
def addrSpace (a : Nat) : Nat := bits a 47 45

/-- offset field of a global address. -/
def addrOff (a : Nat) : Nat := bits a 44 0

/-- The memory key of the byte a local address names: HBM and tile store as they are, space 3 at its backing (R80). -/
def State.key (s : State) (a : Nat) : Nat :=
  if addrSpace a = 1 then 2 ^ 45 + addrOff a
  else if addrSpace a = 3 then hbmEnd - ((s.chart.map (·.hotBytes)).getD 0) + addrOff a
  else addrOff a

/-- A 64-bit address plus a byte count, wrapping at 2^64. -/
def addrPlus (a n : Nat) : Nat := (a + n) % 2 ^ 64

/-- A 64-bit address plus a signed byte count. -/
def addrPlusInt (a : Nat) (d : Int) : Nat := ofSigned 64 ((a : Int) + d)

/-- The extents of a Chart, of a module alone where none is installed (R23). -/
def State.extents (s : State) : List Nat := (s.chart.map (·.extents)).getD [1, 1, 1, 1]

/-- Coordinate d of a node ID. -/
def coord (node d : Nat) : Nat := node / 16 ^ d % 16

/-- Whether every coordinate of a node ID is below its extent. -/
def State.nodeExists (s : State) (node : Nat) : Bool :=
  (List.range 4).all (fun d => decide (coord node d < s.extents.getD d 1))

/-- Whether an offset is valid in its space (R22). -/
def State.offsetValid (s : State) (a : Nat) : Bool :=
  match addrSpace a with
  | 0 => decide (addrOff a < hbmEnd)
  | 1 => decide (addrOff a < 2 ^ 31)
  | 3 => decide (addrOff a < (s.chart.map (·.hotBytes)).getD 0)
  | _ => false

/-- The windows of a job that contain a local address and grant the permissions an access needs (R76). -/
def State.windowsAt (s : State) (job a : Nat) (read write remote : Bool) : List Window :=
  ((s.chartJob? job).map (·.windows)).getD [] |>.filter (fun w =>
    decide (w.space = addrSpace a) && decide (w.base ≤ addrOff a) && decide (addrOff a < w.base + w.length) &&
      (!read || w.read) && (!write || w.write) && (!remote || w.remote))

/-- A range of bytes that a descriptor's access covers, with the permissions it needs. -/
structure Range where
  addr : Nat
  len : Nat
  read : Bool := false
  write : Bool := false
deriving DecidableEq, Repr

/-- R23's checks of one address on the owning module, ACCESS where one fails; other modules are refused. -/
def State.accessLocal (s : State) (job a : Nat) (read write remote : Bool) : Nat :=
  failIf (!s.offsetValid a || (decide (addrSpace a = 3) && write) ||
    (s.windowsAt job a read write remote).isEmpty) stACCESS

/-- ACCESS for a range on this module (R23): the address exists, is this module's, and lies in a window of the job. -/
def State.rangeAccess (s : State) (job : Nat) (r : Range) : Nat :=
  if r.len = 0 then stOK
  else if !s.nodeExists (addrNode r.addr) || !decide (s.node? = some (addrNode r.addr)) then stACCESS
  else s.accessLocal job r.addr r.read r.write false

/-- One past the last byte of the highest window that contains the address (R76). -/
def State.windowEnd (s : State) (job : Nat) (r : Range) (remote : Bool) : Nat :=
  maxNat ((s.windowsAt job r.addr r.read r.write remote).map (fun w => w.base + w.length))

/-- BOUND for a range on this module (R76). -/
def State.rangeBound (s : State) (job : Nat) (r : Range) : Nat :=
  failIf (decide (0 < r.len) && decide (s.windowEnd job r false < addrOff r.addr + r.len)) stBOUND

/-- FORMAT for a range: a reserved space (R23). -/
def rangeFormat (r : Range) : Nat := failIf (decide (0 < r.len) && decide (4 ≤ addrSpace r.addr)) stFORMAT

/-- The checks of a descriptor's ranges, in the order FORMAT, ACCESS, BOUND (R76). -/
def State.checkRanges (s : State) (job : Nat) (rs : List Range) : Nat :=
  firstFailure (rs.map rangeFormat ++ rs.map (s.rangeAccess job) ++ rs.map (s.rangeBound job))

/-- ACCESS, then BOUND, of a list of ranges. -/
def State.accessBound (s : State) (job : Nat) (rs : List Range) : Nat :=
  firstFailure (rs.map (s.rangeAccess job) ++ rs.map (s.rangeBound job))

/-- R438: an address is aligned and names one of the listed spaces. -/
def addrForm (a align : Nat) (spaces : List Nat) : Bool := decide (a % align = 0) && spaces.contains (addrSpace a)

/-- Bytes of memory at a global address of this module. -/
def State.readAddr (s : State) (a n : Nat) : List Byte := s.mem.readN (s.key a) n

/-- A little-endian value at a global address of this module. -/
def State.readLe (s : State) (a n : Nat) : Nat := leNat (s.readAddr a n)

/-- Whether a range of this module's memory holds poison. -/
def State.poisonedAt (s : State) (a n : Nat) : Bool := s.mem.poisoned (s.key a) n

/-- The global address of a memory key on this module. -/
def State.addrOfKey (s : State) (k : Nat) : Nat := s.node?.getD 0 * 2 ^ 48 + k

/-! ### Task descriptors (R50) and ring entries (R61) -/

/-- Engine classes of R51. -/
def engNOP : Nat := 0
/-- ARRAY_A. -/
def engARRAY_A : Nat := 1
/-- ARRAY_B. -/
def engARRAY_B : Nat := 2
/-- ARRAY_AB. -/
def engARRAY_AB : Nat := 3
/-- EDGE. -/
def engEDGE : Nat := 4
/-- VECTOR. -/
def engVECTOR : Nat := 5
/-- DMA. -/
def engDMA : Nat := 6
/-- SAMPLE. -/
def engSAMPLE : Nat := 7
/-- UPDATE. -/
def engUPDATE : Nat := 8
/-- REMOTE. -/
def engREMOTE : Nat := 9
/-- COLLECTIVE. -/
def engCOLLECTIVE : Nat := 10
/-- HOST_DMA. -/
def engHOST_DMA : Nat := 11

/-- Classes whose place is a group or a tile. -/
def isTileClass (e : Nat) : Bool := decide (1 ≤ e) && decide (e ≤ 6)

/-- Classes whose place is a die. -/
def isDieClass (e : Nat) : Bool := e == 0 || e == 7 || e == 8

/-- Classes whose place is an I/O die. -/
def isIoClass (e : Nat) : Bool := decide (9 ≤ e) && decide (e ≤ 11)

/-- A descriptor's fields from its 64 bytes. -/
def parseDesc (b : List Byte) : TaskDesc :=
  let b1 := fieldLe b 1 1
  let b5 := fieldLe b 5 1
  { engine := fieldLe b 0 1, delayList := bits b1 7 6, waitMode := bits b1 5 4, spec := bit b1 3, priority := bits b1 2 0,
    depCount := fieldLe b 2 2, place := fieldLe b 4 1, placeTile := bit b5 6, phaseId := bits b5 5 0,
    commitCount := fieldLe b 6 1, args := fieldLe b 8 8, argsBytes := fieldLe b 0x10 4, waitTicks := fieldLe b 0x14 2,
    signalTag := fieldLe b 0x18 4, userTag := fieldLe b 0x1C 4,
    succ := [fieldLe b 0x20 4, fieldLe b 0x24 4, fieldLe b 0x28 4, fieldLe b 0x2C 4], expirySucc := fieldLe b 0x30 4,
    interrupt := bit (fieldLe b 0x34 1) 1, notify := bit (fieldLe b 0x34 1) 0 }

/-- A ring entry from its 64 bytes. -/
def parseEntry (b : List Byte) : RingEntry :=
  ⟨fieldLe b 0 1, bits (fieldLe b 1 1) 0 0, fieldLe b 8 8, fieldLe b 0x10 4, fieldLe b 0x14 4⟩

/-- The HBM key of entry i of a ring (R63). -/
def Ring.entryKey (r : Ring) (i : Nat) : Nat := r.base * 64 + i % 2 ^ r.log2Size * 64

/-! ### Tiles and groups -/

/-- Tiles of a mask, ascending. -/
def maskTiles (m : Nat) : List Nat := (List.range 64).filter (bit m)

/-- The Chart's group with an ID. -/
def State.group? (s : State) (g : Nat) : Option TileGroup :=
  s.chart.bind (fun c => c.groups.find? (fun x => decide (x.id = g)))

/-- The group that holds a tile. -/
def State.groupOf? (s : State) (tile : Nat) : Option TileGroup :=
  s.chart.bind (fun c => c.groups.find? (fun x => bit x.mask tile))

/-- Whether the Chart excludes a tile. -/
def State.excluded (s : State) (tile : Nat) : Bool := bit ((s.chart.map (·.excluded)).getD 0) tile

/-- Whether a tile is retired. -/
def State.retired (s : State) (tile : Nat) : Bool := bit s.retiredMask tile

/-- Placeable: in a group, neither excluded nor retired (R37). -/
def State.placeable (s : State) (tile : Nat) : Bool :=
  (s.groupOf? tile).isSome && !s.excluded tile && !s.retired tile

/-- Whether a job may use a group (R31 group_mask). -/
def State.jobMayUse (s : State) (job g : Nat) : Bool := ((s.chartJob? job).map (fun j => bit j.groupMask g)).getD false

/-- The substitute tiles of a tile for a job, lowest first (R349). -/
def State.substitutes (s : State) (job tile : Nat) : List Nat :=
  ((List.range 8).map (· + tile / 8 * 8)).filter (fun t =>
    decide (t ≠ tile) && s.placeable t && ((s.groupOf? t).map (fun g => s.jobMayUse job g.id)).getD false)

/-- The substitute tile of a tile for a job (R349). -/
def State.substitute? (s : State) (job tile : Nat) : Option Nat := (s.substitutes job tile).head?

/-- A wide-and-shallow group keeps its arrangement while none of its tiles is retired (R49). -/
def State.wideGroup (s : State) (g : TileGroup) : Bool := g.wide && (maskTiles g.mask).all (fun t => !s.retired t)

/-- The tile that runs a task: its substitute in remote-read mode, else its own. -/
def Task.runTile (t : Task) : Nat := t.substitute.getD t.tile

/-- The wide-and-shallow group an array task runs its slices on, if any (R216); after a tile of the group retires the
slices stay where they are, in the standard arrangement (R217). -/
def State.wideGroupOf? (s : State) (t : Task) : Option TileGroup :=
  if (t.desc.engine = engARRAY_A ∨ t.desc.engine = engARRAY_B) ∧ t.desc.placeTile = false then
    (s.group? t.desc.place).filter (·.wide)
  else none

/-- The tile that runs a task's slice of a tile of its wide-and-shallow group (R217, R351). -/
def Task.sliceTile (t : Task) (x : Nat) : Nat := (lookupNat x t.moved).getD x

/-- The tiles whose engine a task of a tile class holds. -/
def State.heldTiles (s : State) (t : Task) : List Nat :=
  match s.wideGroupOf? t with
  | some g => (maskTiles g.mask).map t.sliceTile
  | none => [t.runTile]

/-- Whether two tile classes need a common engine: ARRAY_AB occupies both slots (R59). -/
def enginesClash (a b : Nat) : Bool :=
  a == b || (a == engARRAY_AB && (b == engARRAY_A || b == engARRAY_B)) ||
    (b == engARRAY_AB && (a == engARRAY_A || a == engARRAY_B))

end Sys2Proof.Machine
end

