-- ==== Sys2Proof/Machine/Banks.lean ====
section
/-!
DEFINITION. Where an HBM byte lives (R79), and the requests that a die's stacks have in flight: DMA tags and miss registers, the
caps of banks, and the grant of tags oldest first (R86 to R90).
-/

namespace Sys2Proof.Machine

/-! ### The place of an HBM byte (R79) -/

/-- The place of an HBM byte. -/
structure HbmPlace where
  die : Nat
  stack : Nat
  channel : Nat
  pc : Nat
  bank : Nat
  page : Nat
  column : Nat
  byte : Nat
deriving DecidableEq, Repr

/-- The die of an HBM offset. -/
def hbmDie (offset : Nat) : Nat :=
  if offset < 0xA000000000 then offset / 0x1400000000 else bits (offset - 0xA000000000) 14 12

/-- The address a of an HBM offset within its die. -/
def hbmAddr (offset : Nat) : Nat :=
  let z := offset - 0xA000000000
  if offset < 0xA000000000 then offset % 0x1400000000 else 0x1400000000 + bits z 36 15 * 4096 + bits z 11 0

/-- hbm_map of R79. -/
def hbmMap (offset : Nat) : HbmPlace :=
  let die := hbmDie offset
  let a := hbmAddr offset
  { die := die, stack := 2 * die + Nat.xor (bits a 8 8) (bits a 28 28), channel := Nat.xor (bits a 13 9) (bits a 23 19),
    pc := bits a 14 14, bank := Nat.xor (bits a 18 15) (bits a 27 24), page := bits a 36 19, column := bits a 7 6,
    byte := bits a 5 0 }

/-- The pseudo-channel of a place within its stack: channel and half. -/
def HbmPlace.pseudo (p : HbmPlace) : Nat := p.channel * 2 + p.pc

/-- The bank of an HBM offset: one number for each of the module's 16,384 banks. -/
def hbmBank (offset : Nat) : Nat :=
  let p := hbmMap offset
  (p.stack * 64 + p.pseudo) * 16 + p.bank

/-! ### Requests (R86, R88) -/

/-- DMA tags of a die (R86). -/
def tagPool : Nat := 4096

/-- The units of m bytes, none crossing a multiple of m, that the HBM part of n bytes at a memory key takes: 512 for DMA tags,
64 for miss registers (R86). -/
def hbmUnits (m key n : Nat) : Nat := if n = 0 ∨ hbmEnd ≤ key then 0 else (key + n - 1) / m + 1 - key / m

/-- The units of a list of ranges. -/
def rangeUnits (m : Nat) (l : List (Nat × Nat)) : Nat := sumNat (l.map (fun r => hbmUnits m r.1 r.2))

/-- The requests for n HBM bytes from an offset on, for a block of a stream: up to 512 bytes each, with the one bank or two
that each spans (R86, R88). -/
def blockRequests (stream : Nat × Nat) (block off n : Nat) : List MemRequest :=
  (List.range (hbmUnits 512 off n)).map (fun j =>
    let lo := Nat.max off ((off / 512 + j) * 512)
    let hi := Nat.min (off + n) ((off / 512 + j + 1) * 512) - 1
    { die := hbmDie lo, banks := [hbmBank lo, hbmBank hi].eraseDups, stream := stream, block := block, granted := false,
      counted := false })

/-- The cap exponent e of a die: limit itself with adapt at 0 (R90). -/
def State.capExp (s : State) (die : Nat) : Nat :=
  if s.reg Reg.MEM_BANK_CAP_adapt = 0 then s.reg Reg.MEM_BANK_CAP_limit else s.reg (Reg.MEM_DIE_cap_exp die)

/-- The DMA requests that a bank of a die may hold (R88). -/
def State.tagCap (s : State) (die : Nat) : Nat := tagPool / 2 ^ s.capExp die

/-- The DMA tags of a die in use (R86). -/
def State.tagsHeld (s : State) (die : Nat) : Nat :=
  (s.memQueue.filter (fun q => q.granted && decide (q.die = die))).length

/-- More than 75 % of a die's tags are in use (R97). -/
def State.tagsBusy (s : State) (die : Nat) : Bool := decide (tagPool * 3 / 4 < s.tagsHeld die)

/-! ### The grant (R88, R89) -/

/-- Grant tags oldest first: a request with a bank at its cap is skipped, and neither bank of a request that waits is given
to a younger one (R89). The first list is what has been looked at, the second what has not, the third the banks of
requests that wait. -/
def State.grants (s : State) : List MemRequest → List MemRequest → List Nat → List MemRequest
  | done, [], _ => done
  | done, q :: rest, closed =>
    let held := (done ++ q :: rest).filter (·.granted)
    let full := q.banks.any (fun b => decide (s.tagCap q.die ≤ (held.filter (fun r => r.banks.contains b)).length))
    if q.granted then s.grants (done ++ [q]) rest closed
    else if full || q.banks.any closed.contains then
      s.grants (done ++ [{ q with counted := q.counted || full }]) rest (closed ++ q.banks)
    else if tagPool ≤ (held.filter (fun r => decide (r.die = q.die))).length then
      s.grants (done ++ [q]) rest (closed ++ q.banks)
    else s.grants (done ++ [{ q with granted := true }]) rest closed

/-- Requests that have found their bank at its cap. -/
def countedRequests (l : List MemRequest) : Nat := (l.filter (·.counted)).length

/-- Tags go to the requests that may have them; each that finds its bank at its cap is counted once (R88, R89). -/
def State.regrant (s : State) : State :=
  let q := s.grants [] s.memQueue []
  let n := countedRequests q - countedRequests s.memQueue
  let s1 : State := { s with memQueue := q }
  if n = 0 then s1 else s1.bump Reg.MEM_CNT_HOT_BANK n

/-- Requests enter their dies' memory queues (R89). -/
def State.enterRequests (s : State) (l : List MemRequest) : State := ({ s with memQueue := s.memQueue ++ l } : State).regrant

/-- Requests of a test leave: their data is delivered, or their stream has closed (R86, R98). -/
def State.releaseRequests (s : State) (sel : MemRequest → Bool) : State :=
  ({ s with memQueue := s.memQueue.filter (fun q => !sel q) } : State).regrant

/-- Every request of a stream's block has its tag. -/
def State.blockGranted (s : State) (stream : Nat × Nat) (block : Nat) : Bool :=
  s.memQueue.all (fun q => !decide (q.stream = stream) || !decide (q.block = block) || q.granted)

end Sys2Proof.Machine
end

