-- ==== Sys2Proof/Machine/TaskOps.lean ====
section
/-!
DEFINITION. The named operations over tasks: signals and readiness (R55 to R58), records (R66), completion (R56, R345,
R353), job termination (R346), tile retirement (R351), and how an engine's result reaches the state.
-/

namespace Sys2Proof.Machine

/-! ### Readiness (R55, R58, R67) -/

/-- Tasks of a class that wait on a tile's, die's or I/O die's ready lists (R58). -/
def State.queued (s : State) (engine tile : Nat) : Nat :=
  (s.tasks.filter (fun t => decide (t.desc.engine = engine) && decide (t.runTile = tile) &&
    (match t.phase with | .ready _ => true | _ => false))).length

/-- The better of two tiles for a class by R58: fewest queued tasks, then most thermal headroom (the coolest die), then
the lower tile ID. -/
def State.betterTile (s : State) (engine a b : Nat) : Nat :=
  let qa := s.queued engine a
  let qb := s.queued engine b
  let ta := s.reg (Reg.PLT_DIE_tj (tileDie a))
  let tb := s.reg (Reg.PLT_DIE_tj (tileDie b))
  if qb < qa then b else if qa < qb then a else if tb < ta then b else a

/-- The tile R58 chooses in a group. -/
def State.chooseTile (s : State) (engine mask : Nat) : Option Nat :=
  match (maskTiles mask).filter s.placeable with
  | [] => none
  | h :: r => some (r.foldl (s.betterTile engine) h)

/-- The substitutes of the retired tiles among those of a wide-and-shallow group; none: one of them has none (R217, R351). -/
def State.movedSlices (s : State) (job : Nat) : List Nat → Option (List (Nat × Nat))
  | [] => some []
  | x :: r =>
    match s.movedSlices job r with
    | none => none
    | some m => if s.retired x then (s.substitute? job x).map (fun y => (x, y) :: m) else some m

/-- A ready task at the place it goes to: its tile and, where that tile is retired, its substitute; none: nowhere (R58, R351). -/
def State.placed (s : State) (t : Task) : Option Task :=
  let at_ := fun tile => { t with tile := tile, substitute := none, moved := [] }
  if isTileClass t.desc.engine then
    let viaSubstitute := fun tile => (s.substitute? t.job tile).map (fun x => { at_ tile with substitute := some x })
    if t.desc.placeTile then
      if s.retired t.desc.place then viaSubstitute t.desc.place else some (at_ t.desc.place)
    else
      let mask := ((s.group? t.desc.place).map (·.mask)).getD 0
      match s.wideGroupOf? t with
      | some g => (s.movedSlices t.job (maskTiles g.mask)).map (fun m => { at_ ((maskTiles g.mask).headD 0) with moved := m })
      | none =>
        match s.chooseTile t.desc.engine mask with
        | some x => some (at_ x)
        | none => ((maskTiles mask).filter (fun x => !s.excluded x)).head?.bind viaSubstitute
  else some (at_ t.desc.place)

/-- A task enters a ready list; with no tile left for it, it ends with ACCESS (R58). -/
def State.makeReady (s : State) (t : Task) : State :=
  match s.placed t with
  | some u => s.setTask { u with phase := .ready s.now }
  | none => s.setTask { t with phase := .finished, status := stACCESS }

/-- The scale of a delay list in ticks (R67). -/
def State.delayScale (s : State) (list : Nat) : Nat :=
  1 + s.reg (match list with
    | 0 => Reg.SCH_DELAY_SCALE_scale0_m1
    | 1 => Reg.SCH_DELAY_SCALE_scale1_m1
    | 2 => Reg.SCH_DELAY_SCALE_scale2_m1
    | _ => Reg.SCH_DELAY_SCALE_scale3_m1)

/-- The tick whose passing ends a wait that starts now (R67). -/
def State.waitEnd (s : State) (d : TaskDesc) : Nat := s.tick + 1 + d.waitTicks * s.delayScale d.delayList

/-- A task's counter has reached zero: it becomes ready, or enters its delay list under wait_mode 1 (R55, R67). -/
def State.counterZero (s : State) (t : Task) : State :=
  let t0 := { t with counter := 0 }
  if t.desc.waitMode = 1 ∧ 0 < t.desc.waitTicks then s.setTask { t0 with phase := .delaying (s.waitEnd t.desc) }
  else s.makeReady t0

/-! ### Signals (R55, R57, R70) -/

/-- A task is live until its completion record is written (R53). -/
def Task.live (t : Task) : Bool := !decide (t.phase = .signalling)

/-- The live task of a job under a tag. -/
def State.tagged? (s : State) (job tag : Nat) : Option Task :=
  if tag = 0 then none
  else s.tasks.find? (fun t => t.live && decide (t.job = job) && decide (t.desc.signalTag = tag))

/-- The commit counter has reached zero: a task that has finished is committed; else it commits when it finishes (R70). -/
def State.commitZero (s : State) (t : Task) : State :=
  match t.phase with
  | .undecided => (s.bump Reg.SCH_CNT_SPEC_COMMIT 1).setTask { t with commit := 0, committed := true, phase := .finished }
  | _ => s.setTask { t with commit := 0 }

/-- Decrement a live task's dependence counter by an amount, and, where the signal counts towards commit, what is left
over from its commit counter; the rest is an excess (R55, R70). A signal towards commit of a task that is not speculative
acts on its dependence counter alone (DESIGN CHOICE, log entry 21). -/
def State.decrement (s : State) (t : Task) (amount : Nat) (towardsCommit : Bool) : State :=
  let dep := Nat.min amount t.counter
  let left := amount - dep
  let com := if towardsCommit && t.desc.spec && !t.rerun then Nat.min left t.commit else 0
  let t1 := { t with counter := t.counter - dep, commit := t.commit - com }
  let s1 := s.setTask t1
  let s2 := if 0 < dep ∧ dep = t.counter ∧ t.phase = .waiting then s1.counterZero t1 else s1
  let s3 := if 0 < com ∧ com = t.commit then
      match s2.task? t.id with
      | some u => s2.commitZero u
      | none => s2
    else s2
  s3.bump Reg.SCH_CNT_SIGNAL_EXCESS (left - com)

/-- The pending-signal table holds 65,536 entries (R57). -/
def pendingSize : Nat := 65536

/-- Add a signal to the pending-signal table; none: the table is full (R57). The last entry sets pending_full, which no rule
posts on the device event ring (R77, R395; log entry 10). -/
def State.pendSignal (s : State) (job tag amount : Nat) : Option State :=
  if s.signals.any (fun p => decide (p.job = job) && decide (p.tag = tag)) then
    some { s with signals := s.signals.map (fun p =>
      if p.job = job ∧ p.tag = tag then { p with count := p.count + amount } else p) }
  else if pendingSize ≤ s.signals.length then none
  else
    let s1 := { s with signals := s.signals ++ [⟨job, tag, amount⟩] }
    some (if s1.signals.length = pendingSize then s1.setReg Reg.SCH_EVENT_pending_full 1 else s1)

/-- A signal of an amount for a tag of a job (R55, R57); none: the pending-signal table is full and the signal waits. -/
def State.signal? (s : State) (job tag amount : Nat) (towardsCommit : Bool) : Option State :=
  if amount = 0 then some s
  else if tag = 0 then some (s.bump Reg.SCH_CNT_SIGNAL_EXCESS 1)
  else match s.tagged? job tag with
    | some t => some (s.decrement t amount towardsCommit)
    | none => s.pendSignal job tag amount

/-- Place a task's successor signals; what the full table turns away is still owed (R57). -/
def State.placeSignals (s : State) (job : Nat) : List Nat → State × List Nat
  | [] => (s, [])
  | tag :: r =>
    match s.signal? job tag 1 true with
    | some s1 => s1.placeSignals job r
    | none =>
      let (s2, owed) := s.placeSignals job r
      (s2, tag :: owed)

/-! ### Completion records (R65, R66) -/

/-- A ring's completion queue is full. -/
def Ring.cqFull (r : Ring) : Bool := decide ((r.cqTail + 2 ^ 32 - r.cqHead) % 2 ^ 32 = 2 ^ r.log2Size)

/-- The 16 bytes of a completion record. -/
def WaitingRecord.bytes (w : WaitingRecord) (phase : Nat) : List Byte :=
  leBytes 4 w.userTag ++ leBytes 4 w.signalTag ++ leBytes 1 w.status ++ leBytes 1 w.tile ++ leBytes 2 phase ++
    leBytes 4 w.time

/-- Write a completion record into the ring's queue; raise the ring's vector where the task asks for it (R66, R394). -/
def State.writeRecord (s : State) (ring : Nat) (w : WaitingRecord) : State :=
  let r := s.ring ring
  let s1 := s.write (r.cqBase * 16 + r.cqTail % 2 ^ r.log2Size * 16) (w.bytes (phaseBit r.cqTail r.log2Size))
  let s2 := s1.setRing { r with cqTail := (r.cqTail + 1) % 2 ^ 32 }
  if w.interrupt then s2.raiseVector (s2.ringVector ring) else s2

/-- The tile field of a completion record: the tile that ran the task, 0xFF for other engines (R66). -/
def Task.recordTile (t : Task) : Nat :=
  if isTileClass t.desc.engine ∧ t.dispatched.isSome then t.runTile else 0xFF

/-- A task's completion record. -/
def Task.record (t : Task) (status time : Nat) : WaitingRecord :=
  ⟨t.desc.userTag, t.desc.signalTag, status, t.recordTile, some t.id, t.desc.interrupt, time⟩

/-- A task's record is written (or it owes none): with OK it signals its successors and then frees its entry (R53, R56,
R57); with LATE after its deadline it signals expiry_succ (R69). -/
def State.afterRecord (s : State) (t : Task) : State :=
  let tags := if t.status = stOK then t.desc.succ.filter (· ≠ 0)
    else if t.status = stLATE ∧ t.dispatched.isNone ∧ t.desc.expirySucc ≠ 0 then [t.desc.expirySucc] else []
  let s0 := s.setTask { t with phase := .signalling, owed := [] }
  let (s1, owed) := s0.placeSignals t.job tags
  if owed.isEmpty then s1.dropTask t.id else s1.setTask { t with phase := .signalling, owed := owed }

/-- The counters of completed tasks (R125, R219, R253, R269, R340): a dispatched task of a tile class counts on its tile, in a
wide-and-shallow group on each tile of it. -/
def State.countCompleted (s : State) (t : Task) : State :=
  if t.dispatched.isNone then s
  else if t.desc.engine = engARRAY_A ∨ t.desc.engine = engARRAY_B then
    s.bumps ((s.heldTiles t).map (fun x => (Reg.TIL_ARR_CNT_TASKS x, 1)))
  else if t.desc.engine = engARRAY_AB then s.bump (Reg.TIL_BWD_CNT_TASKS t.runTile) 1
  else if t.desc.engine = engVECTOR then s.bump (Reg.TIL_VEC_CNT_TASKS t.runTile) 1
  else if t.desc.engine = engSAMPLE then s.bump Reg.SND_CNT_TASKS 1
  else if t.desc.engine = engUPDATE then s.bump Reg.UPD_CNT_TASKS 1
  else s

/-- A task completes with its status: it writes its record if one is due, waits where the queue is full, and goes on
(R66). -/
def State.complete (s0 : State) (t : Task) (status : Nat) : State :=
  let s := s0.countCompleted t
  let t1 := { t with status := status }
  let r := s.ring t.ring
  if status = stOK ∧ t.desc.notify = false then s.afterRecord t1
  else if r.cqFull ∨ r.waiting ≠ [] then
    (s.setTask { t1 with phase := .recordDue }).setRing { r with waiting := r.waiting ++ [t1.record status s.now] }
  else (s.writeRecord t.ring (t1.record status s.now)).afterRecord t1

/-- A rejected entry's or descriptor's record: written at once, or held by the ring (R62, R65); a descriptor's interrupt bit
raises the ring's vector after it (R50, R394). -/
def State.reject (s : State) (ring userTag signalTag status : Nat) (interrupt : Bool) : State :=
  let r := s.ring ring
  let w : WaitingRecord := ⟨userTag, signalTag, status, 0xFF, none, interrupt, s.now⟩
  if r.cqFull ∨ r.waiting ≠ [] then s.setRing { r with waiting := r.waiting ++ [w], heldByRecord := true }
  else s.writeRecord ring w

/-! ### Streams (R98) -/

/-- The owner of a stream's gets for one of its blocks: no task has this place (R96). -/
def streamGet (stream : Nat × Nat) (block : Nat) : TaskId := ⟨16 + stream.1, stream.2 * 2 ^ 32 + block⟩

/-- A get that is for a block of a stream. -/
def isStreamGet (id : TaskId) : Bool := decide (16 ≤ id.die)

/-- The stream that a get is for. -/
def getStream (id : TaskId) : Nat × Nat := (id.die - 16, id.index / 2 ^ 32)

/-- The owner of the gets of a job's streams that have closed: what answers them is discarded (R98). -/
def closedGet (job : Nat) : TaskId := ⟨8, job⟩

/-- A get of a stream that has closed. -/
def isClosedGet (id : TaskId) : Bool := decide (id.die = 8)

/-- Blocks of a stream that were fetched and never consumed. -/
def Stream.dropped (x : Stream) : Nat :=
  (x.arrivals.filter (fun a => decide (x.consumed ≤ a.1) && !decide (a.2 = .zeroFilled))).length

/-- The gets of streams that close: those in flight go on for nobody, those that wait and the answers are dropped (R98). -/
def Fabric.dropGets (f : Fabric) (gone : List Stream) : Fabric :=
  let owner := fun (id : TaskId) => gone.find? (fun x => isStreamGet id && decide ((x.die, x.slot) = getStream id))
  let mine := fun (id : TaskId) => (owner id).isSome
  { f with
    requests := (f.requests.filter (fun r => !(mine r.task && r.ended.isSome))).map (fun r =>
      match owner r.task with
      | some x => { r with task := closedGet x.job }
      | none => r),
    replies := f.replies.filter (fun r => !mine r.1),
    waiting := f.waiting.filter (fun r => !mine r.1) }

/-- Close the streams a test selects, counting their dropped blocks; their requests leave the memory queues, and what is in
flight for them is discarded (R98, log entry 42). -/
def State.closeStreams (s : State) (sel : Stream → Bool) : State :=
  let gone := s.streams.filter sel
  let names := gone.map (fun x => (x.die, x.slot))
  if gone.isEmpty then s
  else
    (({ s with streams := s.streams.filter (fun x => !sel x), fabric := s.fabric.dropGets gone } : State).releaseRequests
      (fun q => names.contains q.stream)).bump Reg.MEM_CNT_PREFETCH_DROPPED (sumNat (gone.map Stream.dropped))

/-! ### What a task has sent, and a task that is cut off (R139, R140, R293, R337) -/

/-- A coalescer entry without a task: its row goes to the others that wait for it, and the first of them fetches it on. -/
def RowFetch.without (id : TaskId) (e : RowFetch) : RowFetch :=
  let w := e.waiters.filter (fun x => !decide (x = id))
  { e with waiters := w, issuer := if e.issuer = id then w.headD id else e.issuer }

/-- Forget the requests of a task, the answers that have arrived for it, and its host reads (R293, R399). A list get goes on for
the tasks that have attached to its rows (R140; log entry 45). -/
def State.dropRequests (s : State) (id : TaskId) : State :=
  let rows := (s.fabric.coalescer.map (RowFetch.without id)).filter (fun e => !e.waiters.isEmpty)
  let heir := fun (r : Request) => (rows.find? (fun e => decide (e.sent = some r.seq))).map (·.issuer)
  { s with
    fabric := { s.fabric with
      requests := s.fabric.requests.filterMap (fun r =>
        if r.task ≠ id then some r else (heir r).map (fun x => { r with task := x })),
      replies := s.fabric.replies.filter (fun r => !decide (r.1 = id)),
      waiting := s.fabric.waiting.filter (fun r => !decide (r.1 = id)),
      coalescer := rows },
    pcie := { s.pcie with reads := s.pcie.reads.filter (fun r => !decide (r.task = id)) } }

/-- The stage of a speculative LOOKUP whose epoch could not be read at its dispatch (R148). -/
def staleStage : Nat := 1

/-- The address of the statistics record that a task writes when it completes, whatever its status: LOOKUP, PUSH and
TABLE_REFRESH (R139) and APPLY (R337); 0: none, as for a task that is empty (R74). -/
def Task.statsAddr (t : Task) : Nat :=
  let op := fieldLe t.args 0 1
  let b1 := fieldLe t.args 1 1
  let some_ := decide (fieldLe t.args 8 4 ≠ 0)
  if t.desc.engine = engEDGE ∧
      (op = 0x20 ∧ some_ ∧ ¬(bit b1 0 ∧ fieldLe t.args 0xC 4 = 0) ∨ op = 0x21 ∧ some_ ∨ op = 0x24 ∧ (some_ ∨ bit b1 0)) then
    fieldLe t.args 0x38 8
  else if t.desc.engine = engUPDATE ∧ op = 2 ∧ (bit b1 1 ∨ fieldLe t.args 0x18 4 ≠ 0) then fieldLe t.args 0x78 8
  else 0

/-- The statistics record of a task that is cut off while it runs: the one its run has formed; else how far it had come is not
stated, so its counts are free (log entry 2), an APPLY's group and step being known. -/
def State.cutRecord (s : State) (t : Task) : State :=
  let k := s.key t.statsAddr
  if t.statsAddr = 0 then s
  else if t.statsRecord ≠ [] then s.memOps (markedWrite k t.statsRecord)
  else
    ({ s with free := s.free + 1 } : State).memOps
      (if t.desc.engine = engEDGE then [.undefinedBytes k 64 s.free, .write (k + 0x38) (leBytes 8 0)]
       else [.undefinedBytes k 64 s.free,
         .write k (leBytes 4 (bits (s.readLe (fieldLe t.args 8 8) 2) 11 0) ++ leBytes 4 (fieldLe t.args 4 4)),
         .write (k + 0x2C) (List.replicate 20 0)])

/-! ### Job termination (R346) -/

/-- Step 1: the job becomes TERMINATING; its rings take no further entries. A job that is already TERMINATING or KILLED
is left as it is (R347). -/
def State.terminateJob (s : State) (job cause : Nat) : State :=
  match s.job? job with
  | some j =>
    if j.state = 1 then
      let s1 := s.setJob { j with state := 2, cause := cause }
      { s1 with rings := s1.rings.map (fun r => if s.ringJob? r.id = some job then
          { r with progress := none, carried := r.carried && (r.heldByRecord || r.stalled.isSome) } else r) }
    else s
  | none => s

/-- The job runs: its entries are taken and its tasks dispatched. -/
def State.jobRuns (s : State) (job : Nat) : Bool := s.jobState job == 1

/-! ### Poison (R345) -/

/-- The die number of error records: compute die, or 8 plus the I/O die (R356). -/
def Task.errorDie (t : Task) : Nat :=
  if isTileClass t.desc.engine then t.runTile / 8 else if isIoClass t.desc.engine then 8 + t.desc.place else t.desc.place

/-- The tile of error records. -/
def Task.errorTile (t : Task) : Nat := if isTileClass t.desc.engine then t.runTile else 0xFF

/-- Steps 3 and 4 of R345 for a task that ends with POISON. -/
def State.poisonConsumed (s : State) (t : Task) : State :=
  let s1 := s.bump Reg.ERR_CNT_POISON_CONSUMED 1
  let s2 := s1.logError
    { source := 5, status := stPOISON, severity := 2, die := t.errorDie, tile := t.errorTile, job := t.job,
      addr := t.poisonAt.getD 0, signalTag := t.desc.signalTag, userTag := t.desc.userTag }
  s2.terminateJob t.job stPOISON

/-! ### What a task's completion does besides (R145) -/

/-- A TABLE_REFRESH that completes with OK makes the epoch it copied its table's replica epoch; an empty one copied
nothing. -/
def State.refreshEnds (s : State) (t : Task) : State :=
  if t.desc.engine = engEDGE ∧ fieldLe t.args 0 1 = 0x24 ∧ (bit (fieldLe t.args 1 1) 0 ∨ fieldLe t.args 8 4 ≠ 0) then
    { s with tables := s.tables.map (fun x =>
        if x.table = bits (fieldLe t.args 2 2) 11 0 then { x with replica := some (fieldLe t.args 4 2) } else x) }
  else s

/-! ### Tile retirement (R351) -/

/-- Whether a task reads what it writes, so that it is not replayable (R350): an in-place VECTOR output, SEG_REDUCE or
SCATTER_ADD with accumulate, carry records read and written in place. -/
def Task.inPlace (t : Task) : Bool :=
  let op := fieldLe t.args 0 1
  let b3 := fieldLe t.args 3 1
  if t.desc.engine = engEDGE then
    (op == 2 && (bit b3 5 || (bits (fieldLe t.args 2 1) 7 6 == 3))) || (op == 3 && bit (fieldLe t.args 2 1) 1)
  else if 1 ≤ t.desc.engine ∧ t.desc.engine ≤ 3 then bit b3 4 && bit b3 5
  else if t.desc.engine = engVECTOR then
    (List.range 2).any (fun o => bit b3 o && (List.range 4).any (fun i =>
      let out := 0x100 + 48 * o
      let src := 0x40 + 32 * i
      bit (fieldLe t.args 1 1) i && decide (fieldLe t.args out 8 = fieldLe t.args src 8) &&
        decide (fieldLe t.args (out + 8) 4 = fieldLe t.args (src + 8) 4) &&
        decide (bits (fieldLe t.args (out + 0xC) 1) 3 0 = bits (fieldLe t.args (src + 0xC) 1) 3 0) &&
        decide (bits (fieldLe t.args (out + 0xD) 1) 3 2 = 0) && !bit (fieldLe t.args (out + 0xD) 1) 0))
  else false

/-- Count a parity error or a suspect verdict against a tile, 4 bits, saturating (R350, R353, R358). -/
def State.suspectTile (s : State) (tile : Nat) : State :=
  let f := Reg.ERR_TILE_SUSPECT_counts (tile / 8)
  let v := s.reg f
  if v / 16 ^ (tile % 8) % 16 = 15 then s else s.setReg f (v + 16 ^ (tile % 8))

/-! ### Engine results -/

/-- What an engine's run of a task does: its status, its effects on memory, counters, maxima, events, the blocks it
scaled, the first poisoned block it consumed, the number of suppressed accesses, the free values drawn, and the ranges of memory
keys that a DMA task reads. -/
structure Result where
  status : Nat := 0
  ops : List MemOp := []
  bumps : List (Field × Nat) := []
  raises : List (Field × Nat) := []
  events : List (Field × Nat × Nat) := []
  blocks : List BlockStat := []
  poisonAt : Option Nat := none
  suppressed : Nat := 0
  draws : Nat := 0
  reads : List (Nat × Nat) := []
  /-- The cycles of the run, where a rule gives their number. -/
  busy : Option Nat := none
  /-- Ranges on other modules that the run still needs: their gets go out, and the task waits for the answers. -/
  missing : List (Nat × Nat) := []
deriving DecidableEq, Repr

/-- The status with which a task finishes: POISON where a task that is not speculative consumed poison (R345); a
speculative one's ACCESS and BOUND are suppressed (R99). -/
def Result.finalStatus (r : Result) (spec : Bool) : Nat :=
  if spec then (if r.status = stACCESS ∨ r.status = stBOUND then stOK else r.status)
  else if r.status = stOK ∧ r.poisonAt.isSome then stPOISON else r.status

/-- Suppressed accesses of a speculative task's run: its own, a suppressed descriptor, and poison it consumed (R99,
R100). -/
def Result.suppressedCount (r : Result) (spec : Bool) : Nat :=
  if spec then r.suppressed + (if r.status = stACCESS ∨ r.status = stBOUND then 1 else 0) + flag r.poisonAt.isSome else 0

/-- A task runs speculatively: spec is set and the second run of R72 has not cleared it. -/
def Task.speculative (t : Task) : Bool := t.desc.spec && !t.rerun

/-- The events of a result, each with its unit and arg0. -/
def State.postAll (s : State) (l : List (Field × Nat × Nat)) : State := l.foldl (fun s e => s.post e.1 e.2.1 e.2.2) s

/-- How many of n requests under DMA tags find their bank at its cap depends on which requests are in flight at one time: a free
number of them (R88, log entry 42). -/
def State.tagTraffic (s : State) (n : Nat) : State :=
  if n = 0 then s else ({ s with free := s.free + 1 } : State).bump Reg.MEM_CNT_HOT_BANK (Config.freeValue s.free % (n + 1))

/-- How many accesses in miss registers find their bank at its cap, and how many reads attach to a register that holds one of
their block: free numbers (R87, R88, log entry 42). -/
def State.missTraffic (s : State) : State :=
  ({ s with free := s.free + 2 } : State).bumps
    [(Reg.MEM_CNT_HOT_BANK, Config.freeValue s.free), (Reg.MEM_CNT_MERGED, Config.freeValue (s.free + 1))]

/-- A run of a class that uses miss registers has HBM accesses: its argument block, its inputs or its outputs lie there; the
sampler, the update engine and the table operations read wherever their structures lie (R86). -/
def State.missUser (s : State) (t : Task) : Bool :=
  t.desc.engine == engSAMPLE || t.desc.engine == engUPDATE || (t.desc.engine == engEDGE && decide (0x20 ≤ fieldLe t.args 0 1)) ||
    (isTileClass t.desc.engine && decide (0 < rangeUnits 64 ((s.key t.desc.args, t.desc.argsBytes) :: (t.ins ++ t.outs))))

/-- What a run's HBM requests met: 512-byte units under DMA tags for a DMA task, else 64-byte accesses in miss registers
(R86). -/
def State.traffic (s : State) (t : Task) (r : Result) : State :=
  if t.desc.engine = engDMA then s.tagTraffic (rangeUnits 512 (r.reads ++ r.ops.map MemOp.range))
  else if s.missUser t then s.missTraffic else s

/-- The cycle counters of a run: the cycles a rule gives, else a free number; of them a free number spent waiting (R197, R206,
R252, R253; log entry 25). -/
def State.cycleBumps (s : State) (t : Task) (r : Result) : List (Field × Nat) :=
  let busy := r.busy.getD (Config.freeValue s.free)
  let wait := fun i => Config.freeValue (s.free + i) % (busy + 1)
  if t.desc.engine = engEDGE then [(Reg.TIL_EDG_CNT_BUSY t.runTile, busy), (Reg.TIL_EDG_CNT_WAIT t.runTile, wait 1)]
  else if t.desc.engine = engVECTOR then
    [(Reg.TIL_VEC_CNT_BUSY t.runTile, busy), (Reg.TIL_VEC_CNT_WAIT_IN t.runTile, wait 1), (Reg.TIL_VEC_CNT_WAIT_OUT t.runTile, wait 2)]
  else if 1 ≤ t.desc.engine ∧ t.desc.engine ≤ 3 then (s.heldTiles t).map (fun x => (Reg.TIL_ARR_CNT_WAIT x, busy))
  else []

/-- A run's cycles are counted. -/
def State.countCycles (s : State) (t : Task) (r : Result) : State :=
  match s.cycleBumps t r with
  | [] => s
  | l => ({ s with free := s.free + 3 } : State).bumps l

/-- Tasks whose inputs and outputs no other task may write while they are live: EDGE (R177) and VECTOR (R251); for
PRODUCT_SPARSE the slots it reads (R233). -/
def Task.guarded (t : Task) : Bool :=
  t.desc.engine == engEDGE || t.desc.engine == engVECTOR ||
    ((t.desc.engine == engARRAY_A || t.desc.engine == engARRAY_B) && fieldLe t.args 0 1 == 2)

/-- What a guarded task reads or writes has been written since its run began (R177, R233, R251). Who wrote it is not asked
(log entry 40). -/
def State.disturbed (s : State) (t : Task) : Bool := t.guarded && s.writtenSince t.startedAt (t.ins ++ t.outs)

/-- Free bytes over each of a list of ranges, from a draw on. -/
def undefinedOps : List (Nat × Nat) → Nat → List MemOp
  | [], _ => []
  | r :: t, d => .undefinedBytes r.1 r.2 d :: undefinedOps t (d + 1)

/-- A range of memory whose contents become undefined (R73): each gets free bytes. -/
def State.undefine (s : State) (outs : List (Nat × Nat)) : State :=
  { s with free := s.free + outs.length }.memOps (undefinedOps outs s.free)

/-- The outputs of a finished task that is guarded are undefined where something has been written over them (R177, R251). -/
def State.undefineOverwritten (s : State) (t : Task) : State :=
  if t.guarded && s.writtenSince t.startedAt t.outs then s.undefine t.outs else s

/-- The outputs of a run that was disturbed are undefined; its counters, checks and status hold (R177). -/
def Result.disturbed (r : Result) (outs : List (Nat × Nat)) (free : Nat) : Result :=
  { r with ops := r.ops ++ undefinedOps outs (free + r.draws), draws := r.draws + outs.length }

/-! ### Replay and moves off a tile (R348, R349, R351) -/

/-- A task begins again from its argument block. -/
def State.restarted (s : State) (t : Task) : Task :=
  { t with phase := .running, passes := 0, drainA := 0, drainB := 0, startedAt := s.writes.length, blocks := [], fetched := [],
           listGets := 0, statsRecord := [] }

/-- A task with what ran on a tile put on that tile's substitute, in remote-read mode; none: there is no substitute (R349). -/
def State.movedOff (s : State) (t : Task) (tile : Nat) : Option Task :=
  (s.substitute? t.job tile).map (fun y =>
    match s.wideGroupOf? t with
    | some g =>
      { t with moved := t.moved.filter (fun m => decide (m.2 ≠ tile)) ++
          ((maskTiles g.mask).filter (fun x => decide (t.sliceTile x = tile))).map (fun x => (x, y)) }
    | none => { t with substitute := some y })

/-- A running task is cut off: what it may have written is undefined, its statistics record is written, and what it has sent is
forgotten (R73, R139, R293, R337). -/
def State.cutOff (s : State) (t : Task) : State :=
  (if t.phase = .running then (s.undefine t.outs).cutRecord t else s).dropRequests t.id

/-- A running task ends with a status because of a tile. -/
def State.tileEnds (s : State) (t : Task) (status : Nat) : State :=
  (s.cutOff t).setTask { t with phase := .finished, status := status }

/-- A task that is queued or running on a tile that retires (R351): queued tasks are placed again; running ones are replayed on
the substitute, or end with PARITY where they are not replayable. Without a substitute, a task placed with place_tile or on a
wide-and-shallow group ends with ACCESS, another with PARITY (R349; log entry 19). -/
def State.moveFromTile (s : State) (tile : Nat) (t : Task) : State :=
  if !isTileClass t.desc.engine || !(s.heldTiles t).contains tile then s
  else match t.phase with
    | .ready _ =>
      match s.placed t with
      | some u => s.setTask u
      | none => s.setTask { t with phase := .finished, status := stACCESS }
    | .running =>
      if t.inPlace then s.tileEnds t stPARITY
      else match s.movedOff t tile with
        | some u => (s.dropRequests t.id).setTask (s.restarted u)
        | none => s.tileEnds t (if t.desc.placeTile || (s.wideGroupOf? t).isSome then stACCESS else stPARITY)
    | _ => s

/-- Retirement of a tile takes effect live (R351). -/
def State.retireTile (s : State) (tile : Nat) : State :=
  if s.retired tile then s
  else
    let s1 := { s with binnacle := { s.binnacle with retired := s.binnacle.retired + 2 ^ tile } }
    let s2 := s1.tasks.foldl (fun a t => a.moveFromTile tile t) s1
    (s2.logError { source := 8, severity := 4, die := tile / 8, tile := tile }).post Reg.ERR_EVENT_tile_retired tile

/-! ### Shadowed tasks (R352, R353) -/

/-- Whether a task runs shadowed by its phase and class (R352): SHADOW accepted, its phase's bit set. -/
def State.shadowPhase (s : State) (t : Task) : Bool :=
  s.accepted 5 && bit (s.reg Reg.ERR_SHADOW_PHASES_mask) t.desc.phaseId && decide (0 < t.desc.argsBytes) &&
    (t.desc.engine == engARRAY_A || t.desc.engine == engARRAY_B || t.desc.engine == engARRAY_AB ||
      t.desc.engine == engVECTOR ||
      (t.desc.engine == engEDGE && decide (1 ≤ fieldLe t.args 0 1) && decide (fieldLe t.args 0 1 ≤ 4)))

/-- The 8-byte words that a range touches, by number. -/
def wordsOf (r : Nat × Nat) : List Nat :=
  if r.2 = 0 then [] else (List.range ((r.1 + r.2 - 1) / 8 + 1 - r.1 / 8)).map (· + r.1 / 8)

/-- out_csum of R353: over every 8-byte word that a run's effects on memory wrote, as memory holds it after the run. -/
def State.outCsum (s : State) (ops : List MemOp) : Nat :=
  sumNat (((ops.flatMap (fun o => wordsOf o.range)).eraseDups).map (fun w =>
    coef (w % 2 ^ 42) * (leNat (s.mem.readN (8 * w) 8) % csumP))) % csumP

/-- An engine has finished a task: the effects of its run, and the task waits for completion. -/
def State.applyResult (s : State) (t : Task) (r0 : Result) : State :=
  let r := if s.disturbed t then r0.disturbed t.outs s.free else r0
  let n := r.suppressedCount t.speculative
  let s1 := { s with free := s.free + r.draws }.memOps r.ops
  let s2 := (s1.bumps r.bumps).bump Reg.MEM_CNT_SPEC_FAULT_SUPPRESSED n
  let s3 := r.raises.foldl (fun a p => a.raiseReg p.1 p.2) s2
  ((((s3.blockStats r.blocks).postAll r.events).traffic t r0).countCycles t r).setTask
    { t with phase := .finished, status := r.finalStatus t.speculative, marked := t.marked || decide (0 < n),
             poisonAt := r.poisonAt, startedAt := s1.writes.length,
             csum := if s.shadowPhase t then some (s1.outCsum r.ops) else none }

/-- The task an engine command names, if its engine of that class runs it with that op and its job runs (R346). -/
def State.runningTask? (s : State) (id : TaskId) (engine op : Nat) : Option Task :=
  (s.task? id).filter (fun t => decide (t.phase = .running) && decide (t.desc.engine = engine) &&
    decide (fieldLe t.args 0 1 = op) && s.jobRuns t.job)

/-- An engine command: where the engine runs the task, the effects of its run; else nothing. -/
def State.engineStep (s : State) (id : TaskId) (engine op : Nat) (run : Task → Result) : State :=
  match s.runningTask? id engine op with
  | some t => s.applyResult t (run t)
  | none => s

end Sys2Proof.Machine
end

