-- ==== Sys2Proof/Machine/Links.lean ====
section
/-!
DEFINITION. Torus packets and flits (R271, R272, R281), routes and breaks (R277, R279), a port's sending side (R274 to R276),
link states (R294), and the requests that this module has outstanding (R284, R291).
-/

namespace Sys2Proof.Machine

/-! ### Operations (R282) -/

/-- PUT. -/
def pktPUT : Nat := 0x01
/-- GET. -/
def pktGET : Nat := 0x02
/-- LIST_GET. -/
def pktLIST_GET : Nat := 0x03
/-- EXACT_ACC. -/
def pktEXACT_ACC : Nat := 0x04
/-- NM_ACC. -/
def pktNM_ACC : Nat := 0x05
/-- CAS. -/
def pktCAS : Nat := 0x06
/-- PUT_SIGNAL. -/
def pktPUT_SIGNAL : Nat := 0x07
/-- BAR_UP (R314). -/
def pktBAR_UP : Nat := 0x40
/-- BAR_DOWN. -/
def pktBAR_DOWN : Nat := 0x41
/-- BCAST_DATA (R315). -/
def pktBCAST_DATA : Nat := 0x42
/-- FIX_UP (R318). -/
def pktFIX_UP : Nat := 0x43
/-- FIX_DOWN. -/
def pktFIX_DOWN : Nat := 0x44
/-- RESET_DOWN (R319). -/
def pktRESET_DOWN : Nat := 0x4E
/-- RESET_UP. -/
def pktRESET_UP : Nat := 0x4F
/-- MGMT. -/
def pktMGMT : Nat := 0x70
/-- BREAK. -/
def pktBREAK : Nat := 0x71
/-- ACK. -/
def pktACK : Nat := 0x80
/-- GET_RESP. -/
def pktGET_RESP : Nat := 0x82
/-- LIST_RESP. -/
def pktLIST_RESP : Nat := 0x83
/-- CAS_RESP. -/
def pktCAS_RESP : Nat := 0x86

/-- The operations of R282 and of the collectives. -/
def packetOps : List Nat :=
  [0x01, 0x02, 0x03, 0x04, 0x05, 0x06, 0x07, 0x40, 0x41, 0x42, 0x43, 0x44, 0x4E, 0x4F, 0x70, 0x71, 0x80, 0x82, 0x83, 0x86]

/-- The response of a request (R282). -/
def responseOp (op : Nat) : Nat := if op = pktGET then pktGET_RESP else if op = pktLIST_GET then pktLIST_RESP else
  if op = pktCAS then pktCAS_RESP else pktACK

/-- Requests travel on classes 1 and 3 to 7 (R280). -/
def Packet.isRequest (p : Packet) : Bool := decide (p.tc = 1) || decide (3 ≤ p.tc)

/-- Payload bytes that follow a header: a GET and a CAS carry none (R282). -/
def payloadBytes (op length : Nat) : Nat := if op = pktGET ∨ op = pktCAS then 0 else length

/-! ### Header flits (R281) -/

/-- The 60 bytes of a header. -/
def headerBytes (p : Packet) : List Byte :=
  leBytes 2 p.dst ++ leBytes 2 p.src ++ leBytes 2 p.jobId ++ leBytes 1 p.op ++ leBytes 1 (p.tc * 32 + p.dateline * 16) ++
    leBytes 8 p.addr ++ leBytes 2 (p.length % 2 ^ 13) ++ leBytes 1 p.status ++ leBytes 1 (p.fmt % 16) ++ leBytes 4 p.seq ++
    leBytes 8 p.contribId ++ leBytes 8 p.poisonMap ++ leBytes 8 p.arg0 ++ leBytes 8 p.arg1 ++ leBytes 4 0

/-- A header from its 60 bytes; the payload comes in data flits. -/
def parseHeader (b : List Byte) : Packet :=
  let t := fieldLe b 7 1
  { dst := fieldLe b 0 2, src := fieldLe b 2 2, jobId := fieldLe b 4 2, op := fieldLe b 6 1, tc := bits t 7 5,
    dateline := bits t 4 4, addr := fieldLe b 8 8, length := bits (fieldLe b 0x10 2) 12 0, status := fieldLe b 0x12 1,
    fmt := bits (fieldLe b 0x13 1) 3 0, seq := fieldLe b 0x14 4, contribId := fieldLe b 0x18 8, poisonMap := fieldLe b 0x20 8,
    arg0 := fieldLe b 0x28 8, arg1 := fieldLe b 0x30 8, payload := [] }

/-- A flit: 60 bytes of content, tag and VC, and the CRC over its unit type and these 61 bytes (R272). -/
def flitBytes (unitType vc tag : Nat) (content : List Byte) : List Byte :=
  let body := sliceBytes content 0 60 ++ leBytes 1 (tag % 16 * 16 + vc)
  body ++ leBytes 3 (crc24 (leBytes 1 unitType ++ body))

/-- Whether a flit's CRC fits. -/
def flitIntact (unitType : Nat) (f : List Byte) : Bool :=
  decide (fieldLe f 0x3D 3 = crc24 (leBytes 1 unitType ++ f.take 61))

/-- The header flit of a packet on a VC with its tag. -/
def headerFlitOf (p : Packet) (vc tag : Nat) : Flit := ⟨vc, 2, flitBytes 2 vc tag (headerBytes p)⟩

/-- A data flit of up to 60 payload bytes on a VC with its packet's tag. -/
def dataFlitOf (d : List Byte) (vc tag : Nat) : Flit := ⟨vc, 3, flitBytes 3 vc tag d⟩

/-- The flits of a packet on a VC with its tag: the header, then up to 60 payload bytes each (R271). -/
def packetFlits (p : Packet) (vc tag : Nat) : List Flit :=
  headerFlitOf p vc tag :: (chunks 60 p.payload).map (fun d => dataFlitOf d vc tag)

/-- The data flits of a packet with a header (R271). -/
def dataFlitCount (p : Packet) : Nat := ceilDiv (payloadBytes p.op p.length) 60

/-! ### Units and codewords (R271) -/

/-- The 514 bits of a unit, bit k being the one sent k-th: the type, then the flit's bytes from 0x00 upward. -/
def unitValue (unitType : Nat) (flit : List Byte) : Nat := unitType % 4 + 4 * leNat flit

/-- The type of a unit. -/
def unitTypeOf (v : Nat) : Nat := v % 4

/-- The 64 bytes of the flit of a unit. -/
def unitFlit (v : Nat) : List Byte := leBytes 64 (v / 4)

/-- The lane that carries unit u of a port's stream: lane 0 alone while the link is narrow (R271). -/
def unitLane (narrow : Bool) (u : Nat) : Nat := if narrow then 0 else u % 16

/-- The codeword of its lane that holds unit u: ten units each (R271). -/
def unitCodeword (narrow : Bool) (u : Nat) : Nat := if narrow then u / 10 else u / 160

/-! ### Ports -/

/-- A port. -/
def State.port (s : State) (p : Nat) : Port := s.fabric.ports.getD p Port.reset

/-- Change a port. -/
def State.setPort (s : State) (p : Nat) (x : Port) : State :=
  { s with fabric := { s.fabric with ports := s.fabric.ports.set p x } }

/-- FAB_Pp_STATE.state. -/
def State.portState (s : State) (p : Nat) : Nat := s.reg (Reg.FAB_P_STATE_state p)

/-- DISABLED. -/
def psDISABLED : Nat := 0
/-- DOWN. -/
def psDOWN : Nat := 1
/-- TRAINING. -/
def psTRAINING : Nat := 2
/-- IDENTITY. -/
def psIDENTITY : Nat := 3
/-- QUARANTINE. -/
def psQUARANTINE : Nat := 4
/-- MGMT_ONLY. -/
def psMGMT_ONLY : Nat := 5
/-- UP. -/
def psUP : Nat := 6

/-- Whether a port carries a traffic class: UP every class, QUARANTINE and MGMT_ONLY class 0 (R295, R296). -/
def State.portCarries (s : State) (p tc : Nat) : Bool :=
  decide (s.portState p = psUP) || (decide (psQUARANTINE ≤ s.portState p) && decide (tc = 0))

/-- Send a control flit on a port, as a unit of type 1. -/
def State.sendControl (s : State) (p : Nat) (content : List Byte) : State :=
  s.emit (.control p (unitValue 1 (flitBytes 1 0 0 content)))

/-- Give back the credit of n flits of a VC that came by a port (R275); 8 is no port. -/
def State.freeFlits (s : State) (p vc n : Nat) : State :=
  if p < 8 then s.setPort p { s.port p with rxFreed := setAt (s.port p).rxFreed vc (fun k => (k + n) % 65536) } else s

/-! ### The sending side (R274 to R276) -/

/-- Flits of a VC that hold credit (R275). -/
def Port.occupied (x : Port) (v : Nat) : Nat := (x.txSent.getD v 0 + 65536 - x.txFreed.getD v 0) % 65536

/-- Whether a flit of a VC has a credit (R275). -/
def Port.credit (x : Port) (v : Nat) : Bool :=
  decide (x.occupied v < 64) || decide (sumNat ((List.range 16).map (fun w => x.occupied w - 64)) < 3072)

/-- The next flit of a VC: that of its first packet, since a packet's flits are contiguous and packets leave in the order of
their headers (R276); with it the packet without that flit, and the packets that then wait. None while the first packet's
next flit has not arrived. -/
def nextFlit (v : Nat) : List OutPacket → Option (Flit × OutPacket × List OutPacket)
  | [] => none
  | o :: r =>
    if o.vc = v then
      match o.flits with
      | [] => none
      | f :: fs =>
        let o1 := { o with flits := fs }
        some (f, o1, if fs.isEmpty ∧ o.left = 0 then r else o1 :: r)
    else (nextFlit v r).map (fun q => (q.1, q.2.1, o :: q.2.2))

/-- The VC whose next flit leaves: class 0 first, the others round-robin after the one of them last served (R276). A port
that carries class 0 alone holds the others back (R295, R296). -/
def Port.nextVc (x : Port) (class0 all : Bool) : Option Nat :=
  let ready := fun v => (nextFlit v x.queue).isSome && x.credit v
  match [0, 1].find? (fun v => class0 && ready v) with
  | some v => some v
  | none => ((List.range 16).map (fun i => (x.lastVc + 1 + i) % 16)).find? (fun v => decide (2 ≤ v) && all && ready v)

/-- Add n, modulo 2^16, at a VC. -/
def addVc (l : List Nat) (v n : Nat) : List Nat := setAt l v (fun k => (k + n) % 65536)

/-- The last flit of a request of this module has left: its response timer runs (R284). -/
def State.requestSent (s : State) (seq : Nat) : State :=
  { s with fabric := { s.fabric with requests := s.fabric.requests.map (fun r =>
      if r.seq = seq ∧ r.ended = none ∧ r.sentAt = none then { r with sentAt := some s.now } else r) } }

/-- What the leaving of a packet's flit brings besides: the credit of a transit packet's flit goes back to its input (R275,
R278), and the last flit of a request starts its timer (R284). -/
def State.flitLeft (s : State) (o : OutPacket) : State :=
  let s1 := match o.source with
    | some (p, v) => if o.credit then s.freeFlits p v 1 else s
    | none => s
  match o.request with
  | some seq => if o.flits.isEmpty ∧ o.left = 0 then s1.requestSent seq else s1
  | none => s1

/-- Send flits while the replay buffer has room and one has a credit (R274). -/
def State.pumpFuel (p : Nat) : Nat → State → State
  | 0, s => s
  | n + 1, s =>
    let x := s.port p
    if 4096 ≤ x.replay.length then s
    else match x.nextVc (s.portCarries p 0) (s.portCarries p 1) with
      | none => s
      | some v =>
        match nextFlit v x.queue with
        | none => s
        | some (f, o, rest) =>
          let y := { x with queue := rest, replay := x.replay ++ [f], txSeq := (x.txSeq + 1) % 65536,
                            txSent := addVc x.txSent v 1, lastVc := if v < 2 then x.lastVc else v,
                            replayFirst := if x.replay.isEmpty then x.txSeq else x.replayFirst,
                            lastProgressAt := if x.replay.isEmpty then s.now else x.lastProgressAt }
          State.pumpFuel p n ((((s.setPort p y).bump (Reg.FAB_P_CNT_TX p) 1).emit
            (.flit p x.txSeq (unitValue f.unitType f.bytes))).flitLeft o)

/-- The flits that wait on a port. -/
def Port.waitingFlits (x : Port) : Nat := sumNat (x.queue.map (fun o => o.flits.length))

/-- Send what a port may send. -/
def State.pump (s : State) (p : Nat) : State := State.pumpFuel p (s.port p).waitingFlits s

/-- A narrow link with a packet of class 1 to 7 to send asks for its full width (R297). -/
def State.askFull (s : State) (p tc : Nat) : State :=
  let x := s.port p
  if s.reg (Reg.FAB_P_STATE_narrow p) = 1 ∧ tc ≠ 0 ∧ x.fullAsked = false then
    (s.setPort p { x with fullAsked := true }).sendControl p (leBytes 1 5 ++ leBytes 1 2)
  else s

/-- A packet takes its place among those that leave by a port on its VC, and what can go is sent. -/
def State.queueOn (s : State) (p tc v : Nat) (o : OutPacket) : State :=
  let x := s.port p
  let s1 := s.setPort p { x with queue := x.queue ++ [o], txPackets := addVc x.txPackets v 1 }
  (s1.askFull p tc).pump p

/-- Queue a packet of this module on a port and send what can go. -/
def State.enqueue (s : State) (p : Nat) (k : Packet) : State :=
  let v := 2 * k.tc + k.dateline
  let tag := (s.port p).txPackets.getD v 0 % 16
  s.queueOn p k.tc v ⟨v, tag, packetFlits k v tag, 0, none, false, if Packet.isRequest k then some k.seq else none⟩

/-- A transit packet whose header came by port i on VC w starts to leave by port p: its data flits are still to come
(R278). -/
def State.startTransit (s : State) (p i w : Nat) (k : Packet) : State :=
  let v := 2 * k.tc + k.dateline
  let tag := (s.port p).txPackets.getD v 0 % 16
  s.queueOn p k.tc v ⟨v, tag, [headerFlitOf k v tag], dataFlitCount k, some (i, w), true, none⟩

/-- The packets of a queue with the next data flit of the transit packet from port i and VC w; none where it is not there. -/
def addTransit (i w : Nat) (d : List Byte) : List OutPacket → Option (List OutPacket)
  | [] => none
  | o :: r =>
    if o.source = some (i, w) ∧ o.left ≠ 0 then
      some ({ o with flits := o.flits ++ [dataFlitOf d o.vc o.tag], left := o.left - 1 } :: r)
    else (addTransit i w d r).map (o :: ·)

/-- A data flit of a transit packet goes on by port p; where its packet was lost there, it is discarded (R278, R294). -/
def State.transitFlit (s : State) (p i w : Nat) (d : List Byte) : State :=
  let x := s.port p
  match addTransit i w d x.queue with
  | some q => (s.setPort p { x with queue := q }).pump p
  | none => s.freeFlits i w 1

/-- The credits that the waiting flits of a packet hold go back, since the flits are discarded; the timer of a request that
loses its flits runs from now on (log entry 24). -/
def State.dropOut (s : State) (o : OutPacket) : State :=
  let s1 := match o.source with
    | some (i, w) => if o.credit then s.freeFlits i w o.flits.length else s
    | none => s
  match o.request with
  | some seq => s1.requestSent seq
  | none => s1

/-- The rest of a transit packet whose input gave it up does not leave by port p (R292). -/
def State.stopTransit (s : State) (p i w : Nat) : State :=
  let x := s.port p
  match x.queue.find? (fun o => decide (o.source = some (i, w)) && decide (o.left ≠ 0)) with
  | some o => (s.setPort p { x with queue := x.queue.erase o }).dropOut o |>.pump p
  | none => s

/-! ### Breaks and routes (R277, R279, R280) -/

/-- What the routers go by: the Chart's coordinates and extents, or, after a function reset, those they have kept (R400). -/
def State.routing? (s : State) : Option Routing :=
  match s.chart with
  | some c => some ⟨c.nodeId, c.extents⟩
  | none => s.fabric.routing

/-- The extent of dimension d. -/
def State.extent (s : State) (d : Nat) : Nat := ((s.routing?.map (·.extents)).getD [1, 1, 1, 1]).getD d 1

/-- This module's coordinate in dimension d. -/
def State.ownCoord (s : State) (d : Nat) : Nat := coord ((s.routing?.map (·.node)).getD 0) d

/-- The breaks of a ring as the routers see them: what notices told, and this module's own links that are not UP (R279). -/
def State.ringBreaks (s : State) (d : Nat) : Nat :=
  let k := s.extent d
  if k ≤ 1 then 0
  else
    let c := s.ownCoord d
    let own := (if s.portState (2 * d + 1) = psUP then 0 else 2 ^ c) ||| (if s.portState (2 * d) = psUP then 0 else 2 ^ ((c + k - 1) % k))
    (s.reg (Reg.FAB_BREAK_links d) ||| own) % 2 ^ k

/-- FAB_BREAK_d: the breaks of a ring, while the module has coordinates (R45, R279). -/
def State.breakMap (s : State) (d : Nat) : Nat := if s.node? = none then 0 else s.ringBreaks d

/-- Whether the link between coordinates c and c + 1 of a ring is closed to a class; this module's own links carry class 0
when they are quarantined or MGMT_ONLY. -/
def State.linkClosed (s : State) (d c tc : Nat) : Bool :=
  let k := s.extent d
  let own := s.ownCoord d
  if tc = 0 ∧ c = own ∧ s.portCarries (2 * d + 1) 0 then false
  else if tc = 0 ∧ (c + 1) % k = own ∧ s.portCarries (2 * d) 0 then false
  else bit (s.ringBreaks d) c

/-- The way round a ring from c to t: the port, or none (R277). -/
def State.legPort (s : State) (d c t tc : Nat) : Option Nat :=
  let k := s.extent d
  let dp := (t + k - c) % k
  let dm := (c + k - t) % k
  let plusOk := (List.range dp).all (fun i => !s.linkClosed d ((c + i) % k) tc)
  let minusOk := (List.range dm).all (fun i => !s.linkClosed d ((c + k - 1 - i % k) % k) tc)
  if plusOk && (!minusOk || decide (dp ≤ dm)) then some (2 * d + 1) else if minusOk then some (2 * d) else none

/-- The next hop of a packet: none where it is unreachable, some none at its destination, else the port (R277). Without a
Chart class 0 alone goes on, by what the routers have kept (R45, R400); a module that has had no Chart since module reset
takes every class-0 packet as its own (DESIGN CHOICE, log entry 22). -/
def State.route (s : State) (dst tc : Nat) : Option (Option Nat) :=
  if s.node? = none ∧ tc ≠ 0 then none
  else match s.routing? with
  | none => some none
  | some r =>
    let own := r.node
    match (List.range 4).find? (fun d => decide (coord own d ≠ coord dst d)) with
    | none => some none
    | some d =>
      if s.extent d ≤ coord dst d then none else (s.legPort d (coord own d) (coord dst d) tc).map some

/-- Whether a port's hop crosses its ring's wrap link (R277). -/
def State.wraps (s : State) (p : Nat) : Bool :=
  let c := s.ownCoord (p / 2)
  if p % 2 = 1 then decide (c + 1 = s.extent (p / 2)) else decide (c = 0)

/-- The neighbour on a port. -/
def State.neighbour (s : State) (p : Nat) : Nat :=
  let d := p / 2
  let k := s.extent d
  let c := s.ownCoord d
  let t := if p % 2 = 1 then (c + 1) % k else (c + k - 1) % k
  (s.routing?.map (·.node)).getD 0 - c * 16 ^ d + t * 16 ^ d

/-- Send a packet of this module: on its port, or none where its route is unreachable, counted (R280). A packet to this
module itself arrives at once. -/
def State.sendPacket? (s : State) (k : Packet) : Option State :=
  match s.route k.dst k.tc with
  | none => none
  | some none => some { s with fabric := { s.fabric with inbox := s.fabric.inbox ++ [⟨k, 8, 0, 0⟩] } }
  | some (some p) => some (s.enqueue p { k with dateline := flag (s.wraps p) })

/-- Send a packet; one without a route is counted and not sent (R280). -/
def State.sendPacket (s : State) (k : Packet) : State := (s.sendPacket? k).getD (s.bump Reg.FAB_CNT_UNREACHABLE 1)

/-! ### Module reset (R400, R319) -/

/-- Module reset (R400, R9): everything is as after reset but what the Binnacle, the silicon and the carrier keep, a flash
write in progress (R408), the reference timebase, and what the model counts for itself. -/
def State.moduleReset (s : State) : State :=
  { State.reset with
    pending := s.pending, now := s.now, free := s.free, tick := s.tick, boundary := s.boundary, period := s.period,
    lanes := s.binnacle.lanes,
    power := { Power.reset with
      vin := s.power.vin, rails := if s.carrier.power = .on then List.replicate 26 true else s.power.rails, drift := s.binnacle.driftPpm,
      rth := ((s.binnacle.rth.map (fun (r : Nat) => (r : Rat))).getD 18500),
      dies := (List.range 10).map (fun d => { DiePower.reset with planned := s.binnacle.plannedStore.getD d [] }) },
    boot := { Boot.reset with writing := s.boot.writing },
    binnacle := s.binnacle, silicon := s.silicon, carrier := s.carrier, outputs := s.outputs }

/-- The module's own reset at the end of a system reset: it follows once the module is ready for it and no answer of it waits
to leave (R319 steps 3 and 4; log entry 27). -/
def State.resetIfSent (s : State) : State :=
  let waits := s.fabric.ports.any (fun x => x.queue.any (fun o => decide (o.vc / 2 = 7) && o.source.isNone))
  if ((s.sysreset.map (·.ready)).getD false) && !waits then s.moduleReset else s

/-- A packet with every field zero. -/
def Packet.blank : Packet :=
  { dst := 0, src := 0, jobId := 0, op := 0, tc := 0, dateline := 0, addr := 0, length := 0, status := 0, fmt := 0, seq := 0,
    contribId := 0, poisonMap := 0, arg0 := 0, arg1 := 0, payload := [] }

/-- What a BREAK notice carries (its layout is log entry 23): dimension in arg0 [7:0], the link's lower coordinate in
[15:8], 1 in [16] for a break. -/
def breakArg (d c : Nat) (broken : Bool) : Nat := d + c * 256 + flag broken * 65536

/-- Send a BREAK notice for a link of a ring out of a port that carries class 0 (R279). -/
def State.sendNotice (s : State) (p dst src arg : Nat) : State :=
  if s.portCarries p 0 then
    s.enqueue p { Packet.blank with dst := dst, src := src, op := pktBREAK, arg0 := arg, dateline := 0 }
  else s

/-- The notices of a port that enters or leaves UP, both ways round its ring (R279). -/
def State.noticeOwn (s : State) (p : Nat) : State :=
  let d := p / 2
  let k := s.extent d
  match s.routing? with
  | none => s
  | some r =>
    if k ≤ 1 then s
    else
      let own := r.node
      let c := coord own d
      let arg := breakArg d (if p % 2 = 1 then c else (c + k - 1) % k) (decide (s.portState p ≠ psUP))
      (s.sendNotice (2 * d) (s.neighbour (2 * d)) own arg).sendNotice (2 * d + 1) (s.neighbour (2 * d + 1)) own arg

/-- The break maps of the four rings. -/
def State.breakMaps (s : State) : List Nat := (List.range 4).map s.breakMap

/-- Post break_changed where a map differs from before. -/
def State.breakChanged (s : State) (before : List Nat) : State :=
  if s.breakMaps = before then s else s.post Reg.FAB_EVENT_break_changed

/-- A port takes a state and a reason: events, and notices where it enters or leaves UP (R279, R296, R298). -/
def State.setLink (s : State) (p state reason : Nat) : State :=
  let old := s.portState p
  let before := s.breakMaps
  let s1 := s.setRegs [(Reg.FAB_P_STATE_state p, state), (Reg.FAB_P_STATE_reason p, reason)]
  let s2 := if state = psUP ∧ old ≠ psUP then s1.post Reg.FAB_EVENT_link_up p else s1
  let s3 := if state ≤ psDOWN ∧ psIDENTITY ≤ old then s2.post Reg.FAB_EVENT_link_down p else s2
  let s4 := if state = psMGMT_ONLY ∧ (old ≠ psMGMT_ONLY ∨ s.reg (Reg.FAB_P_STATE_reason p) ≠ reason) then
      s3.post Reg.FAB_EVENT_mgmt_only p else s3
  let s5 := s4.breakChanged before
  (if (old = psUP) ≠ (state = psUP) then s5.noticeOwn p else s5).pump p

/-- What a port keeps when its link goes down: its equaliser coefficients, and the packets it holds in part, whose gap timers
decide (R292, R294); their flits hold no credit any more. -/
def Port.cleared (x : Port) (now : Nat) : Port :=
  { Port.reset with coefficients := x.coefficients, downAt := now, open_ := x.open_.map (fun o => { o with flits := 0 }) }

/-- A packet gives back the credit it holds on its port (R275). -/
def State.freeArrival (s : State) (a : Arrival) : State := s.freeFlits a.port a.vc a.flits

/-- Packets of a port whose credits a reset of the link has forgotten. -/
def loosen (p : Nat) (l : List Arrival) : List Arrival := l.map (fun a => if a.port = p then { a with port := 8 } else a)

/-- Packets that leave by a port: those that came by port p hold no credit there any more. -/
def loosenOut (p : Nat) (l : List OutPacket) : List OutPacket :=
  l.map (fun o => if (o.source.map (·.1)) = some p then { o with credit := false } else o)

/-- A link's sequence numbers and credits are reset, and the flits that wait to leave by it are lost (R294). -/
def State.clearPort (s : State) (p : Nat) : State :=
  let lost := (s.port p).queue
  let s1 := (s.setPort p ((s.port p).cleared s.now)).setReg (Reg.FAB_P_STATE_narrow p) 0
  let s2 := { s1 with
    combining := s1.combining.map (fun c => { c with held := loosen p c.held }),
    fabric := { s1.fabric with
      ports := s1.fabric.ports.map (fun x => { x with queue := loosenOut p x.queue }),
      inbox := loosen p s1.fabric.inbox, heldSignals := loosen p s1.fabric.heldSignals } }
  (loosenOut p lost).foldl State.dropOut s2

/-- A link goes DOWN with a reason: the flits outstanding on it are lost, and R284 and R292 decide their operations (R294). -/
def State.linkDown (s : State) (p reason : Nat) : State := (s.clearPort p).setLink p psDOWN reason

/-- Extend a measurement register: M = SHAKE256(M, register number, data), 64 bytes (R413). -/
def State.extendMeasure (s : State) (i : Nat) (data : List Byte) : State :=
  s.setReg (Reg.SEC_MEAS_value i) (leNat (shake256 (leBytes 64 (s.reg (Reg.SEC_MEAS_value i)) ++ leBytes 1 i ++ data) 64))

/-! ### Poison of payloads (R288) -/

/-- The poison map of n payload bytes read at a global address. -/
def State.poisonMapOf (s : State) (a n : Nat) : Nat :=
  sumNat ((List.range (ceilDiv n 64)).map (fun b => if s.poisonedAt (addrPlus a (64 * b)) (Nat.min 64 (n - 64 * b)) then 2 ^ b else 0))

/-- Write a payload with its poison map at a global address. -/
def State.storePayload (s : State) (a : Nat) (d : List Byte) (map : Nat) : State :=
  let k := s.key a
  s.memOps (.write k d :: (((List.range (ceilDiv d.length 64)).filter (bit map)).map (fun b =>
    .poison (k + 64 * b) (Nat.min 64 (d.length - 64 * b)))))

/-! ### Outstanding requests (R284, R291, R293) -/

/-- Requests of an I/O die that await a response. -/
def State.outstanding (s : State) (io : Nat) : Nat :=
  (s.fabric.requests.filter (fun r => r.ended.isNone && decide (r.seq / 2 ^ 31 = io))).length

/-- The requests of a task. -/
def State.requestsOf (s : State) (id : TaskId) : List Request := s.fabric.requests.filter (fun r => decide (r.task = id))

/-- Replace a request by its number. -/
def State.setRequest (s : State) (r : Request) : State :=
  { s with fabric := { s.fabric with requests := s.fabric.requests.map (fun q => if q.seq = r.seq ∧ q.ended = none then r else q) } }

/-- Tasks that wait for the responses of what they sent: REMOTE, PUSH (R143, R308) and NORM (R328). -/
def Task.awaitsResponses (t : Task) : Bool :=
  decide (t.desc.engine = engREMOTE) || (decide (t.desc.engine = engEDGE) && decide (fieldLe t.args 0 1 = 0x21)) ||
    (decide (t.desc.engine = engUPDATE) && decide (fieldLe t.args 0 1 = 1))

/-- The next request number of an I/O die: bit 31 names the die (R281). -/
def State.takeSeq (s : State) (io : Nat) : Nat × State :=
  let n := s.fabric.nextSeq.getD io 0
  (io * 2 ^ 31 + n % 2 ^ 31, { s with fabric := { s.fabric with nextSeq := s.fabric.nextSeq.set io ((n + 1) % 2 ^ 31) } })

/-- The answers that have arrived for a task. -/
def State.repliesFor (s : State) (id : TaskId) : List RemoteReply :=
  (s.fabric.replies.filter (fun r => decide (r.1 = id))).map (·.2)

/-- An answer arrives for a task's get. -/
def State.addReply (s : State) (id : TaskId) (r : RemoteReply) : State :=
  { s with fabric := { s.fabric with replies := s.fabric.replies ++ [(id, r)] } }

/-- The REMOTE task's status once all its packets have ended: that of the lowest-addressed failing one (R291). -/
def remoteStatus (l : List Request) : Nat :=
  let bad := l.filter (fun r => decide (r.ended ≠ some stOK))
  match bad with
  | [] => stOK
  | h :: t => ((t.foldl (fun a b => if b.remote < a.remote then b else a) h).ended).getD stTRUNC

/-- The request number of the lowest-addressed failing packet. -/
def remoteFirst (l : List Request) : Option Nat :=
  match l.filter (fun r => decide (r.ended ≠ some stOK)) with
  | [] => none
  | h :: t => some (t.foldl (fun a b => if b.remote < a.remote then b else a) h).seq

/-- The bytes of its target that a request covers: NM_ACC carries FP32 values for elements of its target format (R285). -/
def Task.targetBytes (t : Task) (r : Request) : Nat :=
  if r.op = pktNM_ACC then r.length / 4 * (fmtBits (bits (fieldLe t.args 1 1) 4 1) / 8) else r.length

/-- The first poisoned input block of a task whose packets have ended: the one its payloads met, else that of the range which the
lowest-addressed failing packet names; which block of it, the response does not say (R288, R345). -/
def State.remotePoison (s : State) (t : Task) (l : List Request) : Option Nat :=
  t.poisonAt.orElse (fun _ => (l.find? (fun r => decide (some r.seq = remoteFirst l))).map (fun r =>
    let first := r.remote / 64
    (first + Config.freeValue s.free % ((r.remote + t.targetBytes r - 1) / 64 + 1 - first)) * 64))

/-- Bytes that become undefined on this module when a REMOTE task fails: what its other packets would have written (R291). -/
def State.remoteUndefined (s : State) (t : Task) (l : List Request) : List (Nat × Nat) :=
  let first := remoteFirst l
  (l.filter (fun r => decide (some r.seq ≠ first))).flatMap (fun r =>
    if r.op = pktGET then [(s.key r.localAddr, r.length)]
    else if r.op ≠ pktEXACT_ACC ∧ s.node? = some (addrNode r.remote) then [(s.key r.remote, t.targetBytes r)] else [])

/-- A task whose packets have all ended finishes with their status, or with POISON where it consumed poison; a PUSH then writes
its statistics record (R139, R291, R345). -/
def State.finishRemote (s : State) (t : Task) : State :=
  let l := s.requestsOf t.id
  let sent := remoteStatus l
  let st := if sent = stOK ∧ t.poisonAt.isSome then stPOISON else sent
  let outs := if st = stOK then [] else s.remoteUndefined t l
  let record := if t.statsAddr = 0 then [] else markedWrite (s.key t.statsAddr) t.statsRecord
  ({ s with free := s.free + outs.length + 1 }.memOps (undefinedOps outs (s.free + 1) ++ record)).dropRequests t.id |>.setTask
    { t with phase := .finished, status := st, poisonAt := if st = stPOISON then s.remotePoison t l else t.poisonAt }

/-- A task that has sent all its packets (stage 0) finishes once they have ended. -/
def State.remoteProgress (s : State) (id : TaskId) : State :=
  match s.task? id with
  | some t =>
    if t.awaitsResponses ∧ t.phase = .running ∧ t.stage = 0 ∧ (s.requestsOf id).all (fun r => r.ended.isSome) ∧
        s.fabric.waiting.all (fun w => !decide (w.1 = id)) then
      s.finishRemote t
    else s
  | none => s

/-- The answers of an engine's or stream's get that has ended: data, or the failing status; those of a stream that has closed
are discarded (R98). The bytes of a sampler's gets are counted (R125). -/
def State.engineReply (s : State) (r : Request) (status poisonMap : Nat) (data : List Byte) : State :=
  if isClosedGet r.task then s
  else if status = stOK then
    (s.bump Reg.SND_CNT_REMOTE_BYTES (if (s.task? r.task).any (fun t => decide (t.desc.engine = engSAMPLE)) then r.length else 0)).addReply
      r.task ⟨r.remote, stOK, poisonMap, sliceBytes data 0 r.length⟩
  else s.addReply r.task ⟨r.remote, status, 0, []⟩

/-- Ended gets of streams that have closed are forgotten. -/
def State.dropClosed (s : State) : State :=
  { s with fabric := { s.fabric with
      requests := s.fabric.requests.filter (fun r => !(isClosedGet r.task && r.ended.isSome)) } }

/-- A response ends a request: the data of a GET and the old word of a CAS reach local; a response to no outstanding request
is counted (R286, R288, R293). -/
def State.endRequest (s : State) (seq status poisonMap arg0 : Nat) (data : List Byte) : State :=
  match s.fabric.requests.find? (fun r => decide (r.seq = seq) && r.ended.isNone) with
  | none => s.bump Reg.FAB_CNT_STALE_RESP 1
  | some r =>
    let own := ((s.task? r.task).map Task.awaitsResponses).getD false
    let s1 := if !own then s.engineReply r status poisonMap data
      else if r.op = pktCAS ∧ (status = stOK ∨ status = stPOISON) then
        s.storePayload r.localAddr (leBytes 8 arg0) (flag (decide (status = stPOISON)))
      else if r.op = pktGET ∧ status = stOK then s.storePayload r.localAddr (sliceBytes data 0 r.length) poisonMap
      else s
    ((s1.setRequest { r with ended := some status }).dropClosed).remoteProgress r.task

/-- The row of a coalescer entry that a list get carries has come, or has failed: it is delivered to every task attached to the
entry, and the entry frees (R140). -/
def State.deliverRow (s : State) (seq : Nat) (x : RemoteReply) : State :=
  let mine := fun (e : RowFetch) => decide (e.sent = some seq) && decide (e.addr = x.addr)
  let got := (s.fabric.coalescer.filter mine).flatMap (·.waiters)
  got.foldl (fun a id => a.addReply id x)
    { s with fabric := { s.fabric with coalescer := s.fabric.coalescer.filter (fun e => !mine e) } }

/-- A LIST_RESP delivers rows first to first + count − 1 of a list get, or its status for each of them (R282, R283). -/
def State.listResponse (s : State) (k : Packet) : State :=
  match s.fabric.requests.find? (fun r => decide (r.seq = k.seq) && r.ended.isNone && decide (r.op = pktLIST_GET)) with
  | none => s.bump Reg.FAB_CNT_STALE_RESP 1
  | some r =>
    let first := bits k.arg0 15 0
    let count := bits k.arg0 31 16
    let stride := roundUp r.length 64
    let rows := (r.rows.drop first).take count
    let s1 := rows.zipIdx.foldl (fun a p =>
      a.deliverRow k.seq (if k.status = stOK then
        ⟨p.1, stOK, bits k.poisonMap (stride / 64 * (p.2 + 1) - 1) (stride / 64 * p.2),
          sliceBytes k.payload (p.2 * stride) r.length⟩
      else ⟨p.1, k.status, 0, []⟩)) s
    let left := r.left - rows.length
    s1.setRequest { r with left := left, ended := if left = 0 then some stOK else none }

/-- The answers of an engine's get that fails as a whole: its status for each row of a list, or for its range; a task that
awaits responses takes none (R121, R280, R284). -/
def State.failReplies (s : State) (r : Request) (status : Nat) : State :=
  if isClosedGet r.task ∨ ((s.task? r.task).map Task.awaitsResponses).getD false then s
  else if r.op = pktLIST_GET then r.rows.foldl (fun a x => a.deliverRow r.seq ⟨x, status, 0, []⟩) s
  else s.addReply r.task ⟨r.remote, status, 0, []⟩

/-- Issue a request from an I/O die for a task: it is sent and awaits its response; without a route it ends with TRUNC at
once, and one for this module arrives at once (R280, R284, R290). -/
def State.issue (s : State) (io : Nat) (id : TaskId) (k : Packet) (localAddr : Nat) (rows : List Nat) : State :=
  let (seq, s1) := s.takeSeq io
  let p := { k with seq := seq, src := s.node?.getD 0 }
  let r : Request :=
    { seq := seq, task := id, op := k.op, remote := k.addr, length := k.length, localAddr := localAddr,
      sentAt := if s.route k.dst k.tc = some none then some s.now else none, rows := rows, left := rows.length,
      ended := none }
  let s2 := { s1 with fabric := { s1.fabric with requests := s1.fabric.requests ++ [r] } }
  match s2.sendPacket? p with
  | some s3 => s3
  | none => ((s2.bump Reg.FAB_CNT_UNREACHABLE 1).failReplies r stTRUNC).setRequest { r with ended := some stTRUNC }

/-- When a request's response timer expires: resp_us after its last flit left, in steps of 1 µs (R284, R68); none before
that flit has left. -/
def State.responseDue (s : State) (r : Request) : Option Nat :=
  r.sentAt.map (fun t => roundUp (t + s.reg Reg.FAB_CFG_resp_us * 100) 100)

/-- RESPONSE_TIMEOUT: a request ends with TRUNC (R284). -/
def State.responseTimeout (s : State) (seq : Nat) : State :=
  match s.fabric.requests.find? (fun r => decide (r.seq = seq) && r.ended.isNone) with
  | none => s
  | some r =>
    match s.responseDue r with
    | none => s
    | some due =>
      if s.now < due then s
      else
        let s1 := s.bump Reg.FAB_CNT_RESP_TIMEOUT 1
        if r.op = pktLIST_GET then (s1.failReplies r stTRUNC).setRequest { r with ended := some stTRUNC }
        else s1.endRequest seq stTRUNC 0 0 []

/-! ### Gets of the engines (R119, R136) -/

/-- A range of a get cut at the 4 KiB boundaries of its address. -/
def cutRange : Nat → Nat → Nat → List (Nat × Nat)
  | 0, _, _ => []
  | fuel + 1, a, n =>
    if n = 0 then []
    else
      let m := Nat.min n (4096 - a % 4096)
      (a, m) :: cutRange fuel (a + m) (n - m)

/-- The I/O die through which a die's engines send. -/
def ioOfDie (die : Nat) : Nat := if die < 4 then 0 else 1

/-- What of a list of ranges no outstanding get of the task asks for and no answer covers. -/
def State.unasked (s : State) (id : TaskId) (l : List (Nat × Nat)) : List (Nat × Nat) :=
  l.filter (fun p => !(s.requestsOf id).any (fun r => r.ended.isNone && decide (r.remote = p.1)))

/-- A sampler's gets of single ranges, while fewer than remote_limit of them are in flight; each is counted as it is issued
(R119, R120, R125). -/
def State.sendGets (s : State) (t : Task) (die : Nat) (missing : List (Nat × Nat)) : State :=
  let live := fun (a : State) => ((a.requestsOf t.id).filter (·.ended.isNone)).length
  (s.unasked t.id missing.eraseDups).foldl (fun a p =>
    if a.outstanding (ioOfDie die) < 16384 ∧ live a < s.reg Reg.SND_CFG_remote_limit then
      (a.bump Reg.SND_CNT_REMOTE_GETS 1).issue (ioOfDie die) t.id
        { Packet.blank with
          dst := addrNode p.1, jobId := t.job, op := pktGET, tc := 1, addr := p.1, length := p.2 } 0 []
    else a) s

/-- Two row requests have one key (R140); within one version of a table the address names the row. -/
def RowFetch.sameKey (a b : RowFetch) : Bool :=
  decide (a.die = b.die) && decide (a.job = b.job) && decide (a.table = b.table) && decide (a.epoch = b.epoch) &&
    decide (a.addr = b.addr)

/-- The coalescer entry that a running table task asks for: LOOKUP and TABLE_REFRESH give table and epoch at the same places of
their blocks (R131, R133). -/
def Task.rowFetch (t : Task) (die : Nat) (p : Nat × Nat) : RowFetch :=
  { die := die, job := t.job, table := bits (fieldLe t.args 2 2) 11 0, epoch := fieldLe t.args 4 2, addr := p.1, bytes := p.2,
    issuer := t.id, waiters := [t.id], sent := none }

/-- A task asks its die's coalescer for a row: it attaches to the entry of its key, or enters a new request (R140). -/
def State.askRow (s : State) (id : TaskId) (e : RowFetch) : State :=
  let l := s.fabric.coalescer
  if l.any e.sameKey then
    { s with fabric := { s.fabric with coalescer := l.map (fun x =>
        if e.sameKey x && !x.waiters.contains id then { x with waiters := x.waiters ++ [id] } else x) } }
  else
    let s1 := { s with fabric := { s.fabric with coalescer := l ++ [e] } }
    match s1.task? id with
    | some t => s1.setTask { t with fetched := t.fetched ++ [e.addr] }
    | none => s1

/-- The entries of a die's coalescer (R140). -/
def coalescerSize : Nat := 4096

/-- Row requests that hold an entry and have not left: the oldest requests of a die hold its entries (R140). -/
def State.grantedRows (s : State) (die : Nat) : List RowFetch :=
  ((s.fabric.coalescer.filter (fun e => decide (e.die = die))).take coalescerSize).filter (·.sent.isNone)

/-- One list get leaves, where its I/O die has a free slot: rows of one task for one owner (R136). Its request keeps the bytes of
a row, by which its answers are cut. -/
def State.sendRowList (s : State) (l : List RowFetch) : State :=
  match l with
  | [] => s
  | e :: _ =>
    let io := ioOfDie e.die
    if 16384 ≤ s.outstanding io then s
    else
      let seq := (s.takeSeq io).1
      let s1 := { s with fabric := { s.fabric with coalescer := s.fabric.coalescer.map (fun x =>
        if l.contains x then { x with sent := some seq } else x) } }
      let s2 := match s1.task? e.issuer with
        | some t => s1.setTask { t with listGets := t.listGets + 1 }
        | none => s1
      let k : Packet := { Packet.blank with
        dst := addrNode e.addr, jobId := e.job, op := pktLIST_GET, tc := 1, addr := e.addr, length := 8 * l.length, arg0 := e.bytes,
        payload := l.flatMap (fun p => leBytes 8 (addrOff p.addr)) }
      let s3 := s2.issue io e.issuer k 0 (l.map (·.addr))
      { s3 with fabric := { s3.fabric with requests := s3.fabric.requests.map (fun r =>
          if r.seq = seq ∧ r.op = pktLIST_GET then { r with length := e.bytes } else r) } }

/-- The list gets of the row requests that hold an entry: one list for each task and owner, of 512 rows at most (R136). -/
def State.sendRows (s : State) : State :=
  let ready := (List.range 8).flatMap s.grantedRows
  let lists := ((ready.map (fun e => (e.issuer, addrNode e.addr))).eraseDups).flatMap (fun g =>
    chunks 512 (ready.filter (fun e => decide ((e.issuer, addrNode e.addr) = g))))
  lists.foldl State.sendRowList s

/-- A sampler's run that needs data of other modules: with all of it the result reaches the state; else the gets go out and
the task waits for the answers. -/
def State.applyRemote (s : State) (t : Task) (die : Nat) (r : Result) : State :=
  if r.missing.isEmpty then (s.applyResult t r).dropRequests t.id else s.sendGets t die r.missing

/-- The same of a table operation, whose rows come through the coalescer of its die (R140). -/
def State.applyFetched (s : State) (t : Task) (die : Nat) (r : Result) : State :=
  if r.missing.isEmpty then (s.applyResult t r).dropRequests t.id
  else (r.missing.eraseDups.foldl (fun a p => a.askRow t.id (t.rowFetch die p)) s).sendRows

end Sys2Proof.Machine
end

