-- ==== Sys2Proof/Machine/Transform.lean ====
section
/-!
DEFINITION. Stored operands: the row-major, STREAM and STATIONARY layouts (R202), scale streams and summaries (R161, R163,
R210), the store transform (R159, R160, R440), and compression (R221 to R227).
-/

namespace Sys2Proof.Machine

/-- A stored element's bits, and whether poisoned data went into it. -/
structure Elem where
  code : Nat
  poison : Bool
deriving DecidableEq, Repr

/-- A zero element. -/
def Elem.zero : Elem := ⟨0, false⟩

/-- The bytes of a list of elements. -/
def packMarked (f : Nat) : List Elem → Marked
  | [] => []
  | c :: r =>
    if f = fmtE2M1 then
      match r with
      | [] => [(BitVec.ofNat 8 (c.code % 16), c.poison)]
      | d :: r' => (BitVec.ofNat 8 (c.code % 16 + d.code % 16 * 16), c.poison || d.poison) :: packMarked f r'
    else (leBytes (fmtBits f / 8) c.code).map (fun b => (b, c.poison)) ++ packMarked f r

/-- n bytes of memory with their poison. -/
def Memory.readMarked (m : Memory) (k n : Nat) : Marked :=
  if m.poisoned k n then (m.readN k n).zipIdx.map (fun p => (p.1, m.poisoned (k + p.2) 1)) else cleanBytes (m.readN k n)

/-- Rows and columns exchanged: a list of lines of n entries each. -/
def transposeLists {α : Type} (n : Nat) (d : α) (l : List (List α)) : List (List α) :=
  (List.range n).map (fun j => l.map (fun r => r.getD j d))

/-- Element (i, j) of a matrix, zero outside it. -/
def elemAt (m : List (List Elem)) (i j : Nat) : Elem := (m.getD i []).getD j Elem.zero

/-- Bytes of a data tile (R202). -/
def tileBytesOf (f : Nat) : Nat := 2048 * fmtBits f

/-- The bytes of a data tile: 128 lines of 128 lanes. -/
def tileMarked (f : Nat) (get : Nat → Nat → Elem) : Marked :=
  (List.range 128).flatMap (fun line => packMarked f ((List.range 128).map (get line)))

/-- A STREAM tile (a, b) of X (R202). -/
def streamTile (f : Nat) (m : List (List Elem)) (a b : Nat) : Marked :=
  let rows := (m.drop (128 * a)).take 128
  let cols := rows.map (fun r => (r.drop (128 * b)).take 128)
  tileMarked f (fun line q => elemAt cols ((line + 128 - q) % 128) q)

/-- A STATIONARY tile of K tile b and column tile c of W (R202). -/
def stationaryTile (f : Nat) (m : List (List Elem)) (b c : Nat) : Marked :=
  let rows := (m.drop (128 * b)).take 128
  let cols := rows.map (fun r => (r.drop (128 * c)).take 128)
  tileMarked f (fun line q => elemAt cols line q)

/-- Where element rows go: 0 row-major, 1 STREAM, 2 STATIONARY. -/
def layoutOps (layout f key : Nat) (stride : Int) (rows cols : Nat) (m : List (List Elem)) : List MemOp :=
  if layout = 1 then
    let kt := ceilDiv cols 128
    (List.range (ceilDiv rows 128)).flatMap (fun a => (List.range kt).flatMap (fun b =>
      markedWrite (key + (a * kt + b) * tileBytesOf f) (streamTile f m a b)))
  else if layout = 2 then
    let kt := ceilDiv rows 128
    (List.range (ceilDiv cols 128)).flatMap (fun c => (List.range kt).flatMap (fun b =>
      markedWrite (key + (c * kt + b) * tileBytesOf f) (stationaryTile f m b c)))
  else m.zipIdx.flatMap (fun p => markedWrite ((key : Int) + (p.2 : Int) * stride).toNat (packMarked f p.1))

/-- The bytes a stored operand occupies from its first byte in the tiled layouts. -/
def tiledBytes (f rows cols : Nat) : Nat := ceilDiv rows 128 * ceilDiv cols 128 * tileBytesOf f

/-! ### Scale streams and summaries (R161, R163, R210) -/

/-- The bytes of a scale stream with n blocks (R161). -/
def streamBytes (n : Nat) : Nat := roundUp (2 * n) 64

/-- The entries of a scale stream. -/
def scaleStream (blockBase : Nat) (scales : List (Nat × Bool)) : Marked :=
  scales.zipIdx.flatMap (fun p =>
    [(BitVec.ofNat 8 p.1.1, p.1.2), (BitVec.ofNat 8 (blockBase + p.2), p.1.2)])

/-- A scale stream written whole: what lies after its entries, up to a multiple of 64 bytes, is undefined. -/
def scaleStreamOps (key blockBase draw : Nat) (scales : List (Nat × Bool)) : List MemOp :=
  .undefinedBytes key (streamBytes scales.length) draw :: markedWrite key (scaleStream blockBase scales)

/-- What a summary entry says of its data tile (R163). -/
structure Summary where
  rot : Nat
  nonfinite : Bool
  minScale : Nat
  maxScale : Nat
  amax : Nat
  vanish : Nat
  poison : Bool
deriving DecidableEq, Repr

/-- The 16 bytes of summary entry t (R163). -/
def Summary.bytes (x : Summary) (t : Nat) : Marked :=
  (leBytes 1 x.maxScale ++ leBytes 1 x.minScale ++ leBytes 1 (flag x.nonfinite + 2 * x.rot) ++ leBytes 1 t ++
    leBytes 4 x.amax ++ leBytes 4 x.vanish ++ leBytes 4 0).map (fun b => (b, x.poison))

/-- A stored element with the scale byte of its block and whether it was counted as VANISH. -/
structure StoredElem where
  elem : Elem
  scale : Nat
  vanished : Bool
deriving DecidableEq, Repr

/-- The pseudo-scale of a magnitude (R210). -/
def pseudoScale (v : Num) : Nat :=
  match v with
  | .fin _ m e => if m = 0 then 0 else (max 0 (min 254 (127 + ratLog2 m 1 e))).toNat
  | _ => 0

/-- The smaller of two finite non-zero magnitudes. -/
def minAbs (a b : Num) : Num :=
  match a, b with
  | .fin _ m e, .fin _ n f => if magLt n f m e then .fin false n f else .fin false m e
  | x, _ => x

/-- The summary of the elements of a scaled data tile (R163). -/
def scaledSummary (f rot : Nat) (l : List StoredElem) : Summary :=
  let nz := l.filter (fun x => decide (x.scale ≠ 0xFF) && (decodeElem f x.elem.code).isNonzero)
  let scales := nz.map (·.scale)
  { rot := rot, nonfinite := l.any (fun x => decide (x.scale = 0xFF)),
    minScale := if scales.isEmpty then 0xFF else scales.foldl Nat.min 0xFF,
    maxScale := maxNat ((l.filter (fun x => decide (x.scale ≠ 0xFF))).map (·.scale)),
    amax := toFp32 ((nz.map (fun x => scaledValue f x.scale x.elem.code)).foldl maxAbs .zero),
    vanish := (l.filter (·.vanished)).length, poison := l.any (·.elem.poison) }

/-- The summary of the elements of an unscaled data tile (R210): pseudo-scales of the stored values. -/
def plainSummary (f : Nat) (l : List StoredElem) : Summary :=
  let vals := l.map (fun x => decodeElem f x.elem.code)
  let nz := vals.filter Num.isNonzero
  let big := nz.foldl maxAbs .zero
  { rot := 0, nonfinite := vals.any (fun v => !v.isFinite),
    minScale := match nz with
      | [] => 0xFF
      | h :: r => pseudoScale (r.foldl minAbs h.abs),
    maxScale := if nz.isEmpty then 0 else pseudoScale big, amax := toFp32 big,
    vanish := if fmtNarrow f then (l.filter (·.vanished)).length else 0, poison := l.any (·.elem.poison) }

/-- The elements of the 128 × 128 data tile (i, j) of a matrix. -/
def tileElems (m : List (List StoredElem)) (i j : Nat) : List StoredElem :=
  ((m.drop (128 * i)).take 128).flatMap (fun r => (r.drop (128 * j)).take 128)

/-- The summary entries of an operand: numbered by tile row for kAxis 0 and by tile column for kAxis 1 (R163). -/
def summaryBytes (f : Nat) (scaled : Bool) (rot kAxis rows cols : Nat) (m : List (List StoredElem)) : Marked :=
  let tr := ceilDiv rows 128
  let tc := ceilDiv cols 128
  let order := if kAxis = 0 then (List.range tr).flatMap (fun i => (List.range tc).map (fun j => (i, j)))
    else (List.range tc).flatMap (fun j => (List.range tr).map (fun i => (i, j)))
  order.zipIdx.flatMap (fun p =>
    let l := tileElems m p.1.1 p.1.2
    (if scaled then scaledSummary f rot l else plainSummary f l).bytes p.2)

/-! ### Scaling a whole operand (R154, R156, R157) -/

/-- A source element: its exact value, its bits, and its poison. -/
structure SourceElem where
  value : Num
  code : Nat
  poison : Bool
deriving DecidableEq, Repr

/-- An operand after conversion: elements in rows, block scales in stream order, counts and block records. -/
structure Converted where
  rows : List (List StoredElem)
  scales : List (Nat × Bool)
  tele : Tele
  blocks : List BlockStat
deriving DecidableEq, Repr

/-- One line along the reduction dimension, converted in blocks of 32. -/
structure ConvertedLine where
  elems : List StoredElem
  scales : List (Nat × Bool)
  tele : Tele
  stats : List BlockStat
deriving DecidableEq, Repr

/-- Rotate a line in groups of n (R164); the poison of a group spreads over it. -/
def rotateLine (n : Nat) (l : List SourceElem) : List SourceElem :=
  (chunks n l).flatMap (fun g =>
    let p := g.any (·.poison)
    (hadamardScaled (g.map (·.value))).map (fun v => ⟨v, 0, p⟩))

/-- Scale a line in blocks of 32; idxOf gives the stochastic-rounding bits of an element by its place in the line. -/
def scaleLine (f kind : Nat) (sr : Bool) (bitsOf : Nat → Nat) (l : List SourceElem) : ConvertedLine :=
  let parts := (chunks 32 l).zipIdx.map (fun c =>
    let p := c.1.any (·.poison)
    let mode := if sr then Rounding.sr ((List.range c.1.length).map (fun i => bitsOf (32 * c.2 + i))) else .rne
    let b := scaleBlock (c.1.map (·.value)) f kind mode
    (b, (c.1.zip b.codes).map (fun (x : SourceElem × Nat) =>
      (⟨⟨x.2, p⟩, b.scale, x.1.value.isNonzero && decide (b.scale ≠ 0xFF) && !(decodeElem f x.2).isNonzero⟩ :
        StoredElem)), p))
  { elems := parts.flatMap (·.2.1), scales := parts.map (fun x => (x.1.scale, x.2.2)),
    tele := parts.foldl (fun a x => a.plus x.1.tele) {}, stats := parts.map (·.1.stat) }

/-- Convert a matrix of rows × cols elements with block scales along the reduction dimension. -/
def convertScaled (f kind kAxis rows cols : Nat) (sr : Bool) (bitsOf : Nat → Nat → Nat) (rot : Nat)
    (m : List (List SourceElem)) : Converted :=
  let src := if kAxis = 0 then m else transposeLists cols ⟨.zero, 0, false⟩ m
  let len := if kAxis = 0 then cols else rows
  let lines := src.zipIdx.map (fun p =>
    let l := if rot = 0 then p.1 else rotateLine rot p.1
    scaleLine f kind sr (fun k => if kAxis = 0 then bitsOf p.2 k else bitsOf k p.2) l)
  let elems := lines.map (·.elems)
  { rows := if kAxis = 0 then elems else transposeLists len ⟨Elem.zero, 0, false⟩ elems,
    scales := if kAxis = 0 then lines.flatMap (·.scales)
      else (transposeLists (len / 32) (0, false) (lines.map (·.scales))).flatten,
    tele := lines.foldl (fun a x => a.plus x.tele) {},
    blocks := if kAxis = 0 then lines.flatMap (·.stats)
      else (transposeLists (len / 32) (⟨kind, 0, 0, false, 0⟩ : BlockStat) (lines.map (·.stats))).flatten }

/-- Convert one element (R152), or stochastically with its 16 random bits (R171); equal formats keep the bits (R160). -/
def convertElem (srcF f : Nat) (bitsOf : Option Nat) (x : SourceElem) : StoredElem × Tele :=
  if srcF = f then (⟨⟨x.code, x.poison⟩, 0, false⟩, {})
  else
    let (c, t) := match bitsOf with
      | some r => convertSr f r x.value
      | none => convertRne f x.value
    (⟨⟨c, x.poison⟩, 0, decide (t.vanish ≠ 0)⟩, t)

/-- Convert a matrix element by element, stochastically where bitsOf gives the bits of the element at a row and column (R152,
R160, R168). -/
def convertPlain (srcF f : Nat) (bitsOf : Option (Nat → Nat → Nat)) (m : List (List SourceElem)) : Converted :=
  let rows := m.zipIdx.map (fun r => r.1.zipIdx.map (fun x => convertElem srcF f (bitsOf.map (fun g => g r.2 x.2)) x.1))
  { rows := rows.map (fun r => r.map (·.1)), scales := [],
    tele := rows.foldl (fun a r => r.foldl (fun a x => a.plus x.2) a) {}, blocks := [] }

/-! ### Compression (R221 to R227) -/

/-- The slot size of a tile pair (R221). -/
def slotBytes (f : Nat) : Nat := 2 * tileBytesOf f + 64

/-- Order of magnitude of a stored element: its code without the sign. -/
def magCode (f c : Nat) : Nat := if f = fmtINT8 then (toSigned 8 c).natAbs else c % 2 ^ fmtMagBits f

/-- The positions of a group in the order in which PRUNE keeps them: larger magnitude first, then lower position. -/
def keepOrder (f : Nat) (g : List Nat) (p : List Nat) : List Nat :=
  p.mergeSort (fun i j => decide (magCode f (g.getD j 0) < magCode f (g.getD i 0)) ||
    (decide (magCode f (g.getD j 0) = magCode f (g.getD i 0)) && decide (i ≤ j)))

/-- The two kept positions of a group, ascending, and whether it was pruned (R226). -/
def keptPositions (f : Nat) (g : List Nat) : List Nat × Bool :=
  let nz := (List.range 4).filter (fun i => decide (magCode f (g.getD i 0) ≠ 0))
  let pruned := decide (2 < nz.length)
  let p := if pruned then (keepOrder f g nz).take 2 else nz
  let pad := (List.range 4).filter (fun i => !p.contains i)
  (((p ++ pad).take 2).mergeSort (fun a b => decide (a ≤ b)), pruned)

/-- A stored slot: its bytes, groups pruned, dense flag and cause. -/
structure Slot where
  bytes : Marked
  pruned : Nat
  dense : Bool
  cause : Nat
deriving DecidableEq, Repr

/-- store_pair of R226 for column tile c and pair p of the converted rows of a W of k rows. -/
def storePair (f policy k : Nat) (m : List (List Elem)) (c p : Nat) : Slot :=
  let realK := Nat.min 256 (k - 256 * p)
  let rows := ((m.drop (256 * p)).take realK).map (fun r => (r.drop (128 * c)).take 128)
  let poison := rows.any (fun r => r.any (·.poison))
  let groupAt := fun g q => (List.range 4).map (fun i => (elemAt rows (4 * g + i) q).code)
  let choices := (List.range 64).map (fun g => (List.range 128).map (fun q => keptPositions f (groupAt g q)))
  let prunedAll := sumNat (choices.map (fun r => (r.filter (·.2)).length))
  let policyDense := decide (policy = 1) && decide (0 < prunedAll)
  let d := ceilDiv realK 128
  let b := tileBytesOf f
  let sizeDense := !policyDense && decide (d * b ≤ b + 4096)
  let dense := policyDense || sizeDense
  let cause := if policyDense then 2 else if sizeDense then 1 else 0
  let pruned := if policy = 1 then 0 else prunedAll
  let isKept := fun i q => decide (policy = 1) || !((choices.getD (i / 4) []).getD q ([], false)).2 ||
    ((choices.getD (i / 4) []).getD q ([], false)).1.contains (i % 4)
  let payload : List Byte :=
    if dense then
      (List.range d).flatMap (fun t => (List.range 128).flatMap (fun line =>
        packElems f ((List.range 128).map (fun q =>
          let i := 128 * t + line
          if isKept i q then (elemAt rows i q).code else 0))))
    else
      (List.range 128).flatMap (fun line => packElems f ((List.range 128).map (fun q =>
        let pos := (((choices.getD (line / 2) []).getD q ([], false)).1).getD (line % 2) 0
        (elemAt rows (4 * (line / 2) + pos) q).code))) ++
      (List.range 64).flatMap (fun g => (List.range 64).map (fun h =>
        let nib := fun q => let ix := ((choices.getD g []).getD q ([], false)).1; ix.getD 0 0 + 4 * ix.getD 1 0
        BitVec.ofNat 8 (nib (2 * h) + 16 * nib (2 * h + 1))))
  let used := 64 + payload.length
  let header := leBytes 4 0x50535451 ++ leBytes 1 f ++
    leBytes 1 (flag dense + 2 * flag (decide (pruned ≠ 0)) + 4 * cause) ++ leBytes 2 realK ++ leBytes 4 p ++ leBytes 4 c ++
    leBytes 4 used ++ leBytes 2 pruned ++ List.replicate 42 0
  { bytes := (header ++ payload ++ List.replicate (slotBytes f - used) 0).map (fun x => (x, poison)), pruned := pruned,
    dense := dense, cause := cause }

/-- Every slot of a compressed W, with its place: column tiles, pairs within them. -/
def storeSlots (f policy k n : Nat) (m : List (List Elem)) : List (Nat × Slot) :=
  let pt := ceilDiv (ceilDiv k 128) 2
  (List.range (ceilDiv n 128)).flatMap (fun c => (List.range pt).map (fun p =>
    ((c * pt + p) * slotBytes f, storePair f policy k m c p)))

/-- The counters of stored slots on a tile (R226, R236). -/
def slotBumps (tile : Nat) (l : List Slot) : List (Field × Nat) :=
  [(Reg.TIL_SPR_CNT_COMPRESSED tile, (l.filter (fun x => !x.dense)).length),
    (Reg.TIL_SPR_CNT_PRUNED tile, sumNat (l.map (·.pruned))),
    (Reg.TIL_SPR_CNT_DENSE_FALLBACK tile, (l.filter (·.dense)).length),
    (Reg.TIL_SPR_CNT_DENSE_POLICY tile, (l.filter (fun x => decide (x.cause = 2))).length)]

/-! ### The store transform (R159) -/

/-- The fields of a store-transform block. -/
structure Xform where
  compress : Bool
  skew : Bool
  rotate : Bool
  scale : Bool
  srcF : Nat
  dstF : Nat
  rotSize : Nat
  kind : Nat
  kAxis : Nat
  blockBase : Nat
  scales : Nat
  summary : Nat
  step : Nat
  tensorId : Nat
  layout : Nat
  policy : Nat
  reservedSet : Bool
deriving DecidableEq, Repr

/-- A store-transform block from its 64 bytes. -/
def parseXform (b : List Byte) : Xform :=
  let b0 := fieldLe b 0 1
  let b1 := fieldLe b 1 1
  let b2 := fieldLe b 2 1
  let b3 := fieldLe b 3 1
  let lay := fieldLe b 0x20 1
  let pol := fieldLe b 0x30 1
  { compress := bit b0 3, skew := bit b0 2, rotate := bit b0 1, scale := bit b0 0, srcF := bits b1 7 4, dstF := bits b1 3 0,
    rotSize := bits b2 4 3, kind := bits b2 2 0, kAxis := bits b3 0 0, blockBase := fieldLe b 4 4, scales := fieldLe b 8 8,
    summary := fieldLe b 0x10 8, step := fieldLe b 0x18 4, tensorId := fieldLe b 0x1C 4, layout := bits lay 1 0,
    policy := bits pol 1 0,
    reservedSet := decide (bits b0 7 4 ≠ 0) || decide (bits b2 7 5 ≠ 0) || decide (bits b3 7 1 ≠ 0) ||
      decide (bits lay 7 2 ≠ 0) || decide (fieldLe b 0x21 15 ≠ 0) || decide (bits pol 7 2 ≠ 0) ||
      decide (fieldLe b 0x31 15 ≠ 0) }

/-- The order n of a rotation-size code (R159). -/
def rotOrder (code : Nat) : Nat := 32 * 2 ^ code

/-- The rot field of a summary (R163) for a store transform. -/
def Xform.rotField (x : Xform) : Nat := if x.rotate then x.rotSize + 1 else 0

/-- The formats R155 allows a kind. -/
def kindAllows (kind f : Nat) : Bool :=
  if kind = 2 then f == fmtE5M2
  else if kind = 0 || kind = 1 || kind = 3 then f == fmtE4M3 || f == fmtE3M2 || f == fmtE2M1 || f == fmtINT8
  else true

/-- Elements of a source row of a length in bytes. -/
def Xform.cols (x : Xform) (length : Nat) : Nat := length * 8 / fmtBits x.srcF

/-- The payload of a table row of a width in a format: its elements and its scale byte (R126). -/
def rowPayload (f width : Nat) : Nat := elemBytes f width + flag (fmtNarrow f)

/-- The stride of a table row (R126). -/
def rowStride (f width : Nat) : Nat := roundUp (rowPayload f width) 64

/-- The FORMAT checks of R160, R201, R225 and R440 for rows of a length in bytes stored at dst with a stride; two is
set for a COPY2D. -/
def Xform.bad (x : Xform) (rows length dst : Nat) (dstStride : Int) (two : Bool) : Bool :=
  let cols := x.cols length
  let red := if x.kAxis = 0 then cols else rows
  x.reservedSet || decide (8 ≤ x.srcF) || decide (8 ≤ x.dstF) || decide (x.rotSize = 3) || decide (6 ≤ x.kind) ||
    (x.rotate && (!decide (x.kind = 0) || !x.scale)) || (x.scale && !fmtNarrow x.dstF) || !kindAllows x.kind x.dstF ||
    decide (length * 8 % fmtBits x.srcF ≠ 0) ||
    (if x.kind = 4 then
      (!x.scale && fmtNarrow x.dstF) || x.skew || x.rotate || x.compress || decide (x.kAxis = 1) || decide (x.summary ≠ 0) ||
        decide (dst % 64 ≠ 0) || decide (4096 < rowPayload x.dstF cols) ||
        (two && (decide (dstStride % 64 ≠ 0) || decide (dstStride < (rowStride x.dstF cols : Int))))
    else decide (red % 32 ≠ 0) || (x.rotate && decide (red % rotOrder x.rotSize ≠ 0))) ||
    (x.scale && decide (x.kind ≠ 4) && decide (x.scales % 64 ≠ 0)) ||
    (if x.skew then
      decide (x.layout = 0) || decide (x.layout = 3) || (decide (x.layout = 1) && decide (x.kAxis = 1)) ||
        (decide (x.layout = 2) && decide (x.kAxis = 0)) || decide (addrSpace dst ≠ 1)
    else decide (x.layout ≠ 0)) ||
    (if x.compress then
      decide (2 ≤ x.policy) || !x.skew || decide (x.layout ≠ 2) || !(x.kind == 0 || x.kind == 5) ||
        decide (x.dstF = fmtFP32) || (fmtNarrow x.dstF && !x.scale)
    else decide (x.policy ≠ 0))

/-- Blocks of a scaled operand. -/
def Xform.blockCount (x : Xform) (rows length : Nat) : Nat :=
  if x.kAxis = 0 then rows * (x.cols length / 32) else rows / 32 * x.cols length

/-- Bytes of one stored row in the row-major layout. -/
def Xform.rowBytes (x : Xform) (length : Nat) : Nat :=
  if x.kind = 4 then rowStride x.dstF (x.cols length) else elemBytes x.dstF (x.cols length)

/-- Bytes of the stored operand from dst in a skewed or compressed layout. -/
def Xform.tiledSize (x : Xform) (rows length : Nat) : Nat :=
  let cols := x.cols length
  if x.compress then ceilDiv cols 128 * ceilDiv (ceilDiv rows 128) 2 * slotBytes x.dstF else tiledBytes x.dstF rows cols

/-- Bytes of the summary. -/
def Xform.summarySize (x : Xform) (rows length : Nat) : Nat :=
  if x.summary = 0 then 0 else ceilDiv rows 128 * ceilDiv (x.cols length) 128 * 16

/-- What a store transform writes: its memory effects, counts and block records, slots' counts and whether a slot went
dense by policy. -/
structure StoreResult where
  ops : List MemOp
  tele : Tele
  blocks : List BlockStat
  slots : List Slot
deriving DecidableEq, Repr

/-- One table row of kind Row (R440); a wide format equal to the source's keeps the bits (R160). -/
def storeRow (srcF f : Nat) (r : List SourceElem) : Marked × Tele × List BlockStat :=
  let p := r.any (·.poison)
  let stride := rowStride f r.length
  if fmtNarrow f then
    let b := scaleBlock (r.map (·.value)) f 4 .rne
    let body := packElems f b.codes ++ leBytes 1 b.scale
    ((body ++ List.replicate (stride - body.length) 0).map (fun x => (x, p)), b.tele, [b.stat])
  else
    let l := r.map (convertElem srcF f none)
    let body := packMarked f (l.map (·.1.elem))
    (body ++ cleanBytes (List.replicate (stride - body.length) 0), l.foldl (fun a x => a.plus x.2) {}, [])

/-- Run a store transform on source rows: key is the destination's memory key, keyOf maps the global addresses of the
scale stream and the summary, draw is the free number of the scale stream's padding (R159 to R164, R202, R226, R440). -/
def Xform.run (x : Xform) (seed draw : Nat) (keyOf : Nat → Nat) (key : Nat) (dstStride : Int) (m : List (List SourceElem)) :
    StoreResult :=
  let rows := m.length
  let cols := (m.headD []).length
  if x.kind = 4 then
    let l := m.map (storeRow x.srcF x.dstF)
    { ops := l.zipIdx.flatMap (fun p => markedWrite ((key : Int) + (p.2 : Int) * dstStride).toNat p.1.1),
      tele := l.foldl (fun a p => a.plus p.2.1) {}, blocks := l.flatMap (·.2.2), slots := [] }
  else
    let bitsOf := fun r c => srBits seed ((32 * x.blockBase + r * cols + c) % 2 ^ 48) x.tensorId x.step
    let c := if x.scale then
        convertScaled x.dstF x.kind x.kAxis rows cols (decide (x.kind = 2)) bitsOf
          (if x.rotate then rotOrder x.rotSize else 0) m
      else
        convertPlain x.srcF x.dstF (if x.kind = 2 then some bitsOf else none) m
    let elems := c.rows.map (fun r => r.map (·.elem))
    let slots := if x.compress then storeSlots x.dstF x.policy rows cols elems else []
    let data := if x.compress then slots.flatMap (fun p => markedWrite (key + p.1) p.2.bytes)
      else layoutOps (if x.skew then x.layout else 0) x.dstF key dstStride rows cols elems
    let stream := if x.scale then scaleStreamOps (keyOf x.scales) x.blockBase draw c.scales else []
    let axis := if !x.scale && !x.skew then 0 else x.kAxis
    let summ := if x.summary = 0 then []
      else markedWrite (keyOf x.summary) (summaryBytes x.dstF x.scale x.rotField axis rows cols c.rows)
    { ops := data ++ stream ++ summ, tele := c.tele, blocks := c.blocks, slots := slots.map (·.2) }

end Sys2Proof.Machine
end

