-- ==== Sys2Proof/Machine/Dma.lean ====
section
/-!
DEFINITION. The DMA (04 R91 to R93, 07 R159): copies, fills and store transforms; prefetch streams (R94 to R98); bank caps
(R90) and patrol scrub (R82 to R84, R101).
-/

namespace Sys2Proof.Machine

/-! ### The argument block (R91) -/

/-- The fields of a DMA argument block. -/
structure DmaArgs where
  op : Nat
  stream : Nat
  rows : Nat
  src : Nat
  dst : Nat
  length : Nat
  srcStride : Int
  dstStride : Int
  xform : Nat
deriving DecidableEq, Repr

/-- A DMA argument block from its 64 bytes. -/
def parseDma (b : List Byte) : DmaArgs :=
  { op := fieldLe b 0 1, stream := fieldLe b 1 1, rows := fieldLe b 4 4, src := fieldLe b 8 8, dst := fieldLe b 0x10 8,
    length := fieldLe b 0x18 4, srcStride := toSigned 64 (fieldLe b 0x20 8), dstStride := toSigned 64 (fieldLe b 0x28 8),
    xform := fieldLe b 0x30 8 }

/-- The rows a copy moves: one for COPY. -/
def DmaArgs.rowCount (a : DmaArgs) : Nat := if a.op = 1 then a.rows else 1

/-- R74: nothing to do. -/
def DmaArgs.empty (a : DmaArgs) : Bool := decide (a.length = 0) || (decide (a.op = 1) && decide (a.rows = 0))

/-- The address of row r from a base at a stride. -/
def rowAddr (base : Nat) (stride : Int) (r : Nat) : Nat := addrPlusInt base ((r : Int) * stride)

/-- The range from the lowest to one past the highest byte of rows at a stride. -/
def rowSpan (base : Nat) (stride : Int) (rows len : Nat) : Nat × Nat :=
  let last := ((rows : Int) - 1) * stride
  (addrPlusInt base (min 0 last), last.natAbs + len)

/-- The range that a copy reads. -/
def DmaArgs.srcSpan (a : DmaArgs) : Nat × Nat :=
  if a.op = 1 then rowSpan a.src a.srcStride a.rows a.length else (a.src, a.length)

/-- The store-transform block of a copy. -/
def State.xformOf (s : State) (a : DmaArgs) : Xform := parseXform (s.readAddr a.xform 64)

/-- The range that a copy or fill writes at dst. -/
def State.dmaDstSpan (s : State) (a : DmaArgs) : Nat × Nat :=
  if a.op = 4 ∨ a.xform = 0 then (if a.op = 1 then rowSpan a.dst a.dstStride a.rows a.length else (a.dst, a.length))
  else
    let x := s.xformOf a
    if x.skew then (a.dst, x.tiledSize a.rowCount a.length)
    else rowSpan a.dst (if a.op = 1 then a.dstStride else 0) a.rowCount (x.rowBytes a.length)

/-- A number line of every byte that addresses of one module can name: memory keys, and space 2 beyond them. -/
def State.line (s : State) (a : Nat) : Nat := if addrSpace a = 2 then 2 ^ 46 + addrOff a else s.key a

/-- Whether two ranges of addresses overlap: they name one module and have a byte in common. -/
def State.overlap (s : State) (p q : Nat × Nat) : Bool :=
  decide (addrNode p.1 = addrNode q.1) && rangesMeet (s.line p.1, p.2) (s.line q.1, q.2)

/-- The ranges a copy's store transform writes besides its destination. -/
def Xform.extraRanges (x : Xform) (rows length : Nat) : List Range :=
  (if x.scale && decide (x.kind ≠ 4) then
    [{ addr := x.scales, len := streamBytes (x.blockCount rows length), write := true }] else []) ++
  (if x.summary = 0 then [] else [{ addr := x.summary, len := x.summarySize rows length, write := true }])

/-- ACCESS of a range that starts at any of several row addresses: every row's start lies in a window (R93). -/
def State.spanAccess (s : State) (job base : Nat) (stride : Int) (rows : Nat) (read write : Bool) : Nat :=
  firstFailure [s.rangeAccess job { addr := base, len := 1, read := read, write := write },
    s.rangeAccess job { addr := rowAddr base stride (rows - 1), len := 1, read := read, write := write }]

/-- BOUND of a span: it lies inside one window (R76). -/
def State.spanBound (s : State) (job : Nat) (p : Nat × Nat) (read write : Bool) : Nat :=
  failIf (decide (s.windowEnd job { addr := p.1, len := p.2, read := read, write := write } false < addrOff p.1 + p.2)) stBOUND

/-- The checks of a copy or fill, in the order of R93 and R439. -/
def State.copyCheck (s : State) (job : Nat) (a : DmaArgs) : Nat :=
  let x := s.xformOf a
  let src := a.srcSpan
  let dst := s.dmaDstSpan a
  let isFill := decide (a.op = 4)
  let rows := a.rowCount
  let dstStride := if a.op = 1 then a.dstStride else 0
  let srcStride := if a.op = 1 then a.srcStride else 0
  let extra := if a.xform = 0 then [] else x.extraRanges rows a.length
  let own := [failIf (decide (4 ≤ addrSpace a.dst) || (!isFill && decide (4 ≤ addrSpace a.src))) stFORMAT] ++
    (if a.xform = 0 then [] else
      [failIf (!addrForm a.xform 64 [0, 1]) stFORMAT,
        s.rangeAccess job { addr := a.xform, len := 64, read := true },
        s.rangeBound job { addr := a.xform, len := 64, read := true },
        failIf (s.poisonedAt a.xform 64) stPARITY,
        failIf (x.bad rows a.length a.dst dstStride (decide (a.op = 1))) stFORMAT]) ++
    [failIf (!isFill && s.overlap src dst) stFORMAT] ++ extra.map rangeFormat
  let access := (if isFill then [] else [s.spanAccess job a.src srcStride rows true false]) ++
    [s.spanAccess job a.dst (if a.xform ≠ 0 ∧ x.skew then 0 else dstStride) rows false true] ++ extra.map (s.rangeAccess job)
  let bound := (if isFill then [] else [s.spanBound job src true false]) ++ [s.spanBound job dst false true] ++
    extra.map (s.rangeBound job)
  firstFailure (own ++ access ++ bound)

/-! ### Stream descriptors (R94, R95) -/

/-- The fields of a stream descriptor. -/
structure StreamDesc where
  src : Nat
  dst : Nat
  blockBytes : Nat
  blockCount : Nat
  stride : Int
  bound : Nat
  slots : Nat
  depthMin : Nat
  depthMax : Nat
  mode : Nat
  adapt : Bool
  idx : Nat
deriving DecidableEq, Repr

/-- A stream descriptor from its 64 bytes. -/
def parseStream (b : List Byte) : StreamDesc :=
  let m := fieldLe b 0x2E 1
  { src := fieldLe b 0 8, dst := fieldLe b 8 8, blockBytes := fieldLe b 0x10 4, blockCount := fieldLe b 0x14 4,
    stride := toSigned 64 (fieldLe b 0x18 8), bound := fieldLe b 0x20 8, slots := fieldLe b 0x28 2,
    depthMin := fieldLe b 0x2A 2, depthMax := fieldLe b 0x2C 2, mode := bits m 3 0, adapt := bit m 4,
    idx := fieldLe b 0x30 8 }

/-- The stream at a slot of a die. -/
def State.stream? (s : State) (die slot : Nat) : Option Stream :=
  s.streams.find? (fun x => decide (x.die = die) && decide (x.slot = slot))

/-- R74: nothing to read. -/
def StreamDesc.empty (d : StreamDesc) : Bool := decide (d.blockBytes = 0) || decide (d.blockCount = 0)

/-- R95's FORMAT checks, after that of the mode. -/
def StreamDesc.bad (d : StreamDesc) (isOpen : Bool) : Bool :=
  decide (d.blockBytes % 64 ≠ 0) || decide (65536 < d.blockBytes) || decide (d.slots < 2) ||
    decide (4096 < d.slots) || decide (d.depthMin < 1) || decide (d.slots < d.depthMin) || decide (d.depthMax < d.depthMin) ||
    decide (d.slots < d.depthMax) || isOpen || !(addrSpace d.src == 0 || addrSpace d.src == 3) ||
    decide (addrNode d.bound ≠ addrNode d.src) || decide (addrSpace d.bound ≠ addrSpace d.src) || !addrForm d.dst 64 [1]

/-- The stream's source is on this module. -/
def State.isLocal (s : State) (a : Nat) : Bool := decide (s.node? = some (addrNode a))

/-- The effective bound, as an offset in the source's space: the smaller of bound and the end of the source window for a
source on this module (R95). -/
def State.streamBound (s : State) (job : Nat) (d : StreamDesc) : Nat :=
  if s.isLocal d.src then Nat.min (addrOff d.bound) (s.windowEnd job { addr := d.src, len := 1, read := true } false)
  else addrOff d.bound

/-- The lowest base of the windows that contain the source (R95). -/
def State.streamBase (s : State) (job : Nat) (d : StreamDesc) : Nat :=
  ((s.windowsAt job d.src true false false).map (·.base)).foldl Nat.min (addrOff d.src)

/-- R95's checks of a stream descriptor, after those of its own address; of an empty one only the reserved mode fails (R6, R74,
R438). -/
def State.streamCheck (s : State) (job die slot : Nat) (d : StreamDesc) : Nat :=
  if 2 ≤ d.mode then stFORMAT
  else if d.empty then stOK
  else if d.bad (s.stream? die slot).isSome then stFORMAT
  else
    let off : Int := addrOff d.src
    let last := off + ((d.blockCount : Int) - 1) * d.stride
    let buffer : Range := { addr := d.dst, len := d.slots * d.blockBytes, write := true }
    let idx : Range := { addr := d.idx, len := d.blockCount * 4, read := true }
    firstFailure
      [if s.isLocal d.src then s.rangeAccess job { addr := d.src, len := 1, read := true }
       else failIf (!s.nodeExists (addrNode d.src)) stACCESS,
       s.rangeAccess job buffer,
       failIf (decide (d.mode = 0) && s.isLocal d.src && decide (min off last < (s.streamBase job d : Int))) stBOUND,
       failIf (decide (d.mode = 0) &&
         decide ((s.streamBound job d : Int) < max off last + (d.blockBytes : Int))) stBOUND,
       failIf (decide (d.mode = 1) && decide (s.rangeAccess job idx ≠ stOK ∨ s.rangeBound job idx ≠ stOK)) stBOUND,
       s.rangeBound job buffer]

/-- The DMA's checks at dispatch (R93, R95). -/
def State.dmaCheck (s : State) (t : Task) : Nat :=
  let a := parseDma t.args
  if 5 ≤ a.op ∨ (a.xform ≠ 0 ∧ 2 ≤ a.op) then stFORMAT
  else if a.op = 3 then stOK
  else if a.op = 2 then
    let block : Range := { addr := a.src, len := 64, read := true }
    firstFailure [failIf (!addrForm a.src 64 [0, 1]) stFORMAT, s.rangeAccess t.job block, s.rangeBound t.job block,
      failIf (s.poisonedAt a.src 64) stPARITY,
      s.streamCheck t.job (t.runTile / 8) a.stream (parseStream (s.readAddr a.src 64))]
  else if a.empty then stOK
  else s.copyCheck t.job a

/-- The memory a DMA task may write (R73). -/
def State.dmaOuts (s : State) (t : Task) : List (Nat × Nat) :=
  let a := parseDma t.args
  if a.empty ∨ a.op = 2 ∨ a.op = 3 then []
  else
    let d := s.dmaDstSpan a
    (s.key d.1, d.2) :: (if a.xform = 0 then [] else
      ((s.xformOf a).extraRanges a.rowCount a.length).map (fun r => (s.key r.addr, r.len)))

/-! ### HBM codewords (R82 to R84) -/

/-- The correction record of a lane. -/
def State.lane (s : State) (stack pseudo lane : Nat) : LaneCount :=
  (s.lanes.find? (fun l => decide (l.stack = stack) && decide (l.pseudo = pseudo) && decide (l.lane = lane))).getD
    ⟨stack, pseudo, lane, 0, false⟩

/-- Whether two lane records are of one lane. -/
def LaneCount.same (a b : LaneCount) : Bool :=
  decide (a.stack = b.stack) && decide (a.pseudo = b.pseudo) && decide (a.lane = b.lane)

/-- Replace a lane's record. -/
def putLane (l : LaneCount) (ls : List LaneCount) : List LaneCount :=
  if ls.any (fun x => x.same l) then ls.map (fun x => if x.same l then l else x) else ls ++ [l]

/-- A symbol of an unmarked lane has been corrected; the 1,024th correction marks the lane while fewer than two of its
pseudo-channel are marked, and a third is only posted (R82). -/
def State.laneCorrected (s : State) (p : HbmPlace) (lane : Nat) : State :=
  let l := s.lane p.stack p.pseudo lane
  let l1 := { l with corrections := l.corrections + 1 }
  let marked := (s.lanes.filter (fun x => x.marked && decide (x.stack = p.stack) && decide (x.pseudo = p.pseudo))).length
  if l1.corrections = 1024 then
    if marked < 2 then
      let l2 := { l1 with marked := true }
      { s with
        lanes := putLane l2 s.lanes,
        binnacle := { s.binnacle with lanes := putLane l2 s.binnacle.lanes, lastLane := s.binnacle.lastLane.set p.stack lane } }.post
          Reg.MEM_EVENT_lane_failed p.stack
    else { s with lanes := putLane l1 s.lanes }.post Reg.MEM_EVENT_lane_failed p.stack
  else { s with lanes := putLane l1 s.lanes }

/-- A codeword is found uncorrectable: it is poisoned, counted, posted and recorded, once (R84). -/
def State.codewordUncorrectable (s : State) (offset : Nat) (p : HbmPlace) : State :=
  if s.mem.poisoned offset 1 then s
  else
    let s1 := (s.memOps [.poison (offset / 64 * 64) 64]).bump Reg.MEM_CNT_UE 1
    (s1.post Reg.MEM_EVENT_uncorrectable p.stack).logError
      { source := 1, severity := 1, die := p.die, unit := p.stack, addr := s.addrOfKey (offset / 64 * 64) }

/-- A codeword with symbol errors on some lanes meets the outer code (R82 to R84). Beyond its reach it is either found
uncorrectable or miscorrected, and then its data is anything (R83). -/
def State.codeword (s : State) (offset : Nat) (lanes : List Nat) (uncorrectable : Bool) : State :=
  let p := hbmMap offset
  let bad := lanes.eraseDups
  let fresh := bad.filter (fun l => !(s.lane p.stack p.pseudo l).marked)
  let reach := if s.lanes.any (fun x => x.marked && decide (x.stack = p.stack) && decide (x.pseudo = p.pseudo)) then 3 else 4
  if bad.isEmpty ∧ uncorrectable = false then s
  else if uncorrectable then s.codewordUncorrectable offset p
  else if fresh.length ≤ reach then
    let s1 := fresh.foldl (fun a l => a.laneCorrected p l) s
    if fresh.isEmpty then s1
    else (s1.bump Reg.MEM_CNT_CE 1).corrected p.die 0xFF p.stack (s.addrOfKey (offset / 64 * 64))
  else
    let s1 := { s with free := s.free + 1 }.memOps [.undefinedBytes (offset / 64 * 64) 64 s.free]
    (s1.bump Reg.MEM_CNT_CE 1).corrected p.die 0xFF p.stack (s.addrOfKey (offset / 64 * 64))

/-- Symbol errors that demand reads of a list of ranges meet: each erroneous codeword that one of them touches is handled before
its data goes on (R82 to R84, R341). -/
def State.demandReads (s : State) (ranges : List (Nat × Nat)) (errors : List CodewordError) : State :=
  errors.foldl (fun a e =>
    if ranges.any (rangesMeet (e.offset / 64 * 64, 64)) then a.codeword e.offset e.lanes e.uncorrectable else a) s

/-! ### Copies and fills (R92) -/

/-- The elements of a row of source bytes, each with the poison of the block it lies in. -/
def State.sourceRow (s : State) (f key len : Nat) : List SourceElem :=
  let b := s.mem.readN key len
  let n := len * 8 / fmtBits f
  let anyPoison := s.mem.poisoned key len
  (List.range n).map (fun i =>
    let c := elemBits f b i
    ⟨decodeElem f c, c, anyPoison && s.mem.poisoned (key + i * fmtBits f / 8) (ceilDiv (fmtBits f) 8)⟩)

/-- The job's seed (R31). -/
def State.seed (s : State) (job : Nat) : Nat := ((s.chartJob? job).map (·.seed)).getD 0

/-- The rows of a plain copy: source key, destination key and length. -/
def State.copyRows (s : State) (a : DmaArgs) : List (Nat × Nat × Nat) :=
  (List.range a.rowCount).map (fun r =>
    if a.op = 1 then (s.key (rowAddr a.src a.srcStride r), s.key (rowAddr a.dst a.dstStride r), a.length)
    else (s.key a.src, s.key a.dst, a.length))

/-- A row of a copy in the pieces that its atomic 64-byte destination blocks make (R81). -/
def rowPieces (row : Nat × Nat × Nat) : List (Nat × Nat × Nat) :=
  let (src, dst, n) := row
  (blocksOf dst n).map (fun b =>
    let lo := Nat.max dst (b * 64)
    let hi := Nat.min (dst + n) (b * 64 + 64)
    (src + (lo - dst), lo, hi - lo))

/-- A list in an order that free values choose, draw by draw. -/
def freeOrder {α : Type} (free : Nat) (l : List α) : List α :=
  (sortBy (fun (a b : α × Nat) => decide (Config.freeValue a.2 < Config.freeValue b.2))
    (l.zipIdx.map (fun p => (p.1, free + p.2)))).map (·.1)

/-- A plain copy's moves. The writes of a DMA task land in any order (R92): where rows of the destination overlap one another,
their pieces land in a free order, so that an overlapped byte is that of one of its rows. -/
def State.plainCopy (s : State) (a : DmaArgs) : Result :=
  let rows := s.copyRows a
  let reads := rows.map (fun p => (p.1, p.2.2))
  if a.op = 1 ∧ 1 < a.rows ∧ a.dstStride.natAbs < a.length then
    let pieces := rows.flatMap rowPieces
    { ops := (freeOrder s.free pieces).map (fun p => MemOp.move p.1 p.2.1 p.2.2), draws := pieces.length, reads := reads }
  else { ops := rows.map (fun p => MemOp.move p.1 p.2.1 p.2.2), reads := reads }

/-- The first poisoned block that any of a list of ranges touches, as a global address. -/
def State.firstPoisonOf (s : State) (l : List (Nat × Nat)) : Option Nat :=
  (l.filterMap (fun r => s.mem.firstPoison r.1 r.2)).head?.map s.addrOfKey

/-- A copy under a store transform: it computes with what it reads, so it consumes poison (R85, R344). -/
def State.transformCopy (s : State) (t : Task) (a : DmaArgs) : Result :=
  let x := s.xformOf a
  let keys := (List.range a.rowCount).map (fun r => s.key (if a.op = 1 then rowAddr a.src a.srcStride r else a.src))
  let m := keys.map (fun k => s.sourceRow x.srcF k a.length)
  let r := x.run (s.seed t.job) s.free s.key (s.key a.dst) (if a.op = 1 then a.dstStride else 0) m
  let tile := t.runTile
  { ops := r.ops, bumps := teleBumps x.dstF r.tele ++ (if x.compress then slotBumps tile r.slots else []),
    events := ((r.slots.filter (fun q => decide (q.cause = 2))).map (fun _ => (Reg.TIL_SPR_EVENT_dense_policy tile, tile, 0))),
    blocks := r.blocks, draws := 1, poisonAt := s.firstPoisonOf (keys.map (fun k => (k, a.length))),
    reads := keys.map (fun k => (k, a.length)) }

/-- What a copy does (R92). -/
def State.copyRun (s : State) (t : Task) : Result :=
  let a := parseDma t.args
  if a.empty then {} else if a.xform = 0 then s.plainCopy a else s.transformCopy t a

/-- The memory that a running copy reads. -/
def State.copyReads (s : State) (t : Task) : List (Nat × Nat) :=
  let a := parseDma t.args
  if a.empty then [] else (s.copyRows a).map (fun p => (p.1, p.2.2))

/-- A copy as an engine step: its demand reads meet the outer code first (R82, R84). -/
def State.copyStep (s : State) (id : TaskId) (op : Nat) (errors : List CodewordError) : State :=
  match s.runningTask? id engDMA op with
  | some t =>
    let s1 := s.demandReads (s.copyReads t) errors
    s1.applyResult t (s1.copyRun t)
  | none => s

/-- COPY (R92). -/
def execCopy (reads : TaskReads) (s : State) : Host.Outcome State Fault Refusal :=
  perform (.copy reads) (s.copyStep reads.task 0 reads.errors)

/-- COPY2D (R92): row r goes from src + r × src_stride to dst + r × dst_stride. -/
def execCopy2d (reads : TaskReads) (s : State) : Host.Outcome State Fault Refusal :=
  perform (.copy2d reads) (s.copyStep reads.task 1 reads.errors)

/-- FILL: byte k of the destination becomes pattern byte k mod 8 (R92). -/
def State.fillRun (s : State) (t : Task) : Result :=
  let a := parseDma t.args
  if a.empty then {}
  else
    let pat := leBytes 8 a.src
    { ops := [.write (s.key a.dst) ((List.range a.length).map (fun k => pat.getD (k % 8) 0))] }

/-- FILL (R92). -/
def execFill (id : TaskId) (s : State) : Host.Outcome State Fault Refusal :=
  perform (.fill id) (s.engineStep id engDMA 4 s.fillRun)

/-! ### Prefetch streams (R96 to R98) -/

/-- n bytes of an answer from byte o on, each with its poison (R288). -/
def RemoteReply.marked (r : RemoteReply) (o n : Nat) : Marked :=
  (sliceBytes r.data o n).zipIdx.map (fun p => (p.1, bit r.poisonMap ((o + p.2) / 64)))

/-- What one answer gives for n bytes at a global address: the bytes and their poison, or the failing status (R284). -/
def remotePiece (replies : List RemoteReply) (a n : Nat) : Option (Nat × Marked) :=
  (replies.find? (fun r => decide (r.addr ≤ a) && (decide (r.status ≠ stOK) || decide (a + n ≤ r.addr + r.data.length)) &&
      decide (a < r.addr + Nat.max 1 r.data.length))).map (fun r =>
    if r.status = stOK then (stOK, RemoteReply.marked r (a - r.addr) n) else (r.status, []))

/-- The answers for a range: in one piece, or in pieces cut at 4 KiB boundaries, the first failing status first; none where
an answer is still missing. -/
def remoteFuel (replies : List RemoteReply) : Nat → Nat → Nat → Option (Nat × Marked)
  | 0, _, _ => none
  | fuel + 1, a, n =>
    match remotePiece replies a n with
    | some x => some x
    | none =>
      let m := 4096 - a % 4096
      if n ≤ m then none
      else match remotePiece replies a m, remoteFuel replies fuel (a + m) (n - m) with
        | some x, some y => some (if x.1 = stOK then y.1 else x.1, x.2 ++ y.2)
        | _, _ => none

/-- The answers for n bytes at a global address, if they have arrived. -/
def remoteAnswer (replies : List RemoteReply) (a n : Nat) : Option (Nat × Marked) :=
  remoteFuel replies (n / 4096 + 2) a n

/-- The answers for n bytes; a range that nothing answered is unreachable. -/
def remoteBytes (replies : List RemoteReply) (a n : Nat) : Nat × Marked :=
  (remoteAnswer replies a n).getD (stTRUNC, [])

/-- The index of block i of an indexed stream, and whether it was read poisoned. -/
def State.streamIndex (s : State) (x : Stream) (i : Nat) : Nat × Bool :=
  let a := addrPlus x.idx (4 * i)
  (s.readLe a 4, s.poisonedAt a 4)

/-- The address of block i (R94). -/
def State.blockAddr (s : State) (x : Stream) (i : Nat) : Nat :=
  addrPlusInt x.src ((if x.indexed then ((s.streamIndex x i).1 : Int) else (i : Int)) * x.stride)

/-- Whether block i of an indexed stream falls outside [src, effective bound) and is not fetched (R96). -/
def State.blockOutside (s : State) (x : Stream) (i : Nat) : Bool :=
  x.indexed &&
    (let off : Int := (addrOff x.src : Int) + ((s.streamIndex x i).1 : Int) * x.stride
     decide (off < (addrOff x.src : Int)) || decide ((x.bound : Int) < off + (x.blockBytes : Int)))

/-- Block i as it is issued: the index is read now (R96, R344). -/
def State.flyingBlock (s : State) (x : Stream) (i : Nat) : Flying :=
  { block := i, addr := if s.blockOutside x i then none else some (s.blockAddr x i),
    marked := x.indexed && (s.streamIndex x i).2 }

/-- A get of a stream leaves through the I/O die of its die's half, or waits for a free slot there (R96, R291). -/
def State.sendStreamGet (s : State) (x : Stream) (block : Nat) (p : Nat × Nat) : State :=
  let io := ioOfDie x.die
  let id := streamGet (x.die, x.slot) block
  let k : Packet :=
    { Packet.blank with dst := addrNode p.1, jobId := x.job, op := pktGET, tc := 1, addr := p.1, length := p.2 }
  if s.outstanding io < 16384 then s.issue io id k 0 []
  else { s with fabric := { s.fabric with waiting := s.fabric.waiting ++ [(id, io, k)] } }

/-- The requests of an issued block: into the memory queues of the dies that own it, or gets to the module that owns it,
cut at 4 KiB (R86, R89, R96); none for a block outside the bound. -/
def State.issueBlock (s : State) (x : Stream) (f : Flying) : State :=
  match f.addr with
  | none => s
  | some a =>
    let s1 := s.bump Reg.MEM_PF_ISSUED 1
    if s.isLocal x.src then s1.enterRequests (blockRequests (x.die, x.slot) f.block (s.key a) x.blockBytes)
    else (cutRange (x.blockBytes / 4096 + 2) a x.blockBytes).foldl (fun t p => t.sendStreamGet x f.block p) s1

/-- The unit issues requests for blocks up to one past the last of its lookahead, and at least to upTo (R97). -/
def State.issueStream (s : State) (x : Stream) (upTo : Nat) : State × Stream :=
  let target := Nat.min x.blockCount (Nat.max upTo (x.consumed + x.depth))
  let fresh := (List.range (target - x.issued)).map (fun i => s.flyingBlock x (i + x.issued))
  (fresh.foldl (fun t f => t.issueBlock x f) s, { x with issued := Nat.max x.issued target, flying := x.flying ++ fresh })

/-- Replace an open stream. -/
def State.setStream (s : State) (x : Stream) : State :=
  { s with streams := s.streams.map (fun y => if y.die = x.die ∧ y.slot = x.slot then x else y) }

/-- Open the stream that a checked descriptor sets up; an empty stream (R74) leaves the slot closed. -/
def State.openStream (s : State) (t : Task) (slot : Nat) (d : StreamDesc) : State :=
  if d.empty then s
  else
    let x : Stream :=
      { die := t.runTile / 8, slot := slot, job := t.job, src := d.src, dst := d.dst, blockBytes := d.blockBytes,
        blockCount := d.blockCount, stride := d.stride, bound := s.streamBound t.job d, slots := d.slots,
        depthMin := d.depthMin, depthMax := d.depthMax, indexed := decide (d.mode = 1), adapt := d.adapt, idx := d.idx,
        spec := t.speculative, depth := if d.adapt then d.depthMin else d.depthMax, consumed := 0, issued := 0, late := 0,
        lateInWindow := 0, asked := false, flying := [], arrivals := [], openedAt := s.writes.length }
    let (s1, x1) := s.issueStream x 0
    { s1 with streams := s1.streams ++ [x1] }

/-- STREAM_OPEN: the descriptor is read and checked as the stream opens, since another STREAM_OPEN may have taken the slot since
dispatch (R95); the stream is open, its first lookahead requested, and the task finishes (R92, R97). -/
def State.streamOpen (s : State) (id : TaskId) : State :=
  match s.runningTask? id engDMA 2 with
  | some t =>
    let a := parseDma t.args
    let d := parseStream (s.readAddr a.src 64)
    let st := s.streamCheck t.job (t.runTile / 8) a.stream d
    if st = stOK then (s.openStream t a.stream d).applyResult t {} else s.applyResult t { status := st }
  | none => s

/-- STREAM_OPEN (R95). -/
def execStreamOpen (id : TaskId) (s : State) : Host.Outcome State Fault Refusal :=
  perform (.streamOpen id) (s.streamOpen id)

/-- STREAM_CLOSE: the slot on the task's die closes; one that is not open is left (R92, R98). -/
def State.streamClose (s : State) (id : TaskId) : State :=
  match s.runningTask? id engDMA 3 with
  | some t =>
    let a := parseDma t.args
    (s.closeStreams (fun x => decide (x.die = t.runTile / 8) && decide (x.slot = a.stream))).applyResult t {}
  | none => s

/-- STREAM_CLOSE (R98). -/
def execStreamClose (id : TaskId) (s : State) : Host.Outcome State Fault Refusal :=
  perform (.streamClose id) (s.streamClose id)

/-- The key of the staging slot of block i. -/
def State.stagingKey (s : State) (x : Stream) (i : Nat) : Nat := s.key x.dst + i % x.slots * x.blockBytes

/-- The memory keys of a stream's source on this module. -/
def State.sourceKeys (s : State) (x : Stream) : Nat × Nat :=
  if x.indexed then (s.key x.src, x.bound - addrOff x.src)
  else
    let last : Int := ((x.blockCount : Int) - 1) * x.stride
    (s.key (addrPlusInt x.src (min 0 last)), last.natAbs + x.blockBytes)

/-- The source of a stream on this module has been written since it opened, so its blocks not yet consumed are undefined
(R98). -/
def State.spoiled (s : State) (x : Stream) : Bool := s.isLocal x.src && s.writtenSince x.openedAt [s.sourceKeys x]

/-- The gets of a block that have ended; answers that a command carries stand beside those that have arrived. -/
def State.blockReplies (s : State) (x : Stream) (i : Nat) (remote : List RemoteReply) : List RemoteReply :=
  s.repliesFor (streamGet (x.die, x.slot) i) ++ remote

/-- What arrives for an issued block: its memory effects and what became of it; none while its requests or gets are in flight
(R89, R96, R344). A get that fails fills the slot with zeros. -/
def State.blockEffect (s : State) (x : Stream) (f : Flying) (remote : List RemoteReply) : Option (List MemOp × BlockState) :=
  let k := s.stagingKey x f.block
  let zeros := MemOp.write k (List.replicate x.blockBytes 0)
  let marks := if f.marked then [MemOp.poison k x.blockBytes] else []
  match f.addr with
  | none => some (zeros :: marks, .zeroFilled)
  | some a =>
    if s.isLocal x.src then
      if !s.blockGranted (x.die, x.slot) f.block then none
      else if s.spoiled x then some ([.undefinedBytes k x.blockBytes s.free], .arrived)
      else some ([.move (s.key a) k x.blockBytes] ++ marks, .arrived)
    else
      match remoteAnswer (s.blockReplies x f.block remote) a x.blockBytes with
      | none => none
      | some (st, d) => if st = stOK then some (markedWrite k d ++ marks, .arrived) else some ([zeros], .failed st)

/-- A block lands in its staging slot: its requests leave the memory queue, its answers are taken; one outside the bound is
counted, and so is an ACCESS that a speculative stream suppresses (R96, R99). -/
def State.landBlock (s : State) (x : Stream) (f : Flying) (ops : List MemOp) (st : BlockState) : State :=
  let name := (x.die, x.slot)
  let s1 := (({ s with free := s.free + 1 } : State).memOps ops).setStream
    { x with flying := x.flying.filter (fun g => !decide (g.block = f.block)), arrivals := x.arrivals ++ [(f.block, st)] }
  let s2 := (s1.releaseRequests (fun q => decide (q.stream = name) && decide (q.block = f.block))).dropRequests
    (streamGet name f.block)
  match st with
  | .arrived => s2
  | .zeroFilled => s2.bump Reg.MEM_CNT_INDEX_RANGE 1
  | .failed e => if e = stACCESS ∧ x.spec then s2.bump Reg.MEM_CNT_SPEC_FAULT_SUPPRESSED 1 else s2

/-- STREAM_BLOCK_ARRIVAL: an issued block whose requests are granted, or whose gets are answered, lands in its staging slot
(R96). -/
def State.streamArrival (s : State) (die slot block : Nat) (remote : List RemoteReply) : State :=
  match s.stream? die slot with
  | some x =>
    match x.flying.find? (fun f => decide (f.block = block)) with
    | some f =>
      match s.blockEffect x f remote with
      | some (ops, st) => s.landBlock x f ops st
      | none => s
    | none => s
  | none => s

/-- STREAM_BLOCK_ARRIVAL (R96). -/
def execStreamBlockArrival (die slot block : Nat) (remote : List RemoteReply) (s : State) :
    Host.Outcome State Fault Refusal :=
  perform (.streamBlockArrival die slot block remote) (s.streamArrival die slot block remote)

/-- The revised depth after every 64 consumed blocks (R97). -/
def Stream.revise (x : Stream) (tagsBusy : Bool) : Stream :=
  if x.adapt ∧ x.consumed % 64 = 0 then
    let d := if 2 ≤ x.lateInWindow ∧ x.depth < x.depthMax then
        Nat.min x.depthMax (x.depth + Nat.max 1 (x.depth / 4))
      else if x.lateInWindow = 0 ∧ tagsBusy ∧ x.depthMin < x.depth then
        Nat.max x.depthMin (x.depth - Nat.max 1 (x.depth / 8))
      else x.depth
    { x with depth := d, lateInWindow := 0 }
  else x

/-- The consumer has taken the next block: the window moves on, and the stream closes after its last (R97, R98). -/
def State.consumeBlock (s : State) (x : Stream) (tagsBusy : Bool) : State :=
  let late := x.asked
  let x1 := { x with consumed := x.consumed + 1, asked := false, late := x.late + flag late,
                     lateInWindow := x.lateInWindow + flag late,
                     arrivals := x.arrivals.filter (fun a => !decide (a.1 = x.consumed)) }
  let s1 := if late then s else s.bump Reg.MEM_PF_USED 1
  if x1.consumed = x1.blockCount then s1.closeStreams (fun y => decide (y.die = x.die) && decide (y.slot = x.slot))
  else
    let x2 := x1.revise tagsBusy
    let (s2, x3) := s1.issueStream x2 0
    s2.setStream x3

/-- The consumer asks for the next block before it has arrived: it waits, the block is late, and is issued at once where it was
not (R97). -/
def State.askBlock (s : State) (x : Stream) : State :=
  if x.asked then s
  else
    let (s1, x1) := (s.bump Reg.MEM_PF_LATE 1).issueStream { x with asked := true } (x.consumed + 1)
    s1.setStream x1

/-- STREAM_BLOCK_CONSUME: the consumer takes the next block once it has arrived (R97). -/
def State.streamConsume (s : State) (die slot : Nat) (tagsBusy : Bool) : State :=
  match s.stream? die slot with
  | some x => if x.arrivals.any (fun a => decide (a.1 = x.consumed)) then s.consumeBlock x tagsBusy else s.askBlock x
  | none => s

/-- STREAM_BLOCK_CONSUME (R97). -/
def execStreamBlockConsume (die slot : Nat) (tagsBusy : Bool) (s : State) : Host.Outcome State Fault Refusal :=
  perform (.streamBlockConsume die slot tagsBusy) (s.streamConsume die slot tagsBusy)

/-! ### Bank caps (R90) -/

/-- BANK_CAP_EVAL: the cap exponent of a die rises, falls after ten quiet windows, or equals limit with adapt at 0. A changed
cap leaves what is granted alone (R90). -/
def State.bankCapEval (s : State) (die : Nat) (waited ranOut : Bool) : State :=
  let f := Reg.MEM_DIE_cap_exp die
  let e := s.reg f
  let limit := s.reg Reg.MEM_BANK_CAP_limit
  if s.reg Reg.MEM_BANK_CAP_adapt = 0 then s.setReg f limit
  else
    let quiet := if ranOut || waited then 0 else s.bankQuiet.getD die 0 + 1
    if waited then
      let s1 := { s with bankQuiet := s.bankQuiet.set die 0 }
      if e < limit then (s1.setReg f (e + 1)).post Reg.MEM_EVENT_hot_bank die else s1
    else if quiet = 10 then
      { s with bankQuiet := s.bankQuiet.set die 0 }.setReg f (Nat.max 3 (e - 1))
    else { s with bankQuiet := s.bankQuiet.set die quiet }

/-- BANK_CAP_EVAL (R90). -/
def execBankCapEval (die : Nat) (waitedWhileFull poolRanOut : Bool) (s : State) : Host.Outcome State Fault Refusal :=
  perform (.bankCapEval die waitedWhileFull poolRanOut) (s.bankCapEval die waitedWhileFull poolRanOut).regrant

/-! ### Patrol scrub (R101) -/

/-- Codewords of one stack: 48 GiB (R101). -/
def stackWords : Nat := hbmEnd / 16 / 64

/-- The place of a codeword in the order in which its stack is read: ascending address within the die (log entry 29). -/
def scrubRank (offset : Nat) : Nat := hbmAddr offset / 512 * 4 + (hbmMap offset).column

/-- A stack's controller has read one more codeword; once every stack has read all of its own, the pass ends: passes rises and
scrub_pass is posted (R101). -/
def State.scrubbedOne (s : State) (stack : Nat) : State :=
  let s1 : State := { s with scrubbed := addAt s.scrubbed stack }
  if s1.scrubbed.all (fun n => decide (stackWords ≤ n)) then
    (({ s1 with scrubbed := List.replicate 16 0 } : State).bump Reg.MEM_SCRUB_STATUS_passes 1).post Reg.MEM_EVENT_scrub_pass
  else s1
where
  /-- Add one at a place. -/
  addAt (l : List Nat) (i : Nat) : List Nat := setAt l i (· + 1)

/-- SCRUB_CODEWORD: patrol scrub reads the next codeword of a stack. It pauses in the anchor watch and resumes there (R101). -/
def State.scrub (s : State) (offset : Nat) (lanes : List Nat) (uncorrectable : Bool) : State :=
  let stack := (hbmMap offset).stack
  if s.reg Reg.MEM_SCRUB_CFG_enable = 0 ∨ s.power.anchor ≠ .awake ∨ s.scrubbed.getD stack 0 ≠ scrubRank offset then s
  else (s.codeword offset lanes uncorrectable).scrubbedOne stack

/-- SCRUB_CODEWORD (R101). -/
def execScrubCodeword (offset : Nat) (lanes : List Nat) (uncorrectable : Bool) (s : State) :
    Host.Outcome State Fault Refusal :=
  perform (.scrubCodeword offset lanes uncorrectable) (s.scrub offset lanes uncorrectable)

end Sys2Proof.Machine
end

