-- ==== Sys2Proof/Machine/Scheduling.lean ====
section
/-!
DEFINITION. Task scheduling (03): doorbells, rings, registration, completion, records, signals, delay lists and the bell
tick, and the NOP class.
-/

namespace Sys2Proof.Machine

/-! ### Doorbells (R63, R64, R66, R391) -/

/-- A tail write: accepted when the ring is enabled and allocated, the Chart ACTIVE, BASE accepted, and the tail at most
one ring size ahead of head (R64). -/
def State.doorbell (s : State) (ring value : Nat) : State :=
  let r := s.ring ring
  let v := value % 2 ^ 32
  if s.accepted 0 ∧ r.enabled ∧ s.chtState = chtActive ∧ (s.ringJob? ring).isSome ∧
      (v + 2 ^ 32 - r.head) % 2 ^ 32 ≤ 2 ^ r.log2Size then
    s.setRing { r with tail := v }
  else s.bump Reg.SCH_CNT_DOORBELL_IGNORED 1

/-- A narrowed link, or one that asked to narrow, asks for its full width (R297, R382). -/
def State.widenLink (s : State) (p : Nat) : State :=
  let x := s.port p
  let s1 := s.setPort p { x with narrowAsked := false }
  if s.reg (Reg.FAB_P_STATE_narrow p) = 1 then s1.askFull p 1 else s1

/-- Entry to the anchor watch is abandoned: its steps are reversed, anchor clears and anchor_refused is posted (R382). -/
def State.abandonEntry (s : State) : State :=
  let s1 := (List.range 8).foldl State.widenLink { s with power := { s.power with anchor := .awake } }
  (s1.setRegs [(Reg.PLT_CTRL_anchor, 0), (Reg.PLT_CTRL_wake, 0)]).post Reg.PLT_EVENT_anchor_refused

/-- A wake trigger (R382, R384): before the commit it abandons entry, in the watch it starts the wake. -/
def State.wakeTrigger (s : State) : State :=
  match s.power.anchor with
  | .awake => s
  | .entering => s.abandonEntry
  | .watching => { s with power := { s.power with anchor := .waking } }
  | .waking => s

/-- A doorbell write of a size at a page offset: only 4 or 8 bytes at 0x000 act as a tail write (R391, R63). Each is a wake
trigger; in the watch and its wake it is kept until the module is back (R382, R384). -/
def State.doorbellWrite (s : State) (ring off size value : Nat) : State :=
  if off = 0 ∧ (size = 4 ∨ size = 8) then
    let s1 := s.wakeTrigger
    if s1.power.anchor = .awake then s1.doorbell ring value
    else { s1 with power := { s1.power with keptDoorbells := s1.power.keptDoorbells ++ [(ring, value)] } }
  else s.bump Reg.SCH_CNT_DOORBELL_IGNORED 1

/-- DOORBELL_TAIL (R64, R391). -/
def execDoorbellTail (ring off size value : Nat) (s : State) : Host.Outcome State Fault Refusal :=
  perform (.doorbellTail ring off size value) (s.hostWrite (s.doorbellWrite ring off size value))

/-- A cq_head write: accepted once BASE is accepted when it moves forward to at most cq_tail (R66). -/
def State.cqHeadWrite (s : State) (ring size value : Nat) : State :=
  let r := s.ring ring
  let v := value % 2 ^ 32
  if (size = 4 ∨ size = 8) ∧ s.accepted 0 ∧
      (v + 2 ^ 32 - r.cqHead) % 2 ^ 32 ≤ (r.cqTail + 2 ^ 32 - r.cqHead) % 2 ^ 32 then
    s.setRing { r with cqHead := v }
  else s.bump Reg.SCH_CNT_DOORBELL_IGNORED 1

/-- CQ_HEAD (R66, R391). -/
def execCqHead (ring size value : Nat) (s : State) : Host.Outcome State Fault Refusal :=
  perform (.cqHead ring size value) (s.hostWrite (s.cqHeadWrite ring size value))

/-! ### Ring entries (R61, R62, R65) -/

/-- The entry at a ring's head, with the ring's job, when the ring may take it (R62, R65, R78, R346); while the Chart is
DRAINING only a SIGNAL that the ring has taken and that waits goes on (R47). -/
def State.ringEntry? (s : State) (ring : Nat) : Option (Nat × RingEntry) :=
  let r := s.ring ring
  match s.ringJob? ring with
  | none => none
  | some job =>
    if (r.enabled ∨ r.stalled.isSome) ∧ (s.chtState = chtActive ∨ (s.chtState = chtDraining ∧ r.stalled.isSome)) ∧ s.jobRuns job ∧
        (r.head ≠ r.tail ∨ r.stalled.isSome) ∧ r.fenced = false ∧ r.heldByRecord = false ∧ r.progress = none then
      some (job, r.stalled.getD (parseEntry (s.mem.readN (r.entryKey r.head) 64)))
    else none

/-- The ring's entry at head is poisoned in memory (R343); one that the ring has read already is not read again. -/
def State.ringEntryPoisoned (s : State) (ring : Nat) : Bool :=
  (s.ring ring).stalled.isNone && s.mem.poisoned ((s.ring ring).entryKey (s.ring ring).head) 64

/-- The ring moves to its next entry; the end of an entry that was taken before the ring was last enabled leaves head, which
counts from that enable on (R78, log entry 20). -/
def Ring.advance (r : Ring) : Ring :=
  { r with head := if r.carried then r.head else (r.head + 1) % 2 ^ 32, carried := false, progress := none, stalled := none,
           tableFull := false }

/-- The ring moves past its current descriptor; past the last one, to its next entry (R62). -/
def Ring.advanceDescriptor (r : Ring) : Ring :=
  match r.progress with
  | some (i, a, n) => if i + 1 < n then { r with progress := some (i + 1, a, n), tableFull := false } else r.advance
  | none => r.advance

/-- An entry is rejected: its record has tags 0, and the ring goes on once it is written (R62, R65). -/
def State.rejectEntry (s : State) (ring status : Nat) : State :=
  let s1 := s.reject ring 0 0 status false
  if (s1.ring ring).heldByRecord then s1 else s1.setRing (s1.ring ring).advance

/-- Take the entry at a ring's head when its kind is one of those given; a poisoned entry fails with PARITY. -/
def State.takeEntry (s : State) (ring : Nat) (kinds : Nat → Bool) (act : Nat → RingEntry → State) : State :=
  match s.ringEntry? ring with
  | some (job, e) =>
    if s.ringEntryPoisoned ring then s.rejectEntry ring stPARITY
    else if kinds e.kind then act job e else s
  | none => s

/-- RING_NOP: an entry of kind NOP does nothing; one of a reserved kind is rejected with FORMAT (R62). -/
def State.ringNop (s : State) (ring : Nat) : State :=
  s.takeEntry ring (fun k => k == 0 || decide (5 ≤ k)) (fun _ e =>
    if e.kind = 0 then s.setRing (s.ring ring).advance else s.rejectEntry ring stFORMAT)

/-- RING_NOP (R62). -/
def execRingNop (ring : Nat) (s : State) : Host.Outcome State Fault Refusal := perform (.ringNop ring) (s.ringNop ring)

/-- A TASKS entry's checks (R62, R438). -/
def State.tasksCheck (s : State) (job : Nat) (e : RingEntry) : Nat :=
  firstFailure [failIf (!addrForm e.addr 64 [0]) stFORMAT,
    s.rangeAccess job { addr := e.addr, len := e.count * 64, read := true },
    s.rangeBound job { addr := e.addr, len := e.count * 64, read := true }]

/-- TASKS: the ring starts to register an array of descriptors; count 0 completes at once (R62). -/
def State.ringTasks (s : State) (ring : Nat) : State :=
  s.takeEntry ring (· == 1) (fun job e =>
    if e.count = 0 then s.setRing (s.ring ring).advance
    else if s.tasksCheck job e = stOK then s.setRing { s.ring ring with progress := some (0, e.addr, e.count) }
    else s.rejectEntry ring (s.tasksCheck job e))

/-- TASKS (R62). -/
def execTasks (ring : Nat) (s : State) : Host.Outcome State Fault Refusal := perform (.tasks ring) (s.ringTasks ring)

/-- SIGNAL: a decrement by count, or a pending entry; a full pending-signal table stalls the ring (R55, R57, R62, R65). -/
def State.ringSignal (s : State) (ring : Nat) : State :=
  s.takeEntry ring (· == 2) (fun job e =>
    if 65535 < e.count then s.rejectEntry ring stFORMAT
    else match s.signal? job e.tag e.count (e.target == 1) with
      | some s1 => s1.setRing (s1.ring ring).advance
      | none => s.setRing { s.ring ring with stalled := some e })

/-- SIGNAL (R62). -/
def execSignal (ring : Nat) (s : State) : Host.Outcome State Fault Refusal := perform (.signal ring) (s.ringSignal ring)

/-- A speculative task's outcome is still open, so that a DISCARD acts on it (R70, R71). A commit counter that has reached
zero decides nothing before the task has finished (DESIGN CHOICE, log entry 21). -/
def Task.undecided (t : Task) : Bool :=
  t.desc.spec && !t.rerun && !t.committed && !decide (t.phase = .recordDue) &&
    !(decide (t.phase = .finished) && decide (t.commit = 0))

/-- Whether a task has been dispatched and may have written. -/
def Task.mayHaveWritten (t : Task) : Bool :=
  decide (t.phase = .running) || decide (t.phase = .finished) || decide (t.phase = .undecided)

/-- Discard a speculative task: it stops, its outputs are undefined, what it has sent is forgotten, and it completes with
SPEC_DISCARD (R70, R71, R73, R293). -/
def State.discardTask (s : State) (t : Task) : State :=
  let s1 := s.bump Reg.SCH_CNT_SPEC_DISCARD 1
  ((if t.mayHaveWritten ∧ t.phase ≠ .running then s1.undefine t.outs else s1).cutOff t).complete t stSPEC_DISCARD

/-- DISCARD: the speculative task with the tag, or a counted excess (R70, R71). -/
def State.ringDiscard (s : State) (ring : Nat) : State :=
  s.takeEntry ring (· == 3) (fun job e =>
    let s1 := s.setRing (s.ring ring).advance
    match s1.tagged? job e.tag with
    | some t => if t.undecided then s1.discardTask t else s1.bump Reg.SCH_CNT_SIGNAL_EXCESS 1
    | none => s1.bump Reg.SCH_CNT_SIGNAL_EXCESS 1)

/-- DISCARD (R70). -/
def execDiscard (ring : Nat) (s : State) : Host.Outcome State Fault Refusal := perform (.discard ring) (s.ringDiscard ring)

/-- Some task registered from a ring has not completed. -/
def State.ringHasLive (s : State) (ring : Nat) : Bool := s.tasks.any (fun t => t.live && decide (t.ring = ring))

/-- FENCE: the ring takes nothing further until every task registered from it has completed (R62). head counts the FENCE as
taken while it is open (DESIGN CHOICE, log entry 20). -/
def State.ringFence (s : State) (ring : Nat) : State :=
  s.takeEntry ring (· == 4) (fun _ _ => s.setRing { (s.ring ring).advance with fenced := s.ringHasLive ring })

/-- FENCE (R62). -/
def execFence (ring : Nat) (s : State) : Host.Outcome State Fault Refusal := perform (.fence ring) (s.ringFence ring)

/-- FENCE_CLEARED: the fence of a ring opens (R62). -/
def State.fenceCleared (s : State) (ring : Nat) : State :=
  if (s.ring ring).fenced ∧ s.ringHasLive ring = false then s.setRing { s.ring ring with fenced := false } else s

/-- FENCE_CLEARED (R62). -/
def execFenceCleared (ring : Nat) (s : State) : Host.Outcome State Fault Refusal :=
  perform (.fenceCleared ring) (s.fenceCleared ring)

/-! ### Registration (R51 to R53) -/

/-- The number of places of an engine class. -/
def placeCount (engine : Nat) (placeTile : Bool) : Nat :=
  if isTileClass engine then 64 else if placeTile then 0 else if isDieClass engine then 8
  else if engine = engHOST_DMA then 1 else 2

/-- The FORMAT checks of R52, and of R392 for HOST_DMA. An empty argument block's address is not checked (R74, R438). -/
def State.descFormat (s : State) (job : Nat) (d : TaskDesc) : Bool :=
  decide (12 ≤ d.engine) || decide (d.waitMode = 3) || (decide (d.commitCount ≠ 0) && !d.spec) ||
    (d.spec && isIoClass d.engine) || decide (placeCount d.engine d.placeTile ≤ d.place) ||
    (decide (d.engine = engNOP) && decide (d.argsBytes ≠ 0)) ||
    (decide (d.argsBytes ≠ 0) && !addrForm d.args 64 [0, 1]) || (s.tagged? job d.signalTag).isSome ||
    (decide (d.engine = engHOST_DMA) && !s.accepted 3)

/-- The placement ACCESS checks of R52. -/
def State.descPlace (s : State) (job : Nat) (d : TaskDesc) : Bool :=
  if isTileClass d.engine then
    if d.placeTile then
      s.excluded d.place || !((s.groupOf? d.place).map (fun g => s.jobMayUse job g.id)).getD false
    else
      !s.jobMayUse job d.place || !((s.group? d.place).map (fun g => (maskTiles g.mask).any (fun t => !s.excluded t))).getD false
  else false

/-- R52's checks of a descriptor: FORMAT, ACCESS, BOUND. -/
def State.descCheck (s : State) (job : Nat) (d : TaskDesc) : Nat :=
  firstFailure [failIf (s.descFormat job d) stFORMAT, failIf (s.descPlace job d) stACCESS,
    s.rangeAccess job { addr := d.args, len := d.argsBytes, read := true },
    s.rangeBound job { addr := d.args, len := d.argsBytes, read := true }]

/-- The die whose scheduler holds a task (R51). -/
def State.homeDie (s : State) (d : TaskDesc) : Nat :=
  if isTileClass d.engine then
    if d.placeTile then d.place / 8 else (maskTiles (((s.group? d.place).map (·.mask)).getD 0)).headD 0 / 8
  else if isDieClass d.engine then d.place
  else if d.place = 0 then 0 else 7

/-- Entries of a die's task table (R53). -/
def tableSize : Nat := 131072

/-- The lowest free table index of a die. -/
def freeIndex (used : List Nat) : Nat := ((List.range (used.length + 1)).find? (fun i => !used.contains i)).getD 0

/-- Enter a checked descriptor into its die's table: pending signals are taken from its count, a deadline starts, and
with a counter of zero it becomes ready (R53, R55, R57, R67). The last entry of a table sets table_full, which no rule posts
on the device event ring (R77, R395; log entry 10). -/
def State.registerTask (s : State) (job ring : Nat) (d : TaskDesc) : State :=
  let die := s.homeDie d
  let index := freeIndex ((s.tasks.filter (fun t => decide (t.id.die = die))).map (·.id.index))
  let pend := if d.signalTag = 0 then none
    else s.signals.find? (fun p => decide (p.job = job) && decide (p.tag = d.signalTag))
  let got := (pend.map (·.count)).getD 0
  let t : Task :=
    { id := ⟨die, index⟩, job := job, ring := ring, desc := d, counter := d.depCount - got, commit := d.commitCount,
      phase := .waiting, tile := 255, substitute := none, moved := [], status := stOK, marked := false, rerun := false,
      committed := false, deadlineTick := if d.waitMode = 2 then some (s.waitEnd d) else none, owed := [],
      poisonAt := none, args := [], outs := [], ins := [], startedAt := 0, blocks := [], age := 0, dispatched := none, expires := none, passes := 0, drainA := 0,
      drainB := 0, attempts := 0, faulty := none, csum := none, settled := false, fetched := [], listGets := 0, statsRecord := [], stage := 0 }
  let s1 := { s with
    tasks := s.tasks ++ [t],
    signals := s.signals.filter (fun p => !(pend.isSome && decide (p.job = job) && decide (p.tag = d.signalTag))) }
  let s2 := (s1.bump Reg.SCH_CNT_SIGNAL_EXCESS (got - d.depCount)).raiseReg (Reg.SCH_TABLE_USE_peak die) (s1.tableUse die)
  let s3 := if s2.tableUse die = tableSize then s2.setReg Reg.SCH_EVENT_table_full 1 else s2
  if t.counter = 0 then s3.counterZero t else s3

/-- A descriptor that fails registration: a record whatever notify says; the ring goes on once it is written (R52, R65). -/
def State.rejectDescriptor (s : State) (ring userTag signalTag status : Nat) (interrupt : Bool) : State :=
  let s1 := s.reject ring userTag signalTag status interrupt
  if (s1.ring ring).heldByRecord then s1 else s1.setRing (s1.ring ring).advanceDescriptor

/-- TASK_REGISTER: the next descriptor of a ring's TASKS entry (R52, R65; a poisoned descriptor fails with PARITY, R343).
A full table stalls the ring. -/
def State.taskRegister (s : State) (ring : Nat) : State :=
  let r := s.ring ring
  match r.progress, s.ringJob? ring with
  | some (i, a, _), some job =>
    if r.heldByRecord ∨ s.jobRuns job = false ∨ ¬(s.chtState = chtActive ∨ s.chtState = chtDraining) then s
    else
      let at_ := addrPlus a (i * 64)
      let d := parseDesc (s.readAddr at_ 64)
      if s.poisonedAt at_ 64 then s.rejectDescriptor ring 0 0 stPARITY false
      else if s.descCheck job d ≠ stOK then s.rejectDescriptor ring d.userTag d.signalTag (s.descCheck job d) d.interrupt
      else if tableSize ≤ s.tableUse (s.homeDie d) then s.setRing { r with tableFull := true }
      else
        let s1 := s.registerTask job ring d
        s1.setRing (s1.ring ring).advanceDescriptor
  | _, _ => s

/-- TASK_REGISTER (R52). -/
def execTaskRegister (ring : Nat) (s : State) : Host.Outcome State Fault Refusal :=
  perform (.taskRegister ring) (s.taskRegister ring)

/-! ### Completion (R56, R70 to R72, R345, R348, R353) -/

/-- The tiles besides its own on which a task's checksum runs may go, lowest first: the substitute, then the next (R349, R353). -/
def State.shadowTiles (s : State) (t : Task) : List Nat :=
  (s.substitutes t.job t.tile).filter (fun x => decide (x ≠ t.runTile))

/-- Tasks that are not shadowed although their phase asks for it (R352). -/
def State.shadowSkipped (s : State) (t : Task) : Bool :=
  t.speculative || (s.wideGroupOf? t).isSome || t.inPlace || (s.shadowTiles t).isEmpty

/-- The checksums of a shadowed task's runs: its own, the shadow's, the third's and that of the suspect tile's further run. A run
without a fault forms the checksum of the words that the task's run wrote; a faulty one the value that the command gives. -/
structure ShadowRuns where
  own : Nat
  shadow : Nat
  third : Nat
  again : Nat
deriving DecidableEq, Repr

/-- The runs of a task whose checksum is c. -/
def shadowRuns (c : Nat) (l : List (Option Nat)) : ShadowRuns :=
  let v := fun i => ((l[i]?).join).getD c
  ⟨v 0, v 1, v 2, v 3⟩

/-- A comparison of shadow execution finds a difference: it is counted, posted and recorded (R353, R356). -/
def State.shadowDiffers (s : State) (t : Task) (tile unit status : Nat) (x : ShadowRuns) : State :=
  ((s.bump Reg.ERR_CNT_SHADOW_MISMATCH 1).post Reg.ERR_EVENT_shadow_mismatch tile).logError
    { source := 7, status := status, severity := if status = stSHADOW_MISMATCH then 2 else 0, die := t.errorDie, tile := tile,
      unit := unit, job := t.job, signalTag := t.desc.signalTag, userTag := t.desc.userTag, detail0 := x.own,
      detail1 := x.shadow }

/-- A tile that two runs of three contradict: it is suspect and runs the task once more, checksum only; a further difference
retires it, agreement is counted as transient (R353). -/
def State.suspectAgain (s : State) (t : Task) (tile major : Nat) (x : ShadowRuns) : State :=
  let s1 := s.suspectTile tile
  if x.again = major then s1.bump Reg.ERR_CNT_REPLAY_TRANSIENT 1
  else (s1.shadowDiffers t tile 0xFF t.status x).retireTile tile

/-- What R353 makes of a shadowed task's runs: the state, and the status with which the task completes; none: it is replayed,
writing, on the third tile. Where an own run without agreement between its words and its checksum stands, its outputs are
undefined. Without a third tile there is no majority (log entry 19). -/
def State.shadowOutcome (s0 : State) (t : Task) (x : ShadowRuns) : State × Option Nat :=
  let s := if x.own = t.csum.getD x.own then s0 else s0.undefine t.outs
  let tiles := s0.shadowTiles t
  let shadowTile := tiles.headD 0xFF
  if x.own = x.shadow then (s, some t.status)
  else match tiles[1]? with
    | none => (s.shadowDiffers t t.runTile shadowTile stSHADOW_MISMATCH x, some stSHADOW_MISMATCH)
    | some third =>
      if x.third = x.own then
        ((s.shadowDiffers t t.runTile shadowTile t.status x).suspectAgain t shadowTile x.own x, some t.status)
      else if x.third = x.shadow then
        let s1 := s0.shadowDiffers t t.runTile shadowTile t.status x
        ((s1.setTask { s1.restarted t with substitute := some third, settled := true }).suspectAgain t t.runTile x.shadow x, none)
      else
        ((s.shadowDiffers t t.runTile shadowTile stSHADOW_MISMATCH x).shadowDiffers t t.runTile third stSHADOW_MISMATCH x,
          some stSHADOW_MISMATCH)

/-- Shadow execution at a task's completion (R352, R353): the state and the task's status; none: the task runs again. A task
that never ran to its end has no checksum to compare. -/
def State.shadowCheck (s : State) (t : Task) (runs : List (Option Nat)) : State × Option Nat :=
  if !s.shadowPhase t then (s, some t.status)
  else if t.settled then (s.bump Reg.ERR_CNT_SHADOW 1, some t.status)
  else if s.shadowSkipped t then (s.bump Reg.ERR_CNT_SHADOW_SKIPPED 1, some t.status)
  else match t.csum with
    | none => (s, some t.status)
    | some c =>
      let r := s.shadowOutcome t (shadowRuns c runs)
      (if r.2.isSome then r.1.bump Reg.ERR_CNT_SHADOW 1 else r.1, r.2)

/-- The end of a replay: one attempt, the fault was transient; two, the first tile is retired (R348). -/
def State.replayEnd (s : State) (t : Task) : State :=
  if t.status = stPARITY ∨ t.settled then s
  else if t.attempts = 1 then s.bump Reg.ERR_CNT_REPLAY_TRANSIENT 1
  else if t.attempts = 2 then s.retireTile (t.faulty.getD t.tile)
  else s

/-- A finished task that is not held by speculation completes (R56). A task of a job under termination completes with
JOB_KILLED (R346, R347). -/
def State.finishTask (s : State) (t : Task) (runs : List (Option Nat)) : State :=
  if s.jobRuns t.job = false then s.complete t stJOB_KILLED
  else
    let s1 := (s.undefineOverwritten t).replayEnd t
    match s1.shadowCheck t runs with
    | (s2, none) => s2
    | (s2, some status) =>
      let s3 := (if status = stOK then s2.refreshEnds t else s2).complete t status
      if status = stPOISON then s3.poisonConsumed t else s3

/-- A committed task with a suppressed access runs again as an ordinary task on the same place (R72); where the tile it ran on
has retired since, it is placed as R351 says. -/
def State.runAgain (s : State) (t : Task) : State :=
  let u := { t with committed := true, rerun := true, marked := false, status := stOK, poisonAt := none }
  if isTileClass t.desc.engine && s.retired t.runTile then s.makeReady u else s.setTask { u with phase := .ready s.now }

/-- TASK_COMPLETE: a finished task completes; a speculative one is held until its outcome is decided, and one with a
suppressed access runs again as an ordinary task (R70 to R72). -/
def State.taskComplete (s : State) (id : TaskId) (runs : List (Option Nat)) : State :=
  match s.task? id with
  | none => s
  | some t =>
    if t.phase ≠ .finished then s
    else if t.speculative && s.jobRuns t.job then
      if t.commit ≠ 0 ∧ t.committed = false then s.setTask { t with phase := .undecided }
      else
        let s1 := if t.committed then s else s.bump Reg.SCH_CNT_SPEC_COMMIT 1
        if t.marked then (s1.bump Reg.SCH_CNT_SPEC_RERUN 1).runAgain t
        else s1.finishTask { t with committed := true } runs
    else s.finishTask t runs

/-- TASK_COMPLETE (R56). -/
def execTaskComplete (id : TaskId) (runs : List (Option Nat)) (s : State) : Host.Outcome State Fault Refusal :=
  perform (.taskComplete id runs) (s.taskComplete id runs)

/-- The ring of a terminated job is disabled once its last record is written (R346). -/
def Ring.closeIfDone (r : Ring) : Ring :=
  if r.closing && r.waiting.isEmpty then { r with enabled := false, closing := false } else r

/-- COMPLETION_RECORD_WRITE: the ring's oldest waiting record is written once a slot is free; its task goes on to its
signals, or the ring to its next entry or descriptor (R65, R66). -/
def State.recordWrite (s : State) (ring : Nat) : State :=
  let r := s.ring ring
  match r.waiting with
  | [] => s
  | w :: rest =>
    if r.cqFull then s
    else
      let s0 := (s.setRing { r with waiting := rest }).writeRecord ring w
      let s1 := s0.setRing (s0.ring ring).closeIfDone
      match w.task with
      | some id =>
        match s1.task? id with
        | some t => s1.afterRecord t
        | none => s1
      | none => s1.setRing { (s1.ring ring).advanceDescriptor with heldByRecord := false }

/-- COMPLETION_RECORD_WRITE (R66). -/
def execCompletionRecordWrite (ring : Nat) (s : State) : Host.Outcome State Fault Refusal :=
  perform (.completionRecordWrite ring) (s.recordWrite ring)

/-- SUCCESSOR_SIGNAL_PLACE: the signals a completed task still owes are placed as entries free; with the last its table
entry frees (R57, R53). -/
def State.signalPlace (s : State) (id : TaskId) : State :=
  match s.task? id with
  | some t =>
    if t.phase = .signalling then
      let (s1, owed) := s.placeSignals t.job t.owed
      if owed.isEmpty then s1.dropTask id else s1.setTask { t with owed := owed }
    else s
  | none => s

/-- SUCCESSOR_SIGNAL_PLACE (R57). -/
def execSuccessorSignalPlace (id : TaskId) (s : State) : Host.Outcome State Fault Refusal :=
  perform (.successorSignalPlace id) (s.signalPlace id)

/-! ### Delay lists and the bell tick (R67 to R69) -/

/-- DELAY_EXPIRY: the wait of a delay task has ended, and it becomes ready (R67, R69). -/
def State.delayExpiry (s : State) (id : TaskId) : State :=
  match s.task? id with
  | some t =>
    match t.phase with
    | .delaying due => if due ≤ s.tick then s.makeReady t else s
    | _ => s
  | none => s

/-- DELAY_EXPIRY (R67). -/
def execDelayExpiry (id : TaskId) (s : State) : Host.Outcome State Fault Refusal :=
  perform (.delayExpiry id) (s.delayExpiry id)

/-- DEADLINE_EXPIRY: a deadline passes with the counter above zero; the task completes with LATE (R68, R69). -/
def State.deadlineExpiry (s : State) (id : TaskId) : State :=
  match s.task? id with
  | some t =>
    match t.deadlineTick with
    | some due => if t.phase = .waiting ∧ due ≤ s.tick ∧ s.jobRuns t.job then s.complete t stLATE else s
    | none => s
  | none => s

/-- DEADLINE_EXPIRY (R69). -/
def execDeadlineExpiry (id : TaskId) (s : State) : Host.Outcome State Fault Refusal :=
  perform (.deadlineExpiry id) (s.deadlineExpiry id)

/-- TICK_WRITE: SCH_TICK takes the period unless it is a reserved encoding; it applies from the next boundary (R67, R77). -/
def State.tickWrite (s : State) (value : Nat) : State :=
  let v := value % 2 ^ Reg.SCH_TICK_period.width
  if Reg.SCH_TICK_period.permits v then s.setReg Reg.SCH_TICK_period v else s

/-- TICK_WRITE (R67). -/
def execTickWrite (value : Nat) (s : State) : Host.Outcome State Fault Refusal :=
  perform (.tickWrite value) (s.hostWrite (s.tickWrite value))

/-- One cycle of the 100 MHz reference passes, and merged corrections whose 1 ms is over are recorded (R357). When the
boundary that ends the current tick has passed, the next tick begins: the boundary after it is the next multiple of the
period now in SCH_TICK (R67). -/
def State.passCycle (s : State) : State :=
  let now := s.now + 1
  if s.boundary < now then
    let p := s.reg Reg.SCH_TICK_period
    ({ s with now := now, tick := s.tick + 1, period := p, boundary := (s.boundary / p + 1) * p } : State).writeCorrections
  else ({ s with now := now } : State).writeCorrections

/-! ### Ring enable (R78) -/

/-- The checks of a write of enable 1 (R78). -/
def State.ringEnableOk (s : State) (r : Ring) : Bool :=
  match s.ringJob? r.id with
  | none => false
  | some job =>
    let size := 2 ^ r.log2Size
    let base := s.node?.getD 0 * 2 ^ 48
    decide (s.accessBound job [{ addr := base + r.base * 64, len := 64 * size, read := true },
      { addr := base + r.cqBase * 16, len := 16 * size, write := true }] = stOK)

/-- RING_ENABLE: enable 1 written for the selected ring: checked, the ring starts with its pointers at 0; refused, it
stays disabled and ring_error is set, which no rule posts on the device event ring (R78, R395; log entry 10). An entry
that the ring had taken before it was disabled goes on to its end (R78, log entry 20). -/
def State.ringEnable (s : State) : State :=
  let r := s.ring (s.reg Reg.SCH_RING_SEL_ring)
  if r.enabled then s
  else if s.ringEnableOk r then
    s.setRing { r with enabled := true, head := 0, tail := 0, cqTail := 0, cqHead := 0, carried := r.inWork, closing := false }
  else s.setReg Reg.SCH_EVENT_ring_error 1

/-- RING_ENABLE (R78). -/
def execRingEnable (s : State) : Host.Outcome State Fault Refusal := perform .ringEnable (s.hostWrite s.ringEnable)

/-- RING_DISABLE: the selected ring stops after its current entry (R78). -/
def State.ringDisable (s : State) : State :=
  s.setRing { s.ring (s.reg Reg.SCH_RING_SEL_ring) with enabled := false }

/-- RING_DISABLE (R78). -/
def execRingDisable (s : State) : Host.Outcome State Fault Refusal := perform .ringDisable (s.hostWrite s.ringDisable)

/-! ### NOP (R51) -/

/-- NOP: a dispatched NOP task finishes with OK. -/
def execNop (id : TaskId) (s : State) : Host.Outcome State Fault Refusal :=
  perform (.nop id) (s.engineStep id engNOP 0 (fun _ => { status := stOK }))

end Sys2Proof.Machine
end

