-- ==== Sys2Proof/Machine/Access.lean ====
section
/-!
DEFINITION. The accesses that engines make of their own: reads on this module and gets from others, under the job's windows
(R23), suppression (R99, R100) and poison (R344).
-/

namespace Sys2Proof.Machine

/-- What an engine's accesses have met so far: the first failing status, suppressed accesses, the first poisoned block it
consumed, and the gets it has made with the bytes they brought. -/
structure Access where
  status : Nat := 0
  suppressed : Nat := 0
  poison : Option Nat := none
  gets : Nat := 0
  bytes : Nat := 0
  /-- The addresses of the gets, in order. -/
  asked : List Nat := []
  /-- Ranges on other modules that no answer covers yet. -/
  missing : List (Nat × Nat) := []
deriving DecidableEq, Repr

/-- An access fails with a status: suppressed in a speculative task when it is ACCESS, else it ends the task (R99). -/
def Access.fail (x : Access) (spec : Bool) (status : Nat) : Access :=
  if spec && status == stACCESS then { x with suppressed := x.suppressed + 1 }
  else if x.status = stOK then { x with status := status } else x

/-- Poison is consumed at an address: counted in a speculative task, else remembered (R100, R345). -/
def Access.consumed (x : Access) (spec : Bool) (a : Nat) : Access :=
  if spec then { x with suppressed := x.suppressed + 1 } else { x with poison := x.poison.orElse (fun _ => some a) }

/-- Read n bytes at a global address for a job: the bytes with their poison, and what the access met. A read that
fails gives zeros without poison; one that other modules have not answered yet is noted as missing. -/
def State.fetch (s : State) (job : Nat) (spec : Bool) (replies : List RemoteReply) (a n : Nat) (x : Access) :
    Marked × Access :=
  let zeros := cleanBytes (List.replicate n 0)
  if n = 0 ∨ x.status ≠ stOK then (zeros, x)
  else if s.isLocal a then
    let r : Range := { addr := a, len := n, read := true }
    if 4 ≤ addrSpace a then (zeros, x.fail spec stFORMAT)
    else if s.rangeAccess job r ≠ stOK ∨ s.rangeBound job r ≠ stOK then (zeros, x.fail spec stACCESS)
    else (s.mem.readMarked (s.key a) n, x)
  else if !s.nodeExists (addrNode a) then (zeros, x.fail spec stACCESS)
  else
    match remoteAnswer replies a n with
    | some (st, d) => if st = stOK then (d, x) else (zeros, x.fail spec st)
    | none => (zeros, { x with missing := x.missing ++ [(a, n)] })

/-- A little-endian value that the engine consumes from an address: a poisoned one reads as zero in a speculative task. -/
def Access.take (x : Access) (spec : Bool) (a : Nat) (d : Marked) : Nat × Access :=
  let v := leNat (d.map (·.1))
  if d.any (·.2) then ((if spec then 0 else v), x.consumed spec (a / 64 * 64)) else (v, x)

/-- Read a little-endian value that the engine consumes. -/
def State.fetchValue (s : State) (job : Nat) (spec : Bool) (replies : List RemoteReply) (a n : Nat) (x : Access) :
    Nat × Access :=
  let (d, x1) := s.fetch job spec replies a n x
  x1.take spec a d

/-! ### Ownership maps (R32, R105, R127) -/

/-- The entry a unit belongs to: the greatest first value that is not above it; none at or above the count. -/
def OwnerMap.entry? (m : OwnerMap) (v : Nat) : Option (Nat × Nat) :=
  if m.count ≤ v then none else ((m.entries.filter (fun e => decide (e.1 ≤ v))).getLast?)

/-- The module that owns a unit. -/
def OwnerMap.owner? (m : OwnerMap) (v : Nat) : Option Nat := (m.entry? v).map (·.2)

/-- The ranges of a map: first unit, one past the last, owner. -/
def ownerRanges : List (Nat × Nat) → Nat → List (Nat × Nat × Nat)
  | [], _ => []
  | [e], n => [(e.1, n, e.2)]
  | e :: f :: r, n => (e.1, f.1, e.2) :: ownerRanges (f :: r) n

/-- The local index of a unit on its owner: the number of units below it that the same module owns. -/
def OwnerMap.localIndex (m : OwnerMap) (v owner : Nat) : Nat :=
  sumNat ((ownerRanges m.entries m.count).map (fun r => if r.2.2 = owner then Nat.min r.2.1 v - r.1 else 0))

/-- How many units a module owns. -/
def OwnerMap.owned (m : OwnerMap) (owner : Nat) : Nat := m.localIndex m.count owner

/-- The PART_MAP of a graph. -/
def State.partMap? (s : State) (g : Nat) : Option OwnerMap :=
  s.chart.bind (fun c => c.partMaps.find? (fun m => decide (m.id = g)))

/-- The SHARD_MAP of a group or table. -/
def State.shardMap? (s : State) (g : Nat) : Option OwnerMap :=
  s.chart.bind (fun c => c.shardMaps.find? (fun m => decide (m.id = g)))

/-- A global address from a node, a space and an offset. -/
def globalAddr (node space off : Nat) : Nat := node * 2 ^ 48 + space * 2 ^ 45 + off

end Sys2Proof.Machine
end

