-- ==== Sys2Proof/Machine/Window.lean ====
section
/-!
DEFINITION. Windowed-exact accumulators (R179, R209 to R212), their carry records (R182, R183), and the single rounding of
a sum or of a quotient of sums.
-/

namespace Sys2Proof.Machine

/-- A contribution: an exact value over a positive denominator, which is 1 but for the quotients of a CSC mean (R186). -/
structure Contrib where
  value : Num
  den : Nat
deriving DecidableEq, Repr

/-- A contribution without a quotient. -/
def Num.contrib (v : Num) : Contrib := ⟨v, 1⟩

/-- An accumulator: V, its anchor a, the flags of R212, and the contributions so far. -/
structure Acc where
  v : Int
  anchor : Int
  nan : Bool
  posInf : Bool
  negInf : Bool
  invalid : Bool
  count : Nat
deriving DecidableEq, Repr

/-- An empty accumulator with an anchor. -/
def Acc.start (a : Int) : Acc := ⟨0, a, false, false, false, false, 0⟩

/-- The ceiling of log2 of a count; 0 for 0 and 1. -/
def ceilLog2 (n : Nat) : Nat := if n ≤ 1 then 0 else Nat.log2 (n - 1) + 1

/-- The anchor of DATA mode: the largest exponent of the finite non-zero contributions, plus 2, plus the ceiling of log2 of
their number; 0 where there is none (R179). -/
def dataAnchor (cs : List Contrib) (count : Nat) : Int :=
  let es := cs.filterMap (fun c => match c.value with
    | .fin _ m e => if m = 0 then none else some (ratLog2 m c.den e)
    | _ => none)
  match es with
  | [] => 0
  | h :: r => r.foldl max h + 2 + ceilLog2 count

/-- Add a finite contribution ±p/q · 2^e, truncated toward zero at the window's lowest bit; the count tells whether it was
truncated (R179, R211). -/
def Acc.addRatio (acc : Acc) (neg : Bool) (p q : Nat) (e : Int) : Acc × Nat :=
  let (a, b) := shiftRatio p q (e + 191 - acc.anchor)
  ({ acc with v := acc.v + signedMag neg (a / b) }, flag (decide (a % b ≠ 0)))

/-- Add a contribution: a non-finite one sets its flag (R212); an explicit anchor turns away a magnitude of at least
2^(a − 34) and marks the accumulator invalid (R179). -/
def Acc.add (explicit : Bool) (acc : Acc) (c : Contrib) : Acc × Nat :=
  match c.value with
  | .nan => ({ acc with nan := true }, 0)
  | .inf false => ({ acc with posInf := true }, 0)
  | .inf true => ({ acc with negInf := true }, 0)
  | .fin n p e =>
    if p = 0 then (acc, 0)
    else if explicit && !magLt p e c.den (acc.anchor - 34) then ({ acc with invalid := true }, 0)
    else acc.addRatio n p c.den e

/-- Add contributions, with the number that were truncated (WINDOW_UNDERFLOW). -/
def Acc.addAll (explicit : Bool) (acc : Acc) (cs : List Contrib) : Acc × Nat :=
  cs.foldl (fun x c => let (a, n) := x.1.add explicit c; (a, x.2 + n)) (acc, 0)

/-- window_sum of R179 in DATA mode over a count that may include dropped contributions. -/
def windowSum (cs : List Contrib) (count : Nat) : Acc × Nat :=
  let (a, n) := (Acc.start (dataAnchor cs count)).addAll false cs
  ({ a with count := count }, n)

/-- The value an accumulator holds (R212): the flags first, +0 for V = 0. -/
def Acc.value (acc : Acc) : Num :=
  if acc.nan || acc.invalid || (acc.posInf && acc.negInf) then .nan
  else if acc.posInf then .inf false
  else if acc.negInf then .inf true
  else if acc.v = 0 then .zero
  else Num.ofInt acc.v (acc.anchor - 191)

/-- Round a value divided by a positive number p · 2^e once into a format, to nearest even or with the 16 bits of
stochastic rounding (R152, R171, R186, R188). A result that is not finite is R212's own, in the target's column of R152, with
either rounding (log entry 43). -/
def roundQuotient (f : Nat) (sr : Option Nat) (v : Num) (p : Nat) (e : Int) : Nat × Tele :=
  match v with
  | .fin n m x =>
    match sr with
    | none => convertRatio f n m p (x - e)
    | some r => convertSrRatio f r n m p (x - e)
  | w => convertRne f w

/-- The 32 bytes of a carry record (R182). -/
def Acc.record (acc : Acc) : List Byte :=
  leBytes 24 (ofSigned 192 acc.v) ++ leBytes 2 (ofSigned 16 acc.anchor) ++
    leBytes 1 (flag acc.nan + 2 * flag acc.posInf + 4 * flag acc.negInf + 8 * flag acc.invalid) ++ leBytes 1 0 ++
    leBytes 4 (Nat.min acc.count 0xFFFFFFFF)

/-- An accumulator from a carry record (R182). -/
def parseRecord (b : List Byte) : Acc :=
  let f := fieldLe b 0x1A 1
  { v := toSigned 192 (fieldLe b 0 24), anchor := toSigned 16 (fieldLe b 0x18 2), nan := bit f 0, posInf := bit f 1,
    negInf := bit f 2, invalid := bit f 3, count := fieldLe b 0x1C 4 }

/-- Start from a carry record: another anchor, or a record that is invalid, makes the accumulator invalid (R183). -/
def Acc.resume (rec_ : Acc) (anchor : Int) (bad : Bool) : Acc :=
  { rec_ with anchor := anchor, invalid := rec_.invalid || decide (rec_.anchor ≠ anchor) || bad }

/-- Add a number of contributions to the count; beyond 2^32 − 1 the accumulator is invalid (R183). -/
def Acc.counted (acc : Acc) (n : Nat) : Acc :=
  { acc with count := acc.count + n, invalid := acc.invalid || decide (0xFFFFFFFF < acc.count + n) }

end Sys2Proof.Machine
end

