-- ==== Sys2Proof/Machine/Rows.lean ====
section
/-!
DEFINITION. Rows as the edge engine, the tables and the vector engine read and write them (R126, R153, R178): their values,
the poison each column depends on, and written rows; and blocks taken from a prefetch stream (R97, R190).
-/

namespace Sys2Proof.Machine

/-- A row: its values, and for each column whether it depends on poison. -/
structure Row where
  values : List Num
  poison : List Bool
deriving DecidableEq, Repr

/-- The values of a row's payload (R126, R178). -/
def rowValues (f width : Nat) (b : List Byte) : List Num :=
  if fmtNarrow f then
    let scale := fieldLe b (elemBytes f width) 1
    (List.range width).map (fun i => scaledValue f scale (elemBits f b i))
  else decodeElems f b width

/-- A row of bytes with their poison: a column depends on its own bytes and on the scale byte (R345). -/
def Row.ofMarked (f width : Nat) (b : Marked) : Row :=
  let marked := fun o n => ((b.drop o).take n).any (·.2)
  ⟨rowValues f width (b.map (·.1)),
    if !b.any (·.2) then List.replicate width false
    else if fmtNarrow f && marked (elemBytes f width) 1 then List.replicate width true
    else (List.range width).map (fun i => marked (i * fmtBits f / 8) (ceilDiv (fmtBits f) 8))⟩

/-- Which columns of a row at a memory key depend on poison: all of them where its scale byte does (R345). -/
def State.rowPoison (s : State) (f width key : Nat) : List Bool :=
  if s.mem.poisoned key (rowPayload f width) = false then List.replicate width false
  else if fmtNarrow f && s.mem.poisoned (key + elemBytes f width) 1 then List.replicate width true
  else (List.range width).map (fun i => s.mem.poisoned (key + i * fmtBits f / 8) (ceilDiv (fmtBits f) 8))

/-- The row at a memory key. -/
def State.rowAt (s : State) (f width key : Nat) : Row :=
  ⟨rowValues f width (s.mem.readN key (rowPayload f width)), s.rowPoison f width key⟩

/-- A zero row. -/
def Row.zero (width : Nat) : Row := ⟨List.replicate width .zero, List.replicate width false⟩

/-- Column c of a row. -/
def Row.at (r : Row) (c : Nat) : Num := r.values.getD c .zero

/-- Whether column c of a row depends on poison. -/
def Row.poisonAt (r : Row) (c : Nat) : Bool := r.poison.getD c false

/-- An output row: its elements, then zeros up to the stride (R189). -/
def writeRow (key f stride : Nat) (elems : List Elem) : List MemOp :=
  let body := packMarked f elems
  markedWrite key (body ++ cleanBytes (List.replicate (stride - body.length) 0))

/-- The first poisoned block that n bytes at a key touch, for the record of R345. -/
def State.taint (s : State) (key n : Nat) : Option Nat := (s.mem.firstPoison key n).map s.addrOfKey

/-- The 64-byte block of the first poisoned of n bytes read at an address. -/
def markedTaint (a : Nat) (d : Marked) : Option Nat := (d.findIdx? (·.2)).map (fun i => (a + i) / 64 * 64)

/-- The first of several poisoned blocks. -/
def firstTaint (l : List (Option Nat)) : Option Nat := l.findSome? id

/-! ### Blocks of a prefetch stream (R97, R190) -/

/-- The bytes of the next block of a stream, as it stands in its staging slot; those of a block whose source has been written
since the stream opened are anything (R98). -/
def State.stagedBytes (s : State) (x : Stream) : Marked :=
  if s.spoiled x then cleanBytes ((List.range x.blockBytes).map (Config.freeByte s.free))
  else s.mem.readMarked (s.stagingKey x x.consumed) x.blockBytes

/-- The status with which the get of a block that has arrived failed. -/
def BlockState.failure? : BlockState → Option Nat
  | .failed e => some e
  | _ => none

/-- The next block of a stream, where it has arrived. -/
def State.nextTaken? (s : State) (x : Stream) : Option Taken :=
  (x.arrivals.find? (fun a => decide (a.1 = x.consumed))).map (fun a =>
    .block (s.stagedBytes x) a.2.failure? (s.addrOfKey (s.stagingKey x x.consumed)))

/-- The consumer has taken the next block. Whether more than 75 % of the die's tags were in use in its window depends on the
requests of other tasks too, so it is free where the tags held now do not say so (R97, log entry 42). -/
def State.passBlock (s : State) (x : Stream) : State :=
  ({ s with free := s.free + 2 } : State).consumeBlock x (s.tagsBusy x.die || Config.freeValue (s.free + 1) % 2 == 1)

/-- The consumer asks for the next block of a stream: it takes it if it has arrived or can arrive now, else it waits (none); a
stream that has ended gives nothing (R97, R190). -/
def State.takeBlock (s : State) (die slot : Nat) (remote : List RemoteReply) : State × Option Taken :=
  match s.stream? die slot with
  | none => (s, some .ended)
  | some x =>
    match s.nextTaken? x with
    | some b => (s.passBlock x, some b)
    | none =>
      let s1 := (s.askBlock x).streamArrival die slot x.consumed remote
      match s1.stream? die slot with
      | none => (s1, some .ended)
      | some y =>
        match s1.nextTaken? y with
        | some b => (s1.passBlock y, some b)
        | none => (s1, none)

/-- The status with which a block that was taken ends its task: that of its get, where a speculative task does not suppress it
(R99, R190, log entry 42). -/
def Taken.ends (spec : Bool) : Taken → Option Nat
  | .block _ (some e) _ => if spec && e == stACCESS then none else some e
  | _ => none

/-- A block whose get failed. -/
def Taken.failed : Taken → Bool
  | .block _ (some _) _ => true
  | _ => false

/-- Take n more blocks in order behind those taken so far; one that ends the task is the last. The flag: none is waited for
(R190). -/
def State.takeBlocks (s : State) (die slot : Nat) (remote : List RemoteReply) (spec : Bool) :
    Nat → List Taken → State × List Taken × Bool
  | 0, l => (s, l, true)
  | n + 1, l =>
    match s.takeBlock die slot remote with
    | (s1, none) => (s1, l, false)
    | (s1, some b) =>
      if (b.ends spec).isSome then (s1, l ++ [b], true) else s1.takeBlocks die slot remote spec n (l ++ [b])

/-- A consumer of stream blocks goes on: it takes what it still needs of n, and runs once it has all; a task that waits keeps
what it has taken (R97). -/
def State.consumeStep (s : State) (t : Task) (slot : Nat) (remote : List RemoteReply) (n : Nat)
    (run : State → List Taken → Result) : State :=
  match s.takeBlocks (t.runTile / 8) slot remote t.speculative (n - t.blocks.length) t.blocks with
  | (s1, l, true) => s1.applyResult t (run s1 l)
  | (s1, l, false) => s1.setTask { t with blocks := l }

/-- Blocks that were marked failed. -/
def failedBlocks (blocks : List Taken) : Nat := (blocks.filter Taken.failed).length

/-- The stream slot that a dispatched EDGE task names, on its die (R190). -/
def Task.edgeStream? (t : Task) : Option Nat :=
  if t.desc.engine ≠ engEDGE ∨ t.args = [] then none
  else match fieldLe t.args 0 1 with
    | 1 => if bit (fieldLe t.args 1 1) 1 then some (fieldLe t.args 2 1) else none
    | 2 => if bit (fieldLe t.args 3 1) 4 then some (fieldLe t.args 0x52 1) else none
    | _ => none

/-- R190's FORMAT checks of a stream slot: open on the task's die, named by no other live task, blocks large enough. -/
def State.streamFormat (s : State) (t : Task) (slot payload : Nat) : Bool :=
  match s.stream? (t.runTile / 8) slot with
  | none => true
  | some x => decide (x.blockBytes < payload) ||
      s.tasks.any (fun u => decide (u.id ≠ t.id) && u.live && decide (u.runTile / 8 = t.runTile / 8) &&
        decide (u.edgeStream? = some slot))

/-- R190's ACCESS check: the stream belongs to the task's job. -/
def State.streamAccess (s : State) (t : Task) (slot : Nat) : Nat :=
  failIf (((s.stream? (t.runTile / 8) slot).map (fun x => decide (x.job ≠ t.job))).getD false) stACCESS

end Sys2Proof.Machine
end

