-- ==== Sys2Proof/Machine/Edge.lean ====
section
/-!
DEFINITION. The edge engine (08): GATHER, SEG_REDUCE, SCATTER_ADD and INTERSECT, with their checks (R175, R176).
-/

namespace Sys2Proof.Machine

/-- Bytes of an output element: FP32, BF16 or FP16. -/
def outSize (f : Nat) : Nat := if f = fmtFP32 then 4 else 2

/-- The counts of an EDGE task (R197). -/
structure EdgeCount where
  contrib : Nat := 0
  edges : Nat := 0
  indexRange : Nat := 0
  underflow : Nat := 0
  anchorOvf : Nat := 0
  badSegment : Nat := 0
  reread : Nat := 0
  merged : Nat := 0
  unsorted : Nat := 0
deriving DecidableEq, Repr

/-- The sum of two counts. -/
def EdgeCount.plus (a b : EdgeCount) : EdgeCount :=
  ⟨a.contrib + b.contrib, a.edges + b.edges, a.indexRange + b.indexRange, a.underflow + b.underflow,
    a.anchorOvf + b.anchorOvf, a.badSegment + b.badSegment, a.reread + b.reread, a.merged + b.merged,
    a.unsorted + b.unsorted⟩

/-- The counters of a tile that the counts go to. -/
def EdgeCount.bumps (c : EdgeCount) (tile : Nat) : List (Field × Nat) :=
  [(Reg.TIL_EDG_CNT_CONTRIB tile, c.contrib), (Reg.TIL_EDG_CNT_EDGES tile, c.edges),
    (Reg.TIL_EDG_CNT_INDEX_RANGE tile, c.indexRange), (Reg.TIL_EDG_CNT_WINDOW_UNDERFLOW tile, c.underflow),
    (Reg.TIL_EDG_CNT_ANCHOR_OVF tile, c.anchorOvf), (Reg.TIL_EDG_CNT_BAD_SEGMENT tile, c.badSegment),
    (Reg.TIL_EDG_CNT_REREAD tile, c.reread), (Reg.TIL_EDG_CNT_MERGED tile, c.merged),
    (Reg.TIL_EDG_CNT_UNSORTED tile, c.unsorted)]

/-- The events of a task's counts, each posted once with the tile number (R197). -/
def EdgeCount.events (c : EdgeCount) (tile : Nat) : List (Field × Nat × Nat) :=
  (if c.badSegment = 0 then [] else [(Reg.TIL_EDG_EVENT_bad_segment tile, tile, 0)]) ++
    (if c.anchorOvf = 0 then [] else [(Reg.TIL_EDG_EVENT_anchor_ovf tile, tile, 0)])

/-- Contributions that the segment buffer holds (R180). -/
def segmentBuffer : Nat := 131072

/-- Any of a list of output ranges overlaps any of a list of input ranges (R176). -/
def State.clash (s : State) (outs ins : List Range) : Bool :=
  outs.any (fun o => ins.any (fun i => s.overlap (o.addr, o.len) (i.addr, i.len)))

/-- The checks of a list of ranges after an engine's FORMAT checks, the output with its own bound (R76, R176). -/
def State.vetRanges (s : State) (job : Nat) (rs : List Range) (ownBound : List (Nat × Nat)) : Nat :=
  firstFailure (rs.map rangeFormat ++ rs.map (s.rangeAccess job) ++ rs.map (s.rangeBound job) ++
    ownBound.map (fun p => failIf (decide (p.2 < p.1)) stBOUND))

/-! ### GATHER (R191) -/

/-- A GATHER argument block. -/
structure GatherArgs where
  streamEn : Bool
  idx64 : Bool
  stream : Nat
  rowBytes : Nat
  count : Nat
  srcStride : Nat
  idx : Nat
  src : Nat
  srcRows : Nat
  out : Nat
  outStride : Nat
  outBound : Nat
deriving DecidableEq, Repr

/-- A GATHER argument block from its bytes. -/
def parseGather (b : List Byte) : GatherArgs :=
  let f := fieldLe b 1 1
  { streamEn := bit f 1, idx64 := bit f 0, stream := fieldLe b 2 1, rowBytes := fieldLe b 4 4, count := fieldLe b 8 4,
    srcStride := fieldLe b 0xC 4, idx := fieldLe b 0x10 8, src := fieldLe b 0x18 8, srcRows := fieldLe b 0x20 8,
    out := fieldLe b 0x28 8, outStride := fieldLe b 0x30 4, outBound := fieldLe b 0x34 4 }

/-- Bytes of an index entry. -/
def indexBytes (idx64 : Bool) : Nat := if idx64 then 8 else 4

/-- GATHER's checks (R176, R190, R191). -/
def State.gatherCheck (s : State) (t : Task) : Nat :=
  let a := parseGather t.args
  if a.rowBytes = 0 ∨ a.count = 0 then stOK
  else
    let idx : Range := { addr := a.idx, len := a.count * indexBytes a.idx64, read := true }
    let src : Range := { addr := a.src, len := a.srcRows * a.srcStride, read := true }
    let out : Range := { addr := a.out, len := a.count * a.outStride, write := true }
    let ins := if a.streamEn then [] else [idx, src]
    firstFailure
      [failIf (decide (a.outStride < a.rowBytes) || decide (a.outStride % 64 ≠ 0) || decide (a.out % 64 ≠ 0) ||
        (if a.streamEn then s.streamFormat t a.stream a.rowBytes
         else decide (a.srcStride < a.rowBytes) || decide (a.srcStride % 64 ≠ 0)) || s.clash [out] ins) stFORMAT,
       firstFailure ((ins ++ [out]).map rangeFormat),
       if a.streamEn then s.streamAccess t a.stream else stOK,
       s.vetRanges t.job (ins ++ [out]) [(out.len, a.outBound)]]

/-- Row i of a GATHER by index: its memory effects, and whether its index was out of range. -/
def State.gatherRow (s : State) (a : GatherArgs) (i : Nat) : List MemOp × Bool :=
  let at_ := s.key a.idx + i * indexBytes a.idx64
  let v := leNat (s.mem.readN at_ (indexBytes a.idx64))
  let x := if a.idx64 then bits v 47 0 else v
  let dst := s.key a.out + i * a.outStride
  let body := if a.srcRows ≤ x then [MemOp.zero dst a.outStride]
    else [.zero dst a.outStride, .move (s.key a.src + x * a.srcStride) dst a.rowBytes]
  (body ++ (if s.mem.poisoned at_ (indexBytes a.idx64) then [.poison dst a.outStride] else []), decide (a.srcRows ≤ x))

/-- A GATHER's run by index: the rows copied, their poison with them (R191, R344). -/
def State.gatherRun (s : State) (t : Task) : Result :=
  let a := parseGather t.args
  if a.rowBytes = 0 ∨ a.count = 0 then {}
  else
    let rows := (List.range a.count).map (s.gatherRow a)
    let c : EdgeCount := { edges := a.count, indexRange := (rows.filter (·.2)).length }
    { ops := rows.flatMap (·.1), bumps := c.bumps t.runTile }

/-- A gathered stream block as an output row; what the stream lacks is zero. -/
def gatherBlock (key stride n : Nat) (b : Taken) : List MemOp :=
  match b with
  | .block bytes none _ => .zero key stride :: markedWrite key (bytes.take n)
  | _ => [.zero key stride]

/-- A task that a failed stream block ended: the status of that block, its outputs undefined (R96, R190). -/
def State.endedByBlock (s : State) (status : Nat) (outs : List Range) : Result :=
  let keys := (outs.filter (·.write)).map (fun r => (s.key r.addr, r.len))
  { status := status, ops := undefinedOps keys s.free, draws := keys.length }

/-- What a GATHER makes of the stream blocks it took (R190, R191): a failed block ends it, an ACCESS is suppressed in a
speculative task; rows beyond the stream's end are zero and counted. -/
def State.gatherStream (s : State) (t : Task) (blocks : List Taken) : Result :=
  let a := parseGather t.args
  let c : EdgeCount := { edges := a.count, indexRange := (blocks.filter (fun b => decide (b = .ended))).length }
  match blocks.findSome? (Taken.ends t.speculative) with
  | some e => s.endedByBlock e [{ addr := a.out, len := a.count * a.outStride, write := true }]
  | none =>
    { ops := blocks.zipIdx.flatMap (fun p => gatherBlock (s.key a.out + p.2 * a.outStride) a.outStride a.rowBytes p.1),
      bumps := c.bumps t.runTile, suppressed := failedBlocks blocks }

/-- GATHER as an engine step: under stream supply the blocks are taken first, and the task waits for them. -/
def State.gatherStep (s : State) (id : TaskId) (remote : List RemoteReply) : State :=
  match s.runningTask? id engEDGE 1 with
  | some t =>
    let a := parseGather t.args
    if a.streamEn ∧ a.rowBytes ≠ 0 then s.consumeStep t a.stream remote a.count (fun s1 l => s1.gatherStream t l)
    else s.applyResult t (s.gatherRun t)
  | none => s

/-- GATHER (R191). -/
def execGather (id : TaskId) (remote : List RemoteReply) (s : State) : Host.Outcome State Fault Refusal :=
  perform (.gather id remote) (s.gatherStep id remote)

/-! ### SEG_REDUCE: the argument block and its checks (R184) -/

/-- A SEG_REDUCE argument block. -/
structure SegArgs where
  srcF : Nat
  outF : Nat
  carryOut : Bool
  carryIn : Bool
  explicit : Bool
  sr : Bool
  csc : Bool
  reduce : Nat
  writeAlpha : Bool
  argmax : Bool
  accumulate : Bool
  streamEn : Bool
  heads : Nat
  width : Nat
  mfb : Nat
  first : Nat
  count : Nat
  src : Nat
  srcRows : Nat
  srcStride : Nat
  weights : Nat
  out : Nat
  outStride : Nat
  outBound : Nat
  carry : Nat
  aux : Nat
  anchor : Int
  stream : Nat
  tensorId : Nat
  step : Nat
deriving DecidableEq, Repr

/-- A SEG_REDUCE argument block from its bytes. -/
def parseSeg (b : List Byte) : SegArgs :=
  let b1 := fieldLe b 1 1
  let b2 := fieldLe b 2 1
  let b3 := fieldLe b 3 1
  { srcF := bits b1 7 4, outF := bits b1 3 0, carryOut := bit b2 7, carryIn := bit b2 6, explicit := bit b2 5, sr := bit b2 4,
    csc := bit b2 3, reduce := bits b2 2 0, writeAlpha := bit b3 7, argmax := bit b3 6, accumulate := bit b3 5,
    streamEn := bit b3 4, heads := bits b3 3 0 + 1, width := fieldLe b 4 4, mfb := fieldLe b 8 8, first := fieldLe b 0x10 4,
    count := fieldLe b 0x14 4, src := fieldLe b 0x18 8, srcRows := fieldLe b 0x20 4, srcStride := fieldLe b 0x24 4,
    weights := fieldLe b 0x28 8, out := fieldLe b 0x30 8, outStride := fieldLe b 0x38 4, outBound := fieldLe b 0x3C 4,
    carry := fieldLe b 0x40 8, aux := fieldLe b 0x48 8, anchor := toSigned 16 (fieldLe b 0x50 2), stream := fieldLe b 0x52 1,
    tensorId := fieldLe b 0x54 4, step := fieldLe b 0x58 4 }

/-- The reductions of R184. -/
def redSUM : Nat := 0
/-- MEAN. -/
def redMEAN : Nat := 1
/-- MAX. -/
def redMAX : Nat := 2
/-- WSUM. -/
def redWSUM : Nat := 3
/-- SOFTMAX. -/
def redSOFTMAX : Nat := 4

/-- A message-flow block as its header gives it (R113); offsets in bytes. -/
structure FlowBlock where
  magic : Nat
  nDst : Nat
  nSrc : Nat
  nEdges : Nat
  indptr : Nat
  srcLocal : Nat
  cscIndptr : Nat
  cscPerm : Nat
  bytes : Nat
deriving DecidableEq, Repr

/-- A block header from its 64 bytes. -/
def parseFlow (b : List Byte) : FlowBlock :=
  { magic := fieldLe b 0 4, nDst := fieldLe b 8 4, nSrc := fieldLe b 0xC 4, nEdges := fieldLe b 0x10 4,
    indptr := fieldLe b 0x1C 4 * 64, srcLocal := fieldLe b 0x20 4 * 64, cscIndptr := fieldLe b 0x28 4 * 64,
    cscPerm := fieldLe b 0x2C 4 * 64, bytes := fieldLe b 0x3C 4 * 64 }

/-- The arrays that a view reads: offset and entries. -/
def SegArgs.arrays (a : SegArgs) (h : FlowBlock) : List (Nat × Nat) :=
  if a.csc then [(h.indptr, h.nDst + 1), (h.cscIndptr, h.nSrc + 1), (h.cscPerm, h.nEdges)]
  else (h.indptr, h.nDst + 1) :: (if a.streamEn then [] else [(h.srcLocal, h.nEdges)])

/-- Carry records are read or written. -/
def SegArgs.carries (a : SegArgs) : Bool := a.carryIn || a.carryOut

/-- Reserved encodings (R6). -/
def SegArgs.reserved (a : SegArgs) : Bool := decide (8 ≤ a.srcF) || decide (3 ≤ a.outF) || decide (5 ≤ a.reduce)

/-- The range of the carry records. -/
def SegArgs.carryRange (a : SegArgs) : Range :=
  { addr := a.carry, len := a.count * a.width * 32, read := a.carryIn, write := a.carryOut }

/-- The output range. -/
def SegArgs.outRange (a : SegArgs) : Range :=
  { addr := a.out, len := a.count * a.outStride, read := a.accumulate, write := true }

/-- The weights or scores, for n edges. -/
def SegArgs.weightRange (a : SegArgs) (n : Nat) : Range :=
  { addr := a.weights, len := n * 4 * (if a.reduce = redSOFTMAX then a.heads else 1), read := true }

/-- What aux receives, for n edges. -/
def SegArgs.auxRange (a : SegArgs) (n : Nat) : Range :=
  { addr := a.aux, len := if a.argmax then a.count * a.width * 4 else n * a.heads * 4, write := true }

/-- The operand rows. -/
def SegArgs.srcRange (a : SegArgs) : Range := { addr := a.src, len := a.srcRows * a.srcStride, read := true }

/-- Input ranges whose size needs no header. -/
def SegArgs.ownIns (a : SegArgs) : List Range :=
  (if a.streamEn then [] else [a.srcRange]) ++ (if a.carryIn && !a.carryOut then [a.carryRange] else [])

/-- Output ranges whose size needs no header. -/
def SegArgs.ownOuts (a : SegArgs) : List Range :=
  (if a.carryOut then [a.carryRange] else [a.outRange]) ++ (if a.argmax then [a.auxRange 0] else [])

/-- Weights are read. -/
def SegArgs.weighs (a : SegArgs) : Bool := a.reduce == redWSUM || a.reduce == redSOFTMAX

/-- All input ranges. -/
def SegArgs.ins (a : SegArgs) (h : FlowBlock) : List Range :=
  { addr := a.mfb, len := h.bytes, read := true } :: a.ownIns ++ (if a.weighs then [a.weightRange h.nEdges] else [])

/-- All output ranges. -/
def SegArgs.outs (a : SegArgs) (h : FlowBlock) : List Range :=
  a.ownOuts ++ (if a.writeAlpha then [a.auxRange h.nEdges] else [])

/-- The FORMAT checks on the argument block alone (R176, R184, R190, R438). -/
def State.segFormat (s : State) (t : Task) (a : SegArgs) : Bool :=
  let payload := rowPayload a.srcF a.width
  let maxLike := a.reduce == redMAX || a.reduce == redSOFTMAX
  decide (a.width % a.heads ≠ 0) || (decide (1 < a.heads) && decide (a.reduce ≠ redSOFTMAX)) ||
    (a.argmax && decide (a.reduce ≠ redMAX)) || (a.writeAlpha && decide (a.reduce ≠ redSOFTMAX)) || (a.csc && maxLike) ||
    (decide (a.reduce = redSOFTMAX) && a.explicit) || (a.carries && (!a.explicit || maxLike)) ||
    (a.accumulate && (a.carryOut || maxLike || (decide (a.reduce = redMEAN) && !a.csc))) ||
    (a.sr && (decide (a.outF = fmtFP32) || maxLike)) ||
    (if a.streamEn then s.streamFormat t a.stream payload else decide (a.srcStride % 64 ≠ 0) || decide (a.srcStride < payload)) ||
    (!a.carryOut && (decide (a.outStride % 64 ≠ 0) || decide (a.outStride < a.width * outSize a.outF) || decide (a.out % 64 ≠ 0))) ||
    (a.carries && decide (a.carry % 64 ≠ 0)) || s.clash a.ownOuts a.ownIns

/-- The addresses of the ranges a SEG_REDUCE uses, of those whose size the header gives too: that they name no reserved space is a
check of the block's own fields (R23, R439). -/
def SegArgs.spaces (a : SegArgs) : List Nat :=
  (a.mfb :: (a.ownIns ++ a.ownOuts).map (·.addr)) ++ (if a.weighs then [a.weights] else []) ++
    (if a.writeAlpha then [a.aux] else [])

/-- SEG_REDUCE's checks, in the order of R439. -/
def State.segCheck (s : State) (t : Task) : Nat :=
  let a := parseSeg t.args
  if a.reserved then stFORMAT
  else if a.width = 0 ∨ a.count = 0 then stOK
  else
    let head : Range := { addr := a.mfb, len := 64, read := true }
    let h := parseFlow (s.readAddr a.mfb 64)
    firstFailure
      [failIf (s.segFormat t a || a.spaces.any (fun x => decide (4 ≤ addrSpace x))) stFORMAT, s.rangeAccess t.job head, s.rangeBound t.job head,
       failIf (decide (h.magic ≠ 0x42464D51) || (a.arrays h).any (fun p => decide (h.bytes < p.1 + 4 * p.2)) ||
         s.clash (a.outs h) (a.ins h)) stFORMAT,
       if a.streamEn then s.streamAccess t a.stream else stOK,
       s.vetRanges t.job (a.ins h ++ a.outs h) (if a.carryOut then [] else [(a.outRange.len, a.outBound)])]

/-! ### SEG_REDUCE: segments and edges (R185) -/

/-- A visited edge: its CSR position, its operand row unless it is dropped, the divisor of a CSC mean, and the poison of
the structure that names it. -/
structure SegEdge where
  pos : Nat
  row : Option Nat
  den : Nat
deriving DecidableEq, Repr

/-- A segment: its edges, none where it is malformed, and the first poisoned block of the structure that gave them. -/
structure Segment where
  edges : Option (List SegEdge)
  taint : Option Nat
deriving DecidableEq, Repr

/-- Entry i of a 32-bit array at a memory key. -/
def State.u32 (s : State) (key i : Nat) : Nat := leNat (s.mem.readN (key + 4 * i) 4)

/-- lower_bound of R115 over a 32-bit array. -/
def State.lowerBound32 (s : State) (key target : Nat) : Nat → Nat → Nat → Nat
  | 0, lo, _ => lo
  | fuel + 1, lo, hi =>
    if lo < hi then
      let mid := (lo + hi) / 2
      if s.u32 key mid < target then s.lowerBound32 key target fuel (mid + 1) hi else s.lowerBound32 key target fuel lo mid
    else lo

/-- The edge at position e of the CSC view: its destination, and whether it lies in that destination's CSR range. -/
def State.cscEdge (s : State) (h : FlowBlock) (base srcRows : Nat) (anyRow : Bool) (e : Nat) : SegEdge :=
  let ip := base + h.indptr
  let d1 := s.lowerBound32 ip (e + 1) 33 0 (h.nDst + 1)
  let d := d1 - 1
  let lo := s.u32 ip d
  let hi := s.u32 ip (d + 1)
  if h.nEdges ≤ e ∨ d1 = 0 ∨ h.nDst ≤ d ∨ e < lo ∨ hi ≤ e then ⟨e, none, 1⟩
  else ⟨e, if d < srcRows ∨ anyRow then some d else none, hi - lo⟩

/-- Segment number k of the task. -/
def State.segment (s : State) (a : SegArgs) (h : FlowBlock) (k : Nat) : Segment :=
  let base := s.key a.mfb
  let n := a.first + k
  if a.csc then
    if h.nSrc ≤ n then ⟨some [], none⟩
    else
      let cp := base + h.cscIndptr
      let lo := s.u32 cp n
      let hi := s.u32 cp (n + 1)
      let t0 := s.taint (cp + 4 * n) 8
      if hi < lo ∨ h.nEdges < hi then ⟨none, t0⟩
      else ⟨some ((List.range (hi - lo)).map (fun i =>
          s.cscEdge h base a.srcRows a.streamEn (s.u32 (base + h.cscPerm) (lo + i)))),
        firstTaint [t0, s.taint (base + h.cscPerm + 4 * lo) (4 * (hi - lo)),
          if lo = hi then none else s.taint (base + h.indptr) (4 * (h.nDst + 1))]⟩
  else
    if h.nDst ≤ n then ⟨some [], none⟩
    else
      let ip := base + h.indptr
      let lo := s.u32 ip n
      let hi := s.u32 ip (n + 1)
      let t0 := s.taint (ip + 4 * n) 8
      if hi < lo ∨ h.nEdges < hi then ⟨none, t0⟩
      else ⟨some ((List.range (hi - lo)).map (fun i =>
          let r := s.u32 (base + h.srcLocal) (lo + i)
          ⟨lo + i, if r < a.srcRows ∨ a.streamEn then some r else none, 1⟩)),
        firstTaint [t0, if a.streamEn then none else s.taint (base + h.srcLocal + 4 * lo) (4 * (hi - lo))]⟩

/-- An edge with its operand row, none where it is dropped, and the poisoned block that row came from. -/
structure EdgeRow where
  edge : SegEdge
  row : Option Row
  taint : Option Nat
deriving DecidableEq, Repr

/-- The operand row of an edge from memory. -/
def State.edgeRow (s : State) (a : SegArgs) (e : SegEdge) : EdgeRow :=
  match e.row with
  | none => ⟨e, none, none⟩
  | some r =>
    let k := s.key a.src + r * a.srcStride
    ⟨e, some (s.rowAt a.srcF a.width k), s.taint k (rowPayload a.srcF a.width)⟩

/-- The operand row of an edge from the stream block it consumes (R190). -/
def blockRow (a : SegArgs) (e : SegEdge) (b : Taken) : EdgeRow :=
  match b with
  | .ended => ⟨{ e with row := none }, none, none⟩
  | .block bytes failed addr =>
    if e.row.isNone then ⟨e, none, none⟩
    else if failed.isSome then ⟨e, some (Row.zero a.width), none⟩
    else ⟨e, some (Row.ofMarked a.srcF a.width bytes), markedTaint addr (bytes.take (rowPayload a.srcF a.width))⟩

/-- Give the edges of a list of segments their blocks, in view order. -/
def supplyBlocks (a : SegArgs) : List Segment → List Taken → List (Option (List EdgeRow) × Option Nat)
  | [], _ => []
  | g :: r, bs =>
    match g.edges with
    | none => (none, g.taint) :: supplyBlocks a r bs
    | some es =>
      (some ((es.zip bs).map (fun p => blockRow a p.1 p.2)), g.taint) :: supplyBlocks a r (bs.drop es.length)

/-! ### SEG_REDUCE: the reductions (R179 to R189) -/

/-- A segment's results: output elements, carry records, argmax positions, alphas by position, conversions, counts, and the
first poisoned block they depend on. -/
structure SegOut where
  elems : List Elem
  accs : List (Acc × Bool)
  args : List (Nat × Bool)
  alphas : List (Nat × Elem)
  tele : Tele
  alphaTele : Tele
  count : EdgeCount
  taint : Option Nat
deriving DecidableEq, Repr

/-- What a task computes with besides its arguments: whether the header was poisoned, the job's seed, and the weights' key. -/
structure SegCtx where
  args : SegArgs
  headTaint : Option Nat
  seed : Nat
deriving DecidableEq, Repr

/-- The weight or score at index i, as FP32, with its poisoned block. -/
def State.segWeight (s : State) (a : SegArgs) (i : Nat) : Num × Option Nat :=
  let k := s.key a.weights + 4 * i
  (ofFp32 (leNat (s.mem.readN k 4)), s.taint k 4)

/-- The stochastic-rounding bits of an output element, or none (R189). -/
def SegCtx.srOf (x : SegCtx) (k c : Nat) : Option Nat :=
  if x.args.sr then some (srBits x.seed (((x.args.first + k) * x.args.width + c) % 2 ^ 48) x.args.tensorId x.args.step)
  else none

/-- One column of a SUM, MEAN or WSUM: the accumulator and the counts. -/
def sumColumn (a : SegArgs) (edges : List (EdgeRow × Num)) (old : Option Row) (rec_ : Option Acc) (c : Nat) :
    Acc × EdgeCount :=
  let terms := edges.map (fun p => match p.1.row with
    | none => Num.zero.contrib
    | some r =>
      if a.reduce = redWSUM then (p.2.mul (r.at c)).contrib
      else if a.reduce = redMEAN ∧ a.csc then ⟨r.at c, p.1.edge.den⟩
      else (r.at c).contrib)
  let all := terms ++ (match old with | some r => [(r.at c).contrib] | none => [])
  let n := all.length
  let start := match rec_ with
    | some r => r.resume a.anchor false
    | none => Acc.start (if a.explicit then a.anchor else dataAnchor all n)
  let (acc, under) := start.addAll a.explicit all
  let acc1 := acc.counted n
  (acc1, { underflow := under, anchorOvf := flag acc1.invalid })

/-- A SUM, MEAN or WSUM segment (R186). -/
def State.sumSegment (s : State) (x : SegCtx) (k : Nat) (edges : List EdgeRow) (taint : Option Nat) : SegOut :=
  let a := x.args
  let weights := edges.map (fun e => if a.reduce = redWSUM ∧ e.row.isSome then s.segWeight a e.edge.pos else (Num.zero, none))
  let outKey := s.key a.out + k * a.outStride
  let carryKey := s.key a.carry + k * a.width * 32
  let old := if a.accumulate then some (s.rowAt a.outF a.width outKey) else none
  let recs := if a.carryIn then
      some ((List.range a.width).map (fun c => parseRecord (s.mem.readN (carryKey + 32 * c) 32)))
    else none
  let wTaint := firstTaint (weights.map (·.2))
  let whole := x.headTaint.isSome || taint.isSome || wTaint.isSome
  let cols := (List.range a.width).map (fun c =>
    let r := sumColumn a (edges.zip (weights.map (·.1))) old (recs.map (fun l => l.getD c (Acc.start a.anchor))) c
    let p := whole || edges.any (fun e => (e.row.map (fun (r : Row) => r.poisonAt c)).getD false) || (old.map (fun (r : Row) => r.poisonAt c)).getD false ||
      (a.carryIn && s.mem.poisoned (carryKey + 32 * c) 32)
    (r, p))
  let rounded := cols.zipIdx.map (fun q =>
    let acc := q.1.1.1
    if a.reduce = redMEAN ∧ a.csc = false then
      if acc.count = 0 then (0, ({} : Tele)) else roundQuotient a.outF (x.srOf k q.2) acc.value acc.count 0
    else if edges.isEmpty && !a.accumulate && !a.carryIn then (0, {})
    else roundQuotient a.outF (x.srOf k q.2) acc.value 1 0)
  let live := (edges.filter (fun e => e.row.isSome)).length
  let n := edges.length + flag a.accumulate
  let own : EdgeCount :=
    { contrib := (live + flag a.accumulate) * a.width, edges := edges.length, indexRange := edges.length - live,
      reread := flag (!a.explicit && decide (segmentBuffer < n * a.width)) }
  { elems := (rounded.zip cols).map (fun q => ⟨q.1.1, q.2.2⟩), accs := cols.map (fun q => (q.1.1, q.2)), args := [],
    alphas := [], tele := if a.carryOut then {} else rounded.foldl (fun t q => t.plus q.2) {}, alphaTele := {},
    count := cols.foldl (fun t q => t.plus q.1.2) own,
    taint := firstTaint ([x.headTaint, taint] ++ edges.map (·.taint) ++ [wTaint,
      if a.accumulate then s.taint outKey (a.width * outSize a.outF) else none,
      if a.carryIn then s.taint carryKey (a.width * 32) else none]) }

/-- MAX of one column: the element and the CSR position plus one of the first NaN, else of the first largest (R187). -/
def maxColumn (edges : List (Nat × Num)) : Num × Nat :=
  match edges.find? (fun p => decide (p.2 = .nan)) with
  | some p => (.nan, p.1 + 1)
  | none =>
    match edges with
    | [] => (.zero, 0)
    | h :: r => let best := r.foldl (fun b p => if b.2.lt p.2 then p else b) h; (best.2, best.1 + 1)

/-- A MAX segment. -/
def maxSegment (x : SegCtx) (edges : List EdgeRow) (taint : Option Nat) : SegOut :=
  let a := x.args
  let live := edges.filterMap (fun e => e.row.map (fun r => (e.edge.pos, r)))
  let whole := x.headTaint.isSome || taint.isSome
  let cols := (List.range a.width).map (fun c =>
    (maxColumn (live.map (fun p => (p.1, p.2.at c))), whole || live.any (fun p => p.2.poisonAt c)))
  let rounded := cols.map (fun q => convertRne a.outF q.1.1)
  { elems := (rounded.zip cols).map (fun q => ⟨q.1.1, q.2.2⟩), accs := [], args := cols.map (fun q => (q.1.2, q.2)), alphas := [],
    tele := rounded.foldl (fun t q => t.plus q.2) {}, alphaTele := {},
    count := { contrib := live.length * a.width, edges := edges.length, indexRange := edges.length - live.length },
    taint := firstTaint ([x.headTaint, taint] ++ edges.map (·.taint)) }

/-- One head of a SOFTMAX segment: its columns' elements, its alphas, and the contributions truncated (R188). -/
structure HeadOut where
  elems : List (Nat × Tele)
  alphas : List (Nat × Tele)
  under : Nat
deriving DecidableEq, Repr

/-- The operand that names a softmax difference to the functions: its magnitude over 2^−400. -/
def diffArg (v : Num) : Nat :=
  match v with
  | .fin _ m e => m * 2 ^ (e + 400).toNat
  | _ => 0

/-- p(e) of R188: e to the exact difference of a score and the largest one, rounded once to FP32. -/
def softmaxTerm (m score : Num) : Num := let d := score.add m.neg; ofFp32 (exp32 (diffArg d) d)

/-- softmax(d, h) of R188 over a list of scores and operand rows, for columns c0 to c0 + n − 1. -/
def softmaxHead (outF : Nat) (scores : List Num) (rows : List (Option Row)) (c0 n : Nat) : HeadOut :=
  let all := fun (v : Num) => (⟨List.replicate n (convertRne outF v), List.replicate scores.length (convertRne fmtFP32 v), 0⟩ : HeadOut)
  match scores with
  | [] => all .zero
  | h :: r =>
    if scores.any (fun v => decide (v = .nan) || decide (v = .inf false)) then all .nan
    else
      let m := r.foldl (fun a b => if a.lt b then b else a) h
      if m = .inf true then all .zero
      else
        let p := scores.map (softmaxTerm m)
        let (z, uz) := windowSum (p.map Num.contrib) p.length
        match z.value with
        | .fin _ zm ze =>
          let cols := (List.range n).map (fun i =>
            let (acc, u) := windowSum ((p.zip rows).map (fun q => match q.2 with
              | some row => (q.1.mul (row.at (c0 + i))).contrib
              | none => Num.zero.contrib)) p.length
            (roundQuotient outF none acc.value zm ze, u))
          { elems := cols.map (·.1), alphas := p.map (fun v => roundQuotient fmtFP32 none v zm ze),
            under := uz + sumNat (cols.map (·.2)) }
        | _ => all .nan

/-- A SOFTMAX segment (R188). -/
def State.softmaxSegment (s : State) (x : SegCtx) (edges : List EdgeRow) (taint : Option Nat) : SegOut :=
  let a := x.args
  let n := a.width / a.heads
  let whole := x.headTaint.isSome || taint.isSome
  let rows := edges.map (·.row)
  let heads := (List.range a.heads).map (fun h =>
    let sc := edges.map (fun e => s.segWeight a (e.edge.pos * a.heads + h))
    let bad := whole || sc.any (fun p => p.2.isSome)
    let o := softmaxHead a.outF (sc.map (·.1)) rows (h * n) n
    (o, bad, firstTaint (sc.map (·.2)),
      o.elems.zipIdx.map (fun q => (⟨q.1.1, bad || edges.any (fun e => (e.row.map (·.poisonAt (h * n + q.2))).getD false)⟩ : Elem)),
      (edges.zip o.alphas).map (fun q => (q.1.edge.pos * a.heads + h, (⟨q.2.1, bad⟩ : Elem)))))
  let live := (rows.filter Option.isSome).length
  { elems := heads.flatMap (fun q => q.2.2.2.1), accs := [], args := [], alphas := heads.flatMap (fun q => q.2.2.2.2),
    tele := heads.foldl (fun t q => q.1.elems.foldl (fun u e => u.plus e.2) t) {},
    alphaTele := if a.writeAlpha then heads.foldl (fun t q => q.1.alphas.foldl (fun u e => u.plus e.2) t) {} else {},
    count := { contrib := live * a.width, edges := edges.length, indexRange := edges.length - live,
               underflow := sumNat (heads.map (fun q => q.1.under)),
               reread := flag (decide (segmentBuffer < edges.length * a.width)) },
    taint := firstTaint ([x.headTaint, taint] ++ edges.map (·.taint) ++ heads.map (fun q => q.2.2.1)) }

/-- A malformed segment: zeros, or under carry_out empty records (R185). -/
def badSegment (x : SegCtx) (taint : Option Nat) : SegOut :=
  let a := x.args
  let p := x.headTaint.isSome || taint.isSome
  { elems := List.replicate a.width ⟨0, p⟩, accs := List.replicate a.width (Acc.start a.anchor, p),
    args := List.replicate a.width (0, p), alphas := [], tele := {}, alphaTele := {}, count := { badSegment := 1 },
    taint := firstTaint [x.headTaint, taint] }

/-- A segment too large for the buffer under stream supply: canonical NaN in every element (R180). -/
def overflowSegment (x : SegCtx) (o : SegOut) : SegOut :=
  { o with elems := o.elems.map (fun e => ⟨fmtNaN x.args.outF, e.poison⟩), tele := {},
           count := { edges := o.count.edges, indexRange := o.count.indexRange, badSegment := 1 } }

/-- Segment k with its supplied rows. -/
def State.reduceSegment (s : State) (x : SegCtx) (k : Nat) (g : Option (List EdgeRow) × Option Nat) : SegOut :=
  let a := x.args
  match g.1 with
  | none => badSegment x g.2
  | some es =>
    let o := if a.reduce = redMAX then maxSegment x es g.2
      else if a.reduce = redSOFTMAX then s.softmaxSegment x es g.2
      else s.sumSegment x k es g.2
    if a.streamEn ∧ a.explicit = false ∧ a.reduce ≠ redMAX ∧ segmentBuffer < (es.length + flag a.accumulate) * a.width then
      overflowSegment x o
    else o

/-- The memory effects of segment k's results. -/
def State.segmentOps (s : State) (a : SegArgs) (k : Nat) (o : SegOut) : List MemOp :=
  (if a.carryOut then
    markedWrite (s.key a.carry + k * a.width * 32) (o.accs.flatMap (fun p => p.1.record.map (fun b => (b, p.2))))
   else writeRow (s.key a.out + k * a.outStride) a.outF a.outStride o.elems) ++
  (if a.argmax then markedWrite (s.key a.aux + k * a.width * 4) (o.args.flatMap (fun p => (leBytes 4 p.1).map (fun b => (b, p.2))))
   else []) ++
  (if a.writeAlpha then o.alphas.flatMap (fun p => markedWrite (s.key a.aux + p.1 * 4) (packMarked fmtFP32 [p.2])) else [])

/-- The result of a SEG_REDUCE from the segments with their rows. -/
def State.segResult (s : State) (t : Task) (segs : List (Option (List EdgeRow) × Option Nat)) : Result :=
  let a := parseSeg t.args
  let x : SegCtx := { args := a, headTaint := s.taint (s.key a.mfb) 64, seed := s.seed t.job }
  let outs := segs.zipIdx.map (fun p => s.reduceSegment x p.2 p.1)
  let c := outs.foldl (fun n o => n.plus o.count) ({} : EdgeCount)
  { ops := outs.zipIdx.flatMap (fun p => s.segmentOps a p.2 p.1),
    bumps := c.bumps t.runTile ++ teleBumps a.outF (outs.foldl (fun n o => n.plus o.tele) {}) ++
      teleBumps fmtFP32 (outs.foldl (fun n o => n.plus o.alphaTele) {}),
    events := c.events t.runTile, poisonAt := firstTaint (outs.map (·.taint)) }

/-- The segments of a task. -/
def State.segments (s : State) (a : SegArgs) : List Segment :=
  let h := parseFlow (s.readAddr a.mfb 64)
  (List.range a.count).map (s.segment a h)

/-- A SEG_REDUCE's run with operand rows from memory. -/
def State.segRun (s : State) (t : Task) : Result :=
  let a := parseSeg t.args
  if a.width = 0 ∨ a.count = 0 then {}
  else s.segResult t ((s.segments a).map (fun g => (g.edges.map (fun es => es.map (s.edgeRow a)), g.taint)))

/-- A SEG_REDUCE's run with the stream blocks it took: a failed block ends it, or is suppressed (R99, R190). -/
def State.segStream (s : State) (t : Task) (segs : List Segment) (blocks : List Taken) : Result :=
  let a := parseSeg t.args
  match blocks.findSome? (Taken.ends t.speculative) with
  | some e => s.endedByBlock e (a.outs (parseFlow (s.readAddr a.mfb 64)))
  | none => { s.segResult t (supplyBlocks a segs blocks) with suppressed := failedBlocks blocks }

/-- SEG_REDUCE as an engine step: under stream supply one block is taken for every edge visited, in view order, and the task
waits for them. -/
def State.segStep (s : State) (id : TaskId) (remote : List RemoteReply) : State :=
  match s.runningTask? id engEDGE 2 with
  | some t =>
    let a := parseSeg t.args
    if a.streamEn ∧ a.width ≠ 0 then
      let segs := s.segments a
      let n := sumNat (segs.map (fun g => (g.edges.map (·.length)).getD 0))
      s.consumeStep t a.stream remote n (fun s1 l => s1.segStream t segs l)
    else s.applyResult t (s.segRun t)
  | none => s

/-- SEG_REDUCE (R186). -/
def execSegReduce (id : TaskId) (remote : List RemoteReply) (s : State) : Host.Outcome State Fault Refusal :=
  perform (.segReduce id remote) (s.segStep id remote)

/-! ### SCATTER_ADD (R192, R193) -/

/-- A SCATTER_ADD argument block. -/
structure ScatterArgs where
  srcF : Nat
  outF : Nat
  explicit : Bool
  sr : Bool
  compact : Bool
  zeroFill : Bool
  accumulate : Bool
  weighted : Bool
  width : Nat
  count : Nat
  targetRows : Nat
  idx : Nat
  src : Nat
  srcStride : Nat
  outStride : Nat
  weights : Nat
  out : Nat
  outBound : Nat
  scratchBytes : Nat
  scratch : Nat
  outList : Nat
  nOut : Nat
  anchor : Int
  tensorId : Nat
  step : Nat
deriving DecidableEq, Repr

/-- A SCATTER_ADD argument block from its bytes. -/
def parseScatter (b : List Byte) : ScatterArgs :=
  let b1 := fieldLe b 1 1
  let b2 := fieldLe b 2 1
  { srcF := bits b1 7 4, outF := bits b1 3 0, explicit := bit b2 5, sr := bit b2 4, compact := bit b2 3, zeroFill := bit b2 2,
    accumulate := bit b2 1, weighted := bit b2 0, width := fieldLe b 4 4, count := fieldLe b 8 4, targetRows := fieldLe b 0xC 4,
    idx := fieldLe b 0x10 8, src := fieldLe b 0x18 8, srcStride := fieldLe b 0x20 4, outStride := fieldLe b 0x24 4,
    weights := fieldLe b 0x28 8, out := fieldLe b 0x30 8, outBound := fieldLe b 0x38 4, scratchBytes := fieldLe b 0x3C 4,
    scratch := fieldLe b 0x40 8, outList := fieldLe b 0x48 8, nOut := fieldLe b 0x50 8,
    anchor := toSigned 16 (fieldLe b 0x58 2), tensorId := fieldLe b 0x5C 4, step := fieldLe b 0x60 4 }

/-- The input ranges. -/
def ScatterArgs.ins (a : ScatterArgs) : List Range :=
  [{ addr := a.idx, len := 4 * a.count, read := true }, { addr := a.src, len := a.count * a.srcStride, read := true }] ++
    (if a.weighted then [{ addr := a.weights, len := 4 * a.count, read := true }] else [])

/-- The output rows. -/
def ScatterArgs.outRange (a : ScatterArgs) : Range :=
  { addr := a.out, len := (if a.compact then a.count else a.targetRows) * a.outStride, read := a.accumulate, write := true }

/-- The outputs besides scratch. -/
def ScatterArgs.outs (a : ScatterArgs) : List Range :=
  a.outRange :: (if a.compact then
    [{ addr := a.outList, len := 4 * a.count, write := true }, { addr := a.nOut, len := 4, write := true }] else [])

/-- The work buffer. -/
def ScatterArgs.scratchRange (a : ScatterArgs) : Range := { addr := a.scratch, len := a.scratchBytes, read := true, write := true }

/-- SCATTER_ADD's checks (R176, R192). -/
def State.scatterCheck (s : State) (t : Task) : Nat :=
  let a := parseScatter t.args
  if 8 ≤ a.srcF ∨ 3 ≤ a.outF then stFORMAT
  else if a.width = 0 ∨ a.count = 0 then stOK
  else firstFailure
    [failIf ((a.compact && (a.accumulate || a.zeroFill)) || (a.sr && decide (a.outF = fmtFP32)) ||
      decide (a.srcStride % 64 ≠ 0) || decide (a.srcStride < rowPayload a.srcF a.width) || decide (a.outStride % 64 ≠ 0) ||
      decide (a.outStride < a.width * outSize a.outF) || decide (a.out % 64 ≠ 0) || decide (a.scratch % 64 ≠ 0) ||
      s.clash (a.scratchRange :: a.outs) a.ins || s.clash [a.scratchRange] a.outs) stFORMAT,
     s.vetRanges t.job (a.ins ++ a.outs ++ [a.scratchRange])
      [(a.outRange.len, a.outBound), (16 * a.count, a.scratchBytes)]]

/-- A value row that goes to a target: its index, row, weight and poisoned block. -/
structure ValueRow where
  target : Nat
  row : Row
  weight : Num
  whole : Bool
  taint : Option Nat
deriving DecidableEq, Repr

/-- Value row i. -/
def State.valueRow (s : State) (a : ScatterArgs) (i : Nat) : ValueRow :=
  let ik := s.key a.idx + 4 * i
  let sk := s.key a.src + i * a.srcStride
  let wk := s.key a.weights + 4 * i
  let wt := if a.weighted then s.taint wk 4 else none
  { target := leNat (s.mem.readN ik 4), row := s.rowAt a.srcF a.width sk, weight := ofFp32 (leNat (s.mem.readN wk 4)),
    whole := s.mem.poisoned ik 4 || wt.isSome,
    taint := firstTaint [s.taint ik 4, wt, s.taint sk (rowPayload a.srcF a.width)] }

/-- The row of a target that value rows touched: its elements with their conversions, and the counts. -/
def State.scatterTarget (s : State) (a : ScatterArgs) (seed target : Nat) (rows : List ValueRow) :
    List (Elem × Tele) × EdgeCount :=
  let outKey := s.key a.out + target * a.outStride
  let old := if a.accumulate then some (s.rowAt a.outF a.width outKey) else none
  let n := rows.length + flag a.accumulate
  let cols := (List.range a.width).map (fun c =>
    let terms := rows.map (fun r => (if a.weighted then r.weight.mul (r.row.at c) else r.row.at c).contrib) ++
      (match old with | some r => [(r.at c).contrib] | none => [])
    let (acc, under) := (Acc.start (if a.explicit then a.anchor else dataAnchor terms n)).addAll a.explicit terms
    let sr := if a.sr then some (srBits seed ((target * a.width + c) % 2 ^ 48) a.tensorId a.step) else none
    let (code, tele) := roundQuotient a.outF sr acc.value 1 0
    let p := rows.any (fun r => r.whole || r.row.poisonAt c) || (old.map (fun (r : Row) => r.poisonAt c)).getD false
    (((⟨code, p⟩ : Elem), tele), under, flag acc.invalid))
  (cols.map (·.1),
    { contrib := n * a.width, underflow := sumNat (cols.map (·.2.1)), anchorOvf := sumNat (cols.map (·.2.2)),
      reread := flag (!a.explicit && decide (segmentBuffer < n * a.width)) })

/-- SCATTER_ADD's run (R193). -/
def State.scatterRun (s : State) (t : Task) : Result :=
  let a := parseScatter t.args
  if a.width = 0 ∨ a.count = 0 then {}
  else
    let all := (List.range a.count).map (s.valueRow a)
    let rows := all.filter (fun r => decide (r.target < a.targetRows))
    let targets := rows.foldl (fun l r => insertNat r.target l) []
    let done := targets.map (fun g => (g, s.scatterTarget a (s.seed t.job) g (rows.filter (fun r => decide (r.target = g)))))
    let own : EdgeCount :=
      { edges := a.count, indexRange := a.count - rows.length, merged := rows.length - targets.length }
    let c := done.foldl (fun n d => n.plus d.2.2) own
    let listPoison := s.mem.poisoned (s.key a.idx) (4 * a.count)
    let rowKey := fun i => s.key a.out + i * a.outStride
    { ops := (if a.zeroFill then ((List.range a.targetRows).filter (fun g => !targets.contains g)).map
          (fun g => MemOp.zero (rowKey g) a.outStride) else []) ++
        done.zipIdx.flatMap (fun p => writeRow (rowKey (if a.compact then p.2 else p.1.1)) a.outF a.outStride (p.1.2.1.map (·.1))) ++
        (if a.compact then
          markedWrite (s.key a.outList) ((targets.flatMap (leBytes 4)).map (fun b => (b, listPoison))) ++
          markedWrite (s.key a.nOut) ((leBytes 4 targets.length).map (fun b => (b, listPoison))) else []) ++
        [.undefinedBytes (s.key a.scratch) a.scratchBytes s.free],
      draws := 1,
      bumps := c.bumps t.runTile ++ teleBumps a.outF (done.foldl (fun n d => d.2.1.foldl (fun m e => m.plus e.2) n) {}),
      events := c.events t.runTile,
      poisonAt := firstTaint (all.map (·.taint) ++ (if a.accumulate then
        targets.map (fun g => s.taint (rowKey g) (a.width * outSize a.outF)) else [])) }

/-- SCATTER_ADD (R193). -/
def execScatterAdd (id : TaskId) (s : State) : Host.Outcome State Fault Refusal :=
  perform (.scatterAdd id) (s.engineStep id engEDGE 3 s.scatterRun)

/-! ### INTERSECT (R194, R195) -/

/-- An INTERSECT argument block. -/
structure IntersectArgs where
  emit : Bool
  key64 : Bool
  pairs : Nat
  pairTable : Nat
  counts : Nat
  keys : Nat
  outPerPair : Nat
deriving DecidableEq, Repr

/-- An INTERSECT argument block from its bytes. -/
def parseIntersect (b : List Byte) : IntersectArgs :=
  let f := fieldLe b 1 1
  { emit := bit f 1, key64 := bit f 0, pairs := fieldLe b 4 4, pairTable := fieldLe b 8 8, counts := fieldLe b 0x10 8,
    keys := fieldLe b 0x18 8, outPerPair := fieldLe b 0x20 4 }

/-- The ranges of the pair table, the counts and the keys. -/
def IntersectArgs.ranges (a : IntersectArgs) : List Range :=
  [{ addr := a.pairTable, len := 32 * a.pairs, read := true }, { addr := a.counts, len := 4 * a.pairs, write := true }] ++
    (if a.emit then [{ addr := a.keys, len := a.pairs * a.outPerPair * indexBytes a.key64, write := true }] else [])

/-- INTERSECT's checks at dispatch. -/
def State.intersectCheck (s : State) (t : Task) : Nat :=
  let a := parseIntersect t.args
  if a.pairs = 0 then stOK
  else firstFailure
    [failIf (decide (a.pairTable % 32 ≠ 0) || s.clash (a.ranges.drop 1) (a.ranges.take 1)) stFORMAT,
     s.vetRanges t.job a.ranges []]

/-- The merge of R195: matches counted, and the first out_per_pair of them. -/
def mergeLists (limit : Nat) : Nat → List Nat → List Nat → Nat → List Nat → Nat × List Nat × Nat
  | 0, _, _, steps, out => (0, out, steps)
  | _, [], _, steps, out => (0, out, steps)
  | _, _, [], steps, out => (0, out, steps)
  | fuel + 1, x :: xs, y :: ys, steps, out =>
    if x < y then mergeLists limit fuel xs (y :: ys) (steps + 1) out
    else if y < x then mergeLists limit fuel (x :: xs) ys (steps + 1) out
    else
      let r := mergeLists limit fuel xs ys (steps + 1) (if out.length < limit then out ++ [x] else out)
      (r.1 + 1, r.2.1, r.2.2)

/-- Positions where a key falls below its predecessor. -/
def descents : List Nat → Nat
  | x :: y :: r => flag (decide (y < x)) + descents (y :: r)
  | _ => 0

/-- A list of keys that a pair names: its status, keys and poisoned block. -/
def State.intersectList (s : State) (job : Nat) (key64 : Bool) (addr len : Nat) : Nat × List Nat × Option Nat :=
  let n := len * indexBytes key64
  let r : Range := { addr := addr, len := n, read := true }
  if len = 0 then (stOK, [], none)
  else if 4 ≤ addrSpace addr ∨ s.rangeAccess job r ≠ stOK then (stACCESS, [], none)
  else if s.rangeBound job r ≠ stOK then (stBOUND, [], none)
  else
    let k := s.key addr
    let b := s.mem.readN k n
    (stOK, (List.range len).map (fun i =>
      let v := fieldLe b (i * indexBytes key64) (indexBytes key64)
      if key64 then bits v 47 0 else v), s.taint k n)

/-- What the pairs merged so far gave. -/
structure IntersectRun where
  status : Nat := 0
  ops : List MemOp := []
  count : EdgeCount := {}
  suppressed : Nat := 0
  taint : Option Nat := none
deriving DecidableEq, Repr

/-- Merge pair i. -/
def State.intersectPair (s : State) (t : Task) (a : IntersectArgs) (r : IntersectRun) (i : Nat) : IntersectRun :=
  if r.status ≠ stOK then r
  else
    let pk := s.key a.pairTable + 32 * i
    let e := s.mem.readN pk 32
    let (sa, la, ta) := s.intersectList t.job a.key64 (fieldLe e 0 8) (fieldLe e 8 4)
    let (sb, lb, tb) := s.intersectList t.job a.key64 (fieldLe e 0x10 8) (fieldLe e 0xC 4)
    let st := firstFailure [sa, sb]
    if st ≠ stOK ∧ t.speculative = false then { r with status := st }
    else
      let limit := if a.emit then a.outPerPair else 0
      let (n, out, steps) := mergeLists limit (la.length + lb.length) la lb 0 []
      let tp := firstTaint [s.taint pk 32, ta, tb]
      let mark := fun (l : List Byte) => l.map (fun b => (b, tp.isSome))
      { r with
        ops := r.ops ++ markedWrite (s.key a.counts + 4 * i) (mark (leBytes 4 n)) ++
          markedWrite (s.key a.keys + i * a.outPerPair * indexBytes a.key64) (mark (out.flatMap (leBytes (indexBytes a.key64)))),
        count := r.count.plus { contrib := steps, unsorted := descents la + descents lb },
        suppressed := r.suppressed + flag (decide (sa ≠ stOK)) + flag (decide (sb ≠ stOK)),
        taint := firstTaint [r.taint, tp] }

/-- The memory an INTERSECT may write. -/
def State.rangeKeys (s : State) (rs : List Range) : List (Nat × Nat) := (rs.filter (·.write)).map (fun r => (s.key r.addr, r.len))

/-- INTERSECT's run: a list that fails ends it, and the outputs written by then are undefined (R194). -/
def State.intersectRun (s : State) (t : Task) : Result :=
  let a := parseIntersect t.args
  if a.pairs = 0 then {}
  else
    let r := (List.range a.pairs).foldl (s.intersectPair t a) {}
    if r.status ≠ stOK then
      let outs := r.ops.map MemOp.range
      { status := r.status, ops := undefinedOps outs s.free, draws := outs.length, bumps := r.count.bumps t.runTile }
    else
      { ops := r.ops, bumps := r.count.bumps t.runTile, suppressed := r.suppressed, poisonAt := r.taint }

/-- INTERSECT (R195). -/
def execIntersect (id : TaskId) (s : State) : Host.Outcome State Fault Refusal :=
  perform (.intersect id) (s.engineStep id engEDGE 4 s.intersectRun)

/-! ### Dispatch of ops 0x01 to 0x04 -/

/-- Bytes of the argument block of an EDGE op; reserved ops have 0 (R175). -/
def edgeArgBytes (op : Nat) : Nat :=
  if op = 1 ∨ op = 4 then 64 else if op = 2 ∨ op = 3 then 128 else if 0x20 ≤ op ∧ op ≤ 0x24 then 64 else 0

/-- The ranges an EDGE op of this file reads, as its block gives them. -/
def State.edgeIns (s : State) (t : Task) : List (Nat × Nat) :=
  let keys := fun (rs : List Range) => rs.map (fun r => (s.key r.addr, r.len))
  match fieldLe t.args 0 1 with
  | 1 =>
    let a := parseGather t.args
    if a.rowBytes = 0 ∨ a.count = 0 ∨ a.streamEn then []
    else [(s.key a.idx, a.count * indexBytes a.idx64), (s.key a.src, a.srcRows * a.srcStride)]
  | 2 =>
    let a := parseSeg t.args
    if a.width = 0 ∨ a.count = 0 then [] else keys (a.ins (parseFlow (s.readAddr a.mfb 64)))
  | 3 =>
    let a := parseScatter t.args
    if a.width = 0 ∨ a.count = 0 then [] else keys a.ins
  | 4 => keys ((parseIntersect t.args).ranges.take 1)
  | _ => []

/-- The ranges an EDGE op of this file may write. -/
def State.edgeOuts (s : State) (t : Task) : List (Nat × Nat) :=
  match fieldLe t.args 0 1 with
  | 1 =>
    let a := parseGather t.args
    if a.rowBytes = 0 then [] else [(s.key a.out, a.count * a.outStride)]
  | 2 =>
    let a := parseSeg t.args
    if a.width = 0 then [] else s.rangeKeys (a.outs (parseFlow (s.readAddr a.mfb 64)))
  | 3 =>
    let a := parseScatter t.args
    if a.width = 0 ∨ a.count = 0 then [] else s.rangeKeys (a.scratchRange :: a.outs)
  | 4 => s.rangeKeys (parseIntersect t.args).ranges
  | _ => []

end Sys2Proof.Machine
end

