-- ==== Sys2Proof/Machine/Arrays.lean ====
section
/-!
DEFINITION. The matrix arrays (09, 10): the PRODUCT block and its checks, stored operands, the pre-scan, passes, windowed-exact
accumulation, drains, carry pieces, the wide-and-shallow arrangement, and products over compressed tiles.
-/

namespace Sys2Proof.Machine

/-! ### Operand pairs (R166, R199, R209) -/

/-- What an operand pair gives: K-tile multiple, row interval, and MACs per cell per cycle as a ratio. -/
structure PairRate where
  mult : Nat
  interval : Nat
  rateNum : Nat
  rateDen : Nat
deriving DecidableEq, Repr

/-- E4M3 or E5M2. -/
def isFp8 (f : Nat) : Bool := f == fmtE4M3 || f == fmtE5M2

/-- E3M2 or E2M1. -/
def isFp6or4 (f : Nat) : Bool := f == fmtE3M2 || f == fmtE2M1

/-- BF16 or FP16. -/
def isHalf (f : Nat) : Bool := f == fmtBF16 || f == fmtFP16

/-- The rate of an operand pair; none: not a pair of R166. -/
def pairRate (a b : Nat) : Option PairRate :=
  if (isFp8 a && isFp8 b) || (a == fmtINT8 && b == fmtINT8) || (isFp6or4 a && isFp8 b) || (isFp8 a && isFp6or4 b) then
    some ⟨1, 1, 1, 1⟩
  else if isFp6or4 a && isFp6or4 b then some ⟨2, 1, 2, 1⟩
  else if isHalf a && isHalf b then some ⟨1, 2, 1, 2⟩
  else if a == fmtFP32 && b == fmtFP32 then some ⟨1, 16, 1, 16⟩
  else none

/-- e(fmt) of R209: every finite element times its scale is below 2^(scale − 127 + e). -/
def formatRise : Nat → Int
  | 3 => 9
  | 4 => 16
  | 5 => 5
  | 6 => 3
  | 7 => 8
  | _ => 1

/-! ### Stored operands (R161, R202, R203, R221 to R223) -/

/-- A stored operand of count lines of total reduction elements: its keys and formats. -/
structure Operand where
  f : Nat
  key : Nat
  scales : Nat
  summary : Nat
  blockBase : Nat
  count : Nat
  total : Nat
  /-- STATIONARY: the lines are columns, and the reduction runs down them. -/
  stationary : Bool
  /-- Stored compressed (R221). -/
  compressed : Bool
deriving DecidableEq, Repr

/-- K tiles of an operand. -/
def Operand.kTiles (o : Operand) : Nat := ceilDiv o.total 128

/-- The stream index of block b of line r (R161). -/
def Operand.blockIndex (o : Operand) (r b : Nat) : Nat := if o.stationary then b * o.count + r else r * (o.total / 32) + b

/-- The data tile that holds element k of line r, and its line and lane in it (R202). -/
def Operand.place (o : Operand) (r k : Nat) : Nat × Nat × Nat :=
  let tile := r / 128 * o.kTiles + k / 128
  if o.stationary then (tile, k % 128, r % 128) else (tile, (r % 128 + k % 128) % 128, k % 128)

/-- The key of a lane of a line of a data tile. -/
def laneKey (f key line lane : Nat) : Nat := key + line * (tileBytesOf f / 128) + lane * fmtBits f / 8

/-- The code of the element whose lane lies at a key. -/
def State.laneCode (s : State) (f key lane : Nat) : Nat :=
  let v := leNat (s.mem.readN key (ceilDiv (fmtBits f) 8))
  if f = fmtE2M1 then v / 16 ^ (lane % 2) % 16 else if f = fmtE3M2 then v % 64 else v

/-- Pairs per column tile of a compressed operand. -/
def Operand.pairs (o : Operand) : Nat := ceilDiv o.kTiles 2

/-- The key of slot (c, p) of a compressed operand (R221). -/
def Operand.slotKey (o : Operand) (c p : Nat) : Nat := o.key + (c * o.pairs + p) * slotBytes o.f

/-- The metadata nibble of group g and lane q of a slot (R223). -/
def State.slotNibble (s : State) (f slot g q : Nat) : Nat :=
  leNat (s.mem.readN (slot + 0x40 + tileBytesOf f + g * 64 + q / 2) 1) / 16 ^ (q % 2) % 16

/-- The dense flag of a slot's header (R222). -/
def State.slotDense (s : State) (slot : Nat) : Bool := bit (leNat (s.mem.readN (slot + 5) 1)) 0

/-- Element k of line r of a compressed operand: from the data tiles of a dense slot, else the value whose index names its
position, the second of two equal indices dropped (R223, R231). -/
def State.slotCode (s : State) (o : Operand) (r k : Nat) : Nat :=
  let slot := o.slotKey (r / 128) (k / 256)
  let q := r % 128
  let at_ := fun (base line : Nat) => s.laneCode o.f (laneKey o.f base line q) q
  if s.slotDense slot then at_ (slot + 0x40 + k % 256 / 128 * tileBytesOf o.f) (k % 128)
  else
    let g := k % 256 / 4
    let nib := s.slotNibble o.f slot g q
    let i := k % 4
    if nib % 4 = i then at_ (slot + 0x40) (2 * g) else if nib / 4 = i then at_ (slot + 0x40) (2 * g + 1) else 0

/-- Element k of line r. -/
def State.operandCode (s : State) (o : Operand) (r k : Nat) : Nat :=
  if o.compressed then s.slotCode o r k
  else
    let (tile, line, lane) := o.place r k
    s.laneCode o.f (laneKey o.f (o.key + tile * tileBytesOf o.f) line lane) lane

/-- The poisoned block that element k of line r is read from, if it is poisoned. -/
def State.operandTaint (s : State) (o : Operand) (r k : Nat) : Option Nat :=
  if o.compressed then
    let slot := o.slotKey (r / 128) (k / 256)
    let q := r % 128
    let at_ := fun (base line : Nat) => s.taint (laneKey o.f base line q) 1
    if s.slotDense slot then firstTaint [s.taint slot 64, at_ (slot + 0x40 + k % 256 / 128 * tileBytesOf o.f) (k % 128)]
    else
      let g := k % 256 / 4
      firstTaint [s.taint slot 64, s.taint (slot + 0x40 + tileBytesOf o.f + g * 64 + q / 2) 1, at_ (slot + 0x40) (2 * g),
        at_ (slot + 0x40) (2 * g + 1)]
  else
    let (tile, line, lane) := o.place r k
    s.taint (laneKey o.f (o.key + tile * tileBytesOf o.f) line lane) (ceilDiv (fmtBits o.f) 8)

/-- A block of 32 elements as the array consumes it: element values, the exponent of its scale, and a NaN block. -/
structure OpBlock where
  vals : List Num
  exp : Int
  nan : Bool
deriving DecidableEq, Repr

/-- A line of blocks, with the first poisoned block it was read from. -/
structure OpLine where
  blocks : List OpBlock
  taint : Option Nat
deriving DecidableEq, Repr

/-- The scale-stream entry of block b of line r: scale and tag. -/
def State.scaleEntry (s : State) (o : Operand) (r b : Nat) : Nat × Nat :=
  let e := s.mem.readN (o.scales + 2 * o.blockIndex r b) 2
  (fieldLe e 0 1, fieldLe e 1 1)

/-- Block b of line r. -/
def State.opBlock (s : State) (o : Operand) (r b : Nat) : OpBlock :=
  let vals := (List.range 32).map (fun i =>
    if 32 * b + i < o.total then decodeElem o.f (s.operandCode o r (32 * b + i)) else .zero)
  if fmtNarrow o.f then let sc := (s.scaleEntry o r b).1; ⟨vals, (sc : Int) - 127, decide (sc = 0xFF)⟩ else ⟨vals, 0, false⟩

/-- Line r over blocks b0 to b1 − 1. -/
def State.opLine (s : State) (o : Operand) (b0 b1 r : Nat) : OpLine :=
  let bs := (List.range (b1 - b0)).map (· + b0)
  { blocks := bs.map (s.opBlock o r),
    taint := firstTaint (bs.flatMap (fun b => (List.range 32).map (fun i => s.operandTaint o r (32 * b + i)))) }

/-- The values of a block with their scale applied. -/
def OpBlock.scaled (b : OpBlock) : List Num := b.vals.map (fun v => if b.nan then .nan else v.scale b.exp)

/-- The block that scale_block gives. -/
def OpBlock.ofScaled (f : Nat) (x : Scaled) : OpBlock :=
  ⟨x.codes.map (decodeElem f), (x.scale : Int) - 127, decide (x.scale = 0xFF)⟩

/-- The rotation unit: a line rotated in groups of n and re-scaled in blocks of 32 (R165). -/
def rotateOpLine (f n : Nat) (l : OpLine) : OpLine × List Scaled :=
  let groups := chunks n (l.blocks.flatMap OpBlock.scaled)
  let blocks := (groups.flatMap (fun g => chunks 32 (hadamard g))).map (fun v => scaleBlock v f 1 .rne)
  (⟨blocks.map (OpBlock.ofScaled f), l.taint⟩, blocks)

/-- block_term of R167: exact, NaN where either block has scale 0xFF. -/
def blockTerm (x w : OpBlock) : Num :=
  if x.nan || w.nan then .nan
  else (((x.vals.zip w.vals).map (fun p => p.1.mul p.2)).foldl Num.add .zero).scale (x.exp + w.exp)

/-- Accumulate the block terms of two lines (R211). -/
def accumulate (start : Acc) (x w : List OpBlock) : Acc × Nat :=
  start.addAll false ((x.zip w).map (fun p => (blockTerm p.1 p.2).contrib))

/-! ### Summaries and anchors (R163, R209) -/

/-- What the arrays read of a summary entry. -/
structure SummaryEntry where
  maxScale : Nat
  minScale : Nat
  rot : Nat
  tag : Nat
deriving DecidableEq, Repr

/-- Entry t of a summary. -/
def State.summaryEntry (s : State) (key t : Nat) : SummaryEntry :=
  let b := s.mem.readN (key + 16 * t) 4
  ⟨fieldLe b 0 1, fieldLe b 1 1, bits (fieldLe b 2 1) 2 1, fieldLe b 3 1⟩

/-- The largest exponent bound of the pairs of summaries along a reduction; none where no pair has non-zero elements in
both. -/
def bestSignificance (pairs : List (SummaryEntry × SummaryEntry)) (rise : Int) : Option Int :=
  pairs.foldl (fun best p =>
    if p.1.minScale = 0xFF ∨ p.2.minScale = 0xFF then best
    else
      let sig := (p.1.maxScale : Int) - 127 + ((p.2.maxScale : Int) - 127) + rise
      some (match best with | none => sig | some b => max b sig)) none

/-- An anchor from the bound and the number of reduction elements. -/
def anchorOf (best : Option Int) (total : Nat) : Int :=
  match best with
  | none => 0
  | some b => b + 2 + ceilLog2 total

/-- anchor(rt, ct) of R209. -/
def State.productAnchor (s : State) (x w : Operand) (rotLog2 : Nat) (rt ct : Nat) : Int :=
  let pairs := (List.range x.kTiles).map (fun j =>
    (s.summaryEntry x.summary (rt * x.kTiles + j), s.summaryEntry w.summary (ct * w.kTiles + j)))
  anchorOf (bestSignificance pairs (formatRise x.f + formatRise w.f + rotLog2)) x.total

/-! ### The PRODUCT argument block (R203, R205) -/

/-- The fields of a PRODUCT or PRODUCT_SPARSE argument block. -/
structure ProductArgs where
  op : Nat
  xF : Nat
  wF : Nat
  outKind : Nat
  outF : Nat
  outLayout : Nat
  carryOut : Bool
  carryIn : Bool
  wTrans : Bool
  xTrans : Bool
  rot : Nat
  m : Nat
  k : Nat
  n : Nat
  kFirst : Nat
  kTotal : Nat
  x : Nat
  xScales : Nat
  xSummary : Nat
  w : Nat
  wScales : Nat
  wSummary : Nat
  out : Nat
  outStride : Nat
  outBound : Nat
  outScales : Nat
  outSummary : Nat
  carry : Nat
  xBase : Nat
  wBase : Nat
  outBase : Nat
  tensorId : Nat
  step : Nat
deriving DecidableEq, Repr

/-- A PRODUCT argument block from its 128 bytes. -/
def parseProduct (b : List Byte) : ProductArgs :=
  let b1 := fieldLe b 1 1
  let b2 := fieldLe b 2 1
  let b3 := fieldLe b 3 1
  let w := fun o => fieldLe b o 4
  { op := fieldLe b 0 1, xF := bits b1 7 4, wF := bits b1 3 0, outKind := bits b2 6 4, outF := bits b2 3 0,
    outLayout := bits b3 7 6, carryOut := bit b3 5, carryIn := bit b3 4, wTrans := bit b3 3, xTrans := bit b3 2,
    rot := bits b3 1 0, m := w 4, k := w 8, n := w 0xC, kFirst := w 0x10, kTotal := w 0x14, x := w 0x18, xScales := w 0x1C,
    xSummary := w 0x20, w := w 0x24, wScales := w 0x28, wSummary := w 0x2C, out := w 0x30, outStride := w 0x34,
    outBound := w 0x38, outScales := w 0x3C, outSummary := w 0x40, carry := w 0x44, xBase := w 0x48, wBase := w 0x4C,
    outBase := w 0x50, tensorId := w 0x54, step := w 0x58 }

/-- Reserved encodings (R6). -/
def ProductArgs.reserved (a : ProductArgs) : Bool :=
  decide (8 ≤ a.xF) || decide (8 ≤ a.wF) || decide (8 ≤ a.outF) || decide (a.outLayout = 3) || decide (6 ≤ a.outKind)

/-- Nothing to multiply (R205). -/
def ProductArgs.empty (a : ProductArgs) : Bool := decide (a.m = 0) || decide (a.k = 0) || decide (a.n = 0)

/-- One tile's part of a product: the store it reads and writes, its columns, and the first of them in the whole product. -/
structure Slice where
  tile : Nat
  cols : Nat
  first : Nat
deriving DecidableEq, Repr

/-- The slices of an array task: one, or one for each tile of its wide-and-shallow group (R216). -/
def State.slices (s : State) (t : Task) (n : Nat) : List Slice :=
  match s.wideGroupOf? t with
  | none => [⟨t.tile, n, 0⟩]
  | some g =>
    let tiles := maskTiles g.mask
    tiles.zipIdx.map (fun p => ⟨p.1, n / tiles.length, p.2 * (n / tiles.length)⟩)

/-- The tile whose store holds X: the task's own, or the group's lowest (R216). -/
def State.xTile (s : State) (t : Task) : Nat :=
  match s.wideGroupOf? t with
  | none => t.tile
  | some g => (maskTiles g.mask).headD t.tile

/-- X of a product. -/
def ProductArgs.opX (a : ProductArgs) (tile : Nat) : Operand :=
  { f := a.xF, key := tileKey tile a.x, scales := tileKey tile a.xScales, summary := tileKey tile a.xSummary,
    blockBase := a.xBase, count := a.m, total := a.kTotal, stationary := a.xTrans, compressed := false }

/-- W of a slice. -/
def ProductArgs.opW (a : ProductArgs) (sl : Slice) : Operand :=
  { f := a.wF, key := tileKey sl.tile a.w, scales := tileKey sl.tile a.wScales, summary := tileKey sl.tile a.wSummary,
    blockBase := a.wBase, count := sl.cols, total := a.kTotal, stationary := !a.wTrans, compressed := decide (a.op = 2) }

/-- Bytes of an operand's data. -/
def Operand.bytes (o : Operand) : Nat :=
  if o.compressed then ceilDiv o.count 128 * o.pairs * slotBytes o.f else ceilDiv o.count 128 * o.kTiles * tileBytesOf o.f

/-- Bytes of an operand's scale stream; wide formats carry none. -/
def Operand.scaleBytes (o : Operand) : Nat := if fmtNarrow o.f then streamBytes (o.count * (o.total / 32)) else 0

/-- Bytes of an operand's summary. -/
def Operand.summaryBytes (o : Operand) : Nat := 16 * (ceilDiv o.count 128 * o.kTiles)

/-- The global address of a store offset of a tile. -/
def State.storeAddr (s : State) (tile off : Nat) : Nat := globalAddr (s.node?.getD 0) 1 (tile * 2 ^ 25 + off)

/-- The input ranges of a slice. -/
def State.productIns (s : State) (a : ProductArgs) (xTile : Nat) (sl : Slice) : List Range :=
  let x := a.opX xTile
  let w := a.opW sl
  let r := fun (tile off len : Nat) => ({ addr := s.storeAddr tile off, len := len, read := true } : Range)
  [r xTile a.x x.bytes, r xTile a.xScales x.scaleBytes, r xTile a.xSummary x.summaryBytes, r sl.tile a.w w.bytes,
    r sl.tile a.wScales w.scaleBytes, r sl.tile a.wSummary w.summaryBytes]

/-- The carry range of a slice. -/
def State.productCarry (s : State) (a : ProductArgs) (sl : Slice) : Range :=
  { addr := s.storeAddr sl.tile a.carry, len := if a.carryIn || a.carryOut then 32 * a.m * sl.cols else 0, read := a.carryIn,
    write := a.carryOut }

/-- Bytes of a slice's output. -/
def ProductArgs.outBytes (a : ProductArgs) (cols : Nat) : Nat :=
  if a.outLayout = 0 then a.m * a.outStride else ceilDiv a.m 128 * ceilDiv cols 128 * tileBytesOf a.outF

/-- The output ranges of a slice without its carry records; a piece with carry_out has none (R205). -/
def State.productOuts (s : State) (a : ProductArgs) (sl : Slice) : List Range :=
  if a.carryOut then []
  else
    let r := fun (off len : Nat) => ({ addr := s.storeAddr sl.tile off, len := len, write := true } : Range)
    [r a.out (a.outBytes sl.cols), r a.outScales (if fmtNarrow a.outF then streamBytes (a.m * (sl.cols / 32)) else 0),
      r a.outSummary (16 * (ceilDiv a.m 128 * ceilDiv sl.cols 128))]

/-- A store offset with a bit above the tile store. -/
def badOffset (o : Nat) : Bool := decide (2 ^ 25 ≤ o)

/-- An output of a slice overlaps an input of it; carry records read and written in place may (R205). -/
def State.productClash (s : State) (a : ProductArgs) (xTile : Nat) (sl : Slice) : Bool :=
  let ins := s.productIns a xTile sl
  let carry := s.productCarry a sl
  s.clash (s.productOuts a sl) (ins ++ (if a.carryIn then [carry] else [])) || (a.carryOut && s.clash [carry] ins)

/-- The FORMAT checks of R205 and R228. -/
def State.productFormat (s : State) (t : Task) (a : ProductArgs) : Bool :=
  let narrow := fmtNarrow a.outF
  let last := decide (a.kFirst + a.k = a.kTotal)
  let sl := s.slices t a.n
  (pairRate a.xF a.wF).isNone ||
    (if narrow then !(a.outKind == 1 || a.outKind == 2 || a.outKind == 3 || a.outKind == 5) || !kindAllows a.outKind a.outF ||
        decide (a.n % 32 ≠ 0) else decide (a.outKind ≠ 0)) ||
    (decide (a.outLayout = 0) && (fmtBelow8 a.outF || (!a.carryOut &&
      (decide (a.outStride % 64 ≠ 0) || decide (a.outStride < elemBytes a.outF a.n))))) ||
    decide (a.kTotal % 32 ≠ 0) || decide (a.kTotal < a.kFirst + a.k) || decide (a.kFirst % 512 ≠ 0) ||
    (decide (a.k % 512 ≠ 0) && !last) || decide (a.carryIn ≠ decide (0 < a.kFirst)) || decide (a.carryOut ≠ !last) ||
    (decide (a.rot ≠ 0) && (!fmtNarrow a.xF || !fmtNarrow a.wF || decide (a.kTotal % (16 * 2 ^ a.rot) ≠ 0))) ||
    [a.x, a.xScales, a.xSummary, a.w, a.wScales, a.wSummary, a.carry].any badOffset ||
    (!a.carryOut && [a.out, a.outScales, a.outSummary].any badOffset) ||
    ((a.carryIn || a.carryOut) && decide (a.carry % 64 ≠ 0)) ||
    (match s.wideGroupOf? t with
      | some g => decide (a.n % (128 * (maskTiles g.mask).length) ≠ 0)
      | none => false) ||
    (decide (a.op = 2) && (a.wTrans || decide (a.wF = fmtFP32))) || sl.any (s.productClash a (s.xTile t))

/-- PRODUCT's and PRODUCT_SPARSE's checks at dispatch (R205, R228). -/
def State.productCheck (s : State) (t : Task) : Nat :=
  let a := parseProduct t.args
  let op := fieldLe t.args 0 1
  if (op ≠ 1 ∧ op ≠ 2) ∨ a.reserved then stFORMAT
  else if a.empty then stOK
  else
    let sl := s.slices t a.n
    let rs := sl.flatMap (fun x => s.productIns a (s.xTile t) x ++ s.productOuts a x ++ [s.productCarry a x])
    firstFailure [failIf (s.productFormat t a) stFORMAT,
      s.vetRanges t.job rs (if a.carryOut then [] else sl.map (fun x => (a.outBytes x.cols, a.outBound)))]

/-- The slots that a PRODUCT_SPARSE task reads, which no other task may write while it is live (R233). -/
def State.slotReads (s : State) (t : Task) : List (Nat × Nat) :=
  let a := parseProduct t.args
  if a.empty ∨ a.op ≠ 2 then []
  else (s.slices t a.n).map (fun sl => let w := a.opW sl; (w.key, w.bytes))

/-- The memory a product may write. -/
def State.productWrites (s : State) (t : Task) : List (Nat × Nat) :=
  let a := parseProduct t.args
  if a.empty then []
  else (s.slices t a.n).flatMap (fun x => s.rangeKeys (s.productOuts a x ++ [s.productCarry a x]))

/-! ### The pre-scan (R162, R207, R229) -/

/-- The blocks of the piece. -/
def ProductArgs.blocks (a : ProductArgs) : List Nat := (List.range (a.k / 32)).map (· + a.kFirst / 32)

/-- Every scale-stream entry of an operand's lines over some blocks: line and block. -/
def entryList (lines : List Nat) (blocks : List Nat) : List (Nat × Nat) := lines.flatMap (fun r => blocks.map (fun b => (r, b)))

/-- A scale-stream tag that is not the one its place asks for. -/
def State.skewed (s : State) (o : Operand) (used : List (Nat × Nat)) : Bool :=
  fmtNarrow o.f && used.any (fun p => decide ((s.scaleEntry o p.1 p.2).2 ≠ (o.blockBase + o.blockIndex p.1 p.2) % 256))

/-- A scale-stream entry that is poisoned. -/
def State.entryPoison (s : State) (o : Operand) (used : List (Nat × Nat)) : Bool :=
  fmtNarrow o.f && s.mem.poisoned o.scales o.scaleBytes &&
    used.any (fun p => s.mem.poisoned (o.scales + 2 * o.blockIndex p.1 p.2) 2)

/-- A summary tag that is not its entry's number. -/
def State.summarySkewed (s : State) (key : Nat) (entries : List Nat) : Bool :=
  entries.any (fun t => decide ((s.summaryEntry key t).tag ≠ t % 256))

/-- A summary whose rot is not the one the instruction names. -/
def State.summaryRot (s : State) (key rot : Nat) (entries : List Nat) : Bool :=
  entries.any (fun t => decide ((s.summaryEntry key t).rot ≠ rot))

/-- A summary entry that is poisoned. -/
def State.summaryPoison (s : State) (key : Nat) (entries : List Nat) : Bool := entries.any (fun t => s.mem.poisoned (key + 16 * t) 16)

/-- A slot header that fails R229. -/
def State.badSlot (s : State) (o : Operand) (c p : Nat) : Bool :=
  let h := s.mem.readN (o.slotKey c p) 64
  let dense := bit (fieldLe h 5 1) 0
  let realK := Nat.min 256 (o.total - 256 * p)
  let used := fieldLe h 0x10 4
  decide (fieldLe h 0 4 ≠ 0x50535451) || decide (bits (fieldLe h 4 1) 3 0 ≠ o.f) || decide (fieldLe h 8 4 ≠ p) ||
    decide (fieldLe h 0xC 4 ≠ c) || decide (fieldLe h 6 2 ≠ realK) ||
    (if dense then decide (used < 64 + ceilDiv realK 128 * tileBytesOf o.f) else decide (used < 64 + tileBytesOf o.f + 4096))

/-- The pairs of a piece. -/
def ProductArgs.pairRange (a : ProductArgs) : List Nat := (List.range (ceilDiv a.k 256)).map (· + a.kFirst / 256)

/-- The pre-scan of one slice: PARITY, SCALE_SKEW, FORMAT. -/
def State.prescanSlice (s : State) (a : ProductArgs) (xTile : Nat) (sl : Slice) : Nat :=
  let x := a.opX xTile
  let w := a.opW sl
  let ux := entryList (List.range x.count) a.blocks
  let uw := entryList (List.range w.count) a.blocks
  let tx := List.range (ceilDiv x.count 128 * x.kTiles)
  let tw := List.range (ceilDiv w.count 128 * w.kTiles)
  firstFailure
    [failIf (s.entryPoison x ux || s.entryPoison w uw || s.summaryPoison x.summary tx || s.summaryPoison w.summary tw) stPARITY,
     failIf (s.skewed x ux || s.skewed w uw || s.summarySkewed x.summary tx || s.summarySkewed w.summary tw) stSCALE_SKEW,
     failIf (s.summaryRot x.summary 0 tx || s.summaryRot w.summary a.rot tw ||
       (w.compressed && (List.range (ceilDiv w.count 128)).any (fun c => a.pairRange.any (fun p => s.badSlot w c p)))) stFORMAT]

/-- The pre-scan of a product. -/
def State.productScan (s : State) (t : Task) : Nat :=
  let a := parseProduct t.args
  firstFailure ((s.slices t a.n).map (s.prescanSlice a (s.xTile t)))

/-- A task that the pre-scan ended: nothing is written; a tag mismatch is counted and posted (R162). -/
def scanFailed (status : Nat) : Result :=
  if status = stSCALE_SKEW then
    { status := status, bumps := [(Reg.TEL_CNT_SCALE_SKEW, 1)], events := [(Reg.TEL_EVENT_scale_skew, 0xFF, 0)] }
  else { status := status }

/-! ### Passes (R199, R200, R206, R218, R230) -/

/-- One pass: its streaming cycles, its MACs, whether the sparse array runs it, and the data tiles turned for it. -/
structure Pass where
  cycles : Nat
  macs : Nat
  sparse : Bool
  turned : Nat
deriving DecidableEq, Repr

/-- The depth of the arrays for a task (R198, R217). -/
def State.depth (s : State) (t : Task) : Nat :=
  match s.wideGroupOf? t with
  | some g => if s.wideGroup g then 64 else 128
  | none => 128

/-- Sizes of n cut into pieces of d. -/
def pieceSizes (n d : Nat) : List Nat := (List.range (ceilDiv n d)).map (fun i => Nat.min d (n - d * i))

/-- A weight tile of a pass: its reduction elements, its columns, and whether it is stored compressed. -/
structure WeightTile where
  k : Nat
  cols : Nat
  sparse : Bool
deriving DecidableEq, Repr

/-- The weight tiles of a pair of a compressed operand over the columns of a pass, from column tile ct on. The dense flag of each
slot decides its passes (R230); where the two column tiles of a 256-column pass differ in it, each runs passes of its own (log
entry 44). -/
def State.pairTiles (s : State) (a : ProductArgs) (w : Operand) (depth ct cols p : Nat) : List WeightTile :=
  let realK := Nat.min 256 (a.kTotal - 256 * p)
  let tiles := fun (n : Nat) (dense : Bool) =>
    (pieceSizes realK (if dense then depth else 2 * depth)).map (fun k => (⟨k, n, !dense⟩ : WeightTile))
  let d0 := s.slotDense (w.slotKey ct p)
  if cols ≤ 128 ∨ s.slotDense (w.slotKey (ct + 1) p) = d0 then tiles cols d0 else tiles 128 d0 ++ tiles (cols - 128) (!d0)

/-- The weight tiles of a piece over the columns of a pass, from column tile ct on. -/
def State.kPasses (s : State) (a : ProductArgs) (w : Operand) (rate : PairRate) (depth ct cols : Nat) : List WeightTile :=
  if w.compressed then a.pairRange.flatMap (s.pairTiles a w depth ct cols)
  else (pieceSizes a.k (depth * rate.mult)).map (fun k => ⟨k, cols, false⟩)

/-- The passes of one slice, in the order of R200. The transposing buffer turns, for a pass, every data tile of X and of W that
the pass reads (R208, log entry 44). -/
def State.slicePasses (s : State) (a : ProductArgs) (depth : Nat) (sl : Slice) : List Pass :=
  match pairRate a.xF a.wF with
  | none => []
  | some rate =>
    let width := 16384 / depth
    (pieceSizes a.m 512).flatMap (fun rows => (pieceSizes sl.cols width).zipIdx.flatMap (fun c =>
      (s.kPasses a (a.opW sl) rate depth (c.2 * width / 128) c.1).map (fun x =>
        { cycles := rows * rate.interval,
          macs := if x.sparse then rows * (32768 * rate.rateNum) / rate.rateDen else rows * x.k * x.cols,
          sparse := x.sparse,
          turned := ceilDiv x.k 128 * (flag a.xTrans * ceilDiv rows 128 + flag a.wTrans * ceilDiv x.cols 128) })))

/-- The counter bumps of passes on a slot of a tile. -/
def passBumps (slotB : Bool) (tile : Nat) (l : List Pass) : List (Field × Nat) :=
  let cycles := sumNat (l.map (·.cycles))
  let macs := sumNat (l.map (·.macs))
  [(if slotB then Reg.TIL_ARR_CNT_BUSY_B tile else Reg.TIL_ARR_CNT_BUSY_A tile, cycles),
   (if slotB then Reg.TIL_ARR_CNT_MAC_B tile else Reg.TIL_ARR_CNT_MAC_A tile, macs),
   (Reg.TIL_ARR_CNT_TRANSPOSED tile, sumNat (l.map (·.turned))),
   (Reg.TIL_ARR_CNT_SPARSE_TILES tile, (l.filter (·.sparse)).length)]

/-- The tile whose arrays run a slice: its own, or the substitute of a retired one (R217, R349). -/
def State.sliceRunner (s : State) (t : Task) (sl : Slice) : Nat :=
  if (s.wideGroupOf? t).isSome then t.sliceTile sl.tile else t.runTile

/-- The bumps of a task's passes that a selection keeps, over its slices. -/
def State.productPassBumps (s : State) (t : Task) (keep : List Pass → List Pass) : List (Field × Nat) :=
  let a := parseProduct t.args
  (s.slices t a.n).flatMap (fun sl =>
    passBumps (decide (t.desc.engine = engARRAY_B)) (s.sliceRunner t sl) (keep (s.slicePasses a (s.depth t) sl)))

/-! ### Products and drains (R211 to R214) -/

/-- The accumulator of an output element, the block terms truncated, whether a carry record did not fit, and the poison it
depends on. -/
structure Cell where
  acc : Acc
  under : Nat
  mismatch : Bool
  poison : Bool
deriving DecidableEq, Repr

/-- Start an element from its carry record: the anchor, the count and the invalid bit must fit (R214). -/
def carryStart (rec_ : Acc) (anchor : Int) (count : Nat) : Acc × Bool :=
  let a := rec_.resume anchor (decide (rec_.count ≠ count))
  (a, a.invalid)

/-- Element (r, c) of a product over the piece: x and w are the lines, record the carry record if the piece starts from
one. -/
def productCell (anchor : Int) (kFirst k : Nat) (x w : OpLine) (record : Option (Acc × Bool)) : Cell :=
  let (start, bad) := match record with
    | some r => carryStart r.1 anchor kFirst
    | none => (Acc.start anchor, false)
  let (acc, under) := accumulate start x.blocks w.blocks
  ⟨{ acc with count := kFirst + k }, under, bad, x.taint.isSome || w.taint.isSome || (record.map (·.2)).getD false⟩

/-- What a drain writes (R204, R213): memory effects, conversions, scaled blocks and the elements written as NaN or
infinity. -/
structure DrainOut where
  ops : List MemOp
  tele : List (Nat × Tele)
  blocks : List BlockStat
  nonfinite : Nat
deriving DecidableEq, Repr

/-- A wide output: each accumulator rounded once into its format. -/
def drainWide (f : Nat) (cells : List (List Cell)) : List (List StoredElem) × Tele × Nat :=
  let rows := cells.map (fun r => r.map (fun c =>
    let (code, t) := roundQuotient f none c.acc.value 1 0
    ((⟨⟨code, c.poison⟩, 0, decide (t.vanish ≠ 0)⟩ : StoredElem), t)))
  (rows.map (fun r => r.map (·.1)), rows.foldl (fun a r => r.foldl (fun b x => b.plus x.2) a) {},
    sumNat (rows.map (fun r => (r.filter (fun x => !(decodeElem f x.1.elem.code).isFinite)).length)))

/-- A narrow output: each accumulator rounded into FP32, then blocks of 32 adjacent columns scaled (R157, R213). -/
def drainNarrow (f kind : Nat) (bitsOf : Nat → Nat → Nat) (cells : List (List Cell)) : List ConvertedLine × Tele :=
  let rows := cells.map (fun r => r.map (fun c =>
    let (code, t) := roundQuotient fmtFP32 none c.acc.value 1 0
    ((⟨ofFp32 code, code, c.poison⟩ : SourceElem), t)))
  (rows.zipIdx.map (fun p => scaleLine f kind (decide (kind = 2)) (bitsOf p.2) (p.1.map (·.1))),
    rows.foldl (fun a r => r.foldl (fun b x => b.plus x.2) a) {})

/-- The drain of one slice. -/
def State.drain (s : State) (t : Task) (a : ProductArgs) (sl : Slice) (cells : List (List Cell)) : DrainOut :=
  let outKey := tileKey sl.tile a.out
  let lay := fun (m : List (List StoredElem)) =>
    let e := m.map (fun r => r.map (·.elem))
    if a.outLayout = 2 then layoutOps 2 a.outF outKey 0 sl.cols a.m (transposeLists sl.cols Elem.zero e)
    else layoutOps a.outLayout a.outF outKey a.outStride a.m sl.cols e
  let summ := fun (scaled : Bool) (m : List (List StoredElem)) =>
    markedWrite (tileKey sl.tile a.outSummary) (summaryBytes a.outF scaled 0 0 a.m sl.cols m)
  if fmtNarrow a.outF then
    let seed := s.seed t.job
    let bitsOf := fun r c => srBits seed ((32 * a.outBase + r * a.n + (sl.first + c)) % 2 ^ 48) a.tensorId a.step
    let (lines, t32) := drainNarrow a.outF a.outKind bitsOf cells
    let elems := lines.map (·.elems)
    let scales := if a.outLayout = 2 then (transposeLists (sl.cols / 32) (0, false) (lines.map (·.scales))).flatten
      else lines.flatMap (·.scales)
    { ops := lay elems ++ scaleStreamOps (tileKey sl.tile a.outScales) a.outBase (s.free + sl.first) scales ++ summ true elems,
      tele := [(fmtFP32, t32), (a.outF, lines.foldl (fun x l => x.plus l.tele) {})], blocks := lines.flatMap (·.stats),
      nonfinite := 32 * (scales.filter (fun x => decide (x.1 = 0xFF))).length }
  else
    let (elems, tele, bad) := drainWide a.outF cells
    { ops := lay elems ++ summ false elems, tele := [(a.outF, tele)], blocks := [], nonfinite := bad }

/-- The X lines of a piece, rotated where the task names rotation, with the blocks that the rotation unit scaled. -/
def State.xLines (s : State) (a : ProductArgs) (xTile : Nat) : List OpLine × List Scaled :=
  let x := a.opX xTile
  let b0 := a.kFirst / 32
  let lines := (List.range a.m).map (s.opLine x b0 (b0 + a.k / 32))
  if a.rot = 0 then (lines, [])
  else
    let r := lines.map (rotateOpLine a.xF (16 * 2 ^ a.rot))
    (r.map (·.1), r.flatMap (·.2))

/-- The nibble of a group without elements: the positions 0 and 1 (R226). -/
def emptyNibble : Nat := 4

/-- The faults that one loading of a nibble counts: DUP_INDEX, and INDEX_RANGE where it names a row beyond the operand. A group
that lies wholly beyond it holds what the compressor writes for no elements, which is no malformed metadata (R231, log entry 44). -/
def nibbleFaults (kTotal first nib : Nat) : Nat × Nat :=
  let i0 := nib % 4
  let i1 := nib / 4
  let beyond := fun i => decide (kTotal ≤ first + i)
  if kTotal ≤ first ∧ nib = emptyNibble then (0, 0)
  else (flag (decide (i0 = i1)), flag (beyond i0) + flag (decide (i0 ≠ i1) && beyond i1))

/-- DUP_INDEX and INDEX_RANGE of one loading of each group that the sparse passes of a slice load, at a depth (R230, R231). -/
def State.slotFaults (s : State) (a : ProductArgs) (w : Operand) (depth : Nat) : Nat × Nat :=
  let all := (List.range (ceilDiv w.count 128)).flatMap (fun c => a.pairRange.flatMap (fun p =>
    let slot := w.slotKey c p
    let loaded := roundUp (Nat.min 256 (a.kTotal - 256 * p)) (2 * depth) / 4
    if s.slotDense slot then []
    else (List.range loaded).flatMap (fun g => (List.range 128).map (fun q =>
      nibbleFaults a.kTotal (256 * p + 4 * g) (s.slotNibble w.f slot g q)))))
  (sumNat (all.map (·.1)), sumNat (all.map (·.2)))

/-- One slice of a product: its cells, row by row. -/
def State.sliceCells (s : State) (a : ProductArgs) (xTile : Nat) (xs : List OpLine) (sl : Slice) : List (List Cell) :=
  let w := a.opW sl
  let b0 := a.kFirst / 32
  let ws := (List.range sl.cols).map (s.opLine w b0 (b0 + a.k / 32))
  let carry := tileKey sl.tile a.carry
  let rotLog2 := if a.rot = 0 then 0 else a.rot + 4
  let anchors := (List.range (ceilDiv a.m 128)).map (fun rt =>
    (List.range (ceilDiv sl.cols 128)).map (fun ct => s.productAnchor (a.opX xTile) w rotLog2 rt ct))
  xs.zipIdx.map (fun x => ws.zipIdx.map (fun y =>
    let rk := carry + (x.2 * sl.cols + y.2) * 32
    productCell ((anchors.getD (x.2 / 128) []).getD (y.2 / 128) 0) a.kFirst a.k x.1 y.1
      (if a.carryIn then some (parseRecord (s.mem.readN rk 32), s.mem.poisoned rk 32) else none)))

/-- The result of one slice: memory effects, bumps, events, blocks. -/
def State.sliceResult (s : State) (t : Task) (a : ProductArgs) (xTile : Nat) (xs : List OpLine) (sl : Slice) : Result :=
  let cells := s.sliceCells a xTile xs sl
  let all := cells.flatten
  let tile := s.sliceRunner t sl
  let mism := (all.filter (·.mismatch)).length
  let faults := if a.op = 2 then s.slotFaults a (a.opW sl) (s.depth t) else (0, 0)
  let loads := ceilDiv a.m 512
  let d := if a.carryOut then
      { ops := markedWrite (tileKey sl.tile a.carry) (all.flatMap (fun c => c.acc.record.map (fun b => (b, c.poison)))),
        tele := [], blocks := [], nonfinite := 0 }
    else s.drain t a sl cells
  { ops := d.ops, draws := sl.cols,
    bumps := [(Reg.TIL_ARR_CNT_WINDOW_UNDERFLOW tile, sumNat (all.map (·.under))), (Reg.TIL_ARR_CNT_NONFINITE tile, d.nonfinite),
      (Reg.TIL_ARR_CNT_CARRY_MISMATCH tile, mism), (Reg.TIL_SPR_CNT_DUP_INDEX tile, loads * faults.1),
      (Reg.TIL_SPR_CNT_INDEX_RANGE tile, loads * faults.2)] ++ d.tele.flatMap (fun p => teleBumps p.1 p.2),
    events := (if mism = 0 then [] else [(Reg.TIL_ARR_EVENT_carry_mismatch tile, tile, 0)]) ++
      (if d.nonfinite = 0 then [] else [(Reg.TIL_ARR_EVENT_nonfinite tile, tile, 0)]) ++
      (if faults.1 = 0 then [] else [(Reg.TIL_SPR_EVENT_dup_index tile, tile, 0)]),
    blocks := d.blocks,
    poisonAt := if all.any (·.poison) then
      firstTaint (xs.map (·.taint) ++ (List.range sl.cols).map (fun c =>
        (s.opLine (a.opW sl) (a.kFirst / 32) (a.kFirst / 32 + a.k / 32) c).taint) ++
        [if a.carryIn then s.taint (tileKey sl.tile a.carry) (32 * a.m * sl.cols) else none]) else none }

/-- Several results of one task as one. -/
def Result.append (a b : Result) : Result :=
  { status := if a.status = stOK then b.status else a.status, ops := a.ops ++ b.ops, bumps := a.bumps ++ b.bumps,
    raises := a.raises ++ b.raises, events := a.events ++ b.events, blocks := a.blocks ++ b.blocks,
    poisonAt := a.poisonAt.orElse (fun _ => b.poisonAt), suppressed := a.suppressed + b.suppressed, draws := a.draws + b.draws }

/-- A product's run (R200 to R217): the pre-scan, whose checks stand once a pass has started (R233), the passes that have not
started yet, the sums and the drains. -/
def State.productRun (s : State) (t : Task) : Result :=
  let a := parseProduct t.args
  if a.empty then {}
  else if t.passes = 0 ∧ s.productScan t ≠ stOK then scanFailed (s.productScan t)
  else
    let xTile := s.xTile t
    let (xs, rotated) := s.xLines a xTile
    let slices := s.slices t a.n
    let turns := sumNat (slices.map (fun sl => ceilDiv sl.cols (16384 / s.depth t)))
    let rot := List.replicate turns rotated |>.flatten
    let head : Result :=
      { bumps := s.productPassBumps t (fun l => l.drop t.passes) ++
          teleBumps a.xF (rot.foldl (fun x b => x.plus b.tele) {}),
        blocks := rot.map (·.stat) }
    slices.foldl (fun r sl => r.append (s.sliceResult t a xTile xs sl)) head

/-- The ops of the two array classes: an ARRAY_A or ARRAY_B task of an op. -/
def State.arrayStep (s : State) (id : TaskId) (op : Nat) (run : Task → Result) : State :=
  match s.task? id with
  | some t => if t.desc.engine = engARRAY_B then s.engineStep id engARRAY_B op run else s.engineStep id engARRAY_A op run
  | none => s

/-- PRODUCT (R200). -/
def execProduct (id : TaskId) (s : State) : Host.Outcome State Fault Refusal :=
  perform (.product id) (s.arrayStep id 1 s.productRun)

/-- PRODUCT_SPARSE's run: the product over a compressed W (R228 to R232). -/
def State.productSparseRun (s : State) (t : Task) : Result := s.productRun t

/-- PRODUCT_SPARSE (R228). -/
def execProductSparse (id : TaskId) (s : State) : Host.Outcome State Fault Refusal :=
  perform (.productSparse id) (s.arrayStep id 2 s.productSparseRun)

end Sys2Proof.Machine
end

