-- ==== Sys2Proof/Machine/Fabric.lean ====
section
/-!
DEFINITION. The commands of the torus links: flits and control flits (R271 to R276), packets that arrive and pass (R277 to
R281), breaks (R279), training and identity (R294, R295, R419), the Chart check (R296), the widths of R297 and the timers
(R274, R292, R284).
-/

namespace Sys2Proof.Machine

/-! ### Responses and arrival (R277, R280, R281) -/

/-- The operations of the collectives: the spec names no response of theirs (R282, R314 to R319). -/
def collectiveOps : List Nat :=
  [pktBAR_UP, pktBAR_DOWN, pktBCAST_DATA, pktFIX_UP, pktFIX_DOWN, pktRESET_DOWN, pktRESET_UP]

/-- Whether a packet is a request that has a response (R280, R281, R282): those of the collectives have none
(DESIGN CHOICE, log entry 24). -/
def Packet.answered (k : Packet) : Bool := Packet.isRequest k && !collectiveOps.contains k.op

/-- The response of a request with a status and no data; a LIST_GET's stands for all its rows. -/
def State.responseTo (s : State) (k : Packet) (status : Nat) : Packet :=
  { Packet.blank with
    dst := k.src, src := s.node?.getD 0, jobId := k.jobId, op := responseOp k.op, tc := 2, status := status, seq := k.seq,
    addr := Config.responseAddr k.addr k.seq % 2 ^ 64,
    arg0 := if k.op = pktLIST_GET then k.length / 8 % 65536 * 65536 else 0 }

/-- Answer a request with a status and no data; a packet without a response gets none. -/
def State.respond (s : State) (k : Packet) (status : Nat) : State :=
  if Packet.answered k then s.sendPacket (s.responseTo k status) else s

/-- The header of a packet has arrived on a VC of a port: it is for this module, goes on by another port at once (R278), or
is discarded, unreachable or of a reserved op (R277, R280, R281). A link that is not UP delivers class 0 only. Its flit
keeps its credit while the packet is here or waits to leave. -/
def State.headerArrives (s : State) (p vc : Nat) (k : Packet) : State × Course :=
  if !s.portCarries p k.tc then (s.freeFlits p vc 1, .away)
  else match s.route k.dst k.tc with
    | none => (((s.freeFlits p vc 1).bump Reg.FAB_CNT_UNREACHABLE 1).respond k stTRUNC, .away)
    | some (some q) =>
      let kept := if q / 2 = p / 2 then k.dateline else 0
      ((s.bump Reg.FAB_CNT_TRANSIT 1).startTransit q p vc { k with dateline := if s.wraps q then 1 else kept }, .via q)
    | some none =>
      if packetOps.contains k.op then (s, .here)
      else (((s.freeFlits p vc 1).bump Reg.FAB_CNT_BAD_HEADER 1).respond k stFORMAT, .away)

/-- Take a packet from the inbox, giving back its credit; one that came without flits is not there. -/
def State.takeIn (s : State) (k : Packet) : State :=
  match s.fabric.inbox.find? (fun a => decide (a.packet = k)) with
  | some a => { s with fabric := { s.fabric with inbox := s.fabric.inbox.erase a } }.freeArrival a
  | none => s

/-! ### The receiving side (R272, R274, R275) -/

/-- A flit of any type has arrived on a port. -/
def State.heard (s : State) (p : Nat) : State := s.setPort p { s.port p with lastFlitAt := s.now }

/-- Send a NAK for the expected flit (R274). -/
def State.sendNak (s : State) (p : Nat) : State :=
  (s.setPort p { s.port p with nakAt := some s.now }).sendControl p
    (leBytes 1 2 ++ leBytes 1 0 ++ leBytes 2 (s.port p).rxExpected)

/-- A discarded flit: a NAK, unless one is outstanding (R274). -/
def State.discardFlit (s : State) (p : Nat) : State := if (s.port p).nakAt.isSome then s else s.sendNak p

/-- Send an ACK_CREDIT: the last flit accepted, and the flits of each VC freed (R273, R274). -/
def State.sendAck (s : State) (p : Nat) : State :=
  let x := s.port p
  (s.setPort p { x with rxSinceAck := 0, lastAckAt := s.now }).sendControl p
    (leBytes 1 1 ++ leBytes 1 0 ++ leBytes 2 ((x.rxExpected + 65535) % 65536) ++ x.rxFreed.flatMap (leBytes 2))

/-- A VC of a port has no open packet any more. -/
def State.dropOpen (s : State) (p vc : Nat) : State :=
  s.setPort p { s.port p with open_ := (s.port p).open_.filter (fun q => !decide (q.vc = vc)) }

/-- A VC of a port has this open packet. -/
def State.putOpen (s : State) (p : Nat) (o : OpenPacket) : State :=
  (s.dropOpen p o.vc).setPort p { (s.dropOpen p o.vc).port p with open_ := ((s.dropOpen p o.vc).port p).open_ ++ [o] }

/-- A packet's flits so far are kept; with its last one it is open no more, and one for this module reaches the inbox. -/
def State.keepOpen (s : State) (p : Nat) (o : OpenPacket) : State :=
  let n := payloadBytes o.header.op o.header.length
  if o.got < n then s.putOpen p o
  else
    let s1 := s.dropOpen p o.vc
    match o.course with
    | .here =>
      { s1 with fabric := { s1.fabric with
          inbox := s1.fabric.inbox ++ [⟨{ o.header with payload := o.data.take n }, p, o.vc, o.flits⟩] } }
    | _ => s1

/-- An open packet is given up: the flits of it that are still here are discarded and their credits freed, it is counted, and
a request is answered with TRUNC, unless it has had its answer already (R280, R281, R292). -/
def State.truncatePacket (s : State) (p : Nat) (o : OpenPacket) : State :=
  let s1 := ((s.dropOpen p o.vc).freeFlits p o.vc o.flits).bump (Reg.FAB_P_CNT_TRUNC p) 1
  match o.course with
  | .here => s1.respond o.header stTRUNC
  | .via q => (s1.stopTransit q p o.vc).respond o.header stTRUNC
  | .away => s1

/-- A header flit opens a packet on its VC; a header without payload is the whole packet. A packet that was still open there
cannot go on, since a packet's flits are contiguous (R276): it is given up (DESIGN CHOICE, log entry 22). -/
def State.headerFlit (s : State) (p vc tag : Nat) (content : List Byte) : State :=
  let s1 := match (s.port p).open_.find? (fun o => decide (o.vc = vc)) with
    | some o => s.truncatePacket p o
    | none => s
  let k := parseHeader content
  let (s2, course) := s1.headerArrives p vc k
  s2.keepOpen p ⟨vc, tag, k, course, 0, [], if course = .here then 1 else 0, s.now⟩

/-- A data flit goes to the open packet of its VC and tag, and from there on, or away; another is an orphan (R293). -/
def State.dataFlit (s : State) (p vc tag : Nat) (content : List Byte) : State :=
  match (s.port p).open_.find? (fun o => decide (o.vc = vc) && decide (o.tag = tag)) with
  | none => (s.freeFlits p vc 1).bump (Reg.FAB_P_CNT_ORPHAN p) 1
  | some o =>
    let o1 := { o with got := o.got + 60, lastAt := s.now }
    match o.course with
    | .here => s.keepOpen p { o1 with data := o.data ++ content, flits := o.flits + 1 }
    | .via q => (s.transitFlit q p vc (content.take (payloadBytes o.header.op o.header.length - o.got))).keepOpen p o1
    | .away => (s.freeFlits p vc 1).keepOpen p o1

/-- A header or data flit is accepted in sequence (R274). -/
def State.acceptFlit (s : State) (p unitType : Nat) (flit : List Byte) : State :=
  let x := s.port p
  let b := fieldLe flit 0x3C 1
  let s1 := (s.setPort p { x with rxExpected := (x.rxExpected + 1) % 65536, rxSinceAck := x.rxSinceAck + 1,
                                  nakAt := none }).bump (Reg.FAB_P_CNT_RX p) 1
  let s2 := if unitType = 2 then s1.headerFlit p (bits b 3 0) (bits b 7 4) (flit.take 60)
    else s1.dataFlit p (bits b 3 0) (bits b 7 4) (flit.take 60)
  if 64 ≤ (s2.port p).rxSinceAck then s2.sendAck p else s2

/-! ### Control flits (R273) -/

/-- ACK_CREDIT: replay entries up to ack_seq are freed and the peer's freed counts taken (R274, R275). -/
def State.onAckCredit (s : State) (p ackSeq : Nat) (freed : List Nat) : State :=
  let x := s.port p
  let n := (ackSeq + 1 + 65536 - x.replayFirst % 65536) % 65536
  let y := { x with txFreed := freed.map (· % 65536) }
  let z := if 0 < n ∧ n ≤ x.replay.length then
      { y with replay := x.replay.drop n, replayFirst := (x.replayFirst + n) % 65536, lastProgressAt := s.now }
    else y
  (s.setPort p z).pump p

/-- Resend flits of the replay buffer from number n on. -/
def State.resend (s : State) (p n : Nat) : State :=
  let x := s.port p
  let l := (x.replay.drop n).zipIdx
  (l.foldl (fun a f => a.emit (.flit p ((x.replayFirst + n + f.2) % 65536) (unitValue f.1.unitType f.1.bytes))) s).bump
    (Reg.FAB_P_CNT_REPLAY p) l.length

/-- NAK: resend from the named flit on; the eighth consecutive NAK for one number retrains the link (R274). -/
def State.onNak (s : State) (p expected : Nat) : State :=
  let x := s.port p
  let run := if x.nakRun ≠ 0 ∧ x.nakSeq = expected then x.nakRun + 1 else 1
  if 8 ≤ run then s.linkDown p 9
  else
    let n := (expected + 65536 - x.replayFirst % 65536) % 65536
    let s1 := s.setPort p { x with nakRun := run, nakSeq := expected }
    if n < x.replay.length then s1.resend p n else s1

/-! ### Identity (R295, R419) and the Chart check (R296) -/

/-- The node ID that a module reports: COORD node_id of the active Chart, 0xFFFF when none. -/
def State.reportedNode (s : State) : Nat := s.node?.getD 0xFFFF

/-- The link statement of this end, signed by the key store (R411, R419). -/
def State.linkStatement (s : State) (p : Nat) : List Byte :=
  let x := s.port p
  let m := leBytes 4 0x4E444951 ++ sliceBytes s.boot.publicKey 0 57 ++ leBytes 1 p ++ leBytes 2 s.reportedNode ++
    x.ownNonce ++ x.peerNonce
  m ++ edSign 0 s.boot.privateKey (ascii "QTS-860 Link") m

/-- Send an identity part in an IDENT flit. -/
def State.sendIdent (s : State) (p part : Nat) (content : List Byte) : State :=
  s.sendControl p (leBytes 1 4 ++ leBytes 1 part ++ leBytes 2 0 ++ content)

/-- Send the five parts of this end's statement. -/
def State.sendStatement (s : State) (p : Nat) : State :=
  (chunks 56 (s.linkStatement p)).zipIdx.foldl (fun a c => a.sendIdent p (c.2 + 1) c.1) s

/-- CHART part 0 or 1 (R273). -/
def State.chartPart (s : State) (part : Nat) : List Byte :=
  let common := sliceBytes ((s.chart.map (·.commonDigest)).getD []) (32 * part) 32
  leBytes 1 6 ++ leBytes 1 part ++
    (if part = 0 then
      leBytes 2 s.chtState ++ leBytes 2 s.reportedNode ++ leBytes 2 0 ++ leBytes 8 ((s.chart.map (·.systemId)).getD 0)
    else List.replicate 14 0) ++ common

/-- Send both CHART parts on a port. -/
def State.sendChart (s : State) (p : Nat) : State :=
  let s1 := (s.sendControl p (s.chartPart 0)).sendControl p (s.chartPart 1)
  s1.setPort p { s1.port p with chartSentAt := s.now }

/-- The coordinates that the peer of a port must report (R296). -/
def State.peerFits (s : State) (p node : Nat) : Bool := decide (node = s.neighbour p)

/-- The first failing reason of the Chart check, 0 where all holds (R296). -/
def State.chartReason (s : State) (p : Nat) : Nat :=
  let x := s.port p
  let digest := (s.chart.map (·.commonDigest)).getD []
  if s.chtState ≠ chtActive ∨ x.peerState ≠ some chtActive then 4
  else if x.peerSystem ≠ (s.chart.map (·.systemId)).getD 0 then 5
  else if x.peerDigest0 ++ x.peerDigest1.getD [] ≠ digest then 6
  else if s.extent (p / 2) ≤ 1 then 7
  else if !s.peerFits p (s.reg (Reg.FAB_P_STATE_peer_node p)) then 8
  else 0

/-- The Chart check of a port whose peer is accepted and has reported both parts (R296). -/
def State.chartCheck (s : State) (p : Nat) : State :=
  let x := s.port p
  if !x.identified || x.peerState.isNone || x.peerDigest1.isNone then s
  else if s.portState p = psUP ∧ (s.chtState = chtDraining ∨ x.peerState = some chtDraining) then s
  else
    let r := s.chartReason p
    s.setLink p (if r = 0 then psUP else psMGMT_ONLY) r

/-- The identity of a port's peer is accepted: both ends exchange their Chart state (R296). -/
def State.beginCheck (s : State) (p : Nat) : State :=
  ((s.setPort p { s.port p with identified := true }).sendChart p).chartCheck p

/-- This module's Chart state has changed: every port whose peer is accepted reports it and is checked again (R296). -/
def State.chartChanged (s : State) : State :=
  (List.range 8).foldl (fun a p => if (a.port p).identified then (a.sendChart p).chartCheck p else a) s

/-- Accept the peer of a port: its fingerprint is recorded and measured (R295, R413, R420). -/
def State.acceptPeer (s : State) (p : Nat) : State :=
  let fp := leBytes 16 (s.reg (Reg.FAB_P_PEER_FP_fp p))
  let s1 := { s with binnacle := { s.binnacle with acceptedFp := s.binnacle.acceptedFp.set p fp } }
  (s1.extendMeasure 5 (leBytes 1 p ++ fp)).beginCheck p

/-- The accepted fingerprint of a port; empty: no record. -/
def State.acceptedFp (s : State) (p : Nat) : List Byte := s.binnacle.acceptedFp.getD p []

/-- A verified peer is compared with the port's record (R295). -/
def State.judgePeer (s : State) (p : Nat) (key : List Byte) (node : Nat) : State :=
  let fp := fingerprint key
  let s1 := s.setRegs [(Reg.FAB_P_PEER_FP_fp p, leNat fp), (Reg.FAB_P_STATE_peer_node p, node)]
  if s1.acceptedFp p = fp then s1.beginCheck p
  else if s1.acceptedFp p = [] then
    if s1.reg Reg.FAB_CFG_auto_accept_first = 1 then s1.acceptPeer p else s1.setLink p psQUARANTINE 2
  else
    let s2 := (s1.setLink p psQUARANTINE 1).post Reg.FAB_EVENT_peer_changed p (leNat (fp.take 8)) (leNat (fp.drop 8))
    { s2 with binnacle := { s2.binnacle with peerChanges := s2.binnacle.peerChanges ++ [(p, fp)] } }

/-- Whether a peer's statement verifies (R419). -/
def Port.statementVerifies (x : Port) (m : List Byte) : Bool :=
  ed448Verify (sliceBytes m 4 57) (ascii "QTS-860 Link") (sliceBytes m 0 128) (sliceBytes m 128 114) &&
    decide (sliceBytes m 0x60 32 = x.ownNonce) && decide (sliceBytes m 0x40 32 = x.peerNonce)

/-- An identity part arrives (R295, R419): the nonce is answered with this end's statement, and the last part of the
statement decides. Without an identity of its own the port is quarantined (R412). -/
def State.onIdent (s : State) (p part : Nat) (content : List Byte) : State :=
  let x := s.port p
  if s.portState p ≠ psIDENTITY then s
  else if s.reg Reg.SEC_STATUS_identity_valid = 0 then s.setLink p psQUARANTINE 3
  else if part = 0 then (s.setPort p { x with peerNonce := sliceBytes content 0 32 }).sendStatement p
  else if 6 ≤ part ∨ x.peerNonce = [] then s
  else
    let parts := x.parts.filter (fun q => !decide (q.1 = part)) ++ [(part, sliceBytes content 0 56)]
    let s1 := s.setPort p { x with parts := parts }
    let found := (List.range 5).filterMap (fun i => (parts.find? (fun q => decide (q.1 = i + 1))).map (·.2))
    if found.length < 5 then s1
    else
      let m := found.flatten.take 242
      if x.statementVerifies m then s1.judgePeer p (sliceBytes m 4 57) (fieldLe m 0x3E 2) else s1.setLink p psQUARANTINE 3

/-- A CHART part of the peer arrives, and the check runs again (R296). -/
def State.onChart (s : State) (p part state node systemId : Nat) (digest : List Byte) : State :=
  let x := s.port p
  if part = 0 then
    ((s.setPort p { x with peerState := some (state % 4), peerSystem := systemId, peerDigest0 := digest }).setReg
      (Reg.FAB_P_STATE_peer_node p) node).chartCheck p
  else if part = 1 then (s.setPort p { x with peerDigest1 := some digest }).chartCheck p
  else s

/-! ### Widths (R297) -/

/-- Send a WIDTH flit. -/
def State.sendWidth (s : State) (p code : Nat) : State := s.sendControl p (leBytes 1 5 ++ leBytes 1 code)

/-- A link becomes narrow; one that holds packets of class 1 to 7 asks for its full width at once. -/
def State.narrowed (s : State) (p : Nat) : State :=
  let s1 := (s.setPort p { s.port p with
    narrowAsked := false, lastKeepaliveAt := s.now, fecCounted := List.replicate 16 0 }).setReg (Reg.FAB_P_STATE_narrow p) 1
  if (s1.port p).queue.any (fun o => decide (2 ≤ o.vc)) then s1.askFull p 1 else s1

/-- A WIDTH flit (R297): a request is always granted, and a grant of what this end asked for takes effect. -/
def State.onWidth (s : State) (p code : Nat) : State :=
  let x := s.port p
  if s.portState p ≠ psUP then s
  else match code with
    | 0 => (s.sendWidth p 1).narrowed p
    | 1 => if x.narrowAsked then s.narrowed p else s
    | 2 => if s.reg (Reg.FAB_P_STATE_narrow p) = 1 then (s.sendWidth p 3).setPort p { x with widening := true } else s
    | 3 => if x.fullAsked then s.setPort p { x with widening := true } else s
    | _ => s

/-- A control flit by its content (R273); a reserved kind is discarded and counted. -/
def State.onControl (s : State) (p : Nat) (c : List Byte) : State :=
  match fieldLe c 0 1 with
  | 1 => s.onAckCredit p (fieldLe c 2 2) ((List.range 16).map (fun v => fieldLe c (4 + 2 * v) 2))
  | 2 => s.onNak p (fieldLe c 2 2)
  | 3 => s
  | 4 => s.onIdent p (fieldLe c 1 1) (sliceBytes c 4 56)
  | 5 => s.onWidth p (bits (fieldLe c 1 1) 1 0)
  | 6 => s.onChart p (fieldLe c 1 1) (bits (fieldLe c 2 1) 1 0) (fieldLe c 4 2) (fieldLe c 8 8) (sliceBytes c 0x10 32)
  | _ => s.bump (Reg.FAB_P_CNT_CRC p) 1

/-- Whether a port's link runs: from IDENTITY on it carries flits (R294). -/
def State.linkRuns (s : State) (p : Nat) : Bool := decide (psIDENTITY ≤ s.portState p)

/-! ### Meanings: flits -/

/-- What FEC made of the codeword of unit u is counted once for each codeword (R271, R298). -/
def State.fecResult (s : State) (p u fec : Nat) : State :=
  let x := s.port p
  let narrow := decide (s.reg (Reg.FAB_P_STATE_narrow p) = 1)
  let lane := unitLane narrow u
  let word := unitCodeword narrow u + 1
  if fec = 0 ∨ x.fecCounted.getD lane 0 = word then s
  else (s.setPort p { x with fecCounted := x.fecCounted.set lane word }).bump
    (if fec = 1 then Reg.FAB_P_CNT_FEC_CORR p else Reg.FAB_P_CNT_FEC_UNCORR p) 1

/-- Unit u of a port's stream arrives (R271, R272, R274): FEC and CRC first, then its flit's number. -/
def State.unitArrives (s : State) (p seq u fec value : Nat) : State :=
  let unitType := unitTypeOf value
  let flit := unitFlit value
  let s1 := (s.heard p).fecResult p u fec
  if unitType = 0 then s1
  else
    let numbered := decide (2 ≤ unitType)
    if 2 ≤ fec ∨ !flitIntact unitType flit then
      let s2 := s1.bump (Reg.FAB_P_CNT_CRC p) 1
      if numbered then s2.discardFlit p else s2
    else if !numbered then s1.onControl p (flit.take 60)
    else if seq % 65536 ≠ (s1.port p).rxExpected then s1.discardFlit p
    else s1.acceptFlit p unitType flit

/-- FLIT_RECEIVE. -/
def execFlitReceive (port seq unit fec value : Nat) (s : State) : Host.Outcome State Fault Refusal :=
  perform (.flitReceive port seq unit fec value)
    (if s.linkRuns port then s.unitArrives port seq unit fec value else s)

/-- ACK_CREDIT; the answer of a system reset that has waited for credit may leave with it (R319). -/
def execAckCredit (port ackSeq : Nat) (freed : List Nat) (s : State) : Host.Outcome State Fault Refusal :=
  perform (.ackCredit port ackSeq freed) (if s.linkRuns port then ((s.heard port).onAckCredit port ackSeq freed).resetIfSent else s)

/-- NAK. -/
def execNak (port expected : Nat) (s : State) : Host.Outcome State Fault Refusal :=
  perform (.nak port expected) (if s.linkRuns port then (s.heard port).onNak port expected else s)

/-- KEEPALIVE. -/
def execKeepalive (port : Nat) (s : State) : Host.Outcome State Fault Refusal :=
  perform (.keepalive port) (if s.linkRuns port then s.heard port else s)

/-- IDENT. -/
def execIdent (port part : Nat) (content : List Byte) (s : State) : Host.Outcome State Fault Refusal :=
  perform (.ident port part content) (if s.linkRuns port then (s.heard port).onIdent port part content else s)

/-- WIDTH. -/
def execWidth (port code : Nat) (s : State) : Host.Outcome State Fault Refusal :=
  perform (.width port code) (if s.linkRuns port then (s.heard port).onWidth port code else s)

/-- CHART. -/
def execChart (port part state node systemId : Nat) (digest : List Byte) (s : State) : Host.Outcome State Fault Refusal :=
  perform (.chart port part state node systemId digest)
    (if s.linkRuns port then (s.heard port).onChart port part state node systemId digest else s)

/-! ### Meanings: timers of a link -/

/-- Whether a time is due. -/
def State.due (s : State) (time : Nat) : Bool := decide (time ≤ s.now)

/-- NAK_REPEAT: the NAK is sent again, at most once per 1 µs (R274). -/
def execNakRepeat (port : Nat) (s : State) : Host.Outcome State Fault Refusal :=
  perform (.nakRepeat port)
    (match (s.port port).nakAt with
      | some t => if s.linkRuns port && s.due (t + 100) then s.sendNak port else s
      | none => s)

/-- ACK_TIMER: an ACK_CREDIT at least every 100 ns (R274). -/
def execAckTimer (port : Nat) (s : State) : Host.Outcome State Fault Refusal :=
  perform (.ackTimer port)
    (if s.linkRuns port && s.due ((s.port port).lastAckAt + 10) then s.sendAck port else s)

/-- ACK_PROGRESS_TIMEOUT: 100 µs without ack progress while flits are outstanding (R274). -/
def execAckProgressTimeout (port : Nat) (s : State) : Host.Outcome State Fault Refusal :=
  perform (.ackProgressTimeout port)
    (let x := s.port port
     if s.linkRuns port && !x.replay.isEmpty && s.due (x.lastProgressAt + 10000) then s.linkDown port 9 else s)

/-- CHART_RESEND: both parts again every 100 µs while the link is not UP (R296). -/
def execChartResend (port : Nat) (s : State) : Host.Outcome State Fault Refusal :=
  perform (.chartResend port)
    (let x := s.port port
     if s.linkRuns port && x.identified && !decide (s.portState port = psUP) && s.due (x.chartSentAt + 10000) then
       s.sendChart port
     else s)

/-- When the packet-gap timer of an open packet expires, in steps of 1 µs (R292). -/
def State.gapDue (s : State) (o : OpenPacket) : Nat := roundUp (o.lastAt + s.reg Reg.FAB_CFG_gap_us * 100) 100

/-- PACKET_GAP_TIMEOUT. -/
def execPacketGapTimeout (port vc : Nat) (s : State) : Host.Outcome State Fault Refusal :=
  perform (.packetGapTimeout port vc)
    (match (s.port port).open_.find? (fun o => decide (o.vc = vc)) with
      | some o => if s.due (s.gapDue o) then s.truncatePacket port o else s
      | none => s)

/-- KEEPALIVE_TIMER: a narrow link sends a KEEPALIVE at least every 10 µs (R297). -/
def execKeepaliveTimer (port : Nat) (s : State) : Host.Outcome State Fault Refusal :=
  perform (.keepaliveTimer port)
    (let x := s.port port
     if s.linkRuns port && decide (s.reg (Reg.FAB_P_STATE_narrow port) = 1) && s.due (x.lastKeepaliveAt + 1000) then
       (s.setPort port { x with lastKeepaliveAt := s.now }).sendControl port (leBytes 1 3)
     else s)

/-- RETURN_TO_16_LANES: a link that a grant widens runs on 16 lanes again (R297). -/
def execReturnTo16Lanes (port : Nat) (s : State) : Host.Outcome State Fault Refusal :=
  perform (.returnTo16Lanes port)
    (let x := s.port port
     if s.linkRuns port && x.widening then
       (s.setPort port { x with widening := false, fullAsked := false, fecCounted := List.replicate 16 0 }).setReg (Reg.FAB_P_STATE_narrow port) 0
     else s)

/-! ### Meanings: breaks (R279) -/

/-- A BREAK notice of a ring: its link's state is kept and the notice goes on round the ring until it reaches its source. A
module whose routers know no torus passes it straight on (R279, R400; log entry 23). -/
def State.onBreak (s : State) (p : Nat) (k : Packet) : State :=
  let d := bits k.arg0 7 0
  let c := bits k.arg0 15 8
  let broken := bit k.arg0 16
  let ahead := if p % 2 = 0 then p + 1 else p - 1
  match s.routing? with
  | none => s.sendNotice ahead k.dst k.src k.arg0
  | some r =>
    if d ≠ p / 2 ∨ s.extent d ≤ c ∨ s.extent d ≤ 1 ∨ k.src = r.node then s
    else
      let before := s.breakMaps
      let f := Reg.FAB_BREAK_links d
      let v := s.reg f
      let v1 := if bit v c then v - 2 ^ c else v
      let s1 := (s.setReg f (v1 + flag broken * 2 ^ c)).breakChanged before
      if s1.neighbour ahead = k.src then s1 else s1.sendNotice ahead (s1.neighbour ahead) k.src k.arg0

/-- BREAK. -/
def execBreakNotice (port : Nat) (packet : Packet) (s : State) : Host.Outcome State Fault Refusal :=
  perform (.breakNotice port packet)
    (if decide (packet.op = pktBREAK) && s.portCarries port 0 then (s.takeIn packet).onBreak port packet else s)

/-! ### Meanings: training (R294, R298) -/

/-- Step 1 of training: the link's state is reset and the port trains. -/
def State.startTraining (s : State) (p : Nat) : State :=
  (((s.clearPort p).setReg (Reg.FAB_P_CTRL_retrain p) 0).bump (Reg.FAB_P_CNT_RETRAIN p) 1).setLink p psTRAINING
    (s.reg (Reg.FAB_P_STATE_reason p))

/-- Whether a port may train: it is enabled and the firmware runs (R294, R402). -/
def State.mayTrain (s : State) (p : Nat) : Bool :=
  decide (s.reg (Reg.FAB_P_CTRL_enable p) = 1) && decide (s.reg Reg.SEC_STATUS_state = 1) &&
    !decide (s.portState p = psDISABLED)

/-- LINK_TRAIN_START: a DOWN port finds signal, or a port has been told to retrain. -/
def execLinkTrainStart (port : Nat) (s : State) : Host.Outcome State Fault Refusal :=
  perform (.linkTrainStart port)
    (if s.mayTrain port && (decide (s.portState port = psDOWN) || decide (s.reg (Reg.FAB_P_CTRL_retrain port) = 1)) then
       s.startTraining port
     else s)

/-- EQUALISATION_END: coefficients are stored, or the port returns to DOWN. -/
def execEqualisationEnd (port : Nat) (ok : Bool) (s : State) : Host.Outcome State Fault Refusal :=
  perform (.equalisationEnd port ok)
    (if s.portState port ≠ psTRAINING then s
     else if ok then s.setPort port { s.port port with coefficients := true, equalised := true }
     else s.linkDown port (s.reg (Reg.FAB_P_STATE_reason port)))

/-- ALIGNMENT_END: sequence numbers and credits start anew and the identity exchange begins with this end's nonce, or the
port returns to DOWN. -/
def execAlignmentEnd (port : Nat) (ok : Bool) (nonce : Nonce) (s : State) : Host.Outcome State Fault Refusal :=
  perform (.alignmentEnd port ok nonce)
    (if s.portState port ≠ psTRAINING ∨ (s.port port).equalised = false then s
     else if ok then
       let s1 := s.clearPort port
       let n := sliceBytes nonce 0 32
       ((s1.setPort port { s1.port port with
           ownNonce := n, lastFlitAt := s.now, lastAckAt := s.now, lastKeepaliveAt := s.now }).setLink port
         psIDENTITY (s.reg (Reg.FAB_P_STATE_reason port))).sendIdent port 0 n
     else s.linkDown port (s.reg (Reg.FAB_P_STATE_reason port)))

/-- TRAINING_RETRY: a DOWN port tries again every second. -/
def execTrainingRetry (port : Nat) (s : State) : Host.Outcome State Fault Refusal :=
  perform (.trainingRetry port)
    (if s.mayTrain port && decide (s.portState port = psDOWN) && s.due ((s.port port).downAt + 100000000) then
       s.startTraining port
     else s)

/-- FEC_LOCK_LOST for 1 µs. -/
def execFecLockLost (port : Nat) (s : State) : Host.Outcome State Fault Refusal :=
  perform (.fecLockLost port) (if s.linkRuns port then s.linkDown port 0 else s)

/-- KEEPALIVE_LOST: no flit for 1 ms. -/
def execKeepaliveLost (port : Nat) (s : State) : Host.Outcome State Fault Refusal :=
  perform (.keepaliveLost port)
    (if s.linkRuns port && s.due ((s.port port).lastFlitAt + 100000) then s.linkDown port 10 else s)

/-- ACCEPT: the current peer, whose statement has verified, is recorded and the Chart check follows (R295, R420). -/
def execAccept (port : Nat) (s : State) : Host.Outcome State Fault Refusal :=
  perform (.accept port)
    (s.hostWrite (if decide (psQUARANTINE ≤ s.portState port) &&
        !decide (s.portState port = psQUARANTINE ∧ s.reg (Reg.FAB_P_STATE_reason port) = 3) then s.acceptPeer port else s))

/-- RETRAIN: the link is told to retrain; the bit clears at step 1 of training (R298). -/
def execRetrain (port : Nat) (s : State) : Host.Outcome State Fault Refusal :=
  perform (.retrain port) (s.hostWrite (s.setReg (Reg.FAB_P_CTRL_retrain port) 1))

/-- A port that may not train is DISABLED; one that may is DOWN until it finds signal (R294, R298). -/
def State.portEnable (s : State) (port : Nat) (enable : Bool) : State :=
  let s1 := s.setReg (Reg.FAB_P_CTRL_enable port) (flag enable)
  if enable then (if s.portState port = psDISABLED then s1.setLink port psDOWN 0 else s1)
  else (s1.clearPort port).setLink port psDISABLED 0

/-- PORT_ENABLE (R298). -/
def execPortEnable (port : Nat) (enable : Bool) (s : State) : Host.Outcome State Fault Refusal :=
  perform (.portEnable port enable) (s.hostWrite (s.portEnable port enable))

end Sys2Proof.Machine
end

