-- ==== Sys2Proof/Machine/Chart.lean ====
section
/-!
DEFINITION. The Chart (02): the checks of a structure image (R25 to R42), its installation (R44), and draining and unloading
it (R47).
-/

namespace Sys2Proof.Machine

/-! ### Records (R29 to R31) -/

/-- A record of an image: its offset, and its bytes. -/
structure ChartRecord where
  off : Nat
  bytes : List Byte
deriving DecidableEq, Repr

/-- The type of a record. -/
def ChartRecord.ty (r : ChartRecord) : Nat := fieldLe r.bytes 0 1

/-- Its number of entries. -/
def ChartRecord.count (r : ChartRecord) : Nat := fieldLe r.bytes 4 4

/-- What R30 and R31 say of a record type: its common bit, the most occurrences, whether it must occur, its fixed part and
entry size, the range of entry_count, the width of its id field at 0x10, and its reserved bytes with their masks, the
record header's apart, in the fixed part and in an entry. -/
structure RecordForm where
  common : Nat
  most : Nat
  required : Bool
  fixed : Nat
  entry : Nat
  low : Nat
  high : Nat
  idBits : Nat
  reserved : List (Nat × Nat)
  entryReserved : List (Nat × Nat)

/-- Whole reserved bytes from lo up to hi. -/
def wholeBytes (lo hi : Nat) : List (Nat × Nat) := (List.range (hi - lo)).map (fun i => (lo + i, 0xFF))

/-- The record types of R30; none for a reserved type. -/
def recordForm (ty : Nat) : Option RecordForm :=
  match ty with
  | 1 => some ⟨1, 1, true, 32, 0, 1, 1, 0, wholeBytes 0x14 0x18, []⟩
  | 2 => some ⟨0, 1, true, 48, 0, 1, 1, 0, wholeBytes 0x12 0x20, []⟩
  | 3 => some ⟨0, 1, false, 16, 16, 0, 64, 0, [], (1, 0xF0) :: wholeBytes 2 8⟩
  | 4 => some ⟨0, 1, false, 16, 16, 0, 1024, 0, [], wholeBytes 0xC 0x10⟩
  | 5 => some ⟨0, 1, false, 16, 8, 0, 32768, 0, [], [(1, 0x80), (6, 0xFF), (7, 0xFF)]⟩
  | 6 => some ⟨0, 1024, false, 48, 16, 0, 64, 16, wholeBytes 0x12 0x18 ++ wholeBytes 0x28 0x30, [(6, 0xF8), (7, 0xFF)]⟩
  | 7 => some ⟨1, 64, false, 32, 8, 0, 1048576, 8, wholeBytes 0x11 0x18 ++ wholeBytes 0x1E 0x20, []⟩
  | 8 => some ⟨1, 4096, false, 32, 8, 0, 1048576, 12, wholeBytes 0x14 0x18 ++ wholeBytes 0x1E 0x20, []⟩
  | 9 => some ⟨1, 1, false, 32, 8, 0, 16777216, 0, wholeBytes 0x18 0x20, [(7, 0xF0)]⟩
  | 10 => some ⟨0, 1, true, 16, 8, 64, 64, 0, [], wholeBytes 5 8⟩
  | 11 => some ⟨0, 1, false, 32, 0, 1, 1, 0, wholeBytes 0x18 0x20, []⟩
  | _ => none

/-- The types that must occur (R30). -/
def requiredTypes : List Nat := [1, 2, 10]

/-- The reserved bytes of the record header (R29). -/
def headerReserved : List (Nat × Nat) := (1, 0xFE) :: (wholeBytes 2 4 ++ wholeBytes 0xC 0x10)

/-- The id of a record of a type (R30). -/
def ChartRecord.idOf (r : ChartRecord) (f : RecordForm) : Nat := fieldLe r.bytes 0x10 2 % 2 ^ f.idBits

/-- The entries of a record: offset in the image, and bytes. -/
def ChartRecord.entries (r : ChartRecord) (f : RecordForm) : List (Nat × List Byte) :=
  if f.entry = 0 then []
  else ((chunks f.entry (r.bytes.drop f.fixed)).take r.count).zipIdx.map (fun e => (r.off + f.fixed + e.2 * f.entry, e.1))

/-- The entries of a record under its own form. -/
def ChartRecord.list (r : ChartRecord) : List (Nat × List Byte) := ((recordForm r.ty).map r.entries).getD []

/-- A failure of a check: its reason (R42) and fail_offset. -/
abbrev Failure := Nat × Nat

/-- The failure with the lowest reason, and of those the lowest offset: within a stage of R41 the reasons rise in the order
of the checks. -/
def firstOf : List Failure → Option Failure
  | [] => none
  | h :: t => some (t.foldl (fun a b => if b.1 < a.1 ∨ (b.1 = a.1 ∧ b.2 < a.2) then b else a) h)

/-- A failure where a condition holds. -/
def fails (bad : Bool) (reason off : Nat) : List Failure := if bad then [(reason, off)] else []

/-- The first reserved byte that is not zero, at its offset in the image (R5). -/
def reservedSet (off : Nat) (b : List Byte) (l : List (Nat × Nat)) : List Failure :=
  ((l.find? (fun m => decide (Nat.land (fieldLe b m.1 1) m.2 ≠ 0))).map (fun m => (0x07, off + m.1))).toList

/-! ### The checks of one record (R41 step 6) -/

/-- STRUCTURE of a record after those before it (R29, R30). An entry_count outside its type's range is STRUCTURE at the
entry_count field (DESIGN CHOICE, log entry 15). -/
def structureFails (before : List ChartRecord) (r : ChartRecord) (endOff : Nat) : List Failure :=
  let last := before.getLast?
  let lastTy := (last.map ChartRecord.ty).getD 0
  let len := fieldLe r.bytes 8 4
  let misplaced := decide (r.ty < lastTy) ||
    requiredTypes.any (fun q => decide (q < r.ty) && !before.any (fun x => decide (x.ty = q)))
  let shape := decide (len < 16) || decide (len % 16 ≠ 0) || decide (endOff < r.off + len)
  match recordForm r.ty with
  | none => fails misplaced 6 r.off ++ fails shape 6 (r.off + 8)
  | some f =>
    fails (misplaced || decide (f.most ≤ (before.filter (fun x => decide (x.ty = r.ty))).length)) 6 r.off ++
      fails (decide (r.count < f.low) || decide (f.high < r.count)) 6 (r.off + 4) ++
      fails (shape || decide (len ≠ roundUp (f.fixed + r.count * f.entry) 16)) 6 (r.off + 8) ++
      fails (decide (0 < f.idBits) && decide (lastTy = r.ty) &&
        decide (r.idOf f ≤ (last.map (fun x => x.idOf f)).getD 0)) 6 (r.off + 0x10)

/-- RESERVED of a record: its header, its fixed part, its entries (R5, R25). Padding bytes after the last entry count as
reserved bytes too (DESIGN CHOICE, log entry 15). -/
def reservedFails (r : ChartRecord) : List Failure :=
  reservedSet r.off r.bytes headerReserved ++
    match recordForm r.ty with
    | none => []
    | some f =>
      let used := f.fixed + r.count * f.entry
      reservedSet r.off r.bytes f.reserved ++ (r.entries f).flatMap (fun e => reservedSet e.1 e.2 f.entryReserved) ++
        reservedSet r.off r.bytes (wholeBytes used r.bytes.length)

/-- Whether every coordinate of an owner or node is below its extent. -/
def fitsExtents (extents : List Nat) (node : Nat) : Bool :=
  (List.range 4).all (fun d => decide (coord node d < extents.getD d 1))

/-- ENCODING, RANGE and ORDER of a map's entries (R32): extents, the count, and the entries' owner and first value. -/
def mapFails (extents : List Nat) (count : Nat) (es : List (Nat × List Byte)) : List Failure :=
  es.flatMap (fun e =>
    fails (!fitsExtents extents (fieldLe e.2 6 2)) 0x0A (e.1 + 6) ++ fails (decide (count ≤ fieldLe e.2 0 6)) 0x0A e.1) ++
  (es.zip (none :: es.map some)).flatMap (fun p =>
    match p.2 with
    | none => fails (decide (fieldLe p.1.2 0 6 ≠ 0)) 0x0B p.1.1
    | some q => fails (decide (fieldLe p.1.2 0 6 ≤ fieldLe q.2 0 6)) 0x0B p.1.1)

/-- ENCODING and RANGE of a job window (R31). A window that runs past HBM, or past the tile stores, is RANGE at its length
field, whatever its base (DESIGN CHOICE, log entry 15). -/
def windowFails (e : Nat × List Byte) : List Failure :=
  let w := fieldLe e.2 0 8
  let sp := bits w 47 45
  let base := bits w 44 0
  let len := fieldLe e.2 8 8
  if 4 ≤ sp then [(0x08, e.1 + 5)]
  else if sp = 2 then [(0x0A, e.1 + 5)]
  else
    fails (decide (base % 4096 ≠ 0)) 0x0A e.1 ++
      fails (decide (len ≠ 0) && (decide (len % 4096 ≠ 0) || (decide (sp = 0) && decide (hbmEnd < base + len)) ||
        (decide (sp = 1) && decide (2 ^ 31 < base + len)))) 0x0A (e.1 + 8)

/-- ENCODING, RANGE and ORDER of a record of a known type (R31 to R38); extents are those of the SYSTEM record. -/
def contentFails (extents : List Nat) (r : ChartRecord) (f : RecordForm) : List Failure :=
  let es := r.entries f
  let b := r.bytes
  match r.ty with
  | 1 => (List.range 4).flatMap (fun d =>
      fails (decide (fieldLe b (0x10 + d) 1 = 0) || decide (16 < fieldLe b (0x10 + d) 1)) 0x0A (r.off + 0x10 + d))
  | 2 => fails (!fitsExtents extents (fieldLe b 0x10 2)) 0x0A (r.off + 0x10)
  | 3 => es.flatMap (fun e =>
      fails (decide (2 ≤ fieldLe e.2 1 1 % 16)) 0x08 (e.1 + 1) ++ fails (decide (64 ≤ fieldLe e.2 0 1)) 0x0A e.1)
  | 4 => es.flatMap (fun e =>
      fails (decide (64 ≤ fieldLe e.2 0 1)) 0x0A e.1 ++ fails (decide (16 ≤ fieldLe e.2 1 1)) 0x0A (e.1 + 1) ++
        fails (decide (fieldLe e.2 4 4 % 4096 ≠ 0)) 0x0A (e.1 + 4) ++
        fails (decide (fieldLe e.2 8 4 % 4096 ≠ 0) || decide (33554432 < fieldLe e.2 4 4 + fieldLe e.2 8 4)) 0x0A (e.1 + 8))
  | 5 => es.flatMap (fun e => fails (decide (32768 < fieldLe e.2 0 2 % 2 ^ 15 + fieldLe e.2 2 2)) 0x0A (e.1 + 2))
  | 6 => es.flatMap windowFails
  | 7 => fails (decide (64 ≤ fieldLe b 0x10 1)) 0x0A (r.off + 0x10) ++
      fails (decide (es = []) && decide (fieldLe b 0x18 6 ≠ 0)) 0x0A (r.off + 0x18) ++
      mapFails extents (fieldLe b 0x18 6) es
  | 8 => fails (decide (2 ≤ fieldLe b 0x10 2 / 2 ^ 12)) 0x08 (r.off + 0x11) ++
      fails (decide (es = [] ↔ fieldLe b 0x12 2 ≠ 0)) 0x0A (r.off + 0x12) ++
      fails (decide (es = []) && decide (fieldLe b 0x18 6 ≠ 0)) 0x0A (r.off + 0x18) ++
      mapFails extents (fieldLe b 0x18 6) es
  | 9 => fails (decide (fieldLe b 0x10 8 % 2 ^ 21 ≠ 0) || decide (2 ^ 36 < fieldLe b 0x10 8)) 0x0A (r.off + 0x10) ++
      (es.zip (es.drop 1)).flatMap (fun p =>
        fails (decide (fieldLe p.2.2 0 8 ≤ fieldLe p.1.2 0 8)) 0x0B p.2.1)
  | 10 => es.zipIdx.flatMap (fun e =>
        fails (decide (fieldLe e.1.2 0 1 % 64 ≠ e.2)) 0x0A e.1.1 ++ fails (decide (63 < fieldLe e.1.2 4 1)) 0x0A (e.1.1 + 4)) ++
      (es.take 1).flatMap (fun e => fails (!bit (fieldLe e.2 0 1) 6) 0x0A e.1)
  | _ => []

/-- The first failing check of a record after those before it (R41 step 6). A common bit that is not its type's is ENCODING at
offset 0x01 of the record (DESIGN CHOICE, log entry 15). -/
def recordFailure (before : List ChartRecord) (r : ChartRecord) (endOff : Nat) : Option Failure :=
  match firstOf (structureFails before r endOff) with
  | some x => some x
  | none =>
    let sys := (before ++ [r]).find? (fun x => decide (x.ty = 1))
    let extents := (sys.map (fun x => (List.range 4).map (fun d => fieldLe x.bytes (0x10 + d) 1))).getD [1, 1, 1, 1]
    firstOf (reservedFails r ++
      match recordForm r.ty with
      | none => [(0x08, r.off)]
      | some f => fails (decide (fieldLe r.bytes 1 1 % 2 ≠ f.common)) 0x08 (r.off + 1) ++ contentFails extents r f)

/-- Read and check the records of an image: those before, how many are still to come, and the offset of the next. A
record_count that does not match the records is STRUCTURE at the place of the next record (DESIGN CHOICE, log entry 15). -/
def readRecords (image : List Byte) (endOff : Nat) : Nat → List ChartRecord → Nat → Except Failure (List ChartRecord)
  | 0, before, off =>
    if off ≠ endOff then .error (6, off)
    else if requiredTypes.any (fun q => !before.any (fun x => decide (x.ty = q))) then .error (6, endOff)
    else .ok before
  | n + 1, before, off =>
    if endOff < off + 16 then .error (6, off)
    else
      let len := fieldLe image (off + 8) 4
      let r : ChartRecord := ⟨off, sliceBytes image off (Nat.max 16 (Nat.min len (endOff - off)))⟩
      match recordFailure before r endOff with
      | some x => .error x
      | none => readRecords image endOff n (before ++ [r]) (off + len)

/-! ### What the records say -/

/-- Entries of all records of a type, with their offsets. -/
def entriesOf (rs : List ChartRecord) (ty : Nat) : List (Nat × List Byte) :=
  (rs.filter (fun r => decide (r.ty = ty))).flatMap ChartRecord.list

/-- The record of a type that occurs once. -/
def recordOf? (rs : List ChartRecord) (ty : Nat) : Option ChartRecord := rs.find? (fun r => decide (r.ty = ty))

/-- A tile group entry. -/
def parseGroup (b : List Byte) : TileGroup := ⟨fieldLe b 0 1, decide (fieldLe b 1 1 % 16 = 1), fieldLe b 8 8⟩

/-- A store partition entry. -/
def parsePart (b : List Byte) : StorePart := ⟨fieldLe b 0 1, fieldLe b 1 1, fieldLe b 2 2, fieldLe b 4 4, fieldLe b 8 4⟩

/-- A ring range entry. -/
def parseRings (b : List Byte) : RingAlloc := ⟨fieldLe b 0 2 % 2 ^ 15, fieldLe b 2 2, fieldLe b 4 2⟩

/-- A job window. -/
def parseWindow (b : List Byte) : Window :=
  let w := fieldLe b 0 8
  ⟨bit w 50, bit w 49, bit w 48, bits w 47 45, bits w 44 0, fieldLe b 8 8⟩

/-- A JOB record. -/
def parseJob (r : ChartRecord) : ChartJob :=
  ⟨fieldLe r.bytes 0x10 2, fieldLe r.bytes 0x18 8, fieldLe r.bytes 0x20 8, r.list.map (fun e => parseWindow e.2)⟩

/-- A PART_MAP or SHARD_MAP record. -/
def parseMap (r : ChartRecord) : OwnerMap :=
  let b := r.bytes
  let es := r.list.map (fun e => (fieldLe e.2 0 6, fieldLe e.2 6 2))
  if r.ty = 7 then ⟨fieldLe b 0x10 1, 0, 0, fieldLe b 0x18 6, es⟩
  else ⟨fieldLe b 0x10 2 % 2 ^ 12, fieldLe b 0x10 2 / 2 ^ 12, fieldLe b 0x12 2, fieldLe b 0x18 6, es⟩

/-- A phase entry. -/
def parsePhase (b : List Byte) : PhaseEntry :=
  let v := fieldLe b 0 8
  ⟨bits v 39 32, bits v 31 24, bits v 23 16, bits v 15 8, bit v 7, bit v 6⟩

/-- A listed row: table and row. -/
def parseHotRow (b : List Byte) : Nat × Nat := (bits (fieldLe b 0 8) 59 48, fieldLe b 0 6)

/-- The Chart that records describe. -/
def chartOf (serial : Nat) (digest : List Byte) (rs : List ChartRecord) : Chart :=
  let sys := ((recordOf? rs 1).map (·.bytes)).getD []
  let coords := ((recordOf? rs 2).map (·.bytes)).getD []
  let common := (rs.filter (fun r => decide (fieldLe r.bytes 1 1 % 2 = 1))).flatMap (·.bytes)
  { serial := serial, extents := (List.range 4).map (fun d => fieldLe sys (0x10 + d) 1), systemId := fieldLe sys 0x18 8,
    nodeId := fieldLe coords 0x10 2, identityFp := sliceBytes coords 0x20 16,
    groups := (entriesOf rs 3).map (fun e => parseGroup e.2), parts := (entriesOf rs 4).map (fun e => parsePart e.2),
    rings := (entriesOf rs 5).map (fun e => parseRings e.2),
    jobs := (rs.filter (fun r => decide (r.ty = 6))).map parseJob,
    partMaps := (rs.filter (fun r => decide (r.ty = 7))).map parseMap,
    shardMaps := (rs.filter (fun r => decide (r.ty = 8))).map parseMap,
    hotBytes := ((recordOf? rs 9).map (fun r => fieldLe r.bytes 0x10 8)).getD 0,
    hotRows := (entriesOf rs 9).map (fun e => parseHotRow e.2), phases := (entriesOf rs 10).map (fun e => parsePhase e.2),
    excluded := ((recordOf? rs 11).map (fun r => fieldLe r.bytes 0x10 8)).getD 0, digest := digest,
    commonDigest := shake256 common 64 }

/-! ### The checks across records (R41 step 7) -/

/-- A space that is claimed: key of the space, start, end, the offset of the field that claims it. -/
structure Claim where
  key : Nat
  lo : Nat
  hi : Nat
  off : Nat

/-- OVERLAP among claims of one key, at the later of the two fields (R42). -/
def overlapFails : List Claim → List Failure
  | [] => []
  | a :: r =>
    (r.filter (fun b => decide (a.key = b.key) && decide (a.lo < b.hi) && decide (b.lo < a.hi))).map
      (fun b => (0x0D, Nat.max a.off b.off)) ++ overlapFails r

/-- A window of a job with the offset of its entry. -/
structure PlacedWindow where
  job : Nat
  off : Nat
  w : Window

/-- All windows that are not empty. -/
def placedWindows (rs : List ChartRecord) : List PlacedWindow :=
  (rs.filter (fun r => decide (r.ty = 6))).flatMap (fun r =>
    (r.list.map (fun e => (⟨fieldLe r.bytes 0x10 2, e.1, parseWindow e.2⟩ : PlacedWindow))).filter
      (fun p => decide (p.w.length ≠ 0)))

/-- Two windows of different jobs overlap and one of them writes (R34), at the later base field. -/
def windowOverlaps : List PlacedWindow → List Failure
  | [] => []
  | a :: r =>
    (r.filter (fun b => decide (a.job ≠ b.job) && decide (a.w.space = b.w.space) && (a.w.write || b.w.write) &&
      decide (a.w.base < b.w.base + b.w.length) && decide (b.w.base < a.w.base + a.w.length))).map
      (fun b => (0x0D, Nat.max a.off b.off)) ++ windowOverlaps r

/-- A space-1 window lies inside one partition of its job on the tile its offset names (R33). -/
def Chart.insidePart (c : Chart) (p : PlacedWindow) : Bool :=
  c.parts.any (fun q => decide (q.tile = p.w.base / 2 ^ 25) && decide (q.job = p.job) && decide (q.size ≠ 0) &&
    decide (q.base ≤ p.w.base % 2 ^ 25) && decide (p.w.base % 2 ^ 25 + p.w.length ≤ q.base + q.size))

/-- IDENTITY and REFERENCE (R39, R33): every job, group and table that a record names exists. -/
def referenceFails (c : Chart) (rs : List ChartRecord) : List Failure :=
  let known := fun j => c.jobs.any (fun x => decide (x.id = j))
  (entriesOf rs 4).flatMap (fun e => fails (!known (fieldLe e.2 2 2)) 0x0C (e.1 + 2)) ++
    (entriesOf rs 5).flatMap (fun e => fails (!known (fieldLe e.2 4 2)) 0x0C (e.1 + 4)) ++
    (rs.filter (fun r => decide (r.ty = 6))).flatMap (fun r =>
      fails ((maskTiles (fieldLe r.bytes 0x20 8)).any (fun g => !c.groups.any (fun x => decide (x.id = g)))) 0x0C
        (r.off + 0x20)) ++
    (placedWindows rs).flatMap (fun p => fails (decide (p.w.space = 1) && !c.insidePart p) 0x0C p.off) ++
    (entriesOf rs 9).flatMap (fun e =>
      fails (!c.shardMaps.any (fun m => decide (m.id = (parseHotRow e.2).1) && decide (m.kind = 1))) 0x0C (e.1 + 6))

/-- The hot-row region's last field to be checked against: the offset of region_bytes. -/
def regionOff? (rs : List ChartRecord) : Option Nat := (recordOf? rs 9).map (fun r => r.off + 0x10)

/-- OVERLAP (R33 to R37): rings, partitions and their ids, groups and their ids, writable windows. A space-0 window over the
hot-row backing (R35) is OVERLAP at region_bytes (DESIGN CHOICE, log entry 15). -/
def overlaps (c : Chart) (rs : List ChartRecord) : List Failure :=
  let parts := (entriesOf rs 4).map (fun e => (e.1, parsePart e.2))
  let groups := (entriesOf rs 3).map (fun e => (e.1, parseGroup e.2))
  let rings := (entriesOf rs 5).map (fun e => (e.1, parseRings e.2))
  overlapFails ((rings.filter (fun e => decide (e.2.count ≠ 0))).map (fun e =>
      ⟨0, e.2.first, e.2.first + e.2.count, e.1⟩)) ++
    overlapFails ((parts.filter (fun e => decide (e.2.size ≠ 0))).map (fun e =>
      ⟨e.2.tile, e.2.base, e.2.base + e.2.size, e.1 + 4⟩)) ++
    overlapFails (parts.map (fun e => ⟨e.2.tile, e.2.part, e.2.part + 1, e.1 + 1⟩)) ++
    overlapFails (groups.map (fun e => ⟨0, e.2.id, e.2.id + 1, e.1⟩)) ++
    overlapFails (groups.flatMap (fun e => (maskTiles e.2.mask).map (fun t => ⟨0, t, t + 1, e.1 + 8⟩))) ++
    windowOverlaps (placedWindows rs) ++
    (placedWindows rs).flatMap (fun p =>
      fails (decide (p.w.space = 0) && decide (0 < c.hotBytes) && decide (hbmEnd - c.hotBytes < p.w.base + p.w.length))
        0x0D ((regionOff? rs).getD 0))

/-- The bytes that the replicas of the listed rows take (R35). -/
def Chart.replicaBytes (c : Chart) : Nat :=
  sumNat (c.hotRows.map (fun r =>
    roundUp (((c.shardMaps.find? (fun m => decide (m.id = r.1))).map (·.unitBytes)).getD 0) 64))

/-- A group has the shape of the wide-and-shallow arrangement (R37). -/
def TileGroup.wideShape (g : TileGroup) : Bool :=
  let ts := maskTiles g.mask
  [2, 4, 8].contains ts.length && ts.all (fun t => decide (t / 8 = ts.headD 0 / 8))

/-- CAPACITY (R35, R37). -/
def capacityFails (c : Chart) (rs : List ChartRecord) (retired imageLen : Nat) : List Failure :=
  let maskOff := (recordOf? rs 11).map (fun r => r.off + 0x10)
  let groupOff := (recordOf? rs 3).map (·.off)
  let placeable := c.groups.any (fun g => (maskTiles g.mask).any (fun t => !bit c.excluded t && !bit retired t))
  (placedWindows rs).flatMap (fun p =>
      fails (decide (p.w.space = 3) && decide (c.hotBytes < p.w.base + p.w.length)) 0x0E
        ((regionOff? rs).getD (p.off + 8))) ++
    fails (decide (c.hotBytes < c.replicaBytes)) 0x0E ((regionOff? rs).getD 0) ++
    (entriesOf rs 3).flatMap (fun e =>
      let g := parseGroup e.2
      if !g.wide then []
      else if !g.wideShape then [(0x0E, e.1 + 8)]
      else fails ((maskTiles g.mask).any (bit c.excluded)) 0x0E (maskOff.getD (e.1 + 8))) ++
    fails (!placeable) 0x0E (maskOff.getD (groupOff.getD (imageLen - 128)))

/-! ### A load (R41 to R44) -/

/-- The checks before the records: LENGTH, HEADER, OWNER, SIGNATURE (R41 steps 2 to 5), with the digest of R28. -/
def State.imageFailure (s : State) (l : Load) (digest : List Byte) : Nat :=
  let b := l.image
  if !l.fits || decide (fieldLe b 8 4 ≠ b.length) then 0x02
  else if fieldLe b 0 4 ≠ 0x54484351 ∨ fieldLe b 4 2 ≠ 1 ∨ fieldLe b 6 2 ≠ 0x0860 ∨
      sliceBytes b 0x28 24 ≠ List.replicate 24 0 then 0x03
  else match s.binnacle.ownerKey with
    | none => 0x04
    | some key =>
      if sliceBytes b 0x10 16 ≠ fingerprint key then 0x04
      else if !ed448phVerify key (ascii "QTS-860 Chart") digest (sliceBytes b (b.length - 128) 114) ||
          decide (sliceBytes b (b.length - 14) 14 ≠ List.replicate 14 0) then 0x05
      else 0

/-- The outcome of a load's checks: the Chart, or the reason and fail_offset of the first check that fails (R41, R42). -/
def State.checkImage (s : State) (l : Load) : Except Failure Chart :=
  let body := l.image.take (l.image.length - 128)
  let digest := shake256 body 64
  match s.imageFailure l digest with
  | 0 =>
    match readRecords l.image body.length (fieldLe l.image 0xC 4) [] 0x40 with
    | .error x => .error x
    | .ok rs =>
      let c := chartOf (fieldLe l.image 0x20 8) digest rs
      let identity := fails (decide (s.reg Reg.SEC_STATUS_identity_valid = 0) ||
        decide (c.identityFp ≠ fingerprint s.boot.publicKey)) 0x09 (((recordOf? rs 2).map (·.off)).getD 0 + 0x20)
      match firstOf (identity ++ referenceFails c rs ++ overlaps c rs ++
          capacityFails c rs s.retiredMask l.image.length) with
      | some x => .error x
      | none => .ok c
  | r => .error (r, 0)

/-- A load is in progress (R44). -/
def State.loading (s : State) : Bool := s.load.isSome

/-- CHT_STATUS for the last load. -/
def State.loadResult (s : State) (status reason off : Nat) : State :=
  s.setRegs [(Reg.CHT_STATUS_status, status), (Reg.CHT_STATUS_reason, reason), (Reg.CHT_STATUS_fail_offset, off)]

/-- Install a Chart (R44, R369, R372, R380, R413). The hot-row region holds undefined data until the first replica refresh
(R45). -/
def State.install (s : State) (c : Chart) : State :=
  let s1 : State := { s.memOps [.undefinedBytes (hbmEnd - c.hotBytes) c.hotBytes s.free] with
    chart := some c,
    free := s.free + 1,
    jobs := c.jobs.map (fun j => ⟨j.id, 1, 0, 0⟩),
    fabric := { s.fabric with routing := some ⟨c.nodeId, c.extents⟩ },
    power := { s.power with activity := [], hbmLearned := [], ioLearned := [], unattributed := 0 } }
  let phases := c.phases.zipIdx.flatMap (fun p =>
    [(Reg.PLT_PHASE_pref p.2, p.1.startOp), (Reg.PLT_PHASE_valid p.2, flag p.1.valid), (Reg.PLT_PHASE_est_w p.2, 0)])
  let dies := (List.range 8).map (fun d => (Reg.PLT_DIE_phase d, 0))
  ((s1.setRegs ([(Reg.CHT_SERIAL_serial, c.serial), (Reg.CHT_DIGEST_digest, leNat c.digest),
      (Reg.CHT_COMMON_DIGEST_digest, leNat c.commonDigest)] ++ phases ++ dies)).extendMeasure 4 c.digest).breakChanged
    s.breakMaps

/-- Change the Chart state; every port hears of it (R296). -/
def State.setChart (s : State) (state : Nat) : State := (s.setReg Reg.CHT_STATUS_state state).chartChanged

/-- A load written while the state is not NONE, or with an unload, is rejected with STATE (R41, R47); load_failed carries
status and reason (R44, R395). -/
def State.rejectLoad (s : State) : State :=
  (s.loadResult stCHART_INVALID 1 0).post Reg.CHT_EVENT_load_failed 0xFF stCHART_INVALID 1

/-- A load starts: the image is read once, when its length and place allow (R41, R43, R44). -/
def State.startLoad (s : State) : State :=
  let base := s.reg Reg.CHT_IMAGE_ADDR_addr * 4096
  let len := s.reg Reg.CHT_IMAGE_LEN_len
  let fits := decide (256 ≤ len) && decide (len ≤ 536870912) && decide (len % 16 = 0) && decide (base + len ≤ hbmEnd)
  ({ s with load := some ⟨if fits then s.mem.readN base len else [], fits, s.now⟩ }.setReg Reg.CHT_CTRL_load 1).setChart
    chtLoading

/-! ### Draining and unloading (R47) -/

/-- A live task ends with JOB_KILLED: what it was writing is undefined, its requests are forgotten (R346, R293). -/
def State.killTask (s : State) (t : Task) : State :=
  match t.phase with
  | .recordDue => s
  | .signalling => s
  | _ => (s.cutOff t).complete t stJOB_KILLED

/-- Class-3 packets of some jobs that wait for a pending-signal entry fail, and give back their credit. -/
def State.dropHeld (s : State) (sel : Nat → Bool) (status : Nat) : State :=
  let gone := s.fabric.heldSignals.filter (fun a => sel a.packet.jobId)
  let s1 := { s with fabric := { s.fabric with heldSignals := s.fabric.heldSignals.filter (fun a => !sel a.packet.jobId) } }
  gone.foldl (fun a x => (a.freeArrival x).respond x.packet status) s1

/-- Combining entries of some jobs are freed, with the credit of what they hold. -/
def State.dropCombining (s : State) (sel : Nat → Bool) : State :=
  let gone := s.combining.filter (fun e => sel e.job)
  (gone.flatMap (·.held)).foldl State.freeArrival { s with combining := s.combining.filter (fun e => !sel e.job) }

/-- What the jobs of a test hold besides tasks ends: streams, tables, reductions, pending signals, combining entries (R346
step 4, R132). -/
def State.dropUnits (s : State) (sel : Nat → Bool) (status : Nat) : State :=
  let s1 := ((s.closeStreams (fun x => sel x.job)).dropCombining sel).dropHeld sel status
  { s1 with
    tables := s1.tables.filter (fun x => !sel x.job),
    reductions := s1.reductions.filter (fun x => !sel x.job),
    signals := s1.signals.filter (fun x => !sel x.job) }

/-- A ring whose entries that are not taken are abandoned, with what is left of a TASKS entry (R47). -/
def Ring.abandon (r : Ring) : Ring :=
  { r with progress := none, stalled := none, carried := r.carried && r.heldByRecord, tableFull := false }

/-- force acts: the remaining tasks end with JOB_KILLED, entries not taken are abandoned, with what is left of a TASKS entry
(R47). -/
def State.forceDrain (s : State) : State :=
  let s1 : State := { s with rings := s.rings.map Ring.abandon }
  s1.tasks.foldl State.killTask s1

/-- unload (R47): draining from ACTIVE; a load in progress is waited for; NONE completes at once. -/
def State.unload (s : State) : State :=
  if s.loading then { s with unloadWaiting := true }.setReg Reg.CHT_CTRL_unload 1
  else if s.chtState = chtActive then
    let s1 := (s.setReg Reg.CHT_CTRL_unload 1).setChart chtDraining
    if s.reg Reg.CHT_CTRL_force = 1 then s1.forceDrain else s1
  else if s.chtState = chtNone then (s.setReg Reg.CHT_CTRL_unload 0).post Reg.CHT_EVENT_unload_done
  else s

/-- UNLOAD (R47). -/
def execUnload (s : State) : Host.Outcome State Fault Refusal := perform .unload (s.hostWrite s.unload)

/-- load written to CHT_CTRL, with unload in the same cycle or not (R44, R47). -/
def State.loadWrite (s : State) (withUnload : Bool) : State :=
  if s.loading then (if withUnload then s.unload else s)
  else if withUnload then s.unload.rejectLoad
  else if s.chtState ≠ chtNone then s.rejectLoad
  else s.startLoad

/-- LOAD (R44, R47). -/
def execLoad (withUnload : Bool) (s : State) : Host.Outcome State Fault Refusal :=
  perform (.load withUnload) (s.hostWrite (s.loadWrite withUnload))

/-- The load in progress ends with the outcome of its checks (R42, R44). -/
def State.loadEnds (s : State) (r : Except Failure Chart) : State :=
  let s1 := { s with load := none }.setReg Reg.CHT_CTRL_load 0
  match r with
  | .ok c => (((s1.install c).loadResult stOK 0 0).setChart chtActive).post Reg.CHT_EVENT_load_done
  | .error x =>
    ((s1.loadResult stCHART_INVALID x.1 x.2).setChart chtNone).post Reg.CHT_EVENT_load_failed 0xFF stCHART_INVALID x.1

/-- LOAD_CHECKS_END: the checks of the load in progress decide it; then an unload that waited proceeds (R41, R44, R47). -/
def State.loadChecksEnd (s : State) : State :=
  match s.load with
  | none => s
  | some l =>
    let s1 := s.loadEnds (s.checkImage l)
    if s1.unloadWaiting then { s1 with unloadWaiting := false }.unload else s1

/-- LOAD_CHECKS_END (R41). -/
def execLoadChecksEnd (s : State) : Host.Outcome State Fault Refusal := perform .loadChecksEnd s.loadChecksEnd

/-- FORCE: force set; while DRAINING it acts at once (R47). -/
def State.force (s : State) : State :=
  let s1 := s.setReg Reg.CHT_CTRL_force 1
  if s.chtState = chtDraining ∧ s.zeroing = false then s1.forceDrain else s1

/-- FORCE (R47). -/
def execForce (s : State) : Host.Outcome State Fault Refusal := perform .force (s.hostWrite s.force)

/-- A ring holds nothing that was rung and not taken, and no record. -/
def Ring.empty (r : Ring) : Bool :=
  decide (r.head = r.tail) && !r.inWork && r.waiting.isEmpty

/-- Draining has ended: with force 0 every allocated ring is empty and every task retired, with force 1 no task is live. -/
def State.drained (s : State) : Bool :=
  if s.reg Reg.CHT_CTRL_force = 1 then s.tasks.all (fun t => !t.live)
  else s.tasks.isEmpty && s.rings.all (fun r => (s.ringJob? r.id).isNone || !r.enabled || r.empty)

/-- Zero every tile store and the hot-row backing (R47). -/
def State.zeroStores (s : State) : State :=
  let hot := (s.chart.map (·.hotBytes)).getD 0
  s.memOps [.zero (tileKey 0 0) (2 ^ 31), .zero (hbmEnd - hot) hot]

/-- UNLOAD_DRAINED: no task remains; the stores are zeroed (R47). -/
def State.unloadDrained (s : State) : State :=
  if s.chtState = chtDraining ∧ s.zeroing = false ∧ s.drained then { s with zeroing := true }.zeroStores else s

/-- UNLOAD_DRAINED (R47). -/
def execUnloadDrained (s : State) : Host.Outcome State Fault Refusal := perform .unloadDrained s.unloadDrained

/-- A ring that no job owns any longer: disabled, with nothing in progress. -/
def Ring.released (r : Ring) : Ring :=
  { r with enabled := false, progress := none, heldByRecord := false, fenced := false, tableFull := false,
           stalled := none, carried := false, closing := false, waiting := [] }

/-- Links that are UP become MGMT_ONLY, with their notices, as the Chart that placed the module goes (R279, R296). -/
def State.linksLose (s : State) : State :=
  (List.range 8).foldl (fun a p => if a.portState p = psUP then a.setLink p psMGMT_ONLY 4 else a) s

/-- The Chart goes, with its jobs and all they hold (R45, R47). -/
def State.dropChart (s : State) : State :=
  let s1 := s.linksLose.dropUnits (fun _ => true) stACCESS
  let s2 : State := { s1 with
    chart := none, jobs := [], tasks := [], tables := [], zeroing := false, rings := s1.rings.map Ring.released }
  (s2.setRegs ([(Reg.CHT_SERIAL_serial, 0), (Reg.CHT_DIGEST_digest, 0), (Reg.CHT_COMMON_DIGEST_digest, 0)] ++
    (List.range 64).flatMap (fun p =>
      [(Reg.PLT_PHASE_valid p, 0), (Reg.PLT_PHASE_pref p, 0), (Reg.PLT_PHASE_est_w p, 0)]))).breakChanged s1.breakMaps

/-- UNLOAD_DONE: zeroing has ended; state becomes NONE and unload_done is posted (R47). -/
def State.unloadDone (s : State) : State :=
  if s.zeroing then
    ((s.zeroStores.dropChart.setReg Reg.CHT_CTRL_unload 0).setChart chtNone).post Reg.CHT_EVENT_unload_done
  else s

/-- UNLOAD_DONE (R47). -/
def execUnloadDone (s : State) : Host.Outcome State Fault Refusal := perform .unloadDone s.unloadDone

end Sys2Proof.Machine
end

