-- ==== Sys2Proof/Machine/Reset.lean ====
section
/-!
DEFINITION. The resets of R400: function reset, a write to DEV_RESET, module reset (State.moduleReset).
-/

namespace Sys2Proof.Machine

/-- Registers that a function reset returns to their reset values: feature acceptance, BAR2 base, event-ring and MSI-X
state (R400). -/
def functionResetOffset (off : Nat) : Bool :=
  (decide (0x30 ≤ off) && decide (off < 0x60)) || (decide (0x70 ≤ off) && decide (off < 0xA0))

/-- A ring after a function reset: disabled, with its default vector (R394, R400). -/
def Ring.functionReset (r : Ring) : Ring := { r.released with vector := 1 + r.id % 2047 }

/-- Function reset (R400, R46): jobs end without records, rings are disabled, a load in progress is discarded, the Chart is
gone, feature acceptance, BAR2, MSI-X and event-ring state return to reset, tile stores are zeroed, HOST_DMA ends; HBM,
the torus ports, the Binnacle, the error log and the counters stay. -/
def State.functionReset (s : State) : State :=
  let s1 := ({ s with load := none, unloadWaiting := false }.dropChart.resetRegs functionResetOffset).memOps
    [.zero (tileKey 0 0) (2 ^ 31)]
  let s2 : State := { s1 with
    rings := s1.rings.map Ring.functionReset,
    eventSeq := 0,
    sysreset := none,
    fabric := { s1.fabric with requests := [], replies := [], waiting := [], coalescer := [] },
    pcie := { s1.pcie with bar2Log2Gib := 0, msixEnable := false, msixMaskAll := false, msix := [], pba := [],
                           holdoff := [], reads := [] } }
  (s2.setRegs [(Reg.CHT_CTRL_load, 0), (Reg.CHT_CTRL_unload, 0)]).setChart chtNone

/-- FUNCTION_RESET (R400). -/
def execFunctionReset (s : State) : Host.Outcome State Fault Refusal := perform .functionReset s.functionReset

/-- DEV_RESET: the confirming value starts a module reset; others are ignored (R400). -/
def execDevReset (value : Nat) (s : State) : Host.Outcome State Fault Refusal :=
  perform (.devReset value) (s.hostWrite (if value % 2 ^ 32 = 0x4D525354 then s.moduleReset else s))

/-- MODULE_RESET: PERST# or a system reset (R400, R319). -/
def execModuleReset (s : State) : Host.Outcome State Fault Refusal := perform .moduleReset s.moduleReset

end Sys2Proof.Machine
end

