-- ==== Sys2Proof/Machine/Exact.lean ====
section
/-!
DEFINITION. Exact-sum cells (R299), contribution encodings (R300), checksums (R303), and the reductions: their pools and
ledgers (R307), the decision on each EXACT_ACC packet (R308) and the close (R310).
-/

namespace Sys2Proof.Machine

/-! ### Cells (R299) -/

/-- An exact-sum cell: it holds s · 2^−149. -/
structure ExactCell where
  s : Int
  nan : Bool
  posInf : Bool
  negInf : Bool
  invalid : Bool
  poison : Bool
deriving DecidableEq, Repr

/-- A cell that nothing has entered. -/
def ExactCell.zero : ExactCell := ⟨0, false, false, false, false, false⟩

/-- The 40 bytes of a cell. -/
def ExactCell.bytes (c : ExactCell) : List Byte :=
  leBytes 40 (ofSigned 312 c.s + flag c.nan * 2 ^ 312 + flag c.posInf * 2 ^ 313 + flag c.negInf * 2 ^ 314 +
    flag c.invalid * 2 ^ 315 + flag c.poison * 2 ^ 316)

/-- A cell from its 40 bytes. -/
def parseCell (b : List Byte) : ExactCell :=
  let v := fieldLe b 0 40
  ⟨toSigned 312 v, bit v 312, bit v 313, bit v 314, bit v 315, bit v 316⟩

/-- The integer v · 2^149 of a finite FP32 value; 0 of another. -/
def Num.cellInt : Num → Int
  | .fin n m e => signedMag n m * 2 ^ (e + 149).toNat
  | _ => 0

/-- An FP32 value as a cell image: a non-finite one sets its flag (R299). -/
def fp32Cell (b : Nat) : ExactCell :=
  match ofFp32 b with
  | .nan => { ExactCell.zero with nan := true }
  | .inf n => { ExactCell.zero with posInf := !n, negInf := n }
  | v => { ExactCell.zero with s := v.cellInt }

/-- A contribution enters a cell exactly; one that would take the sum out of range makes the cell invalid (R299). -/
def ExactCell.add (c e : ExactCell) : ExactCell :=
  let t := c.s + e.s
  let c1 := { c with nan := c.nan || e.nan, posInf := c.posInf || e.posInf, negInf := c.negInf || e.negInf }
  if c.invalid then c1
  else if 2 ^ 311 ≤ t.natAbs then { c1 with invalid := true }
  else { c1 with s := t }

/-- The value that a cell holds (R212, R299). -/
def ExactCell.value (c : ExactCell) : Num :=
  (Acc.mk c.s 42 c.nan c.posInf c.negInf c.invalid 0).value

/-! ### Encodings and checksums (R300, R303) -/

/-- Bytes per element of an encoding: FP32 or X320. -/
def encBytes (enc : Nat) : Nat := if enc = 1 then 40 else 4

/-- Element j of a payload, as a cell image. -/
def elementOf (enc : Nat) (payload : List Byte) (j : Nat) : ExactCell :=
  if enc = 1 then parseCell (sliceBytes payload (40 * j) 40) else fp32Cell (fieldLe payload (4 * j) 4)

/-- The elements of a payload. -/
def elementsOf (enc : Nat) (payload : List Byte) : List ExactCell :=
  (List.range (payload.length / encBytes enc)).map (elementOf enc payload)

/-- What an element adds to a checksum. -/
def csumTerm (i : Nat) (s : Int) : Nat := coef i * (s % (csumP : Int)).toNat

/-- csum of R303: elements from a result address on. -/
def csum (addr : Nat) (l : List ExactCell) : Nat :=
  l.zipIdx.foldl (fun c e => (c + csumTerm (addrOff addr / 4 + e.2) e.1.s) % csumP) 0

/-- Whether a payload byte range is poisoned by the packet's map. -/
def mapPoisons (map off n : Nat) : Bool := (blocksOf off n).any (bit map)

/-! ### Reductions (R305 to R307) -/

/-- The reduction of a job that holds a space-0 offset. -/
def State.reductionAt? (s : State) (job off : Nat) : Option Reduction :=
  s.reductions.find? (fun r => decide (r.job = job) && decide (r.addr ≤ off) && decide (off < r.addr + r.length))

/-- Replace a reduction. -/
def State.setReduction (s : State) (r : Reduction) : State :=
  { s with reductions := s.reductions.map (fun q => if q.job = r.job ∧ q.addr = r.addr ∧ q.length = r.length then r else q) }

/-- Result blocks of a reduction. -/
def Reduction.blocks (r : Reduction) : Nat := ceilDiv r.length 4096

/-- Bytes of a ledger entry: the running checksum and the bitmap of contributors. -/
def ledgerStride (contributors : Nat) : Nat := 8 + ceilDiv contributors 64 * 8

/-- Bytes of a ledger. -/
def ledgerBytes (length contributors : Nat) : Nat := ceilDiv length 4096 * ledgerStride contributors

/-- The key of a block's ledger entry. -/
def Reduction.ledgerKey (r : Reduction) (block : Nat) : Nat := r.ledger + block * ledgerStride r.contributors

/-- A ledger's bitmap of a block. -/
def State.ledgerBits (s : State) (r : Reduction) (block : Nat) : Nat :=
  leNat (s.mem.readN (r.ledgerKey block + 8) (ledgerStride r.contributors - 8))

/-- Whether a counted reduction has every contribution (R310). -/
def State.ledgerFull (s : State) (r : Reduction) : Bool :=
  (List.range r.blocks).all (fun b => decide (s.ledgerBits r b % 2 ^ r.contributors = 2 ^ r.contributors - 1))

/-- The running checksum of a block. -/
def State.runningSum (s : State) (r : Reduction) (block : Nat) : Nat :=
  if r.counted then leNat (s.mem.readN (r.ledgerKey block) 8) else (lookupNat block r.sums).getD 0

/-- The key of a pool entry. -/
def Reduction.poolKey (r : Reduction) (i : Nat) : Nat := r.pool + 64 * i

/-- A pool entry's bytes: the cell, and valid with the element's result offset (R307). -/
def poolEntry (c : ExactCell) (off : Nat) : List Byte := c.bytes ++ leBytes 8 (2 ^ 63 + off) ++ List.replicate 16 0

/-- The cell in a pool entry; an entry in poisoned memory is a poisoned cell. -/
def State.poolCell (s : State) (r : Reduction) (i : Nat) : ExactCell :=
  let c := parseCell (s.mem.readN (r.poolKey i) 40)
  { c with poison := c.poison || s.mem.poisoned (r.poolKey i) 64 }

/-- The valid word of a pool entry: the element's result offset, if it holds one. -/
def State.poolOffset? (s : State) (r : Reduction) (i : Nat) : Option Nat :=
  let v := leNat (s.mem.readN (r.poolKey i + 0x28) 8)
  if bit v 63 then some (bits v 44 0) else none

/-- The entries that may hold elements of a block: all of a counted pool, one half of an uncounted one (R307). -/
def Reduction.entryRange (r : Reduction) (block : Nat) : List Nat :=
  let half := r.poolEntries / 2
  (List.range half).map (fun i => block % 2 * half + i)

/-- The entries of a block's half with the elements they hold. -/
def State.poolHalf (s : State) (r : Reduction) (block : Nat) : List (Nat × Option Nat) :=
  (r.entryRange block).map (fun i => (i, s.poolOffset? r i))

/-- A free entry for an element: where the pool is uncounted the order of entries is not defined, and a free value says
where the search begins (R307). -/
def chooseEntry (draw : Nat) (half : List (Nat × Option Nat)) : Option Nat :=
  let free := (half.filter (fun e => e.2.isNone)).map (·.1)
  free[Config.freeValue draw % free.length]?

/-- The pool entries of a packet's elements in an uncounted reduction, the new ones chosen one after the other; none: the
pool lacks entries. -/
def placeElements : Nat → List Nat → List (Nat × Option Nat) → Option (List Nat)
  | _, [], _ => some []
  | draw, o :: r, half =>
    match half.find? (fun e => decide (e.2 = some o)) with
    | some e => (placeElements draw r half).map (e.1 :: ·)
    | none =>
      match chooseEntry draw half with
      | none => none
      | some i =>
        (placeElements (draw + 1) r (half.map (fun e => if e.1 = i then (i, some o) else e))).map (i :: ·)

/-! ### An arriving packet (R304, R308) -/

/-- A decoded EXACT_ACC packet. -/
structure ExactPacket where
  enc : Nat
  off : Nat
  elems : List ExactCell
  step : Nat
  contributor : Nat
  sum : Nat
  map : Nat
  malformed : Bool
deriving DecidableEq, Repr

/-- Decode an EXACT_ACC packet (R300). -/
def decodeExact (k : Packet) : ExactPacket :=
  let enc := bits k.arg0 3 0
  let size := encBytes enc
  let off := addrOff k.addr
  let elems := elementsOf enc (sliceBytes k.payload 0 k.length)
  let reserved := enc = 1 ∧ (List.range (k.length / 40)).any (fun j => decide (bits (fieldLe k.payload (40 * j) 40) 319 315 ≠ 0))
  { enc := enc, off := off, elems := elems, step := bits k.contribId 63 32, contributor := bits k.contribId 15 0,
    sum := k.arg1, map := k.poisonMap % 2 ^ ceilDiv k.length 64,
    malformed := decide (2 ≤ enc) || decide (k.length % size ≠ 0) || decide (off % 4 ≠ 0) || decide reserved ||
      (decide (0 < elems.length) && decide (off / 4096 ≠ (off + 4 * elems.length - 1) / 4096)) }

/-- Whether an element of a packet is poisoned. -/
def ExactPacket.poisoned (x : ExactPacket) (j : Nat) : Bool := mapPoisons x.map (encBytes x.enc * j) (encBytes x.enc)

/-- A cell after an element of a packet: a poisoned element poisons it and adds nothing (R304). -/
def ExactPacket.into (x : ExactPacket) (c : ExactCell) (e : ExactCell) (j : Nat) : ExactCell :=
  if x.poisoned j then { c with poison := true } else c.add e

/-- Write element j of a packet into its pool entry. -/
def State.applyElement (s : State) (r : Reduction) (x : ExactPacket) (entry : Nat) (e : ExactCell) (j : Nat) : State :=
  let c := s.poolCell r entry
  let c1 := x.into c e j
  (s.write (r.poolKey entry) (poolEntry c1 (x.off + 4 * j))).bump Reg.COL_CNT_CELL_INVALID (flag (c1.invalid && !c.invalid))

/-- Add a packet's carried checksum into its block's running sum, and set its ledger bit. -/
def State.recordPacket (s : State) (r : Reduction) (x : ExactPacket) (block : Nat) : State :=
  let t := (s.runningSum r block + x.sum) % csumP
  if r.counted then
    let b := s.ledgerBits r block
    let b1 := if bit b x.contributor then b else b + 2 ^ x.contributor
    s.write (r.ledgerKey block) (leBytes 8 t ++ leBytes (ledgerStride r.contributors - 8) b1)
  else s.setReduction { r with sums := storeNat block t r.sums }

/-- Apply a packet whose elements go to these entries; how many of them were not cached is not given by the spec. -/
def State.applyPacket (s : State) (r : Reduction) (x : ExactPacket) (block : Nat) (entries : List Nat) : State :=
  let s1 := (entries.zip x.elems).zipIdx.foldl (fun a p => a.applyElement r x p.1.1 p.1.2 p.2) s
  let s2 := s1.recordPacket r x block
  let n := x.elems.length
  let (miss, s3) := s2.draw
  s3.bumps [(Reg.COL_CNT_CONTRIB, 1), (Reg.COL_CNT_ELEMENTS, n), (Reg.COL_CNT_CACHE_MISS, miss % (n + 1))]

/-- The owner's decision on an EXACT_ACC packet, and its response's status (R308). -/
def State.exactArrives (s : State) (k : Packet) : State × Nat :=
  let x := decodeExact k
  let found := if addrSpace k.addr = 0 ∧ s.node? = some (addrNode k.addr) then s.reductionAt? k.jobId x.off else none
  let past := (found.map (fun r => decide (r.addr + r.length < x.off + 4 * x.elems.length))).getD false
  if x.malformed || past then (s.bump Reg.FAB_CNT_BAD_HEADER 1, stFORMAT)
  else match found with
    | none => (s.bump Reg.COL_CNT_NOT_OPEN 1, stACCESS)
    | some r =>
      let block := (x.off - r.addr) / 4096
      if r.closed || decide (x.step ≠ r.step) then (s.bump Reg.COL_CNT_LATE_ARRIVAL 1, stLATE)
      else if x.map = 0 ∧ csum k.addr x.elems ≠ x.sum then
        ((s.bump Reg.COL_CNT_CSUM_ARRIVAL 1).post Reg.COL_EVENT_csum_mismatch, stCSUM)
      else if r.counted then
        if r.contributors ≤ x.contributor then (s.bump Reg.COL_CNT_DUPLICATE 1, stFORMAT)
        else if bit (s.ledgerBits r block) x.contributor then
          if r.backup then (s.bump Reg.COL_CNT_BACKUP_DISCARDED 1, stOK)
          else ((s.bump Reg.COL_CNT_DUPLICATE 1).post Reg.COL_EVENT_duplicate, stOK)
        else
          (s.applyPacket r x block ((List.range x.elems.length).map (fun j => (x.off - r.addr) / 4 + j)), stOK)
      else
        match placeElements s.free ((List.range x.elems.length).map (fun j => x.off + 4 * j)) (s.poolHalf r block) with
        | none => (s.bump Reg.COL_CNT_POOL_FULL 1, stBOUND)
        | some entries => ({ s with free := s.free + entries.length }.applyPacket r x block entries, stOK)

/-! ### The close (R304, R310) -/

/-- The touched elements of a reduction: pool entry, result offset and cell. -/
def State.touched (s : State) (r : Reduction) : List (Nat × Nat × ExactCell) :=
  (List.range r.poolEntries).filterMap (fun i => (s.poolOffset? r i).map (fun o => (i, o, s.poolCell r i)))

/-- The blocks whose cells do not give their running checksum: block, carried sum, recomputed sum. A block with an invalid
or poisoned cell is not compared. -/
def State.csumDiffers (s : State) (r : Reduction) (cells : List (Nat × Nat × ExactCell)) : List (Nat × Nat × Nat) :=
  (List.range r.blocks).filterMap (fun b =>
    let mine := cells.filter (fun c => decide ((c.2.1 - r.addr) / 4096 = b))
    let sum := mine.foldl (fun t c => (t + csumTerm (c.2.1 / 4) c.2.2.s) % csumP) 0
    let carried := s.runningSum r b
    if mine.any (fun c => c.2.2.invalid || c.2.2.poison) || decide (sum = carried) then none else some (b, carried, sum))

/-- Strictly rising list of distinct numbers. -/
def sortNats (l : List Nat) : List Nat := l.foldl (fun a x => insertNat x a) []

/-- What a CLOSE needs of its argument block. -/
structure CloseArgs where
  touched : Nat
  bound : Nat
  nTouched : Nat
deriving DecidableEq, Repr

/-- The touched elements' results, rounded once into FP32 (R310), with the conversions' counts. -/
def closeRounds (cells : List (Nat × Nat × ExactCell)) : List (Nat × Nat × Tele) :=
  cells.map (fun c => let (b, t) := convertRne fmtFP32 c.2.2.value; (c.2.1, b, t))

/-- The result that a CLOSE writes: every element of a counted reduction, the touched ones of an uncounted one; blocks that
hold a poisoned cell are poisoned. -/
def State.closeResult (s : State) (r : Reduction) (cells : List (Nat × Nat × ExactCell)) : State :=
  if r.keepCells then s
  else
    let rounds := closeRounds cells
    let base := if r.counted then s.memOps [.zero r.addr r.length] else s
    let s1 := rounds.foldl (fun a x => a.write x.1 (leBytes 4 x.2.1)) base
    let s2 := s1.memOps ((cells.filter (fun c => c.2.2.poison)).map (fun c => .poison (c.2.1 / 64 * 64) 64))
    s2.bumps (teleBumps fmtFP32 ((rounds.map (·.2.2)).foldl Tele.plus {}))

/-- Close a reduction for a task: the checksums, the result, and the touched rows; the status (R304, R310). -/
def State.closeReduction (s : State) (t : Task) (r : Reduction) (a : CloseArgs) : State × Nat :=
  let cells := s.touched r
  let closed := s.setReduction { r with closed := true }
  match s.csumDiffers r cells with
  | (b, carried, sum) :: more =>
    let s1 := (closed.bump Reg.COL_CNT_CSUM_CLOSE (more.length + 1)).post Reg.COL_EVENT_csum_mismatch
    (s1.logError
      { source := 6, status := stCSUM, severity := 2, die := 8 + b % 2, job := r.job,
        addr := s.addrOfKey (r.addr + 4096 * b), signalTag := t.desc.signalTag, userTag := t.desc.userTag,
        detail0 := carried, detail1 := sum }, stCSUM)
  | [] =>
    let rows := sortNats (cells.map (fun c => (c.2.1 - r.addr) / r.rowBytes))
    if r.counted then (closed.closeResult r cells, stOK)
    else if a.bound < rows.length then (closed, stBOUND)
    else
      let s1 := closed.closeResult r cells
      ((s1.write a.touched (rows.flatMap (leBytes 8))).write a.nTouched (leBytes 4 rows.length), stOK)

end Sys2Proof.Machine
end

