-- ==== Sys2Proof/Machine/Remote.lean ====
section
/-!
DEFINITION. Remote operations: how the owner serves requests (R282 to R288, R308, R347, R383), how responses end them, and the
REMOTE task (R289 to R291, R301).
-/

namespace Sys2Proof.Machine

/-! ### The owner's checks (R23, R283) -/

/-- The status of a request's range at its owner: R23 in its order, and one window that holds the whole range and has the
remote bit; never BOUND. -/
def State.ownerStatus (s : State) (job a n : Nat) (read write : Bool) : Nat :=
  if 4 ≤ addrSpace a then stFORMAT
  else if !s.nodeExists (addrNode a) || !decide (s.node? = some (addrNode a)) || !s.offsetValid a ||
      (decide (addrSpace a = 3) && write) then stACCESS
  else failIf (!(s.windowsAt job a read write true).any (fun w => decide (addrOff a + n ≤ w.base + w.length))) stACCESS

/-- A response with data. -/
def State.answer (s : State) (k : Packet) (data : List Byte) (map arg0 : Nat) : Packet :=
  { s.responseTo k stOK with length := data.length, poisonMap := map, arg0 := arg0, payload := data }

/-- The target formats of NM_ACC (R285). -/
def nmFormats : List Nat := [fmtFP32, fmtBF16, fmtFP16, fmtE4M3, fmtE5M2, fmtINT8]

/-- Bytes of one element of an NM_ACC target. -/
def nmSize (fmt : Nat) : Nat := fmtBits fmt / 8

/-! ### Serving (R282 to R288) -/

/-- PUT: the data is written with its poison. -/
def State.servePut (s : State) (k : Packet) : State × Nat :=
  let st := s.ownerStatus k.jobId k.addr k.length false true
  if st = stOK then (s.storePayload k.addr (sliceBytes k.payload 0 k.length) k.poisonMap, stOK) else (s, st)

/-- GET: the data with its poison map. -/
def State.serveGet (s : State) (k : Packet) : Packet :=
  let st := s.ownerStatus k.jobId k.addr k.length true false
  if st = stOK then s.answer k (s.readAddr k.addr k.length) (s.poisonMapOf k.addr k.length) 0 else s.responseTo k st

/-- One LIST_RESP: rows of a list from index first on, at the stride; a row that fails gives the packet its status and no
payload (R283). -/
def State.listPacket (s : State) (k : Packet) (rowBytes stride first : Nat) (rows : List Nat) : Packet :=
  let at_ := fun off => globalAddr (s.node?.getD 0) 0 off
  let st := firstFailure (rows.map (fun off => s.ownerStatus k.jobId (at_ off) rowBytes true false))
  let place := first + rows.length * 65536
  if st ≠ stOK then { s.responseTo k st with arg0 := place }
  else
    let data := rows.flatMap (fun off => sliceBytes (s.readAddr (at_ off) rowBytes) 0 stride)
    let map := sumNat (rows.zipIdx.map (fun r => s.poisonMapOf (at_ r.1) rowBytes * 2 ^ (stride / 64 * r.2)))
    s.answer k data map place

/-- LIST_GET: its rows in list order, as many per packet as fit (R282). -/
def State.serveList (s : State) (k : Packet) : List Packet :=
  let rowBytes := bits k.arg0 15 0
  let stride := roundUp rowBytes 64
  if rowBytes = 0 ∨ 4096 < rowBytes ∨ k.length % 8 ≠ 0 ∨ 4096 < k.length then [s.responseTo k stFORMAT]
  else
    let per := 4096 / stride
    let rows := (List.range (k.length / 8)).map (fun i => bits (fieldLe k.payload (8 * i) 8) 44 0)
    if rows.isEmpty then [s.answer k [] 0 0]
    else (chunks per rows).zipIdx.map (fun c => s.listPacket k rowBytes stride (c.2 * per) c.1)

/-- NM_ACC: each target element is added exactly to its FP32 value and rounded, stochastically but for FP32; poison of the
target stays and poisoned values poison their targets, and the operation answers POISON where it consumed any (R285, R344,
R345). -/
def State.serveNmAcc (s : State) (k : Packet) : State × Nat :=
  let size := nmSize k.fmt
  let n := k.length / 4
  if !nmFormats.contains k.fmt || decide (k.length % 4 ≠ 0) then (s, stFORMAT)
  else
    let st := s.ownerStatus k.jobId k.addr (n * size) true true
    if st ≠ stOK then (s, st)
    else
      let key := s.key k.addr
      let targets := decodeElems k.fmt (s.mem.readN key (n * size)) n
      let values := decodeElems fmtFP32 (sliceBytes k.payload 0 k.length) n
      let sums := (targets.zip values).map (fun p => p.1.add p.2)
      let idx := fun i => (addrOff k.addr / size + i) % 2 ^ 48
      let mode := if k.fmt = fmtFP32 then Rounding.rne
        else .sr ((List.range n).map (fun i => srBits (s.seed k.jobId) (idx i) (bits k.arg0 31 0) (bits k.arg0 63 32)))
      let (codes, tele) := convertList k.fmt mode sums
      let old := (blocksOf key (n * size)).filter (s.mem.poison.contains ·)
      let new := (List.range n).filter (fun j => bit k.poisonMap (4 * j / 64))
      ((s.memOps ([.write key (packElems k.fmt codes)] ++ old.map (fun b => .poison (b * 64) 64) ++
          new.map (fun j => .poison (key + j * size) size))).bumps (teleBumps k.fmt tele),
        if old = [] ∧ new = [] then stOK else stPOISON)

/-- CAS: the old word is returned in every case, and swap is written where it equals compare (R286); a poisoned word is
consumed (R344). -/
def State.serveCas (s : State) (k : Packet) : State × Packet :=
  if k.addr % 8 ≠ 0 then (s, s.responseTo k stFORMAT)
  else
    let st := s.ownerStatus k.jobId k.addr 8 true true
    if st ≠ stOK then (s, s.responseTo k st)
    else
      let old := s.readLe k.addr 8
      let st := if s.poisonedAt k.addr 8 then stPOISON else stOK
      (if old = k.arg0 then s.write (s.key k.addr) (leBytes 8 k.arg1) else s, { s.answer k [] 0 old with status := st })

/-- The signal of a PUT_SIGNAL: its ACK follows; without room in the pending-signal table the packet waits (R57, R287). -/
def State.serveSignal (s : State) (a : Arrival) : State × List Packet :=
  let k := a.packet
  match s.signal? k.jobId (bits k.arg0 31 0) 1 false with
  | some s1 => (s1.freeArrival a, [s1.responseTo k stOK])
  | none => ({ s with fabric := { s.fabric with heldSignals := s.fabric.heldSignals ++ [a] } }, [])

/-- The effect of a request at its owner with its responses, its credit given back (R283, R347). -/
def State.serveBody (s : State) (a : Arrival) : State × List Packet :=
  let k := a.packet
  let done := fun (t : State) (l : List Packet) => (t.freeArrival a, l)
  if 2 ≤ s.jobState k.jobId then done s [s.responseTo k stJOB_KILLED]
  else if (s.chartJob? k.jobId).isNone then done s [s.responseTo k stACCESS]
  else if k.op = pktPUT then
    let (t, st) := s.servePut k
    done t [t.responseTo k st]
  else if k.op = pktGET then done s [s.serveGet k]
  else if k.op = pktLIST_GET then done s (s.serveList k)
  else if k.op = pktEXACT_ACC then
    let (t, st) := s.exactArrives k
    done t [t.responseTo k st]
  else if k.op = pktNM_ACC then
    let (t, st) := s.serveNmAcc k
    done t [t.responseTo k st]
  else if k.op = pktCAS then
    let (t, r) := s.serveCas k
    done t [r]
  else
    let (t, st) := s.servePut k
    if st = stOK then t.serveSignal a else done t [t.responseTo k st]

/-- The requests that an owner serves. -/
def servedOps : List Nat := [pktPUT, pktGET, pktLIST_GET, pktEXACT_ACC, pktNM_ACC, pktCAS, pktPUT_SIGNAL]

/-- The record of a packet that has arrived; one that came without flits holds no credit. -/
def State.arrivalOf (s : State) (k : Packet) : Arrival :=
  (s.fabric.inbox.find? (fun a => decide (a.packet = k))).getD ⟨k, 8, 0, 0⟩

/-- Take a packet from the inbox; its credit stays with its record. -/
def State.unlist (s : State) (a : Arrival) : State :=
  { s with fabric := { s.fabric with inbox := s.fabric.inbox.erase a } }

/-- Send responses. -/
def State.sendAll (s : State) (l : List Packet) : State := l.foldl State.sendPacket s

/-- A request that finds no Chart here fails with ACCESS (R47). -/
def State.noChart (s : State) (k : Packet) : State := (s.takeIn k).respond k stACCESS

/-- The ranges of keys that a served request reads or writes under DMA tags: those of a refused one are none, and a reduction
engine's own accesses to its cells are not among them (R86, R307). -/
def State.servedRanges (s : State) (k : Packet) (responses : List Packet) : List (Nat × Nat) :=
  if !responses.any (fun r => decide (r.status = stOK) || decide (r.status = stPOISON)) then []
  else if k.op = pktLIST_GET then
    (List.range (k.length / 8)).map (fun i =>
      (s.key (globalAddr (s.node?.getD 0) 0 (bits (fieldLe k.payload (8 * i) 8) 44 0)), bits k.arg0 15 0))
  else if k.op = pktCAS then [(s.key k.addr, 8)]
  else if k.op = pktNM_ACC then [(s.key k.addr, k.length / 4 * nmSize k.fmt)]
  else if k.op = pktEXACT_ACC then []
  else [(s.key k.addr, k.length)]

/-- A request reaches its owner: in the anchor watch it is answered with TRUNC and starts a wake; entry to the watch it
abandons (R382, R383). -/
def State.serveRequest (s : State) (k : Packet) : State :=
  if s.node? = none then s.noChart k
  else if s.node? ≠ some k.dst then s
  else
    let a := s.arrivalOf k
    let s1 := (s.unlist a).wakeTrigger
    if s1.power.anchor = .awake then
      let (t, l) := s1.serveBody a
      (t.tagTraffic (rangeUnits 512 (s1.servedRanges k l))).sendAll l
    else ((s1.freeArrival a).bump Reg.PLT_CNT_WAKE_REFUSED 1).respond k stTRUNC

/-- A PUT_SIGNAL that waits for a pending-signal entry tries again. -/
def State.retrySignal (s : State) (a : Arrival) : State :=
  let s1 := { s with fabric := { s.fabric with heldSignals := s.fabric.heldSignals.erase a } }
  let (t, l) := s1.serveSignal a
  t.sendAll l

/-! ### The REMOTE task (R289, R290, R301) -/

/-- A REMOTE argument block. -/
structure RemoteArgs where
  op : Nat
  tc : Nat
  fmt : Nat
  length : Nat
  here : Nat
  remote : Nat
  tag : Nat
  tensor : Nat
  compare : Nat
  swap : Nat
  step : Nat
  contrib : Nat
  reserved : Bool
deriving DecidableEq, Repr

/-- A REMOTE argument block from its 64 bytes (R289). -/
def parseRemote (b : List Byte) : RemoteArgs :=
  let b1 := fieldLe b 1 1
  { op := fieldLe b 0 1, tc := bits b1 7 5, fmt := bits b1 4 1, length := fieldLe b 4 4, here := fieldLe b 8 8,
    remote := fieldLe b 0x10 8, tag := fieldLe b 0x18 4, tensor := fieldLe b 0x1C 4, compare := fieldLe b 0x20 8,
    swap := fieldLe b 0x28 8, step := fieldLe b 0x30 4, contrib := fieldLe b 0x34 4,
    reserved := bit b1 0 || decide (fieldLe b 2 2 ≠ 0) || decide (fieldLe b 0x38 8 ≠ 0) }

/-- Whether an op writes local: GET and CAS. -/
def RemoteArgs.writesHere (a : RemoteArgs) : Bool := a.op == pktGET || a.op == pktCAS

/-- The local range. -/
def RemoteArgs.hereRange (a : RemoteArgs) : Range :=
  { addr := a.here, len := a.length, read := !a.writesHere, write := a.writesHere }

/-- Codes and fields that fail FORMAT (R290, R301). -/
def RemoteArgs.bad (a : RemoteArgs) : Bool :=
  !servedOps.contains a.op || decide (a.op = pktLIST_GET) || a.reserved ||
    (if a.op = pktEXACT_ACC then decide (a.tc < 4) || decide (a.length % 4 ≠ 0) || decide (65536 ≤ a.contrib)
     else decide (a.tc ≠ 0)) ||
    (decide (a.op = pktNM_ACC) && (!nmFormats.contains a.fmt || decide (a.length % 4 ≠ 0))) ||
    (decide (a.op = pktCAS) && decide (a.length ≠ 8))

/-- Addresses that fail FORMAT (R23, R290, R301). -/
def State.remoteAddrBad (s : State) (a : RemoteArgs) : Bool :=
  decide (4 ≤ addrSpace a.here) || decide (4 ≤ addrSpace a.remote) || !decide (s.node? = some (addrNode a.here)) ||
    (decide (a.op = pktCAS) && (decide (a.remote % 8 ≠ 0) || decide (a.here % 8 ≠ 0))) ||
    (decide (a.op = pktEXACT_ACC) && decide (a.remote % 4 ≠ 0))

/-- REMOTE's checks at dispatch, in the order FORMAT, ACCESS, BOUND (R290). -/
def State.remoteCheck (s : State) (t : Task) : Nat :=
  let a := parseRemote t.args
  if a.bad || t.desc.spec then stFORMAT
  else if a.length = 0 then stOK
  else firstFailure
    [failIf (s.remoteAddrBad a) stFORMAT,
     s.rangeAccess t.job a.hereRange, failIf (!s.nodeExists (addrNode a.remote)) stACCESS, s.rangeBound t.job a.hereRange]

/-- A piece of a transfer: its remote address and bytes there, its local address and bytes here. -/
structure Piece where
  remote : Nat
  span : Nat
  here : Nat
  bytes : Nat
deriving DecidableEq, Repr

/-- The pieces of a transfer of span bytes: cut at every 4 KiB of the remote address; NM_ACC between elements, and at the
1,024 values that a packet holds (R281, R291). -/
def RemoteArgs.cut (a : RemoteArgs) (size span : Nat) : Nat → Nat → List Piece
  | 0, _ => []
  | fuel + 1, e =>
    if span ≤ e then []
    else
      let room := Nat.max size ((4096 - (a.remote + e) % 4096) / size * size)
      let most := if a.op = pktNM_ACC then 1024 * size else 4096
      let n := Nat.min (Nat.min room most) (span - e)
      let lo := if a.op = pktNM_ACC then e / size * 4 else e
      ⟨addrPlus a.remote e, n, addrPlus a.here lo, if a.op = pktNM_ACC then n / size * 4 else n⟩ :: a.cut size span fuel (e + n)

/-- The pieces of a REMOTE task. -/
def RemoteArgs.pieces (a : RemoteArgs) : List Piece :=
  let size := if a.op = pktNM_ACC then nmSize a.fmt else 1
  let span := if a.op = pktNM_ACC then a.length / 4 * size else a.length
  a.cut size span (span / 1024 + 2) 0

/-- The packet of a piece (R282, R300, R301). -/
def State.piecePacket (s : State) (t : Task) (a : RemoteArgs) (p : Piece) : Packet :=
  let base := { Packet.blank with dst := addrNode p.remote, jobId := t.job, op := a.op, tc := 1, addr := p.remote }
  let data := s.readAddr p.here p.bytes
  let full := { base with length := p.bytes, payload := data, poisonMap := s.poisonMapOf p.here p.bytes }
  if a.op = pktGET then { base with length := p.bytes }
  else if a.op = pktCAS then { base with tc := 3, length := 8, arg0 := a.compare, arg1 := a.swap }
  else if a.op = pktPUT_SIGNAL then { full with tc := 3, arg0 := a.tag }
  else if a.op = pktNM_ACC then { full with fmt := a.fmt, arg0 := a.tensor + a.step * 2 ^ 32 }
  else if a.op = pktEXACT_ACC then
    { full with tc := a.tc, contribId := a.step * 2 ^ 32 + a.contrib, arg1 := csum p.remote (elementsOf 0 data) }
  else full

/-- Responses to this module's own requests end them at once. -/
def State.endAll (s : State) (l : List Packet) : State :=
  l.foldl (fun a r => a.endRequest r.seq r.status r.poisonMap r.arg0 r.payload) s

/-- Issue a request of a task: served here where it names this module, else sent (R23, R290). -/
def State.issueOrServe (s : State) (io : Nat) (id : TaskId) (k : Packet) (localAddr : Nat) : State :=
  if s.node? = some k.dst then
    let (seq, s1) := s.takeSeq io
    let p := { k with seq := seq, src := k.dst }
    let r : Request :=
      { seq := seq, task := id, op := k.op, remote := k.addr, length := k.length, localAddr := localAddr,
        sentAt := some s.now, rows := [], left := 0, ended := none }
    let s2 := { s1 with fabric := { s1.fabric with requests := s1.fabric.requests ++ [r] } }
    let (s3, l) := s2.serveBody ⟨p, 8, 0, 0⟩
    s3.endAll l
  else s.issue io id k localAddr []

/-- The first poisoned block of the values that a piece of an NM_ACC carries: its owner consumes them (R285, R344). -/
def State.piecePoison (s : State) (a : RemoteArgs) (p : Piece) : Option Nat :=
  if a.op = pktNM_ACC then (s.mem.firstPoison (s.key p.here) p.bytes).map s.addrOfKey else none

/-- Send the next pieces of a REMOTE task while its I/O die has free request slots; the last one sent, it waits for its
responses (R291). -/
def State.sendPieces (id : TaskId) : Nat → State → State
  | 0, s => s
  | fuel + 1, s =>
    match s.task? id with
    | none => s
    | some t =>
      let a := parseRemote t.args
      match a.pieces[t.stage - 1]? with
      | none => (s.setTask { t with stage := 0 }).remoteProgress id
      | some p =>
        if s.outstanding t.desc.place < 16384 then
          let s1 := s.setTask { t with stage := t.stage + 1, poisonAt := t.poisonAt.orElse (fun _ => s.piecePoison a p) }
          State.sendPieces id fuel (s1.issueOrServe t.desc.place id (s1.piecePacket t a p) p.here)
        else s

/-- A REMOTE task goes on sending. -/
def State.continueRemote (s : State) (t : Task) : State :=
  State.sendPieces t.id ((parseRemote t.args).pieces.length + 1) s

/-- A running task goes before another of its class in their engine's packet issue: higher priority, then older (R59). -/
def Task.issuesBefore (a b : Task) : Bool :=
  if a.desc.priority ≠ b.desc.priority then decide (b.desc.priority < a.desc.priority)
  else if a.age ≠ b.age then decide (a.age < b.age)
  else decide (a.id.index < b.id.index)

/-- The order of two tasks by their places in the table. -/
def State.idBefore (s : State) (a b : TaskId) : Bool :=
  match s.task? a, s.task? b with
  | some t, some u => t.issuesBefore u
  | _, _ => false

/-- Requests that wait for a slot go out while their I/O die has one (R291), those of the highest priority first and of the
oldest task within a priority (R59). -/
def State.drainWaiting (s : State) : State :=
  (sortBy (fun (a b : TaskId × Nat × Packet) => s.idBefore a.1 b.1) s.fabric.waiting).foldl (fun a w =>
    if a.outstanding w.2.1 < 16384 then
      { a with fabric := { a.fabric with waiting := a.fabric.waiting.erase w } }.issueOrServe w.2.1 w.1 w.2.2 0
    else a) s

/-- A task's packets are queued and leave as far as slots allow; a task without packets finishes at once. -/
def State.queueRequests (s : State) (id : TaskId) (io : Nat) (l : List Packet) : State :=
  ({ s with fabric := { s.fabric with waiting := s.fabric.waiting ++ l.map (fun k => (id, io, k)) } }.drainWaiting).remoteProgress id

/-- Row requests that have got a coalescer entry go out, and tasks that wait for a free request slot go on, in the order of
R59. -/
def State.settle (s0 : State) : State :=
  let s := s0.sendRows.drainWaiting
  (sortBy Task.issuesBefore
    (s.tasks.filter (fun t => decide (t.desc.engine = engREMOTE) && decide (t.phase = .running) && decide (t.stage ≠ 0)))).foldl
    (fun a t => a.continueRemote t) s

/-- A REMOTE task of an op starts, once. -/
def State.startRemote (s : State) (id : TaskId) (op : Nat) : State :=
  match s.runningTask? id engREMOTE op with
  | some t =>
    if t.stage = 0 ∧ s.requestsOf id = [] then
      let t1 := { t with stage := 1 }
      (s.setTask t1).continueRemote t1
    else s
  | none => s

/-! ### Meanings: REMOTE tasks -/

/-- REMOTE_PUT. -/
def execRemotePut (id : TaskId) (s : State) : Host.Outcome State Fault Refusal :=
  perform (.remotePut id) (s.startRemote id pktPUT)

/-- REMOTE_GET. -/
def execRemoteGet (id : TaskId) (s : State) : Host.Outcome State Fault Refusal :=
  perform (.remoteGet id) (s.startRemote id pktGET)

/-- REMOTE_EXACT_ACC. -/
def execRemoteExactAcc (id : TaskId) (s : State) : Host.Outcome State Fault Refusal :=
  perform (.remoteExactAcc id) (s.startRemote id pktEXACT_ACC)

/-- REMOTE_NM_ACC. -/
def execRemoteNmAcc (id : TaskId) (s : State) : Host.Outcome State Fault Refusal :=
  perform (.remoteNmAcc id) (s.startRemote id pktNM_ACC)

/-- REMOTE_CAS. -/
def execRemoteCas (id : TaskId) (s : State) : Host.Outcome State Fault Refusal :=
  perform (.remoteCas id) (s.startRemote id pktCAS)

/-- REMOTE_PUT_SIGNAL. -/
def execRemotePutSignal (id : TaskId) (s : State) : Host.Outcome State Fault Refusal :=
  perform (.remotePutSignal id) (s.startRemote id pktPUT_SIGNAL)

/-! ### Meanings: requests at their owner -/

/-- A request of an op is served. -/
def State.serveOp (s : State) (op : Nat) (k : Packet) : State := if k.op = op then s.serveRequest k else s

/-- PUT. -/
def execPut (packet : Packet) (s : State) : Host.Outcome State Fault Refusal :=
  perform (.put packet) (s.serveOp pktPUT packet)

/-- GET. -/
def execGet (packet : Packet) (s : State) : Host.Outcome State Fault Refusal :=
  perform (.get packet) (s.serveOp pktGET packet)

/-- LIST_GET. -/
def execListGet (packet : Packet) (s : State) : Host.Outcome State Fault Refusal :=
  perform (.listGet packet) (s.serveOp pktLIST_GET packet)

/-- EXACT_ACC. -/
def execExactAcc (packet : Packet) (s : State) : Host.Outcome State Fault Refusal :=
  perform (.exactAcc packet) (s.serveOp pktEXACT_ACC packet)

/-- NM_ACC. -/
def execNmAcc (packet : Packet) (s : State) : Host.Outcome State Fault Refusal :=
  perform (.nmAcc packet) (s.serveOp pktNM_ACC packet)

/-- CAS. -/
def execCas (packet : Packet) (s : State) : Host.Outcome State Fault Refusal :=
  perform (.cas packet) (s.serveOp pktCAS packet)

/-- PUT_SIGNAL: one that already waits for a pending-signal entry tries again. -/
def execPutSignal (packet : Packet) (s : State) : Host.Outcome State Fault Refusal :=
  perform (.putSignal packet)
    (match s.fabric.heldSignals.find? (fun a => decide (a.packet = packet)) with
      | some a => s.retrySignal a
      | none => s.serveOp pktPUT_SIGNAL packet)

/-! ### Meanings: responses -/

/-- A response of an op for this module ends its request (R284, R293). -/
def State.takeResponse (s : State) (op : Nat) (k : Packet) : State :=
  if k.op = op ∧ (s.node? = some k.dst ∨ s.node? = none) then
    let s1 := s.takeIn k
    (if op = pktLIST_RESP then s1.listResponse k
     else s1.endRequest k.seq k.status k.poisonMap k.arg0 k.payload).settle
  else s

/-- ACK. -/
def execAck (packet : Packet) (s : State) : Host.Outcome State Fault Refusal :=
  perform (.ack packet) (s.takeResponse pktACK packet)

/-- GET_RESP. -/
def execGetResp (packet : Packet) (s : State) : Host.Outcome State Fault Refusal :=
  perform (.getResp packet) (s.takeResponse pktGET_RESP packet)

/-- LIST_RESP. -/
def execListResp (packet : Packet) (s : State) : Host.Outcome State Fault Refusal :=
  perform (.listResp packet) (s.takeResponse pktLIST_RESP packet)

/-- CAS_RESP. -/
def execCasResp (packet : Packet) (s : State) : Host.Outcome State Fault Refusal :=
  perform (.casResp packet) (s.takeResponse pktCAS_RESP packet)

/-- RESPONSE_TIMEOUT (R284). -/
def execResponseTimeout (seq : Nat) (s : State) : Host.Outcome State Fault Refusal :=
  perform (.responseTimeout seq) (s.responseTimeout seq).settle

end Sys2Proof.Machine
end

