-- ==== Sys2Proof/Machine/Collectives.lean ====
section
/-!
DEFINITION. Collectives (14): OPEN and CLOSE of reductions (R305 to R311), the combining tree (R313), BARRIER (R314),
BROADCAST (R315), FIX (R318) and the system reset (R319).
-/

namespace Sys2Proof.Machine

/-! ### The argument block (R305) -/

/-- A COLLECTIVE argument block; pool and entries are also touched and touched_bound, ledger is also n_touched. -/
structure CollArgs where
  op : Nat
  tc : Nat
  deadlineEn : Bool
  scope : Nat
  id : Nat
  deadlineUs : Nat
  addr : Nat
  length : Nat
  pool : Nat
  entries : Nat
  contributors : Nat
  ledger : Nat
  rowBytes : Nat
  step : Nat
  root : Nat
  keepCells : Bool
  backup : Bool
  counted : Bool
deriving DecidableEq, Repr

/-- A COLLECTIVE argument block from its 64 bytes. -/
def parseColl (b : List Byte) : CollArgs :=
  let b1 := fieldLe b 1 1
  let f := fieldLe b 0x3A 1
  { op := fieldLe b 0 1, tc := bits b1 7 5, deadlineEn := bit b1 4, scope := bits b1 3 0, id := fieldLe b 2 2,
    deadlineUs := fieldLe b 4 4, addr := fieldLe b 8 8, length := fieldLe b 0x10 8, pool := fieldLe b 0x18 8,
    entries := fieldLe b 0x20 4, contributors := fieldLe b 0x24 4, ledger := fieldLe b 0x28 8, rowBytes := fieldLe b 0x30 4,
    step := fieldLe b 0x34 4, root := fieldLe b 0x38 2, keepCells := bit f 2, backup := bit f 1, counted := bit f 0 }

/-- Bytes of the block that no op uses, and those that each op does not use, with their masks (R305). -/
def collReserved (op : Nat) : List (Nat × Nat) :=
  let span := wholeBytes
  let tail : List (Nat × Nat) := (0x3A, 0xF8) :: span 0x3B 0x40
  match op with
  | 1 => tail ++ [(1, 0xFF)] ++ span 2 8 ++ span 0x38 0x3A
  | 2 => tail ++ [(1, 0xEF)] ++ span 2 4 ++ span 0x24 0x28 ++ span 0x30 0x3B
  | 3 => tail ++ span 8 0x3B
  | 4 => tail ++ span 0x18 0x38 ++ [(0x3A, 0xFF)]
  | _ => tail ++ span 0x18 0x3B

/-- A code or field that fails FORMAT for every op (R306). -/
def collBad (b : List Byte) : Bool :=
  let a := parseColl b
  decide (a.op = 0) || decide (5 < a.op) || (collReserved a.op).any (fun m => decide (Nat.land (fieldLe b m.1 1) m.2 ≠ 0)) ||
    (a.deadlineEn && decide (a.deadlineUs = 0)) || (decide (3 ≤ a.op) && decide (a.tc < 4))

/-- OPEN and CLOSE. -/
def CollArgs.reduces (a : CollArgs) : Bool := decide (a.op ≤ 2)

/-- The group: a scope names no dimension of extent 1 (R306). -/
def State.scopeBad (s : State) (a : CollArgs) : Bool :=
  (List.range 4).any (fun d => bit a.scope d && decide (s.extent d ≤ 1))

/-- A BROADCAST's root: a coordinate at or beyond its extent, or one that differs outside scope (R306). -/
def State.rootBad (s : State) (a : CollArgs) : Bool :=
  (List.range 4).any (fun d => decide (s.extent d ≤ coord a.root d) ||
    (!bit a.scope d && decide (coord a.root d ≠ s.ownCoord d)))

/-- Whether a reduction is of a job and overlaps a range of offsets. -/
def Reduction.overlaps (r : Reduction) (job off n : Nat) : Bool :=
  decide (r.job = job) && decide (r.addr < off + n) && decide (off < r.addr + r.length)

/-- The bytes of an OPEN's ledger. -/
def CollArgs.ledgerSize (a : CollArgs) : Nat := if a.counted then ledgerBytes a.length a.contributors else 0

/-- What an OPEN accesses: its pool and its ledger. -/
def CollArgs.openRanges (a : CollArgs) : List Range :=
  [{ addr := a.pool, len := 64 * a.entries, read := true, write := true },
   { addr := a.ledger, len := a.ledgerSize, read := true, write := true }]

/-- OPEN's FORMAT checks (R305, R306, R438): an overlap with an open reduction fails; an overlapping closed one is freed
(R310). -/
def State.openBad (s : State) (job : Nat) (a : CollArgs) : Bool :=
  (a.counted && (decide (a.contributors = 0) || decide (65536 < a.contributors))) || (a.backup && !a.counted) ||
    (a.counted && decide (a.entries < a.length / 4)) || (!a.counted && decide (a.entries % 2 = 1)) ||
    decide (a.rowBytes = 0) || decide (a.rowBytes % 4 ≠ 0) || decide (a.length % 4 ≠ 0) ||
    decide (a.length % a.rowBytes ≠ 0) || !addrForm a.addr 4096 [0] || !addrForm a.pool 64 [0] ||
    (a.counted && (decide (a.ledger % 64 ≠ 0) || decide (4 ≤ addrSpace a.ledger))) ||
    s.reductions.any (fun r => !r.closed && r.overlaps job (addrOff a.addr) a.length)

/-- OPEN's ACCESS of the result: one space-0 window with write and remote holds it (R306). -/
def State.resultAccess (s : State) (job : Nat) (a : CollArgs) : Nat :=
  if !decide (s.node? = some (addrNode a.addr)) || !s.offsetValid a.addr then stACCESS
  else failIf (!(s.windowsAt job a.addr false true true).any (fun w =>
    decide (addrOff a.addr + a.length ≤ w.base + w.length))) stACCESS

/-- The reduction that a CLOSE names: open, of the job, with this range (R306). -/
def State.closeTarget? (s : State) (job : Nat) (a : CollArgs) : Option Reduction :=
  if addrSpace a.addr = 0 ∧ s.node? = some (addrNode a.addr) then
    s.reductions.find? (fun r => decide (r.job = job) && decide (r.addr = addrOff a.addr) && decide (r.length = a.length) &&
      !r.closed)
  else none

/-- The reduction that a CLOSE dispatched for it still finds, be it closed meanwhile by another CLOSE (log entry 27). -/
def State.closing? (s : State) (job : Nat) (a : CollArgs) : Option Reduction :=
  s.reductions.find? (fun r => decide (r.job = job) && decide (r.addr = addrOff a.addr) && decide (r.length = a.length))

/-- What a CLOSE writes besides its result. -/
def CollArgs.closeRanges (a : CollArgs) (counted : Bool) : List Range :=
  if counted then []
  else [{ addr := a.pool, len := 8 * a.entries, write := true }, { addr := a.ledger, len := 4, write := true }]

/-- A copy-list entry of FIX as a DMA COPY; its reserved bytes are ignored (R5, R318). -/
def parseFixEntry (b : List Byte) : DmaArgs :=
  { op := 0, stream := 0, rows := 0, src := fieldLe b 0 8, dst := fieldLe b 8 8, length := fieldLe b 0x10 8, srcStride := 0,
    dstStride := 0, xform := 0 }

/-- The entries of a copy list. -/
def fixEntries (b : List Byte) : List DmaArgs := (chunks 32 b).map parseFixEntry

/-- The check of a copy-list entry under R93. -/
def State.fixEntryCheck (s : State) (job : Nat) (e : DmaArgs) : Nat :=
  if e.length = 0 then stOK else s.copyCheck job e

/-- The check of a copy list: FORMAT, ACCESS, then BOUND of its entries. -/
def State.fixListCheck (s : State) (job : Nat) (b : List Byte) : Nat :=
  let l := (fixEntries b).map (s.fixEntryCheck job)
  firstFailure ([stFORMAT, stACCESS, stBOUND].map (fun st => failIf (l.contains st) st))

/-- The form of a FIX's copy list: 32-byte aligned, in no reserved space (R305, R438). -/
def fixListForm (addr : Nat) : Bool := addrForm addr 32 [0, 1, 2, 3]

/-- The copy list of a FIX, as read at dispatch. -/
def State.fixList (s : State) (b : List Byte) : List Byte :=
  let a := parseColl b
  if a.op = 5 ∧ a.length ≠ 0 ∧ fixListForm a.addr then s.readAddr a.addr (32 * a.length) else []

/-- COLLECTIVE's checks at dispatch (R306). -/
def State.collCheck (s : State) (t : Task) : Nat :=
  let a := parseColl t.args
  if collBad t.args || t.desc.spec then stFORMAT
  else if a.op = 1 then
    if a.length = 0 then stOK
    else firstFailure ([failIf (s.openBad t.job a) stFORMAT, s.resultAccess t.job a] ++
      a.openRanges.map (s.rangeAccess t.job) ++ a.openRanges.map (s.rangeBound t.job))
  else if a.op = 2 then
    if a.length % 4 ≠ 0 then stFORMAT
    else if a.length = 0 then stOK
    else match s.closeTarget? t.job a with
      | none => stFORMAT
      | some r => s.checkRanges t.job ({ addr := a.addr, len := a.length, write := true } :: a.closeRanges r.counted)
  else if s.scopeBad a then stFORMAT
  else if a.op = 3 then stOK
  else if a.op = 4 then
    let r : Range := { addr := a.addr, len := a.length, read := decide (s.node? = some a.root),
                       write := !decide (s.node? = some a.root) }
    if s.rootBad a then stFORMAT
    else if a.length = 0 then stOK
    else firstFailure [failIf (2 ≤ addrSpace a.addr) stFORMAT, s.rangeAccess t.job r, s.rangeBound t.job r]
  else
    let r : Range := { addr := a.addr, len := 32 * a.length, read := true }
    if s.tasks.any (fun u => u.live && decide (u.id ≠ t.id) && decide (u.job = t.job) &&
        decide (u.desc.engine = engCOLLECTIVE)) then stFORMAT
    else if a.length = 0 then stOK
    else firstFailure [failIf (!fixListForm a.addr) stFORMAT, s.rangeAccess t.job r, s.rangeBound t.job r,
      failIf (s.poisonedAt a.addr (32 * a.length)) stPARITY, s.fixListCheck t.job (s.readAddr a.addr (32 * a.length))]

/-- What a COLLECTIVE task may leave half written: the buffer of a BROADCAST at a member (R315). -/
def State.collOuts (s : State) (b : List Byte) : List (Nat × Nat) :=
  let a := parseColl b
  if a.op = 4 ∧ s.node? ≠ some a.root ∧ a.length ≠ 0 then [(s.key a.addr, a.length)] else []

/-- When a COLLECTIVE task's deadline expires: deadline_us after dispatch, at the end of a 1 µs tick (R305, R311, R68). -/
def State.collExpiry (s : State) (b : List Byte) : Option Nat :=
  let a := parseColl b
  if a.deadlineEn then some (roundUp (s.now + a.deadlineUs * 100) 100) else none

/-- The running COLLECTIVE task that a command names, by its op. -/
def State.collTask? (s : State) (id : TaskId) (op : Nat) : Option Task := s.runningTask? id engCOLLECTIVE op

/-- A COLLECTIVE task ends. -/
def State.collEnds (s : State) (t : Task) (status : Nat) : State := s.setTask { t with phase := .finished, status := status }

/-- A module holds at most 4,096 reductions, and as many combining entries (R307, R313). -/
def collTableSize : Nat := 4096

/-! ### OPEN and CLOSE (R307, R310) -/

/-- The reduction that an OPEN installs. -/
def CollArgs.reduction (a : CollArgs) (job : Nat) : Reduction :=
  { job := job, addr := addrOff a.addr, length := a.length, pool := addrOff a.pool, poolEntries := a.entries,
    counted := a.counted, backup := a.backup, keepCells := a.keepCells, contributors := a.contributors,
    ledger := addrOff a.ledger, rowBytes := a.rowBytes, step := a.step, closed := false, sums := [] }

/-- OPEN: the pool and the ledger are zeroed and the reduction installed; a closed one it overlaps is freed; with the table
full it waits (R307, R310). -/
def State.openReduction (s : State) (id : TaskId) : State :=
  match s.collTask? id 1 with
  | none => s
  | some t =>
    let a := parseColl t.args
    let off := addrOff a.addr
    if a.length = 0 then s.collEnds t stOK
    else if s.reductions.any (fun r => !r.closed && r.overlaps t.job off a.length) then s.collEnds t stFORMAT
    else
      let s1 := { s with reductions := s.reductions.filter (fun r => !r.overlaps t.job off a.length) }
      if collTableSize ≤ s1.reductions.length then s1
      else
        let s2 := s1.memOps [.zero (s.key a.pool) (64 * a.entries), .zero (s.key a.ledger) a.ledgerSize]
        let r := { a.reduction t.job with pool := s.key a.pool, ledger := s.key a.ledger }
        { s2 with reductions := s2.reductions ++ [r] }.collEnds t stOK

/-- OPEN (R307). -/
def execCollOpen (id : TaskId) (s : State) : Host.Outcome State Fault Refusal := perform (.collOpen id) (s.openReduction id)

/-- A CLOSE rounds its reduction out (R310). -/
def State.closeNow (s : State) (t : Task) (a : CollArgs) (r : Reduction) : State :=
  let (s1, st) := s.closeReduction t r { touched := s.key a.pool, bound := a.entries, nTouched := s.key a.ledger }
  s1.collEnds t st

/-- CLOSE: a counted one waits for its ledger, an uncounted one proceeds at once (R310). -/
def State.closeStart (s : State) (id : TaskId) : State :=
  match s.collTask? id 2 with
  | none => s
  | some t =>
    let a := parseColl t.args
    if a.length = 0 then s.collEnds t stOK
    else match s.closing? t.job a with
      | none => s.collEnds t stFORMAT
      | some r =>
        if r.counted && !s.ledgerFull r then s.setTask { t with stage := 1 } else s.closeNow t a r

/-- CLOSE (R310). -/
def execCollClose (id : TaskId) (s : State) : Host.Outcome State Fault Refusal := perform (.collClose id) (s.closeStart id)

/-- CLOSE_LEDGER_COMPLETE: a waiting counted CLOSE finds every bit of its ledger set (R310). -/
def State.closeComplete (s : State) (id : TaskId) : State :=
  match s.collTask? id 2 with
  | none => s
  | some t =>
    let a := parseColl t.args
    match s.closing? t.job a with
    | some r => if t.stage = 1 ∧ s.ledgerFull r then s.closeNow t a r else s
    | none => s

/-- CLOSE_LEDGER_COMPLETE (R310). -/
def execCloseLedgerComplete (id : TaskId) (s : State) : Host.Outcome State Fault Refusal :=
  perform (.closeLedgerComplete id) (s.closeComplete id)

/-! ### The combining tree (R313) -/

/-- A node ID with coordinate d replaced. -/
def withCoord (node d c : Nat) : Nat := node - coord node d * 16 ^ d + c * 16 ^ d

/-- The first hop of the route from a member to a root over the scoped dimensions in ascending order (R277, R313): the
next member; none at the root, or where breaks leave no way. -/
def State.treeHop (s : State) (cur root scope tc : Nat) : Option Nat :=
  match (List.range 4).find? (fun d => bit scope d && decide (coord cur d ≠ coord root d)) with
  | none => none
  | some d =>
    let k := s.extent d
    (s.legPort d (coord cur d) (coord root d) tc).map (fun p =>
      withCoord cur d (if p % 2 = 1 then (coord cur d + 1) % k else (coord cur d + k - 1) % k))

/-- The children of this member: the neighbours in scoped dimensions whose first hop it is (R313). -/
def State.treeChildren (s : State) (root scope tc : Nat) : List Nat :=
  let own := s.node?.getD 0
  let near := (List.range 8).filterMap (fun p => if bit scope (p / 2) ∧ 1 < s.extent (p / 2) then some (s.neighbour p) else none)
  near.eraseDups.filter (fun n => decide (n ≠ own) && decide (s.treeHop n root scope tc = some own))

/-- The root of a BARRIER's or FIX's tree: coordinate 0 in every scoped dimension (R313). -/
def State.zeroRoot (s : State) (scope : Nat) : Nat :=
  (List.range 4).foldl (fun n d => if bit scope d then withCoord n d 0 else n) (s.node?.getD 0)

/-- A combining message to another member. -/
def State.combineMsg (s : State) (job tc op dst id scope root : Nat) : Packet :=
  { Packet.blank with dst := dst, src := s.node?.getD 0, jobId := job, op := op, tc := tc,
                      arg0 := id + scope * 2 ^ 16 + root * 2 ^ 32 }

/-- The entry of a key. -/
def State.combiningAt? (s : State) (job tc id : Nat) : Option Combining :=
  s.combining.find? (fun e => decide (e.job = job) && decide (e.tc = tc) && decide (e.id = id))

/-- Replace an entry. -/
def State.setCombining (s : State) (e : Combining) : State :=
  { s with combining := s.combining.map (fun x => if x.job = e.job ∧ x.tc = e.tc ∧ x.id = e.id then e else x) }

/-- Find or create an entry; none: the table is full (R313). -/
def State.combiningFor (s : State) (job tc id : Nat) : Option (State × Combining) :=
  match s.combiningAt? job tc id with
  | some e => some (s, e)
  | none =>
    let e : Combining := ⟨job, tc, id, none, [], false, [], []⟩
    if collTableSize ≤ s.combining.length then none else some ({ s with combining := s.combining ++ [e] }, e)

/-- Free an entry, with the credit of what it holds. -/
def State.freeCombining (s : State) (e : Combining) : State :=
  e.held.foldl State.freeArrival
    { s with combining := s.combining.filter (fun x => !(decide (x.job = e.job) && decide (x.tc = e.tc) && decide (x.id = e.id))) }

/-- The ops of a BARRIER's or FIX's messages: up and down. -/
def upDown (op : Nat) : Nat × Nat := if op = 5 then (pktFIX_UP, pktFIX_DOWN) else (pktBAR_UP, pktBAR_DOWN)

/-- FIX copies its list in entry order, poison with it (R318, R344). -/
def State.fixCopies (s : State) (t : Task) : State :=
  s.memOps (((fixEntries (t.args.drop 64)).filter (fun e => decide (e.length ≠ 0))).map (fun e =>
    .move (s.key e.src) (s.key e.dst) e.length))

/-- The down message reaches a member: it forwards it, and its task completes; a FIX first copies (R314, R318). -/
def State.combineDown (s : State) (e : Combining) (t : Task) : State :=
  let a := parseColl t.args
  let root := s.zeroRoot a.scope
  let s1 := (s.treeChildren root a.scope a.tc).foldl (fun x c =>
    x.sendPacket (x.combineMsg e.job e.tc (upDown a.op).2 c e.id a.scope root)) s
  let s2 := if a.op = 5 then s1.fixCopies t else s1
  ((s2.freeCombining e).bump Reg.COL_CNT_GLOBAL_OPS 1).collEnds t stOK

/-- A BARRIER or FIX goes on: with every child's message the member tells its parent, and the root sends the message down
(R314 steps 2 to 4). -/
def State.combineProgress (s : State) (job tc id : Nat) : State :=
  match s.combiningAt? job tc id with
  | none => s
  | some e =>
    match e.task.bind s.task? with
    | none => s
    | some t =>
      let a := parseColl t.args
      let root := s.zeroRoot a.scope
      let has := fun op src => e.messages.any (fun m => decide (m.1 = op) && decide (m.2.1 = src) && decide (m.2.2 = a.scope))
      let down := e.messages.any (fun m => decide (m.1 = (upDown a.op).2) && decide (m.2.2 = a.scope))
      if down then s.combineDown e t
      else if e.upSent || !(s.treeChildren root a.scope a.tc).all (has (upDown a.op).1) then s
      else if s.node? = some root then s.combineDown e t
      else match s.treeHop (s.node?.getD 0) root a.scope a.tc with
        | none => s
        | some p =>
          (s.sendPacket (s.combineMsg job tc (upDown a.op).1 p id a.scope root)).setCombining { e with upSent := true }

/-- A member arrives at its BARRIER or FIX with its local task; a second task of the same key, or a full table, waits. -/
def State.combineArrive (s : State) (t : Task) : State :=
  let a := parseColl t.args
  match s.combiningFor t.job a.tc a.id with
  | none => s
  | some (s1, e) =>
    if e.task.isSome ∧ e.task ≠ some t.id then s
    else (s1.setCombining { e with task := some t.id }).combineProgress t.job a.tc a.id

/-- A combining message reaches its member (R313, R347, R383): of a job that does not run here it is discarded; in the anchor
watch it has no effect and starts a wake; with the table full it holds its credit; else act takes it. -/
def State.combineIn (s : State) (k : Packet) (act : State → Arrival → Combining → State) : State :=
  if s.node? = none then s.takeIn k
  else if s.node? ≠ some k.dst then s
  else
    let s1 := s.wakeTrigger
    if s1.power.anchor ≠ .awake then (s1.takeIn k).bump Reg.PLT_CNT_WAKE_REFUSED 1
    else if s1.jobState k.jobId ≠ 1 then s1.takeIn k
    else match s1.combiningFor k.jobId k.tc (bits k.arg0 15 0) with
      | none => s1
      | some (s2, e) =>
        let a := s2.arrivalOf k
        act (s2.unlist a) a e

/-- A BARRIER's or FIX's message is noted, and the operation goes on. -/
def State.combineNote (s : State) (a : Arrival) (e : Combining) : State :=
  let k := a.packet
  (((s.freeArrival a).setCombining { e with messages := e.messages ++ [(k.op, k.src, bits k.arg0 19 16)] })).combineProgress
    e.job e.tc e.id

/-- A message of an op. -/
def State.combineOp (s : State) (op : Nat) (k : Packet) : State :=
  if k.op = op then s.combineIn k State.combineNote else s

/-- BARRIER (R314): the member arrives, once its task is dispatched. -/
def execBarrier (id : TaskId) (s : State) : Host.Outcome State Fault Refusal :=
  perform (.barrier id) (match s.collTask? id 3 with
    | some t => s.combineArrive t
    | none => s)

/-- BAR_UP (R314). -/
def execBarUp (packet : Packet) (s : State) : Host.Outcome State Fault Refusal :=
  perform (.barUp packet) (s.combineOp pktBAR_UP packet)

/-- BAR_DOWN (R314). -/
def execBarDown (packet : Packet) (s : State) : Host.Outcome State Fault Refusal :=
  perform (.barDown packet) (s.combineOp pktBAR_DOWN packet)

/-! ### BROADCAST (R315) -/

/-- The packets of a buffer: cut at every 4 KiB of buffer offset. -/
def State.broadcastPieces (s : State) (a : CollArgs) : List (Nat × Nat × List Byte) :=
  (List.range (ceilDiv a.length 4096)).map (fun i =>
    let n := Nat.min 4096 (a.length - 4096 * i)
    let p := addrPlus a.addr (4096 * i)
    (4096 * i, s.poisonMapOf p n, s.readAddr p n))

/-- Send a part of a broadcast to every child. -/
def State.broadcastOn (s : State) (t : Task) (a : CollArgs) (off map : Nat) (d : List Byte) : State :=
  (s.treeChildren a.root a.scope a.tc).foldl (fun x c =>
    x.sendPacket { x.combineMsg t.job a.tc pktBCAST_DATA c a.id a.scope a.root with
                   length := d.length, arg1 := off, poisonMap := map, payload := d }) s

/-- A BROADCAST task completes. -/
def State.broadcastEnds (s : State) (t : Task) : State := (s.bump Reg.COL_CNT_GLOBAL_OPS 1).collEnds t stOK

/-- A part of a broadcast reaches a member whose task runs: it is taken and forwarded; what lies outside the buffer is only
forwarded. -/
def State.broadcastTake (s : State) (t : Task) (e : Combining) (x : Arrival) : State × Combining :=
  let a := parseColl t.args
  let k := x.packet
  let d := sliceBytes k.payload 0 k.length
  ((s.broadcastOn t a k.arg1 k.poisonMap d).freeArrival x,
    if k.arg1 + k.length ≤ a.length then
      { e with received := e.received.filter (fun p => !decide (p.offset = k.arg1)) ++ [⟨k.arg1, k.poisonMap, d⟩] }
    else e)

/-- The bytes of a broadcast that a member has received. -/
def Combining.taken (e : Combining) : Nat := sumNat (e.received.map (·.bytes.length))

/-- What a member has received stands in its buffer, each part at addr plus its offset: the buffer is undefined until then
(R315). -/
def State.broadcastWrite (s : State) (a : CollArgs) (e : Combining) : State :=
  e.received.foldl (fun x p => x.storePayload (addrPlus a.addr p.offset) p.bytes p.poisonMap) s

/-- A member's BROADCAST takes what has arrived; with its last byte it completes. -/
def State.broadcastProgress (s : State) (t : Task) (e : Combining) : State :=
  let a := parseColl t.args
  let (s1, e1) := e.held.foldl (fun p x => p.1.broadcastTake t p.2 x) (s, { e with held := [] })
  if a.length ≤ e1.taken then ((s1.broadcastWrite a e1).freeCombining e1).broadcastEnds t else s1.setCombining e1

/-- BROADCAST: the root sends its buffer and completes; a member, whose buffer is now undefined, takes what its key holds and
waits for the rest (R315). -/
def State.broadcastStart (s : State) (id : TaskId) : State :=
  match s.collTask? id 4 with
  | none => s
  | some t =>
    let a := parseColl t.args
    if s.node? = some a.root then
      ((s.broadcastPieces a).foldl (fun x p => x.broadcastOn t a p.1 p.2.1 p.2.2) s).broadcastEnds t
    else if a.length = 0 then s.broadcastEnds t
    else match s.combiningFor t.job a.tc a.id with
      | none => s
      | some (s1, e) =>
        if e.task = some t.id then s
        else if e.task.isSome then s
        else (s1.undefine (s1.collOuts t.args)).broadcastProgress t { e with task := some t.id }

/-- BROADCAST (R315). -/
def execBroadcast (id : TaskId) (s : State) : Host.Outcome State Fault Refusal :=
  perform (.broadcast id) (s.broadcastStart id)

/-- A BCAST_DATA packet: held with its credit until the member's task runs (R315). -/
def State.broadcastNote (s : State) (a : Arrival) (e : Combining) : State :=
  let e1 := { e with held := e.held ++ [a] }
  match e.task.bind s.task? with
  | some t => s.broadcastProgress t e1
  | none => s.setCombining e1

/-- BCAST_DATA (R315). -/
def execBcastData (packet : Packet) (s : State) : Host.Outcome State Fault Refusal :=
  perform (.bcastData packet) (if packet.op = pktBCAST_DATA then s.combineIn packet State.broadcastNote else s)

/-! ### FIX (R318) -/

/-- A FIX of the job runs here and holds the dispatch of its other tasks. -/
def State.fixHolds (s : State) (job : Nat) : Bool :=
  s.tasks.any (fun t => decide (t.job = job) && decide (t.desc.engine = engCOLLECTIVE) && decide (t.phase = .running) &&
    decide (fieldLe t.args 0 1 = 5))

/-- The job that a request is of: its task's, its stream's (R96), or that of the stream which has closed (R98). -/
def State.jobOfRequest? (s : State) (id : TaskId) : Option Nat :=
  if isStreamGet id then (s.streams.find? (fun x => decide ((x.die, x.slot) = getStream id))).map (·.job)
  else if isClosedGet id then some id.index
  else (s.task? id).map (·.job)

/-- The job is drained: no other task of it runs, and no request it issued, for a task or for a prefetch stream, waits to leave
or awaits a response. -/
def State.jobDrained (s : State) (t : Task) : Bool :=
  s.tasks.all (fun u => decide (u.id = t.id) || decide (u.job ≠ t.job) || !decide (u.phase = .running)) &&
    s.fabric.requests.all (fun r => r.ended.isSome || !decide (s.jobOfRequest? r.task = some t.job)) &&
    s.fabric.waiting.all (fun w => !decide (s.jobOfRequest? w.1 = some t.job))

/-- FIX: dispatch of the job's other tasks has stopped; the member drains. -/
def execFix (id : TaskId) (s : State) : Host.Outcome State Fault Refusal :=
  perform (.fix id) (match s.collTask? id 5 with
    | some t => if t.stage = 0 then s.setTask { t with stage := 1 } else s
    | none => s)

/-- FIX_DRAINED: the drained member takes part in the barrier. -/
def execFixDrained (id : TaskId) (s : State) : Host.Outcome State Fault Refusal :=
  perform (.fixDrained id) (match s.collTask? id 5 with
    | some t => if t.stage ≠ 0 ∧ s.jobDrained t then (s.setTask { t with stage := 2 }).combineArrive { t with stage := 2 } else s
    | none => s)

/-- FIX_UP (R318). -/
def execFixUp (packet : Packet) (s : State) : Host.Outcome State Fault Refusal :=
  perform (.fixUp packet) (s.combineOp pktFIX_UP packet)

/-- FIX_DOWN (R318). -/
def execFixDown (packet : Packet) (s : State) : Host.Outcome State Fault Refusal :=
  perform (.fixDown packet) (s.combineOp pktFIX_DOWN packet)

/-! ### Deadlines (R311, R314, R318) -/

/-- What a task's entry held goes when the task ends with LATE. -/
def State.dropEntryOf (s : State) (id : TaskId) : State :=
  match s.combining.find? (fun e => decide (e.task = some id)) with
  | some e => s.freeCombining e
  | none => s

/-- A task ends with LATE. -/
def State.endsLate (s : State) (t : Task) : State := ((s.collEnds t stLATE).bump Reg.COL_CNT_LATE 1).post Reg.COL_EVENT_late

/-- A waiting CLOSE expires: its reduction is closed, and its pool and ledger are undefined (R311). -/
def State.closeLate (s : State) (t : Task) (r : Reduction) : State :=
  ((s.setReduction { r with closed := true }).undefine
    [(r.pool, 64 * r.poolEntries), (r.ledger, ledgerBytes r.length r.contributors)]).endsLate t

/-- A CLOSE at its deadline: a contribution that was applied by then counts first, so one whose ledger is full completes
(R311, R68); of a reduction that an OPEN has freed nothing is left to close. -/
def State.closeDeadline (s : State) (t : Task) (a : CollArgs) : State :=
  if t.stage ≠ 1 then s
  else match s.closing? t.job a with
    | some r => if s.ledgerFull r then s.closeNow t a r else s.closeLate t r
    | none => s.endsLate t

/-- COLLECTIVE_DEADLINE: a task that waits when its deadline expires ends with LATE. -/
def State.collDeadline (s : State) (id : TaskId) : State :=
  match s.task? id with
  | none => s
  | some t =>
    let a := parseColl t.args
    let due := (t.expires.map (fun x => decide (x ≤ s.now))).getD false
    if !due || !decide (t.phase = .running) || !decide (t.desc.engine = engCOLLECTIVE) || !s.jobRuns t.job then s
    else match a.op with
      | 1 => s
      | 2 => s.closeDeadline t a
      | _ => ((s.undefine t.outs).dropEntryOf id).endsLate t

/-- COLLECTIVE_DEADLINE (R311, R314, R318). -/
def execCollectiveDeadline (id : TaskId) (s : State) : Host.Outcome State Fault Refusal :=
  perform (.collectiveDeadline id) (s.collDeadline id)

/-! ### System reset (R319) -/

/-- Every dimension that the torus has. -/
def State.fullScope (s : State) : Nat :=
  sumNat ((List.range 4).map (fun d => if 1 < s.extent d then 2 ^ d else 0))

/-- The members below this one in the tree of a system reset. -/
def State.resetChildren (s : State) (root : Nat) : List Nat := s.treeChildren root s.fullScope 7

/-- A message of a system reset. -/
def State.resetMsg (s : State) (op dst root : Nat) : State := s.sendPacket (s.combineMsg 0 7 op dst 0 s.fullScope root)

/-- With every child's answer the module answers its parent, and its own reset follows as soon as that answer has left; the
initiator, which answers no one, resets last (R319 steps 3 and 4). -/
def State.resetProgress (s : State) : State :=
  match s.sysreset with
  | none => s
  | some r =>
    if r.ready || !(s.resetChildren r.root).all (r.answered.contains ·) then s
    else
      let s1 := { s with sysreset := some { r with ready := true } }
      let s2 := match s.treeHop (s.node?.getD 0) r.root s.fullScope 7 with
        | some p => s1.resetMsg pktRESET_UP p r.root
        | none => s1
      s2.resetIfSent

/-- The notice takes effect on a module: its jobs are terminated, it is passed on, sysreset_seen is set (R319 step 2). -/
def State.resetNotice (s : State) (initiator : Bool) (root : Nat) : State :=
  let s1 := { s with sysreset := some ⟨initiator, root, [], false⟩ }
  let s2 := s1.jobs.foldl (fun a j => a.terminateJob j.id stJOB_KILLED) s1
  let s3 := (s2.resetChildren root).foldl (fun a c => a.resetMsg pktRESET_DOWN c root) s2
  (s3.post Reg.COL_EVENT_sysreset_seen).resetProgress

/-- SYSRESET: a write to COL_SYSRESET (R319). -/
def State.sysresetWrite (s : State) (value : Nat) : State :=
  if value % 2 ^ 32 ≠ 0x52534554 then s
  else if s.chtState ≠ chtActive then s.moduleReset
  else if s.sysreset.isSome then s
  else s.resetNotice true (s.node?.getD 0)

/-- SYSRESET (R319). -/
def execSysreset (value : Nat) (s : State) : Host.Outcome State Fault Refusal :=
  perform (.sysreset value) (s.hostWrite (s.sysresetWrite value))

/-- A message of a system reset that reaches this module leaves the inbox; it wakes the module (R383). -/
def State.resetIn (s : State) (op : Nat) (k : Packet) (act : State → State) : State :=
  if k.op = op ∧ s.node? = some k.dst then act (s.takeIn k).wakeTrigger else s

/-- RESET_DOWN: the notice, the first time (R319). -/
def execResetDown (packet : Packet) (s : State) : Host.Outcome State Fault Refusal :=
  perform (.resetDown packet) (s.resetIn pktRESET_DOWN packet (fun x =>
    if x.sysreset.isSome then x else x.resetNotice false (bits packet.arg0 47 32)))

/-- RESET_UP: a child has answered (R319). -/
def execResetUp (packet : Packet) (s : State) : Host.Outcome State Fault Refusal :=
  perform (.resetUp packet) (s.resetIn pktRESET_UP packet (fun x =>
    match x.sysreset with
    | some r => { x with sysreset := some { r with answered := packet.src :: r.answered } }.resetProgress
    | none => x))

end Sys2Proof.Machine
end

