-- ==== Sys2Proof/Machine/Power.lean ====
section
/-!
DEFINITION. Power, clocks, thermal control and ageing (17): the Pilot's interval (R368 to R373, R380), clocks and voltages
(R364 to R367, R378, R379), rail limits and droop (R361, R375), the thermal loop (R376), and the anchor watch (R381 to R384).
-/

namespace Sys2Proof.Machine

/-! ### Dies, operating points and voltages (R363 to R367, R377 to R379) -/

/-- A die's power state. -/
def State.diePower (s : State) (d : Nat) : DiePower := s.power.dies.getD d DiePower.reset

/-- Change a die's power state. -/
def State.setDiePower (s : State) (d : Nat) (x : DiePower) : State :=
  { s with power := { s.power with dies := s.power.dies.set d x } }

/-- The mult of an entry of the preferred-operating-point table. -/
def State.oppMult (s : State) (e : Nat) : Nat := s.reg (Reg.PLT_OPP_mult e)

/-- The mult at which a die runs an entry: never above its fmax (R379). -/
def State.entryMult (s : State) (d e : Nat) : Nat := Nat.min (s.oppMult e) (s.diePower d).fmax

/-- A die's fmax entry (R379). -/
def State.fmaxEntry (s : State) (d : Nat) : Nat :=
  ((List.range 64).filter (fun e => decide (s.oppMult e ≤ (s.diePower d).fmax))).getLastD 0

/-- The distance of two numbers. -/
def dist (a b : Nat) : Nat := (a - b) + (b - a)

/-- Planned mults, nearest to a mult first. -/
def nearestPlans (l : List (Nat × Nat)) (mult : Nat) : List (Nat × Nat) :=
  l.mergeSort (fun a b => decide (dist a.1 mult < dist b.1 mult) || (decide (dist a.1 mult = dist b.1 mult) && decide (a.1 ≤ b.1)))

/-- A die's planned mults with their voltages in mV: the settled ones, and mult 22 at the 0.55 V of entry 0 until it has settled
(R366, R367). -/
def DiePower.plans (x : DiePower) : List (Nat × Nat) :=
  if (lookupNat 22 x.planned).isSome then x.planned else (22, 550) :: x.planned

/-- A die's planned voltage at a mult in mV: a planned one, or extrapolated from the two nearest planned ones (R367); none where
fewer than two are planned. -/
def DiePower.plan? (x : DiePower) (mult : Nat) : Option Rat :=
  match lookupNat mult x.plans with
  | some v => some v
  | none =>
    match nearestPlans x.plans mult with
    | a :: b :: _ =>
      some ((a.2 : Rat) + ((b.2 : Rat) - (a.2 : Rat)) * ((mult : Rat) - (a.1 : Rat)) / ((b.1 : Rat) - (a.1 : Rat)))
    | _ => none

/-- A die's planned voltage at a mult in mV, from the die's characterisation where nothing else gives it (log entry 12). -/
def State.planMv (s : State) (d mult : Nat) : Rat :=
  ((s.diePower d).plan? mult).getD ((Config.plannedMv d mult : Nat) : Rat)

/-- A non-negative number rounded down, and up. -/
def ratFloor (x : Rat) : Nat := x.floor.toNat
def ratCeil (x : Rat) : Nat := x.ceil.toNat

/-- The voltage a die's rail takes for a planned voltage: within 0.55 to 0.90 V (R367). -/
def railMv (x : Rat) : Nat := Nat.max 550 (Nat.min 900 (ratCeil x))

/-- PLT_OPP_i v_mv: the highest planned voltage of an entry's mult over the compute dies (R366). -/
def State.oppMv (s : State) (e : Nat) : Nat := maxNat ((List.range 8).map (fun d => ratCeil (s.planMv d (s.oppMult e))))

/-- The lowest fmax of the compute dies (R378). -/
def State.fmaxMult (s : State) : Nat := ((s.power.dies.take 8).map (·.fmax)).foldl Nat.min 72

/-- A die's guardband in ps (R377). -/
def guardband (driftPpm : Nat) : Rat := 12 + (driftPpm : Rat) / 500

/-- The highest mult whose planned voltage is at most 0.90 V, among those from 22 to 72 that the die can plan; 72 where it
can plan none (R378). -/
def DiePower.fitting (x : DiePower) : Nat :=
  let plans := ((List.range 51).map (· + 22)).filterMap (fun m => (x.plan? m).map (fun v => (m, v)))
  if plans.all (fun p => decide (p.2 ≤ 900)) then 72
  else maxNat ((plans.filter (fun p => decide (p.2 ≤ 900))).map (·.1))

/-- A die's fmax falls where a planned voltage exceeds 0.90 V (R378). -/
def State.checkFmax (s : State) (d : Nat) : State :=
  let x := s.diePower d
  let f := x.fitting
  if f < x.fmax then (s.setDiePower d { x with fmax := f }).post Reg.PLT_EVENT_fmax_reduced d else s

/-- MULT_SLEW_STEP: a root moves one step towards its target; when it rises, the voltage is at the target's plan first, and
when it has fallen, the voltage follows (R364). -/
def State.multSlewStep (s : State) (d : Nat) : State :=
  let x := s.diePower d
  let m := s.reg (Reg.PLT_DIE_mult d)
  let v := s.reg (Reg.PLT_DIE_v_mv d)
  if 8 ≤ d ∨ s.power.anchor = .watching ∨ s.power.anchor = .waking then s
  else if m < x.target then
    s.setRegs [(Reg.PLT_DIE_v_mv d, Nat.max v (railMv (s.planMv d x.target))), (Reg.PLT_DIE_mult d, m + 1)]
  else if x.target < m then
    let s1 := s.setReg (Reg.PLT_DIE_mult d) (m - 1)
    if m - 1 = x.target then s1.setReg (Reg.PLT_DIE_v_mv d) (railMv (s.planMv d x.target)) else s1
  else s

/-- MULT_SLEW_STEP (R364). -/
def execMultSlewStep (die : Nat) (s : State) : Host.Outcome State Fault Refusal :=
  perform (.multSlewStep die) (s.multSlewStep die)

/-- VOLTAGE_ADJUST: a compute die moves its voltage by 5 mV for the worst slack of its monitors; a settled one becomes the
plan of its mult (R367, R378). -/
def State.voltageAdjust (s : State) (d : Nat) (slackPs : Int) : State :=
  if 8 ≤ d ∨ s.power.anchor = .watching ∨ s.power.anchor = .waking then s
  else
    let x := s.diePower d
    let v := s.reg (Reg.PLT_DIE_v_mv d)
    let gb := guardband (s.power.drift.getD d 0)
    let s1 := s.setReg (Reg.PLT_AGE_slack_ps d) (ofSigned 16 slackPs)
    if (slackPs : Rat) < gb then s1.setReg (Reg.PLT_DIE_v_mv d) (Nat.min 900 (v + 5))
    else if gb + 8 < (slackPs : Rat) then s1.setReg (Reg.PLT_DIE_v_mv d) (Nat.max 550 (v - 5))
    else (s1.setDiePower d { x with planned := storeNat (s.reg (Reg.PLT_DIE_mult d)) v x.planned }).checkFmax d

/-- VOLTAGE_ADJUST (R367). -/
def execVoltageAdjust (die : Nat) (slackPs : Int) (s : State) : Host.Outcome State Fault Refusal :=
  perform (.voltageAdjust die slackPs) (s.voltageAdjust die slackPs)

/-- AGEING_MEASURE: the drift of each die is the worst of its eight tiles (R377). -/
def State.ageingMeasure (s : State) (driftPpm : List Nat) : State :=
  let drift := (List.range 8).map (fun d => maxNat ((driftPpm.drop (8 * d)).take 8))
  (List.range 8).foldl State.checkFmax { s with power := { s.power with drift := drift } }

/-- AGEING_MEASURE (R377). -/
def execAgeingMeasure (driftPpm : List Nat) (s : State) : Host.Outcome State Fault Refusal :=
  perform (.ageingMeasure driftPpm) (s.ageingMeasure driftPpm)

/-- AGEING_STORE: the Binnacle's record takes drift and planned voltages (R377). -/
def State.ageingStore (s : State) : State :=
  { s with binnacle := { s.binnacle with driftPpm := s.power.drift, plannedStore := (s.power.dies.take 8).map (·.planned) } }

/-- AGEING_STORE (R377). -/
def execAgeingStore (s : State) : Host.Outcome State Fault Refusal := perform .ageingStore s.ageingStore

/-- OPP_WRITE: a mult from 22 to 72 that leaves the table without a descent (R366). -/
def State.oppWrite (s : State) (e value : Nat) : State :=
  let v := value % 128
  if Reg.PLT_OPP_mult e |>.permits v then
    if (e = 0 ∨ s.oppMult (e - 1) ≤ v) ∧ (e = 63 ∨ v ≤ s.oppMult (e + 1)) then s.setReg (Reg.PLT_OPP_mult e) v else s
  else s

/-- OPP_WRITE (R366). -/
def execOppWrite (entry value : Nat) (s : State) : Host.Outcome State Fault Refusal :=
  perform (.oppWrite entry value) (s.hostWrite (s.oppWrite entry value))

/-! ### The budget (R359, R368, R376) -/

/-- The thermal limit in W: (tj_target − T_in) ÷ R_th, 2,800 until the inlet has been reported (R376). -/
def State.thermalLimit (s : State) : Rat :=
  match s.power.tin with
  | none => 2800
  | some t => (((s.reg Reg.PLT_THERMAL_tj_target - t : Nat) : Rat) * 1000000) / s.power.rth

/-- The Pilot's budget in W (R368): the cap, 70 A times the input voltage, and the thermal limit. -/
def State.budget (s : State) : Rat :=
  min (min (s.reg Reg.PLT_CAP_cap_w : Rat) ((70 * s.power.vin : Nat) / (100 : Rat))) s.thermalLimit

/-- The budget and the thermal limit are formed anew: their registers, and thermal_limit while it is below the cap (R376). -/
def State.rebudget (s : State) : State :=
  let low := decide (s.thermalLimit < (s.reg Reg.PLT_CAP_cap_w : Rat))
  let s1 := s.setRegs [(Reg.PLT_STATUS_budget_w, Nat.min 4095 (ratFloor s.budget)),
    (Reg.PLT_THERMAL_p_th_w, Nat.min 4095 (ratFloor s.thermalLimit))]
  let s2 : State := { s1 with power := { s1.power with thermalLow := low } }
  if low && !s.power.thermalLow then s2.post Reg.PLT_EVENT_thermal_limit
  else if low then s2.setReg Reg.PLT_EVENT_thermal_limit 1
  else s2

/-- CAP_WRITE: a cap of 0 to 2,800 W (R368). -/
def State.capWrite (s : State) (value : Nat) : State :=
  let v := value % 4096
  if Reg.PLT_CAP_cap_w.permits v then (s.setReg Reg.PLT_CAP_cap_w v).rebudget else s

/-- CAP_WRITE (R368). -/
def execCapWrite (value : Nat) (s : State) : Host.Outcome State Fault Refusal := perform (.capWrite value) (s.hostWrite (s.capWrite value))

/-- INPUT_LOW: below 40 V the budget follows the input voltage, and input_low is posted (R359). -/
def State.inputLow (s : State) (vin : Nat) : State :=
  let s1 := ({ s with power := { s.power with vin := vin } }.setReg Reg.PLT_POWER_vin vin).rebudget
  if vin < 4000 then s1.post Reg.PLT_EVENT_input_low else s1

/-- INPUT_LOW (R359). -/
def execInputLow (vin : Nat) (s : State) : Host.Outcome State Fault Refusal := perform (.inputLow vin) (s.inputLow vin)

/-- RTH_UPDATE: once per second; R_th moves by a sixteenth of its distance where the input took 1,000 W (R376). -/
def State.rthUpdate (s : State) (tjMax tIn pIn : Nat) : State :=
  let r0 := s.power.rth
  let sample : Rat := (((tjMax : Rat) - (tIn : Rat)) * 1000000) / (pIn : Rat)
  let r := if 1000 ≤ pIn then r0 + (sample - r0) / 16 else r0
  let s1 : State := { s with
    power := { s.power with rth := r, tin := some tIn }, binnacle := { s.binnacle with rth := some (ratFloor r) } }
  (s1.setRegs [(Reg.PLT_THERMAL_tin, tIn), (Reg.PLT_THERMAL_tj_max, tjMax)]).rebudget

/-- RTH_UPDATE (R376). -/
def execRthUpdate (tjMax tIn pIn : Nat) (s : State) : Host.Outcome State Fault Refusal :=
  perform (.rthUpdate tjMax tIn pIn) (s.rthUpdate tjMax tIn pIn)

/-- JUNCTION_THROTTLE: a die reports its junction; a compute die above tj_target is to lower its mult by one step, which
MULT_SLEW_STEP takes (R364), and is not raised again until it is back under (R376). -/
def State.junctionThrottle (s : State) (d tj : Nat) : State :=
  let s1 := s.setReg (Reg.PLT_DIE_tj d) tj
  let x := s.diePower d
  if 8 ≤ d then s1
  else if s.reg Reg.PLT_THERMAL_tj_target < tj then
    s1.setDiePower d { x with hot := true, target := Nat.max 22 (Nat.min x.target (s.reg (Reg.PLT_DIE_mult d)) - 1) }
  else s1.setDiePower d { x with hot := false }

/-- JUNCTION_THROTTLE (R376). -/
def execJunctionThrottle (die tj : Nat) (s : State) : Host.Outcome State Fault Refusal :=
  perform (.junctionThrottle die tj) (s.junctionThrottle die tj)

/-! ### Rail limits and droop (R361, R375) -/

/-- A rail's limits over 1 µs, 10 µs and 100 µs in A (R360). Rails 0 to 7 are VCD0 to VCD7, 8 and 9 VXD0 and VXD1, 10 to 17
VHBM0C to VHBM7C, 18 to 25 VHBM0Q to VHBM7Q, 26 VAUX. -/
def railLimits (rail : Nat) : Nat × Nat × Nat :=
  if rail < 8 then (520, 460, 400)
  else if rail < 10 then (140, 125, 110)
  else if rail < 18 then (56, 50, 45)
  else if rail < 26 then (38, 34, 30)
  else (20, 20, 20)

/-- The die of a rail (R360, R361): VHBMn feeds the stacks of compute die n; VAUX feeds no die. -/
def railDie? (rail : Nat) : Option Nat :=
  if rail < 10 then some rail else if rail < 26 then some ((rail - 10) % 8) else none

/-- A rail's voltage in mV (R360): 0 where it is off. -/
def State.railVoltage (s : State) (rail : Nat) : Nat :=
  if 26 ≤ rail then (if s.carrier.power = .off then 0 else 3300)
  else if s.power.rails.getD rail false = false then 0
  else if rail < 10 then s.reg (Reg.PLT_DIE_v_mv rail)
  else if rail < 18 then 1100
  else 750

/-- A window's average has reached its limit (R361). -/
def railOver (r : RailReport) : Bool :=
  let l := railLimits r.rail
  decide (1000 * l.1 ≤ r.average1) || decide (1000 * l.2.1 ≤ r.average10) || decide (1000 * l.2.2 ≤ r.average100)

/-- The g to which the rail limits that act on a compute die hold it; 64: none (R361). -/
def State.railGate (s : State) (d : Nat) : Nat :=
  ((s.power.railActing.filter (fun a => decide (railDie? a.1 = some d))).map (·.2)).foldl Nat.min 64

/-- A compute die's g: the Pilot's, and no more than its rail limits leave (R361, R370). The I/O dies are never gated. -/
def State.showGate (s : State) (d : Nat) : State :=
  if d < 8 then s.setReg (Reg.PLT_DIE_gate d) (Nat.min (s.diePower d).gate (s.railGate d)) else s

/-- RAIL_LIMIT: a rail's averages. Where one has reached its limit, the rail's die acts: it stretches cycles, which count, and
gates issue to g; it acts until all three are below their limits (R361, R375). -/
def State.railLimit (s : State) (r : RailReport) (gate : Nat) : State :=
  match railDie? r.rail with
  | none => s
  | some d =>
    let others := s.power.railActing.filter (fun a => !decide (a.1 = r.rail))
    let s1 : State := { s with power := { s.power with
      railActing := if railOver r then others ++ [(r.rail, gate)] else others, railActed := s.power.railActed || railOver r } }
    (if railOver r then s1.bump Reg.PLT_CNT_STRETCH r.stretched else s1).showGate d

/-- RAIL_LIMIT (R361). -/
def execRailLimit (report : RailReport) (gate : Nat) (s : State) : Host.Outcome State Fault Refusal :=
  perform (.railLimit report gate) (s.railLimit report gate)

/-- DROOP: stretched cycles of a die (R375). -/
def execDroop (die cycles : Nat) (s : State) : Host.Outcome State Fault Refusal :=
  perform (.droop die cycles) (s.bump Reg.PLT_CNT_STRETCH cycles)

/-- DROOP_PERSIST: a droop of 1 µs is to lower a compute die's mult by two steps, which MULT_SLEW_STEP takes one by one (R364),
and holds it there (R375). -/
def State.droopPersist (s : State) (d : Nat) : State :=
  if 8 ≤ d then s
  else
    s.setDiePower d { s.diePower d with
      held := true, heldAt := s.now, target := Nat.max 22 (s.reg (Reg.PLT_DIE_mult d) - 2) }

/-- DROOP_PERSIST (R375). -/
def execDroopPersist (die : Nat) (s : State) : Host.Outcome State Fault Refusal :=
  perform (.droopPersist die) (s.droopPersist die)

/-- DROOP_HOLD_END: 100 µs after a droop lowered it, a die follows the Pilot again (R375). -/
def State.droopHoldEnd (s : State) (d : Nat) : State :=
  let x := s.diePower d
  if x.held ∧ x.heldAt + 10000 ≤ s.now then s.setDiePower d { x with held := false } else s

/-- DROOP_HOLD_END (R375). -/
def execDroopHoldEnd (die : Nat) (s : State) : Host.Outcome State Fault Refusal :=
  perform (.droopHoldEnd die) (s.droopHoldEnd die)

/-! ### The Pilot's interval (R369 to R373, R380) -/

/-- The Chart's entry of a phase (R31). -/
def State.phaseEntry? (s : State) (p : Nat) : Option PhaseEntry := s.chart.bind (fun c => (c.phases[p]?).filter (·.valid))

/-- The phase of a die for an interval (R369): most busy cycles, ties to the lower phase, an entry that is not valid counts
as phase 0; with no busy cycles the previous phase. -/
def State.diePhase (s : State) (d : Nat) (m : DieMeasure) : Nat :=
  let cycles := fun p => sumNat ((m.busyByPhase.filter (fun b =>
    decide ((if (s.phaseEntry? b.1).isSome then b.1 else 0) = p))).map (·.2))
  match ((List.range 64).filter (fun p => decide (0 < cycles p))) with
  | [] => s.reg (Reg.PLT_DIE_phase d)
  | h :: t => t.foldl (fun a p => if cycles a < cycles p then p else a) h

/-- Look a phase up in a list. -/
def phaseValue (l : List (Nat × Rat)) (p : Nat) : Option Rat := (l.find? (fun x => decide (x.1 = p))).map (·.2)

/-- Set a phase in a list. -/
def setPhaseValue (l : List (Nat × Rat)) (p : Nat) (v : Rat) : List (Nat × Rat) :=
  l.filter (fun x => !decide (x.1 = p)) ++ [(p, v)]

/-- What a phase's value starts at: its hint ÷ 255 times a full value. -/
def hintValue (weight : Nat) (full : Rat) : Rat := (weight : Rat) / 255 * full

/-- A phase's value, its start where the phase has not been seen. -/
def startPhase (l : List (Nat × Rat)) (p : Nat) (start : Rat) : List (Nat × Rat) :=
  if (phaseValue l p).isSome then l else setPhaseValue l p start

/-- One step of the learning filter. -/
def learnStep (l : List (Nat × Rat)) (p : Nat) (measured : Rat) : List (Nat × Rat) :=
  match phaseValue l p with
  | some a => setPhaseValue l p (a + (measured - a) / 16)
  | none => l

/-- What V² · f is at a voltage in mV and a root mult, in V² · GHz. -/
def switching (mv : Rat) (mult : Nat) : Rat := mv / 1000 * (mv / 1000) * ((mult : Rat) / 10)

/-- The values of every phase that a compute die is in, started and refined by the interval's measurements (R370): a[p], and
HBM and I/O power alike (log entry 12). -/
def State.learnPhases (s : State) (phases : List Nat) (m : PilotMeasure) : State :=
  let seen := phases.zipIdx.foldl (fun (q : Power) x =>
    let e := s.phaseEntry? x.1
    let w := fun (f : PhaseEntry → Nat) => (e.map f).getD 0
    { q with
      activity := startPhase q.activity x.1 (hintValue (w (·.arrayWeight)) (Config.fullActivity x.2 : Rat)),
      hbmLearned := startPhase q.hbmLearned x.1 (hintValue (w (·.hbmWeight)) 450),
      ioLearned := startPhase q.ioLearned x.1 (hintValue (w (·.ioWeight)) 140) }) s.power
  let learned := phases.zipIdx.foldl (fun (q : Power) x =>
    if ((s.phaseEntry? x.1).map (·.learn)).getD false then
      let die := m.dies.getD x.2 ⟨[], 0, 0, [], 0⟩
      let sw := switching (s.reg (Reg.PLT_DIE_v_mv x.2) : Rat) (s.reg (Reg.PLT_DIE_mult x.2)) *
        ((s.reg (Reg.PLT_DIE_gate x.2) : Rat) / 64)
      if sw = 0 then q
      else { q with activity := learnStep q.activity x.1 ((((die.powerMw : Rat) - (die.leakMw : Rat)) / 1000) / sw) }
    else q) seen
  let module_ := phases.eraseDups.foldl (fun (q : Power) p =>
    if ((s.phaseEntry? p).map (·.learn)).getD false then
      { q with hbmLearned := learnStep q.hbmLearned p (m.hbmW : Rat), ioLearned := learnStep q.ioLearned p (m.ioW : Rat) }
    else q) learned
  { s with power := module_ }

/-- The mean of a phase value over the compute dies: the module's phase mix. -/
def phaseMix (l : List (Nat × Rat)) (phases : List Nat) : Rat :=
  (phases.map (fun p => (phaseValue l p).getD 0)).foldl (· + ·) 0 / 8

/-- What the loop of R370 works with. -/
structure PilotPlan where
  entries : List Nat
  gate : Nat
  unreachable : Bool
deriving DecidableEq, Repr

/-- The predicted power of die d at an entry and a gate, in W (R370). -/
def State.predict (s : State) (phases : List Nat) (m : PilotMeasure) (d e g : Nat) : Rat :=
  let leak := ((m.dies.getD d ⟨[], 0, 0, [], 0⟩).leakPlanMw.getD e 0 : Rat) / 1000
  let mult := s.entryMult d e
  leak + (phaseValue s.power.activity (phases.getD d 0)).getD 0 * switching (s.planMv d mult) mult * (g : Rat) / 64

/-- The predicted power of all compute dies. -/
def State.predictAll (s : State) (phases : List Nat) (m : PilotMeasure) (x : PilotPlan) : Rat :=
  (x.entries.zipIdx.map (fun p => s.predict phases m p.2 p.1 x.gate)).foldl (· + ·) 0

/-- The die to lower: highest mult, then higher prediction, then higher number, among those above entry 0. -/
def State.dieToLower (s : State) (phases : List Nat) (m : PilotMeasure) (x : PilotPlan) : Option Nat :=
  match (List.range 8).filter (fun d => decide (0 < x.entries.getD d 0)) with
  | [] => none
  | h :: t =>
    let mult := fun d => s.entryMult d (x.entries.getD d 0)
    let pred := fun d => s.predict phases m d (x.entries.getD d 0) x.gate
    some (t.foldl (fun a d => if mult a < mult d ∨ (mult a = mult d ∧ pred a ≤ pred d) then d else a) h)

/-- The loop of R370. -/
def State.pilotLoop (s : State) (phases : List Nat) (m : PilotMeasure) (avail : Rat) : Nat → PilotPlan → PilotPlan
  | 0, x => x
  | fuel + 1, x =>
    if s.predictAll phases m x ≤ avail then x
    else match s.dieToLower phases m x with
      | some d => s.pilotLoop phases m avail fuel { x with entries := x.entries.modify d (· - 1) }
      | none =>
        if 1 < x.gate then s.pilotLoop phases m avail fuel { x with gate := x.gate - 1 }
        else { x with unreachable := true }

/-- The entry at which fixed-frequency mode runs: the highest whose mult is at most fixed_mult (R373). -/
def State.fixedEntry (s : State) : Nat :=
  ((List.range 64).filter (fun e => decide (s.oppMult e ≤ s.reg Reg.PLT_CTRL_fixed_mult))).getLastD 0

/-- The predicted power of all compute dies at fixed_mult with a gate (R373). -/
def State.predictFixed (s : State) (phases : List Nat) (m : PilotMeasure) (g : Nat) : Rat :=
  ((List.range 8).map (fun d =>
    let mult := Nat.min (s.reg Reg.PLT_CTRL_fixed_mult) (s.diePower d).fmax
    let leak := ((m.dies.getD d ⟨[], 0, 0, [], 0⟩).leakPlanMw.getD s.fixedEntry 0 : Rat) / 1000
    leak + (phaseValue s.power.activity (phases.getD d 0)).getD 0 * switching (s.planMv d mult) mult * (g : Rat) / 64)).foldl
      (· + ·) 0

/-- The largest gate at fixed_mult that meets the power available, if one does (R373). -/
def State.fixedGate (s : State) (phases : List Nat) (m : PilotMeasure) (avail : Rat) : Option Nat :=
  (((List.range 64).map (64 - ·)).find? (fun g => decide (s.predictFixed phases m g ≤ avail)))

/-- A compute die takes its entry and gate; one that droop or heat holds keeps its mult (R364, R375, R376). -/
def State.applyDie (s : State) (d entry mult gate : Nat) : State :=
  let x := s.diePower d
  let target := if x.held then x.target else if x.hot then Nat.min mult x.target else mult
  (s.setDiePower d { x with entry := entry, target := target, gate := gate }).showGate d

/-- cap_unreachable follows the loop: posted when it sets (R371). -/
def State.setUnreachable (s : State) (u : Bool) : State :=
  if u && s.reg Reg.PLT_STATUS_cap_unreachable == 0 then
    (s.setReg Reg.PLT_STATUS_cap_unreachable 1).post Reg.PLT_EVENT_cap_unreachable 0xFF (ratFloor s.budget)
  else s.setReg Reg.PLT_STATUS_cap_unreachable (flag u)

/-- Entries and gates by R370, the dies' entries starting from those given. -/
def State.applyLoop (s : State) (phases : List Nat) (m : PilotMeasure) (avail : Rat) (start : List Nat) : State :=
  let x := s.pilotLoop phases m avail 600 ⟨start, 64, false⟩
  (x.entries.zipIdx.foldl (fun a p => a.applyDie p.2 p.1 (s.entryMult p.2 p.1) x.gate) s).setUnreachable x.unreachable

/-- Fixed-frequency mode yields to the budget: fixed_held clears, and fixed_lost is posted once until the mode holds again
(R373). -/
def State.yieldFixed (s : State) : State :=
  let s1 := s.setReg Reg.PLT_STATUS_fixed_held 0
  if s.power.fixedLost then s1
  else { s1 with power := { s1.power with fixedLost := true } }.post Reg.PLT_EVENT_fixed_lost

/-- Fixed-frequency mode has not yielded. -/
def State.keepFixed (s : State) : State := { s with power := { s.power with fixedLost := false } }

/-- The setting of entries and gates at an interval's end (R370, R373). -/
def State.applyPilot (s : State) (phases : List Nat) (m : PilotMeasure) : State :=
  let avail := s.budget - (m.lossW : Rat) - phaseMix s.power.hbmLearned phases - phaseMix s.power.ioLearned phases - (m.auxW : Rat)
  if s.reg Reg.PLT_CTRL_fixed_freq = 1 then
    let mult := s.reg Reg.PLT_CTRL_fixed_mult
    match s.fixedGate phases m avail with
    | some g =>
      ((List.range 8).foldl (fun a d => a.applyDie d s.fixedEntry (Nat.min mult (s.diePower d).fmax) g) s.keepFixed).setRegs
        [(Reg.PLT_STATUS_fixed_held, 1), (Reg.PLT_STATUS_cap_unreachable, 0)]
    | none =>
      (s.applyLoop phases m avail ((List.range 8).map (fun d => Nat.min s.fixedEntry (s.fmaxEntry d)))).yieldFixed
  else
    (s.keepFixed.setReg Reg.PLT_STATUS_fixed_held 0).applyLoop phases m avail
      (phases.zipIdx.map (fun p => Nat.min (s.reg (Reg.PLT_PHASE_pref p.1)) (s.fmaxEntry p.2)))

/-- Divide a domain's energy in µJ among jobs by their weights; what no job takes is unattributed (R380). -/
def State.shareEnergy (s : State) (uj : Nat) (weights : List (Nat × Nat)) : State :=
  let own := weights.filter (fun w => (s.job? w.1).isSome)
  let total := sumNat (weights.map (·.2))
  let parts := own.map (fun w => (w.1, if total = 0 then 0 else uj * w.2 / total))
  let given := sumNat (parts.map (·.2))
  { s with
    jobs := s.jobs.map (fun j => { j with energy := j.energy + sumNat ((parts.filter (fun p => decide (p.1 = j.id))).map (·.2)) }),
    power := { s.power with unattributed := s.power.unattributed + (uj - given) } }

/-- Energy accounting of an interval (R380); in the anchor watch all of it is unattributed. -/
def State.accountEnergy (s : State) (m : PilotMeasure) : State :=
  let awake := decide (s.power.anchor = .awake) || decide (s.power.anchor = .entering)
  let w := fun (l : List (Nat × Nat)) => if awake then l else []
  let s1 := (m.energyDies.zip m.weightDies).foldl (fun a p => a.shareEnergy p.1 (w p.2)) s
  ((s1.shareEnergy m.energyHbm (w m.weightHbm)).shareEnergy m.energyIo (w m.weightIo)).shareEnergy m.energyRest []

/-- The registers that report an interval (R385). -/
def State.reportInterval (s : State) (phases : List Nat) (m : PilotMeasure) : State :=
  s.setRegs
    ([(Reg.PLT_POWER_vin, m.vin), (Reg.PLT_POWER_pin_w, m.pinW), (Reg.PLT_HBM_p_w, m.hbmW)] ++
      (m.dies.zipIdx.flatMap (fun p => [(Reg.PLT_DIE_p_w p.2, p.1.powerMw / 1000), (Reg.PLT_DIE_tj p.2, p.1.tj)])) ++
      phases.zipIdx.map (fun p => (Reg.PLT_DIE_phase p.2, p.1)))

/-- est_w of the phases that dies are in: the prediction at pref, ungated, of the first such die. -/
def State.reportPhases (s : State) (phases : List Nat) (m : PilotMeasure) : State :=
  phases.eraseDups.foldl (fun a p =>
    a.setReg (Reg.PLT_PHASE_est_w p) (ratFloor (s.predict phases m (phases.findIdx (· == p)) (s.reg (Reg.PLT_PHASE_pref p)) 64)))
    s

/-- An interval in which a rail limit acted counts once; one that still acts acts in the next interval too (R361). -/
def State.countRailLimit (s : State) : State :=
  if s.power.railActed then
    { s with power := { s.power with railActed := !s.power.railActing.isEmpty } }.bump Reg.PLT_CNT_RAIL_LIMIT 1
  else s

/-- PILOT_INTERVAL: a 10 µs interval ends (R361, R368 to R373, R380). In the anchor watch the compute dies are off. -/
def State.pilotInterval (s : State) (m : PilotMeasure) : State :=
  let s0 : State := { s with power := { s.power with vin := m.vin } }
  let counted := s0.countRailLimit
  if s.power.anchor = .watching ∨ s.power.anchor = .waking then
    ((counted.setRegs [(Reg.PLT_POWER_vin, m.vin), (Reg.PLT_POWER_pin_w, m.pinW), (Reg.PLT_HBM_p_w, m.hbmW)]).rebudget).accountEnergy m
  else
    let phases := (List.range 8).map (fun d => s.diePhase d (m.dies.getD d ⟨[], 0, 0, [], 0⟩))
    let s1 := ((counted.learnPhases phases m).reportInterval phases m).rebudget
    let s2 := (s1.applyPilot phases m).reportPhases phases m
    let s3 := if (List.range 8).any (fun d => decide (s2.reg (Reg.PLT_DIE_gate d) < 64)) then s2.bump Reg.PLT_CNT_GATE 1 else s2
    s3.accountEnergy m

/-- PILOT_INTERVAL (R370). -/
def execPilotInterval (measure : PilotMeasure) (s : State) : Host.Outcome State Fault Refusal :=
  perform (.pilotInterval measure) (s.pilotInterval measure)

/-- PREF_REVISE: at the end of a 1 ms window in which a learning phase's dies ran at pref, ungated, pref moves by an entry
(R372). -/
def State.prefRevise (s : State) (phase wait busy : Nat) (atPref : Bool) : State :=
  let pref := s.reg (Reg.PLT_PHASE_pref phase)
  let dies := (List.range 8).filter (fun d => decide (s.reg (Reg.PLT_DIE_phase d) = phase))
  let top := ((if dies.isEmpty then List.range 8 else dies).map s.fmaxEntry).foldl Nat.min 63
  if atPref && ((s.phaseEntry? phase).map (·.learn)).getD false then
    if busy < 2 * wait then s.setReg (Reg.PLT_PHASE_pref phase) (pref - 1)
    else if 8 * wait < busy ∧ pref < top then s.setReg (Reg.PLT_PHASE_pref phase) (pref + 1)
    else s
  else s

/-- PREF_REVISE (R372). -/
def execPrefRevise (phase waitCycles busyCycles : Nat) (atPref : Bool) (s : State) : Host.Outcome State Fault Refusal :=
  perform (.prefRevise phase waitCycles busyCycles atPref) (s.prefRevise phase waitCycles busyCycles atPref)

/-! ### The anchor watch (R381 to R384) -/

/-- The entry conditions: no live task, every enabled ring empty, no reduction or combining entry held. -/
def State.anchorReady (s : State) : Bool :=
  s.tasks.all (fun t => !t.live) && s.rings.all (fun r => !r.enabled || r.empty) && s.reductions.isEmpty && s.combining.isEmpty

/-- An UP link asks to narrow (R297). -/
def State.askNarrow (s : State) (p : Nat) : State :=
  let x := s.port p
  if s.portState p = psUP ∧ s.reg (Reg.FAB_P_STATE_narrow p) = 0 ∧ x.narrowAsked = false then
    (s.setPort p { x with narrowAsked := true }).sendWidth p 0
  else s

/-- ANCHOR: entry begins, or is refused with nothing changed (R381). -/
def State.anchorWrite (s : State) : State :=
  if s.power.anchor ≠ .awake then s
  else if s.anchorReady then
    (List.range 8).foldl State.askNarrow
      ({ s with power := { s.power with anchor := .entering } }.setReg Reg.PLT_CTRL_anchor 1)
  else (s.setReg Reg.PLT_CTRL_anchor 0).post Reg.PLT_EVENT_anchor_refused

/-- ANCHOR (R381). -/
def execAnchor (s : State) : Host.Outcome State Fault Refusal := perform .anchor (s.hostWrite s.anchorWrite)

/-- ANCHOR_COMMIT: VCD0 to VCD7 turn off, the I/O dies go to mult 22 at 0.55 V, anchor is set in PLT_STATUS; tile stores and
task tables are lost (R381). -/
def State.anchorCommit (s : State) : State :=
  if s.power.anchor = .entering then
    let s1 : State := { s with
      tasks := [], power := { s.power with anchor := .watching, rails := List.replicate 8 false ++ s.power.rails.drop 8, railActing := [] } }
    (s1.memOps [.zero (tileKey 0 0) (2 ^ 31)]).setRegs
      ([(Reg.PLT_STATUS_anchor, 1), (Reg.PLT_CTRL_anchor, 0)] ++ (List.range 8).map (fun d => (Reg.PLT_DIE_v_mv d, 0)) ++
        [8, 9].flatMap (fun d => [(Reg.PLT_DIE_mult d, 22), (Reg.PLT_DIE_v_mv d, 550)]))
  else s

/-- ANCHOR_COMMIT (R382). -/
def execAnchorCommit (s : State) : Host.Outcome State Fault Refusal := perform .anchorCommit s.anchorCommit

/-- WAKE: wake written to PLT_CTRL (R382, R384). -/
def State.wakeWrite (s : State) : State :=
  let s1 := s.wakeTrigger
  if s1.power.anchor = .waking then s1.setReg Reg.PLT_CTRL_wake 1 else s1

/-- WAKE (R384). -/
def execWake (s : State) : Host.Outcome State Fault Refusal := perform .wake (s.hostWrite s.wakeWrite)

/-- WAKE_COMPLETE: the dies are back, tile stores zeroed, and the kept doorbells are processed (R382, R384). -/
def State.wakeComplete (s : State) : State :=
  if s.power.anchor = .waking then
    let s1 : State := { s with
      power := { s.power with anchor := .awake, rails := List.replicate 8 true ++ s.power.rails.drop 8, keptDoorbells := [] } }
    let s2 := (s1.memOps [.zero (tileKey 0 0) (2 ^ 31)]).setRegs
      ([(Reg.PLT_STATUS_anchor, 0), (Reg.PLT_CTRL_wake, 0)] ++
        (List.range 8).map (fun d => (Reg.PLT_DIE_v_mv d, railMv (s.planMv d (s.reg (Reg.PLT_DIE_mult d))))) ++
        [8, 9].flatMap (fun d => [(Reg.PLT_DIE_mult d, 66), (Reg.PLT_DIE_v_mv d, 750)]))
    (s.power.keptDoorbells.foldl (fun a k => a.doorbell k.1 k.2) s2).post Reg.PLT_EVENT_anchor_exit
  else s

/-- WAKE_COMPLETE (R384). -/
def execWakeComplete (s : State) : Host.Outcome State Fault Refusal := perform .wakeComplete s.wakeComplete

end Sys2Proof.Machine
end

