-- ==== Sys2Proof/Machine/Reliability.lean ====
section
/-!
DEFINITION. Reliability (16): parity and SRAM errors (R343), replay (R348 to R350), job termination and revival (R346, R347),
and the error log's registers (R357).
-/

namespace Sys2Proof.Machine

/-! ### Job termination (R346, R347) -/

/-- Some job's termination that a kill started has not ended. -/
def State.killPending (s : State) : Bool := s.jobs.any (fun j => decide (j.state = 2) && decide (j.cause = stJOB_KILLED))

/-- JOB_KILL: the selected job starts to terminate; one that is not RUNNING is left as it is. -/
def State.jobKill (s : State) : State :=
  let job := s.reg Reg.ERR_JOB_SEL_job_id
  if s.jobRuns job then (s.terminateJob job stJOB_KILLED).setReg Reg.ERR_JOB_CTRL_kill 1 else s

/-- JOB_KILL (R346). -/
def execJobKill (s : State) : Host.Outcome State Fault Refusal := perform .jobKill (s.hostWrite s.jobKill)

/-- Steps 2 and 3: every live task of a job ends with JOB_KILLED; signals that it still owes fall on tasks that end too. -/
def State.killJobTasks (s : State) (job : Nat) : State :=
  let s1 := (s.tasks.filter (fun t => decide (t.job = job))).foldl State.killTask s
  { s1 with tasks := s1.tasks.filter (fun t => !(decide (t.job = job) && decide (t.phase = .signalling))) }

/-- A ring of a terminated job: disabled, or closing until its last record is written. -/
def Ring.terminate (r : Ring) : Ring :=
  { r with closing := true, progress := none, tableFull := false, stalled := none, carried := r.carried && r.heldByRecord,
           fenced := false }.closeIfDone

/-- Step 4. -/
def State.closeJob (s : State) (job : Nat) : State :=
  let s1 := s.dropUnits (fun j => decide (j = job)) stJOB_KILLED
  { s1 with rings := s1.rings.map (fun r => if s.ringJob? r.id = some job then r.terminate else r) }

/-- Every completion record of a job has been written. -/
def State.jobRecordsDone (s : State) (job : Nat) : Bool :=
  s.rings.all (fun r => !decide (s.ringJob? r.id = some job) || r.waiting.isEmpty) &&
    s.tasks.all (fun t => !decide (t.job = job))

/-- Step 5: the job is KILLED. -/
def State.jobKilled (s : State) (j : Job) : State :=
  let s1 := (s.setJob { j with state := 3 }).bump Reg.ERR_CNT_JOBS_KILLED 1
  let s2 := if s1.killPending then s1 else s1.setReg Reg.ERR_JOB_CTRL_kill 0
  (s2.logError { source := 9, status := j.cause, severity := 3, die := 0, job := j.id }).post Reg.ERR_EVENT_job_killed 0xFF j.id

/-- JOB_TERMINATED: steps 2 to 5; while a completion queue of the job is full, the job stays TERMINATING. -/
def State.jobTerminated (s : State) (job : Nat) : State :=
  match s.job? job with
  | some j =>
    if j.state = 2 then
      let s1 := (s.killJobTasks job).closeJob job
      if s1.jobRecordsDone job then s1.jobKilled j else s1
    else s
  | none => s

/-- JOB_TERMINATED (R346). -/
def execJobTerminated (job : Nat) (s : State) : Host.Outcome State Fault Refusal :=
  perform (.jobTerminated job) (s.jobTerminated job)

/-- JOB_REVIVE: a KILLED job runs again (R347). -/
def State.jobRevive (s : State) : State :=
  match s.job? (s.reg Reg.ERR_JOB_SEL_job_id) with
  | some j => if j.state = 3 then s.setJob { j with state := 1, cause := 0 } else s
  | none => s

/-- JOB_REVIVE (R347). -/
def execJobRevive (s : State) : Host.Outcome State Fault Refusal := perform .jobRevive (s.hostWrite s.jobRevive)

/-! ### The error log's registers (R357) -/

/-- ERR_LOG_ENABLE: enable rises only over a log that ends inside HBM; its pointers then start at 0. -/
def State.errLogEnable (s : State) (enable : Bool) : State :=
  if !enable then s.setReg Reg.ERR_LOG_CFG_enable 0
  else if s.reg Reg.ERR_LOG_CFG_enable = 1 then s
  else if s.reg Reg.ERR_LOG_BASE_base * 64 + 64 * 2 ^ s.reg Reg.ERR_LOG_CFG_log2_entries ≤ hbmEnd then
    s.setRegs [(Reg.ERR_LOG_CFG_enable, 1), (Reg.ERR_LOG_PTR_head, 0), (Reg.ERR_LOG_PTR_tail, 0)]
  else s.bump Reg.DEV_CNT_BAD_ACCESS 1

/-- ERR_LOG_ENABLE (R357). -/
def execErrLogEnable (enable : Bool) (s : State) : Host.Outcome State Fault Refusal :=
  perform (.errLogEnable enable) (s.hostWrite (s.errLogEnable enable))

/-- ERR_LOG_HEAD: head moves forward to at most tail; any other write is counted. -/
def State.errLogHead (s : State) (head : Nat) : State :=
  let h := s.reg Reg.ERR_LOG_PTR_head
  let t := s.reg Reg.ERR_LOG_PTR_tail
  let v := head % 2 ^ 32
  if (v + 2 ^ 32 - h) % 2 ^ 32 ≤ (t + 2 ^ 32 - h) % 2 ^ 32 then s.setReg Reg.ERR_LOG_PTR_head v
  else s.bump Reg.DEV_CNT_BAD_ACCESS 1

/-- ERR_LOG_HEAD (R357). -/
def execErrLogHead (head : Nat) (s : State) : Host.Outcome State Fault Refusal :=
  perform (.errLogHead head) (s.hostWrite (s.errLogHead head))

/-! ### Parity errors (R343, R348 to R350) -/

/-- The die of a memory key: of its tile, or of its HBM stack. -/
def keyDie (key : Nat) : Nat := if 2 ^ 45 ≤ key then (key - 2 ^ 45) / 2 ^ 28 else (hbmMap key).die

/-- The tile of a memory key; 0xFF for HBM. -/
def keyTile (key : Nat) : Nat := if 2 ^ 45 ≤ key then (key - 2 ^ 45) / 2 ^ 25 else 0xFF

/-- The aligned 64-byte block of a key is written poisoned. -/
def State.poisonBlock (s : State) (key : Nat) : State := s.memOps [.poison (key / 64 * 64) 64]

/-- A task ends with PARITY before anything more: what it may have written is undefined (R291, R343). -/
def State.parityEnds (s : State) (t : Task) : State :=
  (s.cutOff t).setTask { t with phase := .finished, status := stPARITY }

/-- The record of a parity error inside an engine of a tile. -/
def Task.parityRecord (t : Task) (tile attempt unit severity status : Nat) : ErrorRecord :=
  { source := 4, status := status, severity := severity, die := tile / 8, tile := tile, unit := unit, job := t.job,
    signalTag := t.desc.signalTag, userTag := t.desc.userTag, detail0 := attempt }

/-- A task is to be repeated from its argument block after an error on a tile: its attempt number, the substitute that the
record names, and what runs the attempt (R348). -/
def State.replay (s : State) (t : Task) (tile attempt unit : Nat) : State :=
  (((s.bump Reg.ERR_CNT_REPLAY 1).logError (t.parityRecord tile attempt unit 0 stOK)).dropRequests t.id).setTask
    { s.restarted t with attempts := attempt }

/-- A parity error inside an engine of a tile that runs a task or a slice of it: suppressed in a speculative task, an end for one
that is not replayable, else attempt 1 on the same tile and attempt 2 on a substitute (R348 to R350). -/
def State.tileParity (s0 : State) (t : Task) (tile : Nat) : State :=
  let s := (s0.bump Reg.ERR_CNT_PARITY 1).suspectTile tile
  if t.speculative then (s.bump Reg.MEM_CNT_SPEC_FAULT_SUPPRESSED 1).setTask { t with marked := true }
  else if t.inPlace then (s.logError (t.parityRecord tile 0 0xFF 2 stPARITY)).parityEnds t
  else if t.attempts = 0 then s.replay t tile 1 0xFF
  else match t.attempts, s.substitute? t.job tile, s.movedOff t tile with
    | 1, some x, some u => s.replay { u with faulty := some tile } tile 2 x
    | _, _, _ => (s.logError (t.parityRecord tile t.attempts 0xFF 2 stPARITY)).parityEnds t

/-- The entry or descriptor that a ring is at fails with PARITY. -/
def State.ringParity (s : State) (ring : Nat) : State :=
  let r := s.ring ring
  if r.heldByRecord then s
  else if r.progress.isSome then s.rejectDescriptor ring 0 0 stPARITY false
  else if (s.ringEntry? ring).isSome then s.rejectEntry ring stPARITY
  else s

/-- A task-table entry is lost: its task completes with PARITY. -/
def State.entryParity (s : State) (t : Task) : State :=
  let s1 := (s.bump Reg.ERR_CNT_SRAM_UE 1).logError
    { source := 10, status := stPARITY, severity := 2, die := t.id.die, job := t.job, signalTag := t.desc.signalTag,
      userTag := t.desc.userTag }
  (s1.cutOff t).complete t (if s.jobRuns t.job then stPARITY else stJOB_KILLED)

/-- A shared control table entry is lost: the job it names is terminated, or every job. -/
def State.sharedParity (s : State) (job : Option Nat) : State :=
  let (v, s0) := s.draw
  let s1 := (s0.bump Reg.ERR_CNT_SRAM_UE 1).logError
    { source := 10, status := stPARITY, severity := 3, die := v % 10, job := job.getD 0xFFFF }
  match job with
  | some j => s1.terminateJob j stPARITY
  | none => s1.jobs.foldl (fun a j => a.terminateJob j.id stPARITY) s1

/-- A task may still fail with PARITY: it has not finished. -/
def Task.unfinished (t : Task) : Bool :=
  match t.phase with
  | .waiting | .delaying _ | .ready _ | .running => true
  | _ => false

/-- PARITY_ERROR (R341, R343). -/
def State.parityError (s : State) (site : ParitySite) : State :=
  match site with
  | .transfer key =>
    ((s.bump Reg.ERR_CNT_PARITY 1).poisonBlock key).logError
      { source := 3, severity := 1, die := keyDie key, tile := keyTile key, addr := s.addrOfKey (key / 64 * 64) }
  | .tileEngine id tile =>
    match s.task? id with
    | some t =>
      if t.phase = .running ∧ isTileClass t.desc.engine ∧ t.desc.engine ≠ engDMA ∧ s.jobRuns t.job ∧
          (s.heldTiles t).contains tile then s.tileParity t tile
      else s
    | none => s
  | .control id =>
    match s.task? id with
    | some t => if t.unfinished then (s.bump Reg.ERR_CNT_PARITY 1).parityEnds t else s
    | none => s
  | .ringEntry ring => (s.bump Reg.ERR_CNT_PARITY 1).ringParity ring
  | .taskEntry id =>
    match s.task? id with
    | some t => if t.phase = .recordDue ∨ t.phase = .signalling then s else s.entryParity t
    | none => s
  | .sharedTable job => s.sharedParity job
  | .sramCorrected none => s.bump Reg.ERR_CNT_SRAM_CE 1
  | .sramCorrected (some tile) => (s.bump Reg.ERR_CNT_SRAM_CE 1).corrected (tile / 8) tile 0xFF 0
  | .sramUncorrectable key =>
    ((s.bump Reg.ERR_CNT_SRAM_UE 1).poisonBlock key).logError
      { source := 2, severity := 1, die := keyDie key, tile := keyTile key, addr := s.addrOfKey (key / 64 * 64) }

/-- PARITY_ERROR (R343). -/
def execParityError (site : ParitySite) (s : State) : Host.Outcome State Fault Refusal :=
  perform (.parityError site) (s.parityError site)

end Sys2Proof.Machine
end

