-- ==== Sys2Proof/Machine/Views.lean ====
section
/-!
DEFINITION. The registers as the host sees them: fields whose value other state gives (views), and BAR0 reads and writes of
register fields that have no row of their own (R4 to R10, R389).
-/

namespace Sys2Proof.Machine

/-! ### Views -/

/-- The running tasks of a class whose engine a tile is. -/
def State.runningOn (s : State) (engine tile : Nat) : List Task :=
  s.tasks.filter (fun t => decide (t.desc.engine = engine) && decide (t.phase = .running) && (s.heldTiles t).contains tile)

/-- The running tasks of a class at a die. -/
def State.runningAt (s : State) (engine die : Nat) : List Task :=
  s.tasks.filter (fun t => decide (t.desc.engine = engine) && decide (t.phase = .running) && decide (t.desc.place = die))

/-- A field of the first task's argument block, 0 when there is none. -/
def firstArg (l : List Task) (off : Nat) : Nat := (l.head?.map (fun t => fieldLe t.args off 1)).getD 0

/-- The host interface (R401, R392, R394). -/
def State.devViews (s : State) : List (Field × Nat) :=
  [(Reg.DEV_ID_stepping, s.silicon.stepping), (Reg.DEV_ID_fw_major, s.boot.fwVersion / 2 ^ 24),
    (Reg.DEV_FEAT_OFFER_offer, s.boot.offer),
    (Reg.DEV_RING_VEC_vector, (s.ring (s.reg Reg.DEV_RING_VEC_SEL_ring)).vector)]

/-- The scheduler (R77). -/
def State.schViews (s : State) : List (Field × Nat) :=
  let r := s.ring (s.reg Reg.SCH_RING_SEL_ring)
  [(Reg.SCH_RING_BASE_base, r.base), (Reg.SCH_RING_CFG_enable, flag r.enabled), (Reg.SCH_RING_CFG_log2_size, r.log2Size),
    (Reg.SCH_RING_CQ_cq_base, r.cqBase), (Reg.SCH_RING_STATE_head, r.head), (Reg.SCH_RING_STATE_state, ringStateCode r),
    (Reg.SCH_RING_TAILS_cq_tail, r.cqTail), (Reg.SCH_RING_TAILS_tail, r.tail),
    (Reg.SCH_PENDING_USE_live, s.signals.length)] ++
    (List.range 8).map (fun d => (Reg.SCH_TABLE_USE_live d, s.tableUse d))

/-- The memory system (R102, R82, R97): miss registers are in use only inside a step, so miss_live reads 0 (log entry 42). -/
def State.memViews (s : State) : List (Field × Nat) :=
  let st := s.stream? (s.reg Reg.MEM_STREAM_SEL_die) (s.reg Reg.MEM_STREAM_SEL_slot)
  let sat := fun n => Nat.min n (2 ^ 24 - 1)
  [(Reg.MEM_STREAM_STATE_open, flag st.isSome), (Reg.MEM_STREAM_STATE_depth, (st.map (·.depth)).getD 0),
    (Reg.MEM_STREAM_STATE_late, sat ((st.map (·.late)).getD 0)),
    (Reg.MEM_STREAM_STATE_consumed, sat ((st.map (·.consumed)).getD 0)),
    (Reg.MEM_SCRUB_STATUS_progress, sumNat s.scrubbed * 1000 / (16 * stackWords))] ++
    (List.range 8).flatMap (fun d => [(Reg.MEM_DIE_tags_live d, s.tagsHeld d), (Reg.MEM_DIE_cap_exp d, s.capExp d)]) ++
    (List.range 16).flatMap (fun k =>
      [(Reg.MEM_LANE_last_lane k, s.binnacle.lastLane.getD k 0),
        (Reg.MEM_LANE_failed k, (s.lanes.filter (fun x => x.marked && decide (x.stack = k))).length)])

/-- The samplers (R125): a running task keeps the number of its keys in its stage (log entry 13). -/
def State.sndViews (s : State) : List (Field × Nat) :=
  (List.range 8).flatMap (fun d =>
    let run := s.runningAt engSAMPLE d
    [(Reg.SND_DIE_busy d, flag (!run.isEmpty)), (Reg.SND_DIE_hash_live d, sumNat (run.map (·.stage))),
      (Reg.SND_DIE_remote_live d, (s.fabric.requests.filter (fun r => r.ended.isNone && run.any (fun t => decide (t.id = r.task)))).length)])

/-- The torus (R298). -/
def State.fabViews (s : State) : List (Field × Nat) :=
  (List.range 4).map (fun d => (Reg.FAB_BREAK_links d, s.breakMap d)) ++
    [(Reg.FAB_OUTSTANDING_xd0, s.outstanding 0), (Reg.FAB_OUTSTANDING_xd1, s.outstanding 1)] ++
    (List.range 8).map (fun p => (Reg.FAB_P_ACCEPTED_FP_fp p, leNat (s.acceptedFp p)))

/-- The collectives (R320). -/
def State.colViews (s : State) : List (Field × Nat) :=
  [(Reg.COL_STATUS_combine_live, s.combining.length), (Reg.COL_STATUS_reductions, s.reductions.length)]

/-- The update engines (R340). -/
def State.updViews (s : State) : List (Field × Nat) :=
  (List.range 8).flatMap (fun d =>
    let run := s.runningAt engUPDATE d
    [(Reg.UPD_DIE_busy d, flag (!run.isEmpty)), (Reg.UPD_DIE_op d, firstArg run 0)])

/-- The Pilot (R385). -/
def State.pltViews (s : State) (off : Nat) : List (Field × Nat) :=
  let e := (off - 0x700100) / 8
  [(Reg.PLT_STATUS_fmax_mult, s.fmaxMult), (Reg.PLT_THERMAL_rth, ratFloor s.power.rth),
    (Reg.PLT_JOB_ENERGY_mj, ((s.job? (s.reg Reg.PLT_JOB_SEL_job_id)).map (·.energy)).getD 0 / 1000),
    (Reg.PLT_UNATTRIBUTED_mj, s.power.unattributed / 1000)] ++
    (List.range 8).flatMap (fun d =>
      [(Reg.PLT_AGE_drift_ppm d, s.power.drift.getD d 0),
        (Reg.PLT_AGE_gb_ps d, ratFloor (guardband (s.power.drift.getD d 0)))]) ++
    (if 0x700100 ≤ off ∧ off < 0x700300 then [(Reg.PLT_OPP_v_mv e, s.oppMv e)] else [])

/-- Reliability (R358, R392). -/
def State.errViews (s : State) : List (Field × Nat) :=
  let j := s.job? (s.reg Reg.ERR_JOB_SEL_job_id)
  [(Reg.ERR_JOB_STATE_state, (j.map (·.state)).getD 0), (Reg.ERR_JOB_STATE_cause, (j.map (·.cause)).getD 0)] ++
    (if s.accepted 5 then [] else [(Reg.ERR_SHADOW_PHASES_mask, 0)])

/-- Boot and attestation (R421). -/
def State.secViews (s : State) : List (Field × Nat) :=
  [(Reg.SEC_SVN_counter, s.binnacle.counter), (Reg.SEC_SVN_svn, s.boot.svn)]

/-- The Chart (R40). -/
def State.chtViews (s : State) : List (Field × Nat) :=
  [(Reg.CHT_RETIRED_MASK_retired, s.retiredMask),
    (Reg.CHT_OWNER_FP_fp, ((s.binnacle.ownerKey).map (fun k => leNat (fingerprint k))).getD 0)]

/-- A tile's engines (R197, R219, R253, R269). -/
def State.tileViews (s : State) (t : Nat) : List (Field × Nat) :=
  let edge := s.runningOn engEDGE t
  let a := s.runningOn engARRAY_A t
  let b := s.runningOn engARRAY_B t
  let ab := s.runningOn engARRAY_AB t
  let vec := s.runningOn engVECTOR t
  let all := a ++ b ++ ab
  [(Reg.TIL_EDG_STATUS_busy t, flag (!edge.isEmpty)), (Reg.TIL_EDG_STATUS_op t, firstArg edge 0),
    (Reg.TIL_ARR_STATUS_a_busy t, flag (!a.isEmpty || !ab.isEmpty)),
    (Reg.TIL_ARR_STATUS_b_busy t, flag (!b.isEmpty || !ab.isEmpty)),
    (Reg.TIL_ARR_STATUS_ws t, flag (((s.groupOf? t).map s.wideGroup).getD false)),
    (Reg.TIL_ARR_STATUS_drain_a t, sumNat (all.map (·.drainA))), (Reg.TIL_ARR_STATUS_drain_b t, sumNat (all.map (·.drainB))),
    (Reg.TIL_VEC_STATUS_busy t, flag (!vec.isEmpty)), (Reg.TIL_VEC_STATUS_stage_mask t, firstArg vec 2),
    (Reg.TIL_BWD_STATUS_busy t, flag (!ab.isEmpty)), (Reg.TIL_BWD_STATUS_parts t, firstArg ab 3 / 64)]

/-- The fields of the block at a BAR0 offset that are views of other state, with their values. -/
def State.views (s : State) (off : Nat) : List (Field × Nat) :=
  match off / 0x100000 with
  | 0 => s.devViews
  | 1 => s.schViews
  | 2 => s.memViews
  | 3 => s.sndViews
  | 4 => s.fabViews
  | 5 => s.colViews
  | 6 => s.updViews
  | 7 => s.pltViews off
  | 8 => s.errViews
  | 10 => s.secViews
  | 11 => s.chtViews
  | 12 | 13 | 14 | 15 => s.tileViews ((off - 0xC00000) / 0x10000)
  | _ => []

/-- The value a field reads as: a view, or what the register file holds; a write-only field reads as zero (R7). -/
def State.fieldValue (s : State) (f : Field) : Nat :=
  if f.ty = .wo then 0
  else match (s.views f.off).find? (fun p => decide (p.1.key = f.key)) with
    | some p => p.2 % 2 ^ f.width
    | none => s.reg f

/-! ### Reads (R7, R389) -/

/-- A BAR0 access of a supported size and alignment. -/
def aligned (off size : Nat) : Bool := (size == 4 || size == 8) && decide (off % size = 0)

/-- The bits that a field contributes to a read of size bytes at an offset within its register. -/
def fieldPart (f : Field) (v off size : Nat) : Nat := v * 2 ^ f.lo / 2 ^ (8 * (off - f.off)) % 2 ^ (8 * size)

/-- The value of the registers' bytes at an offset. -/
def State.regRead (s : State) (off size : Nat) : Nat :=
  (fieldsAt off).foldl (fun a f => a ||| fieldPart f (s.fieldValue f) off size) 0

/-- The RC fields of a register clear once an 8-byte read has returned them (R7, R389). -/
def State.clearRead (s : State) (off : Nat) : State :=
  ((fieldsAt off).filter (fun f => decide (f.ty = .rc))).foldl (fun a f => a.setReg f 0) s

/-! ### Writes of fields without a row of their own (R4, R6, R7) -/

/-- Fields whose write is a row of its own: REGISTER_WRITE leaves them as they are. -/
def ownRow : List Field :=
  [Reg.CHT_CTRL_load, Reg.CHT_CTRL_unload, Reg.SCH_TICK_period, Reg.SCH_RING_CFG_enable, Reg.TEL_DRIFT_CFG_enable,
    Reg.TEL_DRIFT_CFG_window_log2, Reg.TEL_DRIFT_CFG_vanish_limit, Reg.TEL_DRIFT_CFG_shift_limit, Reg.COL_SYSRESET_confirm,
    Reg.ERR_JOB_CTRL_kill, Reg.ERR_JOB_CTRL_revive, Reg.ERR_LOG_CFG_enable, Reg.ERR_LOG_PTR_head, Reg.PLT_CAP_cap_w,
    Reg.PLT_CTRL_anchor, Reg.PLT_CTRL_wake] ++
  [Reg.DEV_FEAT_CTRL_commit, Reg.DEV_EVQ_CFG_enable, Reg.DEV_EVQ_PTR_head, Reg.DEV_RESET_confirm, Reg.SEC_CTRL_commit_svn,
    Reg.SEC_CTRL_update, Reg.SEC_CTRL_recover]

/-- Whether a field's write is a row of its own: one of the list, a port's control register, or an operating point. -/
def hasOwnRow (f : Field) : Bool :=
  ownRow.any (fun g => decide (g.key = f.key)) || (decide (0x401000 ≤ f.off) && decide (f.off < 0x402000)) ||
    (decide (0x700100 ≤ f.off) && decide (f.off < 0x700300))

/-- Whether a register ignores writes to a field now (R78, R357, R392, R393, R396; setting force while
DRAINING is the row FORCE, R47). -/
def State.writeIgnored (s : State) (f : Field) (v : Nat) : Bool :=
  let same := fun g : Field => decide (g.key = f.key)
  if same Reg.CHT_CTRL_force then v == 1 && s.chtState == chtDraining
  else if same Reg.DEV_FEAT_ACCEPT_accept then s.reg Reg.DEV_FEAT_CTRL_committed == 1
  else if same Reg.DEV_EVQ_BASE_base || same Reg.DEV_EVQ_CFG_log2_size then s.reg Reg.DEV_EVQ_CFG_enable == 1
  else if same Reg.ERR_LOG_BASE_base || same Reg.ERR_LOG_CFG_log2_entries then s.reg Reg.ERR_LOG_CFG_enable == 1
  else if same Reg.ERR_SHADOW_PHASES_mask then !s.accepted 5
  else if same Reg.SCH_RING_BASE_base || same Reg.SCH_RING_CFG_log2_size || same Reg.SCH_RING_CQ_cq_base then
    (s.ring (s.reg Reg.SCH_RING_SEL_ring)).enabled
  else false

/-- A write to MEM_BANK_CAP: with adapt at 0 every die's e is limit, and requests that wait may be granted (R90). -/
def State.bankCapWrite (s : State) (f : Field) (v : Nat) : State :=
  let s1 := s.setReg f v
  let s2 := if s1.reg Reg.MEM_BANK_CAP_adapt = 0 then
      s1.setRegs ((List.range 8).map (fun d => (Reg.MEM_DIE_cap_exp d, s1.reg Reg.MEM_BANK_CAP_limit)))
    else s1
  s2.regrant

/-- Give a RW field a value, wherever it is held, with what the write brings about (R77, R90, R373, R376, R394). -/
def State.putField (s : State) (f : Field) (v : Nat) : State :=
  let same := fun g : Field => decide (g.key = f.key)
  let r := s.ring (s.reg Reg.SCH_RING_SEL_ring)
  if same Reg.SCH_RING_BASE_base then s.setRing { r with base := v }
  else if same Reg.SCH_RING_CFG_log2_size then s.setRing { r with log2Size := v }
  else if same Reg.SCH_RING_CQ_cq_base then s.setRing { r with cqBase := v }
  else if same Reg.DEV_RING_VEC_vector then s.setRing { s.ring (s.reg Reg.DEV_RING_VEC_SEL_ring) with vector := v }
  else if same Reg.MEM_BANK_CAP_adapt || same Reg.MEM_BANK_CAP_limit then s.bankCapWrite f v
  else if same Reg.PLT_THERMAL_tj_target then (s.setReg f v).rebudget
  else if same Reg.PLT_CTRL_fixed_freq then
    let s1 := s.setReg f v
    if v = 0 then s1.setReg Reg.PLT_STATUS_fixed_held 0 else s1
  else s.setReg f v

/-- The bits of a field that a write of size bytes at an offset covers, and the value it writes there: the field's value with
the covered bits replaced. -/
def merged (f : Field) (old off size value : Nat) : Nat :=
  let sh := 8 * (off - f.off)
  let n := 8 * size
  let i := f.lo
  (List.range f.width).foldl (fun a k =>
    let at_ := i + k
    let b := if sh ≤ at_ ∧ at_ < sh + n then bit value (at_ - sh) else bit old k
    a + flag b * 2 ^ k) 0

/-- Whether a write of size bytes at an offset covers some bit of a field. -/
def covers (f : Field) (off size : Nat) : Bool :=
  let sh := 8 * (off - f.off)
  decide (sh < f.lo + f.width) && decide (f.lo < sh + 8 * size)

/-- Write one field: RW fields are set unless the value is a reserved encoding, W1C bits clear; others have their own rows or
ignore writes. -/
def State.writeField (s : State) (off size value : Nat) (f : Field) : State :=
  if !covers f off size || hasOwnRow f then s
  else match f.ty with
    | .rw =>
      let v := merged f (s.fieldValue f) off size value
      if f.permits v && !s.writeIgnored f v then s.putField f v else s
    | .w1c =>
      let ones := merged f 0 off size value
      s.setReg f (Nat.land (s.reg f) (2 ^ f.width - 1 - ones))
    | _ => s

/-- Write the registers' bytes at an offset: each field acts by the register's value before the write. -/
def State.regWrite (s : State) (off size value : Nat) : State :=
  (fieldsAt off).foldl (fun a f => a.writeField off size value f) s

end Sys2Proof.Machine
end

