-- ==== Sys2Proof/Machine/Host.lean ====
section
/-!
DEFINITION. The host interface (18): BAR0, BAR2, configuration writes, feature negotiation, the event ring's registers, MSI-X
and HOST_DMA; and a write to TEL_DRIFT_CFG (R174).
-/

namespace Sys2Proof.Machine

/-! ### MSI-X (R388, R394) -/

/-- Replace a vector's table entry. -/
def State.setMsix (s : State) (e : MsixEntry) : State :=
  { s with pcie := { s.pcie with msix := e :: s.pcie.msix.filter (fun x => !decide (x.vector = e.vector)) } }

/-- A vector whose PBA bit is set and that may now be sent is sent, or waits for its holdoff (R394). -/
def State.sendPending (s : State) (v : Nat) : State :=
  if s.pcie.pba.contains v && !s.vectorMasked v then
    { s with pcie := { s.pcie with pba := s.pcie.pba.filter (fun x => !decide (x = v)) } }.raiseVector v
  else s

/-- Every pending vector that may be sent is sent. -/
def State.sendAllPending (s : State) : State := s.pcie.pba.foldl State.sendPending s

/-- MSIX_UNMASK: the mask bit of a vector clears, and a pending message goes (R394). -/
def State.msixUnmask (s : State) (v : Nat) : State :=
  (s.setMsix { s.msixEntry v with masked := false }).sendPending v

/-- MSIX_UNMASK (R394). -/
def execMsixUnmask (vector : Nat) (s : State) : Host.Outcome State Fault Refusal :=
  perform (.msixUnmask vector) (s.hostWrite (s.msixUnmask vector))

/-- MSIX_HOLDOFF_END: triggers within the holdoff are one message at its end (R394). -/
def State.msixHoldoffEnd (s : State) (v : Nat) : State :=
  match s.pcie.holdoff.find? (fun x => decide (x.1 = v)) with
  | some (_, due, waits) =>
    if due ≤ s.now then
      let s1 := { s with pcie := { s.pcie with holdoff := s.pcie.holdoff.filter (fun x => !decide (x.1 = v)) } }
      if waits then s1.raiseVector v else s1
    else s
  | none => s

/-- MSIX_HOLDOFF_END (R394). -/
def execMsixHoldoffEnd (vector : Nat) (s : State) : Host.Outcome State Fault Refusal :=
  perform (.msixHoldoffEnd vector) (s.msixHoldoffEnd vector)

/-- BAR0 offset of the MSI-X table, of its end, and of the PBA (R388). -/
def msixTable : Nat := 0x2000000
/-- One past the MSI-X table: 2,048 entries of 16 bytes. -/
def msixTableEnd : Nat := 0x2008000
/-- One past the PBA: 2,048 bits. -/
def msixPbaEnd : Nat := 0x2008100

/-- The 16 bytes of a table entry: address, data, vector control. -/
def MsixEntry.bytes (e : MsixEntry) : List Byte := leBytes 8 e.addr ++ leBytes 4 e.data ++ leBytes 4 (flag e.masked)

/-- A write of size bytes into the MSI-X table; clearing a mask bit unmasks the vector. -/
def State.msixWrite (s : State) (off size value : Nat) : State :=
  let v := (off - msixTable) / 16
  let b := putBytes (s.msixEntry v).bytes (off % 16) (leBytes size value)
  (s.setMsix ⟨v, fieldLe b 0 8, fieldLe b 8 4, bit (fieldLe b 12 4) 0⟩).sendPending v

/-- A read of size bytes of the MSI-X table or PBA. -/
def State.msixRead (s : State) (off size : Nat) : Nat :=
  if off < msixTableEnd then fieldLe (s.msixEntry ((off - msixTable) / 16)).bytes (off % 16) size
  else sumNat ((List.range (8 * size)).map (fun i => if s.pcie.pba.contains ((off - msixTableEnd) * 8 + i) then 2 ^ i else 0))

/-! ### BAR0 (R389, R7) -/

/-- A BAR0 offset that is served in the module's state: in RECOVERY the SEC_ registers only (R409). -/
def State.bar0Served (s : State) (off : Nat) : Bool :=
  !decide (s.reg Reg.SEC_STATUS_state = secRecovery) || decide (off / 0x100000 = 10)

/-- A BAR0 write: of another size or alignment it is discarded and counted (R389). -/
def State.bar0Write (s : State) (off size value : Nat) : State :=
  if !aligned off size then s.bump Reg.DEV_CNT_BAD_ACCESS 1
  else if !s.bar0Served off then s
  else if msixTable ≤ off ∧ off < msixTableEnd then s.msixWrite off size value
  else s.regWrite off size value

/-- REGISTER_WRITE (R7, R389). -/
def execRegisterWrite (offset size value : Nat) (s : State) : Host.Outcome State Fault Refusal :=
  perform (.registerWrite offset size value) (s.secWrite (s.bar0Write offset size value))

/-- A BAR0 read: of another size or alignment it returns zero and is counted; an 8-byte read clears RC fields (R389). -/
def State.bar0Read (s : State) (off size : Nat) : State :=
  if !aligned off size then (s.bump Reg.DEV_CNT_BAD_ACCESS 1).emit (.readData 0)
  else if !s.bar0Served off then s.emit (.readData 0)
  else if msixTable ≤ off ∧ off < msixPbaEnd then s.emit (.readData (s.msixRead off size))
  else (if size = 8 then s.clearRead off else s).emit (.readData (s.regRead off size))

/-- RC_READ (R7, R389). -/
def execRcRead (offset size : Nat) (s : State) : Host.Outcome State Fault Refusal :=
  perform (.rcRead offset size) (s.secWrite (s.bar0Read offset size))

/-- A write to TEL_DRIFT_CFG: its fields are set but for reserved encodings, and every kind's open window ends without a
verdict (R173, R174). -/
def State.driftCfgWrite (s : State) (value : Nat) : State :=
  let put := fun (a : State) (f : Field) =>
    let v := value / 2 ^ f.lo % 2 ^ f.width
    if f.permits v then a.setReg f v else a
  let s1 := [Reg.TEL_DRIFT_CFG_enable, Reg.TEL_DRIFT_CFG_window_log2, Reg.TEL_DRIFT_CFG_vanish_limit,
    Reg.TEL_DRIFT_CFG_shift_limit].foldl put s
  { s1 with drift := s1.drift.map (fun _ => DriftWindow.reset) }

/-- DRIFT_CFG_WRITE (R174). -/
def execDriftCfgWrite (value : Nat) (s : State) : Host.Outcome State Fault Refusal :=
  perform (.driftCfgWrite value) (s.hostWrite (s.driftCfgWrite value))

/-! ### BAR2 (R390, R409) -/

/-- The HBM offset of a BAR2 access of n bytes, when it is served. In RECOVERY BAR2 maps HBM offsets 0 to 1 GiB − 1. -/
def State.bar2At? (s : State) (off n : Nat) : Option Nat :=
  if s.reg Reg.SEC_STATUS_state = secRecovery then (if off + n ≤ 2 ^ 30 then some off else none)
  else
    let base := s.reg Reg.DEV_BAR2_BASE_base * 2 ^ 30
    if s.accepted 4 ∧ off + n ≤ 2 ^ (30 + s.pcie.bar2Log2Gib) ∧ base + off + n ≤ hbmEnd then some (base + off) else none

/-- A BAR2 write, which poisons every block it touches where it carries the EP bit, or a BAR2 read, whose completions carry EP
for the bytes of poisoned blocks; Unsupported Request where it is not served. -/
def State.bar2Transfer (s : State) (off : Nat) (write : Option (List Byte)) (ep : Bool) (length : Nat) : State :=
  match write with
  | some d =>
    match s.bar2At? off d.length with
    | some k => s.memOps [if ep then .writePoisoned k d else .write k d]
    | none => s.emit .unsupported
  | none =>
    match s.bar2At? off length with
    | some k => s.emit (.bar2Data (s.mem.readN k length) ((blocksOf k length).filter (s.mem.poison.contains ·)))
    | none => s.emit .unsupported

/-- The codewords that a served BAR2 access reads: those a read touches, and those a write covers in part. -/
def State.bar2Reads (s : State) (off : Nat) (write : Option (List Byte)) (length : Nat) : List (Nat × Nat) :=
  match write with
  | some d =>
    match s.bar2At? off d.length with
    | some k => ((blocksOf k d.length).filter (fun b => decide (b * 64 < k) || decide (k + d.length < b * 64 + 64))).map
        (fun b => (b * 64, 64))
    | none => []
  | none => ((s.bar2At? off length).map (fun k => (k, length))).toList

/-- A BAR2 access whose reads meet symbol errors (R82 to R84, R390). -/
def State.bar2Access (s : State) (off : Nat) (write : Option (List Byte)) (ep : Bool) (r : Bar2Reads) : State :=
  (s.demandReads (s.bar2Reads off write r.length) r.errors).bar2Transfer off write ep r.length

/-- BAR2_ACCESS (R390). -/
def execBar2Access (offset : Nat) (write : Option (List Byte)) (ep : Bool) (reads : Bar2Reads) (s : State) :
    Host.Outcome State Fault Refusal :=
  perform (.bar2Access offset write ep reads) (s.secWrite (s.bar2Access offset write ep reads))

/-! ### Features and the event ring (R393, R396) -/

/-- FEAT_COMMIT: the accepted value takes effect, or is refused with no feature accepted (R393). -/
def State.featCommit (s : State) : State :=
  let v := s.reg Reg.DEV_FEAT_ACCEPT_accept
  if s.reg Reg.DEV_FEAT_CTRL_committed = 1 then s
  else if Nat.land v s.boot.offer = v ∧ bit v 0 then s.setReg Reg.DEV_FEAT_CTRL_committed 1
  else s.post Reg.DEV_EVENT_feat_rejected

/-- FEAT_COMMIT (R393). -/
def execFeatCommit (s : State) : Host.Outcome State Fault Refusal := perform .featCommit (s.hostWrite s.featCommit)

/-- EVQ_ENABLE: the ring starts with its pointers at 0 where it ends inside HBM; else the write is counted (R396). -/
def State.evqEnable (s : State) (enable : Bool) : State :=
  if !enable then s.setReg Reg.DEV_EVQ_CFG_enable 0
  else if s.reg Reg.DEV_EVQ_CFG_enable = 1 then s
  else if s.reg Reg.DEV_EVQ_BASE_base * 32 + 32 * 2 ^ s.reg Reg.DEV_EVQ_CFG_log2_size ≤ hbmEnd then
    s.setRegs [(Reg.DEV_EVQ_CFG_enable, 1), (Reg.DEV_EVQ_PTR_head, 0), (Reg.DEV_EVQ_PTR_tail, 0)]
  else s.bump Reg.DEV_CNT_BAD_ACCESS 1

/-- EVQ_ENABLE (R396). -/
def execEvqEnable (enable : Bool) (s : State) : Host.Outcome State Fault Refusal :=
  perform (.evqEnable enable) (s.hostWrite (s.evqEnable enable))

/-- EVQ_HEAD: head moves forward to at most tail; any other write is counted (R396). -/
def State.evqHead (s : State) (head : Nat) : State :=
  let h := s.reg Reg.DEV_EVQ_PTR_head
  let t := s.reg Reg.DEV_EVQ_PTR_tail
  let v := head % 2 ^ 32
  if (v + 2 ^ 32 - h) % 2 ^ 32 ≤ (t + 2 ^ 32 - h) % 2 ^ 32 then s.setReg Reg.DEV_EVQ_PTR_head v
  else s.bump Reg.DEV_CNT_BAD_ACCESS 1

/-- EVQ_HEAD (R396). -/
def execEvqHead (head : Nat) (s : State) : Host.Outcome State Fault Refusal :=
  perform (.evqHead head) (s.hostWrite (s.evqHead head))

/-! ### Link and configuration space (R386, R387) -/

/-- LINK_CHANGED: DEV_LINK reports the link, and link_changed is posted (R387). -/
def State.linkChanged (s : State) (speed width : Nat) (flit : Bool) : State :=
  let s1 := s.setRegs [(Reg.DEV_LINK_speed, speed), (Reg.DEV_LINK_width, width), (Reg.DEV_LINK_flit, if flit then 1 else 0)]
  { s1 with pcie := { s1.pcie with linkUp := decide (speed ≠ 0) } }.post Reg.DEV_EVENT_link_changed

/-- LINK_CHANGED (R387). -/
def execLinkChanged (speed width : Nat) (flit : Bool) (s : State) : Host.Outcome State Fault Refusal :=
  perform (.linkChanged speed width flit) (if s.powered then s.linkChanged speed width flit else s)

/-- The payload sizes of the standard's Device Control codes that R386 lists; others leave the value. -/
def payloadSize (code limit old : Nat) : Nat := if 128 * 2 ^ code ≤ limit then 128 * 2 ^ code else old

/-- A configuration write takes effect (R386, R388, R394, R399; log entry 5). -/
def State.configure (s : State) (r : CfgRegister) (v : Nat) : State :=
  let p := s.pcie
  match r with
  | .powerControl => { s with pcie := { p with d3hot := if v % 4 = 3 then true else if v % 4 = 0 then false else p.d3hot } }
  | .resizableBar =>
    let n := bits v 13 8
    { s with pcie := { p with bar2Log2Gib := if 10 ≤ n ∧ n ≤ 20 then n - 10 else p.bar2Log2Gib } }
  | .deviceControl =>
    { s with pcie := { p with
        maxPayload := payloadSize (bits v 7 5) 512 p.maxPayload, maxRead := payloadSize (bits v 14 12) 4096 p.maxRead } }
  | .deviceControl2 => { s with pcie := { p with cplTimeout := v % 16 } }
  | .msixControl =>
    let s1 : State := { s with pcie := { p with msixEnable := bit v 15, msixMaskAll := bit v 14 } }
    s1.sendAllPending
  | .kept n => { s with pcie := { p with kept := storeNat n v p.kept } }

/-- CONFIGURATION_REQUEST: retried while the module boots (R400, R402). -/
def State.configurationRequest (s : State) (r : CfgRegister) (v : Nat) : State :=
  if !s.powered then s
  else if s.reg Reg.SEC_STATUS_state = secBooting then s.emit .retryStatus
  else s.configure r v

/-- CONFIGURATION_REQUEST (R386). -/
def execConfigurationRequest (register : CfgRegister) (value : Nat) (s : State) : Host.Outcome State Fault Refusal :=
  perform (.configurationRequest register value) (s.configurationRequest register value)

/-! ### HOST_DMA (R397 to R399) -/

/-- A HOST_DMA argument block. -/
structure HostArgs where
  op : Nat
  noSnoop : Bool
  relaxed : Bool
  host : Nat
  addr : Nat
  length : Nat
deriving DecidableEq, Repr

/-- Its fields. -/
def parseHostArgs (b : List Byte) : HostArgs :=
  ⟨fieldLe b 0 1, bit (fieldLe b 1 1) 1, bit (fieldLe b 1 1) 0, fieldLe b 8 8, fieldLe b 0x10 8, fieldLe b 0x18 4⟩

/-- Its checks at dispatch (R397, R438): FORMAT, ACCESS, BOUND. Reserved fields fail FORMAT here. -/
def State.hostCheck (s : State) (t : Task) : Nat :=
  let a := parseHostArgs t.args
  let reserved := decide (4 ≤ fieldLe t.args 1 1) || decide (fieldLe t.args 2 6 ≠ 0) || decide (fieldLe t.args 0x1C 36 ≠ 0)
  let r : Range := { addr := a.addr, len := a.length, read := a.op == 1, write := a.op == 2 }
  firstFailure
    [failIf (!(a.op == 1 || a.op == 2) || reserved || decide (2 ^ 64 < a.host + a.length) ||
        (decide (0 < a.length) && decide (1 < addrSpace a.addr))) stFORMAT,
      s.rangeAccess t.job r, s.rangeBound t.job r]

/-- The memory that FROM_HOST may write. -/
def State.hostOuts (s : State) (t : Task) : List (Nat × Nat) :=
  let a := parseHostArgs t.args
  if a.op = 2 ∧ 0 < a.length then [(s.key a.addr, a.length)] else []

/-- Cut n bytes from an address into pieces of at most size bytes, none crossing a 4 KiB boundary (R398): offset and length. -/
def cutHost (addr size : Nat) : Nat → Nat → Nat → List (Nat × Nat)
  | 0, _, _ => []
  | fuel + 1, off, left =>
    if left = 0 then []
    else
      let k := Nat.min left (Nat.min size (4096 - (addr + off) % 4096))
      (off, k) :: cutHost addr size fuel (off + k) (left - k)

/-- All pieces of a host transfer. -/
def hostPieces (addr size length : Nat) : List (Nat × Nat) := cutHost addr size (length / size + length / 4096 + 3) 0 length

/-- A TO_HOST task: its memory writes go out, with EP where they carry poisoned bytes, and it finishes with OK (R398). -/
def State.sendHost (s : State) (t : Task) : State :=
  let a := parseHostArgs t.args
  let key := s.key a.addr
  let out := (hostPieces a.host s.pcie.maxPayload a.length).map (fun p =>
    Output.hostWrite (a.host + p.1) (s.mem.readN (key + p.1) p.2) (s.mem.poisoned (key + p.1) p.2) a.noSnoop a.relaxed)
  { s with outputs := s.outputs ++ out }.applyResult t { status := stOK }

/-- TO_HOST: a running task's writes are issued. -/
def State.toHost (s : State) (id : TaskId) : State :=
  match s.runningTask? id engHOST_DMA 1 with
  | some t => s.sendHost t
  | none => s

/-- TO_HOST (R398). -/
def execToHost (task : TaskId) (s : State) : Host.Outcome State Fault Refusal := perform (.toHost task) (s.toHost task)

/-- The module has at most 8,192 non-posted requests outstanding (R386). -/
def hostTags : Nat := 8192

/-- The lowest tag from a number on that no read holds. -/
def freeTag (used : List Nat) : Nat → Nat → Nat
  | 0, n => n
  | fuel + 1, n => if used.contains (n % 16384) then freeTag used fuel (n + 1) else n % 16384

/-- Issue one read. -/
def State.issueRead (s : State) (t : Task) (a : HostArgs) (p : Nat × Nat) : State :=
  let tag := freeTag (s.pcie.reads.map (·.tag)) hostTags s.pcie.nextTag
  let r : HostRead := ⟨tag, t.id, a.host + p.1, p.2, s.key a.addr + p.1, s.now⟩
  { s with pcie := { s.pcie with reads := s.pcie.reads ++ [r], nextTag := (tag + 1) % 16384 } }.emit
    (.hostReadReq tag (a.host + p.1) p.2 a.noSnoop a.relaxed)

/-- Issue the reads of a FROM_HOST task that are not out yet, as far as tags are free (R59); t.stage counts its bytes asked. -/
def State.issueReads (s : State) (t : Task) : State :=
  let a := parseHostArgs t.args
  let rest := ((hostPieces a.host s.pcie.maxRead a.length).filter (fun p => decide (t.stage - 1 ≤ p.1))).take
    (hostTags - s.pcie.reads.length)
  (rest.foldl (fun x p => x.issueRead t a p) s).setTask { t with stage := t.stage + sumNat (rest.map (·.2)) }

/-- FROM_HOST tasks that wait for a free tag, highest priority first and oldest first within a priority (R59). -/
def State.waitingReaders (s : State) : List Task :=
  (s.tasks.filter (fun t => decide (t.desc.engine = engHOST_DMA) && decide (t.phase = .running) && decide (0 < t.stage) &&
    decide (t.stage - 1 < (parseHostArgs t.args).length))).mergeSort (fun a b =>
      decide (b.desc.priority < a.desc.priority) ||
        (decide (a.desc.priority = b.desc.priority) && decide (a.dispatched.getD 0 ≤ b.dispatched.getD 0)))

/-- Freed tags are taken by tasks that wait for them. -/
def State.resumeReads (s : State) : State := s.waitingReaders.foldl State.issueReads s

/-- A FROM_HOST task whose bytes have all been asked for and have all arrived finishes with OK (R398). -/
def State.readerDone (s : State) (id : TaskId) : State :=
  match s.task? id with
  | some t =>
    if t.phase = .running ∧ t.stage - 1 = (parseHostArgs t.args).length ∧ s.pcie.reads.all (fun r => !decide (r.task = id)) then
      s.applyResult t { status := stOK }
    else s
  | none => s

/-- FROM_HOST: a running task starts its reads; one without a byte finishes at once (R397). -/
def State.fromHost (s : State) (id : TaskId) : State :=
  match s.runningTask? id engHOST_DMA 2 with
  | some t => if t.stage = 0 then (s.issueReads { t with stage := 1 }).readerDone id else s
  | none => s

/-- FROM_HOST (R398). -/
def execFromHost (task : TaskId) (s : State) : Host.Outcome State Fault Refusal := perform (.fromHost task) (s.fromHost task)

/-- A FROM_HOST task fails: its reads are forgotten and its local bytes undefined (R398, R399). -/
def State.readerFails (s : State) (id : TaskId) (status : Nat) : State :=
  match s.task? id with
  | some t => ((s.undefine t.outs).dropRequests id).setTask { t with phase := .finished, status := status }
  | none => s

/-- The bytes of a completion land; with EP the blocks they land in are poisoned (R398). -/
def State.landRead (s : State) (r : HostRead) (ep : Bool) (data : List Byte) : State :=
  let d := data.take r.length
  let n := d.length
  let s1 := s.memOps [if ep then .writePoisoned r.localKey d else .write r.localKey d]
  let left : HostRead := { r with hostAddr := r.hostAddr + n, length := r.length - n, localKey := r.localKey + n }
  let reads := if r.length ≤ n then s1.pcie.reads.filter (fun q => !decide (q.tag = r.tag))
    else s1.pcie.reads.map (fun q => if q.tag = r.tag then left else q)
  { s1 with pcie := { s1.pcie with reads := reads } }

/-- HOST_COMPLETION: the completion of a read; without its read it is an Unexpected Completion and is discarded (R398,
R399). -/
def State.hostCompletion (s : State) (tag : Nat) (status : CplStatus) (ep : Bool) (data : List Byte) : State :=
  match s.pcie.reads.find? (fun r => decide (r.tag = tag)) with
  | none => { s with pcie := { s.pcie with unexpected := true } }
  | some r =>
    match status with
    | .success => ((s.landRead r ep data).resumeReads).readerDone r.task
    | _ => (s.readerFails r.task stACCESS).resumeReads

/-- HOST_COMPLETION (R398). -/
def execHostCompletion (tag : Nat) (status : CplStatus) (ep : Bool) (data : List Byte) (s : State) :
    Host.Outcome State Fault Refusal :=
  perform (.hostCompletion tag status ep data) (if s.powered then s.hostCompletion tag status ep data else s)

/-- The completion timeout in µs by its code (R399). -/
def timeoutUs (code : Nat) : Nat :=
  match code with
  | 1 => 50
  | 2 => 1000
  | 5 => 16000
  | 6 => 65000
  | 9 => 260000
  | 10 => 1000000
  | 13 => 4000000
  | 14 => 17000000
  | _ => 10000

/-- When a read's timeout expires: at the end of a tick of 1 µs of the reference (R399, R68). -/
def State.timeoutDue (s : State) (r : HostRead) : Nat := roundUp (r.issued + timeoutUs s.pcie.cplTimeout * 100) 100

/-- HOST_TIMEOUT: a read without its completion at the end of the timeout fails its task with HOSTTIMEOUT (R399). -/
def State.hostTimeout (s : State) (tag : Nat) : State :=
  match s.pcie.reads.find? (fun r => decide (r.tag = tag)) with
  | some r =>
    if s.timeoutDue r ≤ s.now then
      ((s.bump Reg.DEV_CNT_HOSTTIMEOUT 1).readerFails r.task stHOSTTIMEOUT).resumeReads
    else s
  | none => s

/-- HOST_TIMEOUT (R399). -/
def execHostTimeout (tag : Nat) (s : State) : Host.Outcome State Fault Refusal :=
  perform (.hostTimeout tag) (s.hostTimeout tag)

end Sys2Proof.Machine
end

