-- ==== Sys2Proof/Machine/Boot.lean ====
section
/-!
DEFINITION. Boot, firmware, identity, the DOE mailbox and the owner (19).
-/

namespace Sys2Proof.Machine

/-! ### Firmware images (R403 to R405) -/

/-- The shortest and the longest firmware image. -/
def fwMin : Nat := 256
/-- The longest firmware image. -/
def fwMax : Nat := 16777216

/-- The bytes of an image that its signature covers, and their digest (R404). -/
def fwDigest (image : List Byte) : List Byte := shake256 (image.take (image.length - 128)) 64

/-- The trailer of an image verifies under the ROM's key (R404). -/
def fwVerifies (key image : List Byte) : Bool :=
  ed448phVerify key (ascii "QTS-860 Firmware") (fwDigest image) (sliceBytes image (image.length - 128) 114)

/-- R405's checks of an image, in order: 0, or the reason of the first that fails. -/
def State.checkFirmware (s : State) (image : List Byte) : Nat :=
  let n := fieldLe image 8 4
  if fieldLe image 0 4 ≠ 0x57465451 then 1
  else if fieldLe image 4 2 ≠ 1 ∨ fieldLe image 6 2 ≠ 0x0860 ∨ sliceBytes image 0x14 16 ≠ fingerprint s.silicon.firmwareKey then 2
  else if n < fwMin ∨ fwMax < n ∨ n % 16 ≠ 0 ∨ n ≠ image.length then 3
  else if !fwVerifies s.silicon.firmwareKey image then 4
  else if fieldLe image 0x0C 4 < s.binnacle.counter then 5
  else 0

/-! ### The certificate (R412) -/

/-- One DER element: its tag, its content, and what follows it. -/
def derElement (b : List Byte) : Option (Nat × List Byte × List Byte) :=
  let tag := fieldLe b 0 1
  let l := fieldLe b 1 1
  let (head, len) :=
    if l < 0x80 then (2, l)
    else if l = 0x81 then (3, fieldLe b 2 1)
    else if l = 0x82 then (4, fieldLe b 2 1 * 256 + fieldLe b 3 1)
    else (b.length + 1, 0)
  if head + len ≤ b.length then some (tag, (b.drop head).take len, b.drop (head + len)) else none

/-- Skip n DER elements. -/
def derSkip : Nat → List Byte → Option (List Byte)
  | 0, b => some b
  | n + 1, b => (derElement b).bind (fun e => derSkip n e.2.2)

/-- RFC 8410's content of a SubjectPublicKeyInfo before the 57 bytes of an Ed448 key. -/
def spkiHead : List Byte := [0x30, 0x05, 0x06, 0x03, 0x2B, 0x65, 0x71, 0x03, 0x3A, 0x00]

/-- The subject key of a certificate, where the certificate can be read: version, serial number, signature algorithm, issuer,
validity and subject stand before it. -/
def certificateKey (c : List Byte) : Option (List Byte) :=
  if 2048 < c.length then none
  else do
    let cert ← derElement c
    let tbs ← derElement cert.2.1
    let rest ← derSkip 6 tbs.2.1
    let spki ← derElement rest
    if cert.1 = 0x30 ∧ tbs.1 = 0x30 ∧ spki.1 = 0x30 ∧ spki.2.1.take 10 = spkiHead ∧ spki.2.1.length = 67 then
      some (spki.2.1.drop 10)
    else none

/-! ### Boot (R402) -/

/-- Steps 1 and 2: M0 is extended with the ROM's digest; the identity key is derived and compared with the certificate's
(R410, R412, R413). -/
def State.bootIdentity (s : State) : State :=
  let zeroed := s.setRegs ((List.range 6).map (fun i => (Reg.SEC_MEAS_value i, 0)))
  let s1 := zeroed.extendMeasure 0 s.silicon.romDigest
  let sk := shake256 (ascii "QTS-860 Identity" ++ s.silicon.puf) 57
  let pk := edPublic sk
  if s.binnacle.helperReadable ∧ certificateKey s.binnacle.certificate = some pk then
    { s1 with boot := { s1.boot with privateKey := sk, publicKey := pk } }.setRegs
      [(Reg.SEC_STATUS_identity_valid, 1), (Reg.SEC_ID_FP_fp, leNat (fingerprint pk))]
  else
    let kept : Boot := if s.binnacle.helperReadable then { s1.boot with privateKey := sk, publicKey := pk } else s1.boot
    ({ s1 with boot := kept }.setRegs [(Reg.SEC_STATUS_identity_valid, 0), (Reg.SEC_ID_FP_fp, 0)]).post
      Reg.SEC_EVENT_identity_invalid

/-- Step 4 has failed: RECOVERY with its reason; the first GiB of HBM is zero, nothing is offered, and the ports stay DISABLED
(R409). -/
def State.enterRecovery (s : State) (reason : Nat) : State :=
  let s1 : State := { s with boot := { s.boot with fwVersion := 0, svn := 0, offer := 0 } }
  (s1.memOps [.zero 0 (2 ^ 30)]).setRegs
    ([(Reg.SEC_STATUS_state, secRecovery), (Reg.SEC_STATUS_reason, reason)] ++
      (List.range 8).map (fun p => (Reg.FAB_P_STATE_state p, psDISABLED)))

/-- Step 5: the firmware runs, zeroes HBM, loads DEV_FEAT_OFFER, and state becomes RUNNING (R402, R413). -/
def State.runFirmware (s : State) (image : List Byte) : State :=
  let s1 : State := { s with
    boot := { s.boot with fwVersion := fieldLe image 0x10 4, svn := fieldLe image 0x0C 4, offer := s.silicon.offer } }
  ((s1.memOps [.zero 0 hbmEnd]).extendMeasure 2 (leBytes 32 s.silicon.offer)).setReg Reg.SEC_STATUS_state secRunning

/-- Steps 3 to 5: the image in the flash slot is checked and runs, or the module enters RECOVERY. A slot whose last write was
cut off fails R405 for a reason that the spec does not give (R408). -/
def State.bootImage (s : State) : State :=
  let image := s.binnacle.flash
  if s.binnacle.torn then
    let (n, s1) := s.draw
    s1.enterRecovery (1 + n % 6)
  else
    let reason := s.checkFirmware image
    if reason = 0 then (s.extendMeasure 1 (fwDigest image)).runFirmware image else s.enterRecovery reason

/-- BOOT: control has passed to the ROM; step 3 waits for a flash write in progress. -/
def State.bootRom (s : State) : State :=
  if s.powered ∧ s.reg Reg.SEC_STATUS_state = secBooting ∧ s.boot.waiting = false then
    let s1 := s.bootIdentity
    if s1.boot.writing.isSome then { s1 with boot := { s1.boot with waiting := true } } else s1.bootImage
  else s

/-- BOOT (R402). -/
def execBoot (s : State) : Host.Outcome State Fault Refusal := perform .boot s.bootRom

/-- The flash write in progress ends: the slot holds the image, or is left as it was (R407). -/
def State.flashWritten (s : State) (ok : Bool) : State :=
  match s.boot.writing with
  | some w =>
    { s with
      boot := { s.boot with writing := none },
      binnacle := if ok then { s.binnacle with flash := w.image, torn := false } else s.binnacle }
  | none => s

/-- BOOT_FLASH_WAIT_END: the write has ended, and the boot goes on with step 3. -/
def State.bootGoesOn (s : State) : State :=
  if s.boot.waiting ∧ s.powered then
    let s1 := s.flashWritten true
    { s1 with boot := { s1.boot with waiting := false } }.bootImage
  else s

/-- BOOT_FLASH_WAIT_END (R402). -/
def execBootFlashWaitEnd (s : State) : Host.Outcome State Fault Refusal := perform .bootFlashWaitEnd s.bootGoesOn

/-! ### The monotonic counter, updates and recovery (R406 to R409) -/

/-- COMMIT_SVN: the counter rises to the running svn. -/
def State.commitSvn (s : State) : State :=
  { s with binnacle := { s.binnacle with counter := Nat.max s.binnacle.counter s.boot.svn } }

/-- COMMIT_SVN (R406). -/
def execCommitSvn (s : State) : Host.Outcome State Fault Refusal := perform .commitSvn (s.secWrite s.commitSvn)

/-- The image of an update, and of a recovery. -/
def State.givenImage (s : State) (base : Nat) : List Byte := s.mem.readN base (s.reg Reg.SEC_IMAGE_LEN_len)

/-- A failed update. -/
def State.updateFails (s : State) (reason : Nat) : State :=
  (s.setRegs [(Reg.SEC_STATUS_upd_state, 3), (Reg.SEC_STATUS_upd_reason, reason), (Reg.SEC_CTRL_update, 0)]).post
    Reg.SEC_EVENT_update_failed

/-- UPDATE: the running firmware checks the image at SEC_IMAGE_ADDR and starts its write to the slot; ignored while BUSY. -/
def State.updateWrite (s : State) : State :=
  if s.reg Reg.SEC_STATUS_state ≠ secRunning ∨ s.reg Reg.SEC_STATUS_upd_state = 1 then s
  else
    let image := s.givenImage (s.reg Reg.SEC_IMAGE_ADDR_addr * 4096)
    let reason := s.checkFirmware image
    if reason = 0 then
      { s with boot := { s.boot with writing := some ⟨image, false⟩ } }.setRegs
        [(Reg.SEC_STATUS_upd_state, 1), (Reg.SEC_CTRL_update, 1)]
    else s.updateFails reason

/-- UPDATE (R407). -/
def execUpdate (s : State) : Host.Outcome State Fault Refusal := perform .update (s.secWrite s.updateWrite)

/-- UPDATE_DONE: the flash write of an update ends. After a module reset nobody waits for it any longer. -/
def State.updateDone (s : State) (ok : Bool) : State :=
  match s.boot.writing with
  | none => s
  | some w =>
    if w.recovery ∨ s.boot.waiting then s
    else
      let s1 := s.flashWritten ok
      if s1.reg Reg.SEC_STATUS_upd_state ≠ 1 then s1
      else if ok then
        (s1.setRegs [(Reg.SEC_STATUS_upd_state, 2), (Reg.SEC_CTRL_update, 0)]).post Reg.SEC_EVENT_update_done
      else s1.updateFails 6

/-- UPDATE_DONE (R407). -/
def execUpdateDone (ok : Bool) (s : State) : Host.Outcome State Fault Refusal := perform (.updateDone ok) (s.updateDone ok)

/-- RECOVER: in RECOVERY the ROM checks the image at HBM offset 0 and writes it to the slot, or stays with the new reason. -/
def State.recoverWrite (s : State) : State :=
  if s.reg Reg.SEC_STATUS_state ≠ secRecovery ∨ s.boot.writing.isSome then s
  else
    let image := s.givenImage 0
    let reason := s.checkFirmware image
    if reason = 0 then { s with boot := { s.boot with writing := some ⟨image, true⟩ } }.setReg Reg.SEC_CTRL_recover 1
    else s.setReg Reg.SEC_STATUS_reason reason

/-- RECOVER (R409). -/
def execRecover (s : State) : Host.Outcome State Fault Refusal := perform .recover (s.secWrite s.recoverWrite)

/-- RECOVERY_FLASH_WRITE_END: a module reset follows; a write that failed leaves RECOVERY with reason FLASH. -/
def State.recoveryWritten (s : State) (ok : Bool) : State :=
  match s.boot.writing with
  | none => s
  | some w =>
    if !w.recovery || !decide (s.reg Reg.SEC_STATUS_state = secRecovery) then s
    else
      let s1 := s.flashWritten ok
      if ok then s1.moduleReset else s1.setRegs [(Reg.SEC_CTRL_recover, 0), (Reg.SEC_STATUS_reason, 6)]

/-- RECOVERY_FLASH_WRITE_END (R409). -/
def execRecoveryFlashWriteEnd (ok : Bool) (s : State) : Host.Outcome State Fault Refusal :=
  perform (.recoveryFlashWriteEnd ok) (s.recoveryWritten ok)

/-! ### The DOE mailbox (R414 to R417) -/

/-- A DOE response: code, result, reserved bytes, body. -/
def State.doeReply (s : State) (code result : Nat) (body : List Byte) : State :=
  s.emit (.doe (leBytes 1 code ++ leBytes 1 result ++ leBytes 2 0 ++ body))

/-- A DOE request of a code: the mailbox lies in configuration space, so it is retried while the module boots; in RECOVERY only
GET_CERT and GET_REPORT are answered; another body length is a BAD_REQUEST. -/
def State.doeRequest (s : State) (code : Nat) (lengthOk : Bool) (t : State) : State :=
  if !s.powered then s
  else if s.reg Reg.SEC_STATUS_state = secBooting then s.emit .retryStatus
  else if !lengthOk || (decide (s.reg Reg.SEC_STATUS_state = secRecovery) && !(code == 1 || code == 3)) then s.doeReply code 7 []
  else t

/-- GET_CERT (R414). -/
def execGetCert (body : List Byte) (s : State) : Host.Outcome State Fault Refusal :=
  perform (.getCert body) (s.doeRequest 1 body.isEmpty (s.doeReply 1 0 s.binnacle.certificate))

/-- GET_NONCE: a fresh nonce, which replaces the one before it (R414, R417). -/
def State.getNonce (s : State) (nonce : Nonce) : State :=
  let n := sliceBytes nonce 0 32
  { s with pcie := { s.pcie with nonce := some (n, s.now) } }.doeReply 2 0 n

/-- GET_NONCE (R414). -/
def execGetNonce (body : List Byte) (nonce : Nonce) (s : State) : Host.Outcome State Fault Refusal :=
  perform (.getNonce body nonce) (s.doeRequest 2 body.isEmpty (s.getNonce nonce))

/-- The owner's fingerprint, zero when none is enrolled. -/
def State.ownerFp (s : State) : List Byte := (s.binnacle.ownerKey.map fingerprint).getD (List.replicate 16 0)

/-- The first 0x1E0 bytes of an attestation report (R415). -/
def State.reportBytes (s : State) (nonce : List Byte) : List Byte :=
  leBytes 4 0x54544151 ++ leBytes 2 1 ++
    leBytes 2 (flag s.binnacle.ownerKey.isSome + 2 * flag (decide (s.reg Reg.SEC_STATUS_state = secRecovery))) ++
    nonce ++ leBytes 16 (s.reg Reg.SEC_ID_FP_fp) ++ s.ownerFp ++ leBytes 4 s.boot.svn ++ leBytes 4 s.binnacle.counter ++
    leBytes 8 s.retiredMask ++ leBytes 8 s.now ++ (List.range 6).flatMap (fun i => leBytes 64 (s.reg (Reg.SEC_MEAS_value i)))

/-- The 608 bytes of a report with its signature (R411, R415). -/
def State.report (s : State) (nonce : List Byte) : List Byte :=
  let b := s.reportBytes nonce
  b ++ edSign 0 s.boot.privateKey (ascii "QTS-860 Attest") b ++ List.replicate 14 0

/-- GET_REPORT (R414, R415). -/
def execGetReport (body : List Byte) (s : State) : Host.Outcome State Fault Refusal :=
  perform (.getReport body) (s.doeRequest 3 (decide (body.length = 32))
    (if s.reg Reg.SEC_STATUS_identity_valid = 1 then s.doeReply 3 0 (s.report body) else s.doeReply 3 1 []))

/-- 60 s of the reference. -/
def minute : Nat := 6000000000

/-- Within 60 s after the attention button was pressed. -/
def State.present (s : State) : Bool := (s.carrier.pressedAt.map (fun t => decide (s.now < t + minute))).getD false

/-- A key becomes the owner's (R416). -/
def State.enrolKey (s : State) (key : List Byte) : State :=
  let s1 : State := { s with binnacle := { s.binnacle with ownerKey := some key } }
  (s1.extendMeasure 3 (fingerprint key)).post Reg.SEC_EVENT_owner_changed

/-- ENROLL through DOE: no owner yet, and presence (R416). -/
def State.doeEnroll (s : State) (key : List Byte) : State :=
  if s.binnacle.ownerKey.isSome then s.doeReply 4 2 []
  else if !s.present then s.doeReply 4 3 []
  else (s.enrolKey key).doeReply 4 0 []

/-- ENROLL (R416). -/
def execEnroll (body : List Byte) (s : State) : Host.Outcome State Fault Refusal :=
  perform (.enroll body) (s.doeRequest 4 (decide (body.length = 57)) (s.doeEnroll body))

/-- Whether a RELEASE's signature verifies under the owner's key over a nonce that is still good (R417). -/
def State.releaseSigned (s : State) (key sig : List Byte) : Bool :=
  match s.pcie.nonce with
  | some (n, t) =>
    decide (s.now < t + minute) && ed448Verify key (ascii "QTS-860 Release") (n ++ leBytes 16 (s.reg Reg.SEC_ID_FP_fp)) sig
  | none => false

/-- RELEASE: the owner goes; the nonce is spent either way (R417). -/
def State.doeRelease (s : State) (sig : List Byte) : State :=
  let s1 : State := { s with pcie := { s.pcie with nonce := none } }
  match s.binnacle.ownerKey with
  | none => s1.doeReply 5 4 []
  | some key =>
    if s.chtState ≠ chtNone then s1.doeReply 5 6 []
    else if !s.releaseSigned key sig then s1.doeReply 5 5 []
    else
      let s2 : State := { s1 with binnacle := { s1.binnacle with ownerKey := none } }
      ((s2.extendMeasure 3 (List.replicate 16 0)).post Reg.SEC_EVENT_owner_changed).doeReply 5 0 []

/-- RELEASE (R417). -/
def execRelease (body : List Byte) (s : State) : Host.Outcome State Fault Refusal :=
  perform (.release body) (s.doeRequest 5 (decide (body.length = 114)) (s.doeRelease body))

end Sys2Proof.Machine
end

