-- ==== Sys2Proof/Machine/Carrier.lean ====
section
/-!
DEFINITION. The carrier and the Binnacle (20, R362): the power sequence, input, latch and front panel, safety trips, and the
management messages.
-/

namespace Sys2Proof.Machine

/-! ### Rails (R360, R362, R425, R430, R431, R433) -/

/-- Change the carrier. -/
def State.setCarrier (s : State) (c : Carrier) : State := { s with carrier := c }

/-- A main rail is on: the module runs or its power-up has begun. -/
def State.railsOn (s : State) : Bool := s.power.rails.any id

/-- Every main rail turns off: the dies hold no state after it, HBM contents are lost, and the links go DOWN. What the Binnacle
keeps, and a flash write on VAUX (R408), stay. -/
def State.railsOff (s : State) (p : PowerState) : State :=
  let s1 := s.moduleReset
  { s1 with power := { s1.power with rails := List.replicate 26 false } }.setCarrier { s.carrier with power := p }

/-- The sequence of R362 starts: step 2 is next. -/
def State.startSequence (s : State) : State := s.setCarrier { s.carrier with power := .sequencing 0, restart := false }

/-- The rails that are on after n steps of R362 beyond step 1: VXD after 2, VHBM after 3, VCD after 4. -/
def railsAfter (n : Nat) : List Bool :=
  List.replicate 8 (decide (4 ≤ n)) ++ List.replicate 2 (decide (2 ≤ n)) ++ List.replicate 16 (decide (3 ≤ n))

/-- POWER_SEQUENCE: a step ends; with the last, control passes to the boot ROM. A rail that is not up stops the sequence, and
the Binnacle reports it. Step 2 ends only with the input in range. -/
def State.powerSequence (s : State) (ok : Bool) : State :=
  match s.carrier.power with
  | .sequencing n =>
    if n = 0 ∧ s.carrier.inputOk = false then s
    else if !ok then (s.railsOff .auxOnly).emit (.railFailure (n + 2))
    else if n + 1 < 5 then
      { s with power := { s.power with rails := railsAfter (n + 1) } }.setCarrier { s.carrier with power := .sequencing (n + 1) }
    else
      let s1 := s.moduleReset
      { s1 with power := { s1.power with rails := List.replicate 26 true } }.setCarrier { s.carrier with power := .on }
  | _ => s

/-- POWER_SEQUENCE (R362). -/
def execPowerSequence (ok : Bool) (s : State) : Host.Outcome State Fault Refusal :=
  perform (.powerSequence ok) (s.powerSequence ok)

/-! ### The 48 V input (R424, R425) -/

/-- The Binnacle runs: P48V or AUX12 is there. -/
def State.vaux (s : State) : Bool := !decide (s.carrier.power = .off)

/-- The input's voltage, as the Binnacle and, with the module on, the Pilot see it (R359, R368). -/
def State.setInput (s : State) (vin : Nat) : State :=
  let s1 : State := { s with carrier := { s.carrier with vin := vin }, power := { s.power with vin := vin } }
  if s.powered then (s1.setReg Reg.PLT_POWER_vin vin).rebudget else s1

/-- An input within 64 V ends the condition of an overvoltage trip. -/
def State.inputCalm (s : State) : State :=
  s.setCarrier { s.carrier with tripsPresent := s.carrier.tripsPresent.filter (fun c => !(c == 2)) }

/-- INPUT_UNDERVOLTAGE: the main converters turn off; the Binnacle stays on VAUX, and power-up follows once the input is back. -/
def State.inputUndervoltage (s : State) (vin : Nat) : State :=
  let s1 := (s.setInput vin).inputCalm
  let running := s.powered || (match s.carrier.power with | .sequencing _ => true | _ => false)
  let s2 := if running then s1.railsOff .auxOnly else s1
  s2.setCarrier { s2.carrier with inputOk := false, restart := s2.carrier.restart || running }

/-- INPUT_UNDERVOLTAGE (R425). -/
def execInputUndervoltage (vin : Nat) (s : State) : Host.Outcome State Fault Refusal :=
  perform (.inputUndervoltage vin) (s.inputUndervoltage vin)

/-- INPUT_RESTORED: 10 ms within 40 to 60 V. A power-up that a low input stopped starts again; a module that had neither supply
is back in its bay, and powers up where auto_on is set (R426). -/
def State.inputRestored (s : State) (vin : Nat) : State :=
  let s1 := (s.setInput vin).inputCalm
  let c := { s1.carrier with inputOk := true }
  match c.power with
  | .off =>
    let s2 := s1.setCarrier { c with power := .auxOnly, presS := true, latchOpen := false }
    if s.binnacle.autoOn then s2.startSequence else s2
  | .auxOnly => if c.restart then (s1.setCarrier c).startSequence else s1.setCarrier c
  | _ => s1.setCarrier c

/-- INPUT_RESTORED (R425). -/
def execInputRestored (vin : Nat) (s : State) : Host.Outcome State Fault Refusal :=
  perform (.inputRestored vin) (s.inputRestored vin)

/-- INPUT_HIGH: 60 to 64 V; operation goes on, and it is reported. -/
def State.inputHigh (s : State) (vin : Nat) : State :=
  if s.vaux then ((s.setInput vin).inputCalm).emit (.inputHigh vin) else s

/-- INPUT_HIGH (R425). -/
def execInputHigh (vin : Nat) (s : State) : Host.Outcome State Fault Refusal := perform (.inputHigh vin) (s.inputHigh vin)

/-- VAUX_LOSS: the Binnacle is reset, its flash keeps its records, and a flash write in progress is cut off (R408, R424). -/
def State.vauxLoss (s : State) : State :=
  let s1 := s.railsOff .off
  { s1 with
    boot := { s1.boot with writing := none },
    binnacle := if s.boot.writing.isSome then { s1.binnacle with torn := true } else s1.binnacle,
    carrier := { s1.carrier with
      inputOk := false, restart := false, tripsPresent := [], pressedAt := none, identify := false, removeRequested := false } }

/-- VAUX_LOSS (R424). -/
def execVauxLoss (s : State) : Host.Outcome State Fault Refusal := perform .vauxLoss s.vauxLoss

/-! ### Latch, presence and the front panel (R428 to R432) -/

/-- A removal event is recorded (R431). -/
def State.recordRemoval (s : State) (cause : Nat) : State :=
  let e : BinnacleEvent := ⟨s.binnacle.eventSeq, cause, s.now, ⟨0, 0⟩⟩
  { s with binnacle := { s.binnacle with removals := s.binnacle.removals ++ [e], eventSeq := s.binnacle.eventSeq + 1 } }

/-- LATCH_UNDER_POWER: the latch is open; with a main rail on, every rail turns off at once and the event is recorded. -/
def State.latchUnderPower (s : State) : State :=
  let s1 := s.setCarrier { s.carrier with latchOpen := true }
  if s.railsOn then (s1.railsOff .auxOnly).recordRemoval 1 else s1

/-- LATCH_UNDER_POWER (R431). -/
def execLatchUnderPower (s : State) : Host.Outcome State Fault Refusal := perform .latchUnderPower s.latchUnderPower

/-- PRES_S_BREAK: with a main rail on the converters are disabled. -/
def State.presSBreak (s : State) : State :=
  let s1 := s.setCarrier { s.carrier with presS := false }
  if s.railsOn then s1.railsOff .auxOnly else s1

/-- PRES_S_BREAK (R432). -/
def execPresSBreak (s : State) : Host.Outcome State Fault Refusal := perform .presSBreak s.presSBreak

/-- ATTENTION_PRESS: the 60 s window opens, REMOVE_REQUEST goes out, identify lights. -/
def State.attentionPress (s : State) : State :=
  if s.vaux then
    (s.setCarrier { s.carrier with pressedAt := some s.now, removeRequested := true }).emit (.notice 0x40 0)
  else s

/-- ATTENTION_PRESS (R429). -/
def execAttentionPress (s : State) : Host.Outcome State Fault Refusal := perform .attentionPress s.attentionPress

/-- ATTENTION_LONG_PRESS: the request is withdrawn with REMOVE_CANCEL. -/
def State.attentionLongPress (s : State) : State :=
  if s.vaux then (s.setCarrier { s.carrier with removeRequested := false }).emit (.notice 0x41 0) else s

/-- ATTENTION_LONG_PRESS (R429). -/
def execAttentionLongPress (s : State) : Host.Outcome State Fault Refusal := perform .attentionLongPress s.attentionLongPress

/-- PRESENCE_WINDOW_END: 60 s after the press. -/
def State.presenceWindowEnd (s : State) : State :=
  if s.present then s else s.setCarrier { s.carrier with pressedAt := none }

/-- PRESENCE_WINDOW_END (R416, R428). -/
def execPresenceWindowEnd (s : State) : Host.Outcome State Fault Refusal := perform .presenceWindowEnd s.presenceWindowEnd

/-- What the power LED shows (R428). -/
inductive PowerLed where
  | off
  | steady
  | blinking
deriving DecidableEq, Repr

/-- The power LED: the main rails are on, or the module is in the anchor watch (R428). -/
def State.powerLed (s : State) : PowerLed :=
  if !s.railsOn then .off else if s.reg Reg.PLT_STATUS_anchor = 1 then .blinking else .steady

/-- What the status LED shows (R428). -/
inductive StatusLed where
  | dark
  | green
  | amberSlow
  | amberFast
  | amber
deriving DecidableEq, Repr

/-- The status LED: of two conditions that hold at once, the lower one of the table. -/
def State.statusLed (s : State) : StatusLed :=
  if s.carrier.power = .safe then .amber
  else if s.vaux ∧ s.carrier.interlock then .amberFast
  else if s.powered ∧ (s.reg Reg.SEC_STATUS_state = secRecovery ∨
      (s.reg Reg.SEC_STATUS_state = secRunning ∧ s.reg Reg.SEC_STATUS_identity_valid = 0)) then .amberSlow
  else if s.powered ∧ s.reg Reg.SEC_STATUS_state = secRunning then .green
  else .dark

/-- The identify LED blinks (R428). -/
def State.identifyLed (s : State) : Bool := s.vaux && (s.carrier.identify || s.present)

/-- The safe-to-remove LED: main rails off, the handle below 53 °C, the interlock released (R428). -/
def State.safeToRemove (s : State) : Bool := s.vaux && !s.railsOn && decide (s.carrier.handle < 53) && !s.carrier.interlock

/-! ### Trips (R433 to R435) -/

/-- A trip: it is recorded, SAFE_STATE goes out with its cause, and every rail but VAUX turns off; the Binnacle keeps the last
256 records. -/
def State.trip (s : State) (cause : Nat) (lasts : Bool) (r : Reading) : State :=
  if s.vaux then
    let e : BinnacleEvent := ⟨s.binnacle.eventSeq, cause, s.now, r⟩
    let kept := s.binnacle.trips.drop (s.binnacle.trips.length + 1 - 256) ++ [e]
    let s1 : State := { s with binnacle := { s.binnacle with trips := kept, eventSeq := s.binnacle.eventSeq + 1 } }
    let s2 := s1.railsOff .safe
    let present := if lasts ∧ s2.carrier.tripsPresent.contains cause = false then s2.carrier.tripsPresent ++ [cause]
      else s2.carrier.tripsPresent
    (s2.setCarrier { s2.carrier with tripsPresent := present }).emit (.notice 0x42 cause)
  else s

/-- RAIL_OVERCURRENT: 125 % of a rail's 1 µs limit. -/
def State.railOvercurrent (s : State) (r : Reading) : State := s.trip 1 false r

/-- RAIL_OVERCURRENT (R434). -/
def execRailOvercurrent (reading : Reading) (s : State) : Host.Outcome State Fault Refusal :=
  perform (.railOvercurrent reading) (s.railOvercurrent reading)

/-- INPUT_OVERVOLTAGE: the clamp limits the input; where it stays above 64 V for 100 µs the safe state follows (R425, R434). -/
def State.inputOvervoltage (s : State) (vin : Nat) (persisted : Bool) : State :=
  let s1 := s.setInput (Nat.min vin 6600)
  if persisted then s1.trip 2 true ⟨0, vin⟩ else s1

/-- INPUT_OVERVOLTAGE (R425). -/
def execInputOvervoltage (vin : Nat) (persisted : Bool) (s : State) : Host.Outcome State Fault Refusal :=
  perform (.inputOvervoltage vin persisted) (s.inputOvervoltage vin persisted)

/-- JUNCTION_OVERTEMP: a die at 110 °C. -/
def State.junctionOvertemp (s : State) (r : Reading) : State := s.trip 3 false r

/-- JUNCTION_OVERTEMP (R434). -/
def execJunctionOvertemp (reading : Reading) (s : State) : Host.Outcome State Fault Refusal :=
  perform (.junctionOvertemp reading) (s.junctionOvertemp reading)

/-- COOLANT_LOSS: the cold plate warms too fast. -/
def State.coolantLoss (s : State) (r : Reading) : State := s.trip 4 false r

/-- COOLANT_LOSS (R434). -/
def execCoolantLoss (reading : Reading) (s : State) : Host.Outcome State Fault Refusal :=
  perform (.coolantLoss reading) (s.coolantLoss reading)

/-- LEAKAGE: more than 20 mA to chassis. -/
def State.leakage (s : State) (r : Reading) : State := s.trip 5 true r

/-- LEAKAGE (R434). -/
def execLeakage (reading : Reading) (s : State) : Host.Outcome State Fault Refusal :=
  perform (.leakage reading) (s.leakage reading)

/-- HANDLE_HOT: above 55 °C the interlock holds the latch. -/
def State.handleHot (s : State) (celsius : Nat) : State :=
  if s.vaux then s.setCarrier { s.carrier with handle := celsius, interlock := s.carrier.interlock || decide (55 < celsius) } else s

/-- HANDLE_HOT (R434). -/
def execHandleHot (celsius : Nat) (s : State) : Host.Outcome State Fault Refusal := perform (.handleHot celsius) (s.handleHot celsius)

/-- HANDLE_COOL: below 53 °C the interlock releases. -/
def State.handleCool (s : State) (celsius : Nat) : State :=
  if s.vaux then s.setCarrier { s.carrier with handle := celsius, interlock := s.carrier.interlock && !decide (celsius < 53) } else s

/-- HANDLE_COOL (R434). -/
def execHandleCool (celsius : Nat) (s : State) : Host.Outcome State Fault Refusal :=
  perform (.handleCool celsius) (s.handleCool celsius)

/-! ### Management messages (R436, R437) -/

/-- Result codes: OK. -/
def mgOK : Nat := 0
/-- BAD_REQUEST. -/
def mgBAD : Nat := 1
/-- NOT_PERMITTED. -/
def mgNOT : Nat := 2
/-- BUSY. -/
def mgBUSY : Nat := 3
/-- CONDITION. -/
def mgCONDITION : Nat := 4

/-- Whether a request reaches the Binnacle: VAUX is there, and the transport runs. -/
def State.mgmtReaches (s : State) (r : MgmtRequest) : Bool :=
  s.vaux && (match r.transport with
    | .i3c => true
    | .pcie => s.powered && s.pcie.linkUp
    | .torus _ => s.powered)

/-- Codes that an MGMT packet may carry. -/
def torusCode (code : Nat) : Bool := decide (1 ≤ code) && decide (code ≤ 4)

/-- Send a response: code, result, the request's sequence number, body; over the torus in an MGMT packet. -/
def State.mgmtReply (s : State) (r : MgmtRequest) (code result : Nat) (body : List Byte) : State :=
  let b := leBytes 1 code ++ leBytes 1 result ++ leBytes 2 r.seq ++ body
  match r.transport with
  | .torus src =>
    s.sendPacket { Packet.blank with dst := src, src := s.node?.getD 0, op := pktMGMT, tc := 0, length := b.length, payload := b }
  | t => s.emit (.mgmt t b)

/-- A request of a code: one that does not reach the Binnacle is lost; over the torus only some codes are permitted; a wrong body
length is a BAD_REQUEST. -/
def State.mgmtRequest (s : State) (r : MgmtRequest) (code : Nat) (lengthOk : Bool) (t : State) : State :=
  if !s.mgmtReaches r then s
  else
    let torus := match r.transport with | .torus _ => true | _ => false
    if torus && !torusCode code then s.mgmtReply r code mgNOT []
    else if !lengthOk then s.mgmtReply r code mgBAD []
    else t

/-- A response whose body holds the values that R437 names for its code; their layout is the implementation's (log entry 14). -/
def State.mgmtValues (s : State) (r : MgmtRequest) (code : Nat) (values : List Nat) : State :=
  s.mgmtReply r code mgOK (Config.messageBody code values)

/-- The power states as a number: 0 VAUX only, 1 powering up, 2 on, 3 safe state, 4 no supply. -/
def PowerState.code : PowerState → Nat
  | .auxOnly => 0
  | .sequencing _ => 1
  | .on => 2
  | .safe => 3
  | .off => 4

/-- The values of GET_STATUS: power state, safe state, latch, PRES_S, auto_on, SEC_STATUS state, CHT_STATUS state. -/
def State.statusValues (s : State) : List Nat :=
  [s.carrier.power.code, flag (decide (s.carrier.power = .safe)), flag s.carrier.latchOpen, flag s.carrier.presS,
    flag s.binnacle.autoOn, s.reg Reg.SEC_STATUS_state, s.chtState]

/-- Answer GET_STATUS. -/
def State.getStatus (s : State) (r : MgmtRequest) : State :=
  s.mgmtRequest r 1 r.body.isEmpty (s.mgmtValues r 1 s.statusValues)

/-- GET_STATUS (R437). -/
def execGetStatus (request : MgmtRequest) (s : State) : Host.Outcome State Fault Refusal :=
  perform (.getStatus request) (s.getStatus request)

/-- The values of GET_SENSORS that the state holds: input voltage and power, rail voltages, junctions, handle and inlet; the
other readings are one free value (log entry 14). -/
def State.sensorValues (s : State) (others : Nat) : List Nat :=
  [s.carrier.vin, s.reg Reg.PLT_POWER_pin_w, s.carrier.handle, s.power.tin.getD others] ++
    (List.range 27).map s.railVoltage ++ (List.range 10).map (fun d => s.reg (Reg.PLT_DIE_tj d)) ++ [others]

/-- Answer GET_SENSORS. -/
def State.getSensors (s : State) (r : MgmtRequest) : State :=
  let (others, s1) := s.draw
  s.mgmtRequest r 2 r.body.isEmpty (s1.mgmtValues r 2 (s.sensorValues others))

/-- GET_SENSORS (R437). -/
def execGetSensors (request : MgmtRequest) (s : State) : Host.Outcome State Fault Refusal :=
  perform (.getSensors request) (s.getSensors request)

/-- The values of an event. -/
def BinnacleEvent.values (e : BinnacleEvent) : List Nat := [e.seq, e.cause, e.time, e.reading.sensor, e.reading.value]

/-- Answer GET_EVENTS: the records and events after a sequence number of 4 bytes. -/
def State.getEvents (s : State) (r : MgmtRequest) : State :=
  let after := fieldLe r.body 0 4
  let sel := fun l : List BinnacleEvent => (l.filter (fun e => decide (after < e.seq))).flatMap BinnacleEvent.values
  s.mgmtRequest r 3 (decide (r.body.length = 4)) (s.mgmtValues r 3 (sel s.binnacle.trips ++ sel s.binnacle.removals))

/-- GET_EVENTS (R437). -/
def execGetEvents (request : MgmtRequest) (s : State) : Host.Outcome State Fault Refusal :=
  perform (.getEvents request) (s.getEvents request)

/-- A body of one byte, 0 or 1. -/
def oneFlag (b : List Byte) : Bool := decide (b.length = 1) && decide (fieldLe b 0 1 ≤ 1)

/-- SET_IDENTIFY turns the identify LED on or off. -/
def State.setIdentify (s : State) (r : MgmtRequest) : State :=
  s.mgmtRequest r 4 (oneFlag r.body)
    ((s.setCarrier { s.carrier with identify := fieldLe r.body 0 1 == 1 }).mgmtReply r 4 mgOK [])

/-- SET_IDENTIFY (R437). -/
def execSetIdentify (request : MgmtRequest) (s : State) : Host.Outcome State Fault Refusal :=
  perform (.setIdentify request) (s.setIdentify request)

/-- POWER_ON starts R362; CONDITION while the safe state or an open latch holds. -/
def State.powerOn (s : State) (r : MgmtRequest) : State :=
  s.mgmtRequest r 5 r.body.isEmpty
    (if s.carrier.power = .safe ∨ s.carrier.latchOpen then s.mgmtReply r 5 mgCONDITION []
     else if s.carrier.power = .auxOnly then (s.startSequence).mgmtReply r 5 mgOK []
     else s.mgmtReply r 5 mgOK [])

/-- POWER_ON (R437). -/
def execPowerOn (request : MgmtRequest) (s : State) : Host.Outcome State Fault Refusal :=
  perform (.powerOn request) (s.powerOn request)

/-- POWER_OFF turns the rails off in order, and drains no job; at this orderly power-down the ageing record is stored (R377,
R430). The safe state is kept. -/
def State.powerOff (s : State) (r : MgmtRequest) : State :=
  s.mgmtRequest r 6 r.body.isEmpty
    (if s.railsOn ∨ s.carrier.power = .auxOnly then
       let s1 := if s.powered then s.ageingStore else s
       (s1.railsOff .auxOnly).setCarrier { s.carrier with power := .auxOnly, restart := false } |>.mgmtReply r 6 mgOK []
     else s.mgmtReply r 6 mgOK [])

/-- POWER_OFF (R430). -/
def execPowerOff (request : MgmtRequest) (s : State) : Host.Outcome State Fault Refusal :=
  perform (.powerOff request) (s.powerOff request)

/-- CLEAR_SAFE, over I3C only: with no trip condition present the safe state ends, and R362 starts where auto_on is set. -/
def State.clearSafe (s : State) (r : MgmtRequest) : State :=
  s.mgmtRequest r 7 r.body.isEmpty
    (if r.transport ≠ .i3c then s.mgmtReply r 7 mgNOT []
     else if s.carrier.power ≠ .safe then s.mgmtReply r 7 mgOK []
     else if s.carrier.tripsPresent ≠ [] then s.mgmtReply r 7 mgCONDITION []
     else
       let s1 := s.setCarrier { s.carrier with power := .auxOnly }
       (if s.binnacle.autoOn then s1.startSequence else s1).mgmtReply r 7 mgOK [])

/-- CLEAR_SAFE (R435). -/
def execClearSafe (request : MgmtRequest) (s : State) : Host.Outcome State Fault Refusal :=
  perform (.clearSafe request) (s.clearSafe request)

/-- SET_AUTO_ON writes auto_on. -/
def State.setAutoOn (s : State) (r : MgmtRequest) : State :=
  s.mgmtRequest r 8 (oneFlag r.body)
    ({ s with binnacle := { s.binnacle with autoOn := fieldLe r.body 0 1 == 1 } }.mgmtReply r 8 mgOK [])

/-- SET_AUTO_ON (R437). -/
def execSetAutoOn (request : MgmtRequest) (s : State) : Host.Outcome State Fault Refusal :=
  perform (.setAutoOn request) (s.setAutoOn request)

/-- ENROLL over the management interface needs no presence; an owner is there already: result 2. It is applied at XD0, so
the firmware must run (R416, R418; log entry 14). -/
def State.mgmtEnroll (s : State) (r : MgmtRequest) : State :=
  s.mgmtRequest r 9 (decide (r.body.length = 57))
    (if !s.powered || !decide (s.reg Reg.SEC_STATUS_state = secRunning) then s.mgmtReply r 9 mgCONDITION []
     else if s.binnacle.ownerKey.isSome then s.mgmtReply r 9 2 []
     else (s.enrolKey r.body).mgmtReply r 9 mgOK [])

/-- MGMT_ENROLL (R416, R437). -/
def execMgmtEnroll (request : MgmtRequest) (s : State) : Host.Outcome State Fault Refusal :=
  perform (.mgmtEnroll request) (s.mgmtEnroll request)

/-- CLEAR_RETIRED clears the retired-tile record; BUSY while a Chart is there. -/
def State.clearRetired (s : State) (r : MgmtRequest) : State :=
  s.mgmtRequest r 10 r.body.isEmpty
    (if s.chtState ≠ chtNone then s.mgmtReply r 10 mgBUSY []
     else { s with binnacle := { s.binnacle with retired := 0 } }.mgmtReply r 10 mgOK [])

/-- CLEAR_RETIRED (R351, R437). -/
def execClearRetired (request : MgmtRequest) (s : State) : Host.Outcome State Fault Refusal :=
  perform (.clearRetired request) (s.clearRetired request)

/-- CLEAR_PEER clears a port's accepted fingerprint. -/
def State.clearPeer (s : State) (r : MgmtRequest) : State :=
  let port := fieldLe r.body 0 1
  s.mgmtRequest r 11 (decide (r.body.length = 1) && decide (port < 8))
    ({ s with binnacle := { s.binnacle with acceptedFp := s.binnacle.acceptedFp.set port [] } }.mgmtReply r 11 mgOK [])

/-- CLEAR_PEER (R420, R437). -/
def execClearPeer (request : MgmtRequest) (s : State) : Host.Outcome State Fault Refusal :=
  perform (.clearPeer request) (s.clearPeer request)

/-- The values of GET_AGEING: each die's drift and guardband, and its planned voltages by mult (R377). -/
def State.ageingValues (s : State) : List Nat :=
  (List.range 8).flatMap (fun d =>
    let drift := s.binnacle.driftPpm.getD d 0
    [drift, ratFloor (guardband drift)] ++ (s.binnacle.plannedStore.getD d []).flatMap (fun p => [p.1, p.2]))

/-- Answer GET_AGEING from the Binnacle's record. -/
def State.getAgeing (s : State) (r : MgmtRequest) : State :=
  s.mgmtRequest r 12 r.body.isEmpty (s.mgmtValues r 12 s.ageingValues)

/-- GET_AGEING (R437). -/
def execGetAgeing (request : MgmtRequest) (s : State) : Host.Outcome State Fault Refusal :=
  perform (.getAgeing request) (s.getAgeing request)

/-- An MGMT packet's payload as a request: its code decides; any code but the four that the torus may carry is answered with
NOT_PERMITTED (R436, R437). -/
def State.mgmtPacket (s : State) (k : Packet) : State :=
  let r : MgmtRequest := ⟨.torus k.src, fieldLe k.payload 2 2, k.payload.drop 4⟩
  match fieldLe k.payload 0 1 with
  | 1 => s.getStatus r
  | 2 => s.getSensors r
  | 3 => s.getEvents r
  | 4 => s.setIdentify r
  | code => s.mgmtRequest r code true (s.mgmtReply r code mgNOT [])

/-- MGMT (R436). -/
def execMgmt (packet : Packet) (s : State) : Host.Outcome State Fault Refusal :=
  perform (.mgmt packet) (if packet.op = pktMGMT ∧ s.powered then (s.takeIn packet).mgmtPacket packet else s)

end Sys2Proof.Machine
end

