-- ==== Sys2Proof/Machine/Grad.lean ====
section
/-!
DEFINITION. The backward pass (12): the GRAD block and its checks, the two views of the shared gradient tile, anchors, masks,
drains; and the start of an array task's next pass (R206).
-/

namespace Sys2Proof.Machine

/-! ### The GRAD argument block (R255, R256) -/

/-- The fields of a GRAD argument block. -/
structure GradArgs where
  gF : Nat
  wF : Nat
  xF : Nat
  xqF : Nat
  parts : Nat
  carryOut : Bool
  carryIn : Bool
  rowMaskEn : Bool
  blockMask : Nat
  dxF : Nat
  m : Nat
  n : Nat
  k : Nat
  mFirst : Nat
  mTotal : Nat
  g : Nat
  gStride : Nat
  gSummary : Nat
  w : Nat
  wScales : Nat
  wSummary : Nat
  wBase : Nat
  x : Nat
  xScales : Nat
  xSummary : Nat
  xBase : Nat
  dx : Nat
  dxStride : Nat
  dxBound : Nat
  dxSummary : Nat
  dw : Nat
  dwStride : Nat
  dwBound : Nat
  dwCarry : Nat
  rowMask : Nat
  tensorId : Nat
  step : Nat
  reservedSet : Bool
deriving DecidableEq, Repr

/-- A GRAD argument block from its 128 bytes. -/
def parseGrad (b : List Byte) : GradArgs :=
  let b1 := fieldLe b 1 1
  let b2 := fieldLe b 2 1
  let b3 := fieldLe b 3 1
  let b4 := fieldLe b 4 1
  let w := fun o => fieldLe b o 4
  { gF := bits b1 7 4, wF := bits b1 3 0, xF := bits b2 7 4, xqF := bits b2 3 0, parts := bits b3 7 6,
    carryOut := bit b3 5, carryIn := bit b3 4, rowMaskEn := bit b3 3, blockMask := bits b4 7 4, dxF := bits b4 3 0,
    m := w 8, n := w 0xC, k := w 0x10, mFirst := w 0x14, mTotal := w 0x18, g := w 0x1C, gStride := w 0x20,
    gSummary := w 0x24, w := w 0x28, wScales := w 0x2C, wSummary := w 0x30, wBase := w 0x34, x := w 0x38,
    xScales := w 0x3C, xSummary := w 0x40, xBase := w 0x44, dx := w 0x48, dxStride := w 0x4C, dxBound := w 0x50,
    dxSummary := w 0x54, dw := w 0x58, dwStride := w 0x5C, dwBound := w 0x60, dwCarry := w 0x64, rowMask := w 0x68,
    tensorId := w 0x6C, step := w 0x70,
    reservedSet := decide (fieldLe b 0 1 ≠ 1) || decide (bits b3 2 0 ≠ 0) || decide (fieldLe b 5 3 ≠ 0) || decide (fieldLe b 0x74 12 ≠ 0) }

/-- Reserved codes and fields (R255, R256). -/
def GradArgs.reserved (a : GradArgs) : Bool :=
  a.reservedSet || decide (3 ≤ a.gF) || decide (3 ≤ a.dxF) || decide (8 ≤ a.xF) ||
    !(a.wF == fmtE4M3 || a.wF == fmtE5M2 || a.wF == fmtE3M2 || a.wF == fmtE2M1) ||
    !(a.xqF == fmtE4M3 || a.xqF == fmtE3M2 || a.xqF == fmtE2M1) || decide (a.parts = 0)

/-- Nothing to compute (R256). -/
def GradArgs.empty (a : GradArgs) : Bool := decide (a.m = 0) || decide (a.n = 0) || decide (a.k = 0)

/-- The input part runs. -/
def GradArgs.inputPart (a : GradArgs) : Bool := bit a.parts 0

/-- The weight part runs. -/
def GradArgs.weightPart (a : GradArgs) : Bool := bit a.parts 1

/-- Row tiles of this task, and gradient column tiles, and column tiles of k. -/
def GradArgs.mTiles (a : GradArgs) : Nat := ceilDiv a.m 128
/-- Gradient column tiles. -/
def GradArgs.nTiles (a : GradArgs) : Nat := ceilDiv a.n 128
/-- Tiles of k. -/
def GradArgs.kTiles (a : GradArgs) : Nat := ceilDiv a.k 128

/-- W_b: n reduction elements by k columns, STATIONARY, scaled along n (R254). -/
def GradArgs.opW (a : GradArgs) (tile : Nat) : Operand :=
  { f := a.wF, key := tileKey tile a.w, scales := tileKey tile a.wScales, summary := tileKey tile a.wSummary,
    blockBase := a.wBase, count := a.k, total := a.n, stationary := true, compressed := false }

/-- X as the forward product stored it: m_total lines of k elements, STREAM (R254). -/
def GradArgs.opX (a : GradArgs) (tile : Nat) : Operand :=
  { f := a.xF, key := tileKey tile a.x, scales := tileKey tile a.xScales, summary := tileKey tile a.xSummary,
    blockBase := a.xBase, count := a.mTotal, total := a.k, stationary := false, compressed := false }

/-- The input ranges of a GRAD task. -/
def State.gradIns (s : State) (a : GradArgs) (tile : Nat) : List Range :=
  let r := fun (off len : Nat) => ({ addr := s.storeAddr tile off, len := len, read := true } : Range)
  let w := a.opW tile
  let x := a.opX tile
  [r a.g (a.mTotal * a.gStride), r a.gSummary (16 * (ceilDiv a.mTotal 128 * a.nTiles)), r a.w w.bytes, r a.wScales w.scaleBytes,
    r a.wSummary w.summaryBytes, r a.x x.bytes, r a.xScales x.scaleBytes, r a.xSummary x.summaryBytes,
    r a.rowMask (if a.rowMaskEn then ceilDiv a.k 8 else 0)]

/-- The carry range. -/
def State.gradCarry (s : State) (a : GradArgs) (tile : Nat) : Range :=
  { addr := s.storeAddr tile a.dwCarry, len := if a.carryIn || a.carryOut then 32 * a.k * a.n else 0, read := a.carryIn,
    write := a.carryOut }

/-- The output ranges without the carry records. -/
def State.gradOuts (s : State) (a : GradArgs) (tile : Nat) : List Range :=
  let r := fun (off len : Nat) => ({ addr := s.storeAddr tile off, len := len, write := true } : Range)
  [r a.dx (a.m * a.dxStride), r a.dxSummary (16 * (a.mTiles * a.kTiles)), r a.dw (if a.carryOut then 0 else a.k * a.dwStride)]

/-- The FORMAT checks of R256 beyond reserved encodings. -/
def State.gradFormat (s : State) (t : Task) (a : GradArgs) : Bool :=
  let stride := fun (st width : Nat) => decide (st < width) || decide (st % 64 ≠ 0)
  let carry := s.gradCarry a t.tile
  let ins := s.gradIns a t.tile
  decide (512 < a.m) || decide (a.mFirst % 512 ≠ 0) || (decide (a.m < 512) && decide (a.mFirst + a.m < a.mTotal)) ||
    decide (a.mTotal < a.mFirst + a.m) || decide (a.n % 32 ≠ 0) || decide (a.k % 32 ≠ 0) || decide (a.mTotal % 32 ≠ 0) ||
    decide (512 < a.k) ||
    (decide (a.parts = 1) && (a.carryIn || a.carryOut || a.rowMaskEn || decide (a.blockMask ≠ 0))) ||
    (a.weightPart && (decide (a.carryIn ≠ decide (0 < a.mFirst)) || decide (a.carryOut ≠ decide (a.mFirst + a.m < a.mTotal)))) ||
    decide (2 ^ a.kTiles ≤ a.blockMask) || (a.inputPart && decide (8 < a.mTiles * a.kTiles)) ||
    stride a.gStride (elemBytes a.gF a.n) || stride a.dxStride (elemBytes a.dxF a.k) || stride a.dwStride (4 * a.n) ||
    [a.g, a.gSummary, a.w, a.wScales, a.wSummary, a.x, a.xSummary, a.dx, a.dxSummary, a.dw, a.dwCarry,
      a.rowMask].any badOffset || (fmtNarrow a.xF && badOffset a.xScales) ||
    ((a.carryIn || a.carryOut) && decide (a.dwCarry % 64 ≠ 0)) ||
    s.clash (s.gradOuts a t.tile) (ins ++ (if a.carryIn then [carry] else [])) || (a.carryOut && s.clash [carry] ins)

/-- GRAD's checks at dispatch (R256). -/
def State.gradCheck (s : State) (t : Task) : Nat :=
  let a := parseGrad t.args
  if a.reserved then stFORMAT
  else if a.empty then stOK
  else firstFailure [failIf (s.gradFormat t a) stFORMAT,
    s.vetRanges t.job (s.gradIns a t.tile ++ s.gradOuts a t.tile ++ [s.gradCarry a t.tile])
      ((a.m * a.dxStride, a.dxBound) :: (if a.carryOut then [] else [(a.k * a.dwStride, a.dwBound)]))]

/-- The memory a GRAD task may write. -/
def State.gradWrites (s : State) (t : Task) : List (Nat × Nat) :=
  let a := parseGrad t.args
  if a.empty then []
  else s.rangeKeys ((if a.inputPart then (s.gradOuts a t.tile).take 2 else []) ++
    (if a.weightPart then (s.gradOuts a t.tile).drop 2 ++ (if a.carryOut then [s.gradCarry a t.tile] else []) else []))

/-! ### The pre-scan (R260, R162, R207) -/

/-- The summary entries of G that the anchors read: all of them for the weight part, else those of the task's rows. -/
def GradArgs.gEntries (a : GradArgs) : List Nat :=
  if a.weightPart then List.range (ceilDiv a.mTotal 128 * a.nTiles)
  else (List.range (a.mTiles * a.nTiles)).map (· + a.mFirst / 128 * a.nTiles)

/-- The status of a GRAD task's pre-scan: PARITY, SCALE_SKEW, FORMAT. -/
def State.gradScan (s : State) (t : Task) : Nat :=
  let a := parseGrad t.args
  let w := a.opW t.tile
  let x := a.opX t.tile
  let g := tileKey t.tile a.gSummary
  let uw := if a.inputPart then entryList (List.range a.k) (List.range (a.n / 32)) else []
  let ux := if a.weightPart then entryList ((List.range a.m).map (· + a.mFirst)) (List.range (a.k / 32)) else []
  let tw := if a.inputPart then List.range (a.kTiles * a.nTiles) else []
  let tx := if a.weightPart then List.range (ceilDiv a.mTotal 128 * a.kTiles) else []
  firstFailure
    [failIf (s.entryPoison w uw || s.entryPoison x ux || s.summaryPoison w.summary tw || s.summaryPoison x.summary tx ||
      s.summaryPoison g a.gEntries) stPARITY,
     failIf (s.skewed w uw || s.skewed x ux || s.summarySkewed w.summary tw || s.summarySkewed x.summary tx ||
      s.summarySkewed g a.gEntries) stSCALE_SKEW,
     failIf (s.summaryRot w.summary 0 tw || s.summaryRot x.summary 0 tx || s.summaryRot g 0 a.gEntries) stFORMAT]

/-- G's summary of tile (i, j), i counted over m_total. -/
def State.gSummaryAt (s : State) (t : Task) (a : GradArgs) (i j : Nat) : SummaryEntry :=
  s.summaryEntry (tileKey t.tile a.gSummary) (i * a.nTiles + j)

/-- anchor_dx of R260 for the task's row tile i and column tile c. -/
def State.anchorDx (s : State) (t : Task) (a : GradArgs) (i c : Nat) : Int :=
  anchorOf (bestSignificance ((List.range a.nTiles).map (fun j =>
    (s.gSummaryAt t a (a.mFirst / 128 + i) j, s.summaryEntry (tileKey t.tile a.wSummary) (c * a.nTiles + j))))
    (formatRise a.gF + 1 + formatRise a.wF)) a.n

/-- anchor_dw of R260 for tile c of k and gradient column tile j. -/
def State.anchorDw (s : State) (t : Task) (a : GradArgs) (c j : Nat) : Int :=
  anchorOf (bestSignificance ((List.range (ceilDiv a.mTotal 128)).map (fun i =>
    (s.summaryEntry (tileKey t.tile a.xSummary) (i * a.kTiles + c), s.gSummaryAt t a i j)))
    (formatRise a.xF + 1 + (formatRise a.gF + 1))) a.mTotal

/-! ### The two views of the gradient, and X re-scaled (R257 to R259, R261) -/

/-- A converted line as the array consumes it. -/
def ConvertedLine.opLine (f : Nat) (l : ConvertedLine) (taint : Option Nat) : OpLine :=
  { blocks := (chunks 32 l.elems).zipIdx.map (fun p =>
      let sc := (l.scales.getD p.2 (0, false)).1
      ⟨p.1.map (fun e => decodeElem f e.elem.code), (sc : Int) - 127, decide (sc = 0xFF)⟩),
    taint := taint }

/-- A matrix of source elements of the task, with the first poisoned block of each element's row or column. -/
abbrev Source := List (List (Num × Option Nat))

/-- A line of source elements for the scaling unit. -/
def sourceLine (l : List (Num × Option Nat)) : List SourceElem := l.map (fun x => ⟨x.1, 0, x.2.isSome⟩)

/-- The first poisoned block of a line. -/
def lineTaint (l : List (Num × Option Nat)) : Option Nat := firstTaint (l.map (·.2))

/-- G's rows of this task. -/
def State.gradG (s : State) (t : Task) (a : GradArgs) : Source :=
  (List.range a.m).map (fun r =>
    let key := tileKey t.tile a.g + (a.mFirst + r) * a.gStride
    let row := s.rowAt a.gF a.n key
    (List.range a.n).map (fun c =>
      (row.at c, if row.poisonAt c then s.taint (key + c * fmtBits a.gF / 8) (fmtBits a.gF / 8) else none)))

/-- X's rows of this task with their scales applied, exact (R258). -/
def State.gradX (s : State) (t : Task) (a : GradArgs) : Source :=
  let x := a.opX t.tile
  (List.range a.m).map (fun r =>
    let line := (List.range (a.k / 32)).flatMap (fun b => (s.opBlock x (a.mFirst + r) b).scaled)
    line.zipIdx.map (fun p => (p.1, s.operandTaint x (a.mFirst + r) p.2)))

/-- Slot A's view of G: rows in blocks of 32 columns, E5M2 as kind dY, rounded stochastically (R257, R259). -/
def State.gradViewA (s : State) (t : Task) (a : GradArgs) (g : Source) : List ConvertedLine :=
  g.zipIdx.map (fun r => scaleLine fmtE5M2 2 true
    (fun c => srBits (s.seed t.job) (((a.mFirst + r.2) * a.n + c) % 2 ^ 48) a.tensorId a.step) (sourceLine r.1))

/-- Slot B's view of G: columns in blocks of 32 rows. -/
def State.gradViewB (s : State) (t : Task) (a : GradArgs) (gT : Source) : List ConvertedLine :=
  gT.zipIdx.map (fun c => scaleLine fmtE5M2 2 true
    (fun r => srBits (s.seed t.job) (((a.mFirst + r) * a.n + c.2) % 2 ^ 48) ((a.tensorId + 1) % 2 ^ 32) a.step)
    (sourceLine c.1))

/-- Whether two summary entries entered an anchor (R260): neither says that its tile has no non-zero element. -/
def entered (p q : SummaryEntry) : Bool := decide (p.minScale ≠ 0xFF) && decide (q.minScale ≠ 0xFF)

/-- Whether tile (i, j) of a source exceeds the bound of its summary (R261). -/
def tileLow (src : Source) (i j : Nat) (bound : Int) : Bool :=
  let big := (((src.drop (128 * i)).take 128).flatMap (fun r => ((r.drop (128 * j)).take 128).map (·.1))).foldl maxAbs .zero
  match big with
  | .fin _ m e => magLt 1 bound m e
  | _ => false

/-- Whether a block of 128 rows of dW is masked. -/
def GradArgs.blockMasked (a : GradArgs) (c : Nat) : Bool := bit a.blockMask c

/-- Unmasked blocks of k. -/
def GradArgs.liveBlocks (a : GradArgs) : List Nat := (List.range a.kTiles).filter (fun c => !a.blockMasked c)

/-- The G tiles above their summary's bound. -/
def State.lowG (s : State) (t : Task) (a : GradArgs) (g : Source) : List (Nat × Nat) :=
  ((List.range a.mTiles).flatMap (fun i => (List.range a.nTiles).map (fun j => (i, j)))).filter (fun p =>
    tileLow g p.1 p.2 (((s.gSummaryAt t a (a.mFirst / 128 + p.1) p.2).maxScale : Int) - 127 + formatRise a.gF))

/-- The X tiles that slot B re-scales above their summary's bound. -/
def State.lowX (s : State) (t : Task) (a : GradArgs) (x : Source) : List (Nat × Nat) :=
  ((List.range a.mTiles).flatMap (fun i => a.liveBlocks.map (fun c => (i, c)))).filter (fun p =>
    tileLow x p.1 p.2 (((s.summaryEntry (tileKey t.tile a.xSummary) ((a.mFirst / 128 + p.1) * a.kTiles + p.2)).maxScale : Int)
      - 127 + formatRise a.xF))

/-! ### Passes (R262, R264) -/

/-- Rows of row tile i. -/
def GradArgs.rowsOf (total i : Nat) : Nat := Nat.min 128 (total - 128 * i)

/-- Rows of k in unmasked blocks. -/
def GradArgs.rowsB (a : GradArgs) : Nat := sumNat (a.liveBlocks.map (fun c => GradArgs.rowsOf a.k c))

/-- Whether row i of dW is masked by dw_row_mask (R265). -/
def State.rowMasked (s : State) (t : Task) (a : GradArgs) (i : Nat) : Bool :=
  a.rowMaskEn && bit (leNat (s.mem.readN (tileKey t.tile a.rowMask + i / 8) 1)) (i % 8)

/-- The counter bumps of each pass of a GRAD task in the order of R262. -/
def GradArgs.passList (a : GradArgs) (tile : Nat) : List (List (Field × Nat)) :=
  (List.range a.nTiles).flatMap (fun j => (List.range a.mTiles).flatMap (fun i =>
    let rows := GradArgs.rowsOf a.m i
    let cols := GradArgs.rowsOf a.n j
    (if a.inputPart then (List.range a.kTiles).map (fun c =>
      [(Reg.TIL_ARR_CNT_BUSY_A tile, 128), (Reg.TIL_ARR_CNT_MAC_A tile, rows * cols * GradArgs.rowsOf a.k c)]) else []) ++
    (if a.weightPart && decide (0 < a.rowsB) then
      [[(Reg.TIL_ARR_CNT_BUSY_B tile, a.rowsB), (Reg.TIL_ARR_CNT_MAC_B tile, rows * cols * a.rowsB),
        (Reg.TIL_ARR_CNT_TRANSPOSED tile, a.liveBlocks.length)]] else [])))

/-- Cycles per G tile in which the transposing buffer sets the pace (R264). -/
def GradArgs.bufferWait (a : GradArgs) : Nat :=
  let u := (tileBytesOf a.gF + (if a.weightPart then a.liveBlocks.length * tileBytesOf a.xF else 0)) / 256
  let slotA := if a.inputPart then 128 * a.kTiles else 0
  let slotB := if a.weightPart && decide (0 < a.rowsB) then Nat.max 128 a.rowsB else 0
  u - Nat.max slotA slotB

/-! ### The run -/

/-- An element of an output tile that a low summary made invalid (R261). -/
def Cell.spoil (c : Cell) (low : Bool) : Cell := if low then { c with acc := { c.acc with invalid := true } } else c

/-- A low summary entered the anchor of dX tile (i, c) (R261). -/
def State.spoiledDx (s : State) (t : Task) (a : GradArgs) (low : List (Nat × Nat)) (i c : Nat) : Bool :=
  low.any (fun p => decide (p.1 = i) &&
    entered (s.gSummaryAt t a (a.mFirst / 128 + i) p.2) (s.summaryEntry (tileKey t.tile a.wSummary) (c * a.nTiles + p.2)))

/-- A low summary of G or of X entered the anchor of dW tile (c, j) (R261). -/
def State.spoiledDw (s : State) (t : Task) (a : GradArgs) (lowG lowX : List (Nat × Nat)) (c j : Nat) : Bool :=
  let both := fun (i : Nat) => entered (s.summaryEntry (tileKey t.tile a.xSummary) ((a.mFirst / 128 + i) * a.kTiles + c))
    (s.gSummaryAt t a (a.mFirst / 128 + i) j)
  lowG.any (fun p => decide (p.2 = j) && both p.1) || lowX.any (fun p => decide (p.2 = c) && both p.1)

/-- dX: its cells row by row (R254, R260). -/
def State.gradDx (s : State) (t : Task) (a : GradArgs) (ga : List OpLine) (low : List (Nat × Nat)) : List (List Cell) :=
  let ws := (List.range a.k).map (s.opLine (a.opW t.tile) 0 (a.n / 32))
  let anchors := (List.range a.mTiles).map (fun i => (List.range a.kTiles).map (s.anchorDx t a i))
  ga.zipIdx.map (fun r => ws.zipIdx.map (fun c =>
    (productCell ((anchors.getD (r.2 / 128) []).getD (c.2 / 128) 0) 0 a.n r.1 c.1 none).spoil
      (s.spoiledDx t a low (r.2 / 128) (c.2 / 128))))

/-- dW: its cells row by row; rows of a masked block have none (R254, R260, R265). A row that dw_row_mask masks starts
from no carry record. -/
def State.gradDw (s : State) (t : Task) (a : GradArgs) (xt gb : List OpLine) (lowG lowX : List (Nat × Nat)) :
    List (List Cell) :=
  let anchors := (List.range a.kTiles).map (fun c => (List.range a.nTiles).map (s.anchorDw t a c))
  xt.zipIdx.map (fun r =>
    if a.blockMasked (r.2 / 128) then []
    else gb.zipIdx.map (fun c =>
      let rk := tileKey t.tile a.dwCarry + (r.2 * a.n + c.2) * 32
      (productCell ((anchors.getD (r.2 / 128) []).getD (c.2 / 128) 0) a.mFirst a.m r.1 c.1
        (if a.carryIn && !s.rowMasked t a r.2 then some (parseRecord (s.mem.readN rk 32), s.mem.poisoned rk 32)
         else none)).spoil
        (s.spoiledDw t a lowG lowX (r.2 / 128) (c.2 / 128))))

/-- The input part: dX, its summary, and its counts (R262). -/
def State.gradInput (s : State) (t : Task) (a : GradArgs) (g : Source) (view : List ConvertedLine) (low : List (Nat × Nat)) :
    Result :=
  let tile := t.runTile
  let ga := (g.zip view).map (fun p => p.2.opLine fmtE5M2 (lineTaint p.1))
  let cells := s.gradDx t a ga low
  let (elems, tele, bad) := drainWide a.dxF cells
  { ops := layoutOps 0 a.dxF (tileKey t.tile a.dx) a.dxStride a.m a.k (elems.map (fun r => r.map (·.elem))) ++
      markedWrite (tileKey t.tile a.dxSummary) (summaryBytes a.dxF false 0 0 a.m a.k elems),
    bumps := [(Reg.TIL_ARR_CNT_WINDOW_UNDERFLOW tile, sumNat (cells.flatten.map (·.under))),
      (Reg.TIL_ARR_CNT_NONFINITE tile, bad)] ++ teleBumps a.dxF tele ++
      teleBumps fmtE5M2 (view.foldl (fun x l => x.plus l.tele) {}),
    events := if bad = 0 then [] else [(Reg.TIL_ARR_EVENT_nonfinite tile, tile, 0)],
    poisonAt := if cells.flatten.any (·.poison) then firstTaint (ga.map (·.taint) ++
      (List.range a.k).map (fun c => (s.opLine (a.opW t.tile) 0 (a.n / 32) c).taint)) else none }

/-- X's columns re-scaled for slot B (R258). -/
def GradArgs.scaledX (a : GradArgs) (xT : Source) : List ConvertedLine :=
  xT.map (fun l => scaleLine a.xqF 1 false (fun _ => 0) (sourceLine l))

/-- The blocks of 128 lines from line 128 i on, in their pieces of 128 elements with number j: four blocks of each line. -/
def tileStats (l : List ConvertedLine) (i j : Nat) : List BlockStat :=
  ((l.drop (128 * i)).take 128).flatMap (fun x => (x.stats.drop (4 * j)).take 4)

/-- The blocks that the feeders scale, in the order in which R262 reads the G tiles: for each, view A, view B, and the X tiles
turned for it (log entry 44). -/
def GradArgs.blockOrder (a : GradArgs) (va vb xq : List ConvertedLine) : List BlockStat :=
  (List.range a.nTiles).flatMap (fun j => (List.range a.mTiles).flatMap (fun i =>
    tileStats va i j ++ tileStats vb j i ++ (if a.weightPart then a.liveBlocks.flatMap (fun c => tileStats xq c i) else [])))

/-- The weight part: dW or its carry records, and its counts (R262, R265). -/
def State.gradWeight (s : State) (t : Task) (a : GradArgs) (gT xT : Source) (view xq : List ConvertedLine)
    (lowG lowX : List (Nat × Nat)) : Result :=
  let tile := t.runTile
  let gb := (gT.zip view).map (fun p => p.2.opLine fmtE5M2 (lineTaint p.1))
  let xt := (xT.zip xq).map (fun p => p.2.opLine a.xqF (lineTaint p.1))
  let cells := s.gradDw t a xt gb lowG lowX
  let kept := cells.zipIdx.filter (fun r => !r.1.isEmpty && !s.rowMasked t a r.2)
  let mism := ((kept.flatMap (·.1)).filter (·.mismatch)).length
  let wide := kept.map (fun r => (r.2, drainWide fmtFP32 [r.1]))
  let bad := if a.carryOut then 0 else sumNat (wide.map (fun p => p.2.2.2))
  let live := xq.zipIdx.filter (fun l => !a.blockMasked (l.2 / 128))
  let turns := List.replicate a.nTiles (live.map (·.1)) |>.flatten
  let outTele := if a.carryOut then ({} : Tele) else wide.foldl (fun y p => y.plus p.2.2.1) {}
  let masked := ((List.range a.k).filter (fun i => !a.blockMasked (i / 128) && s.rowMasked t a i)).length
  { ops := if a.carryOut then
        kept.flatMap (fun r => markedWrite (tileKey t.tile a.dwCarry + r.2 * a.n * 32)
          (r.1.flatMap (fun c => c.acc.record.map (fun b => (b, c.poison)))))
      else wide.flatMap (fun p => markedWrite (tileKey t.tile a.dw + p.1 * a.dwStride)
        (packMarked fmtFP32 (p.2.1.flatten.map (·.elem)))),
    bumps := [(Reg.TIL_ARR_CNT_WINDOW_UNDERFLOW tile, sumNat (cells.flatten.map (·.under))),
      (Reg.TIL_ARR_CNT_NONFINITE tile, bad), (Reg.TIL_ARR_CNT_CARRY_MISMATCH tile, mism),
      (Reg.TIL_BWD_CNT_BLOCKS_MASKED tile, (a.kTiles - a.liveBlocks.length) * a.nTiles),
      (Reg.TIL_BWD_CNT_ROWS_MASKED tile, masked * a.nTiles)] ++ teleBumps fmtFP32 outTele ++
      teleBumps fmtE5M2 (view.foldl (fun y l => y.plus l.tele) {}) ++
      teleBumps a.xqF (turns.foldl (fun y l => y.plus l.tele) {}),
    events := (if mism = 0 then [] else [(Reg.TIL_ARR_EVENT_carry_mismatch tile, tile, 0)]) ++
      (if bad = 0 then [] else [(Reg.TIL_ARR_EVENT_nonfinite tile, tile, 0)]),
    poisonAt := firstTaint ((if a.rowMaskEn then [s.taint (tileKey t.tile a.rowMask) (ceilDiv a.k 8)] else []) ++
      (if cells.flatten.any (·.poison) then gb.map (·.taint) ++ xt.map (·.taint) ++
        [if a.carryIn then s.taint (tileKey t.tile a.dwCarry) (32 * a.k * a.n) else none] else [])) }

/-- A GRAD task's run (R257 to R265). -/
def State.gradRun (s : State) (t : Task) : Result :=
  let a := parseGrad t.args
  if a.empty then {}
  else if t.passes = 0 ∧ s.gradScan t ≠ stOK then scanFailed (s.gradScan t)
  else
    let tile := t.runTile
    let g := s.gradG t a
    let x := if a.weightPart then s.gradX t a else []
    let lowG := s.lowG t a g
    let lowX := if a.weightPart then s.lowX t a x else []
    let low := lowG.length + lowX.length
    let gT := if a.weightPart then transposeLists a.n (.zero, none) g else []
    let xT := if a.weightPart then transposeLists a.k (.zero, none) x else []
    let va := if a.inputPart then s.gradViewA t a g else []
    let vb := if a.weightPart then s.gradViewB t a gT else []
    let xq := a.scaledX xT
    let head : Result :=
      { bumps := ((a.passList tile).drop t.passes).flatten ++
          [(Reg.TIL_BWD_CNT_G_TILES tile, a.mTiles * a.nTiles), (Reg.TIL_BWD_CNT_SUMMARY_LOW tile, low),
            (Reg.TIL_BWD_CNT_BUFFER_WAIT tile, a.mTiles * a.nTiles * a.bufferWait)],
        events := if low = 0 then [] else [(Reg.TIL_BWD_EVENT_summary_low tile, tile, 0)],
        blocks := a.blockOrder va vb xq }
    let r1 := if a.inputPart then head.append (s.gradInput t a g va lowG) else head
    if a.weightPart then r1.append (s.gradWeight t a gT xT vb xq lowG lowX) else r1

/-- GRAD (R262). -/
def execGrad (id : TaskId) (s : State) : Host.Outcome State Fault Refusal :=
  perform (.grad id) (s.engineStep id engARRAY_AB 1 s.gradRun)

/-! ### ARRAY_PASS_START (R206, R263) -/

/-- The pre-scan status of a running array task. -/
def State.arrayScan (s : State) (t : Task) : Nat :=
  if t.desc.engine = engARRAY_AB then s.gradScan t else s.productScan t

/-- The passes of an array task, each as its counter bumps. -/
def State.arrayPasses (s : State) (t : Task) : List (List (Field × Nat)) :=
  if t.desc.engine = engARRAY_AB then
    if (parseGrad t.args).empty then [] else (parseGrad t.args).passList t.runTile
  else
    let a := parseProduct t.args
    if a.empty then []
    else
      let slices := (s.slices t a.n).map (fun sl => (sl, s.slicePasses a (s.depth t) sl))
      (List.range (maxNat (slices.map (fun p => p.2.length)))).map (fun i =>
        slices.flatMap (fun p =>
          passBumps (decide (t.desc.engine = engARRAY_B)) (s.sliceRunner t p.1) ((p.2.drop i).take 1)))

/-- The drain rows a task reserves on slots A and B when its pre-scan begins (R206, R263). -/
def Task.drainRows (t : Task) : Nat × Nat :=
  if t.desc.engine = engARRAY_AB then
    let a := parseGrad t.args
    if a.empty then (0, 0)
    else (if a.inputPart then a.mTiles * a.kTiles * 128 else 0, if a.weightPart then a.kTiles * 128 else 0)
  else
    let a := parseProduct t.args
    let rows := if a.empty then 0 else Nat.min a.m 512
    if t.desc.engine = engARRAY_B then (0, rows) else (rows, 0)

/-- Drain rows that the other running array tasks of a task's tiles hold on the two slots. -/
def State.drainHeld (s : State) (t : Task) : Nat × Nat :=
  let others := s.tasks.filter (fun u => decide (u.id ≠ t.id) && decide (u.phase = .running) &&
    (s.heldTiles u).any (fun x => (s.heldTiles t).contains x))
  (sumNat (others.map (·.drainA)), sumNat (others.map (·.drainB)))

/-- A task of an array class. -/
def Task.isArray (t : Task) : Bool := decide (1 ≤ t.desc.engine) && decide (t.desc.engine ≤ 3)

/-- A task with its drain rows reserved, where each slot's 1,024 rows have room for them (R206, R263). -/
def State.reserved (s : State) (t : Task) : Task :=
  let want := t.drainRows
  let held := s.drainHeld t
  if t.isArray && decide (held.1 + want.1 ≤ 1024) && decide (held.2 + want.2 ≤ 1024) then
    { t with drainA := want.1, drainB := want.2 }
  else t

/-- Every pass of a running product has started: what is left of it is its drain, and its slot may take the next task (R206, log
entry 44). -/
def State.draining (s : State) (t : Task) : Bool :=
  (t.desc.engine == engARRAY_A || t.desc.engine == engARRAY_B) && decide (0 < t.passes) &&
    decide ((s.arrayPasses t).length ≤ t.passes)

/-- The pre-scan of an array task has passed: it stands once a pass has started. -/
def State.scanPassed (s : State) (t : Task) : Bool := decide (0 < t.passes) || decide (s.arrayScan t = stOK)

/-- ARRAY_PASS_START: a pass starts once the pre-scan has passed and the task's drain rows are reserved (R206); rows that the
dispatch found no room for are reserved now. -/
def State.arrayPassStart (s : State) (id : TaskId) : State :=
  match s.task? id with
  | none => s
  | some t0 =>
    let t := if (t0.drainA, t0.drainB) = t0.drainRows then t0 else s.reserved t0
    if t.isArray && decide (t.phase = .running) && s.jobRuns t.job && s.scanPassed t &&
        decide ((t.drainA, t.drainB) = t.drainRows) then
      match (s.arrayPasses t)[t.passes]? with
      | some b => (s.bumps b).setTask { t with passes := t.passes + 1 }
      | none => s
    else s

/-- ARRAY_PASS_START (R206). -/
def execArrayPassStart (id : TaskId) (s : State) : Host.Outcome State Fault Refusal :=
  perform (.arrayPassStart id) (s.arrayPassStart id)

end Sys2Proof.Machine
end

