-- ==== Sys2Proof/Machine/Tables.lean ====
section
/-!
DEFINITION. Feature and embedding tables (06): opening, lookups and pooling, refresh of hot-row replicas, and epochs.
-/

namespace Sys2Proof.Machine

/-! ### Tables and their rows (R126 to R132, R144) -/

/-- The fields of a table descriptor (R128). -/
structure TableDesc where
  table : Nat
  edge : Bool
  format : Nat
  width : Nat
  region0 : Nat
  region1 : Nat
  grad : Nat
  edgeRows : Nat
deriving DecidableEq, Repr

/-- A table descriptor from its 64 bytes. -/
def parseTable (b : List Byte) : TableDesc :=
  let f := fieldLe b 2 1
  { table := bits (fieldLe b 0 2) 11 0, edge := bit f 4, format := bits f 3 0, width := fieldLe b 4 4,
    region0 := bits (fieldLe b 8 8) 44 0, region1 := bits (fieldLe b 0x10 8) 44 0, grad := bits (fieldLe b 0x18 8) 44 0,
    edgeRows := bits (fieldLe b 0x20 8) 47 0 }

/-- The open table of a number. -/
def State.openTable? (s : State) (table : Nat) : Option OpenTable := s.tables.find? (fun x => decide (x.table = table))

/-- Replace the state of an open table. -/
def State.setTable (s : State) (x : OpenTable) : State :=
  { s with tables := s.tables.map (fun y => if y.table = x.table then x else y) }

/-- The kind-1 SHARD_MAP of a table (R32, R128). -/
def State.tableMap? (s : State) (table : Nat) : Option OwnerMap := (s.shardMap? table).filter (fun m => decide (m.kind = 1))

/-- The stride of a table's rows, from its SHARD_MAP (R126). -/
def State.tableStride (s : State) (table : Nat) : Nat := roundUp (((s.tableMap? table).map (·.unitBytes)).getD 0) 64

/-- The rows a module holds of a table (R127, R129). -/
def State.tableRows (s : State) (d : TableDesc) : Nat :=
  if d.edge then d.edgeRows else ((s.tableMap? d.table).map (fun m => m.owned (s.node?.getD 0))).getD 0

/-- The key of a hot row's replica, if the row is hot (R80, R144). -/
def State.replicaKey? (s : State) (table row : Nat) : Option Nat :=
  match s.chart with
  | none => none
  | some c =>
    let k := c.hotRows.findIdx (fun e => decide (e = (table, row)))
    if k < c.hotRows.length then
      some (hbmEnd - c.hotBytes + sumNat ((c.hotRows.take k).map (fun e => s.tableStride e.1)))
    else none

/-- The hot rows of a table, in entry order. -/
def State.hotRowsOf (s : State) (table : Nat) : List Nat :=
  ((((s.chart.map (·.hotRows)).getD [])).filter (fun e => decide (e.1 = table))).map (·.2)

/-- The HBM offset of the region that an epoch is read from (R127). -/
def OpenTable.region (x : OpenTable) (epoch : Nat) : Nat := if epoch % 2 = 0 then x.region0 else x.region1

/-- Whether an epoch may be read: it is live or retained (R134). -/
def OpenTable.epochOpen (x : OpenTable) (epoch : Nat) : Bool := decide (x.live = epoch) || decide (x.retained = some epoch)

/-- What a table operation resolves rows with. -/
structure TableCtx where
  job : Nat
  spec : Bool
  replies : List RemoteReply
  table : OpenTable
  map : OwnerMap
  stride : Nat
  epoch : Nat
  own : Nat
  idx64 : Bool
  /-- A speculative lookup of an epoch that cannot be read: every row is a zero row (R148). -/
  stale : Bool
deriving DecidableEq, Repr

/-- Where a row comes from. -/
inductive RowSource where
  | outOfRange
  /-- A zero row in place of one of an epoch that cannot be read (R148). -/
  | stale
  | here (addr : Nat)
  | replica (key : Nat)
  | remote (addr : Nat) (bypass : Bool)
deriving DecidableEq, Repr

/-- resolve of R135. -/
def State.resolve (s : State) (c : TableCtx) (x : Nat) : RowSource :=
  let region := c.table.region c.epoch
  if c.stale then .stale
  else if c.table.edge then
    let owner := bits x 63 48
    let r := bits x 47 0
    if s.nodeExists owner = false ∨ c.table.edgeRows ≤ r then .outOfRange
    else
      let a := globalAddr owner 0 (region + r * c.stride)
      if owner = c.own then .here a else .remote a false
  else
    let r := if c.idx64 then bits x 47 0 else bits x 31 0
    match c.map.owner? r with
    | none => .outOfRange
    | some owner =>
      let a := globalAddr owner 0 (region + c.map.localIndex r owner * c.stride)
      if owner = c.own then .here a
      else match s.replicaKey? c.table.table r with
        | some k => if c.table.replica = some c.epoch then .replica k else .remote a true
        | none => .remote a false

/-- The numbers of a statistics record (R139). -/
structure TableStats where
  indices : Nat := 0
  indexRange : Nat := 0
  hotHits : Nat := 0
  localRows : Nat := 0
  remoteRows : Nat := 0
  coalesced : Nat := 0
  listGets : Nat := 0
  badBags : Nat := 0
  bytesReceived : Nat := 0
  replicaBypass : Nat := 0
  contributions : Nat := 0
  distinctRows : Nat := 0
  suppressed : Nat := 0
deriving DecidableEq, Repr

/-- The 64 bytes of a statistics record. -/
def TableStats.bytes (x : TableStats) : List Byte :=
  leBytes 4 x.indices ++ leBytes 4 x.indexRange ++ leBytes 4 x.hotHits ++ leBytes 4 x.localRows ++ leBytes 4 x.remoteRows ++
    leBytes 4 x.coalesced ++ leBytes 4 x.listGets ++ leBytes 4 x.badBags ++ leBytes 8 x.bytesReceived ++
    leBytes 4 x.replicaBypass ++ leBytes 4 x.contributions ++ leBytes 4 x.distinctRows ++ leBytes 4 x.suppressed ++ leBytes 8 0

/-- The statistics record's write, if the task asks for one; poisoned where its counts depend on poison (R345). -/
def State.statsOps (s : State) (addr : Nat) (x : TableStats) (poison : Bool) : List MemOp :=
  if addr = 0 then [] else markedWrite (s.key addr) (x.bytes.map (fun b => (b, poison)))

/-- The addresses of the rows that come from other modules. -/
def remoteAddrs (l : List RowSource) : List Nat := l.filterMap (fun r => match r with | .remote a _ => some a | _ => none)

/-- What a table task asked other modules for: the rows it fetched itself and the answers that came, beside those that the command
brings (R136, R140; log entry 45). -/
structure RowTraffic where
  fetched : List Nat
  listGets : Nat
  replies : List RemoteReply
  supplied : List RemoteReply
deriving DecidableEq, Repr

/-- Rows of one reading whose answers the command brings and that the task has not asked for. -/
def RowTraffic.brought (w : RowTraffic) (l : List Nat) : List Nat :=
  l.eraseDups.filter (fun a => !w.fetched.contains a && w.supplied.any (fun r => decide (r.addr ≤ a)))

/-- List gets for some rows: one list for each owner, of 512 rows at most (R136). -/
def listGetsFor (l : List Nat) : Nat :=
  sumNat (((l.map addrNode).eraseDups).map (fun o => ceilDiv (l.filter (fun a => decide (addrNode a = o))).length 512))

/-- Count the sources of a run's rows, and of those that it reads a second time: rows fetched, requests that attached to another
request's fetch, the list gets and the bytes that came (R139, R140). -/
def RowTraffic.count (w : RowTraffic) (stride : Nat) (l twice : List RowSource) (x : TableStats) : TableStats :=
  let all := l ++ twice
  let more := w.brought (remoteAddrs l) ++ w.brought (remoteAddrs twice)
  let rows := w.fetched.length + more.length
  let ok := (w.fetched.filter (fun a => w.replies.any (fun r => decide (r.addr = a) && decide (r.status = stOK)))).length +
    (more.filter (fun a => w.supplied.any (fun r => decide (r.addr ≤ a) && decide (r.status = stOK)))).length
  { x with
    hotHits := (all.filter (fun r => match r with | .replica _ => true | _ => false)).length,
    localRows := (all.filter (fun r => match r with | .here _ => true | _ => false)).length,
    remoteRows := rows, coalesced := (remoteAddrs all).length - rows,
    listGets := w.listGets + listGetsFor (w.brought (remoteAddrs l)) + listGetsFor (w.brought (remoteAddrs twice)),
    bytesReceived := ok * stride,
    replicaBypass := (all.filter (fun r => match r with | .remote _ b => b | _ => false)).length }

/-- Rows that a second reading fetches again and that have not come a second time: the entry of the first reading has freed by
then (R140, R180). -/
def RowTraffic.again (w : RowTraffic) (stride : Nat) (twice : List RowSource) : List (Nat × Nat) :=
  ((remoteAddrs twice).eraseDups.filter (fun a => (remoteAnswer w.supplied a stride).isNone &&
    decide ((w.replies.filter (fun r => decide (r.addr = a))).length < 2))).map (fun a => (a, stride))

/-- A fetched row: its bytes with their poison, and its memory key where it lies on this module. -/
structure FetchedRow where
  bytes : Marked
  key : Option Nat
  addr : Nat
deriving DecidableEq, Repr

/-- A row of zeros without poison. -/
def FetchedRow.zero (n : Nat) : FetchedRow := ⟨cleanBytes (List.replicate n 0), none, 0⟩

/-- The first poisoned block of a fetched row. -/
def FetchedRow.taint (f : FetchedRow) : Option Nat := markedTaint f.addr f.bytes

/-- Fetch n bytes of a row; list gets bring whole strides, so that LOOKUP and TABLE_REFRESH share them (R139, R140). -/
def State.fetchRow (s : State) (c : TableCtx) (n : Nat) (r : RowSource) (x : Access) : FetchedRow × Access :=
  match r with
  | .outOfRange => (FetchedRow.zero n, x)
  | .stale => (FetchedRow.zero n, x)
  | .replica k => (⟨s.mem.readMarked k n, some k, s.addrOfKey k⟩, x)
  | .here a =>
    let (b, y) := s.fetch c.job c.spec c.replies a n x
    (⟨b, some (s.key a), a⟩, y)
  | .remote a _ =>
    let (b, y) := s.fetch c.job c.spec c.replies a c.stride x
    (⟨b.take n, none, a⟩, y)

/-- Fetch rows in order. -/
def State.fetchRows (s : State) (c : TableCtx) (n : Nat) : List RowSource → Access → List FetchedRow × Access
  | [], x => ([], x)
  | r :: t, x =>
    let (f, y) := s.fetchRow c n r x
    let (l, z) := s.fetchRows c n t y
    (f :: l, z)

/-! ### LOOKUP (R133 to R138) -/

/-- A LOOKUP argument block. -/
structure LookupArgs where
  idx64 : Bool
  weighted : Bool
  mean : Nat
  pooled : Bool
  outF : Nat
  table : Nat
  epoch : Nat
  count : Nat
  bags : Nat
  idx : Nat
  weights : Nat
  bagOff : Nat
  out : Nat
  outBound : Nat
  stats : Nat
deriving DecidableEq, Repr

/-- A LOOKUP argument block from its bytes. -/
def parseLookup (b : List Byte) : LookupArgs :=
  let b1 := fieldLe b 1 1
  let h := fieldLe b 2 2
  { idx64 := bit b1 4, weighted := bit b1 3, mean := bits b1 2 1, pooled := bit b1 0, outF := bits h 15 12,
    table := bits h 11 0, epoch := fieldLe b 4 2, count := fieldLe b 8 4, bags := fieldLe b 0xC 4, idx := fieldLe b 0x10 8,
    weights := fieldLe b 0x18 8, bagOff := fieldLe b 0x20 8, out := fieldLe b 0x28 8, outBound := fieldLe b 0x30 4,
    stats := fieldLe b 0x38 8 }

/-- Nothing to look up (R134). -/
def LookupArgs.empty (a : LookupArgs) : Bool := decide (a.count = 0) || (a.pooled && decide (a.bags = 0))

/-- The statistics record's range. -/
def statsRange (addr : Nat) : Range := { addr := addr, len := if addr = 0 then 0 else 64, write := true }

/-- Bytes between output rows of a lookup: the row stride of a gather, the rounded bag of a pooled one (R133). -/
def lookupStride (a : LookupArgs) (width stride : Nat) : Nat :=
  if a.pooled then roundUp (width * outSize a.outF) 64 else stride

/-- The output range of a lookup. -/
def lookupOut (a : LookupArgs) (width stride : Nat) : Range :=
  { addr := a.out, len := (if a.pooled then a.bags else a.count) * lookupStride a width stride, write := true }

/-- The ranges of a lookup. -/
def lookupRanges (a : LookupArgs) (width stride : Nat) : List Range :=
  [{ addr := a.idx, len := a.count * indexBytes a.idx64, read := true }] ++
    (if a.weighted then [{ addr := a.weights, len := 4 * a.count, read := true }] else []) ++
    (if a.pooled then [{ addr := a.bagOff, len := 4 * (a.bags + 1), read := true }] else []) ++
    [lookupOut a width stride, statsRange a.stats]

/-- LOOKUP's checks (R134). -/
def State.lookupCheck (s : State) (t : Task) : Nat :=
  let a := parseLookup t.args
  if 2 ≤ a.mean ∨ 3 ≤ a.outF then stFORMAT
  else if a.empty then stOK
  else match s.openTable? a.table with
    | none => stFORMAT
    | some x =>
      let stride := s.tableStride a.table
      let rs := lookupRanges a x.width stride
      firstFailure
        [failIf ((!a.pooled && decide (a.outF ≠ 0)) || (x.edge && !a.idx64) || !addrForm a.idx 1 [0, 1] ||
          decide (a.out % 64 ≠ 0) || decide (a.stats % 64 ≠ 0)) stFORMAT,
         firstFailure (rs.map rangeFormat), failIf (decide (x.job ≠ t.job)) stACCESS,
         s.vetRanges t.job rs [((lookupOut a x.width stride).len, a.outBound)],
         failIf (!x.epochOpen a.epoch) stEPOCH_STALE]

/-- What a table task of an open table resolves with. -/
def State.tableCtx (s : State) (t : Task) (remote : List RemoteReply) (x : OpenTable) (epoch : Nat) (idx64 : Bool) : TableCtx :=
  { job := t.job, spec := t.speculative, replies := remote, table := x, map := (s.tableMap? x.table).getD ⟨0, 1, 0, 0, []⟩,
    stride := s.tableStride x.table, epoch := epoch, own := s.node?.getD 0, idx64 := idx64, stale := decide (t.stage = staleStage) }

/-- What a table task's rows have come by so far. -/
def Task.rowTraffic (t : Task) (supplied replies : List RemoteReply) : RowTraffic := ⟨t.fetched, t.listGets, replies, supplied⟩

/-- The answers from which a run's rows are read: what the command brings, then the latest that have come. -/
def RowTraffic.answers (w : RowTraffic) : List RemoteReply := w.supplied ++ w.replies.reverse

/-- Index entry i of a list. -/
def State.indexAt (s : State) (key : Nat) (idx64 : Bool) (i : Nat) : Nat :=
  leNat (s.mem.readN (key + i * indexBytes idx64) (indexBytes idx64))

/-- A gather: every row's payload unchanged, zeros in its padding; poison goes with the row, and a poisoned index poisons
the whole output row (R133, R344). -/
def State.lookupGather (s : State) (t : Task) (c : TableCtx) (w : RowTraffic) (a : LookupArgs) : Result :=
  let ik := s.key a.idx
  let payload := rowPayload c.table.format c.table.width
  let src := (List.range a.count).map (fun i => s.resolve c (s.indexAt ik a.idx64 i))
  let (rows, x) := s.fetchRows c payload src {}
  let range_ := (src.filter (fun r => decide (r = .outOfRange))).length
  let st := w.count c.stride src [] { indices := a.count, indexRange := range_, suppressed := x.suppressed + flag c.stale }
  let dst := fun i => s.key a.out + i * c.stride
  let ops := rows.zipIdx.flatMap (fun p =>
    [MemOp.zero (dst p.2) c.stride] ++
    markedWrite (dst p.2) p.1.bytes ++
    (if s.mem.poisoned (ik + p.2 * indexBytes a.idx64) (indexBytes a.idx64) then [.poison (dst p.2) c.stride] else []))
  let n : EdgeCount := { edges := a.count, indexRange := range_ }
  let outs := [(s.key a.out, a.count * c.stride)]
  if x.status ≠ stOK then
    { status := x.status, ops := undefinedOps outs s.free ++ s.statsOps a.stats st false, draws := 1, bumps := n.bumps t.runTile,
      missing := x.missing }
  else { ops := ops ++ s.statsOps a.stats st false, suppressed := x.suppressed, bumps := n.bumps t.runTile, missing := x.missing }

/-- What the bags formed so far gave. -/
structure PoolRun where
  ops : List MemOp := []
  stats : TableStats := {}
  count : EdgeCount := {}
  tele : Tele := {}
  access : Access := {}
  taint : Option Nat := none
  /-- The first poisoned block of the index and offset lists, on which the statistics depend. -/
  listTaint : Option Nat := none
  sources : List RowSource := []
  /-- The rows of bags that are read twice (R180). -/
  twice : List RowSource := []
deriving DecidableEq, Repr

/-- A pooled bag of rows with their weights: its elements with conversions, and the contributions truncated (R138). -/
def poolBag (a : LookupArgs) (width : Nat) (rows : List (Row × Num)) (whole : Bool) : List (Elem × Tele) × Nat :=
  let cols := (List.range width).map (fun c =>
    let (acc, under) := windowSum (rows.map (fun p =>
      (if a.weighted then p.2.mul (p.1.at c) else p.1.at c).contrib)) rows.length
    let (code, tele) := roundQuotient a.outF none acc.value (if a.mean = 1 then rows.length else 1) 0
    (((⟨code, whole || rows.any (fun p => p.1.poisonAt c)⟩ : Elem), tele), under))
  (cols.map (·.1), sumNat (cols.map (·.2)))

/-- Bag b of a pooled lookup. -/
def State.lookupBag (s : State) (c : TableCtx) (a : LookupArgs) (r : PoolRun) (b : Nat) : PoolRun :=
  let width := c.table.width
  let ok := s.key a.bagOff + 4 * b
  let lo := s.u32 (s.key a.bagOff) b
  let hi := s.u32 (s.key a.bagOff) (b + 1)
  let stride := lookupStride a width c.stride
  let dst := s.key a.out + b * stride
  let offTaint := s.taint ok 8
  if hi < lo ∨ a.count < hi then
    { r with ops := r.ops ++ writeRow dst a.outF stride (List.replicate width ⟨0, offTaint.isSome⟩),
             stats := { r.stats with badBags := r.stats.badBags + 1 }, taint := firstTaint [r.taint, offTaint],
             listTaint := firstTaint [r.listTaint, offTaint] }
  else if hi = lo then
    { r with ops := r.ops ++ writeRow dst a.outF stride (List.replicate width ⟨0, offTaint.isSome⟩),
             taint := firstTaint [r.taint, offTaint], listTaint := firstTaint [r.listTaint, offTaint] }
  else
    let n := hi - lo
    let ik := s.key a.idx
    let at_ := (List.range n).map (· + lo)
    let src := at_.map (fun i => s.resolve c (s.indexAt ik a.idx64 i))
    let payload := rowPayload c.table.format width
    let (rows, x) := s.fetchRows c payload src r.access
    let values := rows.map (fun f => Row.ofMarked c.table.format width f.bytes)
    let weights := at_.map (fun i => ofFp32 (s.u32 (s.key a.weights) i))
    let listed := firstTaint [offTaint, s.taint (ik + lo * indexBytes a.idx64) (n * indexBytes a.idx64)]
    let idxTaint := firstTaint [listed,
      if a.weighted then s.taint (s.key a.weights + 4 * lo) (4 * n) else none]
    let (cells, under) := poolBag a width (values.zip weights) idxTaint.isSome
    let twice := decide (segmentBuffer < n * width)
    let range_ := (src.filter (fun q => decide (q = .outOfRange))).length
    let st := r.stats
    { ops := r.ops ++ writeRow dst a.outF stride (cells.map (·.1)),
      stats := { st with indices := st.indices + n, indexRange := st.indexRange + range_ },
      count := r.count.plus { contrib := n * width, edges := n, indexRange := range_, underflow := under, reread := flag twice },
      tele := cells.foldl (fun m e => m.plus e.2) r.tele, access := x,
      taint := firstTaint [r.taint, idxTaint, firstTaint (rows.map FetchedRow.taint)],
      listTaint := firstTaint [r.listTaint, listed], sources := r.sources ++ src,
      twice := if twice then r.twice ++ src else r.twice }

/-- A pooled lookup (R138): once its rows have come, those of the bags that are read twice are fetched again (R180). -/
def State.lookupPool (s : State) (t : Task) (c : TableCtx) (w : RowTraffic) (a : LookupArgs) : Result :=
  let r := (List.range a.bags).foldl (s.lookupBag c a) {}
  let st := { w.count c.stride r.sources r.twice r.stats with suppressed := r.access.suppressed + flag c.stale }
  let dirty := r.listTaint.isSome
  let outs := [(s.key a.out, a.bags * lookupStride a c.table.width c.stride)]
  if r.access.status ≠ stOK then
    { status := r.access.status, ops := undefinedOps outs s.free ++ s.statsOps a.stats st dirty, draws := 1,
      missing := r.access.missing, bumps := r.count.bumps t.runTile }
  else
    { ops := r.ops ++ s.statsOps a.stats st dirty, suppressed := r.access.suppressed, poisonAt := r.taint,
      missing := if r.access.missing = [] then w.again c.stride r.twice else r.access.missing,
      bumps := r.count.bumps t.runTile ++ teleBumps a.outF r.tele }

/-- A LOOKUP's run (R135 to R139). That its epoch can be read was decided at its dispatch, and holds while it is live (R134,
R146). -/
def State.lookupRun (s : State) (supplied replies : List RemoteReply) (t : Task) : Result :=
  let a := parseLookup t.args
  let w := t.rowTraffic supplied replies
  if a.empty then {}
  else match s.openTable? a.table with
    | none => { status := stFORMAT }
    | some x =>
      let c := s.tableCtx t w.answers x a.epoch a.idx64
      if a.pooled then s.lookupPool t c w a else s.lookupGather t c w a

/-- LOOKUP as an engine step. -/
def State.lookupStep (s : State) (id : TaskId) (remote : List RemoteReply) : State :=
  match s.runningTask? id engEDGE 0x20 with
  | some t => s.applyFetched t (t.runTile / 8) (s.lookupRun remote (s.repliesFor id) t)
  | none => s

/-- LOOKUP (R135). -/
def execLookup (id : TaskId) (remote : List RemoteReply) (s : State) : Host.Outcome State Fault Refusal :=
  perform (.lookup id remote) (s.lookupStep id remote)

/-! ### TABLE_OPEN (R132) -/

/-- The checks of a descriptor that TABLE_OPEN has read. -/
def State.tableDescCheck (s : State) (job : Nat) (d : TableDesc) : Nat :=
  if 8 ≤ d.format then stFORMAT
  else if d.width = 0 then stOK
  else match s.tableMap? d.table with
    | none => stFORMAT
    | some m =>
      let payload := rowPayload d.format d.width
      let len := s.tableRows d * roundUp payload 64
      let at_ := fun o => globalAddr (s.node?.getD 0) 0 o
      let r0 : Range := { addr := at_ d.region0, len := len, read := true }
      let r1 : Range := { addr := at_ d.region1, len := len, read := true }
      firstFailure
        [failIf (decide (m.unitBytes ≠ payload) || decide (4096 < payload) ||
          (decide (0 < len) && decide (d.region0 < d.region1 + len) && decide (d.region1 < d.region0 + len)) ||
          (s.openTable? d.table).isSome) stFORMAT,
         s.rangeAccess job r0, s.rangeAccess job r1, s.rangeBound job r0, s.rangeBound job r1]

/-- TABLE_OPEN's checks, in the order of R439. -/
def State.tableOpenCheck (s : State) (t : Task) : Nat :=
  let desc := fieldLe t.args 8 8
  let r : Range := { addr := desc, len := 64, read := true }
  firstFailure [failIf (!addrForm desc 64 [0]) stFORMAT, s.rangeAccess t.job r, s.rangeBound t.job r,
    failIf (s.poisonedAt desc 64) stPARITY, s.tableDescCheck t.job (parseTable (s.readAddr desc 64))]

/-- TABLE_OPEN: the table's state is installed; width 0 opens nothing (R132). -/
def State.tableOpen (s : State) (id : TaskId) : State :=
  match s.runningTask? id engEDGE 0x22 with
  | none => s
  | some t =>
    let st := s.tableOpenCheck t
    let d := parseTable (s.readAddr (fieldLe t.args 8 8) 64)
    if st ≠ stOK ∨ d.width = 0 then s.applyResult t { status := st }
    else
      let x : OpenTable :=
        { table := d.table, job := t.job, edge := d.edge, format := d.format, width := d.width, region0 := d.region0,
          region1 := d.region1, grad := d.grad, edgeRows := d.edgeRows, live := fieldLe t.args 0x10 2, retained := none,
          replica := none, swapTask := none, refreshes := [] }
      ({ s with tables := s.tables ++ [x] }).applyResult t {}

/-- TABLE_OPEN (R132). -/
def execTableOpen (id : TaskId) (s : State) : Host.Outcome State Fault Refusal := perform (.tableOpen id) (s.tableOpen id)

/-! ### TABLE_SWAP (R146) -/

/-- TABLE_SWAP's checks: the table is open and the job's, and the new epoch follows the live one. -/
def State.tableSwapCheck (s : State) (t : Task) : Nat :=
  match s.openTable? (bits (fieldLe t.args 2 2) 11 0) with
  | none => stFORMAT
  | some x => firstFailure [failIf (decide (x.job ≠ t.job)) stACCESS,
      failIf (decide (fieldLe t.args 4 2 ≠ (x.live + 1) % 65536)) stEPOCH_STALE]

/-- TABLE_SWAP: once no epoch is retained, the new epoch becomes live and the old one is retained; the task finishes when
the swap completes. -/
def State.tableSwap (s : State) (id : TaskId) : State :=
  match s.runningTask? id engEDGE 0x23 with
  | none => s
  | some t =>
    match s.openTable? (bits (fieldLe t.args 2 2) 11 0) with
    | none => s.applyResult t { status := stFORMAT }
    | some x =>
      if x.swapTask = some id then s
      else if s.tableSwapCheck t ≠ stOK then s.applyResult t { status := s.tableSwapCheck t }
      else if x.retained.isSome then s
      else s.setTable { x with live := fieldLe t.args 4 2, retained := some x.live, swapTask := some id }

/-- TABLE_SWAP (R146). -/
def execTableSwap (id : TaskId) (s : State) : Host.Outcome State Fault Refusal := perform (.tableSwap id) (s.tableSwap id)

/-- A dispatched LOOKUP or TABLE_REFRESH of a table and an epoch that is still live. -/
def Task.readsEpoch (t : Task) (table epoch : Nat) : Bool :=
  decide (t.desc.engine = engEDGE) && t.live && decide (t.args ≠ []) &&
    (fieldLe t.args 0 1 == 0x20 || fieldLe t.args 0 1 == 0x24) && decide (bits (fieldLe t.args 2 2) 11 0 = table) &&
    decide (fieldLe t.args 4 2 = epoch)

/-- SWAP_COMPLETE: no reader of the retained epoch remains; it is released, and the swap's task finishes. -/
def State.swapComplete (s : State) (table : Nat) : State :=
  match s.openTable? table with
  | none => s
  | some x =>
    match x.retained with
    | none => s
    | some e =>
      if s.tasks.any (fun t => t.readsEpoch table e) then s
      else
        let s1 := s.setTable { x with retained := none, swapTask := none }
        match x.swapTask.bind s1.task? with
        | some t => if t.phase = .running then s1.applyResult t {} else s1
        | none => s1

/-- SWAP_COMPLETE (R146). -/
def execSwapComplete (table : Nat) (s : State) : Host.Outcome State Fault Refusal :=
  perform (.swapComplete table) (s.swapComplete table)

/-! ### TABLE_REFRESH (R145) -/

/-- A TABLE_REFRESH argument block. -/
structure RefreshArgs where
  all : Bool
  table : Nat
  epoch : Nat
  count : Nat
  rows : Nat
  stats : Nat
deriving DecidableEq, Repr

/-- A TABLE_REFRESH argument block from its bytes. -/
def parseRefresh (b : List Byte) : RefreshArgs :=
  { all := bit (fieldLe b 1 1) 0, table := bits (fieldLe b 2 2) 11 0, epoch := fieldLe b 4 2, count := fieldLe b 8 4,
    rows := fieldLe b 0x10 8, stats := fieldLe b 0x38 8 }

/-- Nothing to refresh. -/
def RefreshArgs.empty (a : RefreshArgs) : Bool := !a.all && decide (a.count = 0)

/-- The ranges of a refresh. -/
def RefreshArgs.ranges (a : RefreshArgs) : List Range :=
  [{ addr := a.rows, len := if a.all then 0 else 8 * a.count, read := true }, statsRange a.stats]

/-- TABLE_REFRESH's checks: FORMAT, ACCESS, BOUND, EPOCH_STALE (R145). -/
def State.refreshCheck (s : State) (t : Task) : Nat :=
  let a := parseRefresh t.args
  if a.empty then stOK
  else match s.openTable? a.table with
    | none => stFORMAT
    | some x => firstFailure
        [failIf ((!a.all && !addrForm a.rows 1 [0, 1]) || decide (a.stats % 64 ≠ 0)) stFORMAT,
         firstFailure (a.ranges.map rangeFormat), failIf (decide (x.job ≠ t.job)) stACCESS, s.vetRanges t.job a.ranges [],
         failIf (!x.epochOpen a.epoch) stEPOCH_STALE]

/-- A dispatched refresh of a table that has not completed. -/
def Task.refreshing (t : Task) (table : Nat) : Bool :=
  decide (t.desc.engine = engEDGE) && (decide (t.phase = .running) || decide (t.phase = .finished)) &&
    decide (fieldLe t.args 0 1 = 0x24) && decide ((parseRefresh t.args).table = table)

/-- At a refresh's dispatch the table's replica epoch is no longer valid, and it takes its turn among the table's refreshes
(R145). -/
def State.refreshBegins (s : State) (t : Task) : State :=
  let a := parseRefresh t.args
  match s.openTable? a.table with
  | some x =>
    if a.empty then s
    else s.setTable { x with
      replica := none,
      refreshes := (x.refreshes.filter (fun i => decide (i ≠ t.id) && (s.task? i).any (fun u => u.refreshing a.table))) ++ [t.id] }
  | none => s

/-- A refresh of the same table that was dispatched before has not completed (R145). -/
def State.refreshWaits (s : State) (t : Task) : Bool :=
  let table := (parseRefresh t.args).table
  match s.openTable? table with
  | some x => (x.refreshes.takeWhile (fun i => decide (i ≠ t.id))).any (fun i => (s.task? i).any (fun u => u.refreshing table))
  | none => false

/-- Where a row of an open table lies on its owner (R127). -/
def State.ownerAddr (c : TableCtx) (r : Nat) : Option Nat :=
  (c.map.owner? r).map (fun o => globalAddr o 0 (c.table.region c.epoch + c.map.localIndex r o * c.stride))

/-- TABLE_REFRESH's run: each hot row is copied whole from its owner; rows that are not hot are counted and skipped. -/
def State.refreshRun (s : State) (supplied replies : List RemoteReply) (t : Task) : Result :=
  let a := parseRefresh t.args
  let w := t.rowTraffic supplied replies
  match s.openTable? a.table with
  | none => if a.empty then {} else { status := stFORMAT }
  | some x =>
    if a.empty then {}
    else
      let c := s.tableCtx t w.answers x a.epoch true
      let rk := s.key a.rows
      let listed := if a.all then (if x.edge then [] else s.hotRowsOf a.table)
        else (List.range a.count).map (fun i => bits (s.indexAt rk true i) 47 0)
      let hot := if x.edge then [] else listed.filterMap (fun r =>
        match s.replicaKey? a.table r, State.ownerAddr c r with
        | some k, some o => some (k, if addrNode o = c.own then RowSource.here o else .remote o false)
        | _, _ => none)
      let (rows, y) := s.fetchRows c c.stride (hot.map (·.2)) {}
      let range_ := listed.length - hot.length
      let st := w.count c.stride (hot.map (·.2)) [] { indices := listed.length, indexRange := range_ }
      let n : EdgeCount := { edges := listed.length, indexRange := range_ }
      let idxTaint := if a.all then none else s.taint rk (8 * a.count)
      { status := y.status, missing := y.missing,
        ops := (if y.status = stOK then
          (hot.zip rows).flatMap (fun p => markedWrite p.1.1 p.2.bytes ++ (if idxTaint.isSome then [.poison p.1.1 c.stride] else []))
          else []) ++ s.statsOps a.stats st idxTaint.isSome,
        bumps := n.bumps t.runTile, poisonAt := firstTaint [idxTaint, firstTaint (rows.map FetchedRow.taint)] }

/-- TABLE_REFRESH as an engine step. -/
def State.refreshStep (s : State) (id : TaskId) (remote : List RemoteReply) : State :=
  match s.runningTask? id engEDGE 0x24 with
  | some t =>
    if s.refreshWaits t then s
    else s.applyFetched t (t.runTile / 8) (s.refreshRun remote (s.repliesFor id) t)
  | none => s

/-- TABLE_REFRESH (R145). -/
def execTableRefresh (id : TaskId) (remote : List RemoteReply) (s : State) : Host.Outcome State Fault Refusal :=
  perform (.tableRefresh id remote) (s.refreshStep id remote)

/-- The statistics record of a LOOKUP, PUSH or TABLE_REFRESH that fails at dispatch: zeros, where its address may be
written (R139). -/
def State.failedStats (s : State) (t : Task) : List MemOp :=
  let op := fieldLe t.args 0 1
  let addr := fieldLe t.args 0x38 8
  let r := statsRange addr
  if (op = 0x20 ∨ op = 0x21 ∨ op = 0x24) ∧ addr ≠ 0 ∧ addr % 64 = 0 ∧ s.vetRanges t.job [r] [] = stOK then
    s.statsOps addr {} false
  else []

/-- What a dispatched LOOKUP or PUSH reads by lists of its own; the rows of a table are outside R177, which R137 settles. -/
def State.tableIns (s : State) (t : Task) : List (Nat × Nat) :=
  let a := parseLookup t.args
  if fieldLe t.args 0 1 ≠ 0x20 ∨ a.empty then []
  else s.rangeKeys ((lookupRanges a 0 0).filter (·.read))

/-- What a dispatched LOOKUP or PUSH may write besides its statistics record (R73). -/
def State.tableOuts (s : State) (t : Task) : List (Nat × Nat) :=
  let a := parseLookup t.args
  let op := fieldLe t.args 0 1
  if op = 0x20 ∧ !a.empty then
    match s.openTable? a.table with
    | some x => [(s.key a.out, (lookupOut a x.width (s.tableStride a.table)).len)]
    | none => []
  else if op = 0x21 ∧ a.count ≠ 0 then [(s.key (fieldLe t.args 0x20 8), fieldLe t.args 0x28 4)]
  else []

end Sys2Proof.Machine
end

