-- ==== Sys2Proof/Machine/Push.lean ====
section
/-!
DEFINITION. PUSH (R142, R143, R302): row gradients summed exactly by row and sent to their owners as exact contributions.
-/

namespace Sys2Proof.Machine

/-- A PUSH argument block. -/
structure PushArgs where
  idx64 : Bool
  gradF : Nat
  table : Nat
  count : Nat
  idx : Nat
  grads : Nat
  scratch : Nat
  scratchBytes : Nat
  step : Nat
  stats : Nat
deriving DecidableEq, Repr

/-- A PUSH argument block from its bytes. -/
def parsePush (b : List Byte) : PushArgs :=
  let b1 := fieldLe b 1 1
  { idx64 := bit b1 4, gradF := bits b1 3 0, table := bits (fieldLe b 2 2) 11 0, count := fieldLe b 8 4, idx := fieldLe b 0x10 8,
    grads := fieldLe b 0x18 8, scratch := fieldLe b 0x20 8, scratchBytes := fieldLe b 0x28 4, step := fieldLe b 0x30 4,
    stats := fieldLe b 0x38 8 }

/-- Bytes between gradient rows. -/
def PushArgs.stride (a : PushArgs) (width : Nat) : Nat := roundUp (width * (fmtBits a.gradF / 8)) 64

/-- The gradient stride of a table: an FP32 row in whole 64-byte blocks (R323). -/
def gradStride (width : Nat) : Nat := roundUp (4 * width) 64

/-- The ranges of a PUSH. -/
def PushArgs.ranges (a : PushArgs) (width : Nat) : List Range :=
  [{ addr := a.idx, len := a.count * indexBytes a.idx64, read := true },
    { addr := a.grads, len := a.count * a.stride width, read := true },
    { addr := a.scratch, len := a.scratchBytes, read := true, write := true }, statsRange a.stats]

/-- PUSH's checks, in the order FORMAT, ACCESS, BOUND (R142). -/
def State.pushCheck (s : State) (t : Task) : Nat :=
  let a := parsePush t.args
  if 2 ≤ a.gradF ∨ t.desc.spec then stFORMAT
  else if a.count = 0 then stOK
  else match s.openTable? a.table with
    | none => stFORMAT
    | some x =>
      let rs := a.ranges x.width
      firstFailure
        [failIf ((x.edge && !a.idx64) || !addrForm a.idx 1 [0, 1] || !addrForm a.scratch 64 [0, 1] ||
          decide (a.stats % 64 ≠ 0)) stFORMAT,
         firstFailure (rs.map rangeFormat), failIf (decide (x.job ≠ t.job)) stACCESS,
         s.vetRanges t.job rs [(16 * a.count, a.scratchBytes)]]

/-- The owner and the local index of a row; none where the index is out of range (R127, R129, R135). -/
def State.pushTarget (s : State) (c : TableCtx) (x : Nat) : Option (Nat × Nat) :=
  if c.table.edge then
    if s.nodeExists (bits x 63 48) && decide (bits x 47 0 < c.table.edgeRows) then some (bits x 63 48, bits x 47 0) else none
  else
    let r := if c.idx64 then bits x 47 0 else bits x 31 0
    (c.map.owner? r).map (fun o => (o, c.map.localIndex r o))

/-- A gradient element as a cell image (R299); a poisoned one poisons its cell and adds nothing. -/
def gradCell (f code : Nat) (poison : Bool) : ExactCell :=
  if poison then { ExactCell.zero with poison := true }
  else match decodeElem f code with
    | .nan => { ExactCell.zero with nan := true }
    | .inf n => { ExactCell.zero with posInf := !n, negInf := n }
    | v => { ExactCell.zero with s := v.cellInt }

/-- The sum of cell images. -/
def ExactCell.sum (l : List ExactCell) : ExactCell :=
  l.foldl (fun c e => { c.add e with poison := c.poison || e.poison }) ExactCell.zero

/-- An entry of the index list with its gradient row as cell images. -/
structure PushRow where
  target : Nat × Nat
  cells : List ExactCell
  taint : Option Nat
deriving DecidableEq, Repr

/-- Entry i of a PUSH, if its index is in range. -/
def State.pushRow (s : State) (c : TableCtx) (a : PushArgs) (width i : Nat) : Option PushRow :=
  let ik := s.key a.idx + i * indexBytes a.idx64
  let gk := s.key a.grads + i * a.stride width
  let size := fmtBits a.gradF / 8
  let bad := s.taint ik (indexBytes a.idx64)
  (s.pushTarget c (leNat (s.mem.readN ik (indexBytes a.idx64)))).map (fun g =>
    ⟨g, (List.range width).map (fun j =>
        gradCell a.gradF (leNat (s.mem.readN (gk + j * size) size)) (bad.isSome || s.mem.poisoned (gk + j * size) size)),
      firstTaint [bad, s.taint gk (width * size)]⟩)

/-- Whether a sum equals an FP32 value or is not finite (R302). -/
def ExactCell.isFp32 (c : ExactCell) : Bool :=
  !c.value.isFinite || decide ((ofFp32 (toFp32 c.value)).cellInt = c.s)

/-- Columns of a row cut at 4 KiB result blocks and at the elements a packet holds: first column and count. -/
def cutColumns (most : Nat) : Nat → Nat → Nat → Nat → List (Nat × Nat)
  | 0, _, _, _ => []
  | fuel + 1, off, col, n =>
    if n = 0 then []
    else
      let m := Nat.min (Nat.min most ((4096 - off % 4096) / 4)) n
      (col, m) :: cutColumns most fuel (off + 4 * m) (col + m) (n - m)

/-- The bytes of an element of a contribution. -/
def ExactCell.encode (enc : Nat) (c : ExactCell) : List Byte :=
  if enc = 0 then leBytes 4 (toFp32 c.value) else { c with poison := false, invalid := false }.bytes

/-- The packets of one distinct row: FP32 where every element allows it, else X320 (R302, R303). -/
def PushArgs.packets (a : PushArgs) (c : TableCtx) (target : Nat × Nat) (row : List ExactCell) : List Packet :=
  let enc := if row.all ExactCell.isFp32 then 0 else 1
  let off := c.table.grad + target.2 * gradStride row.length
  (cutColumns (if enc = 0 then 1024 else 102) (row.length + 1) off 0 row.length).map (fun p =>
    let cells := (row.drop p.1).take p.2
    let data := cells.flatMap (ExactCell.encode enc)
    let addr := globalAddr target.1 0 (off + 4 * p.1)
    let dirty := (cells.zipIdx.filter (fun e => e.1.poison)).flatMap (fun e => blocksOf (encBytes enc * e.2) (encBytes enc))
    { Packet.blank with
      dst := target.1, jobId := c.job, op := pktEXACT_ACC, tc := 6, addr := addr, length := data.length,
      contribId := a.step * 2 ^ 32 + c.own, poisonMap := sumNat (dirty.eraseDups.map (2 ^ ·)), arg0 := enc,
      arg1 := csum addr (elementsOf enc data), payload := data })

/-- PUSH (R143): the counters and scratch are written as the contributions leave; the task finishes with their responses, and then
writes its statistics record (R139). -/
def State.pushRun (s : State) (t : Task) : State :=
  let a := parsePush t.args
  if a.count = 0 then s.applyResult t {}
  else match s.openTable? a.table with
    | none => s.applyResult t { status := stFORMAT }
    | some x =>
      let c := s.tableCtx t [] x 0 a.idx64
      let rows := (List.range a.count).filterMap (s.pushRow c a x.width)
      let targets := (rows.map (·.target)).eraseDups
      let packets := targets.flatMap (fun g =>
        let mine := rows.filter (fun r => decide (r.target = g))
        a.packets c g ((List.range x.width).map (fun j => ExactCell.sum (mine.map (fun r => r.cells.getD j ExactCell.zero)))))
      let range_ := a.count - rows.length
      let n : EdgeCount := { edges := a.count, indexRange := range_, contrib := rows.length * x.width }
      let st : TableStats :=
        { indices := a.count, indexRange := range_, contributions := packets.length, distinctRows := targets.length }
      let s1 := { s with free := s.free + 1 }.memOps
        [.undefinedBytes (s.key a.scratch) a.scratchBytes s.free]
      let dirty := s.mem.poisoned (s.key a.idx) (a.count * indexBytes a.idx64)
      let s2 := (s1.bumps (n.bumps t.runTile)).setTask
        { t with poisonAt := firstTaint (rows.map (·.taint)), statsRecord := st.bytes.map (fun b => (b, dirty)) }
      s2.queueRequests t.id (ioOfDie (t.runTile / 8)) packets

/-- PUSH starts once. -/
def State.pushStep (s : State) (id : TaskId) : State :=
  match s.runningTask? id engEDGE 0x21 with
  | some t => if s.requestsOf id = [] ∧ s.fabric.waiting.all (fun w => !decide (w.1 = id)) then s.pushRun t else s
  | none => s

/-- PUSH (R143). -/
def execPush (id : TaskId) (s : State) : Host.Outcome State Fault Refusal := perform (.push id) (s.pushStep id)

end Sys2Proof.Machine
end

