-- ==== Sys2Proof/Machine/Sampling.lean ====
section
/-!
DEFINITION. The Sounding engine (05): the SAMPLE argument block and its checks, the sampling algorithm, and message-flow
blocks.
-/

namespace Sys2Proof.Machine

/-! ### The argument block (R108, R109, R111) -/

/-- A hop descriptor. -/
structure Hop where
  fanout : Nat
  allTime : Bool
  full : Bool
  mode : Nat
  maxEdges : Nat
  maxNodes : Nat
  mfb : Nat
  bound : Nat
  window : Nat
deriving DecidableEq, Repr

/-- A SAMPLE argument block. -/
structure SampleArgs where
  hopCount : Nat
  graph : Nat
  seedCount : Nat
  seeds : Nat
  shard : Nat
  step : Nat
  spill : Nat
  spillBytes : Nat
  hops : List Hop
deriving DecidableEq, Repr

/-- Hop descriptor at a byte offset. -/
def parseHop (b : List Byte) (o : Nat) : Hop :=
  let m := fieldLe b (o + 2) 1
  { fanout := fieldLe b o 2, allTime := bit m 5, full := bit m 4, mode := bits m 3 0, maxEdges := fieldLe b (o + 4) 4,
    maxNodes := fieldLe b (o + 8) 4, mfb := fieldLe b (o + 0x10) 8, bound := fieldLe b (o + 0x18) 8,
    window := fieldLe b (o + 0x20) 8 }

/-- A SAMPLE argument block from its bytes. -/
def parseSample (b : List Byte) : SampleArgs :=
  let n := fieldLe b 0 1
  { hopCount := n, graph := fieldLe b 1 1, seedCount := fieldLe b 4 4, seeds := fieldLe b 8 8, shard := fieldLe b 0x10 8,
    step := fieldLe b 0x18 4, spill := fieldLe b 0x20 8, spillBytes := fieldLe b 0x28 8,
    hops := (List.range (Nat.min n 8)).map (fun k => parseHop b (64 * (k + 1))) }

/-- The hop draws by time. -/
def Hop.temporal (h : Hop) : Bool := h.mode == 3 || h.mode == 4

/-- Any hop is temporal (the flag T of R112). -/
def SampleArgs.temporal (a : SampleArgs) : Bool := a.hops.any Hop.temporal

/-- Each hop with its destination capacity (R112). -/
def SampleArgs.hopsWithD (a : SampleArgs) : List (Hop × Nat) :=
  a.hops.zip (a.seedCount :: a.hops.map (·.maxNodes))

/-- The sizes of a block's arrays in order, after the 64-byte header (R112). -/
def blockArrays (d n e : Nat) (t : Bool) : List Nat :=
  [8 * n, 4 * (d + 1), 4 * e, 8 * e, 4 * (n + 1), 4 * e, 4 * d].map (roundUp · 64) ++
    (if t then [roundUp (8 * n) 64, roundUp (8 * e) 64] else [])

/-- The required size of a block (R112). -/
def blockRequired (d n e : Nat) (t : Bool) : Nat := 64 + sumNat (blockArrays d n e t)

/-- Keys that the on-die hash holds (R123). -/
def hashKeys : Nat := 262144

/-- The spill requirement (R123). -/
def SampleArgs.spillNeed (a : SampleArgs) : Nat := 32 * (((a.hops.getLast?).map (·.maxNodes)).getD 0 - hashKeys)

/-- A shard header (R104). -/
structure Shard where
  magic : Nat
  graph : Nat
  hasIndex : Bool
  hasTime : Bool
  hasWeight : Bool
  offsets : Nat
  nbrs : Nat
  cum : Nat
  times : Nat
  index : Nat
deriving DecidableEq, Repr

/-- A shard header from its 64 bytes. -/
def parseShard (b : List Byte) : Shard :=
  let f := fieldLe b 5 1
  let off := fun o => bits (fieldLe b o 8) 44 0
  { magic := fieldLe b 0 4, graph := fieldLe b 4 1, hasIndex := bit f 2, hasTime := bit f 1, hasWeight := bit f 0,
    offsets := off 8, nbrs := off 0x10, cum := off 0x18, times := off 0x20, index := off 0x28 }

/-- The bytes of a SAMPLE argument block with a hop count (R54, R108). -/
def sampleArgBytes (hopCount : Nat) : Nat := 64 * (1 + hopCount)

/-- R111's checks at dispatch. -/
def State.sampleCheck (s : State) (t : Task) : Nat :=
  let a := parseSample t.args
  let bad := decide (8 < a.hopCount) || (s.partMap? a.graph).isNone || a.hops.any (fun h => decide (5 ≤ h.mode))
  if bad then stFORMAT
  else if a.seedCount = 0 ∨ a.hopCount = 0 then
    failIf (a.hopsWithD.any (fun p => decide (p.1.maxNodes < p.2))) stFORMAT
  else
    let seeds : Range := { addr := a.seeds, len := a.seedCount * 16, read := true }
    let shard : Range := { addr := a.shard, len := 64, read := true }
    let spill : Range := { addr := a.spill, len := a.spillBytes, read := true, write := true }
    let mfbs : List Range := a.hopsWithD.map (fun p =>
      { addr := p.1.mfb, len := blockRequired p.2 p.1.maxNodes p.1.maxEdges a.temporal, write := true })
    let h := parseShard (s.readAddr a.shard 64)
    firstFailure (
      [failIf (a.hopsWithD.any (fun p => decide (p.1.maxNodes < p.2))) stFORMAT,
       failIf (!addrForm a.seeds 16 [0, 1] || !addrForm a.shard 64 [0] ||
         (decide (a.spillBytes ≠ 0) && !addrForm a.spill 64 [0]) ||
         a.hops.any (fun x => !addrForm x.mfb 64 [0, 1])) stFORMAT] ++
      ([seeds, shard, spill] ++ mfbs).map (s.rangeAccess t.job) ++
      [s.rangeBound t.job seeds,
       failIf ((a.hopsWithD.zip mfbs).any (fun p => decide (p.1.1.bound < p.2.len))) stBOUND] ++
      mfbs.map (s.rangeBound t.job) ++
      [failIf (decide (a.spillBytes < a.spillNeed)) stBOUND, s.rangeBound t.job spill, s.rangeBound t.job shard,
       failIf (s.poisonedAt a.shard 64) stPARITY,
       failIf (decide (h.magic ≠ 0x4A444151) || decide (h.graph ≠ a.graph) ||
         (a.hops.any (fun x => decide (x.mode = 2)) && !h.hasWeight) || (a.temporal && !h.hasTime)) stFORMAT])

/-- The memory a SAMPLE task may write (R103). -/
def State.sampleOuts (s : State) (t : Task) : List (Nat × Nat) :=
  let a := parseSample t.args
  if a.seedCount = 0 ∨ a.hopCount = 0 then []
  else a.hopsWithD.map (fun p => (s.key p.1.mfb, blockRequired p.2 p.1.maxNodes p.1.maxEdges a.temporal)) ++
    (if a.spillBytes = 0 then [] else [(s.key a.spill, a.spillBytes)])

/-! ### Draws and choice (R115, R116) -/

/-- 64-bit draw i of destination v at hop h (R115). -/
def sampleDraw (seed step v h i : Nat) : Nat :=
  let w := philox (seed % 2 ^ 32) (bits seed 63 32)
    [v % 2 ^ 32, Nat.lor (Nat.lor (bits v 47 32) (h * 2 ^ 16)) (0x53 * 2 ^ 24), step, i / 2]
  if i % 2 = 0 then w.getD 1 0 * 2 ^ 32 + w.getD 0 0 else w.getD 3 0 * 2 ^ 32 + w.getD 2 0

/-- mulhi of R115. -/
def mulhi (r m : Nat) : Nat := r * m / 2 ^ 64

/-- What sampling reads with: the task's job and mode, answers the command carries, the answers to the task's gets, the shard,
the map, the seed and the step. -/
structure SampleCtx where
  job : Nat
  spec : Bool
  supplied : List RemoteReply
  replies : List RemoteReply
  shard : Shard
  map : OwnerMap
  seed : Nat
  step : Nat
  own : Nat
deriving DecidableEq, Repr

/-- The status of the answer to a get that follows n gets of the same address; none while it is missing. -/
def SampleCtx.answered (c : SampleCtx) (p : Nat × Nat) (n : Nat) : Option Nat :=
  match remoteAnswer c.supplied p.1 p.2 with
  | some (st, _) => some st
  | none => ((c.replies.filter (fun r => decide (r.addr = p.1)))[n]?).map (·.status)

/-- One get of a range: its failing status, or the range noted as missing. A get that the command brings the answer of is
counted here with its bytes; the others are counted as they are issued and answered. -/
def Access.getPiece (c : SampleCtx) (x : Access) (p : Nat × Nat) : Access :=
  let brought := (remoteAnswer c.supplied p.1 p.2).isSome
  let y := { x with gets := x.gets + flag brought, asked := x.asked ++ [p.1] }
  match c.answered p (x.asked.filter (fun a => decide (a = p.1))).length with
  | none => { y with missing := y.missing ++ [p] }
  | some st => if st = stOK then { y with bytes := y.bytes + (if brought then p.2 else 0) } else y.fail c.spec st

/-- The gets that bring n bytes at an HBM offset of an owner: one for the 16 bytes of two offsets, else pieces of up to 4,096
bytes, cut at the 4 KiB boundaries of the address (R119, log entry 13); bytes beyond HBM fail with ACCESS (R106). -/
def State.sampleGets (s : State) (c : SampleCtx) (owner : Nat) (x : Access) (p : Nat × Nat) : Access :=
  if owner = c.own ∨ p.2 = 0 then x
  else if hbmEnd < p.1 + p.2 ∨ s.nodeExists owner = false then x.fail c.spec stACCESS
  else if p.2 ≤ 16 then x.getPiece c (globalAddr owner 0 p.1, p.2)
  else (cutRange (p.2 / 4096 + 2) (globalAddr owner 0 p.1) p.2).foldl (Access.getPiece c) x

/-- The gets of one stage of a destination, which go out together (R119). While an answer of an earlier stage is missing, or
once the task has failed, nothing more is fetched. -/
def State.sampleStage (s : State) (c : SampleCtx) (owner : Nat) (l : List (Nat × Nat)) (x : Access) : Access :=
  if x.status ≠ stOK ∨ x.missing ≠ [] then x else
    l.foldl (s.sampleGets c owner) x

/-- An 8-byte entry of an array of an owner; an entry beyond HBM fails with ACCESS (R106). On another module the entry comes
from a get of its stage, which has already met what fails. -/
def State.sampleEntry (s : State) (c : SampleCtx) (owner base pos : Nat) (x : Access) : Nat × Access :=
  let a := globalAddr owner 0 (base + 8 * pos)
  if hbmEnd < base + 8 * pos + 8 then (0, if owner = c.own then x.fail c.spec stACCESS else x)
  else if owner = c.own then s.fetchValue c.job c.spec [] a 8 x
  else
    match remoteAnswer (c.supplied ++ c.replies.reverse) a 8 with
    | some (st, d) => if st = stOK ∧ x.status = stOK then x.take c.spec a d else (0, x)
    | none => (0, x)

/-- lower_bound of R115 over entries of an array of an owner, with enough fuel for 48-bit positions. -/
def State.lowerBound (s : State) (c : SampleCtx) (owner base : Nat) (target : Nat) : Nat → Nat → Nat → Access → Nat × Access
  | 0, lo, _, x => (lo, x)
  | fuel + 1, lo, hi, x =>
    if lo < hi then
      let mid := (lo + hi) / 2
      let (v, x1) := s.sampleEntry c owner base mid x
      if v < target then s.lowerBound c owner base target fuel (mid + 1) hi x1
      else s.lowerBound c owner base target fuel lo mid x1
    else (lo, x)

/-- A destination's list: its owner, start and degree (R105, R107). -/
def State.sampleList (s : State) (c : SampleCtx) (owner v : Nat) (x : Access) : Nat × Nat × Access :=
  if owner ≠ c.own ∧ c.shard.hasIndex then
    let (st, x1) := s.sampleEntry c c.own (c.shard.index + 16 * v) 0 x
    let (dg, x2) := s.sampleEntry c c.own (c.shard.index + 16 * v) 1 x1
    (bits st 47 0, bits dg 47 0, x2)
  else
    let l := c.map.localIndex v owner
    let x0 := s.sampleStage c owner [(c.shard.offsets + 8 * l, 16)] x
    let (p, x1) := s.sampleEntry c owner c.shard.offsets l x0
    let (q, x2) := s.sampleEntry c owner c.shard.offsets (l + 1) x1
    (bits p 47 0, bits q 47 0 - bits p 47 0, x2)

/-- Floyd selection (R116): positions kept so far, and the draw index. -/
def floyd (draw : Nat → Nat) : List Nat → Nat → List Nat → List Nat
  | [], _, kept => kept
  | j :: r, i, kept =>
    let x := mulhi (draw i) (j + 1)
    floyd draw r (i + 1) (if kept.contains x then insertNat j kept else insertNat x kept)

/-- choose of R116: the chosen positions relative to the list's start, and the candidate count. -/
def State.sampleChoose (s : State) (c : SampleCtx) (hop : Hop) (h owner v t start deg : Nat) (x : Access) :
    List Nat × Nat × Access :=
  let draw := sampleDraw c.seed c.step v h
  let times := c.shard.times
  let whole := fun base => (base + 8 * start, 8 * deg)
  let x0 := s.sampleStage c owner ((if hop.temporal then [whole times] else []) ++
    (if hop.mode = 2 ∧ hop.full = false then [whole c.shard.cum] else [])) x
  let (lo, hi, x1) :=
    if hop.temporal then
      let (a, y) := if hop.allTime then (start, x0)
        else s.lowerBound c owner times (t - hop.window) 50 start (start + deg) x0
      let (b, z) := s.lowerBound c owner times t 50 start (start + deg) y
      let lo := a - start
      let hi := b - start
      (lo, if hop.window = 0 ∧ hop.allTime = false then lo else hi, z)
    else (0, deg, x0)
  let n := hi - lo
  let span := (List.range n).map (· + lo)
  if hop.full || ((hop.mode == 0 || hop.mode == 4) && decide (n ≤ hop.fanout)) then (span, n, x1)
  else if hop.mode = 0 ∨ hop.mode = 4 then
    let js := (List.range hop.fanout).map (· + (n - hop.fanout))
    ((floyd draw js 0 []).map (· + lo), n, x1)
  else if hop.mode = 1 then
    (if n = 0 then [] else (List.range hop.fanout).map (fun i => mulhi (draw i) n), n, x1)
  else if hop.mode = 2 then
    let (w, x3) := if deg = 0 then (0, x1) else s.sampleEntry c owner c.shard.cum (start + deg - 1) x1
    if w = 0 then ([], n, x3)
    else
      let r := (List.range hop.fanout).foldl (fun (acc : List Nat × Access) i =>
        let (p, y) := s.lowerBound c owner c.shard.cum (mulhi (draw i) w + 1) 50 start (start + deg) acc.2
        (acc.1 ++ [p - start], y)) ([], x3)
      (r.1, n, r.2)
  else
    let first := Nat.max lo (hi - hop.fanout)
    ((List.range (hi - first)).map (· + first), n, x1)

/-- Rising blocks as ranges of contiguous ones: first block and count. -/
def blockRuns : List Nat → List (Nat × Nat)
  | [] => []
  | b :: r =>
    match blockRuns r with
    | [] => [(b, 1)]
    | (c, n) :: l => if c = b + 1 then (b, n + 1) :: l else (b, 1) :: (c, n) :: l

/-- The ranges to get for chosen entries of a nbrs array: the 64-byte blocks that hold them, contiguous ones together
(R119). -/
def nbrRanges (base : Nat) (positions : List Nat) : List (Nat × Nat) :=
  let blocks := positions.foldl (fun l p => insertNat ((base + 8 * p) / 64) (insertNat ((base + 8 * p + 7) / 64) l)) []
  (blockRuns blocks).map (fun r => (64 * r.1, 64 * r.2))

/-! ### Building a block (R117) -/

/-- An edge: its destination's local ID, its source's key, its position, its list's owner. -/
structure SampledEdge where
  dst : Nat
  key : Nat × Nat
  pos : Nat
  owner : Nat
deriving DecidableEq, Repr

/-- A hop being built. -/
structure HopState where
  nodes : List (Nat × Nat)
  edges : List SampledEdge
  degrees : List Nat
  cut : Bool
  capped : Nat
  dup : Nat
  range_ : Nat
  access : Access
  /-- Keys admitted before the first entry that is still missing. -/
  held : Nat
deriving DecidableEq, Repr

/-- The key of a node: node and time when T is 1, else the node alone. -/
def sampleKey (temporal : Bool) (u t : Nat) : Nat × Nat := if temporal then (u, t) else (u, 0)

/-- Whether a list of nodes holds a key. -/
def holdsKey (temporal : Bool) (l : List (Nat × Nat)) (k : Nat × Nat) : Bool :=
  l.any (fun x => decide (sampleKey temporal x.1 x.2 = k))

/-- The candidates of one destination, taken in order: new nodes (node, time), new edges, repeats and dropped entries. A
dropped neighbour's time is not read; a task that has failed goes no further (R117, log entry 13). -/
def State.sampleEdges (s : State) (c : SampleCtx) (temporal : Bool) (hop : Hop) (d owner start t : Nat)
    (known : List (Nat × Nat)) : List Nat → List (Nat × Nat) × List SampledEdge × Nat × Nat × Access →
    List (Nat × Nat) × List SampledEdge × Nat × Nat × Access
  | [], acc => acc
  | p :: r, (nodes, edges, dup, rng, x) =>
    let (u0, x1) := s.sampleEntry c owner c.shard.nbrs (start + p) x
    let u := bits u0 47 0
    if x1.status ≠ stOK then (nodes, edges, dup, rng, x1)
    else if c.map.count ≤ u then s.sampleEdges c temporal hop d owner start t known r (nodes, edges, dup, rng + 1, x1)
    else
      let (tu, x2) := if hop.temporal then s.sampleEntry c owner c.shard.times (start + p) x1 else (t, x1)
      let key := sampleKey temporal u tu
      let seen := holdsKey temporal known key || holdsKey temporal nodes key
      if x2.status ≠ stOK then (nodes, edges, dup, rng, x2)
      else s.sampleEdges c temporal hop d owner start t known r
        (if seen then nodes else nodes ++ [(u, tu)], edges ++ [⟨d, (u, tu), start + p, owner⟩], dup + flag seen, rng, x2)

/-- One destination of a hop (R117). -/
def State.sampleDst (s : State) (c : SampleCtx) (temporal : Bool) (hop : Hop) (h : Nat) (st : HopState)
    (dv : (Nat × Nat) × Nat) : HopState :=
  let (v, t) := dv.1
  if st.access.status ≠ stOK then st
  else if st.cut then { st with degrees := st.degrees ++ [0], capped := st.capped + 1 }
  else
    let owner := (c.map.owner? v).getD c.own
    let (start, deg, x1) := s.sampleList c owner v st.access
    let (cand, n, x2) := s.sampleChoose c hop h owner v t start deg x1
    let x0 := s.sampleStage c owner (nbrRanges c.shard.nbrs (cand.map (· + start))) x2
    let (nodes, edges, dup, rng, x3) :=
      s.sampleEdges c temporal hop dv.2 owner start t st.nodes cand ([], [], 0, 0, x0)
    let cut := decide (hop.maxNodes < st.nodes.length + nodes.length) ||
      decide (hop.maxEdges < st.edges.length + edges.length)
    let all := if cut then st.nodes else st.nodes ++ nodes
    { nodes := all, edges := if cut then st.edges else st.edges ++ edges, held := if x3.missing = [] then all.length else st.held,
      degrees := st.degrees ++ [Nat.min n (2 ^ 32 - 1)], cut := cut, capped := st.capped + flag cut,
      dup := if cut then st.dup else st.dup + dup, range_ := st.range_ + rng, access := x3 }

/-- One hop over the previous hop's nodes (R117). -/
def State.sampleHop (s : State) (c : SampleCtx) (temporal : Bool) (hop : Hop) (h : Nat) (prev : List (Nat × Nat))
    (x : Access) (held : Nat) : HopState :=
  prev.zipIdx.foldl (s.sampleDst c temporal hop h) ⟨prev, [], [], false, 0, 0, 0, x, held⟩

/-- The local ID of a key. -/
def localId (temporal : Bool) (nodes : List (Nat × Nat)) (k : Nat × Nat) : Nat :=
  nodes.findIdx (fun x => decide (sampleKey temporal x.1 x.2 = sampleKey temporal k.1 k.2))

/-- Running sums of a list, from 0. -/
def runningSums (l : List Nat) : List Nat := l.foldl (fun acc n => acc ++ [acc.getLastD 0 + n]) [0]

/-- The block of a hop: writes over a range whose other bytes are undefined (R113, R114). -/
def hopBlock (a : SampleArgs) (c : SampleCtx) (hop : Hop) (h d key draw : Nat) (prev : List (Nat × Nat)) (st : HopState) :
    List MemOp :=
  let t := a.temporal
  let sizes := blockArrays d hop.maxNodes hop.maxEdges t
  let required := 64 + sumNat sizes
  let starts := (runningSums sizes).map (· + 64)
  let ids := st.edges.map (fun e => localId t st.nodes e.key)
  let perDst := (List.range prev.length).map (fun i => (st.edges.filter (fun e => decide (e.dst = i))).length)
  let perSrc := (List.range st.nodes.length).map (fun i => (ids.filter (fun k => decide (k = i))).length)
  let order := (ids.zipIdx.mergeSort (fun p q => decide (p.1 < q.1) || (decide (p.1 = q.1) && decide (p.2 ≤ q.2)))).map (·.2)
  let nodeWord := fun (n : Nat × Nat) => leBytes 8 ((c.map.owner? n.1).getD 0 * 2 ^ 48 + n.1)
  let arrays : List (List Byte) :=
    [st.nodes.flatMap nodeWord, (runningSums perDst).flatMap (leBytes 4), ids.flatMap (leBytes 4),
     st.edges.flatMap (fun e => leBytes 8 (e.owner * 2 ^ 48 + e.pos % 2 ^ 48)), (runningSums perSrc).flatMap (leBytes 4),
     order.flatMap (leBytes 4), st.degrees.flatMap (leBytes 4)] ++
    (if t then [st.nodes.flatMap (fun n => leBytes 8 n.2), st.edges.flatMap (fun e => leBytes 8 e.key.2)] else [])
  let off := fun i => leBytes 4 (starts.getD i 0 / 64)
  let header := leBytes 4 0x42464D51 ++ leBytes 1 h ++ leBytes 1 a.graph ++
    leBytes 2 (2 * flag t + flag (decide (0 < st.capped))) ++ leBytes 4 prev.length ++ leBytes 4 st.nodes.length ++
    leBytes 4 st.edges.length ++ leBytes 4 st.capped ++ off 0 ++ off 1 ++ off 2 ++ off 3 ++ off 4 ++ off 5 ++ off 6 ++
    (if t then off 7 ++ off 8 else leBytes 8 0) ++ leBytes 4 (required / 64)
  [.undefinedBytes key required draw, .write key header] ++
    (arrays.zip starts).map (fun p => .write (key + p.2) p.1) ++
    (if st.access.poison.isSome then [.poison key required] else [])

/-- Hops built so far: previous nodes, memory effects, counts and the draw number. -/
structure SampleRun where
  prev : List (Nat × Nat)
  ops : List MemOp
  edges : Nat
  dup : Nat
  range_ : Nat
  capped : Nat
  cappedBlocks : Nat
  access : Access
  draws : Nat
  held : Nat
deriving DecidableEq, Repr

/-- Build the blocks of a list of hops with their destination capacities. A hop in which the task fails leaves what it has
counted; its edges are in no block (log entry 13). -/
def State.sampleHops (s : State) (a : SampleArgs) (c : SampleCtx) : List ((Hop × Nat) × Nat) → SampleRun → SampleRun
  | [], r => r
  | ((hop, d), i) :: rest, r =>
    let st := s.sampleHop c a.temporal hop (i + 1) r.prev r.access r.held
    s.sampleHops a c rest
      { prev := st.nodes, ops := r.ops ++ hopBlock a c hop (i + 1) d (s.key hop.mfb) (s.free + r.draws) r.prev st,
        edges := r.edges + (if st.access.status = stOK then st.edges.length else 0), held := st.held, dup := r.dup + st.dup, range_ := r.range_ + st.range_,
        capped := r.capped + st.capped, cappedBlocks := r.cappedBlocks + flag (decide (0 < st.capped)),
        access := st.access, draws := r.draws + 1 }

/-- The seeds that enter N_0 (R117): kept in order, repeats and nodes at or above node_count removed and counted. -/
def State.sampleSeeds (s : State) (a : SampleArgs) (c : SampleCtx) :
    List Nat → List (Nat × Nat) × Nat × Nat × Access → List (Nat × Nat) × Nat × Nat × Access
  | [], acc => acc
  | i :: r, (nodes, dup, rng, x) =>
    let (v0, x1) := s.fetchValue c.job c.spec c.replies (addrPlus a.seeds (16 * i)) 8 x
    let (t, x2) := s.fetchValue c.job c.spec c.replies (addrPlus a.seeds (16 * i + 8)) 8 x1
    let v := bits v0 47 0
    if x2.status ≠ stOK then (nodes, dup, rng, x2)
    else if c.map.count ≤ v then s.sampleSeeds a c r (nodes, dup, rng + 1, x2)
    else if holdsKey a.temporal nodes (sampleKey a.temporal v t) then s.sampleSeeds a c r (nodes, dup + 1, rng, x2)
    else s.sampleSeeds a c r (nodes ++ [(v, t)], dup, rng, x2)

/-- The hops of a SAMPLE task as far as the answers carry it (R117). -/
def State.sampleBuild (s : State) (supplied replies : List RemoteReply) (t : Task) (a : SampleArgs) : SampleRun :=
  let c : SampleCtx :=
    { job := t.job, spec := t.speculative, supplied := supplied, replies := replies, shard := parseShard (s.readAddr a.shard 64),
      map := (s.partMap? a.graph).getD ⟨0, 0, 0, 0, []⟩, seed := s.seed t.job, step := a.step, own := s.node?.getD 0 }
  let (seeds, dup, rng, x) := s.sampleSeeds a c (List.range a.seedCount) ([], 0, 0, {})
  s.sampleHops a c a.hopsWithD.zipIdx ⟨seeds, [], 0, dup, rng, 0, 0, x, 0, seeds.length⟩

/-- A SAMPLE task's run (R117 to R124). -/
def State.sampleRun (s : State) (supplied replies : List RemoteReply) (t : Task) : Result :=
  let a := parseSample t.args
  if a.seedCount = 0 ∨ a.hopCount = 0 then {}
  else
    let r := s.sampleBuild supplied replies t a
    let counts := [(Reg.SND_CNT_EDGES, r.edges), (Reg.SND_CNT_DUP_NODES, r.dup), (Reg.SND_CNT_INDEX_RANGE, r.range_),
      (Reg.SND_CNT_CAPPED, r.capped), (Reg.SND_CNT_REMOTE_GETS, r.access.gets), (Reg.SND_CNT_REMOTE_BYTES, r.access.bytes)]
    let spilled := r.prev.length - hashKeys
    let spillOps := if a.spillBytes = 0 then [] else [MemOp.undefinedBytes (s.key a.spill) a.spillBytes (s.free + r.draws)]
    if r.access.status ≠ stOK then
      { status := r.access.status, ops := undefinedOps (s.sampleOuts t) s.free, draws := (s.sampleOuts t).length,
        missing := r.access.missing, suppressed := r.access.suppressed, bumps := counts }
    else
      { ops := r.ops ++ spillOps, draws := r.draws + 1, missing := r.access.missing, suppressed := r.access.suppressed, poisonAt := r.access.poison,
        bumps := counts ++ [(Reg.SND_CNT_SPILL, spilled)],
        events := List.replicate r.cappedBlocks (Reg.SND_EVENT_capped, 0xFF, 0) ++
          (if spilled = 0 then [] else [(Reg.SND_EVENT_spill, 0xFF, 0)]) }

/-- The keys that a SAMPLE task holds in its die's node hash while it waits for answers, kept in the task's stage (R125, log
entry 13). -/
def State.sampleHeld (s : State) (supplied replies : List RemoteReply) (t : Task) : Nat :=
  let a := parseSample t.args
  if a.seedCount = 0 ∨ a.hopCount = 0 then 0 else Nat.min hashKeys (s.sampleBuild supplied replies t a).held

/-- The op byte of a SAMPLE block is its hop count: any value up to 8 names the one operation of the class. -/
def State.sampleStep (s : State) (id : TaskId) (remote : List RemoteReply) : State :=
  match s.task? id with
  | some t =>
    match s.runningTask? id engSAMPLE (fieldLe t.args 0 1) with
    | some u =>
      (s.setTask { u with stage := s.sampleHeld remote (s.repliesFor id) u }).applyRemote u u.desc.place
        (s.sampleRun remote (s.repliesFor id) u)
    | none => s
  | none => s

/-- SAMPLE (R117). -/
def execSample (id : TaskId) (remote : List RemoteReply) (s : State) : Host.Outcome State Fault Refusal :=
  perform (.sample id remote) (s.sampleStep id remote)

end Sys2Proof.Machine
end

