-- ==== Sys2Proof/Machine/Vector.lean ====
section
/-!
DEFINITION. The vector engine (11): the CHAIN block and its checks, operands as lanes read them, the stages, and the outputs.
-/

namespace Sys2Proof.Machine

/-! ### The argument block (R240) -/

/-- An operand descriptor. -/
structure VecOperand where
  addr : Nat
  stride : Nat
  bcast : Bool
  mode : Nat
  f : Nat
  scales : Nat
  blockBase : Nat
  reservedSet : Bool
deriving DecidableEq, Repr

/-- A stage descriptor, with its number. -/
structure VecStage where
  index : Nat
  fn : Nat
  dst : Nat
  a : Nat
  b : Nat
  c : Nat
  zeroing : Bool
  masked : Bool
  mask : Nat
  sr : Bool
  cvt : Nat
  reservedSet : Bool
deriving DecidableEq, Repr

/-- An output descriptor, with its number. -/
structure VecOutput where
  index : Nat
  addr : Nat
  stride : Nat
  kind : Nat
  f : Nat
  layout : Nat
  sr : Bool
  scaled : Bool
  src : Nat
  scales : Nat
  summary : Nat
  blockBase : Nat
  bound : Nat
  reservedSet : Bool
deriving DecidableEq, Repr

/-- A CHAIN argument block: its enabled descriptors. -/
structure ChainArgs where
  outMask : Nat
  rows : Nat
  width : Nat
  step : Nat
  tensorId : Nat
  imm : List Nat
  operands : List (Nat × VecOperand)
  stages : List VecStage
  outs : List VecOutput
  reservedSet : Bool
deriving DecidableEq, Repr

/-- Operand descriptor i. -/
def parseVecOperand (b : List Byte) (o : Nat) : VecOperand :=
  let x := fieldLe b (o + 0xC) 1
  { addr := fieldLe b o 8, stride := fieldLe b (o + 8) 4, bcast := bit x 6, mode := bits x 5 4, f := bits x 3 0,
    scales := fieldLe b (o + 0x10) 8, blockBase := fieldLe b (o + 0x18) 4,
    reservedSet := bit x 7 || decide (fieldLe b (o + 0xD) 3 ≠ 0) || decide (fieldLe b (o + 0x1C) 4 ≠ 0) }

/-- Stage descriptor s. -/
def parseVecStage (b : List Byte) (s o : Nat) : VecStage :=
  let m := fieldLe b (o + 5) 1
  let x := fieldLe b (o + 6) 1
  { index := s, fn := fieldLe b o 1, dst := bits (fieldLe b (o + 1) 1) 5 0, a := bits (fieldLe b (o + 2) 1) 5 0,
    b := bits (fieldLe b (o + 3) 1) 5 0, c := bits (fieldLe b (o + 4) 1) 5 0, zeroing := bit m 7, masked := bit m 6,
    mask := bits m 5 0, sr := bit x 4, cvt := bits x 3 0, reservedSet := decide (fieldLe b (o + 7) 1 ≠ 0) }

/-- Output descriptor i. -/
def parseVecOutput (b : List Byte) (i o : Nat) : VecOutput :=
  let x := fieldLe b (o + 0xC) 1
  let y := fieldLe b (o + 0xD) 1
  { index := i, addr := fieldLe b o 8, stride := fieldLe b (o + 8) 4, kind := bits x 6 4, f := bits x 3 0, layout := bits y 3 2,
    sr := bit y 1, scaled := bit y 0, src := bits (fieldLe b (o + 0xE) 1) 5 0, scales := fieldLe b (o + 0x10) 8,
    summary := fieldLe b (o + 0x18) 8, blockBase := fieldLe b (o + 0x20) 4, bound := fieldLe b (o + 0x24) 4,
    reservedSet := bit x 7 || decide (bits y 7 4 ≠ 0) || decide (fieldLe b (o + 0xF) 1 ≠ 0) ||
      decide (fieldLe b (o + 0x28) 8 ≠ 0) }

/-- A CHAIN argument block from its 352 bytes. -/
def parseChain (b : List Byte) : ChainArgs :=
  let b1 := fieldLe b 1 1
  let b2 := fieldLe b 2 1
  let b3 := fieldLe b 3 1
  { outMask := bits b3 1 0, rows := fieldLe b 4 4, width := fieldLe b 8 4, step := fieldLe b 0xC 4,
    tensorId := fieldLe b 0x10 4, imm := (List.range 8).map (fun i => fieldLe b (0x20 + 4 * i) 4),
    operands := ((List.range 4).filter (bit b1)).map (fun i => (i, parseVecOperand b (0x40 + 32 * i))),
    stages := ((List.range 8).filter (bit b2)).map (fun s => parseVecStage b s (0xC0 + 8 * s)),
    outs := ((List.range 2).filter (bit b3)).map (fun o => parseVecOutput b o (0x100 + 48 * o)),
    reservedSet := decide (fieldLe b 0 1 ≠ 1) || decide (bits b1 7 4 ≠ 0) || decide (bits b3 7 2 ≠ 0) || decide (fieldLe b 0x14 12 ≠ 0) }

/-- The function codes of R243. -/
def vecFunctions : List Nat :=
  [1, 2, 3, 4, 5, 6, 7, 8, 9, 0xA, 0xB, 0xC, 0x10, 0x11, 0x12, 0x13, 0x14, 0x15, 0x18, 0x19, 0x1A, 0x1B, 0x1C, 0x20, 0x21,
    0x22, 0x23, 0x24, 0x25, 0x26, 0x27, 0x28, 0x29, 0x2A, 0x2B, 0x2C]

/-- CVT. -/
def fnCVT : Nat := 0x1C

/-- The cost of a stage per chunk (R243). -/
def vecCost (fn : Nat) : Nat := if (9 ≤ fn ∧ fn ≤ 0xC) ∨ (0x10 ≤ fn ∧ fn ≤ 0x15) then 4 else 1

/-! ### Ranges and checks (R249) -/

/-- Bytes of one operand row: its payload, and the scale byte of scale_mode 2. -/
def VecOperand.rowBytes (x : VecOperand) (width : Nat) : Nat := elemBytes x.f width + flag (decide (x.mode = 2))

/-- Blocks of an operand's scale stream (R246). -/
def VecOperand.blocks (x : VecOperand) (rows width : Nat) : Nat := (if x.stride = 0 then 1 else rows) * (width / 32)

/-- The input ranges. -/
def ChainArgs.operandRanges (a : ChainArgs) (x : VecOperand) : List Range :=
  [{ addr := x.addr, len := (if x.stride = 0 then 0 else (a.rows - 1) * x.stride) + x.rowBytes a.width, read := true },
   { addr := x.scales, len := if x.mode = 1 then streamBytes (x.blocks a.rows a.width) else 0, read := true }]

/-- Bytes of an output's data. -/
def ChainArgs.outBytes (a : ChainArgs) (o : VecOutput) : Nat :=
  if o.layout = 1 then tiledBytes o.f a.rows a.width else a.rows * o.stride

/-- The output ranges: data, scale stream, summary. -/
def ChainArgs.outRanges (a : ChainArgs) (o : VecOutput) : List Range :=
  [{ addr := o.addr, len := a.outBytes o, write := true },
   { addr := o.scales, len := if o.scaled then streamBytes (a.rows * (a.width / 32)) else 0, write := true },
   { addr := o.summary, len := if o.summary = 0 then 0 else 16 * (ceilDiv a.rows 128 * ceilDiv a.width 128), write := true }]

/-- An output is its operand in place (R249). -/
def VecOutput.inPlaceOf (o : VecOutput) (x : VecOperand) : Bool :=
  decide (o.addr = x.addr) && decide (o.stride = x.stride) && decide (o.f = x.f) && decide (o.layout = 0) && !o.scaled

/-- Overlaps that R249 forbids. -/
def State.chainClash (s : State) (a : ChainArgs) : Bool :=
  a.outs.any (fun o => a.outs.any (fun p => decide (o.index < p.index) && s.clash (a.outRanges o) (a.outRanges p))) ||
    a.outs.any (fun o => a.operands.any (fun x =>
      if o.inPlaceOf x.2 then
        s.clash ((a.outRanges o).drop 1) (a.operandRanges x.2) || s.clash ((a.outRanges o).take 1) ((a.operandRanges x.2).drop 1)
      else s.clash (a.outRanges o) (a.operandRanges x.2)))

/-- A reserved encoding of an enabled operand (R6). -/
def VecOperand.reserved (x : VecOperand) : Bool := x.reservedSet || decide (x.mode = 3) || decide (8 ≤ x.f)

/-- An enabled operand that fails with FORMAT. -/
def VecOperand.bad (x : VecOperand) (width : Nat) : Bool :=
  x.reserved ||
    (decide (x.mode = 0) && fmtNarrow x.f && decide (x.f ≠ fmtINT8)) || (decide (x.mode ≠ 0) && !fmtNarrow x.f) ||
    (decide (x.mode = 1) && decide (width % 32 ≠ 0)) || !addrForm x.addr 1 [0, 1] ||
    (decide (x.mode = 1) && !addrForm x.scales 1 [0, 1])

/-- A reserved encoding of an enabled stage (R6): cvt_format counts whatever the function (log entry 43). -/
def VecStage.reserved (x : VecStage) : Bool := x.reservedSet || !vecFunctions.contains x.fn || decide (8 ≤ x.cvt)

/-- An enabled stage that fails with FORMAT. -/
def VecStage.bad (x : VecStage) : Bool :=
  x.reserved || [x.dst, x.a, x.b, x.c, x.mask].any (fun r => decide (48 ≤ r)) ||
    decide (38 ≤ x.dst) ||
    (decide (x.fn = fnCVT) && x.sr && decide (x.cvt = fmtFP32))

/-- A reserved encoding of an enabled output (R6): kind counts whether or not the output is scaled (log entry 43). -/
def VecOutput.reserved (o : VecOutput) : Bool := o.reservedSet || decide (8 ≤ o.f) || decide (2 ≤ o.layout) || decide (6 ≤ o.kind)

/-- An enabled output that fails with FORMAT. -/
def VecOutput.bad (o : VecOutput) (width : Nat) : Bool :=
  o.reserved || decide (48 ≤ o.src) ||
    (fmtNarrow o.f && !o.scaled) ||
    (o.scaled && (!fmtNarrow o.f || !(o.kind == 1 || o.kind == 2 || o.kind == 3 || o.kind == 5) || !kindAllows o.kind o.f ||
      decide (width % 32 ≠ 0))) ||
    (o.sr && (o.scaled || decide (o.f = fmtFP32))) || (decide (o.layout = 1) && decide (addrSpace o.addr ≠ 1)) ||
    (decide (o.layout = 0) && (fmtBelow8 o.f || decide (o.stride % 64 ≠ 0) || decide (o.stride < elemBytes o.f width))) ||
    !addrForm o.addr 1 [0, 1] || (o.scaled && !addrForm o.scales 1 [0, 1]) ||
    (decide (o.summary ≠ 0) && !addrForm o.summary 1 [0, 1])

/-- CHAIN's FORMAT checks that do not need its ranges. -/
def ChainArgs.bad (a : ChainArgs) : Bool :=
  a.reservedSet || decide (a.outMask = 0) || a.operands.any (fun x => x.2.bad a.width) || a.stages.any VecStage.bad ||
    a.outs.any (fun o => o.bad a.width)

/-- Reserved encodings of a CHAIN block and of its enabled descriptors (R6). -/
def ChainArgs.reserved (a : ChainArgs) : Bool :=
  a.reservedSet || a.operands.any (fun x => x.2.reserved) || a.stages.any VecStage.reserved || a.outs.any VecOutput.reserved

/-- CHAIN's checks at dispatch (R249). A block that R74 makes empty still fails on reserved encodings (R6). -/
def State.chainCheck (s : State) (t : Task) : Nat :=
  let a := parseChain t.args
  if a.reserved || decide (a.outMask = 0) then stFORMAT
  else if a.rows = 0 ∨ a.width = 0 then stOK
  else firstFailure [failIf (a.bad || s.chainClash a) stFORMAT,
    s.vetRanges t.job (a.operands.flatMap (fun x => a.operandRanges x.2) ++ a.outs.flatMap a.outRanges)
      (a.outs.map (fun o => (a.outBytes o, o.bound)))]

/-- The memory a CHAIN may write. -/
def State.chainWrites (s : State) (t : Task) : List (Nat × Nat) :=
  let a := parseChain t.args
  if a.rows = 0 ∨ a.width = 0 then [] else s.rangeKeys (a.outs.flatMap a.outRanges)

/-- The memory a CHAIN reads. -/
def State.chainReads (s : State) (t : Task) : List (Nat × Nat) :=
  let a := parseChain t.args
  if a.rows = 0 ∨ a.width = 0 then []
  else (a.operands.flatMap (fun x => a.operandRanges x.2)).map (fun r => (s.key r.addr, r.len))

/-! ### Operands (R245, R246, R250) -/

/-- A lane's word of a register, and whether it depends on poison. -/
structure Lane where
  word : Nat
  poison : Bool
deriving DecidableEq, Repr

/-- The stream index of the block that column j of row r reads (R246). -/
def VecOperand.blockIndex (x : VecOperand) (width r j : Nat) : Nat :=
  (if x.stride = 0 then 0 else r) * (width / 32) + (if x.bcast then 0 else j) / 32

/-- The scale-stream entries that an operand uses. -/
def VecOperand.usedBlocks (x : VecOperand) (rows width : Nat) : List Nat :=
  (List.range (if x.stride = 0 then 1 else rows)).flatMap (fun r =>
    (List.range (if x.bcast then 1 else width / 32)).map (fun b => r * (width / 32) + b))

/-- The pre-scan of R250: PARITY for a poisoned entry (R343), SCALE_SKEW for a tag that does not fit. -/
def State.chainScan (s : State) (a : ChainArgs) : Nat :=
  let scaled := (a.operands.map (·.2)).filter (fun x => decide (x.mode = 1))
  firstFailure
    [failIf (scaled.any (fun x => (x.usedBlocks a.rows a.width).any (fun i => s.mem.poisoned (s.key x.scales + 2 * i) 2)))
       stPARITY,
     failIf (scaled.any (fun x => (x.usedBlocks a.rows a.width).any (fun i =>
       decide (leNat (s.mem.readN (s.key x.scales + 2 * i + 1) 1) ≠ (x.blockBase + i) % 256)))) stSCALE_SKEW]

/-- The memory key of a row of an operand. -/
def State.vecRowKey (s : State) (x : VecOperand) (r : Nat) : Nat := s.key x.addr + r * x.stride

/-- Column j of row r of an operand as its lane holds it, and the counts of its rounding into FP32 (R245, R246). -/
def State.vecLane (s : State) (x : VecOperand) (width r j : Nat) : Lane × Tele :=
  let key := s.vecRowKey x r
  let c := if x.bcast then 0 else j
  let code := s.laneCode x.f (key + c * fmtBits x.f / 8) c
  let p := s.mem.poisoned (key + c * fmtBits x.f / 8) (ceilDiv (fmtBits x.f) 8)
  if x.f = fmtFP32 then (⟨code, p⟩, {})
  else if x.mode = 0 then (⟨toFp32 (decodeElem x.f code), p⟩, {})
  else
    let scaleKey := if x.mode = 1 then s.key x.scales + 2 * x.blockIndex width r j else key + elemBytes x.f width
    let (w, t) := convertRne fmtFP32 (scaledValue x.f (leNat (s.mem.readN scaleKey 1)) code)
    (⟨w, p || (decide (x.mode = 2) && s.mem.poisoned scaleKey 1)⟩, t)

/-- The first poisoned block that a CHAIN reads. -/
def State.chainTaint (s : State) (a : ChainArgs) : Option Nat :=
  firstTaint (a.operands.map (fun x => s.taint (s.key x.2.addr)
    (((a.operandRanges x.2).headD { addr := 0, len := 0 }).len)) ) |>.bind (fun _ =>
      firstTaint (a.operands.flatMap (fun x => (List.range (if x.2.stride = 0 then 1 else a.rows)).map (fun r =>
        let key := s.vecRowKey x.2 r
        firstTaint [s.taint key (elemBytes x.2.f (if x.2.bcast then 1 else a.width)),
          if x.2.mode = 2 then s.taint (key + elemBytes x.2.f a.width) 1 else none]))))

/-! ### Stages (R241 to R244) -/

/-- A word of all ones for true, zero for false. -/
def maskWord (b : Bool) : Nat := if b then 0xFFFFFFFF else 0

/-- The smaller of two FP32 values, −0 below +0. -/
def fmin32 (x y : Nat) : Nat :=
  let a := ofFp32 x
  let b := ofFp32 y
  if a = .nan ∨ b = .nan then nan32
  else if a.lt b then x else if b.lt a then y else if a.isNeg then x else y

/-- The larger of two FP32 values, +0 above −0. -/
def fmax32 (x y : Nat) : Nat :=
  let a := ofFp32 x
  let b := ofFp32 y
  if a = .nan ∨ b = .nan then nan32
  else if a.lt b then y else if b.lt a then x else if a.isNeg then y else x

/-- FP32 to INT32, to nearest even, saturating; NaN gives 0. -/
def f2i (v : Num) : Nat :=
  match v with
  | .nan => 0
  | .inf n => if n then 0x80000000 else 0x7FFFFFFF
  | .fin n m e =>
    let (p, q) := shiftRatio m 1 e
    let i := signedMag n (rneDiv p q)
    ofSigned 32 (if i < -(2 ^ 31 : Int) then -(2 ^ 31 : Int) else if (2 ^ 31 - 1 : Int) < i then 2 ^ 31 - 1 else i)

/-- The result of a stage on one lane's source words, and its conversion counts; bits are those of stochastic rounding
(R243, R244, R248). -/
def vecFunction (x : VecStage) (bitsOf : Nat) (a b c : Nat) : Nat × Tele :=
  let fa := ofFp32 a
  let fb := ofFp32 b
  match x.fn with
  | 0x01 => (toFp32 (fa.add fb), {})
  | 0x02 => (toFp32 (fa.add fb.neg), {})
  | 0x03 => (toFp32 (fa.mul fb), {})
  | 0x04 => (toFp32 ((fa.mul fb).add (ofFp32 c)), {})
  | 0x05 => (fmin32 a b, {})
  | 0x06 => (fmax32 a b, {})
  | 0x07 => (toFp32 fa.abs, {})
  | 0x08 => (toFp32 fa.neg, {})
  | 0x09 => (div32 fa fb, {})
  | 0x0A => (sqrt32 fa, {})
  | 0x0B => (rsqrt32 fa, {})
  | 0x0C => (div32 (.fin false 1 0) fa, {})
  | 0x10 => (exp32 a fa, {})
  | 0x11 => (log32 a fa, {})
  | 0x12 => (tanh32 a fa, {})
  | 0x13 => (sigmoid32 a fa, {})
  | 0x14 => (gelu32 a fa, {})
  | 0x15 => (silu32 a fa, {})
  | 0x18 => (maskWord (fa.lt fb), {})
  | 0x19 => (maskWord (decide (fa ≠ .nan) && decide (fb ≠ .nan) && !fb.lt fa), {})
  | 0x1A => (maskWord (decide (fa ≠ .nan) && decide (fb ≠ .nan) && !fb.lt fa && !fa.lt fb), {})
  | 0x1B => (if a ≠ 0 then b else c, {})
  | 0x1C =>
    let (code, t) := if x.sr then convertSr x.cvt bitsOf fa else convertRne x.cvt fa
    (toFp32 (decodeElem x.cvt code), t)
  | 0x20 => ((a + b) % 2 ^ 32, {})
  | 0x21 => ((a + 2 ^ 32 - b) % 2 ^ 32, {})
  | 0x22 => (a * b % 2 ^ 32, {})
  | 0x23 => (Nat.land a b, {})
  | 0x24 => (Nat.lor a b, {})
  | 0x25 => (Nat.xor a b, {})
  | 0x26 => (a * 2 ^ (b % 32) % 2 ^ 32, {})
  | 0x27 => (a / 2 ^ (b % 32), {})
  | 0x28 => (maskWord (decide (toSigned 32 a < toSigned 32 b)), {})
  | 0x29 => (maskWord (decide (a = b)), {})
  | 0x2A => (toFp32 (Num.ofInt (toSigned 32 a) 0), {})
  | 0x2B => (f2i fa, {})
  | _ => (a, {})

/-- How many source registers a function reads, of a, b and c in order. -/
def vecSources (fn : Nat) : Nat :=
  if fn = 0x04 ∨ fn = 0x1B then 3
  else if (1 ≤ fn ∧ fn ≤ 3) ∨ fn = 5 ∨ fn = 6 ∨ fn = 9 ∨ (0x18 ≤ fn ∧ fn ≤ 0x1A) ∨ (0x20 ≤ fn ∧ fn ≤ 0x29) then 2
  else 1

/-- The registers of one lane, the conversion counts by format, and the inactive lane-stages. -/
structure LaneState where
  regs : List Lane
  tele : List (Nat × Tele)
  inactive : Nat
deriving DecidableEq, Repr

/-- A register of a lane. -/
def LaneState.reg (l : LaneState) (r : Nat) : Lane := l.regs.getD r ⟨0, false⟩

/-- Apply a stage to a lane (R241). -/
def LaneState.stage (l : LaneState) (bitsOf : Nat → Nat) (x : VecStage) : LaneState :=
  let m := l.reg x.mask
  let mp := x.masked && m.poison
  if x.masked && decide (m.word = 0) then
    let old := l.reg x.dst
    { l with regs := l.regs.set x.dst (if x.zeroing then ⟨0, mp⟩ else ⟨old.word, old.poison || mp⟩), inactive := l.inactive + 1 }
  else
    let src := [l.reg x.a, l.reg x.b, l.reg x.c]
    let (w, t) := vecFunction x (if x.fn = fnCVT ∧ x.sr then bitsOf (2 + x.index) else 0) (l.reg x.a).word (l.reg x.b).word
      (l.reg x.c).word
    { l with regs := l.regs.set x.dst ⟨w, mp || (src.take (vecSources x.fn)).any (·.poison)⟩,
             tele := if x.fn = fnCVT then l.tele ++ [(x.cvt, t)] else l.tele }

/-- The registers of lane `lane` of chunk q of row r at the start of the chunk (R238), with the counts of its operands. -/
def State.laneStart (s : State) (a : ChainArgs) (r q lane : Nat) : LaneState :=
  let j := 128 * q + lane
  let ops := (List.range 4).map (fun i => match a.operands.find? (fun x => decide (x.1 = i)) with
    | some x => if j < a.width then s.vecLane x.2 a.width r j else (⟨0, false⟩, {})
    | none => (⟨0, false⟩, {}))
  { regs := ops.map (·.1) ++ List.replicate 34 ⟨0, false⟩ ++ [⟨j % 2 ^ 32, false⟩, ⟨r, false⟩] ++
      a.imm.map (fun w => ⟨w, false⟩),
    tele := [(fmtFP32, (ops.map (·.2)).foldl Tele.plus {})], inactive := 0 }

/-- Run the chain on one lane (R239, R248). -/
def State.laneRun (s : State) (seed : Nat) (a : ChainArgs) (r q lane : Nat) : LaneState :=
  let idx := (r * a.width + (128 * q + lane)) % 2 ^ 48
  let bitsOf := fun site => srBits seed idx ((a.tensorId + site) % 2 ^ 32) a.step
  a.stages.foldl (fun l x => l.stage bitsOf x) (s.laneStart a r q lane)

/-! ### Outputs (R247, R248) -/

/-- What an output writes: its memory effects, counts and scaled blocks. -/
structure VecWritten where
  ops : List MemOp
  tele : Tele
  blocks : List BlockStat
deriving DecidableEq, Repr

/-- An unscaled element of an output. -/
def VecOutput.plain (o : VecOutput) (bitsOf : Nat) (l : Lane) : StoredElem × Tele :=
  if o.f = fmtFP32 then (⟨⟨l.word, l.poison⟩, 0, false⟩, {})
  else
    let (c, t) := if o.sr then convertSr o.f bitsOf (ofFp32 l.word) else convertRne o.f (ofFp32 l.word)
    (⟨⟨c, l.poison⟩, 0, decide (t.vanish ≠ 0)⟩, t)

/-- Write an output from its register's rows. -/
def State.vecWrite (s : State) (seed : Nat) (a : ChainArgs) (o : VecOutput) (rows : List (List Lane)) : VecWritten :=
  let bitsOf := fun r j => srBits seed ((r * a.width + j) % 2 ^ 48) ((a.tensorId + o.index) % 2 ^ 32) a.step
  let key := s.key o.addr
  let lines : List ConvertedLine := rows.zipIdx.map (fun r =>
    if o.scaled then
      scaleLine o.f o.kind (decide (o.kind = 2)) (bitsOf r.2) (r.1.map (fun l => ⟨ofFp32 l.word, l.word, l.poison⟩))
    else
      let e := r.1.zipIdx.map (fun l => o.plain (bitsOf r.2 l.2) l.1)
      { elems := e.map (·.1), scales := [], tele := e.foldl (fun x y => x.plus y.2) {}, stats := [] })
  let elems := lines.map (·.elems)
  let codes := elems.map (fun r => r.map (·.elem))
  let data := if o.layout = 1 then layoutOps 1 o.f key 0 a.rows a.width codes
    else codes.zipIdx.flatMap (fun r => writeRow (key + r.2 * o.stride) o.f (roundUp (elemBytes o.f a.width) 64) r.1)
  let stream := if o.scaled then scaleStreamOps (s.key o.scales) o.blockBase (s.free + o.index) (lines.flatMap (·.scales)) else []
  let summ := if o.summary = 0 then []
    else markedWrite (s.key o.summary) (summaryBytes o.f o.scaled 0 0 a.rows a.width elems)
  { ops := data ++ stream ++ summ, tele := lines.foldl (fun x l => x.plus l.tele) {}, blocks := lines.flatMap (·.stats) }

/-- Bytes of an operand's chunk, scale bytes included; a broadcast operand counts in full (R252). -/
def VecOperand.chunkBytes (x : VecOperand) : Nat :=
  elemBytes x.f 128 + (if x.mode = 1 then 8 else if x.mode = 2 then 1 else 0)

/-- Bytes of an output's chunk, scale bytes included (R252). -/
def VecOutput.chunkBytes (o : VecOutput) : Nat := elemBytes o.f 128 + (if o.scaled then 8 else 0)

/-- The cycles of R252, which hold where every operand and output is in a tile store. -/
def ChainArgs.cycles (a : ChainArgs) : Option Nat :=
  let ranges := a.operands.flatMap (fun x => a.operandRanges x.2) ++ a.outs.flatMap a.outRanges
  let entries := sumNat (a.operands.map (fun x => if x.2.mode = 1 then (x.2.usedBlocks a.rows a.width).length else 0))
  let cost := sumNat (a.stages.map (fun x => vecCost x.fn))
  let bytesIn := sumNat (a.operands.map (fun x => x.2.chunkBytes))
  let bytesOut := sumNat (a.outs.map VecOutput.chunkBytes)
  if ranges.all (fun r => decide (r.len = 0) || decide (addrSpace r.addr = 1)) then
    some (64 + ceilDiv entries 32 + a.rows * ceilDiv a.width 128 *
      Nat.max (Nat.max 1 cost) (Nat.max (ceilDiv bytesIn 1024) (ceilDiv bytesOut 512)))
  else none

/-- A CHAIN's run (R239): the pre-scan, the chain on every chunk, the outputs. -/
def State.chainRun (s : State) (t : Task) : Result :=
  let a := parseChain t.args
  if a.rows = 0 ∨ a.width = 0 then {}
  else if s.chainScan a ≠ stOK then scanFailed (s.chainScan a)
  else
    let tile := t.runTile
    let seed := s.seed t.job
    let chunksOf := ceilDiv a.width 128
    let lanes := (List.range a.rows).map (fun r =>
      (List.range chunksOf).flatMap (fun q => (List.range 128).map (s.laneRun seed a r q)))
    let all := lanes.flatten
    let outs := a.outs.map (fun o => (o, s.vecWrite seed a o (lanes.map (fun r => (r.take a.width).map (fun l => l.reg o.src)))))
    let n := a.rows * chunksOf
    { ops := outs.flatMap (·.2.ops),
      bumps := [(Reg.TIL_VEC_CNT_CHUNKS tile, n),
        (Reg.TIL_VEC_CNT_ISSUE tile, n * sumNat (a.stages.map (fun x => vecCost x.fn))),
        (Reg.TIL_VEC_CNT_INACTIVE tile, sumNat (all.map (·.inactive)))] ++
        (List.range 8).flatMap (fun f => teleBumps f
          ((all.flatMap (fun l => (l.tele.filter (fun p => decide (p.1 = f))).map (·.2))).foldl Tele.plus {})) ++
        outs.flatMap (fun p => teleBumps p.1.f p.2.tele),
      blocks := outs.flatMap (·.2.blocks), draws := 2, busy := a.cycles,
      poisonAt := s.chainTaint a }

/-- CHAIN (R239). -/
def execChain (id : TaskId) (s : State) : Host.Outcome State Fault Refusal :=
  perform (.chain id) (s.engineStep id engVECTOR 1 s.chainRun)

end Sys2Proof.Machine
end

