-- ==== Sys2Proof/Machine/Update.lean ====
section
/-!
DEFINITION. The parameter update (15): group descriptors, the UPDATE argument block and its checks, the rules with one
rounding per assignment, and NORM, APPLY, ROOT, STORE and EXPORT.
-/

namespace Sys2Proof.Machine

/-! ### One rounding of a composite assignment (R327) -/

/-- One. -/
def Num.one : Num := .fin false 1 0

/-- The exact difference. -/
def Num.sub (a b : Num) : Num := a.add b.neg

/-- The t-th power, exact. -/
def Num.pow (b : Num) (t : Nat) : Num :=
  match b with
  | .nan => if t = 0 then .one else .nan
  | .inf n => if t = 0 then .one else .inf (n && decide (t % 2 = 1))
  | .fin n m e => .fin (n && decide (t % 2 = 1)) (m ^ t) (e * t)

/-- The order of two finite values. -/
def Num.order (a b : Num) : Ordering := if a.lt b then .lt else if b.lt a then .gt else .eq

/-- The FP32 value nearest to an exact value. -/
def Num.round32 (v : Num) : Num := ofFp32 (toFp32 v)

/-- The value of a magnitude code of FP32, the exponent range unbounded above. -/
def codeNum (c : Nat) : Num := let (m, e) := codeMag fmtFP32 c; .fin false m e

/-- The largest magnitude code whose value is not above a positive real, one bit at a time from bit k down; cmp orders the
real against a value. -/
def codeBelow (cmp : Num → Ordering) : Nat → Nat → Nat
  | 0, c => c
  | k + 1, c => let d := c + 2 ^ k; codeBelow cmp k (if cmp (codeNum d) = .lt then c else d)

/-- FP32 bits of a real other than zero, of a sign and a magnitude that cmp orders against values: nearest, ties to even. -/
def roundReal (neg : Bool) (cmp : Num → Ordering) : Nat :=
  let c := codeBelow cmp 31 0
  let mid := ((codeNum c).add (codeNum (c + 1))).scale (-1)
  let r := match cmp mid with
    | .lt => c
    | .gt => c + 1
    | .eq => if c % 2 = 0 then c else c + 1
  (finishCode fmtFP32 neg true r).1

/-- The quotient of two values where it is not a real other than zero. -/
def quotSpecial (a b : Num) : Option Num :=
  match a, b with
  | .nan, _ => some .nan
  | _, .nan => some .nan
  | .inf _, .inf _ => some .nan
  | .inf x, .fin y _ _ => some (.inf (x != y))
  | .fin x _ _, .inf y => some (.fin (x != y) 0 0)
  | .fin x m _, .fin y n _ =>
    if n = 0 then (if m = 0 then some .nan else some (.inf (x != y)))
    else if m = 0 then some (.fin (x != y) 0 0) else none

/-- Order |m / c1| against k · |√(v / c2) + eps|, all finite, v / c2 above zero; neg: the divisor is negative. -/
def orderRootRatio (m c1 v c2 eps : Num) (neg : Bool) (k : Num) : Ordering :=
  let scaled := k.mul c1.abs
  let left := (scaled.mul scaled).mul v.abs
  let rest := if neg then (scaled.mul eps.neg).sub m.abs else m.abs.sub (scaled.mul eps)
  let right := (rest.mul rest).mul c2.abs
  if neg then (if rest.lt .zero then .gt else left.order right)
  else if rest.lt .zero then .lt else right.order left

/-- (m ÷ c1) ÷ (√(v ÷ c2) + eps), rounded once into FP32. -/
def ratioRoot (m c1 v c2 eps : Num) : Nat :=
  let top := quotSpecial m c1
  let quot := fun (d : Num) => match top with
    | some a => div32 a d
    | none => div32 m (c1.mul d)
  match quotSpecial v c2 with
  | some .nan => nan32
  | some (.inf n) => if n then nan32 else quot ((Num.inf false).add eps)
  | some (.fin n _ _) => quot ((Num.fin n 0 0).add eps)
  | none =>
    if v.isNeg != c2.isNeg then nan32
    else if !eps.isFinite then quot eps
    else
      let sign := if eps.isNeg then v.abs.order ((eps.mul eps).mul c2.abs) else .gt
      match sign with
      | .eq => quot .zero
      | _ =>
        let neg := decide (sign = .lt)
        match top with
        | some a => div32 a (if neg then Num.one.neg else .one)
        | none => roundReal ((m.isNeg != c1.isNeg) != neg) (orderRootRatio m c1 v c2 eps neg)

/-- 1 ÷ ⁴√c for a finite c above zero, rounded once. -/
def invFourthRoot (c : Num) : Nat :=
  roundReal false (fun k => Num.one.order (c.mul ((k.mul k).mul (k.mul k))))

/-! ### Descriptors (R322, R323, R325) -/

/-- A group descriptor. -/
structure GroupDesc where
  id : Nat
  compress : Bool
  bwd : Bool
  rotated : Bool
  frozen : Bool
  nesterov : Bool
  rule : Nat
  policy : Nat
  rotSize : Nat
  format : Nat
  k : Nat
  n : Nat
  wd : Nat
  master : Nat
  state : Nat
  freeze : Nat
  kron : Nat
  lr : Nat
  beta1 : Nat
  beta2 : Nat
  eps : Nat
  reserved : Bool
deriving DecidableEq, Repr

/-- A group descriptor from its 64 bytes. -/
def parseGroupDesc (b : List Byte) : GroupDesc :=
  let f := fieldLe b 2 1
  let g := fieldLe b 3 1
  let off := fun o => bits (fieldLe b o 8) 44 0
  let high := fun o => decide (2 ^ 45 ≤ fieldLe b o 8)
  { id := bits (fieldLe b 0 2) 11 0, compress := bit f 7, bwd := bit f 6, rotated := bit f 5, frozen := bit f 4,
    nesterov := bit f 3, rule := bits f 2 0, policy := bits g 6 6, rotSize := bits g 5 4, format := bits g 3 0,
    k := fieldLe b 4 4, n := fieldLe b 8 4, wd := fieldLe b 0xC 4, master := off 0x10, state := off 0x18,
    freeze := off 0x20, kron := off 0x28, lr := fieldLe b 0x30 4, beta1 := fieldLe b 0x34 4, beta2 := fieldLe b 0x38 4,
    eps := fieldLe b 0x3C 4,
    reserved := decide (4096 ≤ fieldLe b 0 2) || bit g 7 || decide (4 ≤ bits f 2 0) || decide (bits g 5 4 = 3) ||
      high 0x10 || high 0x18 || high 0x20 || high 0x28 }

/-- SGD. -/
def ruleSGD : Nat := 0
/-- ADAMW. -/
def ruleADAMW : Nat := 1
/-- ADAGRAD. -/
def ruleADAGRAD : Nat := 2
/-- KRON. -/
def ruleKRON : Nat := 3

/-- State vectors per element (R323). -/
def GroupDesc.sv (g : GroupDesc) : Nat := if g.rule = ruleADAMW then 2 else 1

/-- A table's gradient stride (R323). -/
def GroupDesc.gs (g : GroupDesc) : Nat := roundUp (g.n * 4) 64

/-- Bytes of a row record (R323). -/
def GroupDesc.rs (g : GroupDesc) : Nat := 64 + (1 + g.sv) * g.gs

/-- Column tiles of a dense group. -/
def GroupDesc.colTiles (g : GroupDesc) : Nat := ceilDiv g.n 128

/-- Rows of a band (R326): 256 with compress. -/
def GroupDesc.band (g : GroupDesc) : Nat := if g.compress then 256 else 128

/-- NORM. -/
def updNORM : Nat := 1
/-- APPLY. -/
def updAPPLY : Nat := 2
/-- STORE. -/
def updSTORE : Nat := 3
/-- ROOT. -/
def updROOT : Nat := 4
/-- EXPORT. -/
def updEXPORT : Nat := 5

/-- An UPDATE argument block. -/
structure UpdArgs where
  op : Nat
  gradSrc : Bool
  clipEn : Bool
  touched : Bool
  tc : Nat
  outF : Nat
  iters : Nat
  step : Nat
  group : Nat
  first : Nat
  count : Nat
  lrScale : Nat
  grad : Nat
  norm : Nat
  clip : Nat
  list : Nat
  nTouched : Nat
  /-- The table descriptor of an APPLY, the forward copy of a STORE. -/
  fwd : Nat
  /-- The backward copy of a STORE, the record of an EXPORT. -/
  out : Nat
  /-- The forward scale stream of a STORE, the bound of an EXPORT. -/
  scales : Nat
  bwdScales : Nat
  fwdSummary : Nat
  bwdSummary : Nat
  stats : Nat
  reserved : Bool
deriving DecidableEq, Repr

/-- An UPDATE argument block from its 128 bytes; reserved: a reserved code or a non-zero field its op does not use. -/
def parseUpd (b : List Byte) : UpdArgs :=
  let op := fieldLe b 0 1
  let b1 := fieldLe b 1 1
  let b2 := fieldLe b 2 1
  let touched := bit b1 1
  let unused := fun (ops : List Nat) (v : Nat) => !ops.contains op && decide (v ≠ 0)
  let table := decide (op = updAPPLY) && touched
  { op := op, gradSrc := bit b1 3, clipEn := bit b1 2, touched := touched, tc := bits b2 7 5, outF := bits b2 3 0,
    iters := fieldLe b 3 1, step := fieldLe b 4 4, group := fieldLe b 8 8, first := bits (fieldLe b 0x10 8) 47 0,
    count := fieldLe b 0x18 4, lrScale := fieldLe b 0x1C 4, grad := fieldLe b 0x20 8, norm := fieldLe b 0x28 8,
    clip := fieldLe b 0x30 4, list := fieldLe b 0x38 8, nTouched := fieldLe b 0x40 8, fwd := fieldLe b 0x48 8,
    out := fieldLe b 0x50 8, scales := fieldLe b 0x58 8, bwdScales := fieldLe b 0x60 8, fwdSummary := fieldLe b 0x68 8,
    bwdSummary := fieldLe b 0x70 8, stats := fieldLe b 0x78 8,
    reserved := decide (op = 0) || decide (5 < op) || decide (16 ≤ b1) || bit b1 0 || unused [updAPPLY] b1 ||
      unused [updNORM] (bits b2 7 5) || bit b2 4 || unused [updEXPORT] (bits b2 3 0) ||
      (decide (op = updEXPORT) && decide (3 ≤ bits b2 3 0)) || (decide (op = updNORM) && decide (bits b2 7 5 < 4)) ||
      unused [updROOT] (fieldLe b 3 1) ||
      (decide (op = updROOT) && (decide (fieldLe b 3 1 = 0) || decide (64 < fieldLe b 3 1))) ||
      unused [updNORM, updAPPLY, updEXPORT] (fieldLe b 4 4) || decide (2 ^ 48 ≤ fieldLe b 0x10 8) ||
      (table && (decide (fieldLe b 0x10 8 ≠ 0) || decide (fieldLe b 0x18 4 ≠ 0))) ||
      (table && (bit b1 3 || bit b1 2)) ||
      unused [updAPPLY] (fieldLe b 0x1C 4) || unused [updNORM, updAPPLY] (fieldLe b 0x20 8) ||
      unused [updNORM, updAPPLY] (fieldLe b 0x28 8) || unused [updNORM, updAPPLY] (fieldLe b 0x30 4) ||
      (decide (op = updNORM) && decide (65536 ≤ fieldLe b 0x30 4)) || decide (fieldLe b 0x34 4 ≠ 0) ||
      (!table && (decide (fieldLe b 0x38 8 ≠ 0) || decide (fieldLe b 0x40 8 ≠ 0))) ||
      (!table && unused [updSTORE] (fieldLe b 0x48 8)) || unused [updSTORE, updEXPORT] (fieldLe b 0x50 8) ||
      unused [updSTORE, updEXPORT] (fieldLe b 0x58 8) || unused [updSTORE] (fieldLe b 0x60 8) ||
      unused [updSTORE] (fieldLe b 0x68 8) || unused [updSTORE] (fieldLe b 0x70 8) || unused [updAPPLY] (fieldLe b 0x78 8) }

/-- Nothing to do (R74): a count of 0, for a touched APPLY a list of none. -/
def UpdArgs.empty (a : UpdArgs) : Bool := !a.touched && decide (a.count = 0)

/-! ### Geometry (R323, R326, R333) -/

/-- What an UPDATE task works on: its arguments, its group, the group's map, this module, and for an edge table the rows that
each module holds (R129). -/
structure UpdCtx where
  a : UpdArgs
  g : GroupDesc
  map : OwnerMap
  own : Nat
  edgeRows : Option Nat
deriving DecidableEq, Repr

/-- The group is dense. -/
def UpdCtx.dense (c : UpdCtx) : Bool := decide (c.map.kind = 0)

/-- Units from the task's first to its end: elements, or local rows of a table. -/
def UpdCtx.units (c : UpdCtx) : Nat × Nat :=
  if c.dense && decide (c.a.op ≠ updNORM) && decide (c.a.op ≠ updAPPLY) then (c.a.first * c.g.n, c.a.count * c.g.n)
  else (c.a.first, c.a.count)

/-- The ranges of units that this module owns. -/
def UpdCtx.owned (c : UpdCtx) : List (Nat × Nat) :=
  ((ownerRanges c.map.entries c.map.count).filter (fun r => decide (r.2.2 = c.own))).map (fun r => (r.1, r.2.1))

/-- The local rows of each range that this module owns, with the range's first global row. -/
def localRanges : List (Nat × Nat) → Nat → List (Nat × Nat × Nat)
  | [], _ => []
  | r :: t, at_ => (at_, at_ + (r.2 - r.1), r.1) :: localRanges t (at_ + (r.2 - r.1))

/-- The owned range that holds the task's range: start and end, in elements or local rows; an edge table's rows are one range
(R129). -/
def UpdCtx.range? (c : UpdCtx) : Option (Nat × Nat) :=
  let (u, n) := c.units
  let l := if c.dense then c.owned
    else match c.edgeRows with
      | some m => [(0, m)]
      | none => (localRanges c.owned 0).map (fun r => (r.1, r.2.1))
  l.find? (fun r => decide (r.1 ≤ u) && decide (u + n ≤ r.2))

/-- The local index of the task's first unit (R323). -/
def UpdCtx.localFirst (c : UpdCtx) : Nat := if c.dense then c.map.localIndex c.units.1 c.own else c.a.first

/-- The first band this module owns (R333): the first of which it owns a part (DEDUCED, log entry 46). -/
def UpdCtx.b0 (c : UpdCtx) : Nat := (c.owned.headD (0, 0)).1 / (128 * c.g.n)

/-- The memory key of the factors of tile (b, col). -/
def UpdCtx.tileKey (c : UpdCtx) (b col : Nat) : Nat := c.g.kron + ((b - c.b0) * c.g.colTiles + col) * 262144

/-- Rows and columns that exist in tile (b, col). -/
def UpdCtx.tileShape (c : UpdCtx) (b col : Nat) : Nat × Nat :=
  (Nat.min 128 (c.g.k - 128 * b), Nat.min 128 (c.g.n - 128 * col))

/-- The data tiles that lie whole in the task's range (R333). -/
def UpdCtx.tiles (c : UpdCtx) : List (Nat × Nat) :=
  let (u, n) := c.units
  let bands := (List.range (ceilDiv (u + n) (128 * c.g.n))).drop (u / (128 * c.g.n))
  (bands.flatMap (fun b => (List.range c.g.colTiles).map (fun col => (b, col)))).filter (fun t =>
    let (rows, cols) := c.tileShape t.1 t.2
    decide (u ≤ 128 * t.1 * c.g.n + 128 * t.2) &&
      decide ((128 * t.1 + rows - 1) * c.g.n + 128 * t.2 + cols ≤ u + n))

/-! ### Checks (R321, R326) -/

/-- FORMAT of a group descriptor against its map and the argument block. -/
def State.groupFormat (s : State) (c : UpdCtx) : Bool :=
  let a := c.a
  let g := c.g
  let (u, n) := c.units
  let rowOp := decide (a.op = updSTORE) || decide (a.op = updROOT)
  let unitOp := decide (a.op = updNORM) || decide (a.op = updAPPLY)
  g.reserved || (c.dense != decide (0 < g.k)) || (a.gradSrc && a.touched) ||
    (if c.dense then
      decide (g.k * g.n ≠ c.map.count) || decide (g.k % 32 ≠ 0) || decide (g.n % 32 ≠ 0) || decide (c.map.unitBytes ≠ 4) ||
        (g.rotated && decide (g.k % rotOrder g.rotSize ≠ 0)) ||
        !(g.format == fmtE4M3 || g.format == fmtE3M2 || g.format == fmtE2M1 || g.format == fmtINT8) || a.touched ||
        c.range?.isNone ||
        (unitOp && ((decide (u % 1024 ≠ 0) && decide (u ≠ c.map.count)) ||
          (decide ((u + n) % 1024 ≠ 0) && decide (u + n ≠ c.map.count)))) ||
        (rowOp && (decide (a.first % g.band ≠ 0) || (decide (a.count % g.band ≠ 0) && decide (a.first + a.count ≠ g.k)) ||
          (c.range?.map (fun r => decide (r.1 % (g.band * g.n) ≠ 0) ||
            (decide (r.2 % (g.band * g.n) ≠ 0) && decide (r.2 ≠ c.map.count)))).getD false)) ||
        (decide (a.op = updROOT) && decide (g.rule ≠ ruleKRON))
    else
      decide (g.rule = ruleKRON) || decide (g.format ≠ 0) || rowOp || decide (a.op = updNORM) ||
        (decide (a.op = updAPPLY) && !a.touched) || (!a.touched && c.range?.isNone) ||
        (match s.openTable? g.id with
          | none => true
          | some x => decide (x.width ≠ g.n)))

/-- The number of rows in a touched-row list. -/
def State.touchedCount (s : State) (a : UpdArgs) : Nat := s.readLe a.nTouched 4

/-- A range of this module's HBM. -/
def UpdCtx.hbm (c : UpdCtx) (off len : Nat) (write : Bool) : Range :=
  { addr := globalAddr c.own 0 off, len := len, read := true, write := write }

/-- Rows of a table that this module owns (R127, R129). -/
def UpdCtx.ownedRows (c : UpdCtx) : Nat := c.edgeRows.getD (c.map.owned c.own)

/-- The ranges of the KRON tiles of a task. -/
def UpdCtx.kronRanges (c : UpdCtx) : List Range :=
  match c.tiles with
  | [] => []
  | t :: r =>
    let last := (r.getLast?).getD t
    [c.hbm (c.tileKey t.1 t.2) (c.tileKey last.1 last.2 + 262144 - c.tileKey t.1 t.2) true]

/-- The freeze bitmap's range (R326). -/
def UpdCtx.freezeRange (c : UpdCtx) : List Range :=
  if c.g.freeze = 0 then [] else [c.hbm c.g.freeze (ceilDiv (if c.dense then c.g.k else c.ownedRows) 8) false]

/-- The forward copy's bytes (R202, R221). -/
def GroupDesc.fwdBytes (g : GroupDesc) : Nat :=
  if g.compress then g.colTiles * ceilDiv (ceilDiv g.k 128) 2 * slotBytes g.format else tiledBytes g.format g.k g.n

/-- The ranges of an UPDATE task (R326), with the table's list sized by its count. -/
def State.updRanges (s : State) (c : UpdCtx) : List Range :=
  let a := c.a
  let g := c.g
  let (_, n) := c.units
  let l := c.localFirst
  if a.op = updNORM then { addr := addrPlus a.grad (4 * l), len := 4 * n, read := true } :: c.freezeRange
  else if a.op = updAPPLY ∧ c.dense then
    [c.hbm (g.master + 4 * l) (4 * n) true, c.hbm (g.state + 4 * g.sv * l) (4 * g.sv * n) true,
      (if a.gradSrc then { addr := addrPlus a.grad (64 * l), len := 64 * n, read := true }
       else { addr := addrPlus a.grad (4 * l), len := 4 * n, read := true })] ++
      c.freezeRange ++ (if g.rule = ruleKRON then c.kronRanges else []) ++
      (if a.clipEn then [{ addr := a.norm, len := 4, read := true }] else []) ++ [statsRange a.stats]
  else if a.op = updAPPLY then
    let head : Range := { addr := a.nTouched, len := 4, read := true }
    let rows := if s.isLocal a.nTouched ∧ s.offsetValid a.nTouched then s.touchedCount a else 1
    [c.hbm g.state (c.ownedRows * g.rs) true, { addr := a.grad, len := c.ownedRows * g.gs, read := true }, head,
      { addr := a.list, len := 8 * rows, read := true }] ++
      c.freezeRange ++ [statsRange a.stats]
  else if a.op = updSTORE then
    let w := fun addr len => ({ addr := addr, len := len, write := true } : Range)
    let tiles := ceilDiv g.k 128 * g.colTiles
    [{ c.hbm (g.master + 4 * l) (4 * n) false with write := false }, w a.fwd g.fwdBytes,
      w a.scales (streamBytes (g.k / 32 * g.n)), w a.fwdSummary (16 * tiles)] ++
      (if g.bwd then [w a.out (tiledBytes fmtE4M3 g.n g.k), w a.bwdScales (streamBytes (g.n / 32 * g.k)),
        w a.bwdSummary (16 * tiles)] else [])
  else if a.op = updROOT then c.kronRanges
  else
    let stride := roundUp (g.n * (fmtBits a.outF / 8)) 64
    [if c.dense then c.hbm (g.master + 4 * l) (4 * n) false else c.hbm (g.state + l * g.rs) (a.count * g.rs) false,
      { addr := a.out, len := 64 + a.count * stride, write := true }]

/-- The table's region that a touched APPLY writes (R331): its rows must lie in a write window. -/
def State.updRegion (s : State) (c : UpdCtx) : List Range :=
  if c.a.touched then
    match s.openTable? c.g.id with
    | some x => [{ addr := globalAddr c.own 0 (x.region x.live), len := c.ownedRows * s.tableStride x.table, write := true }]
    | none => []
  else []

/-- The context of an UPDATE task whose group descriptor may be read. -/
def State.updCtx? (s : State) (t : Task) : Option UpdCtx :=
  let a := parseUpd t.args
  let g := parseGroupDesc (s.readAddr a.group 64)
  let x := (s.openTable? g.id).filter (·.edge)
  (s.shardMap? g.id).map (fun m => ⟨a, g, m, s.node?.getD 0, if m.kind = 1 then x.map (·.edgeRows) else none⟩)

/-- The address fields that an op uses (R325). -/
def UpdArgs.addresses (a : UpdArgs) : List Nat :=
  a.group :: (if a.op = updNORM then [a.grad, a.norm]
    else if a.op = updAPPLY then
      [a.grad, a.stats] ++ (if a.clipEn then [a.norm] else []) ++ (if a.touched then [a.list, a.nTouched, a.fwd] else [])
    else if a.op = updSTORE then [a.fwd, a.scales, a.fwdSummary]
    else if a.op = updEXPORT then [a.out] else [])

/-- The structures that an UPDATE task names: its group descriptor and, for a touched APPLY, its table descriptor (R439). -/
def UpdArgs.structures (a : UpdArgs) : List Range :=
  { addr := a.group, len := 64, read := true } :: (if a.touched then [{ addr := a.fwd, len := 64, read := true }] else [])

/-- UPDATE's checks at dispatch (R321, R326), in the order of R439. -/
def State.updateCheck (s : State) (t : Task) : Nat :=
  let a := parseUpd t.args
  if a.reserved || t.speculative then stFORMAT
  else if a.empty then stOK
  else firstFailure
    [failIf (!addrForm a.group 64 [0] || (a.touched && !addrForm a.fwd 64 [0]) ||
        a.addresses.any (fun x => decide (4 ≤ addrSpace x))) stFORMAT,
      firstFailure (a.structures.map (s.rangeAccess t.job)), firstFailure (a.structures.map (s.rangeBound t.job)),
      failIf (a.structures.any (fun r => s.poisonedAt r.addr 64)) stPARITY,
      (match s.updCtx? t with
        | none => stFORMAT
        | some c =>
          let rs := s.updRanges c
          firstFailure
            [failIf (s.groupFormat c ||
                (a.touched && decide ((parseTable (s.readAddr a.fwd 64)).table ≠ c.g.id))) stFORMAT,
              firstFailure (rs.map rangeFormat),
              failIf (decide (a.op = updNORM) && (!s.nodeExists (addrNode a.norm))) stACCESS,
              firstFailure ((rs ++ s.updRegion c).map (s.rangeAccess t.job)),
              failIf (!c.dense && ((s.openTable? c.g.id).map (fun x => decide (x.job ≠ t.job))).getD false) stACCESS,
              firstFailure (rs.map (s.rangeBound t.job)),
              failIf (decide (a.op = updEXPORT) &&
                decide (a.scales < 64 + a.count * roundUp (c.g.n * (fmtBits a.outF / 8)) 64)) stBOUND])]

/-- What a dispatched UPDATE task writes on this module. -/
def State.updateOuts (s : State) (t : Task) : List (Nat × Nat) :=
  match s.updCtx? t with
  | some c => s.rangeKeys (s.updRanges c ++ s.updRegion c)
  | none => []

/-! ### Reading values with their poison -/

/-- An FP32 value and whether it lies in a poisoned block. -/
structure Val where
  bits : Nat
  num : Num
  poison : Bool
deriving DecidableEq, Repr

/-- The FP32 value at a memory key. -/
def State.valAt (s : State) (key : Nat) : Val :=
  let b := leNat (s.mem.readN key 4)
  ⟨b, ofFp32 b, s.mem.poisoned key 4⟩

/-- Write an FP32 value with its poison. -/
def valOps (key code : Nat) (poison : Bool) : List MemOp := markedWrite key ((leBytes 4 code).map (fun b => (b, poison)))

/-- Whether a K row of a dense group or a local row of a table is frozen (R332). -/
def State.rowFrozen (s : State) (g : GroupDesc) (r : Nat) : Bool :=
  g.frozen || (decide (g.freeze ≠ 0) && bit (leNat (s.mem.readN (g.freeze + r / 8) 1)) (r % 8))

/-- The freeze bit of a row lies in a poisoned block. -/
def State.freezeTaint (s : State) (g : GroupDesc) (r : Nat) : Option Nat :=
  if g.freeze = 0 then none else s.taint (g.freeze + r / 8) 1

/-- The exact sum of squares, rounded once. -/
def sumSquares (l : List Num) : Nat := toFp32 ((l.map (fun x => x.mul x)).foldl Num.add .zero)

/-- Sums of squares formed like the norm: blocks of 1,024 rounded, then their exact sum rounded (R328, R337). -/
def blockSquares (l : List Num) : Nat :=
  toFp32 (((chunks 1024 l).map (fun b => ofFp32 (sumSquares b))).foldl Num.add .zero)

/-! ### NORM (R328) -/

/-- The partial of gradient block q of a task's range: the exact sum of g² over its unfrozen elements, rounded once. -/
def State.normPartial (s : State) (c : UpdCtx) (q : Nat) : Nat :=
  let (u, n) := c.units
  let here := (List.range (Nat.min 1024 (n - 1024 * q))).map (· + 1024 * q)
  let live := here.filter (fun i => !s.rowFrozen c.g ((u + i) / c.g.n))
  sumSquares (live.map (fun i => (s.valAt (s.key c.a.grad + 4 * (c.localFirst + i))).num))

/-- The partials of a NORM task's blocks, in order. -/
def State.normPartials (s : State) (c : UpdCtx) : List Nat :=
  (List.range (ceilDiv c.units.2 1024)).map (s.normPartial c)

/-- The sum of partials as a cell image. -/
def normCell (l : List Nat) : ExactCell := l.foldl (fun a p => a.add (fp32Cell p)) ExactCell.zero

/-- The contribution of a NORM task: one X320 element (R300, R303, R328). -/
def normPacket (c : UpdCtx) (job : Nat) (cell : ExactCell) (poison : Bool) : Packet :=
  { Packet.blank with
    dst := addrNode c.a.norm, jobId := job, op := pktEXACT_ACC, tc := c.a.tc, addr := c.a.norm, length := 40,
    contribId := c.a.step * 2 ^ 32 + c.a.clip % 65536, poisonMap := flag poison, arg0 := 1,
    arg1 := csum c.a.norm [cell], payload := cell.bytes }

/-- NORM: the task sends its sum and waits for the response. -/
def State.normRun (s : State) (t : Task) : State :=
  if (parseUpd t.args).empty then s.applyResult t {}
  else match s.updCtx? t with
    | none => s.applyResult t { status := stFORMAT }
    | some c =>
      let taint := s.firstPoisonOf
        ((s.key c.a.grad + 4 * c.localFirst, 4 * c.units.2) :: (c.freezeRange.map (fun r => (s.key r.addr, r.len))))
      (s.setTask { t with poisonAt := taint }).queueRequests t.id (ioOfDie t.desc.place)
        [normPacket c t.job (normCell (s.normPartials c)) taint.isSome]

/-- NORM starts once. -/
def State.normStep (s : State) (id : TaskId) : State :=
  match s.runningTask? id engUPDATE updNORM with
  | some t => if s.requestsOf id = [] ∧ s.fabric.waiting.all (fun w => !decide (w.1 = id)) then s.normRun t else s
  | none => s

/-- NORM (R328). -/
def execNorm (id : TaskId) (s : State) : Host.Outcome State Fault Refusal := perform (.norm id) (s.normStep id)

/-! ### The rules (R327) -/

/-- The hyperparameters of an APPLY, and 1 − beta1^t and 1 − beta2^t. -/
structure Hyper where
  rule : Nat
  nesterov : Bool
  lr : Num
  lrScale : Num
  wd : Num
  beta1 : Num
  beta2 : Num
  eps : Num
  corr1 : Num
  corr2 : Num
deriving DecidableEq, Repr

/-- The hyperparameters of a group and an argument block at step t. -/
def UpdCtx.hyper (c : UpdCtx) (t : Nat) : Hyper :=
  let b1 := ofFp32 c.g.beta1
  let b2 := ofFp32 c.g.beta2
  { rule := c.g.rule, nesterov := c.g.nesterov, lr := ofFp32 c.g.lr, lrScale := ofFp32 c.a.lrScale, wd := ofFp32 c.g.wd,
    beta1 := b1, beta2 := b2, eps := ofFp32 c.g.eps, corr1 := Num.one.sub (b1.pow t), corr2 := Num.one.sub (b2.pow t) }

/-- w − lr · lr_scale · (d + wd · w), rounded once. -/
def Hyper.descend (h : Hyper) (w d : Num) : Nat := toFp32 (w.sub ((h.lr.mul h.lrScale).mul (d.add (h.wd.mul w))))

/-- beta · x + y, rounded once. -/
def mulAdd32 (beta x y : Num) : Nat := toFp32 ((beta.mul x).add y)

/-- apply of R327 for SGD, ADAMW and ADAGRAD: the new master value and state vectors, as FP32 bits. -/
def Hyper.apply (h : Hyper) (cf w g x y : Num) : Nat × List Nat :=
  let g1 := (g.mul cf).round32
  if h.rule = ruleSGD then
    let m := mulAdd32 h.beta1 x g1
    let d := if h.nesterov then mulAdd32 h.beta1 (ofFp32 m) g1 else m
    (h.descend w (ofFp32 d), [m])
  else if h.rule = ruleADAMW then
    let m := mulAdd32 h.beta1 x ((Num.one.sub h.beta1).mul g1)
    let v := mulAdd32 h.beta2 y (((Num.one.sub h.beta2).mul g1).mul g1)
    let d := ratioRoot (ofFp32 m) h.corr1 (ofFp32 v) h.corr2 h.eps
    (h.descend w (ofFp32 d), [m, v])
  else
    let v := toFp32 (x.add (g1.mul g1))
    let d := ratioRoot g1 .one (ofFp32 v) .one h.eps
    (h.descend w (ofFp32 d), [v])

/-- What an APPLY has done so far. -/
structure Applied where
  ops : List MemOp := []
  updated : Nat := 0
  frozen : Nat := 0
  /-- Elements not updated, and elements written with a non-finite result. -/
  skipped : Nat := 0
  bad : Nat := 0
  taint : Option Nat := none
deriving DecidableEq, Repr

/-- Two parts of an APPLY in order. -/
def Applied.plus (a b : Applied) : Applied :=
  { ops := a.ops ++ b.ops, updated := a.updated + b.updated, frozen := a.frozen + b.frozen, skipped := a.skipped + b.skipped,
    bad := a.bad + b.bad, taint := firstTaint [a.taint, b.taint] }

/-- Where an element lies: its master, its state vectors, and the poison that reaches it from outside (its gradient, the norm,
its freeze bit). -/
structure ElemPlace where
  master : Nat
  slots : List Nat
  taint : Option Nat
deriving DecidableEq, Repr

/-- One element under R327; an element whose gradient is not finite is not updated. -/
def State.applyElem (s : State) (h : Hyper) (cf g : Num) (p : ElemPlace) : Applied :=
  let taint := firstTaint ([p.taint, s.taint p.master 4] ++ p.slots.map (fun k => s.taint k 4))
  if !g.isFinite then { skipped := 1, taint := taint }
  else
    let w := s.valAt p.master
    let st := p.slots.map s.valAt
    let at_ := fun i => ((st[i]?).map (·.num)).getD .zero
    let (w1, st1) := h.apply cf w.num g (at_ 0) (at_ 1)
    let dirty := p.taint.isSome
    let stDirty := st.any (·.poison)
    { ops := valOps p.master w1 (dirty || w.poison || stDirty) ++
        ((p.slots.zip st).zip st1).flatMap (fun e => valOps e.1.1 e.2 (dirty || e.1.2.poison)),
      updated := 1, taint := taint,
      bad := flag (!((w1 :: st1).all (fun b => (ofFp32 b).isFinite))) }

/-! ### Dense APPLY (R327, R329, R330) -/

/-- A gradient: its value, its poison, and the conversion of a cell (R330). -/
def State.gradAt (s : State) (a : UpdArgs) (l : Nat) : Val × Tele :=
  if a.gradSrc then
    let k := s.key a.grad + 64 * l
    let c := parseCell (s.mem.readN k 40)
    let (b, tele) := convertRne fmtFP32 c.value
    (⟨b, ofFp32 b, c.poison || s.mem.poisoned k 64⟩, tele)
  else (s.valAt (s.key a.grad + 4 * l), {})

/-- The first poisoned block of a gradient. -/
def State.gradTaint (s : State) (a : UpdArgs) (l : Nat) : Option Nat :=
  let k := s.key a.grad + (if a.gradSrc then 64 else 4) * l
  if (s.gradAt a l).1.poison then some (s.addrOfKey (k / 64 * 64)) else none

/-- min(1, clip ÷ √n2), rounded once; none where the spec states no value: a quotient that is no number. -/
def clipFactor (clip n2 : Num) : Option Nat :=
  if n2.isNonzero = false ∧ n2.isFinite then some 0x3F800000
  else
    let q := ratioRoot clip .one n2 .one .zero
    match ofFp32 q with
    | .nan => none
    | v => some (if Num.one.lt v then 0x3F800000 else q)

/-- Unit u (place i of the task's range) of a dense group. -/
def State.denseElem (s : State) (c : UpdCtx) (h : Hyper) (cf : Num) (cfTaint : Option Nat) (i : Nat) : Applied :=
  let u := c.units.1 + i
  let l := c.localFirst + i
  if s.rowFrozen c.g (u / c.g.n) then { frozen := 1, taint := s.freezeTaint c.g (u / c.g.n) }
  else s.applyElem h cf (s.gradAt c.a l).1.num
    ⟨c.g.master + 4 * l, (List.range c.g.sv).map (fun j => c.g.state + 4 * c.g.sv * l + 4 * j),
      firstTaint [cfTaint, s.freezeTaint c.g (u / c.g.n), s.gradTaint c.a l]⟩

/-! ### KRON (R333) -/

/-- A 128 × 128 FP32 matrix. -/
abbrev Matrix := List (List Val)

/-- The matrix at a memory key. -/
def State.matrixAt (s : State) (key : Nat) : Matrix :=
  (List.range 128).map (fun i => (List.range 128).map (fun j => s.valAt (key + 512 * i + 4 * j)))

/-- Element (i, j) of a matrix; zero beyond it. -/
def Matrix.at (m : Matrix) (i j : Nat) : Val := (m.getD i []).getD j ⟨0, .zero, false⟩

/-- Build a matrix from its elements. -/
def Matrix.build (f : Nat → Nat → Val) : Matrix := (List.range 128).map (fun i => (List.range 128).map (f i))

/-- The exact inner product of two lists. -/
def innerProduct (a b : List Num) : Num := ((a.zip b).map (fun p => p.1.mul p.2)).foldl Num.add .zero

/-- Row i. -/
def Matrix.row (m : Matrix) (i : Nat) : List Num := (m.getD i []).map (·.num)

/-- Column j. -/
def Matrix.col (m : Matrix) (j : Nat) : List Num := m.map (fun r => (r.getD j ⟨0, .zero, false⟩).num)

/-- Whether an element of row i, of column j, or of the whole matrix is poisoned. -/
def Matrix.rowPoison (m : Matrix) (i : Nat) : Bool := (m.getD i []).any (·.poison)
def Matrix.colPoison (m : Matrix) (j : Nat) : Bool := m.any (fun r => (r.getD j ⟨0, .zero, false⟩).poison)
def Matrix.poisoned (m : Matrix) : Bool := m.any (fun r => r.any (·.poison))

/-- A value from its FP32 bits. -/
def Val.of (b : Nat) (poison : Bool) : Val := ⟨b, ofFp32 b, poison⟩

/-- The matrix product, each entry an exact sum rounded once. -/
def Matrix.mul (a b : Matrix) : Matrix :=
  let cols := (List.range 128).map b.col
  Matrix.build (fun i j => Val.of (toFp32 (innerProduct (a.row i) (cols.getD j []))) (a.rowPoison i || b.colPoison j))

/-- The exact sum of the squares of a matrix, rounded once. -/
def Matrix.squares (m : Matrix) : Num := ofFp32 (sumSquares (m.flatten.map (·.num)))

/-- Whether all elements are finite. -/
def Matrix.finite (m : Matrix) : Bool := m.all (fun r => r.all (fun v => v.num.isFinite))

/-- Write a matrix. -/
def Matrix.ops (key : Nat) (m : Matrix) : List MemOp :=
  markedWrite key (m.flatten.flatMap (fun v => (leBytes 4 v.bits).map (fun b => (b, v.poison))))

/-- beta2 · F + (1 − beta2) · (product), each entry rounded once; line i is the i-th row or column of G. -/
def statisticsStep (beta2 : Num) (f : Matrix) (line : Nat → List Num) (dirty : Nat → Bool) : Matrix :=
  let lines := (List.range 128).map line
  Matrix.build (fun i j =>
    Val.of (mulAdd32 beta2 (f.at i j).num ((Num.one.sub beta2).mul (innerProduct (lines.getD i []) (lines.getD j []))))
      ((f.at i j).poison || dirty i || dirty j))

/-- The preconditioned gradient, grafted to the gradient's norm. -/
def kronDirection (lr g rr : Matrix) : Matrix :=
  let p := (lr.mul g).mul rr
  let gs := g.squares
  let ps := p.squares
  let dirty := lr.poisoned || g.poisoned || rr.poisoned
  if ps.isFinite ∧ ps.isNonzero = false then Matrix.build (fun i j => { g.at i j with poison := dirty })
  else Matrix.build (fun i j => Val.of (ratioRoot (p.at i j).num .one ps gs .zero) dirty)

/-- kron_tile of R333 for tile (b, col). -/
def State.kronTile (s : State) (c : UpdCtx) (h : Hyper) (cf : Num) (cfTaint : Option Nat) (b col : Nat) : Applied :=
  let (rows, cols) := c.tileShape b col
  let key := c.tileKey b col
  let index := fun i j => c.map.localIndex ((128 * b + i) * c.g.n + 128 * col + j) c.own
  let g := Matrix.build (fun i j =>
    if i < rows ∧ j < cols then
      let x := (s.gradAt c.a (index i j)).1
      Val.of (toFp32 (x.num.mul cf)) (x.poison || cfTaint.isSome)
    else ⟨0, .zero, false⟩)
  let gradTaints := (List.range rows).flatMap (fun i => (List.range cols).map (fun j => s.gradTaint c.a (index i j)))
  let taint := firstTaint (cfTaint :: gradTaints)
  if !g.finite then { skipped := rows * cols, taint := taint }
  else
    let lf := statisticsStep h.beta2 (s.matrixAt key) g.row g.rowPoison
    let rf := statisticsStep h.beta2 (s.matrixAt (key + 0x10000)) g.col g.colPoison
    let p := kronDirection (s.matrixAt (key + 0x20000)) g (s.matrixAt (key + 0x30000))
    let elems := (List.range rows).flatMap (fun i => (List.range cols).map (fun j =>
      if s.rowFrozen c.g (128 * b + i) then ({ frozen := 1, taint := s.freezeTaint c.g (128 * b + i) } : Applied)
      else
        let mk := c.g.state + 4 * index i j
        let wk := c.g.master + 4 * index i j
        let m := s.valAt mk
        let w := s.valAt wk
        let dirty := (p.at i j).poison || (s.freezeTaint c.g (128 * b + i)).isSome
        let m1 := mulAdd32 h.beta1 m.num (p.at i j).num
        let w1 := h.descend w.num (ofFp32 m1)
        { ops := valOps mk m1 (dirty || m.poison) ++ valOps wk w1 (dirty || m.poison || w.poison), updated := 1,
          bad := flag (!((ofFp32 m1).isFinite && (ofFp32 w1).isFinite)),
          taint := firstTaint [s.freezeTaint c.g (128 * b + i), s.taint wk 4, s.taint mk 4] }))
    elems.foldl Applied.plus
      { ops := lf.ops key ++ rf.ops (key + 0x10000), taint := firstTaint [taint, s.taint key 262144] }

/-! ### The statistics record (R337, R338) -/

/-- The numbers of a statistics record. -/
structure UpdStats where
  group : Nat := 0
  step : Nat := 0
  updated : Nat := 0
  frozen : Nat := 0
  nonfinite : Nat := 0
  cf : Nat := 0x3F800000
  updSq : Nat := 0
  wSq : Nat := 0
  rows : Nat := 0
  maxCount : Nat := 0
deriving DecidableEq, Repr

/-- √(upd_sq ÷ w_sq), rounded once (R337). -/
def UpdStats.ratio (x : UpdStats) : Nat :=
  let u := ofFp32 x.updSq
  let w := ofFp32 x.wSq
  let zero := fun (v : Num) => v.isFinite && !v.isNonzero
  if zero w then (if zero u then 0 else if u = .nan then nan32 else inf32 false) else ratioRoot .one .one w u .zero

/-- The 64 bytes of the record. -/
def UpdStats.bytes (x : UpdStats) : List Byte :=
  leBytes 4 (x.group % 4096) ++ leBytes 4 x.step ++ leBytes 4 x.updated ++ leBytes 4 x.frozen ++ leBytes 4 x.nonfinite ++
    leBytes 4 x.cf ++ leBytes 4 x.updSq ++ leBytes 4 x.wSq ++ leBytes 4 x.ratio ++ leBytes 4 x.rows ++
    leBytes 4 x.maxCount ++ List.replicate 20 0

/-- The changes of a list of master values: an unchanged one changes by nothing. -/
def changes (old new : List Val) : List Num :=
  (old.zip new).map (fun p => if p.1.bits = p.2.bits then Num.zero else p.2.num.sub p.1.num)

/-- The write of a statistics record, if the task asks for one; poisoned where the task has consumed poison, on which its counts
and sums depend (R345). -/
def State.updStatsOps (s : State) (a : UpdArgs) (x : UpdStats) (poison : Bool) : List MemOp :=
  if a.stats = 0 then [] else markedWrite (s.key a.stats) (x.bytes.map (fun b => (b, poison)))

/-- The counters and events that an APPLY leaves (R327, R332, R340). -/
def applyBumps (r : Applied) : List (Field × Nat) :=
  [(Reg.UPD_CNT_ELEMENTS, r.updated), (Reg.UPD_CNT_FROZEN, r.frozen), (Reg.UPD_CNT_NONFINITE, r.skipped + r.bad)]

/-- nonfinite is posted where an APPLY met a norm, gradient or result that is not finite; no rule names a unit (R395). -/
def applyEvents (r : Applied) : List (Field × Nat × Nat) :=
  if 0 < r.skipped + r.bad then [(Reg.UPD_EVENT_nonfinite, 0xFF, 0)] else []

/-- An APPLY whose ratio exceeds the limit posts ratio_high with the group and step (R338). -/
def State.ratioWatch (s : State) (x : UpdStats) : State :=
  if s.reg Reg.UPD_RATIO_CFG_enable = 1 ∧ (ofFp32 (s.reg Reg.UPD_RATIO_CFG_limit)).lt (ofFp32 x.ratio) then
    s.post Reg.UPD_EVENT_ratio_high 0xFF x.group x.step
  else s

/-- The clip factor of a dense APPLY: its FP32 bits, whether the norm is not finite, the poison of the norm, and the free
values drawn where the factor has no stated value (R329). -/
def State.clipOf (s : State) (a : UpdArgs) : Nat × Bool × Option Nat × Nat :=
  if a.clipEn then
    let n2 := s.valAt (s.key a.norm)
    let taint := s.taint (s.key a.norm) 4
    if !n2.num.isFinite then (Config.freeValue s.free % 2 ^ 32, true, taint, 1)
    else match clipFactor (ofFp32 a.clip) n2.num with
      | some c => (c, false, taint, 0)
      | none => (Config.freeValue s.free % 2 ^ 32, false, taint, 1)
  else (0x3F800000, false, none, 0)

/-- A dense APPLY (R327 to R330, R333). -/
def State.applyDense (s : State) (t : Task) (c : UpdCtx) : State :=
  let n := c.units.2
  let (cf, bad, cfTaint, draws) := s.clipOf c.a
  let h := c.hyper c.a.step
  let r : Applied :=
    if bad then { skipped := n, taint := cfTaint }
    else if c.g.rule = ruleKRON then
      (if c.g.frozen then { frozen := n }
       else (c.tiles.map (fun x => s.kronTile c h (ofFp32 cf) cfTaint x.1 x.2)).foldl Applied.plus {})
    else ((List.range n).map (s.denseElem c h (ofFp32 cf) cfTaint)).foldl Applied.plus {}
  let tele := if c.a.gradSrc && !bad then
      ((List.range n).map (fun i => (s.gradAt c.a (c.localFirst + i)).2)).foldl Tele.plus {}
    else {}
  let after := s.memOps r.ops
  let live := (List.range n).filter (fun i => !s.rowFrozen c.g ((c.units.1 + i) / c.g.n))
  let key := fun i => c.g.master + 4 * (c.localFirst + i)
  let inBlocks := fun (f : List Nat → List Num) =>
    toFp32 (((List.range (ceilDiv n 1024)).map (fun q =>
      ofFp32 (sumSquares (f (live.filter (fun i => decide (i / 1024 = q))))))).foldl Num.add .zero)
  let x : UpdStats :=
    { group := c.g.id, step := c.a.step, updated := r.updated, frozen := r.frozen, nonfinite := r.skipped, cf := cf,
      updSq := inBlocks (fun l => changes (l.map (fun i => s.valAt (key i))) (l.map (fun i => after.valAt (key i)))),
      wSq := inBlocks (fun l => l.map (fun i => (after.valAt (key i)).num)) }
  (s.applyResult t
    { ops := r.ops ++ s.updStatsOps c.a x r.taint.isSome, bumps := applyBumps r ++ teleBumps fmtFP32 tele,
      events := applyEvents r, poisonAt := r.taint, draws := draws }).ratioWatch x

/-! ### Table APPLY (R331) -/

/-- What a touched APPLY has done so far. -/
structure TableApplied where
  sum : Applied := {}
  old : List Val := []
  new : List Val := []
  rows : Nat := 0
  outOfRange : Nat := 0
  saturated : Nat := 0
  maxCount : Nat := 0
  tele : Tele := {}
  blocks : List BlockStat := []
deriving DecidableEq, Repr

/-- One listed row: its step count, its elements, and its stored copy in the live epoch's region. -/
def State.applyRow (s : State) (c : UpdCtx) (x : OpenTable) (l : Nat) (listTaint : Option Nat) (r : TableApplied) :
    State × TableApplied :=
  let key := c.g.state + l * c.g.rs
  if c.ownedRows ≤ l then (s, { r with outOfRange := r.outOfRange + 1, sum := r.sum.plus { taint := listTaint } })
  else if s.rowFrozen c.g l then
    (s, { r with sum := r.sum.plus { frozen := c.g.n, taint := firstTaint [listTaint, s.freezeTaint c.g l] } })
  else
    let countVal := s.valAt key
    let taint := firstTaint [listTaint, s.freezeTaint c.g l, s.taint key 4]
    let sat := decide (countVal.bits = 2 ^ 32 - 1)
    let t := if sat then countVal.bits else countVal.bits + 1
    let h := c.hyper t
    let gradKey := fun i => s.key c.a.grad + l * c.g.gs + 4 * i
    let elems := (List.range c.g.n).map (fun i =>
      s.applyElem h .one (s.valAt (gradKey i)).num
        ⟨key + 0x40 + 4 * i, (List.range c.g.sv).map (fun j => key + 0x40 + (1 + j) * c.g.gs + 4 * i),
          firstTaint [taint, s.taint (gradKey i) 4]⟩)
    let sum := elems.foldl Applied.plus {}
    let head := markedWrite key ((leBytes 4 t ++ leBytes 4 c.a.step).map (fun b => (b, taint.isSome)))
    let masters := (List.range c.g.n).map (fun i => key + 0x40 + 4 * i)
    let s1 := s.memOps (head ++ sum.ops)
    let row := masters.map (fun k => let v := s1.valAt k; (⟨v.num, v.bits, v.poison⟩ : SourceElem))
    let stored := storeRow fmtFP32 x.format row
    let s2 := s1.memOps (markedWrite (x.region x.live + l * s.tableStride x.table) stored.1)
    (s2, { r with
      sum := r.sum.plus { sum with ops := [], taint := firstTaint [taint, sum.taint] }, old := r.old ++ masters.map s.valAt,
      new := r.new ++ masters.map s1.valAt, rows := r.rows + 1, saturated := r.saturated + flag sat,
      maxCount := Nat.max r.maxCount t, tele := r.tele.plus stored.2.1, blocks := r.blocks ++ stored.2.2 })

/-- The listed rows in order. -/
def State.applyRows (c : UpdCtx) (x : OpenTable) : List Nat → State → TableApplied → State × TableApplied
  | [], s, r => (s, r)
  | i :: rest, s, r =>
    let k := s.key c.a.list + 8 * i
    let (s1, r1) := s.applyRow c x (leNat (s.mem.readN k 8)) (s.taint k 8) r
    State.applyRows c x rest s1 r1

/-- A touched APPLY of a table (R331). -/
def State.applyTable (s : State) (t : Task) (c : UpdCtx) : State :=
  match s.openTable? c.g.id with
  | none => s.applyResult t { status := stFORMAT }
  | some x =>
    let head := s.taint (s.key c.a.nTouched) 4
    let (s1, r) := State.applyRows c x (List.range (s.touchedCount c.a)) s { sum := { taint := head } }
    let st : UpdStats :=
      { group := c.g.id, step := c.a.step, updated := r.sum.updated, frozen := r.sum.frozen, nonfinite := r.sum.skipped,
        updSq := blockSquares (changes r.old r.new), wSq := blockSquares (r.new.map (·.num)), rows := r.rows,
        maxCount := r.maxCount }
    (s1.applyResult t
      { ops := s.updStatsOps c.a st r.sum.taint.isSome,
        bumps := applyBumps r.sum ++ teleBumps x.format r.tele ++
          [(Reg.UPD_CNT_ROWS, r.rows), (Reg.UPD_CNT_STEP_SAT, r.saturated), (Reg.MEM_CNT_INDEX_RANGE, r.outOfRange)],
        events := applyEvents r.sum ++ (if 0 < r.saturated then [(Reg.UPD_EVENT_step_sat, 0xFF, 0)] else []),
        blocks := r.blocks, poisonAt := r.sum.taint }).ratioWatch st

/-- The group descriptor of an UPDATE task can be read. -/
def State.groupReadable (s : State) (t : Task) (a : UpdArgs) : Bool :=
  let r : Range := { addr := a.group, len := 64, read := true }
  addrForm a.group 64 [0] && decide (s.rangeAccess t.job r = stOK) && decide (s.rangeBound t.job r = stOK) &&
    !s.poisonedAt a.group 64

/-- The statistics record of an APPLY that fails at dispatch: nothing was updated, and what the spec does not state of it
is left open: the group where its descriptor could not be read, and the clip factor of clip_en (R337; log entry 2). -/
def State.updFailedStats (s : State) (t : Task) : List MemOp :=
  let a := parseUpd t.args
  let r := statsRange a.stats
  if a.op = updAPPLY ∧ a.stats ≠ 0 ∧ s.vetRanges t.job [r] [] = stOK then
    let x : UpdStats := { group := if s.groupReadable t a then (parseGroupDesc (s.readAddr a.group 64)).id
                                   else Config.freeValue s.free % 4096,
                          step := a.step,
                          cf := if a.clipEn then Config.freeValue (s.free + 1) % 2 ^ 32 else 0x3F800000 }
    s.updStatsOps a x false
  else []

/-- APPLY as an engine step. -/
def State.applyStep (s : State) (id : TaskId) : State :=
  match s.runningTask? id engUPDATE updAPPLY with
  | none => s
  | some t =>
    if (parseUpd t.args).empty then s.applyResult t {}
    else match s.updCtx? t with
      | none => s.applyResult t { status := stFORMAT }
      | some c => if c.dense then s.applyDense t c else s.applyTable t c

/-- APPLY (R327). -/
def execApply (id : TaskId) (s : State) : Host.Outcome State Fault Refusal := perform (.apply id) (s.applyStep id)

/-! ### ROOT (R334) -/

/-- The identity scaled by a value. -/
def Matrix.diagonal (v : Num → Nat) (x : Num) : Matrix :=
  Matrix.build (fun i j => if i = j then Val.of (v x) false else Val.of 0 false)

/-- The largest row sum of magnitudes, rounded once. -/
def Matrix.rowNorm (m : Matrix) : Num :=
  let sums : List Num := m.map (fun (r : List Val) => (r.map (fun v => v.num.abs)).foldl Num.add .zero)
  (sums.foldl (fun (a b : Num) => if b = .nan ∨ a = .nan then .nan else if a.lt b then b else a) .zero).round32

/-- Newton steps: X and M after it steps. -/
def newtonSteps : Nat → Matrix → Matrix → Matrix
  | 0, x, _ => x
  | it + 1, x, m =>
    let t := Matrix.build (fun i j =>
      Val.of (toFp32 (((if i = j then Num.fin false 5 0 else .zero).sub (m.at i j).num).scale (-2))) (m.at i j).poison)
    let x1 := x.mul t
    let t2 := t.mul t
    newtonSteps it x1 ((t2.mul t2).mul m)

/-- root of R334: the inverse fourth root of a factor, and whether it failed. -/
def rootOf (eps : Num) (iters : Nat) (a0 : Matrix) : Matrix × Bool :=
  let a := Matrix.build (fun i j => let v := a0.at i j; if i = j then Val.of (toFp32 (v.num.add eps)) v.poison else v)
  let c := a.rowNorm
  let dirty := a0.poisoned
  if !c.isNonzero || !a.finite then (Matrix.build (fun _ _ => ⟨0, .zero, dirty⟩), true)
  else
    let x := Matrix.build (fun i j => Val.of (if i = j then invFourthRoot c else 0) dirty)
    let m := Matrix.build (fun i j => Val.of (div32 (a.at i j).num c) dirty)
    (newtonSteps iters x m, false)

/-- ROOT of one tile: both roots, written once both are known. -/
def State.rootTile (s : State) (c : UpdCtx) (b col : Nat) : List MemOp × Nat :=
  let key := c.tileKey b col
  let eps := ofFp32 c.g.eps
  let (l, fl) := rootOf eps c.a.iters (s.matrixAt key)
  let (r, fr) := rootOf eps c.a.iters (s.matrixAt (key + 0x10000))
  (l.ops (key + 0x20000) ++ r.ops (key + 0x30000), flag fl + flag fr)

/-- A ROOT task's run. -/
def State.rootRun (s : State) (t : Task) : Result :=
  if (parseUpd t.args).empty then {}
  else match s.updCtx? t with
    | none => { status := stFORMAT }
    | some c =>
      let parts := c.tiles.map (fun x => s.rootTile c x.1 x.2)
      { ops := parts.flatMap (·.1),
        bumps := [(Reg.UPD_CNT_ROOT_TILES, 2 * parts.length), (Reg.UPD_CNT_ROOT_FAIL, sumNat (parts.map (·.2)))],
        poisonAt := s.firstPoisonOf (c.tiles.map (fun x => (c.tileKey x.1 x.2, 0x20000))) }

/-- ROOT (R334). -/
def execRoot (id : TaskId) (s : State) : Host.Outcome State Fault Refusal :=
  perform (.root id) (s.engineStep id engUPDATE updROOT s.rootRun)

/-! ### STORE (R335) -/

/-- The master rows of a task's band range. -/
def State.masterRows (s : State) (c : UpdCtx) : List (List SourceElem) :=
  (List.range c.a.count).map (fun i =>
    s.sourceRow fmtFP32 (c.g.master + 4 * (c.localFirst + i * c.g.n)) (4 * c.g.n))

/-- The forward copy's part: data, scale entries and summaries of the rows from first on. -/
def State.storeForward (s : State) (c : UpdCtx) (m : List (List SourceElem)) : StoreResult :=
  let g := c.g
  let rot := if g.rotated then rotOrder g.rotSize else 0
  let r := convertScaled g.format 0 1 c.a.count g.n false (fun _ _ => 0) rot m
  let elems := r.rows.map (fun l => l.map (·.elem))
  let kt := ceilDiv g.k 128
  let b0 := c.a.first / 128
  let bands := List.range (ceilDiv c.a.count 128)
  let cols := List.range g.colTiles
  let pt := ceilDiv kt 2
  let padded := List.replicate c.a.first [] ++ elems
  let slots := if g.compress then
      cols.flatMap (fun j => (List.range (ceilDiv c.a.count 256)).map (fun i =>
        let p := c.a.first / 256 + i
        ((j * pt + p) * slotBytes g.format, storePair g.format g.policy g.k padded j p)))
    else []
  let data := if g.compress then slots.flatMap (fun p => markedWrite (s.key c.a.fwd + p.1) p.2.bytes)
    else cols.flatMap (fun j => bands.flatMap (fun i =>
      markedWrite (s.key c.a.fwd + (j * kt + b0 + i) * tileBytesOf g.format) (stationaryTile g.format elems i j)))
  let base := c.a.first / 32 * g.n
  let summ := cols.flatMap (fun j => bands.flatMap (fun i =>
    let t := j * kt + b0 + i
    markedWrite (s.key c.a.fwdSummary + 16 * t)
      ((scaledSummary g.format (if g.rotated then g.rotSize + 1 else 0) (tileElems r.rows i j)).bytes t)))
  { ops := data ++ markedWrite (s.key c.a.scales + 2 * base) (scaleStream base r.scales) ++ summ, tele := r.tele,
    blocks := r.blocks, slots := slots.map (·.2) }

/-- The backward copy's part: W_b is n × k, its columns the task's rows. -/
def State.storeBackward (s : State) (c : UpdCtx) (m : List (List SourceElem)) : StoreResult :=
  let g := c.g
  let f := fmtE4M3
  let w := transposeLists g.n ⟨.zero, 0, false⟩ m
  let r := convertScaled f 0 1 g.n c.a.count false (fun _ _ => 0) 0 w
  let elems := r.rows.map (fun l => l.map (·.elem))
  let kt := ceilDiv g.n 128
  let c0 := c.a.first / 128
  let places := (List.range (ceilDiv c.a.count 128)).flatMap (fun i => (List.range kt).map (fun b => (i, b)))
  let data := places.flatMap (fun p =>
    markedWrite (s.key c.a.out + ((c0 + p.1) * kt + p.2) * tileBytesOf f) (stationaryTile f elems p.2 p.1))
  let scales := (chunks c.a.count r.scales).zipIdx.flatMap (fun p =>
    let base := p.2 * g.k + c.a.first
    markedWrite (s.key c.a.bwdScales + 2 * base) (scaleStream base p.1))
  let summ := places.flatMap (fun p =>
    let t := (c0 + p.1) * kt + p.2
    markedWrite (s.key c.a.bwdSummary + 16 * t) ((scaledSummary f 0 (tileElems r.rows p.2 p.1)).bytes t))
  { ops := data ++ scales ++ summ, tele := r.tele, blocks := r.blocks, slots := [] }

/-- A STORE task's run: the compression events count on tile 0 of the die. -/
def State.storeRun (s : State) (t : Task) : Result :=
  if (parseUpd t.args).empty then {}
  else match s.updCtx? t with
    | none => { status := stFORMAT }
    | some c =>
      let m := s.masterRows c
      let f := s.storeForward c m
      let b := if c.g.bwd then s.storeBackward c m else ⟨[], {}, [], []⟩
      let tile := 8 * t.desc.place
      { ops := f.ops ++ b.ops,
        bumps := teleBumps c.g.format f.tele ++ teleBumps fmtE4M3 b.tele ++ (if c.g.compress then slotBumps tile f.slots else []),
        events := (f.slots.filter (fun q => decide (q.cause = 2))).map (fun _ => (Reg.TIL_SPR_EVENT_dense_policy tile, tile, 0)),
        blocks := f.blocks ++ b.blocks,
        poisonAt := s.firstPoisonOf [(c.g.master + 4 * c.localFirst, 4 * c.units.2)] }

/-- STORE (R335). -/
def execStore (id : TaskId) (s : State) : Host.Outcome State Fault Refusal :=
  perform (.store id) (s.engineStep id engUPDATE updSTORE s.storeRun)

/-! ### EXPORT (R339) -/

/-- The global row of the first exported row. -/
def UpdCtx.firstRow (c : UpdCtx) : Nat :=
  if c.dense || c.edgeRows.isSome then c.a.first
  else match (localRanges c.owned 0).find? (fun r => decide (r.1 ≤ c.a.first) && decide (c.a.first < r.2.1)) with
    | some r => r.2.2 + (c.a.first - r.1)
    | none => c.a.first

/-- The 64-byte record of an EXPORT. -/
def UpdCtx.exportHeader (c : UpdCtx) (stride : Nat) : List Byte :=
  leBytes 4 0x504E5351 ++ leBytes 2 (c.g.id + (if c.dense then 0 else 4096)) ++ leBytes 2 c.a.outF ++ leBytes 4 c.a.step ++
    leBytes 4 c.g.n ++ leBytes 8 c.firstRow ++ leBytes 8 c.a.count ++ leBytes 8 (c.a.count * stride) ++ leBytes 2 c.own ++
    List.replicate 22 0

/-- An EXPORT task's run. -/
def State.exportRun (s : State) (t : Task) : Result :=
  if (parseUpd t.args).empty then {}
  else match s.updCtx? t with
    | none => { status := stFORMAT }
    | some c =>
      let stride := roundUp (c.g.n * (fmtBits c.a.outF / 8)) 64
      let keyOf := fun i => if c.dense then c.g.master + 4 * (c.localFirst + i * c.g.n)
        else c.g.state + (c.localFirst + i) * c.g.rs + 0x40
      let rows := (List.range c.a.count).map (fun i =>
        (s.sourceRow fmtFP32 (keyOf i) (4 * c.g.n)).map (fun e =>
          let (code, tele) := convertRne c.a.outF e.value
          ((⟨code, e.poison⟩ : Elem), tele)))
      { ops := .write (s.key c.a.out) (c.exportHeader stride) :: rows.zipIdx.flatMap (fun p =>
          markedWrite (s.key c.a.out + 0x40 + p.2 * stride) (packMarked c.a.outF (p.1.map (·.1)))),
        bumps := teleBumps c.a.outF ((rows.flatMap (fun r => r.map (·.2))).foldl Tele.plus {}),
        poisonAt := s.firstPoisonOf ((List.range c.a.count).map (fun i => (keyOf i, 4 * c.g.n))) }

/-- EXPORT (R339). -/
def execExportRows (id : TaskId) (s : State) : Host.Outcome State Fault Refusal :=
  perform (.exportRows id) (s.engineStep id engUPDATE updEXPORT s.exportRun)

end Sys2Proof.Machine
end

