-- ==== Sys2Proof/Machine/Engines.lean ====
section
/-!
DEFINITION. Dispatch (R54, R59): which ready task a free engine takes, and the checks of its argument block.
-/

namespace Sys2Proof.Machine

/-! ### The task an engine takes (R59) -/

/-- Since when a task is on a ready list. -/
def Task.readySince (t : Task) : Nat :=
  match t.phase with
  | .ready since => since
  | _ => 0

/-- Whether a task is on a ready list. -/
def Task.isReady (t : Task) : Bool :=
  match t.phase with
  | .ready _ => true
  | _ => false

/-- A task goes before another: higher priority, then ready longer, then the lower table index (R59). -/
def Task.before (a b : Task) : Bool :=
  if a.desc.priority ≠ b.desc.priority then decide (b.desc.priority < a.desc.priority)
  else if a.readySince ≠ b.readySince then decide (a.readySince < b.readySince)
  else decide (a.id.index < b.id.index)

/-- Ready tasks of an engine class at a place that may be dispatched: their jobs run (R346) and no FIX holds them
(R318). -/
def State.candidates (s : State) (engine place : Nat) : List Task :=
  s.tasks.filter (fun t => t.isReady && decide (t.desc.engine = engine) && decide (t.runTile = place) &&
    s.jobRuns t.job && !s.fixHolds t.job)

/-- The task that the engine takes next. -/
def State.nextTask? (s : State) (engine place : Nat) : Option Task :=
  match s.candidates engine place with
  | [] => none
  | h :: r => some (r.foldl (fun a b => if b.before a then b else a) h)

/-- The engine a task needs is free (R59): a slot of each tile it holds, where a product that only drains no longer holds its slot
against the next product (R206), or its die's engine; NOP needs none, and an I/O die runs its tasks many at a time. -/
def State.engineFree (s : State) (t : Task) : Bool :=
  let running := s.tasks.filter (fun u => decide (u.phase = .running))
  if isTileClass t.desc.engine then
    let tiles := s.heldTiles t
    running.all (fun u => !(isTileClass u.desc.engine && enginesClash u.desc.engine t.desc.engine &&
      (s.heldTiles u).any tiles.contains) || (decide (u.desc.engine = t.desc.engine) && s.draining u))
  else if t.desc.engine = engSAMPLE ∨ t.desc.engine = engUPDATE then
    running.all (fun u => !(decide (u.desc.engine = t.desc.engine) && decide (u.desc.place = t.desc.place)))
  else true

/-! ### The argument block (R54) -/

/-- The size of the argument block of a task's class; a reserved EDGE op has none (R175). The block's own fields give it
for EDGE and SAMPLE. -/
def State.blockSize (s : State) (d : TaskDesc) : Nat :=
  if d.engine = engARRAY_A ∨ d.engine = engARRAY_B ∨ d.engine = engARRAY_AB ∨ d.engine = engUPDATE then 128
  else if d.engine = engVECTOR then 352
  else if d.engine = engEDGE then edgeArgBytes (s.readLe d.args 1)
  else if d.engine = engSAMPLE then sampleArgBytes (s.readLe d.args 1)
  else 64

/-- Whether args_bytes is below the block's size, or the block's op is reserved: FORMAT before any other check (R54). -/
def State.blockShort (s : State) (d : TaskDesc) : Bool :=
  decide (s.blockSize d = 0) || decide (d.argsBytes < s.blockSize d)

/-- The checks of an EDGE op. TABLE_OPEN, TABLE_SWAP and TABLE_REFRESH may not be speculative (06). -/
def State.edgeCheck (s : State) (t : Task) : Nat :=
  let op := fieldLe t.args 0 1
  if op = 1 then s.gatherCheck t
  else if op = 2 then s.segCheck t
  else if op = 3 then s.scatterCheck t
  else if op = 4 then s.intersectCheck t
  else if op = 0x20 then s.lookupCheck t
  else if op = 0x21 then s.pushCheck t
  else if t.desc.spec then stFORMAT
  else if op = 0x22 then s.tableOpenCheck t
  else if op = 0x23 then s.tableSwapCheck t
  else s.refreshCheck t

/-- The checks of a task's argument block, by its class. -/
def State.argsCheck (s : State) (t : Task) : Nat :=
  match t.desc.engine with
  | 0 => stOK
  | 1 => s.productCheck t
  | 2 => s.productCheck t
  | 3 => s.gradCheck t
  | 4 => s.edgeCheck t
  | 5 => s.chainCheck t
  | 6 => s.dmaCheck t
  | 7 => s.sampleCheck t
  | 8 => s.updateCheck t
  | 9 => s.remoteCheck t
  | 10 => s.collCheck t
  | _ => s.hostCheck t

/-- The memory a dispatched task may write, by its class. -/
def State.argsOuts (s : State) (t : Task) : List (Nat × Nat) :=
  match t.desc.engine with
  | 1 => s.productWrites t
  | 2 => s.productWrites t
  | 3 => s.gradWrites t
  | 4 => s.edgeOuts t ++ s.tableOuts t
  | 5 => s.chainWrites t
  | 6 => s.dmaOuts t
  | 7 => s.sampleOuts t
  | 8 => s.updateOuts t
  | 10 => s.collOuts t.args
  | 11 => s.hostOuts t
  | _ => []

/-- The memory that a dispatched EDGE, VECTOR or PRODUCT_SPARSE task reads, at the size its block gives (R177, R233, R251). -/
def State.argsIns (s : State) (t : Task) : List (Nat × Nat) :=
  match t.desc.engine with
  | 1 => s.slotReads t
  | 2 => s.slotReads t
  | 4 => s.edgeIns t ++ s.tableIns t
  | 5 => s.chainReads t
  | _ => []

/-- A task as its engine takes it: its block read, and for FIX the copy list behind it. -/
def State.taken (s : State) (t : Task) : Task :=
  let b := s.readAddr t.desc.args (s.blockSize t.desc)
  { t with args := if t.desc.engine = engCOLLECTIVE then b ++ s.fixList b else b, outs := [], dispatched := some s.now,
           ins := [], startedAt := s.writes.length, blocks := [], age := t.readySince,
           expires := if t.desc.engine = engCOLLECTIVE then s.collExpiry b else none, passes := 0, drainA := 0, drainB := 0,
           fetched := [], listGets := 0, statsRecord := [], stage := 0, status := stOK, poisonAt := none }

/-- A check's failure that a speculative task suppresses: ACCESS and BOUND (R99). -/
def suppressible (status : Nat) : Bool := status == stACCESS || status == stBOUND

/-- A task whose block fails its checks: it finishes with that status, and writes the record that its op owes on a failure
(R54, R139, R337). -/
def State.dispatchFails (s : State) (t : Task) (status : Nat) : State :=
  let s1 := if t.desc.engine = engEDGE then s.memOps (s.failedStats t)
    else if t.desc.engine = engUPDATE then { s.memOps (s.updFailedStats t) with free := s.free + 2 } else s
  s1.setTask { t with phase := .finished, status := status }

/-- A speculative task whose descriptor is suppressed: it transfers nothing and is counted and marked (R99). -/
def State.dispatchSuppressed (s : State) (t : Task) : State :=
  (s.bump Reg.MEM_CNT_SPEC_FAULT_SUPPRESSED 1).setTask { t with phase := .finished, marked := true }

/-- A task whose block has passed its checks runs: an array task's pre-scan begins, with its drain rows reserved (R206, R263); a
TABLE_REFRESH invalidates its table's replica first (R145). -/
def State.dispatchRuns (s : State) (t : Task) : State :=
  let s1 := if t.desc.engine = engEDGE ∧ fieldLe t.args 0 1 = 0x24 then s.refreshBegins t else s
  s1.setTask { s.reserved t with phase := .running, outs := s.argsOuts t, ins := s.argsIns t }

/-- The checks of a taken task's block have ended with a status: the task runs, or a speculative one is suppressed, or it
fails. A stale epoch does not stop a speculative lookup, which is counted and marked, and runs on with zero rows (R148). -/
def State.dispatchWith (s : State) (t : Task) (status : Nat) : State :=
  if status = stOK then s.dispatchRuns t
  else if t.speculative ∧ status = stEPOCH_STALE then
    (s.bump Reg.MEM_CNT_SPEC_FAULT_SUPPRESSED 1).dispatchRuns { t with marked := true, stage := staleStage }
  else if t.speculative ∧ suppressible status then s.dispatchSuppressed t
  else s.dispatchFails t status

/-- A dispatched task whose block cannot be read finishes with a status. -/
def State.dispatchEnds (s : State) (t : Task) (status : Nat) : State :=
  s.setTask { t with phase := .finished, dispatched := some s.now, args := [], outs := [], status := status }

/-- The bytes that give a block its size are poisoned: only EDGE and SAMPLE blocks give their own (R111, R175). -/
def State.sizePoisoned (s : State) (d : TaskDesc) : Bool :=
  (d.engine == engEDGE || d.engine == engSAMPLE) && s.poisonedAt d.args 64

/-- The engine takes a task and checks its argument block: an empty one finishes with OK, a short one with FORMAT before any
other check (R54), a poisoned one with PARITY (R343). -/
def State.dispatchTask (s : State) (t : Task) : State :=
  if t.desc.argsBytes = 0 then
    if t.desc.engine = engNOP then
      s.setTask { t with phase := .running, dispatched := some s.now, args := [], outs := [], status := stOK }
    else s.dispatchEnds t stOK
  else if t.desc.argsBytes < 64 then s.dispatchEnds t stFORMAT
  else if s.sizePoisoned t.desc then s.dispatchEnds t stPARITY
  else if s.blockShort t.desc then s.dispatchEnds t stFORMAT
  else if s.poisonedAt t.desc.args (s.blockSize t.desc) then s.dispatchEnds t stPARITY
  else s.dispatchWith (s.taken t) (s.argsCheck (s.taken t))

/-- DISPATCH at a place: where the engine is free it takes its next task; in the anchor watch and on the way there and
back nothing runs (R382). -/
def State.dispatchAt (s : State) (engine place : Nat) : State :=
  if s.power.anchor ≠ .awake then s
  else match s.nextTask? engine place with
    | some t => if s.engineFree t then s.dispatchTask t else s
    | none => s

/-- DISPATCH (R59). -/
def execDispatch (engine place : Nat) (s : State) : Host.Outcome State Fault Refusal :=
  perform (.dispatch engine place) (s.dispatchAt engine place)

end Sys2Proof.Machine
end

