-- ==== Sys2Proof/Machine/Dispatch.lean ====
section
/-!
DEFINITION. The dispatch: one arm per command, each one call of its meaning.
-/

namespace Sys2Proof.Machine

/-- The effect of a command on everything but the queue. -/
def exec (i : Instr) (s : State) : Host.Outcome State Fault Refusal :=
  match i with
  | .registerWrite offset size value => Sys2Proof.Machine.execRegisterWrite offset size value s
  | .load withUnload => Sys2Proof.Machine.execLoad withUnload s
  | .loadChecksEnd => Sys2Proof.Machine.execLoadChecksEnd s
  | .unload => Sys2Proof.Machine.execUnload s
  | .force => Sys2Proof.Machine.execForce s
  | .unloadDrained => Sys2Proof.Machine.execUnloadDrained s
  | .unloadDone => Sys2Proof.Machine.execUnloadDone s
  | .doorbellTail ring pageOffset size value => Sys2Proof.Machine.execDoorbellTail ring pageOffset size value s
  | .cqHead ring size value => Sys2Proof.Machine.execCqHead ring size value s
  | .ringNop ring => Sys2Proof.Machine.execRingNop ring s
  | .tasks ring => Sys2Proof.Machine.execTasks ring s
  | .signal ring => Sys2Proof.Machine.execSignal ring s
  | .discard ring => Sys2Proof.Machine.execDiscard ring s
  | .fence ring => Sys2Proof.Machine.execFence ring s
  | .fenceCleared ring => Sys2Proof.Machine.execFenceCleared ring s
  | .taskRegister ring => Sys2Proof.Machine.execTaskRegister ring s
  | .dispatch engine place => Sys2Proof.Machine.execDispatch engine place s
  | .taskComplete task runs => Sys2Proof.Machine.execTaskComplete task runs s
  | .completionRecordWrite ring => Sys2Proof.Machine.execCompletionRecordWrite ring s
  | .successorSignalPlace task => Sys2Proof.Machine.execSuccessorSignalPlace task s
  | .delayExpiry task => Sys2Proof.Machine.execDelayExpiry task s
  | .deadlineExpiry task => Sys2Proof.Machine.execDeadlineExpiry task s
  | .tickWrite value => Sys2Proof.Machine.execTickWrite value s
  | .ringEnable => Sys2Proof.Machine.execRingEnable s
  | .ringDisable => Sys2Proof.Machine.execRingDisable s
  | .nop task => Sys2Proof.Machine.execNop task s
  | .copy reads => Sys2Proof.Machine.execCopy reads s
  | .copy2d reads => Sys2Proof.Machine.execCopy2d reads s
  | .fill task => Sys2Proof.Machine.execFill task s
  | .streamOpen task => Sys2Proof.Machine.execStreamOpen task s
  | .streamClose task => Sys2Proof.Machine.execStreamClose task s
  | .streamBlockArrival die slot block remote => Sys2Proof.Machine.execStreamBlockArrival die slot block remote s
  | .streamBlockConsume die slot tagsBusy => Sys2Proof.Machine.execStreamBlockConsume die slot tagsBusy s
  | .bankCapEval die waitedWhileFull poolRanOut => Sys2Proof.Machine.execBankCapEval die waitedWhileFull poolRanOut s
  | .scrubCodeword offset lanes uncorrectable => Sys2Proof.Machine.execScrubCodeword offset lanes uncorrectable s
  | .sample task remote => Sys2Proof.Machine.execSample task remote s
  | .lookup task remote => Sys2Proof.Machine.execLookup task remote s
  | .push task => Sys2Proof.Machine.execPush task s
  | .tableOpen task => Sys2Proof.Machine.execTableOpen task s
  | .tableSwap task => Sys2Proof.Machine.execTableSwap task s
  | .swapComplete table => Sys2Proof.Machine.execSwapComplete table s
  | .tableRefresh task remote => Sys2Proof.Machine.execTableRefresh task remote s
  | .gather task remote => Sys2Proof.Machine.execGather task remote s
  | .segReduce task remote => Sys2Proof.Machine.execSegReduce task remote s
  | .scatterAdd task => Sys2Proof.Machine.execScatterAdd task s
  | .intersect task => Sys2Proof.Machine.execIntersect task s
  | .product task => Sys2Proof.Machine.execProduct task s
  | .productSparse task => Sys2Proof.Machine.execProductSparse task s
  | .arrayPassStart task => Sys2Proof.Machine.execArrayPassStart task s
  | .chain task => Sys2Proof.Machine.execChain task s
  | .grad task => Sys2Proof.Machine.execGrad task s
  | .driftCfgWrite value => Sys2Proof.Machine.execDriftCfgWrite value s
  | .remotePut task => Sys2Proof.Machine.execRemotePut task s
  | .remoteGet task => Sys2Proof.Machine.execRemoteGet task s
  | .remoteExactAcc task => Sys2Proof.Machine.execRemoteExactAcc task s
  | .remoteNmAcc task => Sys2Proof.Machine.execRemoteNmAcc task s
  | .remoteCas task => Sys2Proof.Machine.execRemoteCas task s
  | .remotePutSignal task => Sys2Proof.Machine.execRemotePutSignal task s
  | .flitReceive port seq unit fec value => Sys2Proof.Machine.execFlitReceive port seq unit fec value s
  | .ackCredit port ackSeq freed => Sys2Proof.Machine.execAckCredit port ackSeq freed s
  | .nak port expected => Sys2Proof.Machine.execNak port expected s
  | .keepalive port => Sys2Proof.Machine.execKeepalive port s
  | .ident port part content => Sys2Proof.Machine.execIdent port part content s
  | .width port code => Sys2Proof.Machine.execWidth port code s
  | .chart port part state node systemId digest => Sys2Proof.Machine.execChart port part state node systemId digest s
  | .nakRepeat port => Sys2Proof.Machine.execNakRepeat port s
  | .ackTimer port => Sys2Proof.Machine.execAckTimer port s
  | .ackProgressTimeout port => Sys2Proof.Machine.execAckProgressTimeout port s
  | .chartResend port => Sys2Proof.Machine.execChartResend port s
  | .packetGapTimeout port vc => Sys2Proof.Machine.execPacketGapTimeout port vc s
  | .responseTimeout seq => Sys2Proof.Machine.execResponseTimeout seq s
  | .breakNotice port packet => Sys2Proof.Machine.execBreakNotice port packet s
  | .put packet => Sys2Proof.Machine.execPut packet s
  | .get packet => Sys2Proof.Machine.execGet packet s
  | .listGet packet => Sys2Proof.Machine.execListGet packet s
  | .exactAcc packet => Sys2Proof.Machine.execExactAcc packet s
  | .nmAcc packet => Sys2Proof.Machine.execNmAcc packet s
  | .cas packet => Sys2Proof.Machine.execCas packet s
  | .putSignal packet => Sys2Proof.Machine.execPutSignal packet s
  | .mgmt packet => Sys2Proof.Machine.execMgmt packet s
  | .ack packet => Sys2Proof.Machine.execAck packet s
  | .getResp packet => Sys2Proof.Machine.execGetResp packet s
  | .listResp packet => Sys2Proof.Machine.execListResp packet s
  | .casResp packet => Sys2Proof.Machine.execCasResp packet s
  | .linkTrainStart port => Sys2Proof.Machine.execLinkTrainStart port s
  | .equalisationEnd port ok => Sys2Proof.Machine.execEqualisationEnd port ok s
  | .alignmentEnd port ok nonce => Sys2Proof.Machine.execAlignmentEnd port ok nonce s
  | .trainingRetry port => Sys2Proof.Machine.execTrainingRetry port s
  | .fecLockLost port => Sys2Proof.Machine.execFecLockLost port s
  | .keepaliveLost port => Sys2Proof.Machine.execKeepaliveLost port s
  | .accept port => Sys2Proof.Machine.execAccept port s
  | .retrain port => Sys2Proof.Machine.execRetrain port s
  | .portEnable port enable => Sys2Proof.Machine.execPortEnable port enable s
  | .collOpen task => Sys2Proof.Machine.execCollOpen task s
  | .collClose task => Sys2Proof.Machine.execCollClose task s
  | .closeLedgerComplete task => Sys2Proof.Machine.execCloseLedgerComplete task s
  | .collectiveDeadline task => Sys2Proof.Machine.execCollectiveDeadline task s
  | .barrier task => Sys2Proof.Machine.execBarrier task s
  | .broadcast task => Sys2Proof.Machine.execBroadcast task s
  | .fix task => Sys2Proof.Machine.execFix task s
  | .fixDrained task => Sys2Proof.Machine.execFixDrained task s
  | .barUp packet => Sys2Proof.Machine.execBarUp packet s
  | .barDown packet => Sys2Proof.Machine.execBarDown packet s
  | .bcastData packet => Sys2Proof.Machine.execBcastData packet s
  | .fixUp packet => Sys2Proof.Machine.execFixUp packet s
  | .fixDown packet => Sys2Proof.Machine.execFixDown packet s
  | .sysreset value => Sys2Proof.Machine.execSysreset value s
  | .resetDown packet => Sys2Proof.Machine.execResetDown packet s
  | .resetUp packet => Sys2Proof.Machine.execResetUp packet s
  | .norm task => Sys2Proof.Machine.execNorm task s
  | .apply task => Sys2Proof.Machine.execApply task s
  | .store task => Sys2Proof.Machine.execStore task s
  | .root task => Sys2Proof.Machine.execRoot task s
  | .exportRows task => Sys2Proof.Machine.execExportRows task s
  | .parityError site => Sys2Proof.Machine.execParityError site s
  | .jobKill => Sys2Proof.Machine.execJobKill s
  | .jobTerminated job => Sys2Proof.Machine.execJobTerminated job s
  | .jobRevive => Sys2Proof.Machine.execJobRevive s
  | .errLogEnable enable => Sys2Proof.Machine.execErrLogEnable enable s
  | .errLogHead head => Sys2Proof.Machine.execErrLogHead head s
  | .pilotInterval measure => Sys2Proof.Machine.execPilotInterval measure s
  | .multSlewStep die => Sys2Proof.Machine.execMultSlewStep die s
  | .voltageAdjust die slackPs => Sys2Proof.Machine.execVoltageAdjust die slackPs s
  | .prefRevise phase waitCycles busyCycles atPref => Sys2Proof.Machine.execPrefRevise phase waitCycles busyCycles atPref s
  | .railLimit report gate => Sys2Proof.Machine.execRailLimit report gate s
  | .droop die cycles => Sys2Proof.Machine.execDroop die cycles s
  | .droopPersist die => Sys2Proof.Machine.execDroopPersist die s
  | .droopHoldEnd die => Sys2Proof.Machine.execDroopHoldEnd die s
  | .rthUpdate tjMax tIn pIn => Sys2Proof.Machine.execRthUpdate tjMax tIn pIn s
  | .junctionThrottle die tj => Sys2Proof.Machine.execJunctionThrottle die tj s
  | .ageingMeasure driftPpm => Sys2Proof.Machine.execAgeingMeasure driftPpm s
  | .ageingStore => Sys2Proof.Machine.execAgeingStore s
  | .capWrite value => Sys2Proof.Machine.execCapWrite value s
  | .oppWrite entry value => Sys2Proof.Machine.execOppWrite entry value s
  | .inputLow vin => Sys2Proof.Machine.execInputLow vin s
  | .anchor => Sys2Proof.Machine.execAnchor s
  | .anchorCommit => Sys2Proof.Machine.execAnchorCommit s
  | .wake => Sys2Proof.Machine.execWake s
  | .wakeComplete => Sys2Proof.Machine.execWakeComplete s
  | .bar2Access offset write ep reads => Sys2Proof.Machine.execBar2Access offset write ep reads s
  | .featCommit => Sys2Proof.Machine.execFeatCommit s
  | .evqEnable enable => Sys2Proof.Machine.execEvqEnable enable s
  | .evqHead head => Sys2Proof.Machine.execEvqHead head s
  | .msixHoldoffEnd vector => Sys2Proof.Machine.execMsixHoldoffEnd vector s
  | .msixUnmask vector => Sys2Proof.Machine.execMsixUnmask vector s
  | .toHost task => Sys2Proof.Machine.execToHost task s
  | .fromHost task => Sys2Proof.Machine.execFromHost task s
  | .hostCompletion tag status ep data => Sys2Proof.Machine.execHostCompletion tag status ep data s
  | .hostTimeout tag => Sys2Proof.Machine.execHostTimeout tag s
  | .linkChanged speed width flit => Sys2Proof.Machine.execLinkChanged speed width flit s
  | .functionReset => Sys2Proof.Machine.execFunctionReset s
  | .devReset value => Sys2Proof.Machine.execDevReset value s
  | .moduleReset => Sys2Proof.Machine.execModuleReset s
  | .boot => Sys2Proof.Machine.execBoot s
  | .bootFlashWaitEnd => Sys2Proof.Machine.execBootFlashWaitEnd s
  | .commitSvn => Sys2Proof.Machine.execCommitSvn s
  | .update => Sys2Proof.Machine.execUpdate s
  | .updateDone ok => Sys2Proof.Machine.execUpdateDone ok s
  | .recover => Sys2Proof.Machine.execRecover s
  | .getCert body => Sys2Proof.Machine.execGetCert body s
  | .getNonce body nonce => Sys2Proof.Machine.execGetNonce body nonce s
  | .getReport body => Sys2Proof.Machine.execGetReport body s
  | .enroll body => Sys2Proof.Machine.execEnroll body s
  | .release body => Sys2Proof.Machine.execRelease body s
  | .powerSequence ok => Sys2Proof.Machine.execPowerSequence ok s
  | .inputUndervoltage vin => Sys2Proof.Machine.execInputUndervoltage vin s
  | .inputRestored vin => Sys2Proof.Machine.execInputRestored vin s
  | .inputOvervoltage vin persisted => Sys2Proof.Machine.execInputOvervoltage vin persisted s
  | .latchUnderPower => Sys2Proof.Machine.execLatchUnderPower s
  | .presSBreak => Sys2Proof.Machine.execPresSBreak s
  | .attentionPress => Sys2Proof.Machine.execAttentionPress s
  | .attentionLongPress => Sys2Proof.Machine.execAttentionLongPress s
  | .presenceWindowEnd => Sys2Proof.Machine.execPresenceWindowEnd s
  | .railOvercurrent reading => Sys2Proof.Machine.execRailOvercurrent reading s
  | .junctionOvertemp reading => Sys2Proof.Machine.execJunctionOvertemp reading s
  | .coolantLoss reading => Sys2Proof.Machine.execCoolantLoss reading s
  | .leakage reading => Sys2Proof.Machine.execLeakage reading s
  | .handleHot celsius => Sys2Proof.Machine.execHandleHot celsius s
  | .handleCool celsius => Sys2Proof.Machine.execHandleCool celsius s
  | .vauxLoss => Sys2Proof.Machine.execVauxLoss s
  | .getStatus request => Sys2Proof.Machine.execGetStatus request s
  | .getSensors request => Sys2Proof.Machine.execGetSensors request s
  | .getEvents request => Sys2Proof.Machine.execGetEvents request s
  | .setIdentify request => Sys2Proof.Machine.execSetIdentify request s
  | .powerOn request => Sys2Proof.Machine.execPowerOn request s
  | .powerOff request => Sys2Proof.Machine.execPowerOff request s
  | .clearSafe request => Sys2Proof.Machine.execClearSafe request s
  | .setAutoOn request => Sys2Proof.Machine.execSetAutoOn request s
  | .mgmtEnroll request => Sys2Proof.Machine.execMgmtEnroll request s
  | .clearRetired request => Sys2Proof.Machine.execClearRetired request s
  | .clearPeer request => Sys2Proof.Machine.execClearPeer request s
  | .getAgeing request => Sys2Proof.Machine.execGetAgeing request s
  | .rcRead offset size => Sys2Proof.Machine.execRcRead offset size s
  | .configurationRequest register value => Sys2Proof.Machine.execConfigurationRequest register value s
  | .keepaliveTimer port => Sys2Proof.Machine.execKeepaliveTimer port s
  | .inputHigh vin => Sys2Proof.Machine.execInputHigh vin s
  | .returnTo16Lanes port => Sys2Proof.Machine.execReturnTo16Lanes port s
  | .recoveryFlashWriteEnd ok => Sys2Proof.Machine.execRecoveryFlashWriteEnd ok s

end Sys2Proof.Machine
end

