-- ==== Sys2Proof/Safety.lean ====
section
/-!
DEFINITION. What a claim about a run can say: which parts of the state a command leaves as they were, and when a host or a
running task may act.
-/

namespace Sys2Proof.Machine

/-- The parts of the state, one for each field. -/
inductive Part where
  | pending
  | now
  | free
  | tick
  | boundary
  | period
  | mem
  | writes
  | regs
  | eventSeq
  | errorSeq
  | chart
  | load
  | unloadWaiting
  | zeroing
  | rings
  | tasks
  | signals
  | jobs
  | streams
  | memQueue
  | tables
  | drift
  | lanes
  | corrections
  | scrubbed
  | bankQuiet
  | fabric
  | reductions
  | combining
  | sysreset
  | power
  | pcie
  | boot
  | binnacle
  | silicon
  | carrier
  | outputs
deriving DecidableEq, Repr

/-- Two states agree in a part. -/
def Part.same : Part → State → State → Prop
  | .pending, s, t => t.pending = s.pending
  | .now, s, t => t.now = s.now
  | .free, s, t => t.free = s.free
  | .tick, s, t => t.tick = s.tick
  | .boundary, s, t => t.boundary = s.boundary
  | .period, s, t => t.period = s.period
  | .mem, s, t => t.mem = s.mem
  | .writes, s, t => t.writes = s.writes
  | .regs, s, t => t.regs = s.regs
  | .eventSeq, s, t => t.eventSeq = s.eventSeq
  | .errorSeq, s, t => t.errorSeq = s.errorSeq
  | .chart, s, t => t.chart = s.chart
  | .load, s, t => t.load = s.load
  | .unloadWaiting, s, t => t.unloadWaiting = s.unloadWaiting
  | .zeroing, s, t => t.zeroing = s.zeroing
  | .rings, s, t => t.rings = s.rings
  | .tasks, s, t => t.tasks = s.tasks
  | .signals, s, t => t.signals = s.signals
  | .jobs, s, t => t.jobs = s.jobs
  | .streams, s, t => t.streams = s.streams
  | .memQueue, s, t => t.memQueue = s.memQueue
  | .tables, s, t => t.tables = s.tables
  | .drift, s, t => t.drift = s.drift
  | .lanes, s, t => t.lanes = s.lanes
  | .corrections, s, t => t.corrections = s.corrections
  | .scrubbed, s, t => t.scrubbed = s.scrubbed
  | .bankQuiet, s, t => t.bankQuiet = s.bankQuiet
  | .fabric, s, t => t.fabric = s.fabric
  | .reductions, s, t => t.reductions = s.reductions
  | .combining, s, t => t.combining = s.combining
  | .sysreset, s, t => t.sysreset = s.sysreset
  | .power, s, t => t.power = s.power
  | .pcie, s, t => t.pcie = s.pcie
  | .boot, s, t => t.boot = s.boot
  | .binnacle, s, t => t.binnacle = s.binnacle
  | .silicon, s, t => t.silicon = s.silicon
  | .carrier, s, t => t.carrier = s.carrier
  | .outputs, s, t => t.outputs = s.outputs

/-- From s to t nothing has changed but the listed parts. -/
def changesOnly (ps : List Part) (s t : State) : Prop := ∀ p : Part, ps.contains p = false → p.same s t

/-- Nothing but listed parts can change when a command answers a state. -/
def touchesOnly (ps : List Part) (c : Instr) : Prop := ∀ s t : State, exec c s = .next t → changesOnly ps s t

/-- The host's writes to boot and attestation registers take effect: the main rails are on (R433) and the function is in D0
(R387). -/
def bootServes (s : State) : Prop := s.carrier.power = .on ∧ s.pcie.d3hot = false

/-- The host's writes to every other register and doorbell take effect: besides, the module is not in RECOVERY (R409). -/
def hostServes (s : State) : Prop := bootServes s ∧ s.reg Reg.SEC_STATUS_state ≠ secRecovery

/-- An engine of a class runs a task with an op, and the task's job runs (R54, R346). -/
def engineRuns (s : State) (t : Task) (engine op : Nat) : Prop :=
  s.task? t.id = some t ∧ t.id.die < 8 ∧ t.phase = .running ∧ t.desc.engine = engine ∧ fieldLe t.args 0 1 = op ∧
    s.jobState t.job = 1

/-- A ring may take the entry at its head (R62, R65, R78): it is enabled and allocated to a running job of the ACTIVE Chart,
an entry has been rung, and nothing holds the ring. -/
def ringOpen (s : State) (ring job : Nat) : Prop :=
  ring < 32768 ∧ s.ringJob? ring = some job ∧ s.jobState job = 1 ∧ s.chtState = chtActive ∧ (s.ring ring).enabled = true ∧
    (s.ring ring).head ≠ (s.ring ring).tail ∧ (s.ring ring).fenced = false ∧ (s.ring ring).heldByRecord = false ∧
    (s.ring ring).progress = none ∧ (s.ring ring).stalled = none

/-- The 64-byte entry at a ring's head, free of poison, read by its fields (R62). -/
def headEntry (s : State) (ring : Nat) (e : RingEntry) : Prop :=
  s.ringEntryPoisoned ring = false ∧ e = parseEntry (s.mem.readN ((s.ring ring).entryKey (s.ring ring).head) 64)

/-- The ring is registering descriptor i of the array at addr of a TASKS entry, and may go on (R62, R65, R346); d is the descriptor. -/
def registersNext (s : State) (ring job i addr n : Nat) (d : TaskDesc) : Prop :=
  ring < 32768 ∧ (s.ring ring).progress = some (i, addr, n) ∧ s.ringJob? ring = some job ∧ s.jobState job = 1 ∧
    s.chtState = chtActive ∧ (s.ring ring).heldByRecord = false ∧ s.poisonedAt (addrPlus addr (i * 64)) 64 = false ∧
    d = parseDesc (s.readAddr (addrPlus addr (i * 64)) 64)

/-- A request that its owner serves (R283, R347, R382): the owner is this module, awake, and the request's job is one of its
Chart that is neither terminating nor killed. -/
def requestServed (s : State) (k : Packet) : Prop :=
  k.wf = true ∧ s.node? = some k.dst ∧ s.power.anchor = .awake ∧ s.jobState k.jobId < 2 ∧ (s.chartJob? k.jobId).isSome

/-- The commands that may install or remove a Chart: the end of a load and of an unload, resets, and what turns the rails off or
on (R40, R44, R47, R362, R400). -/
def mayChangeChart : Instr → Bool
  | .loadChecksEnd | .unloadDone | .functionReset | .moduleReset | .devReset _ | .sysreset _ | .recoveryFlashWriteEnd _ => true
  | .ackCredit _ _ _ | .resetUp _ | .resetDown _ | .powerSequence _ | .inputUndervoltage _ | .inputOvervoltage _ _ | .vauxLoss | .latchUnderPower | .presSBreak => true
  | .railOvercurrent _ | .junctionOvertemp _ | .coolantLoss _ | .leakage _ | .powerOff _ => true
  | _ => false

/-- The commands that may enrol or release the module's owner (R416, R417). -/
def mayChangeOwner : Instr → Bool
  | .enroll _ | .release _ | .mgmtEnroll _ => true
  | _ => false

end Sys2Proof.Machine
end

