-- ==== Sys2Proof/Certificates/Slice0/Obligations.lean ====
section
/-!
DEFINITION. The statements for the provers. Each says what commands do by the numbered rules its docstring names, or what holds
of the whole block; where a clause rests on a choice of the model, the docstring names the log entry.
-/

open Sys2Proof Sys2Proof.Machine

/-! ### The queue, the whole block -/

/-- A step with a command at the front of the queue is exec of that command on the state with the queue's rest. -/
def Obligations.StepRunsFront : Prop :=
  ∀ (s : State) (c : Instr) (rest : List Instr), s.pending = c :: rest → step s = exec c { s with pending := rest }

/-- With no command waiting one cycle of the 100 MHz reference passes, and with it the bell tick of R67 (a choice of the model,
log entry 1): the boundary that has been reached is passed, the tick advances, and the next boundary is the next multiple of the
period that SCH_TICK now holds. Merged corrections whose 1 ms is over are recorded (R357): where none is due nothing else changes, and one
that is alone and due becomes its error record. -/
def Obligations.IdleCycle : Prop :=
  ∀ s : State, s.pending = [] →
    (s.now + 1 ≤ s.boundary → step s = .next ({ s with now := s.now + 1 } : State).writeCorrections) ∧
    (s.boundary < s.now + 1 →
      step s = .next ({ s with
        now := s.now + 1, tick := s.tick + 1, period := s.reg Reg.SCH_TICK_period,
        boundary := (s.boundary / s.reg Reg.SCH_TICK_period + 1) * s.reg Reg.SCH_TICK_period } : State).writeCorrections) ∧
    ((∀ c ∈ s.corrections, s.now < c.since + 100000) → s.writeCorrections = s) ∧
    (∀ c : Correction, s.corrections = [c] → c.since + 100000 ≤ s.now →
      s.writeCorrections = ({ s with corrections := [] } : State).logError
        { source := if c.tile = 0xFF then 1 else 2, severity := 0, die := c.die, tile := c.tile, unit := c.unit, addr := c.addr,
          count := c.count })

/-- Every command that names units the module has answers a state; every other is the fault noSuchUnit. No command is
refused. -/
def Obligations.EveryCommandAnswers : Prop :=
  ∀ (c : Instr) (s : State),
    (c.wf = true → ∃ t, exec c s = .next t) ∧ (c.wf = false → exec c s = .fault .noSuchUnit)

/-- From every state a step takes exactly the command at the front of the queue and queues none, and what is fixed in the
module's silicon and ROM stays (R402, R410). -/
def Obligations.OneCommandPerStep : Prop :=
  ∀ s t : State, step s = .next t → t.pending = s.pending.tail ∧ t.silicon = s.silicon

/-- From every state whose memory is in canonical form (bytes strictly rising by address and none zero, poisoned blocks strictly
rising), every step gives a state whose memory is. -/
def Obligations.MemoryStaysCanonical : Prop :=
  ∀ s t : State, s.mem.wf = true → step s = .next t → t.mem.wf = true

/-- The monotonic counter (R406): every step, from every state, leaves it where it was or higher, within 32 bits; at 2^32 − 1 it stays; a boot does
not advance it; COMMIT_SVN sets it to the running svn where that is greater, and else leaves it. That the running svn has 32 bits is a
premise, and every step keeps it. -/
def Obligations.MonotonicCounter : Prop :=
  (∀ s t : State, step s = .next t → s.binnacle.counter ≤ t.binnacle.counter) ∧
  (∀ s t : State, s.binnacle.counter < 2 ^ 32 → s.boot.svn < 2 ^ 32 → step s = .next t →
    t.binnacle.counter < 2 ^ 32 ∧ t.boot.svn < 2 ^ 32 ∧
      (s.binnacle.counter = 2 ^ 32 - 1 → t.binnacle.counter = 2 ^ 32 - 1)) ∧
  (∀ s t : State, exec .boot s = .next t ∨ exec .bootFlashWaitEnd s = .next t → t.binnacle.counter = s.binnacle.counter) ∧
  (∀ s : State, bootServes s → ∃ t, exec .commitSvn s = .next t ∧ changesOnly [.binnacle] s t ∧
    (s.binnacle.counter < s.boot.svn → t.binnacle.counter = s.boot.svn) ∧
    (s.boot.svn ≤ s.binnacle.counter → t.binnacle.counter = s.binnacle.counter))

/-! ### Registers (01, 18) -/

/-- A BAR0 access of another size than 4 or 8 bytes, or not naturally aligned, completes and is counted: a write is discarded, a read returns
zero (R389). RC_READ of a counter (R7, R389): an 8-byte read returns it and clears it; a 4-byte read returns the half it covers and clears
nothing. SCH_CNT_SIGNAL_EXCESS stands for the 64-bit counters. -/
def Obligations.RegisterReads : Prop :=
  (∀ (s : State) (offset size value : Nat), bootServes s → aligned offset size = false →
     exec (.registerWrite offset size value) s = .next (s.bump Reg.DEV_CNT_BAD_ACCESS 1) ∧
     exec (.rcRead offset size) s = .next ((s.bump Reg.DEV_CNT_BAD_ACCESS 1).emit (.readData 0))) ∧
  (∀ s : State, hostServes s →
     exec (.rcRead 0x100090 8) s =
       .next ((s.setReg Reg.SCH_CNT_SIGNAL_EXCESS 0).emit (.readData (s.reg Reg.SCH_CNT_SIGNAL_EXCESS % 2 ^ 64))) ∧
     exec (.rcRead 0x100090 4) s = .next (s.emit (.readData (s.reg Reg.SCH_CNT_SIGNAL_EXCESS % 2 ^ 32))) ∧
     exec (.rcRead 0x100094 4) s = .next (s.emit (.readData (s.reg Reg.SCH_CNT_SIGNAL_EXCESS / 2 ^ 32 % 2 ^ 32))))

/-- REGISTER_WRITE to SND_CFG, whose one field remote_limit permits 1 to 2,048: a permitted value is taken; with a reserved encoding the field
keeps its value (R6, R125). REGISTER_WRITE to a register of W1C bits (R7): in FAB_EVENT each bit whose written bit is 1 reads 0 after it,
every other bit keeps its value, and no field of another register changes, nor anything else. -/
def Obligations.RegisterWrites : Prop :=
  (∀ (s : State) (value : Nat), hostServes s →
     (1 ≤ value % 4096 → value % 4096 ≤ 2048 →
       exec (.registerWrite 0x300000 8 value) s = .next (s.setReg Reg.SND_CFG_remote_limit (value % 4096)) ∧
       exec (.registerWrite 0x300000 4 value) s = .next (s.setReg Reg.SND_CFG_remote_limit (value % 4096))) ∧
     (value % 4096 = 0 ∨ 2048 < value % 4096 →
       exec (.registerWrite 0x300000 8 value) s = .next s ∧ exec (.registerWrite 0x300000 4 value) s = .next s)) ∧
  (∀ (s : State) (value : Nat), hostServes s →
     ∃ t, exec (.registerWrite 0x400060 8 value) s = .next t ∧ changesOnly [.regs] s t ∧
       (∀ f ∈ [Reg.FAB_EVENT_peer_changed, Reg.FAB_EVENT_link_down, Reg.FAB_EVENT_link_up, Reg.FAB_EVENT_mgmt_only,
           Reg.FAB_EVENT_break_changed],
         t.reg f = if bit value f.lo then 0 else s.reg f % 2) ∧
       ∀ g : Field, g.off ≠ 0x400060 → g.lo < 64 → t.reg g = s.reg g)

/-! ### The Chart (02) -/

/-- LOAD (R44, R41, R43): from NONE a load starts: the state becomes LOADING and load reads 1; the image is copied once into internal
storage where its length is from 256 to 536,870,912, a multiple of 16, and it lies inside HBM. While a load is in progress another
changes nothing; in any other state it is rejected with STATE. LOADING is set at the load write (log entry 30). -/
def Obligations.ChartLoad : Prop :=
  ∀ s : State, hostServes s →
    (s.load = none → s.chtState = chtNone →
      ∀ base len : Nat, base = s.reg Reg.CHT_IMAGE_ADDR_addr * 4096 → len = s.reg Reg.CHT_IMAGE_LEN_len →
        ∀ fits : Bool, (fits = true ↔ 256 ≤ len ∧ len ≤ 536870912 ∧ len % 16 = 0 ∧ base + len ≤ 0xC000000000) →
          exec (.load false) s = .next
            (({ s with load := some ⟨if fits then s.mem.readN base len else [], fits, s.now⟩ }.setReg Reg.CHT_CTRL_load 1).setChart
              chtLoading)) ∧
    (s.load.isSome → exec (.load false) s = .next s) ∧
    (s.load = none → s.chtState ≠ chtNone →
      exec (.load false) s = .next
        ((s.setRegs [(Reg.CHT_STATUS_status, stCHART_INVALID), (Reg.CHT_STATUS_reason, 1), (Reg.CHT_STATUS_fail_offset, 0)]).post
          Reg.CHT_EVENT_load_failed 0xFF stCHART_INVALID 1))

/-- LOAD_CHECKS_END (R41, R42, R44, R47): when the checks of the load pass, load clears, the structures are installed with status OK, the
state becomes ACTIVE and load_done is posted; when a check fails, status CHART_INVALID, the reason and the offset are set, the state
returns to NONE and load_failed is posted with status and reason. An unload that waited for the load then proceeds; without a load
nothing happens. -/
def Obligations.ChartChecksEnd : Prop :=
  (∀ (s : State) (l : Load), s.load = some l →
    (∀ (c : Chart) (u : State), s.checkImage l = .ok c →
      u = ((((({ s with load := none }.setReg Reg.CHT_CTRL_load 0).install c).setRegs
        [(Reg.CHT_STATUS_status, stOK), (Reg.CHT_STATUS_reason, 0), (Reg.CHT_STATUS_fail_offset, 0)]).setChart chtActive).post
        Reg.CHT_EVENT_load_done) →
      (s.unloadWaiting = false → exec .loadChecksEnd s = .next u) ∧
      (s.unloadWaiting = true → exec .loadChecksEnd s = .next { u with unloadWaiting := false }.unload)) ∧
    (∀ (reason offset : Nat) (u : State), s.checkImage l = .error (reason, offset) →
      u = (((({ s with load := none }.setReg Reg.CHT_CTRL_load 0).setRegs
        [(Reg.CHT_STATUS_status, stCHART_INVALID), (Reg.CHT_STATUS_reason, reason),
          (Reg.CHT_STATUS_fail_offset, offset)]).setChart chtNone).post Reg.CHT_EVENT_load_failed 0xFF stCHART_INVALID reason) →
      (s.unloadWaiting = false → exec .loadChecksEnd s = .next u) ∧
      (s.unloadWaiting = true → exec .loadChecksEnd s = .next { u with unloadWaiting := false }.unload))) ∧
  ∀ s : State, s.load = none → exec .loadChecksEnd s = .next s

/-- UNLOAD and FORCE (R47): unload from ACTIVE begins draining, and with force at 1 ends what remains; during a load it waits; from NONE it
completes at once; while DRAINING it changes nothing. While a load is in progress LOAD with UNLOAD only lets the unload wait. FORCE sets force, and while DRAINING ends what remains. LOAD with UNLOAD in the same
cycle performs the unload and rejects the load with STATE (R47). UNLOAD_DRAINED and UNLOAD_DONE (R47): once nothing remains every byte of
the tile stores and of the hot-row backing reads zero and every other byte keeps its value; when zeroing has ended the Chart goes with its
jobs, the state becomes NONE and unload_done is posted; before that neither changes anything. -/
def Obligations.ChartUnload : Prop :=
  (∀ s : State, hostServes s →
     (s.load = none → s.chtState = chtActive → s.reg Reg.CHT_CTRL_force = 0 →
       exec .unload s = .next ((s.setReg Reg.CHT_CTRL_unload 1).setChart chtDraining)) ∧
     (s.load = none → s.chtState = chtActive → s.reg Reg.CHT_CTRL_force = 1 →
       exec .unload s = .next ((s.setReg Reg.CHT_CTRL_unload 1).setChart chtDraining).forceDrain) ∧
     (s.load = none → s.chtState = chtNone →
       exec .unload s = .next ((s.setReg Reg.CHT_CTRL_unload 0).post Reg.CHT_EVENT_unload_done)) ∧
     (s.load = none → s.chtState = chtDraining → exec .unload s = .next s) ∧
     (s.load.isSome → exec .unload s = .next ({ s with unloadWaiting := true }.setReg Reg.CHT_CTRL_unload 1)) ∧
     (s.chtState = chtDraining → s.zeroing = false →
       exec .force s = .next (s.setReg Reg.CHT_CTRL_force 1).forceDrain) ∧
     (s.chtState ≠ chtDraining ∨ s.zeroing = true → exec .force s = .next (s.setReg Reg.CHT_CTRL_force 1))) ∧
  (∀ s u : State, hostServes s → s.load = none → exec .unload s = .next u →
     exec (.load true) s = .next
       ((u.setRegs [(Reg.CHT_STATUS_status, stCHART_INVALID), (Reg.CHT_STATUS_reason, 1), (Reg.CHT_STATUS_fail_offset, 0)]).post
         Reg.CHT_EVENT_load_failed 0xFF stCHART_INVALID 1)) ∧
  (∀ s : State, hostServes s → s.load.isSome →
     exec (.load true) s = .next ({ s with unloadWaiting := true }.setReg Reg.CHT_CTRL_unload 1)) ∧
  (∀ s : State,
     (s.chtState ≠ chtDraining ∨ s.zeroing = true ∨ s.drained = false → exec .unloadDrained s = .next s) ∧
     (s.zeroing = false → exec .unloadDone s = .next s) ∧
     (s.chtState = chtDraining → s.zeroing = false → s.drained = true →
       ∃ t, exec .unloadDrained s = .next t ∧ t = { s with zeroing := true, mem := t.mem, writes := t.writes } ∧
         ∀ a hot : Nat, hot = ((s.chart.map (·.hotBytes)).getD 0) →
           t.mem.read a =
             if (2 ^ 45 ≤ a ∧ a < 2 ^ 45 + 2 ^ 31) ∨ (0xC000000000 - hot ≤ a ∧ a < 0xC000000000 - hot + hot) then 0
             else s.mem.read a) ∧
     (s.zeroing = true →
       exec .unloadDone s = .next
         (((s.zeroStores.dropChart.setReg Reg.CHT_CTRL_unload 0).setChart chtNone).post Reg.CHT_EVENT_unload_done)))

/-! ### Scheduling: rings (03) -/

/-- DOORBELL_TAIL (R64, R382, R384, R391): a write of 4 or 8 bytes at page offset 0 is a tail write. While the module is awake, or on its way
into the anchor watch, which the write then abandons: with BASE accepted, the ring enabled and allocated and the Chart ACTIVE, a value whose
low 32 bits are at most the ring size ahead of head becomes the ring's tail; in every other case the write is counted in
SCH_CNT_DOORBELL_IGNORED and the ring keeps its tail. In the watch and its wake the write is kept and the module wakes. A write of another
size or offset is only counted. CQ_HEAD (R66): once BASE is accepted, a write of 4 or 8 bytes that moves cq_head forward to at most cq_tail
is taken, whether or not the ring is enabled or allocated and whatever the Chart state; any other leaves cq_head and is counted. -/
def Obligations.Doorbells : Prop :=
  (∀ (s : State) (ring offset size value : Nat), hostServes s → ring < 32768 →
     (offset = 0 → (size = 4 ∨ size = 8) →
       (∀ u : State, (s.power.anchor = .awake ∧ u = s) ∨ (s.power.anchor = .entering ∧ u = s.abandonEntry) →
         ((u.accepted 0 = true ∧ (u.ring ring).enabled = true ∧ u.chtState = chtActive ∧ (u.ringJob? ring).isSome ∧
             (value % 2 ^ 32 + 2 ^ 32 - (u.ring ring).head) % 2 ^ 32 ≤ 2 ^ (u.ring ring).log2Size) →
           exec (.doorbellTail ring offset size value) s = .next (u.setRing { u.ring ring with tail := value % 2 ^ 32 })) ∧
         (u.accepted 0 = false ∨ (u.ring ring).enabled = false ∨ u.chtState ≠ chtActive ∨ u.ringJob? ring = none ∨
             2 ^ (u.ring ring).log2Size < (value % 2 ^ 32 + 2 ^ 32 - (u.ring ring).head) % 2 ^ 32 →
           exec (.doorbellTail ring offset size value) s = .next (u.bump Reg.SCH_CNT_DOORBELL_IGNORED 1))) ∧
       (s.power.anchor = .watching ∨ s.power.anchor = .waking →
         exec (.doorbellTail ring offset size value) s = .next { s with
           power := { s.power with anchor := .waking, keptDoorbells := s.power.keptDoorbells ++ [(ring, value)] } })) ∧
     (¬ (offset = 0 ∧ (size = 4 ∨ size = 8)) →
       exec (.doorbellTail ring offset size value) s = .next (s.bump Reg.SCH_CNT_DOORBELL_IGNORED 1))) ∧
  (∀ (s : State) (ring size value : Nat), hostServes s → ring < 32768 →
     (size = 4 ∨ size = 8 → s.accepted 0 = true →
       (value % 2 ^ 32 + 2 ^ 32 - (s.ring ring).cqHead) % 2 ^ 32 ≤
         ((s.ring ring).cqTail + 2 ^ 32 - (s.ring ring).cqHead) % 2 ^ 32 →
       exec (.cqHead ring size value) s = .next (s.setRing { s.ring ring with cqHead := value % 2 ^ 32 })) ∧
     (¬ (size = 4 ∨ size = 8) ∨ s.accepted 0 = false ∨
       ((s.ring ring).cqTail + 2 ^ 32 - (s.ring ring).cqHead) % 2 ^ 32 <
         (value % 2 ^ 32 + 2 ^ 32 - (s.ring ring).cqHead) % 2 ^ 32 →
       exec (.cqHead ring size value) s = .next (s.bump Reg.SCH_CNT_DOORBELL_IGNORED 1)))

/-- Ring entries (R62): an open ring at an entry of kind NOP does nothing and goes on; a reserved kind, 5 to 255, is rejected with FORMAT; a
TASKS entry of count 0 completes at once, and one whose array passes its checks starts to be registered from its first descriptor; one
that fails a check is rejected with that check's status. SIGNAL (R55, R57, R62): an amount above 65,535 is rejected with FORMAT; a signal
that can be placed is, and the ring goes on; one that finds the pending-signal table full stalls the ring at its entry, and is tried again
there, also once the ring has been disabled (R78) or the Chart is DRAINING (R47). An entry of any kind that is poisoned in memory fails with
PARITY (R343). -/
def Obligations.RingEntries : Prop :=
  (∀ (s : State) (ring job : Nat) (e : RingEntry), ringOpen s ring job → headEntry s ring e →
     (e.kind = 0 → exec (.ringNop ring) s = .next (s.setRing (s.ring ring).advance)) ∧
     (5 ≤ e.kind → exec (.ringNop ring) s = .next (s.rejectEntry ring stFORMAT)) ∧
     (e.kind = 1 → e.count = 0 → exec (.tasks ring) s = .next (s.setRing (s.ring ring).advance)) ∧
     (e.kind = 1 → e.count ≠ 0 → s.tasksCheck job e = stOK →
       exec (.tasks ring) s = .next (s.setRing { s.ring ring with progress := some (0, e.addr, e.count) })) ∧
     (e.kind = 1 → e.count ≠ 0 → s.tasksCheck job e ≠ stOK →
       exec (.tasks ring) s = .next (s.rejectEntry ring (s.tasksCheck job e)))) ∧
  (∀ (s : State) (ring job : Nat) (e : RingEntry), e.kind = 2 →
     ((ringOpen s ring job ∧ headEntry s ring e) ∨
       (ring < 32768 ∧ s.ringJob? ring = some job ∧ s.jobState job = 1 ∧ (s.chtState = chtActive ∨ s.chtState = chtDraining) ∧
         (s.ring ring).stalled = some e ∧ (s.ring ring).fenced = false ∧ (s.ring ring).heldByRecord = false ∧
         (s.ring ring).progress = none)) →
     (65535 < e.count → exec (.signal ring) s = .next (s.rejectEntry ring stFORMAT)) ∧
     (∀ t, e.count ≤ 65535 → s.signal? job e.tag e.count (e.target == 1) = some t →
       exec (.signal ring) s = .next (t.setRing (t.ring ring).advance)) ∧
     (e.count ≤ 65535 → s.signal? job e.tag e.count (e.target == 1) = none →
       exec (.signal ring) s = .next (s.setRing { s.ring ring with stalled := some e }))) ∧
  (∀ (s : State) (ring job : Nat), ringOpen s ring job → s.ringEntryPoisoned ring = true →
     ∀ c ∈ [Instr.ringNop ring, .tasks ring, .signal ring, .discard ring, .fence ring],
       exec c s = .next (s.rejectEntry ring stPARITY))

/-- A signal (R55, R57): an amount of 0 does nothing; tag 0 names no task and is counted as an excess; a tag no live task holds adds to its pending
entry, or takes a new one while fewer than 65,536 are in use, and the last one sets pending_full; for a live task that is not speculative the
counter falls by the amount, a task whose counter reaches zero without a wait becomes ready, and what would take it below zero is counted
as an excess (a bump by 0 leaves the counter). -/
def Obligations.SignalPlaced : Prop :=
  ∀ (s : State) (job tag amount : Nat) (c : Bool),
    s.signal? job tag 0 c = some s ∧
    (0 < amount → s.signal? job 0 amount c = some (s.bump Reg.SCH_CNT_SIGNAL_EXCESS 1)) ∧
    (0 < amount → tag ≠ 0 → s.tagged? job tag = none →
      (∃ p ∈ s.signals, p.job = job ∧ p.tag = tag) →
      s.signal? job tag amount c = some { s with signals := s.signals.map (fun p =>
        if p.job = job ∧ p.tag = tag then { p with count := p.count + amount } else p) }) ∧
    (0 < amount → tag ≠ 0 → s.tagged? job tag = none →
      (∀ p ∈ s.signals, ¬ (p.job = job ∧ p.tag = tag)) → s.signals.length < 65535 →
      s.signal? job tag amount c =
        some { s with signals := s.signals ++ [({ job := job, tag := tag, count := amount } : PendingSignal)] }) ∧
    (0 < amount → tag ≠ 0 → s.tagged? job tag = none →
      (∀ p ∈ s.signals, ¬ (p.job = job ∧ p.tag = tag)) → 65536 ≤ s.signals.length → s.signal? job tag amount c = none) ∧
    (0 < amount → tag ≠ 0 → s.tagged? job tag = none →
      (∀ p ∈ s.signals, ¬ (p.job = job ∧ p.tag = tag)) → s.signals.length = 65535 →
      s.signal? job tag amount c =
        some (({ s with signals := s.signals ++ [({ job := job, tag := tag, count := amount } : PendingSignal)] } : State).setReg
          Reg.SCH_EVENT_pending_full 1)) ∧
    (∀ t : Task, 0 < amount → tag ≠ 0 → s.tagged? job tag = some t → t.desc.spec = false → amount = t.counter →
      t.phase = .waiting → t.desc.waitMode ≠ 1 →
      s.signal? job tag amount c =
        some (((s.setTask { t with counter := 0 }).makeReady { t with counter := 0 }).bump Reg.SCH_CNT_SIGNAL_EXCESS 0)) ∧
    (∀ t : Task, 0 < amount → tag ≠ 0 → s.tagged? job tag = some t → t.desc.spec = false → amount < t.counter →
      s.signal? job tag amount c = some ((s.setTask { t with counter := t.counter - amount }).bump Reg.SCH_CNT_SIGNAL_EXCESS 0)) ∧
    (∀ t : Task, 0 < amount → tag ≠ 0 → s.tagged? job tag = some t → t.desc.spec = false → t.counter = 0 →
      s.signal? job tag amount c = some ((s.setTask t).bump Reg.SCH_CNT_SIGNAL_EXCESS amount))

/-- DISCARD (R70, R71, R73): of a speculative task whose outcome is open, the ring goes on, the discard is counted, what it may have written
becomes undefined, its requests are forgotten, a running one's statistics record is written (R139, R337), and it completes with SPEC_DISCARD;
of any other task, or of a tag that no live task holds, it is counted as an excess. FENCE and FENCE_CLEARED (R62): a fence closes the ring
exactly when a task registered from it has not completed; it opens once none is left. -/
def Obligations.RingDiscardAndFence : Prop :=
  (∀ (s : State) (ring job : Nat) (e : RingEntry), ringOpen s ring job → headEntry s ring e → e.kind = 3 →
     (s.tagged? job e.tag = none →
       exec (.discard ring) s = .next ((s.setRing (s.ring ring).advance).bump Reg.SCH_CNT_SIGNAL_EXCESS 1)) ∧
     (∀ t, s.tagged? job e.tag = some t → t.undecided = false →
       exec (.discard ring) s = .next ((s.setRing (s.ring ring).advance).bump Reg.SCH_CNT_SIGNAL_EXCESS 1)) ∧
     (∀ t u, s.tagged? job e.tag = some t → t.undecided = true →
       u = (s.setRing (s.ring ring).advance).bump Reg.SCH_CNT_SPEC_DISCARD 1 →
       (t.mayHaveWritten = false →
         exec (.discard ring) s = .next ((u.dropRequests t.id).complete t stSPEC_DISCARD)) ∧
       (t.phase = .finished ∨ t.phase = .undecided →
         exec (.discard ring) s = .next (((u.undefine t.outs).dropRequests t.id).complete t stSPEC_DISCARD)) ∧
       (t.phase = .running →
         exec (.discard ring) s =
           .next ((((u.undefine t.outs).cutRecord t).dropRequests t.id).complete t stSPEC_DISCARD)))) ∧
  (∀ (s : State) (ring : Nat),
     (∀ (job : Nat) (e : RingEntry), ringOpen s ring job → headEntry s ring e → e.kind = 4 →
       (s.ringHasLive ring = true →
         exec (.fence ring) s = .next (s.setRing { (s.ring ring).advance with fenced := true })) ∧
       (s.ringHasLive ring = false →
         exec (.fence ring) s = .next (s.setRing { (s.ring ring).advance with fenced := false }))) ∧
     (ring < 32768 → (s.ring ring).fenced = true → s.ringHasLive ring = false →
       exec (.fenceCleared ring) s = .next (s.setRing { s.ring ring with fenced := false })) ∧
     (ring < 32768 → (s.ring ring).fenced = true → s.ringHasLive ring = true →
       exec (.fenceCleared ring) s = .next s))

/-! ### Scheduling: tasks (03) -/

/-- TASK_REGISTER (R52, R53, R65): a descriptor that passes its checks takes an entry of its die's table and the ring goes on to the next
descriptor; with the table of 131,072 entries full the ring stalls; one that fails a check is reported with that status and occupies no
entry, and a poisoned one with PARITY (R343). A registered task (R53, R55, R57): it takes an index that no task of its die's table holds, and its
counter starts at dep_count less the pending count of its tag (none for tag 0), whose pending entry is freed; with nothing left to wait for
it becomes ready, or enters its delay list (R67). -/
def Obligations.TaskRegister : Prop :=
  (∀ (s : State) (ring job i addr n : Nat) (d : TaskDesc), registersNext s ring job i addr n d →
     (s.descCheck job d = stOK → s.tableUse (s.homeDie d) < 131072 →
       exec (.taskRegister ring) s =
         .next ((s.registerTask job ring d).setRing ((s.registerTask job ring d).ring ring).advanceDescriptor)) ∧
     (s.descCheck job d = stOK → 131072 ≤ s.tableUse (s.homeDie d) →
       exec (.taskRegister ring) s = .next (s.setRing { s.ring ring with tableFull := true })) ∧
     (s.descCheck job d ≠ stOK →
       exec (.taskRegister ring) s =
         .next (s.rejectDescriptor ring d.userTag d.signalTag (s.descCheck job d) d.interrupt))) ∧
  (∀ (s : State) (ring job i addr n : Nat), ring < 32768 → (s.ring ring).progress = some (i, addr, n) →
     s.ringJob? ring = some job → s.jobState job = 1 → s.chtState = chtActive → (s.ring ring).heldByRecord = false →
     s.poisonedAt (addrPlus addr (i * 64)) 64 = true →
     exec (.taskRegister ring) s = .next (s.rejectDescriptor ring 0 0 stPARITY false)) ∧
  (∀ (s : State) (job ring : Nat) (d : TaskDesc) (got : Nat),
     got = (if d.signalTag = 0 then 0
       else ((s.signals.find? (fun p => decide (p.job = job) && decide (p.tag = d.signalTag))).map (·.count)).getD 0) →
     ∃ (t : Task) (v : State), v.tasks = s.tasks ++ [t] ∧ t.job = job ∧ t.ring = ring ∧ t.desc = d ∧
       t.counter = d.depCount - got ∧ t.commit = d.commitCount ∧ t.phase = .waiting ∧ t.id.die = s.homeDie d ∧
       (∀ u ∈ s.tasks, u.id ≠ t.id) ∧
       (d.signalTag ≠ 0 → ∀ p ∈ v.signals, ¬ (p.job = job ∧ p.tag = d.signalTag)) ∧
       (got < d.depCount → s.registerTask job ring d = v) ∧
       (d.depCount ≤ got → s.registerTask job ring d = v.counterZero t))

/-- DISPATCH (R54, R59): a free engine takes the task that comes first among the ready tasks of its class at its place. A NOP task runs; a
task of another class with args_bytes 0 finishes with OK; with fewer bytes than its block needs, or a reserved op, it finishes with FORMAT before
any other check, and with a poisoned block with PARITY (R343); one whose block passes its checks runs; of a speculative one a failing
check's ACCESS or BOUND is suppressed and counted (R99), and a stale epoch is counted while the lookup runs on (R148); any other whose block
fails finishes with that status. In the anchor watch, and where the engine is busy, nothing is taken (R382). The task a dispatch takes (R59):
no other ready task of the class at the place has a higher priority, or with the same priority became ready earlier. -/
def Obligations.Dispatch : Prop :=
  (∀ (s : State) (engine place : Nat) (t : Task), engine < 12 → place < 64 →
     (s.power.anchor ≠ .awake → exec (.dispatch engine place) s = .next s) ∧
     (s.nextTask? engine place = some t → s.engineFree t = false → exec (.dispatch engine place) s = .next s) ∧
     (s.power.anchor = .awake → s.nextTask? engine place = some t → s.engineFree t = true →
       (t.desc.argsBytes = 0 → t.desc.engine = engNOP →
         exec (.dispatch engine place) s =
           .next (s.setTask { t with phase := .running, dispatched := some s.now, args := [], outs := [], status := stOK })) ∧
       (t.desc.argsBytes = 0 → t.desc.engine ≠ engNOP →
         exec (.dispatch engine place) s =
           .next (s.setTask { t with phase := .finished, dispatched := some s.now, args := [], outs := [], status := stOK })) ∧
       (0 < t.desc.argsBytes → t.desc.argsBytes < 64 →
         exec (.dispatch engine place) s =
           .next (s.setTask { t with phase := .finished, dispatched := some s.now, args := [], outs := [], status := stFORMAT })) ∧
       (64 ≤ t.desc.argsBytes → s.sizePoisoned t.desc = false → s.blockShort t.desc = true →
         exec (.dispatch engine place) s =
           .next (s.setTask { t with phase := .finished, dispatched := some s.now, args := [], outs := [], status := stFORMAT })) ∧
       (64 ≤ t.desc.argsBytes →
         s.sizePoisoned t.desc = true ∨ (s.blockShort t.desc = false ∧ s.poisonedAt t.desc.args (s.blockSize t.desc) = true) →
         exec (.dispatch engine place) s =
           .next (s.setTask { t with phase := .finished, dispatched := some s.now, args := [], outs := [], status := stPARITY })) ∧
       (64 ≤ t.desc.argsBytes → s.sizePoisoned t.desc = false → s.blockShort t.desc = false →
         s.poisonedAt t.desc.args (s.blockSize t.desc) = false → ∀ st, st = s.argsCheck (s.taken t) →
         (st = stOK → exec (.dispatch engine place) s = .next (s.dispatchRuns (s.taken t))) ∧
         (st ≠ stOK → t.speculative = false → exec (.dispatch engine place) s = .next (s.dispatchFails (s.taken t) st)) ∧
         (t.speculative = true →
           (st = stACCESS ∨ st = stBOUND → exec (.dispatch engine place) s =
             .next ((s.bump Reg.MEM_CNT_SPEC_FAULT_SUPPRESSED 1).setTask { s.taken t with phase := .finished, marked := true })) ∧
           (st = stEPOCH_STALE → exec (.dispatch engine place) s =
             .next ((s.bump Reg.MEM_CNT_SPEC_FAULT_SUPPRESSED 1).dispatchRuns { s.taken t with marked := true, stage := 1 })) ∧
           (st ≠ stOK → st ≠ stACCESS → st ≠ stBOUND → st ≠ stEPOCH_STALE →
             exec (.dispatch engine place) s = .next (s.dispatchFails (s.taken t) st)))))) ∧
  (∀ (s : State) (engine place : Nat) (t : Task), s.nextTask? engine place = some t →
     t ∈ s.candidates engine place ∧
       ∀ u ∈ s.candidates engine place, u.desc.priority < t.desc.priority ∨
         (u.desc.priority = t.desc.priority ∧ t.readySince ≤ u.readySince))

/-- TASK_COMPLETE (R56, R70 to R72): a finished task whose job is not running completes with JOB_KILLED; a speculative one is held while its
commit counter is above zero; once committed, one with a suppressed access runs again as an ordinary task on its tile, or where that has retired
on a substitute (R351), and both counts rise; one without, and a task that is not speculative, completes: what another write has fallen on
is undefined (R177), a replay's verdict is drawn (R348), its phase's shadow comparison is counted, or counted as skipped (R352), and its
record carries its status; a TABLE_REFRESH with OK makes its replica current (R145), and with POISON its consumption is reported (R345). -/
def Obligations.TaskComplete : Prop :=
  (∀ (s : State) (t : Task) (runs : List (Option Nat)), s.task? t.id = some t → t.id.die < 8 → t.phase = .finished →
    (s.jobState t.job ≠ 1 → exec (.taskComplete t.id runs) s = .next (s.complete t stJOB_KILLED)) ∧
    (s.jobState t.job = 1 → t.speculative = true → t.commit ≠ 0 → t.committed = false →
      exec (.taskComplete t.id runs) s = .next (s.setTask { t with phase := .undecided })) ∧
    (s.jobState t.job = 1 → t.speculative = true → (t.commit = 0 ∨ t.committed = true) →
      ∀ v : State, v = (if t.committed then s else s.bump Reg.SCH_CNT_SPEC_COMMIT 1) →
      (t.marked = true → ∀ a : Task,
        a = { t with committed := true, rerun := true, marked := false, status := stOK, poisonAt := none } →
        (isTileClass t.desc.engine = false ∨ s.retired t.runTile = false →
          exec (.taskComplete t.id runs) s =
            .next ((v.bump Reg.SCH_CNT_SPEC_RERUN 1).setTask { a with phase := .ready s.now })) ∧
        (isTileClass t.desc.engine = true → s.retired t.runTile = true →
          exec (.taskComplete t.id runs) s = .next ((v.bump Reg.SCH_CNT_SPEC_RERUN 1).makeReady a))) ∧
      (t.marked = false →
        exec (.taskComplete t.id runs) s = .next (v.finishTask { t with committed := true } runs))) ∧
    (s.jobState t.job = 1 → t.speculative = false → exec (.taskComplete t.id runs) s = .next (s.finishTask t runs))) ∧
  (∀ (s : State) (t : Task) (runs : List (Option Nat)), s.jobState t.job = 1 → ∀ v w : State,
    ((t.attempts = 0 ∧ v = s.undefineOverwritten t) ∨
      (t.attempts = 1 ∧ t.status ≠ stPARITY ∧ t.settled = false ∧
        v = (s.undefineOverwritten t).bump Reg.ERR_CNT_REPLAY_TRANSIENT 1) ∨
      (t.attempts = 2 ∧ t.status ≠ stPARITY ∧ t.settled = false ∧
        v = (s.undefineOverwritten t).retireTile (t.faulty.getD t.tile))) →
    ((v.shadowPhase t = false ∧ w = v) ∨
      (v.shadowPhase t = true ∧ t.settled = false ∧ v.shadowSkipped t = true ∧ w = v.bump Reg.ERR_CNT_SHADOW_SKIPPED 1) ∨
      (v.shadowPhase t = true ∧ t.settled = false ∧ v.shadowSkipped t = false ∧ t.csum.isSome = true ∧ runs = [] ∧
        w = v.bump Reg.ERR_CNT_SHADOW 1)) →
    (t.status = stOK → s.finishTask t runs = (w.refreshEnds t).complete t stOK) ∧
    (t.status ≠ stOK → t.status ≠ stPOISON → s.finishTask t runs = w.complete t t.status) ∧
    (t.status = stPOISON → s.finishTask t runs = (w.complete t stPOISON).poisonConsumed t))

/-- A completing task's record (R66): the counter of its class rises; with OK and notify 0 no record is written; otherwise with room in the
ring's queue and none waiting the record is written at once and the task goes on to its signals, and with the queue full or another record
waiting the task keeps its entry and its record waits. COMPLETION_RECORD_WRITE (R66, R65): with a free slot the oldest waiting record is
written, 16 bytes at the slot of the queue that cq_tail names, and every other byte of memory keeps its value; a record that asks for it
raises the ring's vector after it; the task it belongs to goes on to its signals, a rejected entry's or descriptor's ring goes on, and the
last record of a terminated job's ring disables it. With the queue full, or none waiting, nothing happens. SUCCESSOR_SIGNAL_PLACE (R57, R53):
the signals a completed task still owes are placed; when none is left its table entry frees, else it keeps what is still owed. -/
def Obligations.CompletionRecords : Prop :=
  (∀ (s u : State) (t : Task) (status : Nat), u = s.countCompleted t →
     (status = stOK ∧ t.desc.notify = false → s.complete t status = u.afterRecord { t with status := status }) ∧
     (¬ (status = stOK ∧ t.desc.notify = false) → (u.ring t.ring).cqFull = false → (u.ring t.ring).waiting = [] →
       s.complete t status = (u.writeRecord t.ring (t.record status u.now)).afterRecord { t with status := status }) ∧
     (¬ (status = stOK ∧ t.desc.notify = false) → (u.ring t.ring).cqFull = true ∨ (u.ring t.ring).waiting ≠ [] →
       s.complete t status =
         (u.setTask { t with status := status, phase := .recordDue }).setRing
           { u.ring t.ring with waiting := (u.ring t.ring).waiting ++ [t.record status u.now] })) ∧
  (∀ (s : State) (ring : Nat) (w : WaitingRecord), ∃ x : State, changesOnly [.mem, .writes, .rings] s x ∧
     x.mem = s.mem.write ((s.ring ring).cqBase * 16 + (s.ring ring).cqTail % 2 ^ (s.ring ring).log2Size * 16)
       (w.bytes (phaseBit (s.ring ring).cqTail (s.ring ring).log2Size)) ∧
     (w.bytes (phaseBit (s.ring ring).cqTail (s.ring ring).log2Size)).length = 16 ∧
     x.ring ring = { s.ring ring with cqTail := ((s.ring ring).cqTail + 1) % 2 ^ 32 } ∧
     (∀ other, other ≠ ring → x.ring other = s.ring other) ∧
     s.writeRecord ring w = if w.interrupt then x.raiseVector (x.ringVector ring) else x) ∧
  (∀ (s : State) (ring : Nat), ring < 32768 →
     ((s.ring ring).waiting = [] ∨ (s.ring ring).cqFull = true → exec (.completionRecordWrite ring) s = .next s) ∧
     (∀ (w : WaitingRecord) (rest : List WaitingRecord) (u v : State), (s.ring ring).waiting = w :: rest →
       (s.ring ring).cqFull = false → u = (s.setRing { s.ring ring with waiting := rest }).writeRecord ring w →
       v = u.setRing (u.ring ring).closeIfDone →
       (w.task = none → exec (.completionRecordWrite ring) s =
         .next (v.setRing { (v.ring ring).advanceDescriptor with heldByRecord := false })) ∧
       (∀ id t, w.task = some id → v.task? id = some t → exec (.completionRecordWrite ring) s = .next (v.afterRecord t)) ∧
       (∀ id, w.task = some id → v.task? id = none → exec (.completionRecordWrite ring) s = .next v))) ∧
  (∀ (s u : State) (t : Task) (owed : List Nat), s.task? t.id = some t → t.id.die < 8 → t.phase = .signalling →
     s.placeSignals t.job t.owed = (u, owed) →
     (owed = [] → exec (.successorSignalPlace t.id) s = .next (u.dropTask t.id)) ∧
     (owed ≠ [] → exec (.successorSignalPlace t.id) s = .next (u.setTask { t with owed := owed })))

/-- Expiries (R69): a deadline whose tick has passed ends a task that still waits with LATE without running it: its record is written where the
queue has room, and waits where it has none; of its signals only expiry_succ is sent, once the record is written. A delay task becomes ready
when its wait ends. Before its tick neither expires. -/
def Obligations.Expiries : Prop :=
  ∀ (s : State) (t : Task) (due : Nat), s.task? t.id = some t → t.id.die < 8 →
    (t.deadlineTick = some due → t.phase = .waiting → t.dispatched = none → s.jobState t.job = 1 → due ≤ s.tick →
      ((s.ring t.ring).cqFull = false → (s.ring t.ring).waiting = [] → ∀ (u : State) (owed : List Nat),
        ((s.writeRecord t.ring (t.record stLATE s.now)).setTask { t with status := stLATE, phase := .signalling, owed := [] }).placeSignals
          t.job (if t.desc.expirySucc = 0 then [] else [t.desc.expirySucc]) = (u, owed) →
        (owed = [] → exec (.deadlineExpiry t.id) s = .next (u.dropTask t.id)) ∧
        (owed ≠ [] → exec (.deadlineExpiry t.id) s =
          .next (u.setTask { t with status := stLATE, phase := .signalling, owed := owed }))) ∧
      ((s.ring t.ring).cqFull = true ∨ (s.ring t.ring).waiting ≠ [] →
        exec (.deadlineExpiry t.id) s = .next ((s.setTask { t with status := stLATE, phase := .recordDue }).setRing
          { s.ring t.ring with waiting := (s.ring t.ring).waiting ++ [t.record stLATE s.now] }))) ∧
    (t.deadlineTick = some due → s.tick < due → exec (.deadlineExpiry t.id) s = .next s) ∧
    (t.phase = .delaying due → due ≤ s.tick → exec (.delayExpiry t.id) s = .next (s.makeReady t)) ∧
    (t.phase = .delaying due → s.tick < due → exec (.delayExpiry t.id) s = .next s)

/-- TICK_WRITE, RING_ENABLE, RING_DISABLE and NOP (R77, R78, R51): a permitted period is taken and a reserved one is not; an allocated ring whose ring and completion queue lie in windows
of its job is enabled with its pointers at 0 (an entry in work goes on, log entry 20), any other stays disabled and ring_error is set; disabling stops the selected ring; a running NOP
task finishes with OK. -/
def Obligations.TickRingsNop : Prop :=
  ∀ (s : State) (r : Ring), hostServes s → r = s.ring (s.reg Reg.SCH_RING_SEL_ring) →
    (∀ v, 1 ≤ v % 131072 → v % 131072 ≤ 100000 → exec (.tickWrite v) s = .next (s.setReg Reg.SCH_TICK_period (v % 131072))) ∧
    (∀ v, v % 131072 = 0 ∨ 100000 < v % 131072 → exec (.tickWrite v) s = .next s) ∧
    (r.enabled = false → s.ringEnableOk r = true →
      exec .ringEnable s = .next (s.setRing
        { r with enabled := true, head := 0, tail := 0, cqTail := 0, cqHead := 0, carried := r.inWork, closing := false })) ∧
    (r.enabled = false → s.ringEnableOk r = false → exec .ringEnable s = .next (s.setReg Reg.SCH_EVENT_ring_error 1)) ∧
    (exec .ringDisable s = .next (s.setRing { r with enabled := false })) ∧
    (∀ t : Task, engineRuns s t engNOP 0 →
      exec (.nop t.id) s = .next (s.applyResult t { status := stOK }))

/-! ### Memory and the DMA (04) -/

/-- COPY and FILL (R92): a task that runs without a store transform and meets no symbol errors leaves in its destination the bytes that the
source held, or the pattern repeated, and finishes with OK; every other byte of memory keeps its value, and so does every other part of the
state but the task's entry, the draw counter, the registers of suppressed accesses and of requests that found their bank at its cap (R88),
and the record of writes. The DMA's other copies (R74, R92, R159): after the symbol errors that its reads meet (R82, R84), each at the place
of a codeword, COPY2D moves row r from src + r × src_stride to dst + r × dst_stride; where rows of its destination overlap one another the
pieces of its rows land in some order; under a store transform the transform's result is stored; an operation of no bytes or rows does
nothing. -/
def Obligations.Copies : Prop :=
  (∀ (s : State) (t : Task) (a : DmaArgs), a = parseDma t.args → a.length ≠ 0 → a.xform = 0 →
     (engineRuns s t engDMA 0 → ∃ u n, exec (.copy ⟨t.id, []⟩) s = .next u ∧ changesOnly [.free, .mem, .writes, .regs, .tasks] s u ∧
       (∀ k < a.length, u.mem.read (s.key a.dst + k) = s.mem.read (s.key a.src + k)) ∧
       (∀ k, k < s.key a.dst ∨ s.key a.dst + a.length ≤ k → u.mem.read k = s.mem.read k) ∧
       (∀ g : Field, g.key ≠ Reg.MEM_CNT_SPEC_FAULT_SUPPRESSED.key → g.key ≠ Reg.MEM_CNT_HOT_BANK.key → u.reg g = s.reg g) ∧
       u.tasks = (s.setTask { t with phase := .finished, status := stOK, marked := t.marked, poisonAt := none, startedAt := n,
                                     csum := none }).tasks) ∧
     (engineRuns s t engDMA 4 → ∃ u n, exec (.fill t.id) s = .next u ∧ changesOnly [.free, .mem, .writes, .regs, .tasks] s u ∧
       (∀ k < a.length, u.mem.read (s.key a.dst + k) = (leBytes 8 a.src).getD (k % 8) 0) ∧
       (∀ k, k < s.key a.dst ∨ s.key a.dst + a.length ≤ k → u.mem.read k = s.mem.read k) ∧
       (∀ g : Field, g.key ≠ Reg.MEM_CNT_SPEC_FAULT_SUPPRESSED.key → g.key ≠ Reg.MEM_CNT_HOT_BANK.key → u.reg g = s.reg g) ∧
       u.tasks = (s.setTask { t with phase := .finished, status := stOK, marked := t.marked, poisonAt := none, startedAt := n,
                                     csum := none }).tasks)) ∧
  (∀ (s v : State) (t : Task) (a : DmaArgs) (errs : List CodewordError) (keys : Nat → Nat × Nat), a = parseDma t.args →
     errs.all CodewordError.wf = true → v = s.demandReads (s.copyReads t) errs →
     keys = (fun r => (v.key (rowAddr a.src a.srcStride r), v.key (rowAddr a.dst a.dstStride r))) →
     (engineRuns s t engDMA 0 → a.length ≠ 0 → a.xform = 0 → exec (.copy ⟨t.id, errs⟩) s = .next (v.applyResult t
       { ops := [.move (v.key a.src) (v.key a.dst) a.length], reads := [(v.key a.src, a.length)] })) ∧
     (engineRuns s t engDMA 1 → a.length ≠ 0 → a.rows ≠ 0 → a.xform = 0 → (a.rows = 1 ∨ a.length ≤ a.dstStride.natAbs) →
       exec (.copy2d ⟨t.id, errs⟩) s = .next (v.applyResult t
         { ops := (List.range a.rows).map (fun r => .move (keys r).1 (keys r).2 a.length),
           reads := (List.range a.rows).map (fun r => ((keys r).1, a.length)) })) ∧
     (engineRuns s t engDMA 1 → a.length ≠ 0 → 1 < a.rows → a.xform = 0 → a.dstStride.natAbs < a.length →
       exec (.copy2d ⟨t.id, errs⟩) s = .next (v.applyResult t (v.plainCopy a)) ∧
         (v.plainCopy a).ops.Perm (((List.range a.rows).flatMap (fun r => rowPieces ((keys r).1, (keys r).2, a.length))).map
           (fun p => .move p.1 p.2.1 p.2.2))) ∧
     (engineRuns s t engDMA 1 → a.length ≠ 0 → a.rows ≠ 0 → a.xform ≠ 0 →
       exec (.copy2d ⟨t.id, errs⟩) s = .next (v.applyResult t (v.transformCopy t a))) ∧
     (engineRuns s t engDMA 0 → a.length ≠ 0 → a.xform ≠ 0 →
       exec (.copy ⟨t.id, errs⟩) s = .next (v.applyResult t (v.transformCopy t a))) ∧
     (engineRuns s t engDMA 0 → a.length = 0 → exec (.copy ⟨t.id, errs⟩) s = .next (s.applyResult t {})) ∧
     (engineRuns s t engDMA 1 → (a.length = 0 ∨ a.rows = 0) → exec (.copy2d ⟨t.id, errs⟩) s = .next (s.applyResult t {})) ∧
     (engineRuns s t engDMA 4 → a.length = 0 → exec (.fill t.id) s = .next (s.applyResult t {})))

/-- How any engine's result reaches the state: every field of the state outside those named keeps its value; the task finishes with the
result's status; with EVENT_RING not accepted, memory is the result's own effects and nothing else, but for the outputs of a task whose
inputs or outputs another write has met, which are undefined (R177); with no event and no scaled block, every register but the counters the
result names, those of its cycles and those of its requests (R87, R88) keeps its value. -/
def Obligations.ResultFrame : Prop :=
  ∀ (s : State) (t : Task) (r : Result),
    changesOnly [.free, .mem, .writes, .regs, .eventSeq, .tasks, .drift, .pcie, .outputs] s (s.applyResult t r) ∧
    (∃ n c, (s.applyResult t r).tasks = (s.setTask
      { t with phase := .finished, status := r.finalStatus t.speculative, poisonAt := r.poisonAt,
               marked := t.marked || decide (0 < r.suppressedCount t.speculative), startedAt := n, csum := c }).tasks) ∧
    (s.accepted 1 = false →
      (∀ p ∈ r.bumps ++ r.raises, p.1.key ≠ Reg.DEV_FEAT_CTRL_committed.key ∧ p.1.key ≠ Reg.DEV_FEAT_ACCEPT_accept.key) →
      (∀ e ∈ r.events, e.1.key ≠ Reg.DEV_FEAT_CTRL_committed.key ∧ e.1.key ≠ Reg.DEV_FEAT_ACCEPT_accept.key) →
      ∀ k, (∀ op ∈ r.ops, k < op.range.1 ∨ op.range.1 + op.range.2 ≤ k) →
        (s.disturbed t = true → ∀ o ∈ t.outs, k < o.1 ∨ o.1 + o.2 ≤ k) → (s.applyResult t r).mem.read k = s.mem.read k) ∧
    (r.events = [] → r.blocks = [] → ∀ g : Field, g.key ≠ Reg.MEM_CNT_SPEC_FAULT_SUPPRESSED.key →
      g.key ≠ Reg.MEM_CNT_HOT_BANK.key → g.key ≠ Reg.MEM_CNT_MERGED.key →
      (∀ p ∈ r.bumps ++ r.raises ++ s.cycleBumps t r, g.key ≠ p.1.key) → (s.applyResult t r).reg g = s.reg g)

/-- Prefetch streams (R94 to R98): STREAM_OPEN reads and checks its descriptor; one that fails ends the task with the check's status, an empty
stream leaves the slot closed, and any other is open with nothing consumed and its first lookahead issued, depth_min blocks under adapt and
depth_max without; STREAM_CLOSE closes the slot and counts the blocks that were fetched and not consumed. Blocks of a stream (R96, R97,
R98): an issued block of a source on this module whose requests have their tags is copied to its staging slot, and is undefined there where
the source has been written since the stream opened; one of another module is the answer to its gets, zero where a get has failed; one
outside the bound of an indexed stream is zero there and counted; until then nothing arrives. A block the consumer finds is taken; one it
asks for too early is late and is issued at once. -/
def Obligations.Streams : Prop :=
  (∀ (s : State) (t : Task) (a : DmaArgs) (d : StreamDesc), a = parseDma t.args → d = parseStream (s.readAddr a.src 64) →
     (engineRuns s t engDMA 2 → ∀ st, st = s.streamCheck t.job (t.runTile / 8) a.stream d →
       (st = stOK → d.blockBytes ≠ 0 → d.blockCount ≠ 0 →
         ∃ (u : State) (x : Stream), exec (.streamOpen t.id) s = .next u ∧ u.streams = s.streams ++ [x] ∧ x.die = t.runTile / 8 ∧
           x.slot = a.stream ∧ x.job = t.job ∧ x.src = d.src ∧ x.dst = d.dst ∧
           x.depth = (if d.adapt then d.depthMin else d.depthMax) ∧
           x.consumed = 0 ∧ x.issued = Nat.min d.blockCount x.depth ∧ u.mem = s.mem ∧
           changesOnly [.regs, .streams, .memQueue, .fabric, .tasks, .outputs] s u) ∧
       (st = stOK → (d.blockBytes = 0 ∨ d.blockCount = 0) → exec (.streamOpen t.id) s = .next (s.applyResult t {})) ∧
       (st ≠ stOK → exec (.streamOpen t.id) s = .next (s.applyResult t { status := st }))) ∧
     (engineRuns s t engDMA 3 → ∀ sel, sel = (fun (x : Stream) => decide (x.die = t.runTile / 8) && decide (x.slot = a.stream)) →
       ∃ u : State, exec (.streamClose t.id) s = .next (u.applyResult t {}) ∧
         changesOnly [.regs, .streams, .memQueue, .fabric] s u ∧ u.streams = s.streams.filter (fun x => !sel x) ∧
         u.reg Reg.MEM_CNT_PREFETCH_DROPPED =
           if s.streams.filter sel = [] then s.reg Reg.MEM_CNT_PREFETCH_DROPPED
           else (s.reg Reg.MEM_CNT_PREFETCH_DROPPED + sumNat ((s.streams.filter sel).map Stream.dropped)) % 2 ^ 64)) ∧
  (∀ (s : State) (x : Stream) (die slot : Nat), die < 8 → slot < 256 → s.stream? die slot = some x →
     (∀ (block : Nat) (remote : List RemoteReply) (f : Flying), x.flying.find? (fun f => decide (f.block = block)) = some f →
       (∀ (ops : List MemOp) (st : BlockState) (zeros : MemOp) (marks : List MemOp),
         zeros = .write (s.stagingKey x block) (List.replicate x.blockBytes 0) →
         marks = (if f.marked then [.poison (s.stagingKey x block) x.blockBytes] else []) →
         ((f.addr = none ∧ ops = zeros :: marks ∧ st = .zeroFilled) ∨
           (∃ b, f.addr = some b ∧ s.isLocal x.src = true ∧ s.blockGranted (x.die, x.slot) block = true ∧ s.spoiled x = false ∧
             ops = .move (s.key b) (s.stagingKey x block) x.blockBytes :: marks ∧ st = .arrived) ∨
           (∃ b, f.addr = some b ∧ s.isLocal x.src = true ∧ s.blockGranted (x.die, x.slot) block = true ∧ s.spoiled x = true ∧
             ops = [.undefinedBytes (s.stagingKey x block) x.blockBytes s.free] ∧ st = .arrived) ∨
           (∃ b e m, f.addr = some b ∧ s.isLocal x.src = false ∧
             remoteAnswer (s.blockReplies x block remote) b x.blockBytes = some (e, m) ∧
             ((e = stOK ∧ ops = markedWrite (s.stagingKey x block) m ++ marks ∧ st = .arrived) ∨
               (e ≠ stOK ∧ ops = [zeros] ∧ st = .failed e)))) →
         ∃ u, exec (.streamBlockArrival die slot block remote) s = .next u ∧ u.mem = s.mem.applyAll ops ∧
           u.streams = (s.setStream { x with flying := x.flying.filter (fun g => !decide (g.block = block)),
                                             arrivals := x.arrivals ++ [(block, st)] }).streams ∧
           changesOnly [.free, .mem, .writes, .regs, .streams, .memQueue, .fabric, .pcie] s u) ∧
       (∀ b, f.addr = some b →
         (s.isLocal x.src = true ∧ s.blockGranted (x.die, x.slot) block = false) ∨
           (s.isLocal x.src = false ∧ remoteAnswer (s.blockReplies x block remote) b x.blockBytes = none) →
         exec (.streamBlockArrival die slot block remote) s = .next s)) ∧
     (∀ busy : Bool,
       (x.arrivals.any (fun p => decide (p.1 = x.consumed)) = true →
         exec (.streamBlockConsume die slot busy) s = .next (s.consumeBlock x busy)) ∧
       (x.arrivals.any (fun p => decide (p.1 = x.consumed)) = false → x.asked = false →
         exec (.streamBlockConsume die slot busy) s = .next
           (((s.bump Reg.MEM_PF_LATE 1).issueStream { x with asked := true } (x.consumed + 1)).1.setStream
             ((s.bump Reg.MEM_PF_LATE 1).issueStream { x with asked := true } (x.consumed + 1)).2)) ∧
       (x.arrivals.any (fun p => decide (p.1 = x.consumed)) = false → x.asked = true →
         exec (.streamBlockConsume die slot busy) s = .next s)))

/-- Bank caps and patrol scrub (R90, R82, R84, R101): with adapt 0 the cap equals limit; a wait while full raises it below the limit and posts
hot_bank; the tenth quiet window lowers it, to 3 at least; then tags go to the requests that the cap admits (R89). Scrub reads the codewords
of a stack in its order (log entry 29): one without errors only advances the pass, one with errors within the outer code's reach is corrected,
an uncorrectable one is poisoned, counted, posted and recorded, once; a codeword that is not next, and any with scrub off or outside the
awake state, is not read. The pass ends, is counted and posted once every stack has read all its codewords. -/
def Obligations.BankCapAndScrub : Prop :=
  ∀ s : State,
    (∀ (die : Nat) (w o : Bool), die < 8 →
      (s.reg Reg.MEM_BANK_CAP_adapt = 0 →
        exec (.bankCapEval die w o) s = .next (s.setReg (Reg.MEM_DIE_cap_exp die) (s.reg Reg.MEM_BANK_CAP_limit)).regrant) ∧
      (s.reg Reg.MEM_BANK_CAP_adapt ≠ 0 → w = true → s.reg (Reg.MEM_DIE_cap_exp die) < s.reg Reg.MEM_BANK_CAP_limit →
        exec (.bankCapEval die w o) s = .next
          (({ s with bankQuiet := s.bankQuiet.set die 0 }.setReg (Reg.MEM_DIE_cap_exp die)
            (s.reg (Reg.MEM_DIE_cap_exp die) + 1)).post Reg.MEM_EVENT_hot_bank die).regrant) ∧
      (s.reg Reg.MEM_BANK_CAP_adapt ≠ 0 → w = true → s.reg Reg.MEM_BANK_CAP_limit ≤ s.reg (Reg.MEM_DIE_cap_exp die) →
        exec (.bankCapEval die w o) s = .next ({ s with bankQuiet := s.bankQuiet.set die 0 } : State).regrant) ∧
      (s.reg Reg.MEM_BANK_CAP_adapt ≠ 0 → w = false → o = false → s.bankQuiet.getD die 0 = 9 →
        exec (.bankCapEval die w o) s = .next
          ({ s with bankQuiet := s.bankQuiet.set die 0 }.setReg (Reg.MEM_DIE_cap_exp die)
            (Nat.max 3 (s.reg (Reg.MEM_DIE_cap_exp die) - 1))).regrant) ∧
      (s.reg Reg.MEM_BANK_CAP_adapt ≠ 0 → w = false → o = true →
        exec (.bankCapEval die w o) s = .next ({ s with bankQuiet := s.bankQuiet.set die 0 } : State).regrant) ∧
      (s.reg Reg.MEM_BANK_CAP_adapt ≠ 0 → w = false → o = false → s.bankQuiet.getD die 0 < 9 →
        exec (.bankCapEval die w o) s = .next
          ({ s with bankQuiet := s.bankQuiet.set die (s.bankQuiet.getD die 0 + 1) } : State).regrant)) ∧
    (∀ (offset : Nat) (p : HbmPlace) (lanes : List Nat), offset < hbmEnd → p = hbmMap offset → (∀ l ∈ lanes, l < 72) →
      (∀ u, s.reg Reg.MEM_SCRUB_CFG_enable = 0 ∨ s.power.anchor ≠ .awake ∨ s.scrubbed.getD p.stack 0 ≠ scrubRank offset →
        exec (.scrubCodeword offset lanes u) s = .next s) ∧
      (s.reg Reg.MEM_SCRUB_CFG_enable ≠ 0 → s.power.anchor = .awake → s.scrubbed.getD p.stack 0 = scrubRank offset →
        exec (.scrubCodeword offset [] false) s = .next (s.scrubbedOne p.stack) ∧
        (s.mem.poisoned offset 1 = true →
          exec (.scrubCodeword offset lanes true) s = .next (s.scrubbedOne p.stack)) ∧
        (s.mem.poisoned offset 1 = false →
          exec (.scrubCodeword offset lanes true) s = .next
            (((((s.memOps [.poison (offset / 64 * 64) 64]).bump Reg.MEM_CNT_UE 1).post Reg.MEM_EVENT_uncorrectable p.stack).logError
              { source := 1, severity := 1, die := p.die, unit := p.stack,
                addr := s.addrOfKey (offset / 64 * 64) }).scrubbedOne p.stack)) ∧
        (lanes ≠ [] → lanes.Nodup → (∀ l ∈ lanes, (s.lane p.stack p.pseudo l).marked = false) →
          lanes.length ≤ (if s.lanes.any (fun x => x.marked && decide (x.stack = p.stack) && decide (x.pseudo = p.pseudo)) then 3
            else 4) →
          exec (.scrubCodeword offset lanes false) s = .next
            ((((lanes.foldl (fun a l => a.laneCorrected p l) s).bump Reg.MEM_CNT_CE 1).corrected p.die 0xFF p.stack
              (s.addrOfKey (offset / 64 * 64))).scrubbedOne p.stack)))) ∧
    (∀ (stack : Nat) (l : List Nat), l = s.scrubbed.set stack (s.scrubbed.getD stack 0 + 1) → stack < s.scrubbed.length →
      ((∃ n ∈ l, n < 805306368) → s.scrubbedOne stack = { s with scrubbed := l }) ∧
      ((∀ n ∈ l, 805306368 ≤ n) → s.scrubbedOne stack =
        (({ s with scrubbed := List.replicate 16 0 } : State).bump Reg.MEM_SCRUB_STATUS_passes 1).post Reg.MEM_EVENT_scrub_pass))

/-! ### EDGE, tables, arrays and VECTOR (05 to 12) -/

/-- GATHER, SEG_REDUCE, SCATTER_ADD and INTERSECT (R74, R191, R186, R193, R195): a GATHER by index writes each output row from the row its index
names, zero where the index is out of range, and counts both; the others finish with the result of their rules over the operands in memory; an
operation of no rows, columns or pairs does nothing. Under stream supply (R190, R97) a GATHER or SEG_REDUCE takes the blocks it still needs
from its slot, one for each row or visited edge: with the last of them, or one that ends it, it finishes with the result over them; else it keeps
what it has and waits. -/
def Obligations.EdgeOps : Prop :=
  ∀ (s : State) (t : Task),
    (engineRuns s t engEDGE 1 → (parseGather t.args).streamEn = false → (parseGather t.args).rowBytes ≠ 0 →
      (parseGather t.args).count ≠ 0 → ∀ remote,
      exec (.gather t.id remote) s = .next (s.applyResult t
        { ops := ((List.range (parseGather t.args).count).map (s.gatherRow (parseGather t.args))).flatMap (·.1),
          bumps := ({ edges := (parseGather t.args).count, indexRange :=
            (((List.range (parseGather t.args).count).map (s.gatherRow (parseGather t.args))).filter (·.2)).length } :
              EdgeCount).bumps t.runTile })) ∧
    (∀ i, ∀ x, x = (if (parseGather t.args).idx64 then bits (s.indexAt (s.key (parseGather t.args).idx) true i) 47 0
          else s.indexAt (s.key (parseGather t.args).idx) false i) →
      ∀ (out : Nat) (poison : List MemOp), out = s.key (parseGather t.args).out + i * (parseGather t.args).outStride →
      poison = (if s.mem.poisoned (s.key (parseGather t.args).idx + i * indexBytes (parseGather t.args).idx64)
        (indexBytes (parseGather t.args).idx64) then [.poison out (parseGather t.args).outStride] else []) →
      s.gatherRow (parseGather t.args) i =
        if (parseGather t.args).srcRows ≤ x then ([.zero out (parseGather t.args).outStride] ++ poison, true)
        else
          ([.zero out (parseGather t.args).outStride,
            .move (s.key (parseGather t.args).src + x * (parseGather t.args).srcStride) out (parseGather t.args).rowBytes] ++ poison,
            false)) ∧
    (engineRuns s t engEDGE 2 → (parseSeg t.args).streamEn = false → (parseSeg t.args).width ≠ 0 → (parseSeg t.args).count ≠ 0 →
      ∀ remote, exec (.segReduce t.id remote) s = .next (s.applyResult t (s.segResult t
        ((s.segments (parseSeg t.args)).map (fun g => (g.edges.map (fun es => es.map (s.edgeRow (parseSeg t.args))), g.taint)))))) ∧
    (∀ (remote : List RemoteReply) (u : State) (l : List Taken), engineRuns s t engEDGE 1 → (parseGather t.args).streamEn = true →
      (parseGather t.args).rowBytes ≠ 0 →
      (s.takeBlocks (t.runTile / 8) (parseGather t.args).stream remote t.speculative
          ((parseGather t.args).count - t.blocks.length) t.blocks = (u, l, true) →
        exec (.gather t.id remote) s = .next (u.applyResult t (u.gatherStream t l))) ∧
      (s.takeBlocks (t.runTile / 8) (parseGather t.args).stream remote t.speculative
          ((parseGather t.args).count - t.blocks.length) t.blocks = (u, l, false) →
        exec (.gather t.id remote) s = .next (u.setTask { t with blocks := l }))) ∧
    (∀ (remote : List RemoteReply) (u : State) (l : List Taken) (n : Nat), engineRuns s t engEDGE 2 →
      (parseSeg t.args).streamEn = true → (parseSeg t.args).width ≠ 0 →
      n = sumNat ((s.segments (parseSeg t.args)).map (fun g => (g.edges.map (·.length)).getD 0)) →
      (s.takeBlocks (t.runTile / 8) (parseSeg t.args).stream remote t.speculative (n - t.blocks.length) t.blocks = (u, l, true) →
        exec (.segReduce t.id remote) s = .next (u.applyResult t (u.segStream t (s.segments (parseSeg t.args)) l))) ∧
      (s.takeBlocks (t.runTile / 8) (parseSeg t.args).stream remote t.speculative (n - t.blocks.length) t.blocks = (u, l, false) →
        exec (.segReduce t.id remote) s = .next (u.setTask { t with blocks := l }))) ∧
    (engineRuns s t engEDGE 3 → exec (.scatterAdd t.id) s = .next (s.applyResult t (s.scatterRun t))) ∧
    (engineRuns s t engEDGE 4 → exec (.intersect t.id) s = .next (s.applyResult t (s.intersectRun t))) ∧
    (engineRuns s t engEDGE 1 → ((parseGather t.args).rowBytes = 0 ∨
        ((parseGather t.args).streamEn = false ∧ (parseGather t.args).count = 0)) → ∀ remote,
      exec (.gather t.id remote) s = .next (s.applyResult t {})) ∧
    (engineRuns s t engEDGE 2 → ((parseSeg t.args).width = 0 ∨
        ((parseSeg t.args).streamEn = false ∧ (parseSeg t.args).count = 0)) → ∀ remote,
      exec (.segReduce t.id remote) s = .next (s.applyResult t {})) ∧
    (engineRuns s t engEDGE 3 → ((parseScatter t.args).width = 0 ∨ (parseScatter t.args).count = 0) →
      exec (.scatterAdd t.id) s = .next (s.applyResult t {})) ∧
    (engineRuns s t engEDGE 4 → (parseIntersect t.args).pairs = 0 → exec (.intersect t.id) s = .next (s.applyResult t {}))

/-- Tables (R132, R135, R143, R145, R146): TABLE_OPEN installs the table of a descriptor that passes its checks, with its live epoch and no retained
one; one of width 0 opens nothing, and one that fails ends with that status. TABLE_SWAP makes the following epoch live and retains the old
one, once none is retained; of a table that is not open, of another job's table or of another epoch it ends with its status. SWAP_COMPLETE
releases the retained epoch once nothing reads it, and the swap's task finishes. LOOKUP and TABLE_REFRESH finish with their rows, or ask the
coalescer of their die for the rows of other modules and wait (R140); a refresh waits while one of its table that was dispatched before it has
not completed. A PUSH of no indices does nothing; any other sends its contributions, once. A stale epoch (R134, R148): a LOOKUP of an epoch that
is neither live nor retained fails its checks, and every row of a speculative one that runs on is a zero row. -/
def Obligations.Tables : Prop :=
  (∀ (s : State) (t : Task),
     (engineRuns s t engEDGE 0x22 → ∀ d, d = parseTable (s.readAddr (fieldLe t.args 8 8) 64) →
       (s.tableOpenCheck t = stOK → d.width ≠ 0 →
         exec (.tableOpen t.id) s = .next (({ s with tables := s.tables ++
           [{ table := d.table, job := t.job, edge := d.edge, format := d.format, width := d.width, region0 := d.region0,
              region1 := d.region1, grad := d.grad, edgeRows := d.edgeRows, live := fieldLe t.args 0x10 2, retained := none,
              replica := none, swapTask := none, refreshes := [] }] } : State).applyResult t {})) ∧
       (s.tableOpenCheck t = stOK → d.width = 0 → exec (.tableOpen t.id) s = .next (s.applyResult t {})) ∧
       (s.tableOpenCheck t ≠ stOK →
         exec (.tableOpen t.id) s = .next (s.applyResult t { status := s.tableOpenCheck t }))) ∧
     (engineRuns s t engEDGE 0x23 →
       (s.openTable? (bits (fieldLe t.args 2 2) 11 0) = none →
         exec (.tableSwap t.id) s = .next (s.applyResult t { status := stFORMAT })) ∧
       (∀ x, s.openTable? (bits (fieldLe t.args 2 2) 11 0) = some x →
         (x.swapTask = some t.id → exec (.tableSwap t.id) s = .next s) ∧
         (x.swapTask ≠ some t.id → x.job ≠ t.job →
           exec (.tableSwap t.id) s = .next (s.applyResult t { status := stACCESS })) ∧
         (x.swapTask ≠ some t.id → x.job = t.job → fieldLe t.args 4 2 ≠ (x.live + 1) % 65536 →
           exec (.tableSwap t.id) s = .next (s.applyResult t { status := stEPOCH_STALE })) ∧
         (x.swapTask ≠ some t.id → x.job = t.job → fieldLe t.args 4 2 = (x.live + 1) % 65536 → x.retained = none →
           exec (.tableSwap t.id) s = .next
             (s.setTable { x with live := fieldLe t.args 4 2, retained := some x.live, swapTask := some t.id })) ∧
         (x.swapTask ≠ some t.id → x.job = t.job → fieldLe t.args 4 2 = (x.live + 1) % 65536 → x.retained ≠ none →
           exec (.tableSwap t.id) s = .next s))) ∧
     (∀ (table e : Nat) (x : OpenTable), table < 4096 → s.openTable? table = some x → x.retained = some e →
       ((∀ u ∈ s.tasks, u.readsEpoch table e = false) → x.swapTask = some t.id → s.task? t.id = some t → t.phase = .running →
         exec (.swapComplete table) s = .next ((s.setTable { x with retained := none, swapTask := none }).applyResult t {})) ∧
       ((∀ u ∈ s.tasks, u.readsEpoch table e = false) →
         (∀ i u, x.swapTask = some i → s.task? i = some u → u.phase ≠ .running) →
         exec (.swapComplete table) s = .next (s.setTable { x with retained := none, swapTask := none })) ∧
       ((∃ u ∈ s.tasks, u.readsEpoch table e = true) → exec (.swapComplete table) s = .next s)) ∧
     (engineRuns s t engEDGE 0x20 → ∀ remote r, r = s.lookupRun remote (s.repliesFor t.id) t →
       (r.missing = [] → exec (.lookup t.id remote) s = .next ((s.applyResult t r).dropRequests t.id)) ∧
       (r.missing ≠ [] → exec (.lookup t.id remote) s = .next
         (r.missing.eraseDups.foldl (fun a p => a.askRow t.id (t.rowFetch (t.runTile / 8) p)) s).sendRows)) ∧
     (engineRuns s t engEDGE 0x24 → ∀ remote r, r = s.refreshRun remote (s.repliesFor t.id) t →
       (s.refreshWaits t = false → r.missing = [] →
         exec (.tableRefresh t.id remote) s = .next ((s.applyResult t r).dropRequests t.id)) ∧
       (s.refreshWaits t = false → r.missing ≠ [] → exec (.tableRefresh t.id remote) s = .next
         (r.missing.eraseDups.foldl (fun a p => a.askRow t.id (t.rowFetch (t.runTile / 8) p)) s).sendRows) ∧
       (s.refreshWaits t = true → exec (.tableRefresh t.id remote) s = .next s)) ∧
     (engineRuns s t engEDGE 0x21 →
       (s.requestsOf t.id = [] → (∀ w ∈ s.fabric.waiting, w.1 ≠ t.id) →
         ((parsePush t.args).count = 0 → exec (.push t.id) s = .next (s.applyResult t {})) ∧
         ((parsePush t.args).count ≠ 0 → exec (.push t.id) s = .next (s.pushRun t))) ∧
       (s.requestsOf t.id ≠ [] ∨ (∃ w ∈ s.fabric.waiting, w.1 = t.id) → exec (.push t.id) s = .next s))) ∧
  (∀ (s : State) (t : Task) (x : OpenTable) (a : LookupArgs), a = parseLookup t.args → a.empty = false →
     s.openTable? a.table = some x → a.epoch ≠ x.live → x.retained ≠ some a.epoch → s.lookupCheck t ≠ stOK) ∧
  (∀ (s : State) (t : Task) (x : OpenTable) (remote : List RemoteReply) (epoch i n : Nat) (idx64 : Bool) (y : Access),
     t.stage = 1 → ∀ c, c = s.tableCtx t remote x epoch idx64 →
       s.fetchRow c n (s.resolve c i) y = (⟨cleanBytes (List.replicate n 0), none, 0⟩, y))

/-- PRODUCT, PRODUCT_SPARSE, GRAD, CHAIN and ARRAY_PASS_START (R74, R200, R206, R208, R228, R233, R262, R263, R239): an array or vector task finishes
with the result of its rules, an empty one with OK and no effect; one whose pre-scan fails before a pass has started finishes with that status
and writes nothing. A pass starts, and is counted, once the pre-scan has passed and its drain rows are reserved, or are reserved now because
they fit; where they do not fit, or every pass has started, nothing starts. -/
def Obligations.ArraysAndVector : Prop :=
  ∀ (s : State) (t : Task),
    (engineRuns s t engARRAY_A 1 ∨ engineRuns s t engARRAY_B 1 →
      exec (.product t.id) s = .next (s.applyResult t (s.productRun t))) ∧
    (engineRuns s t engARRAY_A 2 ∨ engineRuns s t engARRAY_B 2 →
      exec (.productSparse t.id) s = .next (s.applyResult t (s.productRun t))) ∧
    ((parseProduct t.args).empty = false → t.passes = 0 → s.productScan t ≠ stOK →
      s.productRun t = scanFailed (s.productScan t)) ∧
    ((parseProduct t.args).empty = true → s.productRun t = {}) ∧
    (engineRuns s t engARRAY_AB 1 → exec (.grad t.id) s = .next (s.applyResult t (s.gradRun t))) ∧
    ((parseGrad t.args).empty = false → t.passes = 0 → s.gradScan t ≠ stOK → s.gradRun t = scanFailed (s.gradScan t)) ∧
    ((parseGrad t.args).empty = true → s.gradRun t = {}) ∧
    (engineRuns s t engVECTOR 1 → exec (.chain t.id) s = .next (s.applyResult t (s.chainRun t))) ∧
    ((parseChain t.args).rows ≠ 0 → (parseChain t.args).width ≠ 0 → s.chainScan (parseChain t.args) ≠ stOK →
      s.chainRun t = scanFailed (s.chainScan (parseChain t.args))) ∧
    ((parseChain t.args).rows = 0 ∨ (parseChain t.args).width = 0 → s.chainRun t = {}) ∧
    (s.task? t.id = some t → t.id.die < 8 → 1 ≤ t.desc.engine → t.desc.engine ≤ 3 → t.phase = .running → s.jobState t.job = 1 →
      0 < t.passes ∨ s.arrayScan t = stOK →
      (∀ b, (s.arrayPasses t)[t.passes]? = some b →
        (t.drainA, t.drainB) = t.drainRows ∨
          ((s.drainHeld t).1 + t.drainRows.1 ≤ 1024 ∧ (s.drainHeld t).2 + t.drainRows.2 ≤ 1024) →
        exec (.arrayPassStart t.id) s = .next ((s.bumps b).setTask
          { t with passes := t.passes + 1, drainA := t.drainRows.1, drainB := t.drainRows.2 })) ∧
      ((s.arrayPasses t)[t.passes]? = none → exec (.arrayPassStart t.id) s = .next s) ∧
      ((t.drainA, t.drainB) ≠ t.drainRows →
        1024 < (s.drainHeld t).1 + t.drainRows.1 ∨ 1024 < (s.drainHeld t).2 + t.drainRows.2 →
        exec (.arrayPassStart t.id) s = .next s))

/-- SAMPLE (R74, R117, R119, R120, R125): a task without seeds or hops does nothing and finishes with OK; one that needs no data of other modules any
more finishes with its blocks, and what it asked for is forgotten; else it notes the node-hash keys it holds, its gets go out and it waits. -/
def Obligations.Sampling : Prop :=
  ∀ (s u : State) (t : Task) (op : Nat) (remote : List RemoteReply) (r : Result), engineRuns s t engSAMPLE op →
    u = s.setTask { t with stage := s.sampleHeld remote (s.repliesFor t.id) t } → r = s.sampleRun remote (s.repliesFor t.id) t →
    ((parseSample t.args).seedCount = 0 ∨ (parseSample t.args).hopCount = 0 →
      exec (.sample t.id remote) s = .next ((u.applyResult t {}).dropRequests t.id)) ∧
    (r.missing = [] → exec (.sample t.id remote) s = .next ((u.applyResult t r).dropRequests t.id)) ∧
    (r.missing ≠ [] → exec (.sample t.id remote) s = .next (u.sendGets t t.desc.place r.missing)) ∧
    (∀ (gets : List (Nat × Nat)) (a n : Nat), u.unasked t.id gets.eraseDups = [(a, n)] →
      u.outstanding (ioOfDie t.desc.place) < 16384 →
      ((u.requestsOf t.id).filter (·.ended.isNone)).length < u.reg Reg.SND_CFG_remote_limit →
      u.sendGets t t.desc.place gets = (u.bump Reg.SND_CNT_REMOTE_GETS 1).issue (ioOfDie t.desc.place) t.id
        { Packet.blank with dst := addrNode a, jobId := t.job, op := pktGET, tc := 1, addr := a, length := n } 0 []) ∧
    (∀ gets : List (Nat × Nat), u.reg Reg.SND_CFG_remote_limit ≤ ((u.requestsOf t.id).filter (·.ended.isNone)).length →
      u.sendGets t t.desc.place gets = u)

/-! ### The torus (13) -/

/-- A REMOTE task starts to send its pieces, once (R290, R291); a command for one that has started changes nothing. One without a piece finishes as
its requests, of which it has none, ended: with OK. The pieces of a transfer but NM_ACC's cover its bytes in order, each within one 4 KiB
block of the remote address. -/
def Obligations.RemoteTasks : Prop :=
  (∀ (s : State) (t : Task),
    (t.stage = 0 → s.requestsOf t.id = [] →
      (engineRuns s t engREMOTE pktPUT →
        exec (.remotePut t.id) s = .next ((s.setTask { t with stage := 1 }).continueRemote { t with stage := 1 })) ∧
      (engineRuns s t engREMOTE pktGET →
        exec (.remoteGet t.id) s = .next ((s.setTask { t with stage := 1 }).continueRemote { t with stage := 1 })) ∧
      (engineRuns s t engREMOTE pktEXACT_ACC →
        exec (.remoteExactAcc t.id) s = .next ((s.setTask { t with stage := 1 }).continueRemote { t with stage := 1 })) ∧
      (engineRuns s t engREMOTE pktNM_ACC →
        exec (.remoteNmAcc t.id) s = .next ((s.setTask { t with stage := 1 }).continueRemote { t with stage := 1 })) ∧
      (engineRuns s t engREMOTE pktCAS →
        exec (.remoteCas t.id) s = .next ((s.setTask { t with stage := 1 }).continueRemote { t with stage := 1 })) ∧
      (engineRuns s t engREMOTE pktPUT_SIGNAL →
        exec (.remotePutSignal t.id) s = .next ((s.setTask { t with stage := 1 }).continueRemote { t with stage := 1 }))) ∧
    (t.stage ≠ 0 ∨ s.requestsOf t.id ≠ [] →
      (engineRuns s t engREMOTE pktPUT → exec (.remotePut t.id) s = .next s) ∧
      (engineRuns s t engREMOTE pktGET → exec (.remoteGet t.id) s = .next s) ∧
      (engineRuns s t engREMOTE pktEXACT_ACC → exec (.remoteExactAcc t.id) s = .next s) ∧
      (engineRuns s t engREMOTE pktNM_ACC → exec (.remoteNmAcc t.id) s = .next s) ∧
      (engineRuns s t engREMOTE pktCAS → exec (.remoteCas t.id) s = .next s) ∧
      (engineRuns s t engREMOTE pktPUT_SIGNAL → exec (.remotePutSignal t.id) s = .next s)) ∧
    (s.task? t.id = some t → t.stage = 1 → (parseRemote t.args).pieces = [] →
      s.continueRemote t = (s.setTask { t with stage := 0 }).remoteProgress t.id)) ∧
  ∀ a : RemoteArgs, a.op ≠ pktNM_ACC →
    sumNat (a.pieces.map (·.span)) = a.length ∧
      ∀ p ∈ a.pieces, 0 < p.span ∧ p.bytes = p.span ∧ p.remote % 4096 + p.span ≤ 4096

/-- An owner that is awake serves a request of a running job (R282, R283, R285 to R287, R308): PUT writes the payload with its poison, GET
answers the bytes with theirs, CAS answers the old word, with POISON where it is poisoned, and writes swap where it equals compare, PUT_SIGNAL
writes and then signals its tag, or waits for a pending-signal entry; every one that is answered gives its credit back. The HBM accesses of
what it serves use DMA tags (R86; that the bank caps they meet are a free number is log entry 42). What an owner answers with a status
alone (R47, R283, R347, R383): JOB_KILLED for a job that is terminating or killed, ACCESS for a job that its Chart does not have, the status
of R23 for a range no window admits, FORMAT for a CAS that is not aligned, TRUNC in the anchor watch and its wake; nothing in memory changes. -/
def Obligations.OwnerServes : Prop :=
  (∀ (s : State) (k : Packet) (a : Arrival) (u : State), requestServed s k → a = s.arrivalOf k → u = s.unlist a →
     (k.op = pktPUT → s.ownerStatus k.jobId k.addr k.length false true = stOK →
       exec (.put k) s = .next ((((u.storePayload k.addr (sliceBytes k.payload 0 k.length) k.poisonMap).freeArrival a).tagTraffic
         (rangeUnits 512 [(s.key k.addr, k.length)])).sendPacket (s.responseTo k stOK))) ∧
     (k.op = pktGET → s.ownerStatus k.jobId k.addr k.length true false = stOK →
       exec (.get k) s = .next (((u.freeArrival a).tagTraffic (rangeUnits 512 [(s.key k.addr, k.length)])).sendPacket
         { s.responseTo k stOK with length := (s.readAddr k.addr k.length).length, poisonMap := s.poisonMapOf k.addr k.length,
                                    arg0 := 0, payload := s.readAddr k.addr k.length })) ∧
     (k.op = pktLIST_GET → exec (.listGet k) s =
       .next (((u.freeArrival a).tagTraffic (rangeUnits 512 (s.servedRanges k (u.serveList k)))).sendAll (u.serveList k))) ∧
     (k.op = pktEXACT_ACC →
       exec (.exactAcc k) s =
         .next (((u.exactArrives k).1.freeArrival a).sendPacket ((u.exactArrives k).1.responseTo k (u.exactArrives k).2))) ∧
     (k.op = pktNM_ACC → ∀ r, r = (u.serveNmAcc k).1.responseTo k (u.serveNmAcc k).2 →
       exec (.nmAcc k) s =
         .next ((((u.serveNmAcc k).1.freeArrival a).tagTraffic (rangeUnits 512 (s.servedRanges k [r]))).sendPacket r)) ∧
     (k.op = pktCAS → k.addr % 8 = 0 → s.ownerStatus k.jobId k.addr 8 true true = stOK →
       ∀ (r : Packet) (st : Nat), st = (if s.poisonedAt k.addr 8 then stPOISON else stOK) →
       r = { s.responseTo k st with length := 0, poisonMap := 0, arg0 := s.readLe k.addr 8, payload := [] } →
       (s.readLe k.addr 8 = k.arg0 →
         exec (.cas k) s = .next ((((u.write (s.key k.addr) (leBytes 8 k.arg1)).freeArrival a).tagTraffic
           (rangeUnits 512 [(s.key k.addr, 8)])).sendPacket r)) ∧
       (s.readLe k.addr 8 ≠ k.arg0 →
         exec (.cas k) s = .next (((u.freeArrival a).tagTraffic (rangeUnits 512 [(s.key k.addr, 8)])).sendPacket r))) ∧
     (k.op = pktPUT_SIGNAL → (∀ x ∈ s.fabric.heldSignals, x.packet ≠ k) →
       s.ownerStatus k.jobId k.addr k.length false true = stOK →
       ∀ w, w = u.storePayload k.addr (sliceBytes k.payload 0 k.length) k.poisonMap →
       (∀ v, w.signal? k.jobId (bits k.arg0 31 0) 1 false = some v →
         exec (.putSignal k) s = .next (((v.freeArrival a).tagTraffic (rangeUnits 512 [(s.key k.addr, k.length)])).sendPacket
           (v.responseTo k stOK))) ∧
       (w.signal? k.jobId (bits k.arg0 31 0) 1 false = none →
         exec (.putSignal k) s = .next { w with fabric := { w.fabric with heldSignals := w.fabric.heldSignals ++ [a] } }))) ∧
  (∀ (s : State) (k : Packet) (a : Arrival) (c : Instr), k.wf = true → s.node? = some k.dst → a = s.arrivalOf k →
     (c = .put k ∧ k.op = pktPUT) ∨ (c = .get k ∧ k.op = pktGET) ∨ (c = .listGet k ∧ k.op = pktLIST_GET) ∨
       (c = .exactAcc k ∧ k.op = pktEXACT_ACC) ∨ (c = .nmAcc k ∧ k.op = pktNM_ACC) ∨ (c = .cas k ∧ k.op = pktCAS) ∨
       (c = .putSignal k ∧ k.op = pktPUT_SIGNAL ∧ ∀ x ∈ s.fabric.heldSignals, x.packet ≠ k) →
     (s.power.anchor = .awake → 2 ≤ s.jobState k.jobId →
       exec c s = .next (((s.unlist a).freeArrival a).sendPacket (s.responseTo k stJOB_KILLED))) ∧
     (s.power.anchor = .awake → s.jobState k.jobId < 2 → s.chartJob? k.jobId = none →
       exec c s = .next (((s.unlist a).freeArrival a).sendPacket (s.responseTo k stACCESS))) ∧
     (requestServed s k → k.op = pktPUT ∨ k.op = pktPUT_SIGNAL →
       ∀ st, st = s.ownerStatus k.jobId k.addr k.length false true → st ≠ stOK →
       exec c s = .next (((s.unlist a).freeArrival a).sendPacket (s.responseTo k st))) ∧
     (requestServed s k → k.op = pktGET → ∀ st, st = s.ownerStatus k.jobId k.addr k.length true false → st ≠ stOK →
       exec c s = .next (((s.unlist a).freeArrival a).sendPacket (s.responseTo k st))) ∧
     (requestServed s k → k.op = pktCAS → k.addr % 8 ≠ 0 →
       exec c s = .next (((s.unlist a).freeArrival a).sendPacket (s.responseTo k stFORMAT))) ∧
     (requestServed s k → k.op = pktCAS → k.addr % 8 = 0 → ∀ st, st = s.ownerStatus k.jobId k.addr 8 true true → st ≠ stOK →
       exec c s = .next (((s.unlist a).freeArrival a).sendPacket (s.responseTo k st))) ∧
     (s.power.anchor = .watching ∨ s.power.anchor = .waking → k.tc = 1 ∨ 3 ≤ k.tc →
       exec c s = .next ((({ s.unlist a with power := { s.power with anchor := .waking } }.freeArrival a).bump
         Reg.PLT_CNT_WAKE_REFUSED 1).sendPacket (s.responseTo k stTRUNC)))) ∧
  (∀ (s : State) (k : Packet) (a : Arrival), k.wf = true →
     s.fabric.heldSignals.find? (fun x => decide (x.packet = k)) = some a →
     ∀ u, u = { s with fabric := { s.fabric with heldSignals := s.fabric.heldSignals.erase a } } →
     (∀ v, u.signal? k.jobId (bits k.arg0 31 0) 1 false = some v →
       exec (.putSignal k) s = .next ((v.freeArrival a).sendPacket (v.responseTo k stOK))) ∧
     (u.signal? k.jobId (bits k.arg0 31 0) 1 false = none →
       exec (.putSignal k) s = .next { u with fabric := { u.fabric with heldSignals := u.fabric.heldSignals ++ [a] } }))

/-- Responses and their timer (R284, R286, R288, R293): a response to this module ends its request, the data of a GET reaching local, and lets
waiting tasks go on; one to no outstanding request is counted. Once resp_us have passed since the last flit of a request left, and not before, it
ends with TRUNC; a request whose last flit has not left does not expire. -/
def Obligations.Responses : Prop :=
  ∀ (s : State) (k : Packet), k.wf = true → (s.node? = some k.dst ∨ s.node? = none) →
    (k.op = pktACK →
      exec (.ack k) s = .next ((s.takeIn k).endRequest k.seq k.status k.poisonMap k.arg0 k.payload).settle) ∧
    (k.op = pktGET_RESP →
      exec (.getResp k) s = .next ((s.takeIn k).endRequest k.seq k.status k.poisonMap k.arg0 k.payload).settle) ∧
    (k.op = pktLIST_RESP → exec (.listResp k) s = .next ((s.takeIn k).listResponse k).settle) ∧
    (k.op = pktCAS_RESP →
      exec (.casResp k) s = .next ((s.takeIn k).endRequest k.seq k.status k.poisonMap k.arg0 k.payload).settle) ∧
    (∀ u : State, ∀ st map arg0 data, (∀ r ∈ u.fabric.requests, r.seq = k.seq → r.ended ≠ none) →
      u.endRequest k.seq st map arg0 data = u.bump Reg.FAB_CNT_STALE_RESP 1) ∧
    (∀ (u : State) (r : Request) (t : Task) (st map arg0 : Nat) (data : List Byte),
      u.fabric.requests.find? (fun r => decide (r.seq = k.seq) && r.ended.isNone) = some r → u.task? r.task = some t →
      t.awaitsResponses = true →
      (r.op = pktPUT ∨ r.op = pktEXACT_ACC ∨ r.op = pktNM_ACC ∨ r.op = pktPUT_SIGNAL ∨ (r.op = pktGET ∧ st ≠ stOK) →
        u.endRequest k.seq st map arg0 data = ((u.setRequest { r with ended := some st }).dropClosed).remoteProgress r.task) ∧
      (r.op = pktGET → st = stOK →
        u.endRequest k.seq st map arg0 data =
          (((u.storePayload r.localAddr (sliceBytes data 0 r.length) map).setRequest { r with ended := some st }).dropClosed).remoteProgress
            r.task) ∧
      (r.op = pktCAS → (st = stOK ∨ st = stPOISON) →
        u.endRequest k.seq st map arg0 data =
          (((u.storePayload r.localAddr (leBytes 8 arg0) (if st = stPOISON then 1 else 0)).setRequest
            { r with ended := some st }).dropClosed).remoteProgress r.task)) ∧
    (s.fabric.requests.find? (fun r => decide (r.seq = k.seq) && r.ended.isNone) = none →
      exec (.responseTimeout k.seq) s = .next s.settle) ∧
    (∀ r, s.fabric.requests.find? (fun r => decide (r.seq = k.seq) && r.ended.isNone) = some r →
      (r.sentAt = none → exec (.responseTimeout k.seq) s = .next s.settle) ∧
      (∀ left, r.sentAt = some left →
        (s.now < roundUp (left + s.reg Reg.FAB_CFG_resp_us * 100) 100 →
          exec (.responseTimeout k.seq) s = .next s.settle) ∧
        (roundUp (left + s.reg Reg.FAB_CFG_resp_us * 100) 100 ≤ s.now →
          (r.op ≠ pktLIST_GET → exec (.responseTimeout k.seq) s =
            .next ((s.bump Reg.FAB_CNT_RESP_TIMEOUT 1).endRequest k.seq stTRUNC 0 0 []).settle) ∧
          (r.op = pktLIST_GET → exec (.responseTimeout k.seq) s =
            .next (((s.bump Reg.FAB_CNT_RESP_TIMEOUT 1).failReplies r stTRUNC).setRequest { r with ended := some stTRUNC }).settle))))

/-- Flits (R271 to R275): on a port whose link runs every unit is heard, and what FEC made of its codeword is counted once for the codeword; an
idle unit does nothing more; a numbered flit that is intact and in sequence is accepted; one out of sequence is discarded, and one beyond FEC or with
a wrong CRC is counted and discarded: unless a NAK is outstanding it is answered with a NAK. A control flit that is intact acts by its kind.
An ACK_CREDIT frees the replay entries it acknowledges and takes the peer's freed counts, and what has credit now leaves (R319: with it the
answer of a system reset may, and the module's own reset follows); a NAK resends from the flit it names, and the eighth in a row for one
flit takes the link down; a KEEPALIVE is only heard. Where the link does not run nothing is received. -/
def Obligations.Flits : Prop :=
  (∀ (s : State) (p : Nat) (x : Port) (h : State), p < 8 → s.linkRuns p = true → x = s.port p →
    h = s.setPort p { x with lastFlitAt := s.now } →
    (∀ (seq unit fec value lane word : Nat) (flit : List Byte) (v : State), value < 2 ^ 514 → flit = unitFlit value →
      lane = unitLane (decide (s.reg (Reg.FAB_P_STATE_narrow p) = 1)) unit →
      word = unitCodeword (decide (s.reg (Reg.FAB_P_STATE_narrow p) = 1)) unit + 1 →
      v = (if fec = 0 ∨ (h.port p).fecCounted.getD lane 0 = word then h
        else (h.setPort p { h.port p with fecCounted := (h.port p).fecCounted.set lane word }).bump
          (if fec = 1 then Reg.FAB_P_CNT_FEC_CORR p else Reg.FAB_P_CNT_FEC_UNCORR p) 1) →
      (unitTypeOf value = 0 → exec (.flitReceive p seq unit fec value) s = .next v) ∧
      (2 ≤ unitTypeOf value → fec < 2 → flitIntact (unitTypeOf value) flit = true → seq % 65536 = (v.port p).rxExpected →
        exec (.flitReceive p seq unit fec value) s = .next (v.acceptFlit p (unitTypeOf value) flit)) ∧
      (2 ≤ unitTypeOf value → fec < 2 → flitIntact (unitTypeOf value) flit = true → seq % 65536 ≠ (v.port p).rxExpected →
        exec (.flitReceive p seq unit fec value) s = .next (v.discardFlit p)) ∧
      (2 ≤ unitTypeOf value → 2 ≤ fec ∨ flitIntact (unitTypeOf value) flit = false →
        exec (.flitReceive p seq unit fec value) s = .next ((v.bump (Reg.FAB_P_CNT_CRC p) 1).discardFlit p)) ∧
      (unitTypeOf value = 1 → fec < 2 → flitIntact 1 flit = true →
        exec (.flitReceive p seq unit fec value) s = .next (v.onControl p (flit.take 60))) ∧
      (unitTypeOf value = 1 → 2 ≤ fec ∨ flitIntact 1 flit = false →
        exec (.flitReceive p seq unit fec value) s = .next (v.bump (Reg.FAB_P_CNT_CRC p) 1))) ∧
    (∀ v : State, ((v.port p).nakAt = none →
        v.discardFlit p = (v.setPort p { v.port p with nakAt := some v.now }).sendControl p
          (leBytes 1 2 ++ leBytes 1 0 ++ leBytes 2 (v.port p).rxExpected)) ∧
      ((v.port p).nakAt ≠ none → v.discardFlit p = v)) ∧
    (∀ (ackSeq n : Nat) (freed : List Nat), freed.length = 16 → n = (ackSeq + 1 + 65536 - (h.port p).replayFirst % 65536) % 65536 →
      (0 < n → n ≤ (h.port p).replay.length →
        exec (.ackCredit p ackSeq freed) s = .next ((h.setPort p
          { h.port p with
            txFreed := freed.map (· % 65536), replay := (h.port p).replay.drop n,
            replayFirst := ((h.port p).replayFirst + n) % 65536, lastProgressAt := s.now }).pump p).resetIfSent) ∧
      (n = 0 ∨ (h.port p).replay.length < n →
        exec (.ackCredit p ackSeq freed) s =
          .next ((h.setPort p { h.port p with txFreed := freed.map (· % 65536) }).pump p).resetIfSent)) ∧
    (∀ e n : Nat, n = (e + 65536 - (h.port p).replayFirst % 65536) % 65536 →
      ∀ run, run = (if (h.port p).nakRun ≠ 0 ∧ (h.port p).nakSeq = e then (h.port p).nakRun + 1 else 1) →
      (8 ≤ run → exec (.nak p e) s = .next (h.linkDown p 9)) ∧
      (run < 8 → n < (h.port p).replay.length →
        exec (.nak p e) s = .next ((h.setPort p { h.port p with nakRun := run, nakSeq := e }).resend p n)) ∧
      (run < 8 → (h.port p).replay.length ≤ n →
        exec (.nak p e) s = .next (h.setPort p { h.port p with nakRun := run, nakSeq := e }))) ∧
    exec (.keepalive p) s = .next h) ∧
  (∀ (s : State) (p : Nat), p < 8 → s.linkRuns p = false →
    (∀ seq unit fec value, value < 2 ^ 514 → exec (.flitReceive p seq unit fec value) s = .next s) ∧
    (∀ ackSeq (freed : List Nat), freed.length = 16 → exec (.ackCredit p ackSeq freed) s = .next s) ∧
    (∀ e, exec (.nak p e) s = .next s) ∧ exec (.keepalive p) s = .next s) ∧
  (∀ s : State, (∀ x ∈ s.fabric.ports, ∀ o ∈ x.queue, o.vc / 2 = 7 → o.source ≠ none) →
    (∀ r, s.sysreset = some r → r.ready = true → s.resetIfSent = s.moduleReset) ∧
    ((∀ r, s.sysreset = some r → r.ready = false) → s.resetIfSent = s))

/-- The other control flits (R295 to R297, R419): in IDENTITY an IDENT of part 0 is kept and answered with this end's statement, parts 1 to 5
are kept, and the fifth decides: a statement that verifies is judged, another quarantines the port, as any part does where this end has no
identity. A CHART part is kept and the check runs again. A request to narrow an UP link is always granted, one to widen a narrow one too, and
a grant that was asked for is taken. The timers of a link that runs (R274, R294, R296, R297) act once their time has come, and do nothing
before, nor on a link that does not run; the packet-gap timer of an open packet does so whatever the link (R292, R294). -/
def Obligations.ControlFlitsAndTimers : Prop :=
  (∀ (s : State) (p : Nat) (h : State), p < 8 → s.linkRuns p = true → h = s.setPort p { s.port p with lastFlitAt := s.now } →
     (∀ (part : Nat) (content : List Byte),
       (s.portState p ≠ psIDENTITY → exec (.ident p part content) s = .next h) ∧
       (s.portState p = psIDENTITY → s.reg Reg.SEC_STATUS_identity_valid = 0 →
         exec (.ident p part content) s = .next (h.setLink p psQUARANTINE 3)) ∧
       (s.portState p = psIDENTITY → s.reg Reg.SEC_STATUS_identity_valid ≠ 0 →
         exec (.ident p 0 content) s =
           .next ((h.setPort p { h.port p with peerNonce := sliceBytes content 0 32 }).sendStatement p) ∧
         (part ≠ 0 → 6 ≤ part ∨ (h.port p).peerNonce = [] → exec (.ident p part content) s = .next h) ∧
         (1 ≤ part → part ≤ 5 → (h.port p).peerNonce ≠ [] →
           ∀ (parts : List (Nat × List Byte)) (found : List (List Byte)) (m : List Byte) (g : State),
           parts = (h.port p).parts.filter (fun q => !decide (q.1 = part)) ++ [(part, sliceBytes content 0 56)] →
           found = (List.range 5).filterMap (fun i => (parts.find? (fun q => decide (q.1 = i + 1))).map (·.2)) →
           m = found.flatten.take 242 → g = h.setPort p { h.port p with parts := parts } →
           (found.length < 5 → exec (.ident p part content) s = .next g) ∧
           (5 ≤ found.length → (h.port p).statementVerifies m = true →
             exec (.ident p part content) s = .next (g.judgePeer p (sliceBytes m 4 57) (fieldLe m 0x3E 2))) ∧
           (5 ≤ found.length → (h.port p).statementVerifies m = false →
             exec (.ident p part content) s = .next (g.setLink p psQUARANTINE 3))))) ∧
     (∀ (part st node system : Nat) (digest : List Byte), digest.length = 32 →
       exec (.chart p 0 st node system digest) s = .next (((h.setPort p
         { h.port p with peerState := some (st % 4), peerSystem := system, peerDigest0 := digest }).setReg
           (Reg.FAB_P_STATE_peer_node p) node).chartCheck p) ∧
       exec (.chart p 1 st node system digest) s =
         .next ((h.setPort p { h.port p with peerDigest1 := some digest }).chartCheck p) ∧
       (2 ≤ part → exec (.chart p part st node system digest) s = .next h)) ∧
     (s.portState p ≠ psUP → ∀ code, exec (.width p code) s = .next h) ∧
     (s.portState p = psUP →
       exec (.width p 0) s = .next ((h.sendWidth p 1).narrowed p) ∧
       ((h.port p).narrowAsked = true → exec (.width p 1) s = .next (h.narrowed p)) ∧
       ((h.port p).narrowAsked = false → exec (.width p 1) s = .next h) ∧
       (s.reg (Reg.FAB_P_STATE_narrow p) = 1 →
         exec (.width p 2) s = .next ((h.sendWidth p 3).setPort p { h.port p with widening := true })) ∧
       (s.reg (Reg.FAB_P_STATE_narrow p) ≠ 1 → exec (.width p 2) s = .next h) ∧
       ((h.port p).fullAsked = true → exec (.width p 3) s = .next (h.setPort p { h.port p with widening := true })) ∧
       ((h.port p).fullAsked = false → exec (.width p 3) s = .next h))) ∧
  (∀ (s : State) (p : Nat) (x : Port), p < 8 → s.linkRuns p = true → x = s.port p →
     (∀ at_, x.nakAt = some at_ →
       (at_ + 100 ≤ s.now → exec (.nakRepeat p) s = .next (s.sendNak p)) ∧
       (s.now < at_ + 100 → exec (.nakRepeat p) s = .next s)) ∧
     (x.nakAt = none → exec (.nakRepeat p) s = .next s) ∧
     (x.lastAckAt + 10 ≤ s.now → exec (.ackTimer p) s = .next (s.sendAck p)) ∧
     (s.now < x.lastAckAt + 10 → exec (.ackTimer p) s = .next s) ∧
     (x.replay ≠ [] → x.lastProgressAt + 10000 ≤ s.now → exec (.ackProgressTimeout p) s = .next (s.linkDown p 9)) ∧
     (x.replay = [] ∨ s.now < x.lastProgressAt + 10000 → exec (.ackProgressTimeout p) s = .next s) ∧
     (x.identified = true → s.portState p ≠ psUP → x.chartSentAt + 10000 ≤ s.now →
       exec (.chartResend p) s = .next (s.sendChart p)) ∧
     (x.identified = false ∨ s.portState p = psUP ∨ s.now < x.chartSentAt + 10000 → exec (.chartResend p) s = .next s) ∧
     (s.reg (Reg.FAB_P_STATE_narrow p) = 1 → x.lastKeepaliveAt + 1000 ≤ s.now →
       exec (.keepaliveTimer p) s =
         .next ((s.setPort p { x with lastKeepaliveAt := s.now }).emit
           (.control p (unitValue 1 (flitBytes 1 0 0 (leBytes 1 3)))))) ∧
     (s.reg (Reg.FAB_P_STATE_narrow p) ≠ 1 ∨ s.now < x.lastKeepaliveAt + 1000 → exec (.keepaliveTimer p) s = .next s) ∧
     (x.widening = true → exec (.returnTo16Lanes p) s =
       .next ((s.setPort p { x with widening := false, fullAsked := false, fecCounted := List.replicate 16 0 }).setReg
         (Reg.FAB_P_STATE_narrow p) 0)) ∧
     (x.widening = false → exec (.returnTo16Lanes p) s = .next s) ∧
     (x.lastFlitAt + 100000 ≤ s.now → exec (.keepaliveLost p) s = .next (s.linkDown p 10)) ∧
     (s.now < x.lastFlitAt + 100000 → exec (.keepaliveLost p) s = .next s) ∧
     exec (.fecLockLost p) s = .next (s.linkDown p 0)) ∧
  (∀ (s : State) (p : Nat), p < 8 →
     (s.linkRuns p = false →
       (∀ c ∈ [Instr.nakRepeat p, .ackTimer p, .ackProgressTimeout p, .chartResend p, .keepaliveTimer p, .returnTo16Lanes p,
         .keepaliveLost p, .fecLockLost p], exec c s = .next s) ∧
       (∀ part content, exec (.ident p part content) s = .next s) ∧ (∀ code, exec (.width p code) s = .next s) ∧
       (∀ part st node system (digest : List Byte), digest.length = 32 →
         exec (.chart p part st node system digest) s = .next s)) ∧
     (∀ vc, vc < 16 →
       (∀ o, (s.port p).open_.find? (fun o => decide (o.vc = vc)) = some o →
         (roundUp (o.lastAt + s.reg Reg.FAB_CFG_gap_us * 100) 100 ≤ s.now →
           exec (.packetGapTimeout p vc) s = .next (s.truncatePacket p o)) ∧
         (s.now < roundUp (o.lastAt + s.reg Reg.FAB_CFG_gap_us * 100) 100 → exec (.packetGapTimeout p vc) s = .next s)) ∧
       ((∀ o ∈ (s.port p).open_, o.vc ≠ vc) → exec (.packetGapTimeout p vc) s = .next s)))

/-- Training, acceptance and breaks (R277, R279, R294, R295, R298, R400): an enabled port of running firmware trains when it finds signal, when it
is told to retrain and once a second while it is DOWN, and not otherwise; equalisation and alignment lead it on to the identity exchange, or back
to DOWN. ACCEPT records a peer whose statement has verified, and no other; RETRAIN sets its bit; a port that is disabled is DISABLED, and an
enabled one that was DISABLED is DOWN. A BREAK notice of the own ring is kept, and passed on the other way until it has gone round; one
of another ring, or this module's own, changes nothing, and a module that knows no torus passes it on. -/
def Obligations.Training : Prop :=
  ∀ (s : State) (p : Nat), p < 8 →
    (s.mayTrain p = true → s.portState p = psDOWN → exec (.linkTrainStart p) s = .next (s.startTraining p)) ∧
    (s.mayTrain p = true → s.reg (Reg.FAB_P_CTRL_retrain p) = 1 → exec (.linkTrainStart p) s = .next (s.startTraining p)) ∧
    (s.mayTrain p = false ∨ (s.portState p ≠ psDOWN ∧ s.reg (Reg.FAB_P_CTRL_retrain p) ≠ 1) →
      exec (.linkTrainStart p) s = .next s) ∧
    (s.mayTrain p = true → s.portState p = psDOWN → (s.port p).downAt + 100000000 ≤ s.now →
      exec (.trainingRetry p) s = .next (s.startTraining p)) ∧
    (s.mayTrain p = false ∨ s.portState p ≠ psDOWN ∨ s.now < (s.port p).downAt + 100000000 →
      exec (.trainingRetry p) s = .next s) ∧
    (s.portState p = psTRAINING →
      exec (.equalisationEnd p true) s = .next (s.setPort p { s.port p with coefficients := true, equalised := true }) ∧
      exec (.equalisationEnd p false) s = .next (s.linkDown p (s.reg (Reg.FAB_P_STATE_reason p)))) ∧
    (s.portState p ≠ psTRAINING → ∀ ok, exec (.equalisationEnd p ok) s = .next s) ∧
    (∀ nonce, s.portState p = psTRAINING → (s.port p).equalised = true →
      exec (.alignmentEnd p true nonce) s = .next
        ((((s.clearPort p).setPort p
            { (s.clearPort p).port p with
              ownNonce := sliceBytes nonce 0 32, lastFlitAt := s.now, lastAckAt := s.now, lastKeepaliveAt := s.now }).setLink
          p psIDENTITY (s.reg (Reg.FAB_P_STATE_reason p))).sendIdent p 0 (sliceBytes nonce 0 32)) ∧
      exec (.alignmentEnd p false nonce) s = .next (s.linkDown p (s.reg (Reg.FAB_P_STATE_reason p)))) ∧
    (∀ ok nonce, s.portState p ≠ psTRAINING ∨ (s.port p).equalised = false → exec (.alignmentEnd p ok nonce) s = .next s) ∧
    (hostServes s → psQUARANTINE < s.portState p → exec (.accept p) s = .next (s.acceptPeer p)) ∧
    (hostServes s → s.portState p = psQUARANTINE → s.reg (Reg.FAB_P_STATE_reason p) ≠ 3 →
      exec (.accept p) s = .next (s.acceptPeer p)) ∧
    (hostServes s → s.portState p < psQUARANTINE ∨ (s.portState p = psQUARANTINE ∧ s.reg (Reg.FAB_P_STATE_reason p) = 3) →
      exec (.accept p) s = .next s) ∧
    (hostServes s → exec (.retrain p) s = .next (s.setReg (Reg.FAB_P_CTRL_retrain p) 1)) ∧
    (hostServes s → exec (.portEnable p false) s =
      .next (((s.setReg (Reg.FAB_P_CTRL_enable p) 0).clearPort p).setLink p psDISABLED 0)) ∧
    (hostServes s → s.portState p = psDISABLED → exec (.portEnable p true) s =
      .next ((s.setReg (Reg.FAB_P_CTRL_enable p) 1).setLink p psDOWN 0)) ∧
    (hostServes s → s.portState p ≠ psDISABLED → exec (.portEnable p true) s = .next (s.setReg (Reg.FAB_P_CTRL_enable p) 1)) ∧
    (∀ k : Packet, k.wf = true → k.op = pktBREAK → s.portCarries p 0 = true →
      ∀ (u : State) (d c ahead : Nat), u = s.takeIn k → d = bits k.arg0 7 0 → c = bits k.arg0 15 8 →
        ahead = (if p % 2 = 0 then p + 1 else p - 1) →
      (u.routing? = none → exec (.breakNotice p k) s = .next (u.sendNotice ahead k.dst k.src k.arg0)) ∧
      (∀ r, u.routing? = some r →
        (d ≠ p / 2 ∨ u.extent d ≤ c ∨ u.extent d ≤ 1 ∨ k.src = r.node → exec (.breakNotice p k) s = .next u) ∧
        (d = p / 2 → c < u.extent d → 1 < u.extent d → k.src ≠ r.node →
          ∀ (v : Nat) (w : State),
          v = (if bit (u.reg (Reg.FAB_BREAK_links d)) c then u.reg (Reg.FAB_BREAK_links d) - 2 ^ c
            else u.reg (Reg.FAB_BREAK_links d)) + (if bit k.arg0 16 then 1 else 0) * 2 ^ c →
          w = (u.setReg (Reg.FAB_BREAK_links d) v).breakChanged u.breakMaps →
          (w.neighbour ahead = k.src → exec (.breakNotice p k) s = .next w) ∧
          (w.neighbour ahead ≠ k.src →
            exec (.breakNotice p k) s = .next (w.sendNotice ahead (w.neighbour ahead) k.src k.arg0)))))

/-! ### Collectives (14) -/

/-- OPEN, CLOSE and their deadline (R74, R306, R307, R308, R310, R311): an OPEN of no bytes ends with OK; one whose result overlaps an open reduction of
its job ends with FORMAT; another frees the closed reductions it overlaps, zeroes its pool and ledger and installs the reduction, or waits while
4,096 are held. A CLOSE of no bytes ends with OK, one of no open reduction with FORMAT; a counted one waits until its ledger is full and
an uncounted one rounds out at once; a waiting CLOSE whose deadline has passed ends with LATE, its reduction closed and its pool and ledger
undefined, unless its ledger is full by then (R68): it rounds out. A contribution is turned away with FORMAT where it is malformed or runs past
its reduction, with ACCESS where no reduction is open, with LATE for another step or a closed one. -/
def Obligations.Reductions : Prop :=
  ∀ (s : State) (t : Task) (a : CollArgs), a = parseColl t.args →
    (engineRuns s t engCOLLECTIVE 1 →
      (a.length = 0 → exec (.collOpen t.id) s = .next (s.setTask { t with phase := .finished, status := stOK })) ∧
      (a.length ≠ 0 → (∃ r ∈ s.reductions, r.closed = false ∧ r.overlaps t.job (addrOff a.addr) a.length = true) →
        exec (.collOpen t.id) s = .next (s.setTask { t with phase := .finished, status := stFORMAT })) ∧
      (a.length ≠ 0 → (∀ r ∈ s.reductions, r.closed = false → r.overlaps t.job (addrOff a.addr) a.length = false) →
        ∀ u : State, u = { s with reductions := s.reductions.filter (fun r => !r.overlaps t.job (addrOff a.addr) a.length) } →
        (u.reductions.length < 4096 → exec (.collOpen t.id) s = .next
          (({ u.memOps [.zero (s.key a.pool) (64 * a.entries), .zero (s.key a.ledger) a.ledgerSize] with
              reductions := u.reductions ++ [{ a.reduction t.job with pool := s.key a.pool, ledger := s.key a.ledger }] } :
            State).setTask { t with phase := .finished, status := stOK })) ∧
        (4096 ≤ u.reductions.length → exec (.collOpen t.id) s = .next u))) ∧
    (engineRuns s t engCOLLECTIVE 2 →
      (a.length = 0 → exec (.collClose t.id) s = .next (s.setTask { t with phase := .finished, status := stOK })) ∧
      (a.length ≠ 0 → s.closing? t.job a = none →
        exec (.collClose t.id) s = .next (s.setTask { t with phase := .finished, status := stFORMAT })) ∧
      (s.closing? t.job a = none → exec (.closeLedgerComplete t.id) s = .next s) ∧
      (∀ r, s.closing? t.job a = some r →
        (a.length ≠ 0 → r.counted = true → s.ledgerFull r = false →
          exec (.collClose t.id) s = .next (s.setTask { t with stage := 1 })) ∧
        (a.length ≠ 0 → r.counted = false ∨ s.ledgerFull r = true → exec (.collClose t.id) s = .next (s.closeNow t a r)) ∧
        (t.stage = 1 → s.ledgerFull r = true → exec (.closeLedgerComplete t.id) s = .next (s.closeNow t a r)) ∧
        (t.stage ≠ 1 ∨ s.ledgerFull r = false → exec (.closeLedgerComplete t.id) s = .next s))) ∧
    (engineRuns s t engCOLLECTIVE 2 →
      (∀ due, t.expires = some due → due ≤ s.now → t.stage = 1 →
        (∀ r, s.closing? t.job a = some r → s.ledgerFull r = true →
          exec (.collectiveDeadline t.id) s = .next (s.closeNow t a r)) ∧
        (∀ r, s.closing? t.job a = some r → s.ledgerFull r = false →
          exec (.collectiveDeadline t.id) s = .next
            (((((s.setReduction { r with closed := true }).undefine
              [(r.pool, 64 * r.poolEntries), (r.ledger, ledgerBytes r.length r.contributors)]).setTask
                { t with phase := .finished, status := stLATE }).bump Reg.COL_CNT_LATE 1).post Reg.COL_EVENT_late)) ∧
        (s.closing? t.job a = none →
          exec (.collectiveDeadline t.id) s = .next
            (((s.setTask { t with phase := .finished, status := stLATE }).bump Reg.COL_CNT_LATE 1).post Reg.COL_EVENT_late))) ∧
      (t.expires = none ∨ (∃ due, t.expires = some due ∧ s.now < due) ∨ t.stage ≠ 1 →
        exec (.collectiveDeadline t.id) s = .next s)) ∧
    (∀ k : Packet, ((decodeExact k).malformed = true → s.exactArrives k = (s.bump Reg.FAB_CNT_BAD_HEADER 1, stFORMAT)) ∧
      ((decodeExact k).malformed = false → addrSpace k.addr = 0 → s.node? = some (addrNode k.addr) →
        (s.reductionAt? k.jobId (decodeExact k).off = none → s.exactArrives k = (s.bump Reg.COL_CNT_NOT_OPEN 1, stACCESS)) ∧
        (∀ r, s.reductionAt? k.jobId (decodeExact k).off = some r →
          (r.addr + r.length < (decodeExact k).off + 4 * (decodeExact k).elems.length →
            s.exactArrives k = (s.bump Reg.FAB_CNT_BAD_HEADER 1, stFORMAT)) ∧
          ((decodeExact k).off + 4 * (decodeExact k).elems.length ≤ r.addr + r.length →
            (r.closed = true ∨ (decodeExact k).step ≠ r.step) →
            s.exactArrives k = (s.bump Reg.COL_CNT_LATE_ARRIVAL 1, stLATE)))))

/-- BARRIER, BROADCAST and FIX (R313, R314, R315, R318): a member arrives with its task; the root of a BROADCAST sends its buffer and completes, and a
member, whose buffer is now undefined, takes what its key holds; a FIX first lets its job drain, then takes part. A message of a
running job is noted at its key; one of a job that does not run is discarded, and one that finds no free entry keeps its credit. A
waiting task whose deadline has passed ends with LATE, what it may have written undefined and its entry freed, and not before. -/
def Obligations.Barriers : Prop :=
  (∀ (s : State) (t : Task) (a : CollArgs), a = parseColl t.args →
    (engineRuns s t engCOLLECTIVE 3 → exec (.barrier t.id) s = .next (s.combineArrive t)) ∧
    (∀ u e, s.combiningFor t.job a.tc a.id = some (u, e) → (e.task = none ∨ e.task = some t.id) →
      s.combineArrive t = (u.setCombining { e with task := some t.id }).combineProgress t.job a.tc a.id) ∧
    (s.combiningFor t.job a.tc a.id = none → s.combineArrive t = s) ∧
    (engineRuns s t engCOLLECTIVE 4 → s.node? = some a.root →
      exec (.broadcast t.id) s = .next (((((s.broadcastPieces a).foldl (fun x p => x.broadcastOn t a p.1 p.2.1 p.2.2) s).bump
        Reg.COL_CNT_GLOBAL_OPS 1)).setTask { t with phase := .finished, status := stOK })) ∧
    (engineRuns s t engCOLLECTIVE 4 → s.node? ≠ some a.root →
      (a.length = 0 → exec (.broadcast t.id) s = .next
        ((s.bump Reg.COL_CNT_GLOBAL_OPS 1).setTask { t with phase := .finished, status := stOK })) ∧
      (a.length ≠ 0 → s.combiningFor t.job a.tc a.id = none → exec (.broadcast t.id) s = .next s) ∧
      (a.length ≠ 0 → ∀ u e, s.combiningFor t.job a.tc a.id = some (u, e) →
        (e.task = none → exec (.broadcast t.id) s = .next
          ((u.undefine (u.collOuts t.args)).broadcastProgress t { e with task := some t.id })) ∧
        (e.task ≠ none → exec (.broadcast t.id) s = .next s))) ∧
    (engineRuns s t engCOLLECTIVE 5 →
      (t.stage = 0 → exec (.fix t.id) s = .next (s.setTask { t with stage := 1 })) ∧
      (t.stage ≠ 0 → exec (.fix t.id) s = .next s) ∧
      (t.stage ≠ 0 → s.jobDrained t = true →
        exec (.fixDrained t.id) s = .next ((s.setTask { t with stage := 2 }).combineArrive { t with stage := 2 })) ∧
      (t.stage = 0 ∨ s.jobDrained t = false → exec (.fixDrained t.id) s = .next s)) ∧
    (engineRuns s t engCOLLECTIVE 3 ∨ engineRuns s t engCOLLECTIVE 4 ∨ engineRuns s t engCOLLECTIVE 5 →
      (∀ due, t.expires = some due → due ≤ s.now →
        exec (.collectiveDeadline t.id) s = .next
          (((((s.undefine t.outs).dropEntryOf t.id).setTask { t with phase := .finished, status := stLATE }).bump
            Reg.COL_CNT_LATE 1).post Reg.COL_EVENT_late)) ∧
      (∀ due, t.expires = some due → s.now < due → exec (.collectiveDeadline t.id) s = .next s) ∧
      (t.expires = none → exec (.collectiveDeadline t.id) s = .next s))) ∧
  ∀ (s : State) (k : Packet) (c : Instr), k.wf = true → s.node? = some k.dst → s.power.anchor = .awake →
    (c = .barUp k ∧ k.op = pktBAR_UP) ∨ (c = .barDown k ∧ k.op = pktBAR_DOWN) ∨ (c = .fixUp k ∧ k.op = pktFIX_UP) ∨
      (c = .fixDown k ∧ k.op = pktFIX_DOWN) ∨ (c = .bcastData k ∧ k.op = pktBCAST_DATA) →
    (s.jobState k.jobId ≠ 1 → exec c s = .next (s.takeIn k)) ∧
    (s.jobState k.jobId = 1 → s.combiningFor k.jobId k.tc (bits k.arg0 15 0) = none → exec c s = .next s) ∧
    (∀ u e, s.jobState k.jobId = 1 → s.combiningFor k.jobId k.tc (bits k.arg0 15 0) = some (u, e) →
      (k.op = pktBCAST_DATA → exec c s = .next ((u.unlist (u.arrivalOf k)).broadcastNote (u.arrivalOf k) e)) ∧
      (k.op ≠ pktBCAST_DATA → exec c s = .next ((((u.unlist (u.arrivalOf k)).freeArrival (u.arrivalOf k)).setCombining
        { e with messages := e.messages ++ [(k.op, k.src, bits k.arg0 19 16)] }).combineProgress e.job e.tc e.id)))

/-- The system reset (R319, R383): SYSRESET with its confirming value starts the notice on this module, where no Chart is ACTIVE resets it at
once, and any other value, or one that comes while a system reset runs, is ignored; RESET_DOWN brings the notice of its root once; RESET_UP notes
the answer of a child; both wake the module. With every child's answer the module is ready and answers its parent, where it has one; its own reset
follows once no answer of it waits to leave. -/
def Obligations.SystemReset : Prop :=
  (∀ (s : State) (value : Nat), hostServes s →
    (value % 2 ^ 32 ≠ 0x52534554 → exec (.sysreset value) s = .next s) ∧
    (value % 2 ^ 32 = 0x52534554 → s.chtState ≠ chtActive → exec (.sysreset value) s = .next s.moduleReset) ∧
    (value % 2 ^ 32 = 0x52534554 → s.chtState = chtActive → s.sysreset = none →
      exec (.sysreset value) s = .next (s.resetNotice true (s.node?.getD 0))) ∧
    (value % 2 ^ 32 = 0x52534554 → s.chtState = chtActive → s.sysreset ≠ none → exec (.sysreset value) s = .next s)) ∧
  (∀ (s u : State) (k : Packet), k.wf = true → s.node? = some k.dst → u = (s.takeIn k).wakeTrigger →
    (k.op = pktRESET_DOWN → u.sysreset = none →
      exec (.resetDown k) s = .next (u.resetNotice false (bits k.arg0 47 32))) ∧
    (k.op = pktRESET_DOWN → u.sysreset ≠ none → exec (.resetDown k) s = .next u) ∧
    (∀ r, k.op = pktRESET_UP → u.sysreset = some r →
      exec (.resetUp k) s =
        .next ({ u with sysreset := some { r with answered := k.src :: r.answered } } : State).resetProgress) ∧
    (k.op = pktRESET_UP → u.sysreset = none → exec (.resetUp k) s = .next u)) ∧
  ∀ (s : State) (r : SysReset) (v : State), s.sysreset = some r → v = { s with sysreset := some { r with ready := true } } →
    (r.ready = true ∨ (∃ c ∈ s.resetChildren r.root, c ∉ r.answered) → s.resetProgress = s) ∧
    (r.ready = false → (∀ c ∈ s.resetChildren r.root, c ∈ r.answered) →
      (s.treeHop (s.node?.getD 0) r.root s.fullScope 7 = none → s.resetProgress = v.resetIfSent) ∧
      (∀ up, s.treeHop (s.node?.getD 0) r.root s.fullScope 7 = some up →
        s.resetProgress = (v.resetMsg pktRESET_UP up r.root).resetIfSent))

/-! ### UPDATE (15) -/

/-- The UPDATE operations (R74, R324 to R339): an operation of no elements or rows does nothing; NORM sends one X320 contribution of the exact sum of its
blocks' partials, once, and waits for its response; APPLY updates a dense group or the touched rows of a table; ROOT writes the roots of its
tiles; STORE and EXPORT finish with the result of their rules; where the group is not there the task ends with FORMAT. -/
def Obligations.UpdateOps : Prop :=
  ∀ (s : State) (t : Task),
    (engineRuns s t engUPDATE updNORM →
      (s.requestsOf t.id = [] → (∀ w ∈ s.fabric.waiting, w.1 ≠ t.id) →
        ((parseUpd t.args).empty = true → exec (.norm t.id) s = .next (s.applyResult t {})) ∧
        ((parseUpd t.args).empty = false → s.updCtx? t = none →
          exec (.norm t.id) s = .next (s.applyResult t { status := stFORMAT })) ∧
        (∀ c taint, (parseUpd t.args).empty = false → s.updCtx? t = some c →
          taint = s.firstPoisonOf ((s.key c.a.grad + 4 * c.localFirst, 4 * c.units.2) ::
            (c.freezeRange.map (fun r => (s.key r.addr, r.len)))) →
          exec (.norm t.id) s = .next ((s.setTask { t with poisonAt := taint }).queueRequests t.id (ioOfDie t.desc.place)
            [normPacket c t.job (normCell (s.normPartials c)) taint.isSome]))) ∧
      (s.requestsOf t.id ≠ [] ∨ (∃ w ∈ s.fabric.waiting, w.1 = t.id) → exec (.norm t.id) s = .next s)) ∧
    (engineRuns s t engUPDATE updAPPLY →
      ((parseUpd t.args).empty = true → exec (.apply t.id) s = .next (s.applyResult t {})) ∧
      ((parseUpd t.args).empty = false → s.updCtx? t = none →
        exec (.apply t.id) s = .next (s.applyResult t { status := stFORMAT })) ∧
      (∀ c, (parseUpd t.args).empty = false → s.updCtx? t = some c →
        (c.dense = true → exec (.apply t.id) s = .next (s.applyDense t c)) ∧
        (c.dense = false → exec (.apply t.id) s = .next (s.applyTable t c)))) ∧
    (engineRuns s t engUPDATE updSTORE → exec (.store t.id) s = .next (s.applyResult t (s.storeRun t))) ∧
    (engineRuns s t engUPDATE updROOT → exec (.root t.id) s = .next (s.applyResult t (s.rootRun t))) ∧
    (∀ c, (parseUpd t.args).empty = false → s.updCtx? t = some c →
      s.rootRun t =
        { ops := (c.tiles.map (fun x => s.rootTile c x.1 x.2)).flatMap (·.1),
          bumps := [(Reg.UPD_CNT_ROOT_TILES, 2 * c.tiles.length),
            (Reg.UPD_CNT_ROOT_FAIL, sumNat ((c.tiles.map (fun x => s.rootTile c x.1 x.2)).map (·.2)))],
          poisonAt := s.firstPoisonOf (c.tiles.map (fun x => (c.tileKey x.1 x.2, 0x20000))) }) ∧
    (engineRuns s t engUPDATE updEXPORT → exec (.exportRows t.id) s = .next (s.applyResult t (s.exportRun t))) ∧
    ((parseUpd t.args).empty = true → s.storeRun t = {} ∧ s.rootRun t = {} ∧ s.exportRun t = {}) ∧
    ((parseUpd t.args).empty = false → s.updCtx? t = none →
      s.storeRun t = { status := stFORMAT } ∧ s.rootRun t = { status := stFORMAT } ∧ s.exportRun t = { status := stFORMAT })

/-! ### Reliability (16) -/

/-- Errors (R341, R343, R345, R348 to R350, R357): an error on a transfer poisons its block, is counted and recorded, as an uncorrectable SRAM
error is; a corrected SRAM error is only counted, and one of a tile store is merged for the log. One inside the engine of a tile is counted
against the tile: in a speculative task it is suppressed, a task that is not replayable ends with PARITY, and another is repeated, first there
and then on a substitute, and ends with PARITY where that fails or there is none. Control state that is lost ends its task with PARITY; the
entry or descriptor that a ring is at fails with it; a lost task-table entry completes with it; a lost shared table terminates the jobs it
names (that the record's die is free is log entry 29). -/
def Obligations.ParityErrors : Prop :=
  ∀ s : State,
    (∀ key, (ParitySite.transfer key).wf = true →
      exec (.parityError (.transfer key)) s = .next
        (((s.bump Reg.ERR_CNT_PARITY 1).memOps [.poison (key / 64 * 64) 64]).logError
          { source := 3, severity := 1, die := keyDie key, tile := keyTile key, addr := s.addrOfKey (key / 64 * 64) })) ∧
    (∀ key, (ParitySite.sramUncorrectable key).wf = true →
      exec (.parityError (.sramUncorrectable key)) s = .next
        (((s.bump Reg.ERR_CNT_SRAM_UE 1).memOps [.poison (key / 64 * 64) 64]).logError
          { source := 2, severity := 1, die := keyDie key, tile := keyTile key, addr := s.addrOfKey (key / 64 * 64) })) ∧
    exec (.parityError (.sramCorrected none)) s = .next (s.bump Reg.ERR_CNT_SRAM_CE 1) ∧
    (∀ tile, tile < 64 → exec (.parityError (.sramCorrected (some tile))) s = .next
      ((s.bump Reg.ERR_CNT_SRAM_CE 1).corrected (tile / 8) tile 0xFF 0)) ∧
    (∀ (t : Task) (tile : Nat), s.task? t.id = some t → t.id.die < 8 → tile < 64 →
      (t.phase = .running → s.jobState t.job = 1 → isTileClass t.desc.engine = true → t.desc.engine ≠ engDMA →
        (s.heldTiles t).contains tile = true → ∀ u, u = (s.bump Reg.ERR_CNT_PARITY 1).suspectTile tile →
        (t.speculative = true → exec (.parityError (.tileEngine t.id tile)) s =
          .next ((u.bump Reg.MEM_CNT_SPEC_FAULT_SUPPRESSED 1).setTask { t with marked := true })) ∧
        (t.speculative = false → t.inPlace = true → exec (.parityError (.tileEngine t.id tile)) s =
          .next ((u.logError (t.parityRecord tile 0 0xFF 2 stPARITY)).parityEnds t)) ∧
        (t.speculative = false → t.inPlace = false → t.attempts = 0 →
          exec (.parityError (.tileEngine t.id tile)) s = .next (u.replay t tile 1 0xFF)) ∧
        (∀ x v, t.speculative = false → t.inPlace = false → t.attempts = 1 → u.substitute? t.job tile = some x →
          u.movedOff t tile = some v →
          exec (.parityError (.tileEngine t.id tile)) s = .next (u.replay { v with faulty := some tile } tile 2 x)) ∧
        (t.speculative = false → t.inPlace = false → 2 ≤ t.attempts ∨ (t.attempts = 1 ∧ u.substitute? t.job tile = none) →
          exec (.parityError (.tileEngine t.id tile)) s =
            .next ((u.logError (t.parityRecord tile t.attempts 0xFF 2 stPARITY)).parityEnds t))) ∧
      (t.phase ≠ .running ∨ s.jobState t.job ≠ 1 ∨ isTileClass t.desc.engine = false ∨ t.desc.engine = engDMA ∨
        (s.heldTiles t).contains tile = false → exec (.parityError (.tileEngine t.id tile)) s = .next s)) ∧
    (∀ t : Task, s.task? t.id = some t → t.id.die < 8 →
      (t.unfinished = true → exec (.parityError (.control t.id)) s = .next ((s.bump Reg.ERR_CNT_PARITY 1).parityEnds t)) ∧
      (t.unfinished = false → exec (.parityError (.control t.id)) s = .next s) ∧
      (t.phase ≠ .recordDue → t.phase ≠ .signalling →
        ∀ u, u = (s.bump Reg.ERR_CNT_SRAM_UE 1).logError
          { source := 10, status := stPARITY, severity := 2, die := t.id.die, job := t.job, signalTag := t.desc.signalTag,
            userTag := t.desc.userTag } →
        exec (.parityError (.taskEntry t.id)) s =
          .next ((u.cutOff t).complete t (if s.jobState t.job = 1 then stPARITY else stJOB_KILLED))) ∧
      (t.phase = .recordDue ∨ t.phase = .signalling → exec (.parityError (.taskEntry t.id)) s = .next s)) ∧
    (∀ ring, ring < 32768 → ∀ u, u = s.bump Reg.ERR_CNT_PARITY 1 →
      ((s.ring ring).heldByRecord = true → exec (.parityError (.ringEntry ring)) s = .next u) ∧
      ((s.ring ring).heldByRecord = false → (s.ring ring).progress ≠ none →
        exec (.parityError (.ringEntry ring)) s = .next (u.rejectDescriptor ring 0 0 stPARITY false)) ∧
      (∀ e, (s.ring ring).heldByRecord = false → (s.ring ring).progress = none → u.ringEntry? ring = some e →
        exec (.parityError (.ringEntry ring)) s = .next (u.rejectEntry ring stPARITY)) ∧
      ((s.ring ring).heldByRecord = false → (s.ring ring).progress = none → u.ringEntry? ring = none →
        exec (.parityError (.ringEntry ring)) s = .next u)) ∧
    (∀ (j : Nat) (u : State), u = (({ s with free := s.free + 1 } : State).bump Reg.ERR_CNT_SRAM_UE 1).logError
        { source := 10, status := stPARITY, severity := 3, die := Config.freeValue s.free % 10, job := j } →
      exec (.parityError (.sharedTable (some j))) s = .next (u.terminateJob j stPARITY)) ∧
    (∀ u : State, u = (({ s with free := s.free + 1 } : State).bump Reg.ERR_CNT_SRAM_UE 1).logError
        { source := 10, status := stPARITY, severity := 3, die := Config.freeValue s.free % 10, job := 0xFFFF } →
      exec (.parityError (.sharedTable none)) s = .next (u.jobs.foldl (fun a j => a.terminateJob j.id stPARITY) u))

/-- Jobs (R346, R347): JOB_KILL starts the termination of the selected job where it runs, and changes nothing where it does not; JOB_TERMINATED ends
the live tasks of a terminating job, closes its rings and, once its records are written, makes it KILLED, counted and posted; it
changes nothing for a job that is not terminating; JOB_REVIVE lets a KILLED job run again and changes no other job. The host's two
commands do nothing without power and are Unsupported Requests in D3hot. -/
def Obligations.Jobs : Prop :=
  ∀ (s : State) (job : Nat),
    (hostServes s → job = s.reg Reg.ERR_JOB_SEL_job_id →
      (s.jobState job = 1 →
        exec .jobKill s = .next ((s.terminateJob job stJOB_KILLED).setReg Reg.ERR_JOB_CTRL_kill 1)) ∧
      (s.jobState job ≠ 1 → exec .jobKill s = .next s) ∧
      (∀ j, s.job? job = some j → j.state = 3 → exec .jobRevive s = .next (s.setJob { j with state := 1, cause := 0 })) ∧
      (∀ j, s.job? job = some j → j.state ≠ 3 → exec .jobRevive s = .next s) ∧
      (s.job? job = none → exec .jobRevive s = .next s)) ∧
    (∀ c, c = Instr.jobKill ∨ c = Instr.jobRevive →
      (s.carrier.power ≠ .on → exec c s = .next s) ∧
      (s.carrier.power = .on → s.pcie.d3hot = true → exec c s = .next (s.emit .unsupported))) ∧
    (∀ j u, s.job? job = some j → u = (s.killJobTasks job).closeJob job →
      (j.state = 2 → u.jobRecordsDone job = true →
        ∀ v, v = (u.setJob { j with state := 3 }).bump Reg.ERR_CNT_JOBS_KILLED 1 →
        exec (.jobTerminated job) s = .next
          (((if v.killPending then v else v.setReg Reg.ERR_JOB_CTRL_kill 0).logError
            { source := 9, status := j.cause, severity := 3, die := 0, job := j.id }).post Reg.ERR_EVENT_job_killed 0xFF j.id)) ∧
      (j.state = 2 → u.jobRecordsDone job = false → exec (.jobTerminated job) s = .next u) ∧
      (j.state ≠ 2 → exec (.jobTerminated job) s = .next s)) ∧
    (s.job? job = none → exec (.jobTerminated job) s = .next s) ∧
    (∀ j, s.job? job = some j → j.state = 1 → ∀ cause, changesOnly [.jobs, .rings] s (s.terminateJob job cause) ∧
      (s.terminateJob job cause).jobState job = 2)

/-- The pointers of the two logs (R357, R396): an enable rises only over a log that ends inside HBM, and then both pointers are 0; one that is already
enabled stays as it is; head moves forward to at most tail; any other write is counted and changes nothing else. Posting (R356, R357,
R394 to R396): an event sets its bit; without EVENT_RING accepted, or with the ring off or full, memory keeps every byte, and off or
full the event is counted as lost; with room its record is the 32 bytes at the tail, and the tail and the sequence number rise by one.
An error record is the 64 bytes at its log's tail, and error_logged is posted; with the log off it is only counted, and with the log
full counted and posted as an overflow. A vector that may not be sent sets its PBA bit, one in its holdoff waits, and any other is
sent. -/
def Obligations.LogsAndEvents : Prop :=
  (∀ s : State, hostServes s →
     (exec (.errLogEnable false) s = .next (s.setReg Reg.ERR_LOG_CFG_enable 0)) ∧
     (exec (.evqEnable false) s = .next (s.setReg Reg.DEV_EVQ_CFG_enable 0)) ∧
     (s.reg Reg.ERR_LOG_CFG_enable = 1 → exec (.errLogEnable true) s = .next s) ∧
     (s.reg Reg.ERR_LOG_CFG_enable ≠ 1 →
       (s.reg Reg.ERR_LOG_BASE_base * 64 + 64 * 2 ^ s.reg Reg.ERR_LOG_CFG_log2_entries ≤ 0xC000000000 →
         exec (.errLogEnable true) s = .next
           (s.setRegs [(Reg.ERR_LOG_CFG_enable, 1), (Reg.ERR_LOG_PTR_head, 0), (Reg.ERR_LOG_PTR_tail, 0)])) ∧
       (0xC000000000 < s.reg Reg.ERR_LOG_BASE_base * 64 + 64 * 2 ^ s.reg Reg.ERR_LOG_CFG_log2_entries →
         exec (.errLogEnable true) s = .next (s.bump Reg.DEV_CNT_BAD_ACCESS 1))) ∧
     (s.reg Reg.DEV_EVQ_CFG_enable = 1 → exec (.evqEnable true) s = .next s) ∧
     (s.reg Reg.DEV_EVQ_CFG_enable ≠ 1 →
       (s.reg Reg.DEV_EVQ_BASE_base * 32 + 32 * 2 ^ s.reg Reg.DEV_EVQ_CFG_log2_size ≤ 0xC000000000 →
         exec (.evqEnable true) s = .next
           (s.setRegs [(Reg.DEV_EVQ_CFG_enable, 1), (Reg.DEV_EVQ_PTR_head, 0), (Reg.DEV_EVQ_PTR_tail, 0)])) ∧
       (0xC000000000 < s.reg Reg.DEV_EVQ_BASE_base * 32 + 32 * 2 ^ s.reg Reg.DEV_EVQ_CFG_log2_size →
         exec (.evqEnable true) s = .next (s.bump Reg.DEV_CNT_BAD_ACCESS 1))) ∧
     (∀ value v, v = value % 2 ^ 32 →
       ((v + 2 ^ 32 - s.reg Reg.ERR_LOG_PTR_head) % 2 ^ 32 ≤
           (s.reg Reg.ERR_LOG_PTR_tail + 2 ^ 32 - s.reg Reg.ERR_LOG_PTR_head) % 2 ^ 32 →
         exec (.errLogHead value) s = .next (s.setReg Reg.ERR_LOG_PTR_head v)) ∧
       ((s.reg Reg.ERR_LOG_PTR_tail + 2 ^ 32 - s.reg Reg.ERR_LOG_PTR_head) % 2 ^ 32 <
           (v + 2 ^ 32 - s.reg Reg.ERR_LOG_PTR_head) % 2 ^ 32 →
         exec (.errLogHead value) s = .next (s.bump Reg.DEV_CNT_BAD_ACCESS 1)) ∧
       ((v + 2 ^ 32 - s.reg Reg.DEV_EVQ_PTR_head) % 2 ^ 32 ≤
           (s.reg Reg.DEV_EVQ_PTR_tail + 2 ^ 32 - s.reg Reg.DEV_EVQ_PTR_head) % 2 ^ 32 →
         exec (.evqHead value) s = .next (s.setReg Reg.DEV_EVQ_PTR_head v)) ∧
       ((s.reg Reg.DEV_EVQ_PTR_tail + 2 ^ 32 - s.reg Reg.DEV_EVQ_PTR_head) % 2 ^ 32 <
           (v + 2 ^ 32 - s.reg Reg.DEV_EVQ_PTR_head) % 2 ^ 32 →
         exec (.evqHead value) s = .next (s.bump Reg.DEV_CNT_BAD_ACCESS 1)))) ∧
  (∀ s : State,
     (∀ (f : Field) (unit a0 a1 : Nat), f.width = 1 → 0xB8 ≤ f.off →
       (s.post f unit a0 a1).reg f = 1 ∧
       changesOnly [.mem, .writes, .regs, .eventSeq, .pcie, .outputs] s (s.post f unit a0 a1) ∧
       (s.accepted 1 = false → s.post f unit a0 a1 = s.setReg f 1) ∧
       (s.accepted 1 = true → s.reg Reg.DEV_EVQ_CFG_enable ≠ 0 →
         (s.reg Reg.DEV_EVQ_PTR_tail + 2 ^ 32 - s.reg Reg.DEV_EVQ_PTR_head) % 2 ^ 32 ≠ 2 ^ s.reg Reg.DEV_EVQ_CFG_log2_size →
         (s.post f unit a0 a1).mem = s.mem.write
           (s.reg Reg.DEV_EVQ_BASE_base * 32 + s.reg Reg.DEV_EVQ_PTR_tail % 2 ^ s.reg Reg.DEV_EVQ_CFG_log2_size * 32)
           (eventRecord f unit (phaseBit (s.reg Reg.DEV_EVQ_PTR_tail) (s.reg Reg.DEV_EVQ_CFG_log2_size)) s.eventSeq s.now a0 a1) ∧
         (s.post f unit a0 a1).reg Reg.DEV_EVQ_PTR_tail = (s.reg Reg.DEV_EVQ_PTR_tail + 1) % 2 ^ 32 ∧
         (s.post f unit a0 a1).eventSeq = s.eventSeq + 1) ∧
       (s.accepted 1 = true →
         s.reg Reg.DEV_EVQ_CFG_enable = 0 ∨ (s.reg Reg.DEV_EVQ_PTR_tail + 2 ^ 32 - s.reg Reg.DEV_EVQ_PTR_head) % 2 ^ 32 =
           2 ^ s.reg Reg.DEV_EVQ_CFG_log2_size →
         s.post f unit a0 a1 = ((s.setReg f 1).bump Reg.DEV_CNT_EVENT_LOST 1).setReg Reg.DEV_EVENT_event_lost 1)) ∧
     (∀ r : ErrorRecord,
       (s.reg Reg.ERR_LOG_CFG_enable = 0 → s.logError r = s.bump Reg.ERR_CNT_LOST 1) ∧
       (s.reg Reg.ERR_LOG_CFG_enable ≠ 0 →
         (s.reg Reg.ERR_LOG_PTR_tail + 2 ^ 32 - s.reg Reg.ERR_LOG_PTR_head) % 2 ^ 32 = 2 ^ s.reg Reg.ERR_LOG_CFG_log2_entries →
         s.logError r = (s.bump Reg.ERR_CNT_LOST 1).post Reg.ERR_EVENT_log_overflow) ∧
       (s.reg Reg.ERR_LOG_CFG_enable ≠ 0 →
         (s.reg Reg.ERR_LOG_PTR_tail + 2 ^ 32 - s.reg Reg.ERR_LOG_PTR_head) % 2 ^ 32 ≠ 2 ^ s.reg Reg.ERR_LOG_CFG_log2_entries →
         s.logError r = ((({ s with errorSeq := s.errorSeq + 1 } : State).write
           (s.reg Reg.ERR_LOG_BASE_base * 64 + s.reg Reg.ERR_LOG_PTR_tail % 2 ^ s.reg Reg.ERR_LOG_CFG_log2_entries * 64)
           (r.bytes s.now s.errorSeq (phaseBit (s.reg Reg.ERR_LOG_PTR_tail) (s.reg Reg.ERR_LOG_CFG_log2_entries)))).setReg
             Reg.ERR_LOG_PTR_tail (s.reg Reg.ERR_LOG_PTR_tail + 1)).post Reg.ERR_EVENT_error_logged)) ∧
     (∀ v : Nat,
       (s.vectorMasked v = true → s.raiseVector v = { s with pcie := { s.pcie with pba := insertNat v s.pcie.pba } }) ∧
       (s.vectorMasked v = false → (∃ h ∈ s.pcie.holdoff, h.1 = v) → (s.raiseVector v).outputs = s.outputs ∧
         ∀ h ∈ (s.raiseVector v).pcie.holdoff, h.1 = v → h.2.2 = true) ∧
       (s.vectorMasked v = false → (∀ h ∈ s.pcie.holdoff, h.1 ≠ v) → (s.raiseVector v).outputs =
         s.outputs ++ [.msix v (s.msixEntry v).addr (s.msixEntry v).data])))

/-! ### Power (17) -/

/-- Clocks and voltages (R364, R366 to R368, R377): outside the anchor watch a root moves one step towards its target, with the voltage raised to
the target's plan before a rise, and lowered to it when a fall ends; slack below the guardband raises a die's voltage by 5 mV, to
0.90 V at most, and slack beyond it by more than 8 ps lowers it, to 0.55 V at least; in the watch both leave the dies, which are off,
alone; an operating point is taken within 22 to 72 where the table stays without a descent, and a cap of 0 to 2,800 W, each by the bits
of its field; drift is the worst of a die's tiles and is stored with the planned voltages. Limits and heat (R359, R361, R375, R376): an
input below 40 V is posted; a rail limit acts on its compute die's gate, never raising it, and counts the cycles it stretched, until the
rail's averages are below their limits; VAUX has none; droop counts its stretched cycles, and a droop of 1 µs sets the die's target two
steps below its mult, at 22 at least, and holds it there for 100 µs; a junction above tj_target sets the target one step below, and one
that is not lets the die rise again; R_th moves by a sixteenth of its distance where the input took 1,000 W. -/
def Obligations.ClocksVoltagesLimits : Prop :=
  (∀ (s : State) (d : Nat), d < 8 →
     (s.power.anchor = .awake ∨ s.power.anchor = .entering →
       (s.reg (Reg.PLT_DIE_mult d) < (s.diePower d).target →
         exec (.multSlewStep d) s = .next (s.setRegs
           [(Reg.PLT_DIE_v_mv d, Nat.max (s.reg (Reg.PLT_DIE_v_mv d)) (railMv (s.planMv d (s.diePower d).target))),
             (Reg.PLT_DIE_mult d, s.reg (Reg.PLT_DIE_mult d) + 1)])) ∧
       ((s.diePower d).target + 1 < s.reg (Reg.PLT_DIE_mult d) →
         exec (.multSlewStep d) s = .next (s.setReg (Reg.PLT_DIE_mult d) (s.reg (Reg.PLT_DIE_mult d) - 1))) ∧
       ((s.diePower d).target + 1 = s.reg (Reg.PLT_DIE_mult d) →
         exec (.multSlewStep d) s = .next ((s.setReg (Reg.PLT_DIE_mult d) (s.diePower d).target).setReg (Reg.PLT_DIE_v_mv d)
           (railMv (s.planMv d (s.diePower d).target)))) ∧
       (s.reg (Reg.PLT_DIE_mult d) = (s.diePower d).target → exec (.multSlewStep d) s = .next s) ∧
       (∀ (slack : Int) (u : State), u = s.setReg (Reg.PLT_AGE_slack_ps d) (ofSigned 16 slack) →
         ((slack : Rat) < guardband (s.power.drift.getD d 0) →
           exec (.voltageAdjust d slack) s =
             .next (u.setReg (Reg.PLT_DIE_v_mv d) (Nat.min 900 (s.reg (Reg.PLT_DIE_v_mv d) + 5)))) ∧
         (guardband (s.power.drift.getD d 0) + 8 < (slack : Rat) →
           exec (.voltageAdjust d slack) s =
             .next (u.setReg (Reg.PLT_DIE_v_mv d) (Nat.max 550 (s.reg (Reg.PLT_DIE_v_mv d) - 5)))) ∧
         (guardband (s.power.drift.getD d 0) ≤ (slack : Rat) → (slack : Rat) ≤ guardband (s.power.drift.getD d 0) + 8 →
           exec (.voltageAdjust d slack) s = .next ((u.setDiePower d
             { s.diePower d with
               planned := storeNat (s.reg (Reg.PLT_DIE_mult d)) (s.reg (Reg.PLT_DIE_v_mv d)) (s.diePower d).planned }).checkFmax
             d)))) ∧
     (s.power.anchor = .watching ∨ s.power.anchor = .waking →
       exec (.multSlewStep d) s = .next s ∧ ∀ slack : Int, exec (.voltageAdjust d slack) s = .next s) ∧
     (∀ n, exec (.droop d n) s = .next (s.bump Reg.PLT_CNT_STRETCH n)) ∧
     exec (.droopPersist d) s = .next (s.setDiePower d { s.diePower d with
       held := true, heldAt := s.now, target := Nat.max 22 (s.reg (Reg.PLT_DIE_mult d) - 2) }) ∧
     ((s.diePower d).held = true → (s.diePower d).heldAt + 10000 ≤ s.now →
       exec (.droopHoldEnd d) s = .next (s.setDiePower d { s.diePower d with held := false })) ∧
     ((s.diePower d).held = false ∨ s.now < (s.diePower d).heldAt + 10000 → exec (.droopHoldEnd d) s = .next s) ∧
     (∀ tj, s.reg Reg.PLT_THERMAL_tj_target < tj →
       exec (.junctionThrottle d tj) s = .next ((s.setReg (Reg.PLT_DIE_tj d) tj).setDiePower d { s.diePower d with
         hot := true, target := Nat.max 22 (Nat.min (s.diePower d).target (s.reg (Reg.PLT_DIE_mult d)) - 1) })) ∧
     (∀ tj, tj ≤ s.reg Reg.PLT_THERMAL_tj_target →
       exec (.junctionThrottle d tj) s =
         .next ((s.setReg (Reg.PLT_DIE_tj d) tj).setDiePower d { s.diePower d with hot := false }))) ∧
  (∀ s : State,
     (∀ d tj, d = 8 ∨ d = 9 → exec (.multSlewStep d) s = .next s ∧
       exec (.junctionThrottle d tj) s = .next (s.setReg (Reg.PLT_DIE_tj d) tj)) ∧
     (∀ e value v, hostServes s → e < 64 → v = value % 128 →
       (22 ≤ v → v ≤ 72 → (e = 0 ∨ s.reg (Reg.PLT_OPP_mult (e - 1)) ≤ v) → (e = 63 ∨ v ≤ s.reg (Reg.PLT_OPP_mult (e + 1))) →
         exec (.oppWrite e value) s = .next (s.setReg (Reg.PLT_OPP_mult e) v)) ∧
       (v < 22 ∨ 72 < v → exec (.oppWrite e value) s = .next s) ∧
       (0 < e → v < s.reg (Reg.PLT_OPP_mult (e - 1)) → exec (.oppWrite e value) s = .next s) ∧
       (e < 63 → s.reg (Reg.PLT_OPP_mult (e + 1)) < v → exec (.oppWrite e value) s = .next s)) ∧
     (∀ value v, hostServes s → v = value % 4096 →
       (v ≤ 2800 → exec (.capWrite value) s = .next (s.setReg Reg.PLT_CAP_cap_w v).rebudget) ∧
       (2800 < v → exec (.capWrite value) s = .next s)) ∧
     (∀ vin u, u = (({ s with power := { s.power with vin := vin } } : State).setReg Reg.PLT_POWER_vin vin).rebudget →
       (vin < 4000 → exec (.inputLow vin) s = .next (u.post Reg.PLT_EVENT_input_low)) ∧
       (4000 ≤ vin → exec (.inputLow vin) s = .next u)) ∧
     (∀ l : List Nat, l.length = 64 → ∃ t, exec (.ageingMeasure l) s = .next t ∧
       t.power.drift = (List.range 8).map (fun d => maxNat ((l.drop (8 * d)).take 8)) ∧ t.tasks = s.tasks) ∧
     exec .ageingStore s = .next { s with binnacle := { s.binnacle with
       driftPpm := s.power.drift, plannedStore := (s.power.dies.take 8).map (·.planned) } } ∧
     (∀ (r : RailReport) (g : Nat), r.rail < 27 → 0 < g → g ≤ 64 →
       (r.rail = 26 → exec (.railLimit r g) s = .next s) ∧
       (∀ d others, railDie? r.rail = some d → others = s.power.railActing.filter (fun a => !decide (a.1 = r.rail)) →
         (railOver r = true → exec (.railLimit r g) s = .next ((({ s with power := { s.power with
           railActing := others ++ [(r.rail, g)], railActed := true } } : State).bump Reg.PLT_CNT_STRETCH r.stretched).showGate d)) ∧
         (railOver r = false → exec (.railLimit r g) s = .next
           (({ s with power := { s.power with railActing := others } } : State).showGate d)))) ∧
     (∀ d, d < 8 → (s.showGate d).reg (Reg.PLT_DIE_gate d) ≤ (s.diePower d).gate ∧
       ∀ a ∈ s.power.railActing, railDie? a.1 = some d → (s.showGate d).reg (Reg.PLT_DIE_gate d) ≤ a.2) ∧
     (∀ tj tin pin : Nat,
       (1000 ≤ pin → ∃ t, exec (.rthUpdate tj tin pin) s = .next t ∧ t.power.tin = some tin ∧
         t.power.rth = s.power.rth + ((((tj : Rat) - (tin : Rat)) * 1000000) / (pin : Rat) - s.power.rth) / 16) ∧
       (pin < 1000 → ∃ t, exec (.rthUpdate tj tin pin) s = .next t ∧ t.power.tin = some tin ∧ t.power.rth = s.power.rth)))

/-- The Pilot's interval (R361, R369, R370, R372, R380): an interval in which a rail limit acted counts once; its phases are learned, its measures
reported, the budget formed, entries and gates set, a gated interval counted, and energy accounted; in the anchor watch only the budget
and the energy follow. A learning phase that ran at its preferred entry moves it down when its busy cycles are fewer than twice its wait
cycles, and up, to the lowest fmax entry of the compute dies in the phase at most, when they are more than eight times; no other phase
moves. -/
def Obligations.PilotIntervals : Prop :=
  ∀ (s : State) (m : PilotMeasure), m.wf = true →
    ∀ c, c = (({ s with power := { s.power with vin := m.vin } } : State)).countRailLimit →
    (s.power.railActed = false → c = { s with power := { s.power with vin := m.vin } }) ∧
    (s.power.railActed = true → c = ({ s with power := { s.power with
      vin := m.vin, railActed := !s.power.railActing.isEmpty } } : State).bump Reg.PLT_CNT_RAIL_LIMIT 1) ∧
    (s.power.anchor = .awake ∨ s.power.anchor = .entering → ∀ phases u,
      phases = (List.range 8).map (fun d => s.diePhase d (m.dies.getD d ⟨[], 0, 0, [], 0⟩)) →
      u = ((((c.learnPhases phases m).reportInterval phases m).rebudget.applyPilot phases m).reportPhases phases m) →
      ((∀ d < 8, 64 ≤ u.reg (Reg.PLT_DIE_gate d)) → exec (.pilotInterval m) s = .next (u.accountEnergy m)) ∧
      ((∃ d < 8, u.reg (Reg.PLT_DIE_gate d) < 64) →
        exec (.pilotInterval m) s = .next ((u.bump Reg.PLT_CNT_GATE 1).accountEnergy m))) ∧
    (s.power.anchor = .watching ∨ s.power.anchor = .waking → exec (.pilotInterval m) s = .next
      (((c.setRegs [(Reg.PLT_POWER_vin, m.vin), (Reg.PLT_POWER_pin_w, m.pinW), (Reg.PLT_HBM_p_w, m.hbmW)]).rebudget).accountEnergy
        m)) ∧
    (∀ p w b, p < 64 →
      (((s.phaseEntry? p).map (·.learn)).getD false = true →
        (b < 2 * w → exec (.prefRevise p w b true) s = .next (s.setReg (Reg.PLT_PHASE_pref p) (s.reg (Reg.PLT_PHASE_pref p) - 1))) ∧
        (2 * w ≤ b → b ≤ 8 * w → exec (.prefRevise p w b true) s = .next s) ∧
        (2 * w ≤ b → 8 * w < b → (∀ d < 8, s.reg (Reg.PLT_DIE_phase d) = p) →
          (s.reg (Reg.PLT_PHASE_pref p) < ((List.range 8).map s.fmaxEntry).foldl Nat.min 63 →
            exec (.prefRevise p w b true) s = .next (s.setReg (Reg.PLT_PHASE_pref p) (s.reg (Reg.PLT_PHASE_pref p) + 1))) ∧
          (((List.range 8).map s.fmaxEntry).foldl Nat.min 63 ≤ s.reg (Reg.PLT_PHASE_pref p) →
            exec (.prefRevise p w b true) s = .next s))) ∧
      (((s.phaseEntry? p).map (·.learn)).getD false = false → exec (.prefRevise p w b true) s = .next s) ∧
      exec (.prefRevise p w b false) s = .next s)

/-- The anchor watch (R381, R382, R384): ANCHOR begins entry where no task is live, every enabled ring is empty and no reduction or combining entry
is held, and is refused otherwise; outside the awake state it changes nothing; ANCHOR_COMMIT turns the compute dies off, with their tile
stores and the task tables lost, and leaves HBM as it is; WAKE abandons an entry that has not committed, and starts the wake in the
watch; the wake's end brings the dies back with zeroed tile stores, processes the kept doorbells in order and posts anchor_exit. -/
def Obligations.AnchorWatch : Prop :=
  ∀ s : State,
    (hostServes s → s.power.anchor = .awake →
      (s.anchorReady = true → exec .anchor s = .next ((List.range 8).foldl State.askNarrow
        (({ s with power := { s.power with anchor := .entering } } : State).setReg Reg.PLT_CTRL_anchor 1))) ∧
      (s.anchorReady = false →
        exec .anchor s = .next ((s.setReg Reg.PLT_CTRL_anchor 0).post Reg.PLT_EVENT_anchor_refused)) ∧
      exec .wake s = .next s) ∧
    (hostServes s → s.power.anchor ≠ .awake → exec .anchor s = .next s) ∧
    (s.power.anchor = .entering → ∃ t, exec .anchorCommit s = .next t ∧ t.tasks = [] ∧ t.power.anchor = .watching ∧
      t.power.rails = List.replicate 8 false ++ s.power.rails.drop 8 ∧
      t.reg Reg.PLT_STATUS_anchor = 1 ∧ (∀ d < 8, t.reg (Reg.PLT_DIE_v_mv d) = 0) ∧
      (∀ d, d = 8 ∨ d = 9 → t.reg (Reg.PLT_DIE_mult d) = 22 ∧ t.reg (Reg.PLT_DIE_v_mv d) = 550) ∧
      (∀ k, k < 2 ^ 45 → t.mem.read k = s.mem.read k) ∧ ∀ k, 2 ^ 45 ≤ k → k < 2 ^ 45 + 2 ^ 31 → t.mem.read k = 0) ∧
    (s.power.anchor ≠ .entering → exec .anchorCommit s = .next s) ∧
    (hostServes s → s.power.anchor = .entering → exec .wake s = .next
      ((((List.range 8).foldl State.widenLink { s with power := { s.power with anchor := .awake } }).setRegs
        [(Reg.PLT_CTRL_anchor, 0), (Reg.PLT_CTRL_wake, 0)]).post Reg.PLT_EVENT_anchor_refused)) ∧
    (hostServes s → s.power.anchor = .watching ∨ s.power.anchor = .waking → exec .wake s =
      .next (({ s with power := { s.power with anchor := .waking } } : State).setReg Reg.PLT_CTRL_wake 1)) ∧
    (s.power.anchor = .waking → ∃ u : State,
      exec .wakeComplete s =
        .next ((s.power.keptDoorbells.foldl (fun a k => a.doorbell k.1 k.2) u).post Reg.PLT_EVENT_anchor_exit) ∧
      u.power = { s.power with
        anchor := .awake, rails := List.replicate 8 true ++ s.power.rails.drop 8, keptDoorbells := [] } ∧
      u.reg Reg.PLT_STATUS_anchor = 0 ∧ (∀ d, d = 8 ∨ d = 9 → u.reg (Reg.PLT_DIE_mult d) = 66 ∧ u.reg (Reg.PLT_DIE_v_mv d) = 750) ∧
      changesOnly [.mem, .writes, .regs, .power] s u ∧ (∀ k, k < 2 ^ 45 → u.mem.read k = s.mem.read k) ∧
      ∀ k, 2 ^ 45 ≤ k → k < 2 ^ 45 + 2 ^ 31 → u.mem.read k = 0) ∧
    (s.power.anchor ≠ .waking → exec .wakeComplete s = .next s)

/-! ### The host interface (18) -/

/-- BAR2, MSI-X, the link and configuration space (R386, R387, R390, R394, R400, R174): a BAR2 write that is served is stored, poisoned where it
carries EP, and a read answers the bytes with the poisoned blocks among them, each after the codewords that it reads; one that is not
served is an Unsupported Request; a vector that is unmasked goes; a holdoff that ends sends one message where a trigger waits; a link
change is reported and posted; a configuration write while the module boots is retried; a write to TEL_DRIFT_CFG ends every open window.
The host's writes (R387, R409, R433): without power none has an effect; in D3hot each is an Unsupported Request; in RECOVERY only those of
boot and attestation registers and BAR0 and BAR2 accesses reach the module. -/
def Obligations.HostAccess : Prop :=
  ∀ s : State,
    (bootServes s → ∀ (off k : Nat) (ep : Bool) (r : Bar2Reads) (w : Option (List Byte)) (u : State),
      r.errors.all CodewordError.wf = true → u = s.demandReads (s.bar2Reads off w r.length) r.errors →
      (∀ d, w = some d → u.bar2At? off d.length = some k →
        exec (.bar2Access off w ep r) s = .next (u.memOps [if ep then .writePoisoned k d else .write k d])) ∧
      (∀ d, w = some d → u.bar2At? off d.length = none → exec (.bar2Access off w ep r) s = .next (u.emit .unsupported)) ∧
      (w = none → u.bar2At? off r.length = some k → exec (.bar2Access off w ep r) s = .next
        (u.emit (.bar2Data (u.mem.readN k r.length) ((blocksOf k r.length).filter (u.mem.poison.contains ·))))) ∧
      (w = none → u.bar2At? off r.length = none → exec (.bar2Access off w ep r) s = .next (u.emit .unsupported))) ∧
    (∀ ranges, s.demandReads ranges [] = s) ∧
    (hostServes s →
      (∀ v, v < 2048 → exec (.msixUnmask v) s = .next ((s.setMsix { s.msixEntry v with masked := false }).sendPending v)) ∧
      ∀ v, ∃ t, exec (.driftCfgWrite v) s = .next t ∧ t.drift = s.drift.map (fun _ => DriftWindow.reset) ∧
        changesOnly [.regs, .drift] s t) ∧
    (∀ v, v < 2048 →
      (s.pcie.holdoff.find? (fun x => decide (x.1 = v)) = none → exec (.msixHoldoffEnd v) s = .next s) ∧
      ∀ due w, s.pcie.holdoff.find? (fun x => decide (x.1 = v)) = some (v, due, w) →
        (s.now < due → exec (.msixHoldoffEnd v) s = .next s) ∧
        (due ≤ s.now → w = false → exec (.msixHoldoffEnd v) s = .next
          { s with pcie := { s.pcie with holdoff := s.pcie.holdoff.filter (fun x => !decide (x.1 = v)) } }) ∧
        (due ≤ s.now → w = true → exec (.msixHoldoffEnd v) s = .next
          (({ s with pcie := { s.pcie with holdoff := s.pcie.holdoff.filter (fun x => !decide (x.1 = v)) } } : State).raiseVector
            v))) ∧
    (s.carrier.power = .on →
      (∀ speed width flit, ∃ t, exec (.linkChanged speed width flit) s = .next t ∧ t.reg Reg.DEV_EVENT_link_changed = 1 ∧
        t.pcie.linkUp = decide (speed ≠ 0) ∧ (speed < 16 → t.reg Reg.DEV_LINK_speed = speed)) ∧
      (∀ r v, s.reg Reg.SEC_STATUS_state ≠ secBooting → exec (.configurationRequest r v) s = .next (s.configure r v)) ∧
      (∀ r v, s.reg Reg.SEC_STATUS_state = secBooting → exec (.configurationRequest r v) s = .next (s.emit .retryStatus))) ∧
    (∀ (v w p size ring : Nat) (b : Bool), p < 8 → ring < 32768 →
      ∀ c ∈ [Instr.load b, .unload, .force, .doorbellTail ring v size w, .cqHead ring size v, .tickWrite v, .ringEnable, .ringDisable,
        .retrain p, .portEnable p b, .sysreset v, .jobKill, .jobRevive, .errLogEnable b, .errLogHead v, .capWrite v, .oppWrite (v % 64) w,
        .anchor, .wake, .featCommit, .evqEnable b, .evqHead v, .msixUnmask (v % 2048), .driftCfgWrite v, .devReset v],
      (s.carrier.power ≠ .on → exec c s = .next s) ∧
      (s.carrier.power = .on → s.pcie.d3hot = true → exec c s = .next (s.emit .unsupported)) ∧
      (bootServes s → s.reg Reg.SEC_STATUS_state = secRecovery → exec c s = .next s)) ∧
    (∀ (off size value : Nat) (ep : Bool) (w : Option (List Byte)),
      ∀ c ∈ [Instr.registerWrite off size value, .rcRead off size, .bar2Access off w ep ⟨size, []⟩, .commitSvn, .update, .recover],
      (s.carrier.power ≠ .on → exec c s = .next s) ∧
      (s.carrier.power = .on → s.pcie.d3hot = true → exec c s = .next (s.emit .unsupported)))

/-- Feature acceptance (R393): a commit of a value that holds bit 0 and no bit that is not offered takes effect at once and sets committed; any other
value leaves no feature accepted and posts feat_rejected; before the commit a write of a word changes that word alone and no feature is
accepted; after it, writes to DEV_FEAT_ACCEPT are ignored, until a function reset clears both. -/
def Obligations.FeatureAcceptance : Prop :=
  ∀ s : State, hostServes s →
    (s.reg Reg.DEV_FEAT_CTRL_committed ≠ 1 →
      (Nat.land (s.reg Reg.DEV_FEAT_ACCEPT_accept) s.boot.offer = s.reg Reg.DEV_FEAT_ACCEPT_accept →
        bit (s.reg Reg.DEV_FEAT_ACCEPT_accept) 0 = true →
        ∃ t, exec .featCommit s = .next t ∧ changesOnly [.regs] s t ∧ t.reg Reg.DEV_FEAT_CTRL_committed = 1 ∧
          ∀ f, t.accepted f = bit (s.reg Reg.DEV_FEAT_ACCEPT_accept) f) ∧
      (Nat.land (s.reg Reg.DEV_FEAT_ACCEPT_accept) s.boot.offer ≠ s.reg Reg.DEV_FEAT_ACCEPT_accept ∨
          bit (s.reg Reg.DEV_FEAT_ACCEPT_accept) 0 = false →
        ∃ t, exec .featCommit s = .next t ∧ changesOnly [.regs] s t ∧ t.reg Reg.DEV_EVENT_feat_rejected = 1 ∧
          ∀ f, t.accepted f = false) ∧
      (∀ off size value, 0x30 ≤ off → off < 0x50 → aligned off size = true →
        ∃ t, exec (.registerWrite off size value) s = .next t ∧ changesOnly [.regs] s t ∧ (∀ f, t.accepted f = false) ∧
          ∀ k < 256, bit (t.reg Reg.DEV_FEAT_ACCEPT_accept) k =
            if 8 * (off - 0x30) ≤ k ∧ k < 8 * (off - 0x30) + 8 * size then bit value (k - 8 * (off - 0x30))
            else bit (s.reg Reg.DEV_FEAT_ACCEPT_accept) k)) ∧
    (s.reg Reg.DEV_FEAT_CTRL_committed = 1 →
      exec .featCommit s = .next s ∧
      ∀ off size value, 0x30 ≤ off → off < 0x50 → aligned off size = true → exec (.registerWrite off size value) s = .next s) ∧
    ∃ t, exec .functionReset s = .next t ∧ t.reg Reg.DEV_FEAT_CTRL_committed = 0 ∧ t.reg Reg.DEV_FEAT_ACCEPT_accept = 0

/-- HOST_DMA (R398, R399): TO_HOST sends its bytes in writes that cross no 4 KiB boundary and finishes with OK; FROM_HOST asks for its bytes once, and without one finishes; a completion
lands, poisoned where it carries EP, and other tasks take the freed tags; one without its read is discarded; a completion with another status, or none until
the timeout, fails the task. -/
def Obligations.HostDma : Prop :=
  (∀ (s : State) (t : Task) (a : HostArgs), a = parseHostArgs t.args →
    (engineRuns s t engHOST_DMA 1 → exec (.toHost t.id) s = .next
      (({ s with outputs := s.outputs ++ (hostPieces a.host s.pcie.maxPayload a.length).map (fun p =>
        Output.hostWrite (a.host + p.1) (s.mem.readN (s.key a.addr + p.1) p.2) (s.mem.poisoned (s.key a.addr + p.1) p.2)
          a.noSnoop a.relaxed) } : State).applyResult t { status := stOK })) ∧
    (engineRuns s t engHOST_DMA 2 → t.stage = 0 → exec (.fromHost t.id) s =
      .next ((s.issueReads { t with stage := 1 }).readerDone t.id)) ∧
    (engineRuns s t engHOST_DMA 2 → t.stage ≠ 0 → exec (.fromHost t.id) s = .next s)) ∧
  (∀ (s : State) (tag : Nat) (ep : Bool) (data : List Byte), tag < 16384 → s.carrier.power = .on →
    ((∀ r ∈ s.pcie.reads, r.tag ≠ tag) → exec (.hostCompletion tag .success ep data) s =
      .next { s with pcie := { s.pcie with unexpected := true } }) ∧
    (∀ r, s.pcie.reads.find? (fun r => decide (r.tag = tag)) = some r →
      exec (.hostCompletion tag .success ep data) s = .next (((s.landRead r ep data).resumeReads).readerDone r.task) ∧
      (∀ st, st ≠ .success →
        exec (.hostCompletion tag st ep data) s = .next ((s.readerFails r.task stACCESS).resumeReads)) ∧
      (roundUp (r.issued + timeoutUs s.pcie.cplTimeout * 100) 100 ≤ s.now → exec (.hostTimeout tag) s =
        .next (((s.bump Reg.DEV_CNT_HOSTTIMEOUT 1).readerFails r.task stHOSTTIMEOUT).resumeReads)) ∧
      (s.now < roundUp (r.issued + timeoutUs s.pcie.cplTimeout * 100) 100 → exec (.hostTimeout tag) s = .next s))) ∧
  ∀ (addr size length : Nat), 0 < size → ∀ p ∈ hostPieces addr size length,
    0 < p.2 ∧ p.2 ≤ size ∧ (addr + p.1) % 4096 + p.2 ≤ 4096

/-! ### Resets (18 R400, R9) -/

/-- A module reset (R9, R400): every register reads as it does after reset, no Chart, ring, task, signal or reduction is left, memory reads zero, and what the Binnacle, the
silicon and the carrier keep stays, with the flash write in progress; DEV_RESET starts one with its confirming value only; a function reset ends the Chart and
its jobs, zeroes the tile stores and leaves HBM as it is where no event ring is accepted (an UP link that the Chart's going takes down
would post its event there). -/
def Obligations.Resets : Prop :=
  ∀ s : State,
    (∃ t, exec .moduleReset s = .next t ∧ t.regs = [] ∧ t.mem = State.reset.mem ∧ t.chart = none ∧ t.rings = [] ∧ t.tasks = [] ∧
      t.signals = [] ∧ t.reductions = [] ∧ t.combining = [] ∧ t.streams = [] ∧ t.tables = [] ∧ t.pcie = State.reset.pcie ∧
      t.fabric = State.reset.fabric ∧ t.boot.writing = s.boot.writing ∧ t.binnacle = s.binnacle ∧ t.silicon = s.silicon ∧
      t.carrier = s.carrier) ∧
    (hostServes s → ∀ v, v % 2 ^ 32 = 0x4D525354 → exec (.devReset v) s = .next s.moduleReset) ∧
    (hostServes s → ∀ v, v % 2 ^ 32 ≠ 0x4D525354 → exec (.devReset v) s = .next s) ∧
    (∃ t, exec .functionReset s = .next t ∧ t.chart = none ∧ t.jobs = [] ∧ t.tasks = [] ∧ t.chtState = chtNone ∧
      (s.accepted 1 = false → ∀ k, k < 2 ^ 45 → t.mem.read k = s.mem.read k) ∧
      (∀ k, 2 ^ 45 ≤ k → k < 2 ^ 45 + 2 ^ 31 → t.mem.read k = 0) ∧ t.binnacle = s.binnacle ∧ t.silicon = s.silicon ∧
      t.carrier = s.carrier)

/-- The state after reset (R9, R40, R52, R401): nothing waits, no Chart is there, every register of the list has the value that its table gives for reset, every
byte of memory reads zero and its form is canonical (what the module's silicon, Binnacle and carrier hold is log entry 4). -/
def Obligations.ResetState : Prop :=
  State.reset.pending = [] ∧ State.reset.chart = none ∧ State.reset.chtState = chtNone ∧
    (∀ f : Field, State.reset.reg f = f.reset) ∧ (∀ k, State.reset.mem.read k = 0) ∧ State.reset.mem.wf = true ∧
    State.reset.reg Reg.SCH_TICK_period = 100 ∧ State.reset.reg Reg.MEM_SCRUB_CFG_enable = 1 ∧
    State.reset.rings = [] ∧ State.reset.tasks = [] ∧ (State.reset.ring 5).enabled = false

/-! ### Boot and security (19) -/

/-- Boot, updates and recovery (R402, R405 to R409): a boot goes through identity to the image, and waits for a flash write in progress; a good image runs
with HBM zeroed and state RUNNING, and a bad one leads to RECOVERY with the reason of the first failing check; COMMIT_SVN raises the counter to the running
svn; UPDATE writes a good image to the slot, and a bad one fails with its reason; RECOVER does it in RECOVERY, and a module reset follows. -/
def Obligations.BootAndUpdate : Prop :=
  ∀ s : State,
    (s.carrier.power = .on → s.reg Reg.SEC_STATUS_state = secBooting → s.boot.waiting = false →
      (s.bootIdentity.boot.writing = none → exec .boot s = .next s.bootIdentity.bootImage) ∧
      (s.bootIdentity.boot.writing ≠ none → exec .boot s =
        .next { s.bootIdentity with boot := { s.bootIdentity.boot with waiting := true } })) ∧
    (s.reg Reg.SEC_STATUS_state ≠ secBooting → exec .boot s = .next s) ∧
    (s.boot.waiting = true → s.carrier.power = .on → exec .bootFlashWaitEnd s = .next
      (({ s.flashWritten true with boot := { (s.flashWritten true).boot with waiting := false } } : State).bootImage)) ∧
    (s.binnacle.torn = false →
      (s.checkFirmware s.binnacle.flash = 0 →
        s.bootImage.reg Reg.SEC_STATUS_state = secRunning ∧ ∀ k, k < hbmEnd → s.bootImage.mem.read k = 0) ∧
      (∀ r, s.checkFirmware s.binnacle.flash = r → r ≠ 0 →
        s.bootImage.reg Reg.SEC_STATUS_state = secRecovery ∧ s.bootImage.reg Reg.SEC_STATUS_reason = r ∧
          s.bootImage.boot.offer = 0)) ∧
    (bootServes s → ∃ t, exec .commitSvn s = .next t ∧ t.binnacle.counter = Nat.max s.binnacle.counter s.boot.svn ∧
      changesOnly [.binnacle] s t) ∧
    (bootServes s → s.reg Reg.SEC_STATUS_state = secRunning → s.reg Reg.SEC_STATUS_upd_state ≠ 1 →
      ∀ image, image = s.givenImage (s.reg Reg.SEC_IMAGE_ADDR_addr * 4096) →
      (s.checkFirmware image = 0 → exec .update s = .next
        (({ s with boot := { s.boot with writing := some ⟨image, false⟩ } } : State).setRegs
          [(Reg.SEC_STATUS_upd_state, 1), (Reg.SEC_CTRL_update, 1)])) ∧
      (s.checkFirmware image ≠ 0 → exec .update s = .next (s.updateFails (s.checkFirmware image)))) ∧
    (∀ w, s.boot.writing = some w → w.recovery = false → s.boot.waiting = false → s.reg Reg.SEC_STATUS_upd_state = 1 →
      exec (.updateDone true) s = .next ((({ s with
        boot := { s.boot with writing := none },
        binnacle := { s.binnacle with flash := w.image, torn := false } } : State).setRegs
          [(Reg.SEC_STATUS_upd_state, 2), (Reg.SEC_CTRL_update, 0)]).post Reg.SEC_EVENT_update_done) ∧
      exec (.updateDone false) s =
        .next (({ s with boot := { s.boot with writing := none } } : State).updateFails 6)) ∧
    (bootServes s → s.reg Reg.SEC_STATUS_state = secRecovery → s.boot.writing = none →
      (s.checkFirmware (s.givenImage 0) = 0 → exec .recover s = .next
        (({ s with boot := { s.boot with writing := some ⟨s.givenImage 0, true⟩ } } : State).setReg Reg.SEC_CTRL_recover 1)) ∧
      (s.checkFirmware (s.givenImage 0) ≠ 0 →
        exec .recover s = .next (s.setReg Reg.SEC_STATUS_reason (s.checkFirmware (s.givenImage 0))))) ∧
    (∀ w, s.boot.writing = some w → w.recovery = true → s.reg Reg.SEC_STATUS_state = secRecovery →
      exec (.recoveryFlashWriteEnd true) s = .next (s.flashWritten true).moduleReset ∧
      exec (.recoveryFlashWriteEnd false) s = .next ((({ s with boot := { s.boot with writing := none } } : State)).setRegs
        [(Reg.SEC_CTRL_recover, 0), (Reg.SEC_STATUS_reason, 6)]))

/-- The DOE mailbox (R414 to R417): in a running module each request is answered with its code and result; GET_REPORT fails with result 1 without an identity;
ENROLL needs that no owner is there and presence, and RELEASE a signature of the owner over a nonce that is still good. -/
def Obligations.DoeMailbox : Prop :=
  ∀ s : State, s.carrier.power = .on → s.reg Reg.SEC_STATUS_state = secRunning →
    exec (.getCert []) s = .next (s.emit (.doe (leBytes 1 1 ++ leBytes 1 0 ++ leBytes 2 0 ++ s.binnacle.certificate))) ∧
    (∀ nonce, exec (.getNonce [] nonce) s = .next
      (({ s with pcie := { s.pcie with nonce := some (sliceBytes nonce 0 32, s.now) } } : State).emit
        (.doe (leBytes 1 2 ++ leBytes 1 0 ++ leBytes 2 0 ++ sliceBytes nonce 0 32)))) ∧
    (∀ body, body.length = 32 →
      (s.reg Reg.SEC_STATUS_identity_valid = 1 → exec (.getReport body) s =
        .next (s.emit (.doe (leBytes 1 3 ++ leBytes 1 0 ++ leBytes 2 0 ++ s.report body)))) ∧
      (s.reg Reg.SEC_STATUS_identity_valid ≠ 1 → exec (.getReport body) s =
        .next (s.emit (.doe (leBytes 1 3 ++ leBytes 1 1 ++ leBytes 2 0))))) ∧
    (∀ body, body.length = 57 →
      (s.binnacle.ownerKey ≠ none → exec (.enroll body) s = .next (s.emit (.doe (leBytes 1 4 ++ leBytes 1 2 ++ leBytes 2 0)))) ∧
      (s.binnacle.ownerKey = none → s.present = false →
        exec (.enroll body) s = .next (s.emit (.doe (leBytes 1 4 ++ leBytes 1 3 ++ leBytes 2 0)))) ∧
      (s.binnacle.ownerKey = none → s.present = true → ∃ t, exec (.enroll body) s = .next t ∧
        t.binnacle.ownerKey = some body ∧ t.reg Reg.SEC_EVENT_owner_changed = 1)) ∧
    (∀ (body key : List Byte), body.length = 114 →
      (s.binnacle.ownerKey = some key → s.chtState = chtNone → s.releaseSigned key body = true →
        ∃ t, exec (.release body) s = .next t ∧ t.binnacle.ownerKey = none ∧ t.pcie.nonce = none ∧
          t.reg Reg.SEC_EVENT_owner_changed = 1) ∧
      (s.binnacle.ownerKey = some key → s.chtState = chtNone → s.releaseSigned key body = false →
        ∃ t, exec (.release body) s = .next t ∧ t.binnacle = s.binnacle ∧ t.pcie.nonce = none))

/-! ### The carrier (20) -/

/-- Power and input (R362, R408, R424 to R426, R428 to R432): each step of the sequence turns its rails on in order, and with the fifth
control passes to the boot ROM; a step that fails turns every rail off; a low input turns a running module's rails off and its return
starts them again; latch and presence cut the rails; the attention button opens a window of 60 s. Trips (R425, R433 to R435): each trip
records its cause and reading, turns every rail off, enters the safe state and reports it; overvoltage trips only where it lasts; the
interlock holds the latch above 55 °C and releases it below 53 °C. -/
def Obligations.CarrierPowerAndTrips : Prop :=
  (∀ s : State,
     (∀ n, s.carrier.power = .sequencing n → s.carrier.inputOk = true →
       (n < 4 → exec (.powerSequence true) s = .next { s with
         power := { s.power with rails := railsAfter (n + 1) },
         carrier := { s.carrier with power := .sequencing (n + 1) } }) ∧
       (4 ≤ n → ∃ t, exec (.powerSequence true) s = .next t ∧ t.carrier.power = .on ∧ t.regs = [] ∧
         t.power.rails = List.replicate 26 true) ∧
       exec (.powerSequence false) s = .next ((s.railsOff .auxOnly).emit (.railFailure (n + 2)))) ∧
     (∀ vin, s.carrier.power = .on → ∃ t, exec (.inputUndervoltage vin) s = .next t ∧ t.carrier.power = .auxOnly ∧
       t.carrier.restart = true ∧ t.carrier.inputOk = false ∧ t.power.rails = List.replicate 26 false) ∧
     (∀ vin, s.carrier.power = .auxOnly → s.carrier.restart = true → ∃ t, exec (.inputRestored vin) s = .next t ∧
       t.carrier.power = .sequencing 0 ∧ t.carrier.inputOk = true) ∧
     (∀ vin, s.carrier.power = .on → ∃ (t u : State), exec (.inputHigh vin) s = .next t ∧ t = u.emit (.inputHigh vin) ∧
       t.carrier.power = .on ∧ t.tasks = s.tasks ∧ t.carrier.vin = vin) ∧
     (∃ t, exec .vauxLoss s = .next t ∧ t.carrier.power = .off ∧ t.boot.writing = none ∧ t.binnacle.counter = s.binnacle.counter ∧
       t.power.rails = List.replicate 26 false) ∧
     (s.power.rails.any id = true → ∃ t, exec .latchUnderPower s = .next t ∧ t.carrier.latchOpen = true ∧
       t.carrier.power = .auxOnly ∧ t.power.rails = List.replicate 26 false ∧
       t.binnacle.removals.length = s.binnacle.removals.length + 1) ∧
     (s.power.rails.any id = true → ∃ t, exec .presSBreak s = .next t ∧ t.carrier.presS = false ∧
       t.carrier.power = .auxOnly ∧ t.power.rails = List.replicate 26 false ∧ t.binnacle = s.binnacle) ∧
     (s.carrier.power ≠ .off →
       exec .attentionPress s = .next (({ s with
         carrier := { s.carrier with pressedAt := some s.now, removeRequested := true } } : State).emit (.notice 0x40 0)) ∧
       exec .attentionLongPress s = .next (({ s with
         carrier := { s.carrier with removeRequested := false } } : State).emit (.notice 0x41 0))) ∧
     (∀ at_, s.carrier.pressedAt = some at_ →
       (s.now < at_ + 6000000000 → exec .presenceWindowEnd s = .next s) ∧
       (at_ + 6000000000 ≤ s.now → exec .presenceWindowEnd s = .next { s with carrier := { s.carrier with pressedAt := none } }))) ∧
  (∀ s : State, s.carrier.power ≠ .off →
     (∀ r : Reading, ∀ c ∈ [Instr.railOvercurrent r, .junctionOvertemp r, .coolantLoss r, .leakage r],
       ∃ t, exec c s = .next t ∧ t.carrier.power = .safe ∧ t.power.rails = List.replicate 26 false ∧ t.regs = [] ∧
         t.binnacle.trips.length ≤ s.binnacle.trips.length + 1 ∧
         (t.binnacle.trips.getLast?.map (·.reading)) = some r) ∧
     (∀ vin, ∃ t, exec (.inputOvervoltage vin true) s = .next t ∧ t.carrier.power = .safe ∧ t.carrier.tripsPresent.contains 2 = true) ∧
     (∀ vin, ∃ t, exec (.inputOvervoltage vin false) s = .next t ∧ t.carrier.power = s.carrier.power ∧ t.tasks = s.tasks) ∧
     (∀ c, exec (.handleHot c) s = .next { s with
       carrier := { s.carrier with handle := c, interlock := s.carrier.interlock || decide (55 < c) } }) ∧
     (∀ c, exec (.handleCool c) s = .next { s with
       carrier := { s.carrier with handle := c, interlock := s.carrier.interlock && !decide (c < 53) } }))

/-- Management over I3C while VAUX is there (R416, R430, R435 to R437): each request is answered with its code, its result and its sequence number; SET_IDENTIFY, SET_AUTO_ON,
CLEAR_PEER and CLEAR_RETIRED write what they name; POWER_ON starts the sequence but not in the safe state or with the latch open; POWER_OFF turns the rails off;
CLEAR_SAFE ends the safe state once no condition is present; a wrong body is a BAD_REQUEST. The response bodies are the implementation's (log entry 14). -/
def Obligations.Management : Prop :=
  ∀ (s : State) (q : Nat) (body : List Byte) (r : MgmtRequest), s.carrier.power ≠ .off → r = ⟨.i3c, q, body⟩ →
    ∀ reply : Nat → Nat → State → State,
      reply = (fun code result t => t.emit (.mgmt .i3c (leBytes 1 code ++ leBytes 1 result ++ leBytes 2 q))) →
    (body = [] →
      exec (.getStatus r) s = .next (s.mgmtReply r 1 0 (Config.messageBody 1 s.statusValues)) ∧
      exec (.getAgeing r) s = .next (s.mgmtReply r 12 0 (Config.messageBody 12 s.ageingValues)) ∧
      exec (.getSensors r) s = .next (({ s with free := s.free + 1 } : State).mgmtReply r 2 0
        (Config.messageBody 2 (s.sensorValues (Config.freeValue s.free)))) ∧
      (s.carrier.power = .auxOnly → s.carrier.latchOpen = false →
        exec (.powerOn r) s = .next (reply 5 0 { s with carrier := { s.carrier with power := .sequencing 0, restart := false } })) ∧
      (s.carrier.latchOpen = true → exec (.powerOn r) s = .next (reply 5 4 s)) ∧
      (s.carrier.power = .on → s.power.rails.any id = true → ∃ t, exec (.powerOff r) s = .next t ∧ t.carrier.power = .auxOnly ∧
        t.power.rails = List.replicate 26 false) ∧
      (s.carrier.power = .safe → s.carrier.tripsPresent = [] → s.binnacle.autoOn = false →
        exec (.clearSafe r) s = .next (reply 7 0 { s with carrier := { s.carrier with power := .auxOnly } })) ∧
      (s.carrier.power = .safe → s.carrier.tripsPresent ≠ [] → exec (.clearSafe r) s = .next (reply 7 4 s)) ∧
      (s.chtState = chtNone → exec (.clearRetired r) s =
        .next (reply 10 0 { s with binnacle := { s.binnacle with retired := 0 } })) ∧
      (s.chtState ≠ chtNone → exec (.clearRetired r) s = .next (reply 10 3 s))) ∧
    (body ≠ [] → exec (.getStatus r) s = .next (reply 1 1 s)) ∧
    (body.length = 4 → exec (.getEvents r) s = .next (s.mgmtReply r 3 0 (Config.messageBody 3
      ((s.binnacle.trips.filter (fun e => decide (fieldLe body 0 4 < e.seq))).flatMap BinnacleEvent.values ++
        (s.binnacle.removals.filter (fun e => decide (fieldLe body 0 4 < e.seq))).flatMap BinnacleEvent.values)))) ∧
    (∀ b : Bool, body = [if b then 1 else 0] →
      exec (.setIdentify r) s = .next (reply 4 0 { s with carrier := { s.carrier with identify := b } }) ∧
      exec (.setAutoOn r) s = .next (reply 8 0 { s with binnacle := { s.binnacle with autoOn := b } })) ∧
    (body.length = 1 → fieldLe body 0 1 < 8 → exec (.clearPeer r) s = .next (reply 11 0
      { s with binnacle := { s.binnacle with acceptedFp := s.binnacle.acceptedFp.set (fieldLe body 0 1) [] } })) ∧
    (body.length = 57 → s.carrier.power = .on → s.reg Reg.SEC_STATUS_state = secRunning →
      (s.binnacle.ownerKey = none → exec (.mgmtEnroll r) s = .next (reply 9 0 (s.enrolKey body))) ∧
      (s.binnacle.ownerKey ≠ none → exec (.mgmtEnroll r) s = .next (reply 9 2 s))) ∧
    (∀ k : Packet, k.wf = true → k.op = pktMGMT → s.carrier.power = .on → fieldLe k.payload 0 1 = 1 →
      exec (.mgmt k) s = .next ((s.takeIn k).getStatus ⟨.torus k.src, fieldLe k.payload 2 2, k.payload.drop 4⟩))

/-! ### Numbers (07, 08, 14) -/

/-- Exact sums (R179, R181, R182, R299): a windowed sum and an exact-sum cell do not depend on the order of their contributions, nor on how they are
split into pieces with one anchor; each record reads back as what was written; a contribution that would take a cell's sum to 2^311 makes it
invalid. -/
def Obligations.ExactSums : Prop :=
  (∀ (cs ds : List Contrib) (n : Nat), cs.Perm ds → windowSum cs n = windowSum ds n) ∧
  (∀ (a : Acc) (explicit : Bool) (cs ds : List Contrib),
    (cs.Perm ds → a.addAll explicit cs = a.addAll explicit ds) ∧
    (a.addAll explicit (cs ++ ds)).1 = ((a.addAll explicit cs).1.addAll explicit ds).1) ∧
  (∀ a : Acc, -(2 : Int) ^ 191 ≤ a.v → a.v < 2 ^ 191 → -(2 : Int) ^ 15 ≤ a.anchor → a.anchor < 2 ^ 15 → a.count < 2 ^ 32 →
    parseRecord a.record = a) ∧
  (∀ c : ExactCell, -(2 : Int) ^ 311 ≤ c.s → c.s < 2 ^ 311 → parseCell c.bytes = c) ∧
  (∀ c a b : ExactCell, c.invalid = false → (c.s + a.s).natAbs < 2 ^ 311 → (c.s + b.s).natAbs < 2 ^ 311 →
    (c.s + a.s + b.s).natAbs < 2 ^ 311 → (c.add a).add b = (c.add b).add a ∧ ((c.add a).add b).s = c.s + a.s + b.s) ∧
  (∀ c e : ExactCell, c.invalid = false → ((c.add e).invalid = true ↔ 2 ^ 311 ≤ (c.s + e.s).natAbs))

/-- Element formats (R149, R152, R171): in every format of R149, converting the value of a finite element back into its format gives the element's
own bits, to nearest even and stochastically with any random bits. INT8's −128, which no conversion produces, is left out. -/
def Obligations.FormatsRoundTrip : Prop :=
  ∀ f b r : Nat, f < 8 → b < 2 ^ (fmtMagBits f + 1) → (f = fmtINT8 → b ≠ 128) → (decodeElem f b).isFinite = true → r < 65536 →
    (convertRne f (decodeElem f b)).1 = b ∧ (convertSr f r (decodeElem f b)).1 = b

/-! ### Isolation, and what commands leave alone -/

/-- What other modules can write (R23, R76, R283): while the module is awake a PUT, GET, LIST_GET, NM_ACC or CAS changes no byte of memory but bytes from
its address on inside one window of the job it names, open to remote writes, and none where that job is terminating or killed. -/
def Obligations.RequestsStayInWindows : Prop :=
  ∀ (s t : State) (k : Packet) (c : Instr) (b : Nat),
    c ∈ [Instr.put k, .get k, .listGet k, .nmAcc k, .cas k] → s.power.anchor = .awake → exec c s = .next t →
    t.mem.read b ≠ s.mem.read b →
    s.jobState k.jobId < 2 ∧ ∃ w ∈ s.windowsAt k.jobId k.addr false true true, ∃ j,
      b = s.key k.addr + j ∧ addrOff k.addr + j < w.base + w.length

/-- From every state, only the end of a load or unload, a reset and a loss of power change the Chart, only ENROLL, RELEASE and
MGMT_ENROLL change the owner (R40, R47, R400, R416, R417). -/
def Obligations.ChartAndOwnerChanges : Prop :=
  ∀ (c : Instr) (s t : State), exec c s = .next t →
    (mayChangeChart c = false → t.chart = s.chart) ∧
    (mayChangeOwner c = false → t.binnacle.ownerKey = s.binnacle.ownerKey)

/-- The frames of the families: from every state, a command of a family changes no part of the state but the listed ones; an ACK_CREDIT
does so where no system reset waits for it to end (R319). -/
def Obligations.FamilyFrames : Prop :=
  (∀ (id : TaskId), ∀ c ∈ [Instr.nop id, .fill id, .scatterAdd id, .intersect id, .product id, .productSparse id,
      .chain id, .grad id, .apply id, .store id, .root id, .exportRows id, .toHost id, .fromHost id],
    touchesOnly [.free, .mem, .writes, .regs, .eventSeq, .tasks, .drift, .pcie, .outputs] c) ∧
  (∀ (id : TaskId) (errs : List CodewordError), ∀ c ∈ [Instr.copy ⟨id, errs⟩, .copy2d ⟨id, errs⟩],
    touchesOnly [.free, .mem, .writes, .regs, .eventSeq, .errorSeq, .tasks, .drift, .lanes, .corrections, .pcie,
      .binnacle, .outputs] c) ∧
  (∀ (id : TaskId) (remote : List RemoteReply), ∀ c ∈ [Instr.sample id remote, .lookup id remote, .tableRefresh id remote],
    touchesOnly [.free, .mem, .writes, .regs, .eventSeq, .tasks, .drift, .fabric, .pcie, .outputs] c) ∧
  (∀ (id : TaskId) (remote : List RemoteReply), ∀ c ∈ [Instr.streamOpen id, .streamClose id, .gather id remote, .segReduce id remote],
    touchesOnly [.free, .mem, .writes, .regs, .eventSeq, .tasks, .streams, .memQueue, .drift, .fabric, .pcie, .outputs] c) ∧
  (∀ (id : TaskId) (table : Nat), ∀ c ∈ [Instr.tableOpen id, .tableSwap id, .swapComplete table],
    touchesOnly [.free, .mem, .writes, .regs, .eventSeq, .tasks, .tables, .drift, .pcie, .outputs] c) ∧
  (∀ (ring : Nat) (id : TaskId), ∀ c ∈ [Instr.ringNop ring, .tasks ring, .signal ring, .fence ring, .fenceCleared ring, .taskRegister ring,
      .completionRecordWrite ring, .deadlineExpiry id, .delayExpiry id, .successorSignalPlace id],
    touchesOnly [.mem, .writes, .regs, .rings, .tasks, .signals, .pcie, .outputs] c) ∧
  (∀ (id : TaskId) (seq : Nat) (k : Packet), ∀ c ∈ [Instr.remotePut id, .remoteGet id, .remoteExactAcc id, .remoteNmAcc id, .remoteCas id,
      .remotePutSignal id, .responseTimeout seq, .ack k, .getResp k, .listResp k, .casResp k],
    touchesOnly [.free, .mem, .writes, .regs, .eventSeq, .tasks, .signals, .fabric, .reductions, .pcie, .outputs] c) ∧
  (∀ k : Packet, ∀ c ∈ [Instr.put k, .get k, .listGet k, .exactAcc k, .nmAcc k, .cas k, .putSignal k],
    touchesOnly [.free, .mem, .writes, .regs, .eventSeq, .tasks, .signals, .fabric, .reductions, .power, .pcie, .outputs] c) ∧
  (∀ k : Packet, ∀ c ∈ [Instr.barUp k, .barDown k, .bcastData k, .fixUp k, .fixDown k],
    touchesOnly [.mem, .writes, .regs, .eventSeq, .tasks, .fabric, .combining, .power, .pcie, .outputs] c) ∧
  (∀ (p a b n : Nat) (ok : Bool) (bytes : List Byte) (nonce : Nonce) (k : Packet), ∀ c ∈ [Instr.nak p a,
      .keepalive p, .width p a, .chart p a b n n bytes, .nakRepeat p, .ackTimer p, .ackProgressTimeout p, .chartResend p, .keepaliveTimer p,
      .returnTo16Lanes p, .packetGapTimeout p a, .breakNotice p k, .linkTrainStart p, .equalisationEnd p ok, .alignmentEnd p ok nonce,
      .trainingRetry p, .fecLockLost p, .keepaliveLost p, .portEnable p ok, .retrain p],
    touchesOnly [.mem, .writes, .regs, .eventSeq, .fabric, .combining, .pcie, .outputs] c) ∧
  (∀ (p a : Nat) (freed : List Nat) (s t : State), (s.sysreset.map (·.ready)).getD false = false →
    exec (.ackCredit p a freed) s = .next t →
    changesOnly [.regs, .fabric, .outputs] s t) ∧
  (∀ (p a b n v : Nat) (bytes : List Byte), ∀ c ∈ [Instr.flitReceive p a b n v, .ident p a bytes, .accept p],
    touchesOnly [.mem, .writes, .regs, .eventSeq, .fabric, .combining, .pcie, .binnacle, .outputs] c) ∧
  (∀ (d a b : Nat) (x : Int) (ok : Bool) (l : List Nat) (r : RailReport), ∀ c ∈ [Instr.multSlewStep d, .voltageAdjust d x, .prefRevise d a b ok, .railLimit r a,
      .droop d a, .droopPersist d, .droopHoldEnd d, .junctionThrottle d a, .ageingMeasure l, .capWrite a, .oppWrite a b, .inputLow a],
    touchesOnly [.mem, .writes, .regs, .eventSeq, .power, .pcie, .outputs] c) ∧
  (∀ (a b : Nat) (ok : Bool), ∀ c ∈ [Instr.tickWrite a, .errLogEnable ok, .errLogHead a, .evqEnable ok, .evqHead a, .rcRead a b],
    touchesOnly [.regs, .outputs] c) ∧
  (∀ (off : Nat) (w : Option (List Byte)) (ep : Bool) (r : Bar2Reads), ∀ c ∈ [Instr.bar2Access off w ep r],
    touchesOnly [.free, .mem, .writes, .regs, .eventSeq, .errorSeq, .lanes, .corrections, .pcie, .binnacle, .outputs] c) ∧
  (∀ (body : List Byte) (nonce : Nonce), ∀ c ∈ [Instr.getCert body, .getNonce body nonce, .getReport body],
    touchesOnly [.pcie, .outputs] c) ∧
  (∀ (q : MgmtRequest), ∀ c ∈ [Instr.getStatus q, .getSensors q, .getEvents q, .setIdentify q, .powerOn q, .clearSafe q, .setAutoOn q, .clearRetired q,
      .clearPeer q, .getAgeing q],
    touchesOnly [.free, .regs, .fabric, .binnacle, .carrier, .outputs] c)

/-- What ordinary forms of six commands do (R62 to R66, R57, R133, R135, R143): an accepted tail write moves its ring's tail, and an accepted head
write its completion queue's head, and neither changes anything else; the oldest waiting record of an entry or descriptor is written, 16
bytes at its slot, and its ring goes on; a completed task that owes no signal frees its entry; a LOOKUP without pooling whose rows have all
come writes each row behind zeros of a whole stride, poisoned where its index is, and its statistics; a PUSH sums the gradients of each
row that its list names in range, and sends the sums as exact contributions to the rows' owners. -/
def Obligations.OrdinaryForms : Prop :=
  (∀ (s : State) (ring size value : Nat), hostServes s → ring < 32768 → size = 4 ∨ size = 8 → s.accepted 0 = true →
     (s.power.anchor = .awake → (s.ring ring).enabled = true → s.chtState = chtActive → (s.ringJob? ring).isSome →
       (value % 2 ^ 32 + 2 ^ 32 - (s.ring ring).head) % 2 ^ 32 ≤ 2 ^ (s.ring ring).log2Size →
       ∃ t, exec (.doorbellTail ring 0 size value) s = .next t ∧ changesOnly [.rings] s t ∧
         t.ring ring = { s.ring ring with tail := value % 2 ^ 32 } ∧ ∀ other, other ≠ ring → t.ring other = s.ring other) ∧
     ((value % 2 ^ 32 + 2 ^ 32 - (s.ring ring).cqHead) % 2 ^ 32 ≤
         ((s.ring ring).cqTail + 2 ^ 32 - (s.ring ring).cqHead) % 2 ^ 32 →
       ∃ t, exec (.cqHead ring size value) s = .next t ∧ changesOnly [.rings] s t ∧
         t.ring ring = { s.ring ring with cqHead := value % 2 ^ 32 } ∧ ∀ other, other ≠ ring → t.ring other = s.ring other)) ∧
  (∀ (s : State) (ring : Nat) (w : WaitingRecord) (rest : List WaitingRecord), ring < 32768 → (s.ring ring).waiting = w :: rest →
     (s.ring ring).cqFull = false → w.task = none → w.interrupt = false →
     ∃ t, exec (.completionRecordWrite ring) s = .next t ∧ changesOnly [.mem, .writes, .rings] s t ∧
       t.mem = s.mem.write ((s.ring ring).cqBase * 16 + (s.ring ring).cqTail % 2 ^ (s.ring ring).log2Size * 16)
         (w.bytes (phaseBit (s.ring ring).cqTail (s.ring ring).log2Size)) ∧
       (t.ring ring).waiting = rest ∧ (t.ring ring).cqTail = ((s.ring ring).cqTail + 1) % 2 ^ 32 ∧
       (t.ring ring).heldByRecord = false) ∧
  (∀ (s : State) (t : Task), s.task? t.id = some t → t.id.die < 8 → t.phase = .signalling → t.owed = [] →
     exec (.successorSignalPlace t.id) s = .next (s.dropTask t.id)) ∧
  (∀ (s : State) (t : Task) (remote : List RemoteReply) (a : LookupArgs) (x : OpenTable) (c : TableCtx) (w : RowTraffic)
     (src : List RowSource) (rows : List FetchedRow) (y : Access) (n : Nat), engineRuns s t engEDGE 0x20 → a = parseLookup t.args →
     a.pooled = false → a.count ≠ 0 → s.openTable? a.table = some x → w = t.rowTraffic remote (s.repliesFor t.id) →
     c = s.tableCtx t w.answers x a.epoch a.idx64 →
     src = (List.range a.count).map (fun i => s.resolve c (s.indexAt (s.key a.idx) a.idx64 i)) →
     s.fetchRows c (rowPayload x.format x.width) src {} = (rows, y) → y.status = stOK → y.missing = [] →
     n = (src.filter (fun r => decide (r = .outOfRange))).length →
     exec (.lookup t.id remote) s = .next ((s.applyResult t
       { ops := rows.zipIdx.flatMap (fun p => [MemOp.zero (s.key a.out + p.2 * c.stride) c.stride] ++
           markedWrite (s.key a.out + p.2 * c.stride) p.1.bytes ++
           (if s.mem.poisoned (s.key a.idx + p.2 * indexBytes a.idx64) (indexBytes a.idx64) then
             [.poison (s.key a.out + p.2 * c.stride) c.stride] else [])) ++
           s.statsOps a.stats
             (w.count c.stride src [] { indices := a.count, indexRange := n, suppressed := y.suppressed + flag c.stale }) false,
         suppressed := y.suppressed,
         bumps := ({ edges := a.count, indexRange := n } : EdgeCount).bumps t.runTile }).dropRequests t.id)) ∧
  (∀ (s : State) (t : Task) (a : PushArgs) (x : OpenTable) (c : TableCtx) (rows : List PushRow) (targets : List (Nat × Nat))
     (packets : List Packet) (st : TableStats), engineRuns s t engEDGE 0x21 → s.requestsOf t.id = [] → (∀ w ∈ s.fabric.waiting, w.1 ≠ t.id) →
     a = parsePush t.args → a.count ≠ 0 → s.openTable? a.table = some x → c = s.tableCtx t [] x 0 a.idx64 →
     rows = (List.range a.count).filterMap (s.pushRow c a x.width) → targets = (rows.map (·.target)).eraseDups →
     packets = targets.flatMap (fun g => a.packets c g ((List.range x.width).map (fun j => ExactCell.sum
       ((rows.filter (fun r => decide (r.target = g))).map (fun r => r.cells.getD j ExactCell.zero))))) →
     st = { indices := a.count, indexRange := a.count - rows.length, contributions := packets.length, distinctRows := targets.length } →
     ∃ u : State, exec (.push t.id) s = .next (u.queueRequests t.id (ioOfDie (t.runTile / 8)) packets) ∧
       changesOnly [.free, .mem, .writes, .regs, .tasks] s u ∧
       u.tasks = (s.setTask { t with
         poisonAt := firstTaint (rows.map (·.taint)),
         statsRecord := st.bytes.map (fun b => (b, s.mem.poisoned (s.key a.idx) (a.count * indexBytes a.idx64))) }).tasks)
end

