-- ==== Sys2Proof/Laws/State.lean ====
section
/-!
SUPPORT. Which fields of the state each named update leaves as they are: one lemma for each update and each such field.
-/

namespace Sys2Proof.Machine

/-! ### setReg -/

@[simp] theorem State.setReg_pending (s : State) (f : Field) (v : Nat) : (s.setReg f v).pending = s.pending := rfl

@[simp] theorem State.setReg_now (s : State) (f : Field) (v : Nat) : (s.setReg f v).now = s.now := rfl

@[simp] theorem State.setReg_free (s : State) (f : Field) (v : Nat) : (s.setReg f v).free = s.free := rfl

@[simp] theorem State.setReg_tick (s : State) (f : Field) (v : Nat) : (s.setReg f v).tick = s.tick := rfl

@[simp] theorem State.setReg_boundary (s : State) (f : Field) (v : Nat) : (s.setReg f v).boundary = s.boundary := rfl

@[simp] theorem State.setReg_period (s : State) (f : Field) (v : Nat) : (s.setReg f v).period = s.period := rfl

@[simp] theorem State.setReg_mem (s : State) (f : Field) (v : Nat) : (s.setReg f v).mem = s.mem := rfl

@[simp] theorem State.setReg_writes (s : State) (f : Field) (v : Nat) : (s.setReg f v).writes = s.writes := rfl

@[simp] theorem State.setReg_eventSeq (s : State) (f : Field) (v : Nat) : (s.setReg f v).eventSeq = s.eventSeq := rfl

@[simp] theorem State.setReg_errorSeq (s : State) (f : Field) (v : Nat) : (s.setReg f v).errorSeq = s.errorSeq := rfl

@[simp] theorem State.setReg_chart (s : State) (f : Field) (v : Nat) : (s.setReg f v).chart = s.chart := rfl

@[simp] theorem State.setReg_load (s : State) (f : Field) (v : Nat) : (s.setReg f v).load = s.load := rfl

@[simp] theorem State.setReg_unloadWaiting (s : State) (f : Field) (v : Nat) :
    (s.setReg f v).unloadWaiting = s.unloadWaiting := rfl

@[simp] theorem State.setReg_zeroing (s : State) (f : Field) (v : Nat) : (s.setReg f v).zeroing = s.zeroing := rfl

@[simp] theorem State.setReg_rings (s : State) (f : Field) (v : Nat) : (s.setReg f v).rings = s.rings := rfl

@[simp] theorem State.setReg_tasks (s : State) (f : Field) (v : Nat) : (s.setReg f v).tasks = s.tasks := rfl

@[simp] theorem State.setReg_signals (s : State) (f : Field) (v : Nat) : (s.setReg f v).signals = s.signals := rfl

@[simp] theorem State.setReg_jobs (s : State) (f : Field) (v : Nat) : (s.setReg f v).jobs = s.jobs := rfl

@[simp] theorem State.setReg_streams (s : State) (f : Field) (v : Nat) : (s.setReg f v).streams = s.streams := rfl

@[simp] theorem State.setReg_memQueue (s : State) (f : Field) (v : Nat) : (s.setReg f v).memQueue = s.memQueue := rfl

@[simp] theorem State.setReg_tables (s : State) (f : Field) (v : Nat) : (s.setReg f v).tables = s.tables := rfl

@[simp] theorem State.setReg_drift (s : State) (f : Field) (v : Nat) : (s.setReg f v).drift = s.drift := rfl

@[simp] theorem State.setReg_lanes (s : State) (f : Field) (v : Nat) : (s.setReg f v).lanes = s.lanes := rfl

@[simp] theorem State.setReg_corrections (s : State) (f : Field) (v : Nat) :
    (s.setReg f v).corrections = s.corrections := rfl

@[simp] theorem State.setReg_scrubbed (s : State) (f : Field) (v : Nat) : (s.setReg f v).scrubbed = s.scrubbed := rfl

@[simp] theorem State.setReg_bankQuiet (s : State) (f : Field) (v : Nat) :
    (s.setReg f v).bankQuiet = s.bankQuiet := rfl

@[simp] theorem State.setReg_fabric (s : State) (f : Field) (v : Nat) : (s.setReg f v).fabric = s.fabric := rfl

@[simp] theorem State.setReg_reductions (s : State) (f : Field) (v : Nat) :
    (s.setReg f v).reductions = s.reductions := rfl

@[simp] theorem State.setReg_combining (s : State) (f : Field) (v : Nat) :
    (s.setReg f v).combining = s.combining := rfl

@[simp] theorem State.setReg_sysreset (s : State) (f : Field) (v : Nat) : (s.setReg f v).sysreset = s.sysreset := rfl

@[simp] theorem State.setReg_power (s : State) (f : Field) (v : Nat) : (s.setReg f v).power = s.power := rfl

@[simp] theorem State.setReg_pcie (s : State) (f : Field) (v : Nat) : (s.setReg f v).pcie = s.pcie := rfl

@[simp] theorem State.setReg_boot (s : State) (f : Field) (v : Nat) : (s.setReg f v).boot = s.boot := rfl

@[simp] theorem State.setReg_binnacle (s : State) (f : Field) (v : Nat) : (s.setReg f v).binnacle = s.binnacle := rfl

@[simp] theorem State.setReg_silicon (s : State) (f : Field) (v : Nat) : (s.setReg f v).silicon = s.silicon := rfl

@[simp] theorem State.setReg_carrier (s : State) (f : Field) (v : Nat) : (s.setReg f v).carrier = s.carrier := rfl

@[simp] theorem State.setReg_outputs (s : State) (f : Field) (v : Nat) : (s.setReg f v).outputs = s.outputs := rfl

/-! ### bump -/

@[simp] theorem State.bump_pending (s : State) (f : Field) (n : Nat) : (s.bump f n).pending = s.pending := rfl

@[simp] theorem State.bump_now (s : State) (f : Field) (n : Nat) : (s.bump f n).now = s.now := rfl

@[simp] theorem State.bump_free (s : State) (f : Field) (n : Nat) : (s.bump f n).free = s.free := rfl

@[simp] theorem State.bump_tick (s : State) (f : Field) (n : Nat) : (s.bump f n).tick = s.tick := rfl

@[simp] theorem State.bump_boundary (s : State) (f : Field) (n : Nat) : (s.bump f n).boundary = s.boundary := rfl

@[simp] theorem State.bump_period (s : State) (f : Field) (n : Nat) : (s.bump f n).period = s.period := rfl

@[simp] theorem State.bump_mem (s : State) (f : Field) (n : Nat) : (s.bump f n).mem = s.mem := rfl

@[simp] theorem State.bump_writes (s : State) (f : Field) (n : Nat) : (s.bump f n).writes = s.writes := rfl

@[simp] theorem State.bump_eventSeq (s : State) (f : Field) (n : Nat) : (s.bump f n).eventSeq = s.eventSeq := rfl

@[simp] theorem State.bump_errorSeq (s : State) (f : Field) (n : Nat) : (s.bump f n).errorSeq = s.errorSeq := rfl

@[simp] theorem State.bump_chart (s : State) (f : Field) (n : Nat) : (s.bump f n).chart = s.chart := rfl

@[simp] theorem State.bump_load (s : State) (f : Field) (n : Nat) : (s.bump f n).load = s.load := rfl

@[simp] theorem State.bump_unloadWaiting (s : State) (f : Field) (n : Nat) :
    (s.bump f n).unloadWaiting = s.unloadWaiting := rfl

@[simp] theorem State.bump_zeroing (s : State) (f : Field) (n : Nat) : (s.bump f n).zeroing = s.zeroing := rfl

@[simp] theorem State.bump_rings (s : State) (f : Field) (n : Nat) : (s.bump f n).rings = s.rings := rfl

@[simp] theorem State.bump_tasks (s : State) (f : Field) (n : Nat) : (s.bump f n).tasks = s.tasks := rfl

@[simp] theorem State.bump_signals (s : State) (f : Field) (n : Nat) : (s.bump f n).signals = s.signals := rfl

@[simp] theorem State.bump_jobs (s : State) (f : Field) (n : Nat) : (s.bump f n).jobs = s.jobs := rfl

@[simp] theorem State.bump_streams (s : State) (f : Field) (n : Nat) : (s.bump f n).streams = s.streams := rfl

@[simp] theorem State.bump_memQueue (s : State) (f : Field) (n : Nat) : (s.bump f n).memQueue = s.memQueue := rfl

@[simp] theorem State.bump_tables (s : State) (f : Field) (n : Nat) : (s.bump f n).tables = s.tables := rfl

@[simp] theorem State.bump_drift (s : State) (f : Field) (n : Nat) : (s.bump f n).drift = s.drift := rfl

@[simp] theorem State.bump_lanes (s : State) (f : Field) (n : Nat) : (s.bump f n).lanes = s.lanes := rfl

@[simp] theorem State.bump_corrections (s : State) (f : Field) (n : Nat) :
    (s.bump f n).corrections = s.corrections := rfl

@[simp] theorem State.bump_scrubbed (s : State) (f : Field) (n : Nat) : (s.bump f n).scrubbed = s.scrubbed := rfl

@[simp] theorem State.bump_bankQuiet (s : State) (f : Field) (n : Nat) : (s.bump f n).bankQuiet = s.bankQuiet := rfl

@[simp] theorem State.bump_fabric (s : State) (f : Field) (n : Nat) : (s.bump f n).fabric = s.fabric := rfl

@[simp] theorem State.bump_reductions (s : State) (f : Field) (n : Nat) :
    (s.bump f n).reductions = s.reductions := rfl

@[simp] theorem State.bump_combining (s : State) (f : Field) (n : Nat) : (s.bump f n).combining = s.combining := rfl

@[simp] theorem State.bump_sysreset (s : State) (f : Field) (n : Nat) : (s.bump f n).sysreset = s.sysreset := rfl

@[simp] theorem State.bump_power (s : State) (f : Field) (n : Nat) : (s.bump f n).power = s.power := rfl

@[simp] theorem State.bump_pcie (s : State) (f : Field) (n : Nat) : (s.bump f n).pcie = s.pcie := rfl

@[simp] theorem State.bump_boot (s : State) (f : Field) (n : Nat) : (s.bump f n).boot = s.boot := rfl

@[simp] theorem State.bump_binnacle (s : State) (f : Field) (n : Nat) : (s.bump f n).binnacle = s.binnacle := rfl

@[simp] theorem State.bump_silicon (s : State) (f : Field) (n : Nat) : (s.bump f n).silicon = s.silicon := rfl

@[simp] theorem State.bump_carrier (s : State) (f : Field) (n : Nat) : (s.bump f n).carrier = s.carrier := rfl

@[simp] theorem State.bump_outputs (s : State) (f : Field) (n : Nat) : (s.bump f n).outputs = s.outputs := rfl

/-! ### resetRegs -/

@[simp] theorem State.resetRegs_pending (s : State) (sel : Nat → Bool) : (s.resetRegs sel).pending = s.pending := rfl

@[simp] theorem State.resetRegs_now (s : State) (sel : Nat → Bool) : (s.resetRegs sel).now = s.now := rfl

@[simp] theorem State.resetRegs_free (s : State) (sel : Nat → Bool) : (s.resetRegs sel).free = s.free := rfl

@[simp] theorem State.resetRegs_tick (s : State) (sel : Nat → Bool) : (s.resetRegs sel).tick = s.tick := rfl

@[simp] theorem State.resetRegs_boundary (s : State) (sel : Nat → Bool) :
    (s.resetRegs sel).boundary = s.boundary := rfl

@[simp] theorem State.resetRegs_period (s : State) (sel : Nat → Bool) : (s.resetRegs sel).period = s.period := rfl

@[simp] theorem State.resetRegs_mem (s : State) (sel : Nat → Bool) : (s.resetRegs sel).mem = s.mem := rfl

@[simp] theorem State.resetRegs_writes (s : State) (sel : Nat → Bool) : (s.resetRegs sel).writes = s.writes := rfl

@[simp] theorem State.resetRegs_eventSeq (s : State) (sel : Nat → Bool) :
    (s.resetRegs sel).eventSeq = s.eventSeq := rfl

@[simp] theorem State.resetRegs_errorSeq (s : State) (sel : Nat → Bool) :
    (s.resetRegs sel).errorSeq = s.errorSeq := rfl

@[simp] theorem State.resetRegs_chart (s : State) (sel : Nat → Bool) : (s.resetRegs sel).chart = s.chart := rfl

@[simp] theorem State.resetRegs_load (s : State) (sel : Nat → Bool) : (s.resetRegs sel).load = s.load := rfl

@[simp] theorem State.resetRegs_unloadWaiting (s : State) (sel : Nat → Bool) :
    (s.resetRegs sel).unloadWaiting = s.unloadWaiting := rfl

@[simp] theorem State.resetRegs_zeroing (s : State) (sel : Nat → Bool) : (s.resetRegs sel).zeroing = s.zeroing := rfl

@[simp] theorem State.resetRegs_rings (s : State) (sel : Nat → Bool) : (s.resetRegs sel).rings = s.rings := rfl

@[simp] theorem State.resetRegs_tasks (s : State) (sel : Nat → Bool) : (s.resetRegs sel).tasks = s.tasks := rfl

@[simp] theorem State.resetRegs_signals (s : State) (sel : Nat → Bool) : (s.resetRegs sel).signals = s.signals := rfl

@[simp] theorem State.resetRegs_jobs (s : State) (sel : Nat → Bool) : (s.resetRegs sel).jobs = s.jobs := rfl

@[simp] theorem State.resetRegs_streams (s : State) (sel : Nat → Bool) : (s.resetRegs sel).streams = s.streams := rfl

@[simp] theorem State.resetRegs_memQueue (s : State) (sel : Nat → Bool) :
    (s.resetRegs sel).memQueue = s.memQueue := rfl

@[simp] theorem State.resetRegs_tables (s : State) (sel : Nat → Bool) : (s.resetRegs sel).tables = s.tables := rfl

@[simp] theorem State.resetRegs_drift (s : State) (sel : Nat → Bool) : (s.resetRegs sel).drift = s.drift := rfl

@[simp] theorem State.resetRegs_lanes (s : State) (sel : Nat → Bool) : (s.resetRegs sel).lanes = s.lanes := rfl

@[simp] theorem State.resetRegs_corrections (s : State) (sel : Nat → Bool) :
    (s.resetRegs sel).corrections = s.corrections := rfl

@[simp] theorem State.resetRegs_scrubbed (s : State) (sel : Nat → Bool) :
    (s.resetRegs sel).scrubbed = s.scrubbed := rfl

@[simp] theorem State.resetRegs_bankQuiet (s : State) (sel : Nat → Bool) :
    (s.resetRegs sel).bankQuiet = s.bankQuiet := rfl

@[simp] theorem State.resetRegs_fabric (s : State) (sel : Nat → Bool) : (s.resetRegs sel).fabric = s.fabric := rfl

@[simp] theorem State.resetRegs_reductions (s : State) (sel : Nat → Bool) :
    (s.resetRegs sel).reductions = s.reductions := rfl

@[simp] theorem State.resetRegs_combining (s : State) (sel : Nat → Bool) :
    (s.resetRegs sel).combining = s.combining := rfl

@[simp] theorem State.resetRegs_sysreset (s : State) (sel : Nat → Bool) :
    (s.resetRegs sel).sysreset = s.sysreset := rfl

@[simp] theorem State.resetRegs_power (s : State) (sel : Nat → Bool) : (s.resetRegs sel).power = s.power := rfl

@[simp] theorem State.resetRegs_pcie (s : State) (sel : Nat → Bool) : (s.resetRegs sel).pcie = s.pcie := rfl

@[simp] theorem State.resetRegs_boot (s : State) (sel : Nat → Bool) : (s.resetRegs sel).boot = s.boot := rfl

@[simp] theorem State.resetRegs_binnacle (s : State) (sel : Nat → Bool) :
    (s.resetRegs sel).binnacle = s.binnacle := rfl

@[simp] theorem State.resetRegs_silicon (s : State) (sel : Nat → Bool) : (s.resetRegs sel).silicon = s.silicon := rfl

@[simp] theorem State.resetRegs_carrier (s : State) (sel : Nat → Bool) : (s.resetRegs sel).carrier = s.carrier := rfl

@[simp] theorem State.resetRegs_outputs (s : State) (sel : Nat → Bool) : (s.resetRegs sel).outputs = s.outputs := rfl

/-! ### setRegs -/

@[simp] theorem State.setRegs_pending (s : State) (l : List (Field × Nat)) : (s.setRegs l).pending = s.pending := by
  induction l generalizing s with
  | nil => rfl
  | cons p r ih => exact (ih (s.setReg p.1 p.2)).trans rfl

@[simp] theorem State.setRegs_now (s : State) (l : List (Field × Nat)) : (s.setRegs l).now = s.now := by
  induction l generalizing s with
  | nil => rfl
  | cons p r ih => exact (ih (s.setReg p.1 p.2)).trans rfl

@[simp] theorem State.setRegs_free (s : State) (l : List (Field × Nat)) : (s.setRegs l).free = s.free := by
  induction l generalizing s with
  | nil => rfl
  | cons p r ih => exact (ih (s.setReg p.1 p.2)).trans rfl

@[simp] theorem State.setRegs_tick (s : State) (l : List (Field × Nat)) : (s.setRegs l).tick = s.tick := by
  induction l generalizing s with
  | nil => rfl
  | cons p r ih => exact (ih (s.setReg p.1 p.2)).trans rfl

@[simp] theorem State.setRegs_boundary (s : State) (l : List (Field × Nat)) :
    (s.setRegs l).boundary = s.boundary := by
  induction l generalizing s with
  | nil => rfl
  | cons p r ih => exact (ih (s.setReg p.1 p.2)).trans rfl

@[simp] theorem State.setRegs_period (s : State) (l : List (Field × Nat)) : (s.setRegs l).period = s.period := by
  induction l generalizing s with
  | nil => rfl
  | cons p r ih => exact (ih (s.setReg p.1 p.2)).trans rfl

@[simp] theorem State.setRegs_mem (s : State) (l : List (Field × Nat)) : (s.setRegs l).mem = s.mem := by
  induction l generalizing s with
  | nil => rfl
  | cons p r ih => exact (ih (s.setReg p.1 p.2)).trans rfl

@[simp] theorem State.setRegs_writes (s : State) (l : List (Field × Nat)) : (s.setRegs l).writes = s.writes := by
  induction l generalizing s with
  | nil => rfl
  | cons p r ih => exact (ih (s.setReg p.1 p.2)).trans rfl

@[simp] theorem State.setRegs_eventSeq (s : State) (l : List (Field × Nat)) :
    (s.setRegs l).eventSeq = s.eventSeq := by
  induction l generalizing s with
  | nil => rfl
  | cons p r ih => exact (ih (s.setReg p.1 p.2)).trans rfl

@[simp] theorem State.setRegs_errorSeq (s : State) (l : List (Field × Nat)) :
    (s.setRegs l).errorSeq = s.errorSeq := by
  induction l generalizing s with
  | nil => rfl
  | cons p r ih => exact (ih (s.setReg p.1 p.2)).trans rfl

@[simp] theorem State.setRegs_chart (s : State) (l : List (Field × Nat)) : (s.setRegs l).chart = s.chart := by
  induction l generalizing s with
  | nil => rfl
  | cons p r ih => exact (ih (s.setReg p.1 p.2)).trans rfl

@[simp] theorem State.setRegs_load (s : State) (l : List (Field × Nat)) : (s.setRegs l).load = s.load := by
  induction l generalizing s with
  | nil => rfl
  | cons p r ih => exact (ih (s.setReg p.1 p.2)).trans rfl

@[simp] theorem State.setRegs_unloadWaiting (s : State) (l : List (Field × Nat)) :
    (s.setRegs l).unloadWaiting = s.unloadWaiting := by
  induction l generalizing s with
  | nil => rfl
  | cons p r ih => exact (ih (s.setReg p.1 p.2)).trans rfl

@[simp] theorem State.setRegs_zeroing (s : State) (l : List (Field × Nat)) : (s.setRegs l).zeroing = s.zeroing := by
  induction l generalizing s with
  | nil => rfl
  | cons p r ih => exact (ih (s.setReg p.1 p.2)).trans rfl

@[simp] theorem State.setRegs_rings (s : State) (l : List (Field × Nat)) : (s.setRegs l).rings = s.rings := by
  induction l generalizing s with
  | nil => rfl
  | cons p r ih => exact (ih (s.setReg p.1 p.2)).trans rfl

@[simp] theorem State.setRegs_tasks (s : State) (l : List (Field × Nat)) : (s.setRegs l).tasks = s.tasks := by
  induction l generalizing s with
  | nil => rfl
  | cons p r ih => exact (ih (s.setReg p.1 p.2)).trans rfl

@[simp] theorem State.setRegs_signals (s : State) (l : List (Field × Nat)) : (s.setRegs l).signals = s.signals := by
  induction l generalizing s with
  | nil => rfl
  | cons p r ih => exact (ih (s.setReg p.1 p.2)).trans rfl

@[simp] theorem State.setRegs_jobs (s : State) (l : List (Field × Nat)) : (s.setRegs l).jobs = s.jobs := by
  induction l generalizing s with
  | nil => rfl
  | cons p r ih => exact (ih (s.setReg p.1 p.2)).trans rfl

@[simp] theorem State.setRegs_streams (s : State) (l : List (Field × Nat)) : (s.setRegs l).streams = s.streams := by
  induction l generalizing s with
  | nil => rfl
  | cons p r ih => exact (ih (s.setReg p.1 p.2)).trans rfl

@[simp] theorem State.setRegs_memQueue (s : State) (l : List (Field × Nat)) :
    (s.setRegs l).memQueue = s.memQueue := by
  induction l generalizing s with
  | nil => rfl
  | cons p r ih => exact (ih (s.setReg p.1 p.2)).trans rfl

@[simp] theorem State.setRegs_tables (s : State) (l : List (Field × Nat)) : (s.setRegs l).tables = s.tables := by
  induction l generalizing s with
  | nil => rfl
  | cons p r ih => exact (ih (s.setReg p.1 p.2)).trans rfl

@[simp] theorem State.setRegs_drift (s : State) (l : List (Field × Nat)) : (s.setRegs l).drift = s.drift := by
  induction l generalizing s with
  | nil => rfl
  | cons p r ih => exact (ih (s.setReg p.1 p.2)).trans rfl

@[simp] theorem State.setRegs_lanes (s : State) (l : List (Field × Nat)) : (s.setRegs l).lanes = s.lanes := by
  induction l generalizing s with
  | nil => rfl
  | cons p r ih => exact (ih (s.setReg p.1 p.2)).trans rfl

@[simp] theorem State.setRegs_corrections (s : State) (l : List (Field × Nat)) :
    (s.setRegs l).corrections = s.corrections := by
  induction l generalizing s with
  | nil => rfl
  | cons p r ih => exact (ih (s.setReg p.1 p.2)).trans rfl

@[simp] theorem State.setRegs_scrubbed (s : State) (l : List (Field × Nat)) :
    (s.setRegs l).scrubbed = s.scrubbed := by
  induction l generalizing s with
  | nil => rfl
  | cons p r ih => exact (ih (s.setReg p.1 p.2)).trans rfl

@[simp] theorem State.setRegs_bankQuiet (s : State) (l : List (Field × Nat)) :
    (s.setRegs l).bankQuiet = s.bankQuiet := by
  induction l generalizing s with
  | nil => rfl
  | cons p r ih => exact (ih (s.setReg p.1 p.2)).trans rfl

@[simp] theorem State.setRegs_fabric (s : State) (l : List (Field × Nat)) : (s.setRegs l).fabric = s.fabric := by
  induction l generalizing s with
  | nil => rfl
  | cons p r ih => exact (ih (s.setReg p.1 p.2)).trans rfl

@[simp] theorem State.setRegs_reductions (s : State) (l : List (Field × Nat)) :
    (s.setRegs l).reductions = s.reductions := by
  induction l generalizing s with
  | nil => rfl
  | cons p r ih => exact (ih (s.setReg p.1 p.2)).trans rfl

@[simp] theorem State.setRegs_combining (s : State) (l : List (Field × Nat)) :
    (s.setRegs l).combining = s.combining := by
  induction l generalizing s with
  | nil => rfl
  | cons p r ih => exact (ih (s.setReg p.1 p.2)).trans rfl

@[simp] theorem State.setRegs_sysreset (s : State) (l : List (Field × Nat)) :
    (s.setRegs l).sysreset = s.sysreset := by
  induction l generalizing s with
  | nil => rfl
  | cons p r ih => exact (ih (s.setReg p.1 p.2)).trans rfl

@[simp] theorem State.setRegs_power (s : State) (l : List (Field × Nat)) : (s.setRegs l).power = s.power := by
  induction l generalizing s with
  | nil => rfl
  | cons p r ih => exact (ih (s.setReg p.1 p.2)).trans rfl

@[simp] theorem State.setRegs_pcie (s : State) (l : List (Field × Nat)) : (s.setRegs l).pcie = s.pcie := by
  induction l generalizing s with
  | nil => rfl
  | cons p r ih => exact (ih (s.setReg p.1 p.2)).trans rfl

@[simp] theorem State.setRegs_boot (s : State) (l : List (Field × Nat)) : (s.setRegs l).boot = s.boot := by
  induction l generalizing s with
  | nil => rfl
  | cons p r ih => exact (ih (s.setReg p.1 p.2)).trans rfl

@[simp] theorem State.setRegs_binnacle (s : State) (l : List (Field × Nat)) :
    (s.setRegs l).binnacle = s.binnacle := by
  induction l generalizing s with
  | nil => rfl
  | cons p r ih => exact (ih (s.setReg p.1 p.2)).trans rfl

@[simp] theorem State.setRegs_silicon (s : State) (l : List (Field × Nat)) : (s.setRegs l).silicon = s.silicon := by
  induction l generalizing s with
  | nil => rfl
  | cons p r ih => exact (ih (s.setReg p.1 p.2)).trans rfl

@[simp] theorem State.setRegs_carrier (s : State) (l : List (Field × Nat)) : (s.setRegs l).carrier = s.carrier := by
  induction l generalizing s with
  | nil => rfl
  | cons p r ih => exact (ih (s.setReg p.1 p.2)).trans rfl

@[simp] theorem State.setRegs_outputs (s : State) (l : List (Field × Nat)) : (s.setRegs l).outputs = s.outputs := by
  induction l generalizing s with
  | nil => rfl
  | cons p r ih => exact (ih (s.setReg p.1 p.2)).trans rfl

/-! ### bumps -/

@[simp] theorem State.bumps_pending (s : State) (l : List (Field × Nat)) : (s.bumps l).pending = s.pending := by
  induction l generalizing s with
  | nil => rfl
  | cons p r ih => exact (ih (s.bump p.1 p.2)).trans rfl

@[simp] theorem State.bumps_now (s : State) (l : List (Field × Nat)) : (s.bumps l).now = s.now := by
  induction l generalizing s with
  | nil => rfl
  | cons p r ih => exact (ih (s.bump p.1 p.2)).trans rfl

@[simp] theorem State.bumps_free (s : State) (l : List (Field × Nat)) : (s.bumps l).free = s.free := by
  induction l generalizing s with
  | nil => rfl
  | cons p r ih => exact (ih (s.bump p.1 p.2)).trans rfl

@[simp] theorem State.bumps_tick (s : State) (l : List (Field × Nat)) : (s.bumps l).tick = s.tick := by
  induction l generalizing s with
  | nil => rfl
  | cons p r ih => exact (ih (s.bump p.1 p.2)).trans rfl

@[simp] theorem State.bumps_boundary (s : State) (l : List (Field × Nat)) : (s.bumps l).boundary = s.boundary := by
  induction l generalizing s with
  | nil => rfl
  | cons p r ih => exact (ih (s.bump p.1 p.2)).trans rfl

@[simp] theorem State.bumps_period (s : State) (l : List (Field × Nat)) : (s.bumps l).period = s.period := by
  induction l generalizing s with
  | nil => rfl
  | cons p r ih => exact (ih (s.bump p.1 p.2)).trans rfl

@[simp] theorem State.bumps_mem (s : State) (l : List (Field × Nat)) : (s.bumps l).mem = s.mem := by
  induction l generalizing s with
  | nil => rfl
  | cons p r ih => exact (ih (s.bump p.1 p.2)).trans rfl

@[simp] theorem State.bumps_writes (s : State) (l : List (Field × Nat)) : (s.bumps l).writes = s.writes := by
  induction l generalizing s with
  | nil => rfl
  | cons p r ih => exact (ih (s.bump p.1 p.2)).trans rfl

@[simp] theorem State.bumps_eventSeq (s : State) (l : List (Field × Nat)) : (s.bumps l).eventSeq = s.eventSeq := by
  induction l generalizing s with
  | nil => rfl
  | cons p r ih => exact (ih (s.bump p.1 p.2)).trans rfl

@[simp] theorem State.bumps_errorSeq (s : State) (l : List (Field × Nat)) : (s.bumps l).errorSeq = s.errorSeq := by
  induction l generalizing s with
  | nil => rfl
  | cons p r ih => exact (ih (s.bump p.1 p.2)).trans rfl

@[simp] theorem State.bumps_chart (s : State) (l : List (Field × Nat)) : (s.bumps l).chart = s.chart := by
  induction l generalizing s with
  | nil => rfl
  | cons p r ih => exact (ih (s.bump p.1 p.2)).trans rfl

@[simp] theorem State.bumps_load (s : State) (l : List (Field × Nat)) : (s.bumps l).load = s.load := by
  induction l generalizing s with
  | nil => rfl
  | cons p r ih => exact (ih (s.bump p.1 p.2)).trans rfl

@[simp] theorem State.bumps_unloadWaiting (s : State) (l : List (Field × Nat)) :
    (s.bumps l).unloadWaiting = s.unloadWaiting := by
  induction l generalizing s with
  | nil => rfl
  | cons p r ih => exact (ih (s.bump p.1 p.2)).trans rfl

@[simp] theorem State.bumps_zeroing (s : State) (l : List (Field × Nat)) : (s.bumps l).zeroing = s.zeroing := by
  induction l generalizing s with
  | nil => rfl
  | cons p r ih => exact (ih (s.bump p.1 p.2)).trans rfl

@[simp] theorem State.bumps_rings (s : State) (l : List (Field × Nat)) : (s.bumps l).rings = s.rings := by
  induction l generalizing s with
  | nil => rfl
  | cons p r ih => exact (ih (s.bump p.1 p.2)).trans rfl

@[simp] theorem State.bumps_tasks (s : State) (l : List (Field × Nat)) : (s.bumps l).tasks = s.tasks := by
  induction l generalizing s with
  | nil => rfl
  | cons p r ih => exact (ih (s.bump p.1 p.2)).trans rfl

@[simp] theorem State.bumps_signals (s : State) (l : List (Field × Nat)) : (s.bumps l).signals = s.signals := by
  induction l generalizing s with
  | nil => rfl
  | cons p r ih => exact (ih (s.bump p.1 p.2)).trans rfl

@[simp] theorem State.bumps_jobs (s : State) (l : List (Field × Nat)) : (s.bumps l).jobs = s.jobs := by
  induction l generalizing s with
  | nil => rfl
  | cons p r ih => exact (ih (s.bump p.1 p.2)).trans rfl

@[simp] theorem State.bumps_streams (s : State) (l : List (Field × Nat)) : (s.bumps l).streams = s.streams := by
  induction l generalizing s with
  | nil => rfl
  | cons p r ih => exact (ih (s.bump p.1 p.2)).trans rfl

@[simp] theorem State.bumps_memQueue (s : State) (l : List (Field × Nat)) : (s.bumps l).memQueue = s.memQueue := by
  induction l generalizing s with
  | nil => rfl
  | cons p r ih => exact (ih (s.bump p.1 p.2)).trans rfl

@[simp] theorem State.bumps_tables (s : State) (l : List (Field × Nat)) : (s.bumps l).tables = s.tables := by
  induction l generalizing s with
  | nil => rfl
  | cons p r ih => exact (ih (s.bump p.1 p.2)).trans rfl

@[simp] theorem State.bumps_drift (s : State) (l : List (Field × Nat)) : (s.bumps l).drift = s.drift := by
  induction l generalizing s with
  | nil => rfl
  | cons p r ih => exact (ih (s.bump p.1 p.2)).trans rfl

@[simp] theorem State.bumps_lanes (s : State) (l : List (Field × Nat)) : (s.bumps l).lanes = s.lanes := by
  induction l generalizing s with
  | nil => rfl
  | cons p r ih => exact (ih (s.bump p.1 p.2)).trans rfl

@[simp] theorem State.bumps_corrections (s : State) (l : List (Field × Nat)) :
    (s.bumps l).corrections = s.corrections := by
  induction l generalizing s with
  | nil => rfl
  | cons p r ih => exact (ih (s.bump p.1 p.2)).trans rfl

@[simp] theorem State.bumps_scrubbed (s : State) (l : List (Field × Nat)) : (s.bumps l).scrubbed = s.scrubbed := by
  induction l generalizing s with
  | nil => rfl
  | cons p r ih => exact (ih (s.bump p.1 p.2)).trans rfl

@[simp] theorem State.bumps_bankQuiet (s : State) (l : List (Field × Nat)) : (s.bumps l).bankQuiet = s.bankQuiet := by
  induction l generalizing s with
  | nil => rfl
  | cons p r ih => exact (ih (s.bump p.1 p.2)).trans rfl

@[simp] theorem State.bumps_fabric (s : State) (l : List (Field × Nat)) : (s.bumps l).fabric = s.fabric := by
  induction l generalizing s with
  | nil => rfl
  | cons p r ih => exact (ih (s.bump p.1 p.2)).trans rfl

@[simp] theorem State.bumps_reductions (s : State) (l : List (Field × Nat)) :
    (s.bumps l).reductions = s.reductions := by
  induction l generalizing s with
  | nil => rfl
  | cons p r ih => exact (ih (s.bump p.1 p.2)).trans rfl

@[simp] theorem State.bumps_combining (s : State) (l : List (Field × Nat)) : (s.bumps l).combining = s.combining := by
  induction l generalizing s with
  | nil => rfl
  | cons p r ih => exact (ih (s.bump p.1 p.2)).trans rfl

@[simp] theorem State.bumps_sysreset (s : State) (l : List (Field × Nat)) : (s.bumps l).sysreset = s.sysreset := by
  induction l generalizing s with
  | nil => rfl
  | cons p r ih => exact (ih (s.bump p.1 p.2)).trans rfl

@[simp] theorem State.bumps_power (s : State) (l : List (Field × Nat)) : (s.bumps l).power = s.power := by
  induction l generalizing s with
  | nil => rfl
  | cons p r ih => exact (ih (s.bump p.1 p.2)).trans rfl

@[simp] theorem State.bumps_pcie (s : State) (l : List (Field × Nat)) : (s.bumps l).pcie = s.pcie := by
  induction l generalizing s with
  | nil => rfl
  | cons p r ih => exact (ih (s.bump p.1 p.2)).trans rfl

@[simp] theorem State.bumps_boot (s : State) (l : List (Field × Nat)) : (s.bumps l).boot = s.boot := by
  induction l generalizing s with
  | nil => rfl
  | cons p r ih => exact (ih (s.bump p.1 p.2)).trans rfl

@[simp] theorem State.bumps_binnacle (s : State) (l : List (Field × Nat)) : (s.bumps l).binnacle = s.binnacle := by
  induction l generalizing s with
  | nil => rfl
  | cons p r ih => exact (ih (s.bump p.1 p.2)).trans rfl

@[simp] theorem State.bumps_silicon (s : State) (l : List (Field × Nat)) : (s.bumps l).silicon = s.silicon := by
  induction l generalizing s with
  | nil => rfl
  | cons p r ih => exact (ih (s.bump p.1 p.2)).trans rfl

@[simp] theorem State.bumps_carrier (s : State) (l : List (Field × Nat)) : (s.bumps l).carrier = s.carrier := by
  induction l generalizing s with
  | nil => rfl
  | cons p r ih => exact (ih (s.bump p.1 p.2)).trans rfl

@[simp] theorem State.bumps_outputs (s : State) (l : List (Field × Nat)) : (s.bumps l).outputs = s.outputs := by
  induction l generalizing s with
  | nil => rfl
  | cons p r ih => exact (ih (s.bump p.1 p.2)).trans rfl

/-! ### raiseReg -/

@[simp] theorem State.raiseReg_pending (s : State) (f : Field) (v : Nat) : (s.raiseReg f v).pending = s.pending := by
  unfold State.raiseReg; split <;> rfl

@[simp] theorem State.raiseReg_now (s : State) (f : Field) (v : Nat) : (s.raiseReg f v).now = s.now := by
  unfold State.raiseReg; split <;> rfl

@[simp] theorem State.raiseReg_free (s : State) (f : Field) (v : Nat) : (s.raiseReg f v).free = s.free := by
  unfold State.raiseReg; split <;> rfl

@[simp] theorem State.raiseReg_tick (s : State) (f : Field) (v : Nat) : (s.raiseReg f v).tick = s.tick := by
  unfold State.raiseReg; split <;> rfl

@[simp] theorem State.raiseReg_boundary (s : State) (f : Field) (v : Nat) :
    (s.raiseReg f v).boundary = s.boundary := by
  unfold State.raiseReg; split <;> rfl

@[simp] theorem State.raiseReg_period (s : State) (f : Field) (v : Nat) : (s.raiseReg f v).period = s.period := by
  unfold State.raiseReg; split <;> rfl

@[simp] theorem State.raiseReg_mem (s : State) (f : Field) (v : Nat) : (s.raiseReg f v).mem = s.mem := by
  unfold State.raiseReg; split <;> rfl

@[simp] theorem State.raiseReg_writes (s : State) (f : Field) (v : Nat) : (s.raiseReg f v).writes = s.writes := by
  unfold State.raiseReg; split <;> rfl

@[simp] theorem State.raiseReg_eventSeq (s : State) (f : Field) (v : Nat) :
    (s.raiseReg f v).eventSeq = s.eventSeq := by
  unfold State.raiseReg; split <;> rfl

@[simp] theorem State.raiseReg_errorSeq (s : State) (f : Field) (v : Nat) :
    (s.raiseReg f v).errorSeq = s.errorSeq := by
  unfold State.raiseReg; split <;> rfl

@[simp] theorem State.raiseReg_chart (s : State) (f : Field) (v : Nat) : (s.raiseReg f v).chart = s.chart := by
  unfold State.raiseReg; split <;> rfl

@[simp] theorem State.raiseReg_load (s : State) (f : Field) (v : Nat) : (s.raiseReg f v).load = s.load := by
  unfold State.raiseReg; split <;> rfl

@[simp] theorem State.raiseReg_unloadWaiting (s : State) (f : Field) (v : Nat) :
    (s.raiseReg f v).unloadWaiting = s.unloadWaiting := by
  unfold State.raiseReg; split <;> rfl

@[simp] theorem State.raiseReg_zeroing (s : State) (f : Field) (v : Nat) : (s.raiseReg f v).zeroing = s.zeroing := by
  unfold State.raiseReg; split <;> rfl

@[simp] theorem State.raiseReg_rings (s : State) (f : Field) (v : Nat) : (s.raiseReg f v).rings = s.rings := by
  unfold State.raiseReg; split <;> rfl

@[simp] theorem State.raiseReg_tasks (s : State) (f : Field) (v : Nat) : (s.raiseReg f v).tasks = s.tasks := by
  unfold State.raiseReg; split <;> rfl

@[simp] theorem State.raiseReg_signals (s : State) (f : Field) (v : Nat) : (s.raiseReg f v).signals = s.signals := by
  unfold State.raiseReg; split <;> rfl

@[simp] theorem State.raiseReg_jobs (s : State) (f : Field) (v : Nat) : (s.raiseReg f v).jobs = s.jobs := by
  unfold State.raiseReg; split <;> rfl

@[simp] theorem State.raiseReg_streams (s : State) (f : Field) (v : Nat) : (s.raiseReg f v).streams = s.streams := by
  unfold State.raiseReg; split <;> rfl

@[simp] theorem State.raiseReg_memQueue (s : State) (f : Field) (v : Nat) :
    (s.raiseReg f v).memQueue = s.memQueue := by
  unfold State.raiseReg; split <;> rfl

@[simp] theorem State.raiseReg_tables (s : State) (f : Field) (v : Nat) : (s.raiseReg f v).tables = s.tables := by
  unfold State.raiseReg; split <;> rfl

@[simp] theorem State.raiseReg_drift (s : State) (f : Field) (v : Nat) : (s.raiseReg f v).drift = s.drift := by
  unfold State.raiseReg; split <;> rfl

@[simp] theorem State.raiseReg_lanes (s : State) (f : Field) (v : Nat) : (s.raiseReg f v).lanes = s.lanes := by
  unfold State.raiseReg; split <;> rfl

@[simp] theorem State.raiseReg_corrections (s : State) (f : Field) (v : Nat) :
    (s.raiseReg f v).corrections = s.corrections := by
  unfold State.raiseReg; split <;> rfl

@[simp] theorem State.raiseReg_scrubbed (s : State) (f : Field) (v : Nat) :
    (s.raiseReg f v).scrubbed = s.scrubbed := by
  unfold State.raiseReg; split <;> rfl

@[simp] theorem State.raiseReg_bankQuiet (s : State) (f : Field) (v : Nat) :
    (s.raiseReg f v).bankQuiet = s.bankQuiet := by
  unfold State.raiseReg; split <;> rfl

@[simp] theorem State.raiseReg_fabric (s : State) (f : Field) (v : Nat) : (s.raiseReg f v).fabric = s.fabric := by
  unfold State.raiseReg; split <;> rfl

@[simp] theorem State.raiseReg_reductions (s : State) (f : Field) (v : Nat) :
    (s.raiseReg f v).reductions = s.reductions := by
  unfold State.raiseReg; split <;> rfl

@[simp] theorem State.raiseReg_combining (s : State) (f : Field) (v : Nat) :
    (s.raiseReg f v).combining = s.combining := by
  unfold State.raiseReg; split <;> rfl

@[simp] theorem State.raiseReg_sysreset (s : State) (f : Field) (v : Nat) :
    (s.raiseReg f v).sysreset = s.sysreset := by
  unfold State.raiseReg; split <;> rfl

@[simp] theorem State.raiseReg_power (s : State) (f : Field) (v : Nat) : (s.raiseReg f v).power = s.power := by
  unfold State.raiseReg; split <;> rfl

@[simp] theorem State.raiseReg_pcie (s : State) (f : Field) (v : Nat) : (s.raiseReg f v).pcie = s.pcie := by
  unfold State.raiseReg; split <;> rfl

@[simp] theorem State.raiseReg_boot (s : State) (f : Field) (v : Nat) : (s.raiseReg f v).boot = s.boot := by
  unfold State.raiseReg; split <;> rfl

@[simp] theorem State.raiseReg_binnacle (s : State) (f : Field) (v : Nat) :
    (s.raiseReg f v).binnacle = s.binnacle := by
  unfold State.raiseReg; split <;> rfl

@[simp] theorem State.raiseReg_silicon (s : State) (f : Field) (v : Nat) : (s.raiseReg f v).silicon = s.silicon := by
  unfold State.raiseReg; split <;> rfl

@[simp] theorem State.raiseReg_carrier (s : State) (f : Field) (v : Nat) : (s.raiseReg f v).carrier = s.carrier := by
  unfold State.raiseReg; split <;> rfl

@[simp] theorem State.raiseReg_outputs (s : State) (f : Field) (v : Nat) : (s.raiseReg f v).outputs = s.outputs := by
  unfold State.raiseReg; split <;> rfl

/-! ### write -/

@[simp] theorem State.write_pending (s : State) (k : Nat) (d : List Byte) : (s.write k d).pending = s.pending := rfl

@[simp] theorem State.write_now (s : State) (k : Nat) (d : List Byte) : (s.write k d).now = s.now := rfl

@[simp] theorem State.write_free (s : State) (k : Nat) (d : List Byte) : (s.write k d).free = s.free := rfl

@[simp] theorem State.write_tick (s : State) (k : Nat) (d : List Byte) : (s.write k d).tick = s.tick := rfl

@[simp] theorem State.write_boundary (s : State) (k : Nat) (d : List Byte) :
    (s.write k d).boundary = s.boundary := rfl

@[simp] theorem State.write_period (s : State) (k : Nat) (d : List Byte) : (s.write k d).period = s.period := rfl

@[simp] theorem State.write_regs (s : State) (k : Nat) (d : List Byte) : (s.write k d).regs = s.regs := rfl

@[simp] theorem State.write_eventSeq (s : State) (k : Nat) (d : List Byte) :
    (s.write k d).eventSeq = s.eventSeq := rfl

@[simp] theorem State.write_errorSeq (s : State) (k : Nat) (d : List Byte) :
    (s.write k d).errorSeq = s.errorSeq := rfl

@[simp] theorem State.write_chart (s : State) (k : Nat) (d : List Byte) : (s.write k d).chart = s.chart := rfl

@[simp] theorem State.write_load (s : State) (k : Nat) (d : List Byte) : (s.write k d).load = s.load := rfl

@[simp] theorem State.write_unloadWaiting (s : State) (k : Nat) (d : List Byte) :
    (s.write k d).unloadWaiting = s.unloadWaiting := rfl

@[simp] theorem State.write_zeroing (s : State) (k : Nat) (d : List Byte) : (s.write k d).zeroing = s.zeroing := rfl

@[simp] theorem State.write_rings (s : State) (k : Nat) (d : List Byte) : (s.write k d).rings = s.rings := rfl

@[simp] theorem State.write_tasks (s : State) (k : Nat) (d : List Byte) : (s.write k d).tasks = s.tasks := rfl

@[simp] theorem State.write_signals (s : State) (k : Nat) (d : List Byte) : (s.write k d).signals = s.signals := rfl

@[simp] theorem State.write_jobs (s : State) (k : Nat) (d : List Byte) : (s.write k d).jobs = s.jobs := rfl

@[simp] theorem State.write_streams (s : State) (k : Nat) (d : List Byte) : (s.write k d).streams = s.streams := rfl

@[simp] theorem State.write_memQueue (s : State) (k : Nat) (d : List Byte) :
    (s.write k d).memQueue = s.memQueue := rfl

@[simp] theorem State.write_tables (s : State) (k : Nat) (d : List Byte) : (s.write k d).tables = s.tables := rfl

@[simp] theorem State.write_drift (s : State) (k : Nat) (d : List Byte) : (s.write k d).drift = s.drift := rfl

@[simp] theorem State.write_lanes (s : State) (k : Nat) (d : List Byte) : (s.write k d).lanes = s.lanes := rfl

@[simp] theorem State.write_corrections (s : State) (k : Nat) (d : List Byte) :
    (s.write k d).corrections = s.corrections := rfl

@[simp] theorem State.write_scrubbed (s : State) (k : Nat) (d : List Byte) :
    (s.write k d).scrubbed = s.scrubbed := rfl

@[simp] theorem State.write_bankQuiet (s : State) (k : Nat) (d : List Byte) :
    (s.write k d).bankQuiet = s.bankQuiet := rfl

@[simp] theorem State.write_fabric (s : State) (k : Nat) (d : List Byte) : (s.write k d).fabric = s.fabric := rfl

@[simp] theorem State.write_reductions (s : State) (k : Nat) (d : List Byte) :
    (s.write k d).reductions = s.reductions := rfl

@[simp] theorem State.write_combining (s : State) (k : Nat) (d : List Byte) :
    (s.write k d).combining = s.combining := rfl

@[simp] theorem State.write_sysreset (s : State) (k : Nat) (d : List Byte) :
    (s.write k d).sysreset = s.sysreset := rfl

@[simp] theorem State.write_power (s : State) (k : Nat) (d : List Byte) : (s.write k d).power = s.power := rfl

@[simp] theorem State.write_pcie (s : State) (k : Nat) (d : List Byte) : (s.write k d).pcie = s.pcie := rfl

@[simp] theorem State.write_boot (s : State) (k : Nat) (d : List Byte) : (s.write k d).boot = s.boot := rfl

@[simp] theorem State.write_binnacle (s : State) (k : Nat) (d : List Byte) :
    (s.write k d).binnacle = s.binnacle := rfl

@[simp] theorem State.write_silicon (s : State) (k : Nat) (d : List Byte) : (s.write k d).silicon = s.silicon := rfl

@[simp] theorem State.write_carrier (s : State) (k : Nat) (d : List Byte) : (s.write k d).carrier = s.carrier := rfl

@[simp] theorem State.write_outputs (s : State) (k : Nat) (d : List Byte) : (s.write k d).outputs = s.outputs := rfl

/-! ### memOps -/

@[simp] theorem State.memOps_pending (s : State) (ops : List MemOp) : (s.memOps ops).pending = s.pending := rfl

@[simp] theorem State.memOps_now (s : State) (ops : List MemOp) : (s.memOps ops).now = s.now := rfl

@[simp] theorem State.memOps_free (s : State) (ops : List MemOp) : (s.memOps ops).free = s.free := rfl

@[simp] theorem State.memOps_tick (s : State) (ops : List MemOp) : (s.memOps ops).tick = s.tick := rfl

@[simp] theorem State.memOps_boundary (s : State) (ops : List MemOp) : (s.memOps ops).boundary = s.boundary := rfl

@[simp] theorem State.memOps_period (s : State) (ops : List MemOp) : (s.memOps ops).period = s.period := rfl

@[simp] theorem State.memOps_regs (s : State) (ops : List MemOp) : (s.memOps ops).regs = s.regs := rfl

@[simp] theorem State.memOps_eventSeq (s : State) (ops : List MemOp) : (s.memOps ops).eventSeq = s.eventSeq := rfl

@[simp] theorem State.memOps_errorSeq (s : State) (ops : List MemOp) : (s.memOps ops).errorSeq = s.errorSeq := rfl

@[simp] theorem State.memOps_chart (s : State) (ops : List MemOp) : (s.memOps ops).chart = s.chart := rfl

@[simp] theorem State.memOps_load (s : State) (ops : List MemOp) : (s.memOps ops).load = s.load := rfl

@[simp] theorem State.memOps_unloadWaiting (s : State) (ops : List MemOp) :
    (s.memOps ops).unloadWaiting = s.unloadWaiting := rfl

@[simp] theorem State.memOps_zeroing (s : State) (ops : List MemOp) : (s.memOps ops).zeroing = s.zeroing := rfl

@[simp] theorem State.memOps_rings (s : State) (ops : List MemOp) : (s.memOps ops).rings = s.rings := rfl

@[simp] theorem State.memOps_tasks (s : State) (ops : List MemOp) : (s.memOps ops).tasks = s.tasks := rfl

@[simp] theorem State.memOps_signals (s : State) (ops : List MemOp) : (s.memOps ops).signals = s.signals := rfl

@[simp] theorem State.memOps_jobs (s : State) (ops : List MemOp) : (s.memOps ops).jobs = s.jobs := rfl

@[simp] theorem State.memOps_streams (s : State) (ops : List MemOp) : (s.memOps ops).streams = s.streams := rfl

@[simp] theorem State.memOps_memQueue (s : State) (ops : List MemOp) : (s.memOps ops).memQueue = s.memQueue := rfl

@[simp] theorem State.memOps_tables (s : State) (ops : List MemOp) : (s.memOps ops).tables = s.tables := rfl

@[simp] theorem State.memOps_drift (s : State) (ops : List MemOp) : (s.memOps ops).drift = s.drift := rfl

@[simp] theorem State.memOps_lanes (s : State) (ops : List MemOp) : (s.memOps ops).lanes = s.lanes := rfl

@[simp] theorem State.memOps_corrections (s : State) (ops : List MemOp) :
    (s.memOps ops).corrections = s.corrections := rfl

@[simp] theorem State.memOps_scrubbed (s : State) (ops : List MemOp) : (s.memOps ops).scrubbed = s.scrubbed := rfl

@[simp] theorem State.memOps_bankQuiet (s : State) (ops : List MemOp) : (s.memOps ops).bankQuiet = s.bankQuiet := rfl

@[simp] theorem State.memOps_fabric (s : State) (ops : List MemOp) : (s.memOps ops).fabric = s.fabric := rfl

@[simp] theorem State.memOps_reductions (s : State) (ops : List MemOp) :
    (s.memOps ops).reductions = s.reductions := rfl

@[simp] theorem State.memOps_combining (s : State) (ops : List MemOp) : (s.memOps ops).combining = s.combining := rfl

@[simp] theorem State.memOps_sysreset (s : State) (ops : List MemOp) : (s.memOps ops).sysreset = s.sysreset := rfl

@[simp] theorem State.memOps_power (s : State) (ops : List MemOp) : (s.memOps ops).power = s.power := rfl

@[simp] theorem State.memOps_pcie (s : State) (ops : List MemOp) : (s.memOps ops).pcie = s.pcie := rfl

@[simp] theorem State.memOps_boot (s : State) (ops : List MemOp) : (s.memOps ops).boot = s.boot := rfl

@[simp] theorem State.memOps_binnacle (s : State) (ops : List MemOp) : (s.memOps ops).binnacle = s.binnacle := rfl

@[simp] theorem State.memOps_silicon (s : State) (ops : List MemOp) : (s.memOps ops).silicon = s.silicon := rfl

@[simp] theorem State.memOps_carrier (s : State) (ops : List MemOp) : (s.memOps ops).carrier = s.carrier := rfl

@[simp] theorem State.memOps_outputs (s : State) (ops : List MemOp) : (s.memOps ops).outputs = s.outputs := rfl

/-! ### emit -/

@[simp] theorem State.emit_pending (s : State) (o : Output) : (s.emit o).pending = s.pending := rfl

@[simp] theorem State.emit_now (s : State) (o : Output) : (s.emit o).now = s.now := rfl

@[simp] theorem State.emit_free (s : State) (o : Output) : (s.emit o).free = s.free := rfl

@[simp] theorem State.emit_tick (s : State) (o : Output) : (s.emit o).tick = s.tick := rfl

@[simp] theorem State.emit_boundary (s : State) (o : Output) : (s.emit o).boundary = s.boundary := rfl

@[simp] theorem State.emit_period (s : State) (o : Output) : (s.emit o).period = s.period := rfl

@[simp] theorem State.emit_mem (s : State) (o : Output) : (s.emit o).mem = s.mem := rfl

@[simp] theorem State.emit_writes (s : State) (o : Output) : (s.emit o).writes = s.writes := rfl

@[simp] theorem State.emit_regs (s : State) (o : Output) : (s.emit o).regs = s.regs := rfl

@[simp] theorem State.emit_eventSeq (s : State) (o : Output) : (s.emit o).eventSeq = s.eventSeq := rfl

@[simp] theorem State.emit_errorSeq (s : State) (o : Output) : (s.emit o).errorSeq = s.errorSeq := rfl

@[simp] theorem State.emit_chart (s : State) (o : Output) : (s.emit o).chart = s.chart := rfl

@[simp] theorem State.emit_load (s : State) (o : Output) : (s.emit o).load = s.load := rfl

@[simp] theorem State.emit_unloadWaiting (s : State) (o : Output) : (s.emit o).unloadWaiting = s.unloadWaiting := rfl

@[simp] theorem State.emit_zeroing (s : State) (o : Output) : (s.emit o).zeroing = s.zeroing := rfl

@[simp] theorem State.emit_rings (s : State) (o : Output) : (s.emit o).rings = s.rings := rfl

@[simp] theorem State.emit_tasks (s : State) (o : Output) : (s.emit o).tasks = s.tasks := rfl

@[simp] theorem State.emit_signals (s : State) (o : Output) : (s.emit o).signals = s.signals := rfl

@[simp] theorem State.emit_jobs (s : State) (o : Output) : (s.emit o).jobs = s.jobs := rfl

@[simp] theorem State.emit_streams (s : State) (o : Output) : (s.emit o).streams = s.streams := rfl

@[simp] theorem State.emit_memQueue (s : State) (o : Output) : (s.emit o).memQueue = s.memQueue := rfl

@[simp] theorem State.emit_tables (s : State) (o : Output) : (s.emit o).tables = s.tables := rfl

@[simp] theorem State.emit_drift (s : State) (o : Output) : (s.emit o).drift = s.drift := rfl

@[simp] theorem State.emit_lanes (s : State) (o : Output) : (s.emit o).lanes = s.lanes := rfl

@[simp] theorem State.emit_corrections (s : State) (o : Output) : (s.emit o).corrections = s.corrections := rfl

@[simp] theorem State.emit_scrubbed (s : State) (o : Output) : (s.emit o).scrubbed = s.scrubbed := rfl

@[simp] theorem State.emit_bankQuiet (s : State) (o : Output) : (s.emit o).bankQuiet = s.bankQuiet := rfl

@[simp] theorem State.emit_fabric (s : State) (o : Output) : (s.emit o).fabric = s.fabric := rfl

@[simp] theorem State.emit_reductions (s : State) (o : Output) : (s.emit o).reductions = s.reductions := rfl

@[simp] theorem State.emit_combining (s : State) (o : Output) : (s.emit o).combining = s.combining := rfl

@[simp] theorem State.emit_sysreset (s : State) (o : Output) : (s.emit o).sysreset = s.sysreset := rfl

@[simp] theorem State.emit_power (s : State) (o : Output) : (s.emit o).power = s.power := rfl

@[simp] theorem State.emit_pcie (s : State) (o : Output) : (s.emit o).pcie = s.pcie := rfl

@[simp] theorem State.emit_boot (s : State) (o : Output) : (s.emit o).boot = s.boot := rfl

@[simp] theorem State.emit_binnacle (s : State) (o : Output) : (s.emit o).binnacle = s.binnacle := rfl

@[simp] theorem State.emit_silicon (s : State) (o : Output) : (s.emit o).silicon = s.silicon := rfl

@[simp] theorem State.emit_carrier (s : State) (o : Output) : (s.emit o).carrier = s.carrier := rfl

/-! ### setTask -/

@[simp] theorem State.setTask_pending (s : State) (t : Task) : (s.setTask t).pending = s.pending := rfl

@[simp] theorem State.setTask_now (s : State) (t : Task) : (s.setTask t).now = s.now := rfl

@[simp] theorem State.setTask_free (s : State) (t : Task) : (s.setTask t).free = s.free := rfl

@[simp] theorem State.setTask_tick (s : State) (t : Task) : (s.setTask t).tick = s.tick := rfl

@[simp] theorem State.setTask_boundary (s : State) (t : Task) : (s.setTask t).boundary = s.boundary := rfl

@[simp] theorem State.setTask_period (s : State) (t : Task) : (s.setTask t).period = s.period := rfl

@[simp] theorem State.setTask_mem (s : State) (t : Task) : (s.setTask t).mem = s.mem := rfl

@[simp] theorem State.setTask_writes (s : State) (t : Task) : (s.setTask t).writes = s.writes := rfl

@[simp] theorem State.setTask_regs (s : State) (t : Task) : (s.setTask t).regs = s.regs := rfl

@[simp] theorem State.setTask_eventSeq (s : State) (t : Task) : (s.setTask t).eventSeq = s.eventSeq := rfl

@[simp] theorem State.setTask_errorSeq (s : State) (t : Task) : (s.setTask t).errorSeq = s.errorSeq := rfl

@[simp] theorem State.setTask_chart (s : State) (t : Task) : (s.setTask t).chart = s.chart := rfl

@[simp] theorem State.setTask_load (s : State) (t : Task) : (s.setTask t).load = s.load := rfl

@[simp] theorem State.setTask_unloadWaiting (s : State) (t : Task) :
    (s.setTask t).unloadWaiting = s.unloadWaiting := rfl

@[simp] theorem State.setTask_zeroing (s : State) (t : Task) : (s.setTask t).zeroing = s.zeroing := rfl

@[simp] theorem State.setTask_rings (s : State) (t : Task) : (s.setTask t).rings = s.rings := rfl

@[simp] theorem State.setTask_signals (s : State) (t : Task) : (s.setTask t).signals = s.signals := rfl

@[simp] theorem State.setTask_jobs (s : State) (t : Task) : (s.setTask t).jobs = s.jobs := rfl

@[simp] theorem State.setTask_streams (s : State) (t : Task) : (s.setTask t).streams = s.streams := rfl

@[simp] theorem State.setTask_memQueue (s : State) (t : Task) : (s.setTask t).memQueue = s.memQueue := rfl

@[simp] theorem State.setTask_tables (s : State) (t : Task) : (s.setTask t).tables = s.tables := rfl

@[simp] theorem State.setTask_drift (s : State) (t : Task) : (s.setTask t).drift = s.drift := rfl

@[simp] theorem State.setTask_lanes (s : State) (t : Task) : (s.setTask t).lanes = s.lanes := rfl

@[simp] theorem State.setTask_corrections (s : State) (t : Task) : (s.setTask t).corrections = s.corrections := rfl

@[simp] theorem State.setTask_scrubbed (s : State) (t : Task) : (s.setTask t).scrubbed = s.scrubbed := rfl

@[simp] theorem State.setTask_bankQuiet (s : State) (t : Task) : (s.setTask t).bankQuiet = s.bankQuiet := rfl

@[simp] theorem State.setTask_fabric (s : State) (t : Task) : (s.setTask t).fabric = s.fabric := rfl

@[simp] theorem State.setTask_reductions (s : State) (t : Task) : (s.setTask t).reductions = s.reductions := rfl

@[simp] theorem State.setTask_combining (s : State) (t : Task) : (s.setTask t).combining = s.combining := rfl

@[simp] theorem State.setTask_sysreset (s : State) (t : Task) : (s.setTask t).sysreset = s.sysreset := rfl

@[simp] theorem State.setTask_power (s : State) (t : Task) : (s.setTask t).power = s.power := rfl

@[simp] theorem State.setTask_pcie (s : State) (t : Task) : (s.setTask t).pcie = s.pcie := rfl

@[simp] theorem State.setTask_boot (s : State) (t : Task) : (s.setTask t).boot = s.boot := rfl

@[simp] theorem State.setTask_binnacle (s : State) (t : Task) : (s.setTask t).binnacle = s.binnacle := rfl

@[simp] theorem State.setTask_silicon (s : State) (t : Task) : (s.setTask t).silicon = s.silicon := rfl

@[simp] theorem State.setTask_carrier (s : State) (t : Task) : (s.setTask t).carrier = s.carrier := rfl

@[simp] theorem State.setTask_outputs (s : State) (t : Task) : (s.setTask t).outputs = s.outputs := rfl

/-! ### dropTask -/

@[simp] theorem State.dropTask_pending (s : State) (id : TaskId) : (s.dropTask id).pending = s.pending := rfl

@[simp] theorem State.dropTask_now (s : State) (id : TaskId) : (s.dropTask id).now = s.now := rfl

@[simp] theorem State.dropTask_free (s : State) (id : TaskId) : (s.dropTask id).free = s.free := rfl

@[simp] theorem State.dropTask_tick (s : State) (id : TaskId) : (s.dropTask id).tick = s.tick := rfl

@[simp] theorem State.dropTask_boundary (s : State) (id : TaskId) : (s.dropTask id).boundary = s.boundary := rfl

@[simp] theorem State.dropTask_period (s : State) (id : TaskId) : (s.dropTask id).period = s.period := rfl

@[simp] theorem State.dropTask_mem (s : State) (id : TaskId) : (s.dropTask id).mem = s.mem := rfl

@[simp] theorem State.dropTask_writes (s : State) (id : TaskId) : (s.dropTask id).writes = s.writes := rfl

@[simp] theorem State.dropTask_regs (s : State) (id : TaskId) : (s.dropTask id).regs = s.regs := rfl

@[simp] theorem State.dropTask_eventSeq (s : State) (id : TaskId) : (s.dropTask id).eventSeq = s.eventSeq := rfl

@[simp] theorem State.dropTask_errorSeq (s : State) (id : TaskId) : (s.dropTask id).errorSeq = s.errorSeq := rfl

@[simp] theorem State.dropTask_chart (s : State) (id : TaskId) : (s.dropTask id).chart = s.chart := rfl

@[simp] theorem State.dropTask_load (s : State) (id : TaskId) : (s.dropTask id).load = s.load := rfl

@[simp] theorem State.dropTask_unloadWaiting (s : State) (id : TaskId) :
    (s.dropTask id).unloadWaiting = s.unloadWaiting := rfl

@[simp] theorem State.dropTask_zeroing (s : State) (id : TaskId) : (s.dropTask id).zeroing = s.zeroing := rfl

@[simp] theorem State.dropTask_rings (s : State) (id : TaskId) : (s.dropTask id).rings = s.rings := rfl

@[simp] theorem State.dropTask_signals (s : State) (id : TaskId) : (s.dropTask id).signals = s.signals := rfl

@[simp] theorem State.dropTask_jobs (s : State) (id : TaskId) : (s.dropTask id).jobs = s.jobs := rfl

@[simp] theorem State.dropTask_streams (s : State) (id : TaskId) : (s.dropTask id).streams = s.streams := rfl

@[simp] theorem State.dropTask_memQueue (s : State) (id : TaskId) : (s.dropTask id).memQueue = s.memQueue := rfl

@[simp] theorem State.dropTask_tables (s : State) (id : TaskId) : (s.dropTask id).tables = s.tables := rfl

@[simp] theorem State.dropTask_drift (s : State) (id : TaskId) : (s.dropTask id).drift = s.drift := rfl

@[simp] theorem State.dropTask_lanes (s : State) (id : TaskId) : (s.dropTask id).lanes = s.lanes := rfl

@[simp] theorem State.dropTask_corrections (s : State) (id : TaskId) :
    (s.dropTask id).corrections = s.corrections := rfl

@[simp] theorem State.dropTask_scrubbed (s : State) (id : TaskId) : (s.dropTask id).scrubbed = s.scrubbed := rfl

@[simp] theorem State.dropTask_bankQuiet (s : State) (id : TaskId) : (s.dropTask id).bankQuiet = s.bankQuiet := rfl

@[simp] theorem State.dropTask_fabric (s : State) (id : TaskId) : (s.dropTask id).fabric = s.fabric := rfl

@[simp] theorem State.dropTask_reductions (s : State) (id : TaskId) : (s.dropTask id).reductions = s.reductions := rfl

@[simp] theorem State.dropTask_combining (s : State) (id : TaskId) : (s.dropTask id).combining = s.combining := rfl

@[simp] theorem State.dropTask_sysreset (s : State) (id : TaskId) : (s.dropTask id).sysreset = s.sysreset := rfl

@[simp] theorem State.dropTask_power (s : State) (id : TaskId) : (s.dropTask id).power = s.power := rfl

@[simp] theorem State.dropTask_pcie (s : State) (id : TaskId) : (s.dropTask id).pcie = s.pcie := rfl

@[simp] theorem State.dropTask_boot (s : State) (id : TaskId) : (s.dropTask id).boot = s.boot := rfl

@[simp] theorem State.dropTask_binnacle (s : State) (id : TaskId) : (s.dropTask id).binnacle = s.binnacle := rfl

@[simp] theorem State.dropTask_silicon (s : State) (id : TaskId) : (s.dropTask id).silicon = s.silicon := rfl

@[simp] theorem State.dropTask_carrier (s : State) (id : TaskId) : (s.dropTask id).carrier = s.carrier := rfl

@[simp] theorem State.dropTask_outputs (s : State) (id : TaskId) : (s.dropTask id).outputs = s.outputs := rfl

/-! ### setRing -/

@[simp] theorem State.setRing_pending (s : State) (r : Ring) : (s.setRing r).pending = s.pending := rfl

@[simp] theorem State.setRing_now (s : State) (r : Ring) : (s.setRing r).now = s.now := rfl

@[simp] theorem State.setRing_free (s : State) (r : Ring) : (s.setRing r).free = s.free := rfl

@[simp] theorem State.setRing_tick (s : State) (r : Ring) : (s.setRing r).tick = s.tick := rfl

@[simp] theorem State.setRing_boundary (s : State) (r : Ring) : (s.setRing r).boundary = s.boundary := rfl

@[simp] theorem State.setRing_period (s : State) (r : Ring) : (s.setRing r).period = s.period := rfl

@[simp] theorem State.setRing_mem (s : State) (r : Ring) : (s.setRing r).mem = s.mem := rfl

@[simp] theorem State.setRing_writes (s : State) (r : Ring) : (s.setRing r).writes = s.writes := rfl

@[simp] theorem State.setRing_regs (s : State) (r : Ring) : (s.setRing r).regs = s.regs := rfl

@[simp] theorem State.setRing_eventSeq (s : State) (r : Ring) : (s.setRing r).eventSeq = s.eventSeq := rfl

@[simp] theorem State.setRing_errorSeq (s : State) (r : Ring) : (s.setRing r).errorSeq = s.errorSeq := rfl

@[simp] theorem State.setRing_chart (s : State) (r : Ring) : (s.setRing r).chart = s.chart := rfl

@[simp] theorem State.setRing_load (s : State) (r : Ring) : (s.setRing r).load = s.load := rfl

@[simp] theorem State.setRing_unloadWaiting (s : State) (r : Ring) :
    (s.setRing r).unloadWaiting = s.unloadWaiting := rfl

@[simp] theorem State.setRing_zeroing (s : State) (r : Ring) : (s.setRing r).zeroing = s.zeroing := rfl

@[simp] theorem State.setRing_tasks (s : State) (r : Ring) : (s.setRing r).tasks = s.tasks := rfl

@[simp] theorem State.setRing_signals (s : State) (r : Ring) : (s.setRing r).signals = s.signals := rfl

@[simp] theorem State.setRing_jobs (s : State) (r : Ring) : (s.setRing r).jobs = s.jobs := rfl

@[simp] theorem State.setRing_streams (s : State) (r : Ring) : (s.setRing r).streams = s.streams := rfl

@[simp] theorem State.setRing_memQueue (s : State) (r : Ring) : (s.setRing r).memQueue = s.memQueue := rfl

@[simp] theorem State.setRing_tables (s : State) (r : Ring) : (s.setRing r).tables = s.tables := rfl

@[simp] theorem State.setRing_drift (s : State) (r : Ring) : (s.setRing r).drift = s.drift := rfl

@[simp] theorem State.setRing_lanes (s : State) (r : Ring) : (s.setRing r).lanes = s.lanes := rfl

@[simp] theorem State.setRing_corrections (s : State) (r : Ring) : (s.setRing r).corrections = s.corrections := rfl

@[simp] theorem State.setRing_scrubbed (s : State) (r : Ring) : (s.setRing r).scrubbed = s.scrubbed := rfl

@[simp] theorem State.setRing_bankQuiet (s : State) (r : Ring) : (s.setRing r).bankQuiet = s.bankQuiet := rfl

@[simp] theorem State.setRing_fabric (s : State) (r : Ring) : (s.setRing r).fabric = s.fabric := rfl

@[simp] theorem State.setRing_reductions (s : State) (r : Ring) : (s.setRing r).reductions = s.reductions := rfl

@[simp] theorem State.setRing_combining (s : State) (r : Ring) : (s.setRing r).combining = s.combining := rfl

@[simp] theorem State.setRing_sysreset (s : State) (r : Ring) : (s.setRing r).sysreset = s.sysreset := rfl

@[simp] theorem State.setRing_power (s : State) (r : Ring) : (s.setRing r).power = s.power := rfl

@[simp] theorem State.setRing_pcie (s : State) (r : Ring) : (s.setRing r).pcie = s.pcie := rfl

@[simp] theorem State.setRing_boot (s : State) (r : Ring) : (s.setRing r).boot = s.boot := rfl

@[simp] theorem State.setRing_binnacle (s : State) (r : Ring) : (s.setRing r).binnacle = s.binnacle := rfl

@[simp] theorem State.setRing_silicon (s : State) (r : Ring) : (s.setRing r).silicon = s.silicon := rfl

@[simp] theorem State.setRing_carrier (s : State) (r : Ring) : (s.setRing r).carrier = s.carrier := rfl

@[simp] theorem State.setRing_outputs (s : State) (r : Ring) : (s.setRing r).outputs = s.outputs := rfl

/-! ### setJob -/

@[simp] theorem State.setJob_pending (s : State) (j : Job) : (s.setJob j).pending = s.pending := rfl

@[simp] theorem State.setJob_now (s : State) (j : Job) : (s.setJob j).now = s.now := rfl

@[simp] theorem State.setJob_free (s : State) (j : Job) : (s.setJob j).free = s.free := rfl

@[simp] theorem State.setJob_tick (s : State) (j : Job) : (s.setJob j).tick = s.tick := rfl

@[simp] theorem State.setJob_boundary (s : State) (j : Job) : (s.setJob j).boundary = s.boundary := rfl

@[simp] theorem State.setJob_period (s : State) (j : Job) : (s.setJob j).period = s.period := rfl

@[simp] theorem State.setJob_mem (s : State) (j : Job) : (s.setJob j).mem = s.mem := rfl

@[simp] theorem State.setJob_writes (s : State) (j : Job) : (s.setJob j).writes = s.writes := rfl

@[simp] theorem State.setJob_regs (s : State) (j : Job) : (s.setJob j).regs = s.regs := rfl

@[simp] theorem State.setJob_eventSeq (s : State) (j : Job) : (s.setJob j).eventSeq = s.eventSeq := rfl

@[simp] theorem State.setJob_errorSeq (s : State) (j : Job) : (s.setJob j).errorSeq = s.errorSeq := rfl

@[simp] theorem State.setJob_chart (s : State) (j : Job) : (s.setJob j).chart = s.chart := rfl

@[simp] theorem State.setJob_load (s : State) (j : Job) : (s.setJob j).load = s.load := rfl

@[simp] theorem State.setJob_unloadWaiting (s : State) (j : Job) : (s.setJob j).unloadWaiting = s.unloadWaiting := rfl

@[simp] theorem State.setJob_zeroing (s : State) (j : Job) : (s.setJob j).zeroing = s.zeroing := rfl

@[simp] theorem State.setJob_rings (s : State) (j : Job) : (s.setJob j).rings = s.rings := rfl

@[simp] theorem State.setJob_tasks (s : State) (j : Job) : (s.setJob j).tasks = s.tasks := rfl

@[simp] theorem State.setJob_signals (s : State) (j : Job) : (s.setJob j).signals = s.signals := rfl

@[simp] theorem State.setJob_streams (s : State) (j : Job) : (s.setJob j).streams = s.streams := rfl

@[simp] theorem State.setJob_memQueue (s : State) (j : Job) : (s.setJob j).memQueue = s.memQueue := rfl

@[simp] theorem State.setJob_tables (s : State) (j : Job) : (s.setJob j).tables = s.tables := rfl

@[simp] theorem State.setJob_drift (s : State) (j : Job) : (s.setJob j).drift = s.drift := rfl

@[simp] theorem State.setJob_lanes (s : State) (j : Job) : (s.setJob j).lanes = s.lanes := rfl

@[simp] theorem State.setJob_corrections (s : State) (j : Job) : (s.setJob j).corrections = s.corrections := rfl

@[simp] theorem State.setJob_scrubbed (s : State) (j : Job) : (s.setJob j).scrubbed = s.scrubbed := rfl

@[simp] theorem State.setJob_bankQuiet (s : State) (j : Job) : (s.setJob j).bankQuiet = s.bankQuiet := rfl

@[simp] theorem State.setJob_fabric (s : State) (j : Job) : (s.setJob j).fabric = s.fabric := rfl

@[simp] theorem State.setJob_reductions (s : State) (j : Job) : (s.setJob j).reductions = s.reductions := rfl

@[simp] theorem State.setJob_combining (s : State) (j : Job) : (s.setJob j).combining = s.combining := rfl

@[simp] theorem State.setJob_sysreset (s : State) (j : Job) : (s.setJob j).sysreset = s.sysreset := rfl

@[simp] theorem State.setJob_power (s : State) (j : Job) : (s.setJob j).power = s.power := rfl

@[simp] theorem State.setJob_pcie (s : State) (j : Job) : (s.setJob j).pcie = s.pcie := rfl

@[simp] theorem State.setJob_boot (s : State) (j : Job) : (s.setJob j).boot = s.boot := rfl

@[simp] theorem State.setJob_binnacle (s : State) (j : Job) : (s.setJob j).binnacle = s.binnacle := rfl

@[simp] theorem State.setJob_silicon (s : State) (j : Job) : (s.setJob j).silicon = s.silicon := rfl

@[simp] theorem State.setJob_carrier (s : State) (j : Job) : (s.setJob j).carrier = s.carrier := rfl

@[simp] theorem State.setJob_outputs (s : State) (j : Job) : (s.setJob j).outputs = s.outputs := rfl

/-! ### setStream -/

@[simp] theorem State.setStream_pending (s : State) (x : Stream) : (s.setStream x).pending = s.pending := rfl

@[simp] theorem State.setStream_now (s : State) (x : Stream) : (s.setStream x).now = s.now := rfl

@[simp] theorem State.setStream_free (s : State) (x : Stream) : (s.setStream x).free = s.free := rfl

@[simp] theorem State.setStream_tick (s : State) (x : Stream) : (s.setStream x).tick = s.tick := rfl

@[simp] theorem State.setStream_boundary (s : State) (x : Stream) : (s.setStream x).boundary = s.boundary := rfl

@[simp] theorem State.setStream_period (s : State) (x : Stream) : (s.setStream x).period = s.period := rfl

@[simp] theorem State.setStream_mem (s : State) (x : Stream) : (s.setStream x).mem = s.mem := rfl

@[simp] theorem State.setStream_writes (s : State) (x : Stream) : (s.setStream x).writes = s.writes := rfl

@[simp] theorem State.setStream_regs (s : State) (x : Stream) : (s.setStream x).regs = s.regs := rfl

@[simp] theorem State.setStream_eventSeq (s : State) (x : Stream) : (s.setStream x).eventSeq = s.eventSeq := rfl

@[simp] theorem State.setStream_errorSeq (s : State) (x : Stream) : (s.setStream x).errorSeq = s.errorSeq := rfl

@[simp] theorem State.setStream_chart (s : State) (x : Stream) : (s.setStream x).chart = s.chart := rfl

@[simp] theorem State.setStream_load (s : State) (x : Stream) : (s.setStream x).load = s.load := rfl

@[simp] theorem State.setStream_unloadWaiting (s : State) (x : Stream) :
    (s.setStream x).unloadWaiting = s.unloadWaiting := rfl

@[simp] theorem State.setStream_zeroing (s : State) (x : Stream) : (s.setStream x).zeroing = s.zeroing := rfl

@[simp] theorem State.setStream_rings (s : State) (x : Stream) : (s.setStream x).rings = s.rings := rfl

@[simp] theorem State.setStream_tasks (s : State) (x : Stream) : (s.setStream x).tasks = s.tasks := rfl

@[simp] theorem State.setStream_signals (s : State) (x : Stream) : (s.setStream x).signals = s.signals := rfl

@[simp] theorem State.setStream_jobs (s : State) (x : Stream) : (s.setStream x).jobs = s.jobs := rfl

@[simp] theorem State.setStream_memQueue (s : State) (x : Stream) : (s.setStream x).memQueue = s.memQueue := rfl

@[simp] theorem State.setStream_tables (s : State) (x : Stream) : (s.setStream x).tables = s.tables := rfl

@[simp] theorem State.setStream_drift (s : State) (x : Stream) : (s.setStream x).drift = s.drift := rfl

@[simp] theorem State.setStream_lanes (s : State) (x : Stream) : (s.setStream x).lanes = s.lanes := rfl

@[simp] theorem State.setStream_corrections (s : State) (x : Stream) :
    (s.setStream x).corrections = s.corrections := rfl

@[simp] theorem State.setStream_scrubbed (s : State) (x : Stream) : (s.setStream x).scrubbed = s.scrubbed := rfl

@[simp] theorem State.setStream_bankQuiet (s : State) (x : Stream) : (s.setStream x).bankQuiet = s.bankQuiet := rfl

@[simp] theorem State.setStream_fabric (s : State) (x : Stream) : (s.setStream x).fabric = s.fabric := rfl

@[simp] theorem State.setStream_reductions (s : State) (x : Stream) : (s.setStream x).reductions = s.reductions := rfl

@[simp] theorem State.setStream_combining (s : State) (x : Stream) : (s.setStream x).combining = s.combining := rfl

@[simp] theorem State.setStream_sysreset (s : State) (x : Stream) : (s.setStream x).sysreset = s.sysreset := rfl

@[simp] theorem State.setStream_power (s : State) (x : Stream) : (s.setStream x).power = s.power := rfl

@[simp] theorem State.setStream_pcie (s : State) (x : Stream) : (s.setStream x).pcie = s.pcie := rfl

@[simp] theorem State.setStream_boot (s : State) (x : Stream) : (s.setStream x).boot = s.boot := rfl

@[simp] theorem State.setStream_binnacle (s : State) (x : Stream) : (s.setStream x).binnacle = s.binnacle := rfl

@[simp] theorem State.setStream_silicon (s : State) (x : Stream) : (s.setStream x).silicon = s.silicon := rfl

@[simp] theorem State.setStream_carrier (s : State) (x : Stream) : (s.setStream x).carrier = s.carrier := rfl

@[simp] theorem State.setStream_outputs (s : State) (x : Stream) : (s.setStream x).outputs = s.outputs := rfl

/-! ### regrant -/

@[simp] theorem State.regrant_pending (s : State) : s.regrant.pending = s.pending := by
  unfold State.regrant; dsimp only; split <;> rfl

@[simp] theorem State.regrant_now (s : State) : s.regrant.now = s.now := by
  unfold State.regrant; dsimp only; split <;> rfl

@[simp] theorem State.regrant_free (s : State) : s.regrant.free = s.free := by
  unfold State.regrant; dsimp only; split <;> rfl

@[simp] theorem State.regrant_tick (s : State) : s.regrant.tick = s.tick := by
  unfold State.regrant; dsimp only; split <;> rfl

@[simp] theorem State.regrant_boundary (s : State) : s.regrant.boundary = s.boundary := by
  unfold State.regrant; dsimp only; split <;> rfl

@[simp] theorem State.regrant_period (s : State) : s.regrant.period = s.period := by
  unfold State.regrant; dsimp only; split <;> rfl

@[simp] theorem State.regrant_mem (s : State) : s.regrant.mem = s.mem := by
  unfold State.regrant; dsimp only; split <;> rfl

@[simp] theorem State.regrant_writes (s : State) : s.regrant.writes = s.writes := by
  unfold State.regrant; dsimp only; split <;> rfl

@[simp] theorem State.regrant_eventSeq (s : State) : s.regrant.eventSeq = s.eventSeq := by
  unfold State.regrant; dsimp only; split <;> rfl

@[simp] theorem State.regrant_errorSeq (s : State) : s.regrant.errorSeq = s.errorSeq := by
  unfold State.regrant; dsimp only; split <;> rfl

@[simp] theorem State.regrant_chart (s : State) : s.regrant.chart = s.chart := by
  unfold State.regrant; dsimp only; split <;> rfl

@[simp] theorem State.regrant_load (s : State) : s.regrant.load = s.load := by
  unfold State.regrant; dsimp only; split <;> rfl

@[simp] theorem State.regrant_unloadWaiting (s : State) : s.regrant.unloadWaiting = s.unloadWaiting := by
  unfold State.regrant; dsimp only; split <;> rfl

@[simp] theorem State.regrant_zeroing (s : State) : s.regrant.zeroing = s.zeroing := by
  unfold State.regrant; dsimp only; split <;> rfl

@[simp] theorem State.regrant_rings (s : State) : s.regrant.rings = s.rings := by
  unfold State.regrant; dsimp only; split <;> rfl

@[simp] theorem State.regrant_tasks (s : State) : s.regrant.tasks = s.tasks := by
  unfold State.regrant; dsimp only; split <;> rfl

@[simp] theorem State.regrant_signals (s : State) : s.regrant.signals = s.signals := by
  unfold State.regrant; dsimp only; split <;> rfl

@[simp] theorem State.regrant_jobs (s : State) : s.regrant.jobs = s.jobs := by
  unfold State.regrant; dsimp only; split <;> rfl

@[simp] theorem State.regrant_streams (s : State) : s.regrant.streams = s.streams := by
  unfold State.regrant; dsimp only; split <;> rfl

@[simp] theorem State.regrant_tables (s : State) : s.regrant.tables = s.tables := by
  unfold State.regrant; dsimp only; split <;> rfl

@[simp] theorem State.regrant_drift (s : State) : s.regrant.drift = s.drift := by
  unfold State.regrant; dsimp only; split <;> rfl

@[simp] theorem State.regrant_lanes (s : State) : s.regrant.lanes = s.lanes := by
  unfold State.regrant; dsimp only; split <;> rfl

@[simp] theorem State.regrant_corrections (s : State) : s.regrant.corrections = s.corrections := by
  unfold State.regrant; dsimp only; split <;> rfl

@[simp] theorem State.regrant_scrubbed (s : State) : s.regrant.scrubbed = s.scrubbed := by
  unfold State.regrant; dsimp only; split <;> rfl

@[simp] theorem State.regrant_bankQuiet (s : State) : s.regrant.bankQuiet = s.bankQuiet := by
  unfold State.regrant; dsimp only; split <;> rfl

@[simp] theorem State.regrant_fabric (s : State) : s.regrant.fabric = s.fabric := by
  unfold State.regrant; dsimp only; split <;> rfl

@[simp] theorem State.regrant_reductions (s : State) : s.regrant.reductions = s.reductions := by
  unfold State.regrant; dsimp only; split <;> rfl

@[simp] theorem State.regrant_combining (s : State) : s.regrant.combining = s.combining := by
  unfold State.regrant; dsimp only; split <;> rfl

@[simp] theorem State.regrant_sysreset (s : State) : s.regrant.sysreset = s.sysreset := by
  unfold State.regrant; dsimp only; split <;> rfl

@[simp] theorem State.regrant_power (s : State) : s.regrant.power = s.power := by
  unfold State.regrant; dsimp only; split <;> rfl

@[simp] theorem State.regrant_pcie (s : State) : s.regrant.pcie = s.pcie := by
  unfold State.regrant; dsimp only; split <;> rfl

@[simp] theorem State.regrant_boot (s : State) : s.regrant.boot = s.boot := by
  unfold State.regrant; dsimp only; split <;> rfl

@[simp] theorem State.regrant_binnacle (s : State) : s.regrant.binnacle = s.binnacle := by
  unfold State.regrant; dsimp only; split <;> rfl

@[simp] theorem State.regrant_silicon (s : State) : s.regrant.silicon = s.silicon := by
  unfold State.regrant; dsimp only; split <;> rfl

@[simp] theorem State.regrant_carrier (s : State) : s.regrant.carrier = s.carrier := by
  unfold State.regrant; dsimp only; split <;> rfl

@[simp] theorem State.regrant_outputs (s : State) : s.regrant.outputs = s.outputs := by
  unfold State.regrant; dsimp only; split <;> rfl

/-! ### releaseRequests -/

@[simp] theorem State.releaseRequests_pending (s : State) (sel : MemRequest → Bool) :
    (s.releaseRequests sel).pending = s.pending :=
  State.regrant_pending _

@[simp] theorem State.releaseRequests_now (s : State) (sel : MemRequest → Bool) :
    (s.releaseRequests sel).now = s.now :=
  State.regrant_now _

@[simp] theorem State.releaseRequests_free (s : State) (sel : MemRequest → Bool) :
    (s.releaseRequests sel).free = s.free :=
  State.regrant_free _

@[simp] theorem State.releaseRequests_tick (s : State) (sel : MemRequest → Bool) :
    (s.releaseRequests sel).tick = s.tick :=
  State.regrant_tick _

@[simp] theorem State.releaseRequests_boundary (s : State) (sel : MemRequest → Bool) :
    (s.releaseRequests sel).boundary = s.boundary :=
  State.regrant_boundary _

@[simp] theorem State.releaseRequests_period (s : State) (sel : MemRequest → Bool) :
    (s.releaseRequests sel).period = s.period :=
  State.regrant_period _

@[simp] theorem State.releaseRequests_mem (s : State) (sel : MemRequest → Bool) :
    (s.releaseRequests sel).mem = s.mem :=
  State.regrant_mem _

@[simp] theorem State.releaseRequests_writes (s : State) (sel : MemRequest → Bool) :
    (s.releaseRequests sel).writes = s.writes :=
  State.regrant_writes _

@[simp] theorem State.releaseRequests_eventSeq (s : State) (sel : MemRequest → Bool) :
    (s.releaseRequests sel).eventSeq = s.eventSeq :=
  State.regrant_eventSeq _

@[simp] theorem State.releaseRequests_errorSeq (s : State) (sel : MemRequest → Bool) :
    (s.releaseRequests sel).errorSeq = s.errorSeq :=
  State.regrant_errorSeq _

@[simp] theorem State.releaseRequests_chart (s : State) (sel : MemRequest → Bool) :
    (s.releaseRequests sel).chart = s.chart :=
  State.regrant_chart _

@[simp] theorem State.releaseRequests_load (s : State) (sel : MemRequest → Bool) :
    (s.releaseRequests sel).load = s.load :=
  State.regrant_load _

@[simp] theorem State.releaseRequests_unloadWaiting (s : State) (sel : MemRequest → Bool) :
    (s.releaseRequests sel).unloadWaiting = s.unloadWaiting :=
  State.regrant_unloadWaiting _

@[simp] theorem State.releaseRequests_zeroing (s : State) (sel : MemRequest → Bool) :
    (s.releaseRequests sel).zeroing = s.zeroing :=
  State.regrant_zeroing _

@[simp] theorem State.releaseRequests_rings (s : State) (sel : MemRequest → Bool) :
    (s.releaseRequests sel).rings = s.rings :=
  State.regrant_rings _

@[simp] theorem State.releaseRequests_tasks (s : State) (sel : MemRequest → Bool) :
    (s.releaseRequests sel).tasks = s.tasks :=
  State.regrant_tasks _

@[simp] theorem State.releaseRequests_signals (s : State) (sel : MemRequest → Bool) :
    (s.releaseRequests sel).signals = s.signals :=
  State.regrant_signals _

@[simp] theorem State.releaseRequests_jobs (s : State) (sel : MemRequest → Bool) :
    (s.releaseRequests sel).jobs = s.jobs :=
  State.regrant_jobs _

@[simp] theorem State.releaseRequests_streams (s : State) (sel : MemRequest → Bool) :
    (s.releaseRequests sel).streams = s.streams :=
  State.regrant_streams _

@[simp] theorem State.releaseRequests_tables (s : State) (sel : MemRequest → Bool) :
    (s.releaseRequests sel).tables = s.tables :=
  State.regrant_tables _

@[simp] theorem State.releaseRequests_drift (s : State) (sel : MemRequest → Bool) :
    (s.releaseRequests sel).drift = s.drift :=
  State.regrant_drift _

@[simp] theorem State.releaseRequests_lanes (s : State) (sel : MemRequest → Bool) :
    (s.releaseRequests sel).lanes = s.lanes :=
  State.regrant_lanes _

@[simp] theorem State.releaseRequests_corrections (s : State) (sel : MemRequest → Bool) :
    (s.releaseRequests sel).corrections = s.corrections :=
  State.regrant_corrections _

@[simp] theorem State.releaseRequests_scrubbed (s : State) (sel : MemRequest → Bool) :
    (s.releaseRequests sel).scrubbed = s.scrubbed :=
  State.regrant_scrubbed _

@[simp] theorem State.releaseRequests_bankQuiet (s : State) (sel : MemRequest → Bool) :
    (s.releaseRequests sel).bankQuiet = s.bankQuiet :=
  State.regrant_bankQuiet _

@[simp] theorem State.releaseRequests_fabric (s : State) (sel : MemRequest → Bool) :
    (s.releaseRequests sel).fabric = s.fabric :=
  State.regrant_fabric _

@[simp] theorem State.releaseRequests_reductions (s : State) (sel : MemRequest → Bool) :
    (s.releaseRequests sel).reductions = s.reductions :=
  State.regrant_reductions _

@[simp] theorem State.releaseRequests_combining (s : State) (sel : MemRequest → Bool) :
    (s.releaseRequests sel).combining = s.combining :=
  State.regrant_combining _

@[simp] theorem State.releaseRequests_sysreset (s : State) (sel : MemRequest → Bool) :
    (s.releaseRequests sel).sysreset = s.sysreset :=
  State.regrant_sysreset _

@[simp] theorem State.releaseRequests_power (s : State) (sel : MemRequest → Bool) :
    (s.releaseRequests sel).power = s.power :=
  State.regrant_power _

@[simp] theorem State.releaseRequests_pcie (s : State) (sel : MemRequest → Bool) :
    (s.releaseRequests sel).pcie = s.pcie :=
  State.regrant_pcie _

@[simp] theorem State.releaseRequests_boot (s : State) (sel : MemRequest → Bool) :
    (s.releaseRequests sel).boot = s.boot :=
  State.regrant_boot _

@[simp] theorem State.releaseRequests_binnacle (s : State) (sel : MemRequest → Bool) :
    (s.releaseRequests sel).binnacle = s.binnacle :=
  State.regrant_binnacle _

@[simp] theorem State.releaseRequests_silicon (s : State) (sel : MemRequest → Bool) :
    (s.releaseRequests sel).silicon = s.silicon :=
  State.regrant_silicon _

@[simp] theorem State.releaseRequests_carrier (s : State) (sel : MemRequest → Bool) :
    (s.releaseRequests sel).carrier = s.carrier :=
  State.regrant_carrier _

@[simp] theorem State.releaseRequests_outputs (s : State) (sel : MemRequest → Bool) :
    (s.releaseRequests sel).outputs = s.outputs :=
  State.regrant_outputs _

/-! ### closeStreams -/

@[simp] theorem State.closeStreams_pending (s : State) (sel : Stream → Bool) :
    (s.closeStreams sel).pending = s.pending := by
  unfold State.closeStreams; dsimp only; split
  · rfl
  · exact State.releaseRequests_pending _ _

@[simp] theorem State.closeStreams_now (s : State) (sel : Stream → Bool) :
    (s.closeStreams sel).now = s.now := by
  unfold State.closeStreams; dsimp only; split
  · rfl
  · exact State.releaseRequests_now _ _

@[simp] theorem State.closeStreams_free (s : State) (sel : Stream → Bool) :
    (s.closeStreams sel).free = s.free := by
  unfold State.closeStreams; dsimp only; split
  · rfl
  · exact State.releaseRequests_free _ _

@[simp] theorem State.closeStreams_tick (s : State) (sel : Stream → Bool) :
    (s.closeStreams sel).tick = s.tick := by
  unfold State.closeStreams; dsimp only; split
  · rfl
  · exact State.releaseRequests_tick _ _

@[simp] theorem State.closeStreams_boundary (s : State) (sel : Stream → Bool) :
    (s.closeStreams sel).boundary = s.boundary := by
  unfold State.closeStreams; dsimp only; split
  · rfl
  · exact State.releaseRequests_boundary _ _

@[simp] theorem State.closeStreams_period (s : State) (sel : Stream → Bool) :
    (s.closeStreams sel).period = s.period := by
  unfold State.closeStreams; dsimp only; split
  · rfl
  · exact State.releaseRequests_period _ _

@[simp] theorem State.closeStreams_mem (s : State) (sel : Stream → Bool) :
    (s.closeStreams sel).mem = s.mem := by
  unfold State.closeStreams; dsimp only; split
  · rfl
  · exact State.releaseRequests_mem _ _

@[simp] theorem State.closeStreams_writes (s : State) (sel : Stream → Bool) :
    (s.closeStreams sel).writes = s.writes := by
  unfold State.closeStreams; dsimp only; split
  · rfl
  · exact State.releaseRequests_writes _ _

@[simp] theorem State.closeStreams_eventSeq (s : State) (sel : Stream → Bool) :
    (s.closeStreams sel).eventSeq = s.eventSeq := by
  unfold State.closeStreams; dsimp only; split
  · rfl
  · exact State.releaseRequests_eventSeq _ _

@[simp] theorem State.closeStreams_errorSeq (s : State) (sel : Stream → Bool) :
    (s.closeStreams sel).errorSeq = s.errorSeq := by
  unfold State.closeStreams; dsimp only; split
  · rfl
  · exact State.releaseRequests_errorSeq _ _

@[simp] theorem State.closeStreams_chart (s : State) (sel : Stream → Bool) :
    (s.closeStreams sel).chart = s.chart := by
  unfold State.closeStreams; dsimp only; split
  · rfl
  · exact State.releaseRequests_chart _ _

@[simp] theorem State.closeStreams_load (s : State) (sel : Stream → Bool) :
    (s.closeStreams sel).load = s.load := by
  unfold State.closeStreams; dsimp only; split
  · rfl
  · exact State.releaseRequests_load _ _

@[simp] theorem State.closeStreams_unloadWaiting (s : State) (sel : Stream → Bool) :
    (s.closeStreams sel).unloadWaiting = s.unloadWaiting := by
  unfold State.closeStreams; dsimp only; split
  · rfl
  · exact State.releaseRequests_unloadWaiting _ _

@[simp] theorem State.closeStreams_zeroing (s : State) (sel : Stream → Bool) :
    (s.closeStreams sel).zeroing = s.zeroing := by
  unfold State.closeStreams; dsimp only; split
  · rfl
  · exact State.releaseRequests_zeroing _ _

@[simp] theorem State.closeStreams_rings (s : State) (sel : Stream → Bool) :
    (s.closeStreams sel).rings = s.rings := by
  unfold State.closeStreams; dsimp only; split
  · rfl
  · exact State.releaseRequests_rings _ _

@[simp] theorem State.closeStreams_tasks (s : State) (sel : Stream → Bool) :
    (s.closeStreams sel).tasks = s.tasks := by
  unfold State.closeStreams; dsimp only; split
  · rfl
  · exact State.releaseRequests_tasks _ _

@[simp] theorem State.closeStreams_signals (s : State) (sel : Stream → Bool) :
    (s.closeStreams sel).signals = s.signals := by
  unfold State.closeStreams; dsimp only; split
  · rfl
  · exact State.releaseRequests_signals _ _

@[simp] theorem State.closeStreams_jobs (s : State) (sel : Stream → Bool) :
    (s.closeStreams sel).jobs = s.jobs := by
  unfold State.closeStreams; dsimp only; split
  · rfl
  · exact State.releaseRequests_jobs _ _

@[simp] theorem State.closeStreams_tables (s : State) (sel : Stream → Bool) :
    (s.closeStreams sel).tables = s.tables := by
  unfold State.closeStreams; dsimp only; split
  · rfl
  · exact State.releaseRequests_tables _ _

@[simp] theorem State.closeStreams_drift (s : State) (sel : Stream → Bool) :
    (s.closeStreams sel).drift = s.drift := by
  unfold State.closeStreams; dsimp only; split
  · rfl
  · exact State.releaseRequests_drift _ _

@[simp] theorem State.closeStreams_lanes (s : State) (sel : Stream → Bool) :
    (s.closeStreams sel).lanes = s.lanes := by
  unfold State.closeStreams; dsimp only; split
  · rfl
  · exact State.releaseRequests_lanes _ _

@[simp] theorem State.closeStreams_corrections (s : State) (sel : Stream → Bool) :
    (s.closeStreams sel).corrections = s.corrections := by
  unfold State.closeStreams; dsimp only; split
  · rfl
  · exact State.releaseRequests_corrections _ _

@[simp] theorem State.closeStreams_scrubbed (s : State) (sel : Stream → Bool) :
    (s.closeStreams sel).scrubbed = s.scrubbed := by
  unfold State.closeStreams; dsimp only; split
  · rfl
  · exact State.releaseRequests_scrubbed _ _

@[simp] theorem State.closeStreams_bankQuiet (s : State) (sel : Stream → Bool) :
    (s.closeStreams sel).bankQuiet = s.bankQuiet := by
  unfold State.closeStreams; dsimp only; split
  · rfl
  · exact State.releaseRequests_bankQuiet _ _

@[simp] theorem State.closeStreams_reductions (s : State) (sel : Stream → Bool) :
    (s.closeStreams sel).reductions = s.reductions := by
  unfold State.closeStreams; dsimp only; split
  · rfl
  · exact State.releaseRequests_reductions _ _

@[simp] theorem State.closeStreams_combining (s : State) (sel : Stream → Bool) :
    (s.closeStreams sel).combining = s.combining := by
  unfold State.closeStreams; dsimp only; split
  · rfl
  · exact State.releaseRequests_combining _ _

@[simp] theorem State.closeStreams_sysreset (s : State) (sel : Stream → Bool) :
    (s.closeStreams sel).sysreset = s.sysreset := by
  unfold State.closeStreams; dsimp only; split
  · rfl
  · exact State.releaseRequests_sysreset _ _

@[simp] theorem State.closeStreams_power (s : State) (sel : Stream → Bool) :
    (s.closeStreams sel).power = s.power := by
  unfold State.closeStreams; dsimp only; split
  · rfl
  · exact State.releaseRequests_power _ _

@[simp] theorem State.closeStreams_pcie (s : State) (sel : Stream → Bool) :
    (s.closeStreams sel).pcie = s.pcie := by
  unfold State.closeStreams; dsimp only; split
  · rfl
  · exact State.releaseRequests_pcie _ _

@[simp] theorem State.closeStreams_boot (s : State) (sel : Stream → Bool) :
    (s.closeStreams sel).boot = s.boot := by
  unfold State.closeStreams; dsimp only; split
  · rfl
  · exact State.releaseRequests_boot _ _

@[simp] theorem State.closeStreams_binnacle (s : State) (sel : Stream → Bool) :
    (s.closeStreams sel).binnacle = s.binnacle := by
  unfold State.closeStreams; dsimp only; split
  · rfl
  · exact State.releaseRequests_binnacle _ _

@[simp] theorem State.closeStreams_silicon (s : State) (sel : Stream → Bool) :
    (s.closeStreams sel).silicon = s.silicon := by
  unfold State.closeStreams; dsimp only; split
  · rfl
  · exact State.releaseRequests_silicon _ _

@[simp] theorem State.closeStreams_carrier (s : State) (sel : Stream → Bool) :
    (s.closeStreams sel).carrier = s.carrier := by
  unfold State.closeStreams; dsimp only; split
  · rfl
  · exact State.releaseRequests_carrier _ _

@[simp] theorem State.closeStreams_outputs (s : State) (sel : Stream → Bool) :
    (s.closeStreams sel).outputs = s.outputs := by
  unfold State.closeStreams; dsimp only; split
  · rfl
  · exact State.releaseRequests_outputs _ _

/-! ### setMsix -/

@[simp] theorem State.setMsix_pending (s : State) (e : MsixEntry) : (s.setMsix e).pending = s.pending := rfl

@[simp] theorem State.setMsix_now (s : State) (e : MsixEntry) : (s.setMsix e).now = s.now := rfl

@[simp] theorem State.setMsix_free (s : State) (e : MsixEntry) : (s.setMsix e).free = s.free := rfl

@[simp] theorem State.setMsix_tick (s : State) (e : MsixEntry) : (s.setMsix e).tick = s.tick := rfl

@[simp] theorem State.setMsix_boundary (s : State) (e : MsixEntry) : (s.setMsix e).boundary = s.boundary := rfl

@[simp] theorem State.setMsix_period (s : State) (e : MsixEntry) : (s.setMsix e).period = s.period := rfl

@[simp] theorem State.setMsix_mem (s : State) (e : MsixEntry) : (s.setMsix e).mem = s.mem := rfl

@[simp] theorem State.setMsix_writes (s : State) (e : MsixEntry) : (s.setMsix e).writes = s.writes := rfl

@[simp] theorem State.setMsix_regs (s : State) (e : MsixEntry) : (s.setMsix e).regs = s.regs := rfl

@[simp] theorem State.setMsix_eventSeq (s : State) (e : MsixEntry) : (s.setMsix e).eventSeq = s.eventSeq := rfl

@[simp] theorem State.setMsix_errorSeq (s : State) (e : MsixEntry) : (s.setMsix e).errorSeq = s.errorSeq := rfl

@[simp] theorem State.setMsix_chart (s : State) (e : MsixEntry) : (s.setMsix e).chart = s.chart := rfl

@[simp] theorem State.setMsix_load (s : State) (e : MsixEntry) : (s.setMsix e).load = s.load := rfl

@[simp] theorem State.setMsix_unloadWaiting (s : State) (e : MsixEntry) :
    (s.setMsix e).unloadWaiting = s.unloadWaiting := rfl

@[simp] theorem State.setMsix_zeroing (s : State) (e : MsixEntry) : (s.setMsix e).zeroing = s.zeroing := rfl

@[simp] theorem State.setMsix_rings (s : State) (e : MsixEntry) : (s.setMsix e).rings = s.rings := rfl

@[simp] theorem State.setMsix_tasks (s : State) (e : MsixEntry) : (s.setMsix e).tasks = s.tasks := rfl

@[simp] theorem State.setMsix_signals (s : State) (e : MsixEntry) : (s.setMsix e).signals = s.signals := rfl

@[simp] theorem State.setMsix_jobs (s : State) (e : MsixEntry) : (s.setMsix e).jobs = s.jobs := rfl

@[simp] theorem State.setMsix_streams (s : State) (e : MsixEntry) : (s.setMsix e).streams = s.streams := rfl

@[simp] theorem State.setMsix_memQueue (s : State) (e : MsixEntry) : (s.setMsix e).memQueue = s.memQueue := rfl

@[simp] theorem State.setMsix_tables (s : State) (e : MsixEntry) : (s.setMsix e).tables = s.tables := rfl

@[simp] theorem State.setMsix_drift (s : State) (e : MsixEntry) : (s.setMsix e).drift = s.drift := rfl

@[simp] theorem State.setMsix_lanes (s : State) (e : MsixEntry) : (s.setMsix e).lanes = s.lanes := rfl

@[simp] theorem State.setMsix_corrections (s : State) (e : MsixEntry) :
    (s.setMsix e).corrections = s.corrections := rfl

@[simp] theorem State.setMsix_scrubbed (s : State) (e : MsixEntry) : (s.setMsix e).scrubbed = s.scrubbed := rfl

@[simp] theorem State.setMsix_bankQuiet (s : State) (e : MsixEntry) : (s.setMsix e).bankQuiet = s.bankQuiet := rfl

@[simp] theorem State.setMsix_fabric (s : State) (e : MsixEntry) : (s.setMsix e).fabric = s.fabric := rfl

@[simp] theorem State.setMsix_reductions (s : State) (e : MsixEntry) : (s.setMsix e).reductions = s.reductions := rfl

@[simp] theorem State.setMsix_combining (s : State) (e : MsixEntry) : (s.setMsix e).combining = s.combining := rfl

@[simp] theorem State.setMsix_sysreset (s : State) (e : MsixEntry) : (s.setMsix e).sysreset = s.sysreset := rfl

@[simp] theorem State.setMsix_power (s : State) (e : MsixEntry) : (s.setMsix e).power = s.power := rfl

@[simp] theorem State.setMsix_boot (s : State) (e : MsixEntry) : (s.setMsix e).boot = s.boot := rfl

@[simp] theorem State.setMsix_binnacle (s : State) (e : MsixEntry) : (s.setMsix e).binnacle = s.binnacle := rfl

@[simp] theorem State.setMsix_silicon (s : State) (e : MsixEntry) : (s.setMsix e).silicon = s.silicon := rfl

@[simp] theorem State.setMsix_carrier (s : State) (e : MsixEntry) : (s.setMsix e).carrier = s.carrier := rfl

@[simp] theorem State.setMsix_outputs (s : State) (e : MsixEntry) : (s.setMsix e).outputs = s.outputs := rfl

/-! ### sendVector -/

@[simp] theorem State.sendVector_pending (s : State) (v : Nat) : (s.sendVector v).pending = s.pending := rfl

@[simp] theorem State.sendVector_now (s : State) (v : Nat) : (s.sendVector v).now = s.now := rfl

@[simp] theorem State.sendVector_free (s : State) (v : Nat) : (s.sendVector v).free = s.free := rfl

@[simp] theorem State.sendVector_tick (s : State) (v : Nat) : (s.sendVector v).tick = s.tick := rfl

@[simp] theorem State.sendVector_boundary (s : State) (v : Nat) : (s.sendVector v).boundary = s.boundary := rfl

@[simp] theorem State.sendVector_period (s : State) (v : Nat) : (s.sendVector v).period = s.period := rfl

@[simp] theorem State.sendVector_mem (s : State) (v : Nat) : (s.sendVector v).mem = s.mem := rfl

@[simp] theorem State.sendVector_writes (s : State) (v : Nat) : (s.sendVector v).writes = s.writes := rfl

@[simp] theorem State.sendVector_regs (s : State) (v : Nat) : (s.sendVector v).regs = s.regs := rfl

@[simp] theorem State.sendVector_eventSeq (s : State) (v : Nat) : (s.sendVector v).eventSeq = s.eventSeq := rfl

@[simp] theorem State.sendVector_errorSeq (s : State) (v : Nat) : (s.sendVector v).errorSeq = s.errorSeq := rfl

@[simp] theorem State.sendVector_chart (s : State) (v : Nat) : (s.sendVector v).chart = s.chart := rfl

@[simp] theorem State.sendVector_load (s : State) (v : Nat) : (s.sendVector v).load = s.load := rfl

@[simp] theorem State.sendVector_unloadWaiting (s : State) (v : Nat) :
    (s.sendVector v).unloadWaiting = s.unloadWaiting := rfl

@[simp] theorem State.sendVector_zeroing (s : State) (v : Nat) : (s.sendVector v).zeroing = s.zeroing := rfl

@[simp] theorem State.sendVector_rings (s : State) (v : Nat) : (s.sendVector v).rings = s.rings := rfl

@[simp] theorem State.sendVector_tasks (s : State) (v : Nat) : (s.sendVector v).tasks = s.tasks := rfl

@[simp] theorem State.sendVector_signals (s : State) (v : Nat) : (s.sendVector v).signals = s.signals := rfl

@[simp] theorem State.sendVector_jobs (s : State) (v : Nat) : (s.sendVector v).jobs = s.jobs := rfl

@[simp] theorem State.sendVector_streams (s : State) (v : Nat) : (s.sendVector v).streams = s.streams := rfl

@[simp] theorem State.sendVector_memQueue (s : State) (v : Nat) : (s.sendVector v).memQueue = s.memQueue := rfl

@[simp] theorem State.sendVector_tables (s : State) (v : Nat) : (s.sendVector v).tables = s.tables := rfl

@[simp] theorem State.sendVector_drift (s : State) (v : Nat) : (s.sendVector v).drift = s.drift := rfl

@[simp] theorem State.sendVector_lanes (s : State) (v : Nat) : (s.sendVector v).lanes = s.lanes := rfl

@[simp] theorem State.sendVector_corrections (s : State) (v : Nat) :
    (s.sendVector v).corrections = s.corrections := rfl

@[simp] theorem State.sendVector_scrubbed (s : State) (v : Nat) : (s.sendVector v).scrubbed = s.scrubbed := rfl

@[simp] theorem State.sendVector_bankQuiet (s : State) (v : Nat) : (s.sendVector v).bankQuiet = s.bankQuiet := rfl

@[simp] theorem State.sendVector_fabric (s : State) (v : Nat) : (s.sendVector v).fabric = s.fabric := rfl

@[simp] theorem State.sendVector_reductions (s : State) (v : Nat) : (s.sendVector v).reductions = s.reductions := rfl

@[simp] theorem State.sendVector_combining (s : State) (v : Nat) : (s.sendVector v).combining = s.combining := rfl

@[simp] theorem State.sendVector_sysreset (s : State) (v : Nat) : (s.sendVector v).sysreset = s.sysreset := rfl

@[simp] theorem State.sendVector_power (s : State) (v : Nat) : (s.sendVector v).power = s.power := rfl

@[simp] theorem State.sendVector_boot (s : State) (v : Nat) : (s.sendVector v).boot = s.boot := rfl

@[simp] theorem State.sendVector_binnacle (s : State) (v : Nat) : (s.sendVector v).binnacle = s.binnacle := rfl

@[simp] theorem State.sendVector_silicon (s : State) (v : Nat) : (s.sendVector v).silicon = s.silicon := rfl

@[simp] theorem State.sendVector_carrier (s : State) (v : Nat) : (s.sendVector v).carrier = s.carrier := rfl

/-! ### raiseVector -/

@[simp] theorem State.raiseVector_pending (s : State) (v : Nat) : (s.raiseVector v).pending = s.pending := by
  unfold State.raiseVector; split; · rfl
  split <;> rfl

@[simp] theorem State.raiseVector_now (s : State) (v : Nat) : (s.raiseVector v).now = s.now := by
  unfold State.raiseVector; split; · rfl
  split <;> rfl

@[simp] theorem State.raiseVector_free (s : State) (v : Nat) : (s.raiseVector v).free = s.free := by
  unfold State.raiseVector; split; · rfl
  split <;> rfl

@[simp] theorem State.raiseVector_tick (s : State) (v : Nat) : (s.raiseVector v).tick = s.tick := by
  unfold State.raiseVector; split; · rfl
  split <;> rfl

@[simp] theorem State.raiseVector_boundary (s : State) (v : Nat) : (s.raiseVector v).boundary = s.boundary := by
  unfold State.raiseVector; split; · rfl
  split <;> rfl

@[simp] theorem State.raiseVector_period (s : State) (v : Nat) : (s.raiseVector v).period = s.period := by
  unfold State.raiseVector; split; · rfl
  split <;> rfl

@[simp] theorem State.raiseVector_mem (s : State) (v : Nat) : (s.raiseVector v).mem = s.mem := by
  unfold State.raiseVector; split; · rfl
  split <;> rfl

@[simp] theorem State.raiseVector_writes (s : State) (v : Nat) : (s.raiseVector v).writes = s.writes := by
  unfold State.raiseVector; split; · rfl
  split <;> rfl

@[simp] theorem State.raiseVector_regs (s : State) (v : Nat) : (s.raiseVector v).regs = s.regs := by
  unfold State.raiseVector; split; · rfl
  split <;> rfl

@[simp] theorem State.raiseVector_eventSeq (s : State) (v : Nat) : (s.raiseVector v).eventSeq = s.eventSeq := by
  unfold State.raiseVector; split; · rfl
  split <;> rfl

@[simp] theorem State.raiseVector_errorSeq (s : State) (v : Nat) : (s.raiseVector v).errorSeq = s.errorSeq := by
  unfold State.raiseVector; split; · rfl
  split <;> rfl

@[simp] theorem State.raiseVector_chart (s : State) (v : Nat) : (s.raiseVector v).chart = s.chart := by
  unfold State.raiseVector; split; · rfl
  split <;> rfl

@[simp] theorem State.raiseVector_load (s : State) (v : Nat) : (s.raiseVector v).load = s.load := by
  unfold State.raiseVector; split; · rfl
  split <;> rfl

@[simp] theorem State.raiseVector_unloadWaiting (s : State) (v : Nat) :
    (s.raiseVector v).unloadWaiting = s.unloadWaiting := by
  unfold State.raiseVector; split; · rfl
  split <;> rfl

@[simp] theorem State.raiseVector_zeroing (s : State) (v : Nat) : (s.raiseVector v).zeroing = s.zeroing := by
  unfold State.raiseVector; split; · rfl
  split <;> rfl

@[simp] theorem State.raiseVector_rings (s : State) (v : Nat) : (s.raiseVector v).rings = s.rings := by
  unfold State.raiseVector; split; · rfl
  split <;> rfl

@[simp] theorem State.raiseVector_tasks (s : State) (v : Nat) : (s.raiseVector v).tasks = s.tasks := by
  unfold State.raiseVector; split; · rfl
  split <;> rfl

@[simp] theorem State.raiseVector_signals (s : State) (v : Nat) : (s.raiseVector v).signals = s.signals := by
  unfold State.raiseVector; split; · rfl
  split <;> rfl

@[simp] theorem State.raiseVector_jobs (s : State) (v : Nat) : (s.raiseVector v).jobs = s.jobs := by
  unfold State.raiseVector; split; · rfl
  split <;> rfl

@[simp] theorem State.raiseVector_streams (s : State) (v : Nat) : (s.raiseVector v).streams = s.streams := by
  unfold State.raiseVector; split; · rfl
  split <;> rfl

@[simp] theorem State.raiseVector_memQueue (s : State) (v : Nat) : (s.raiseVector v).memQueue = s.memQueue := by
  unfold State.raiseVector; split; · rfl
  split <;> rfl

@[simp] theorem State.raiseVector_tables (s : State) (v : Nat) : (s.raiseVector v).tables = s.tables := by
  unfold State.raiseVector; split; · rfl
  split <;> rfl

@[simp] theorem State.raiseVector_drift (s : State) (v : Nat) : (s.raiseVector v).drift = s.drift := by
  unfold State.raiseVector; split; · rfl
  split <;> rfl

@[simp] theorem State.raiseVector_lanes (s : State) (v : Nat) : (s.raiseVector v).lanes = s.lanes := by
  unfold State.raiseVector; split; · rfl
  split <;> rfl

@[simp] theorem State.raiseVector_corrections (s : State) (v : Nat) :
    (s.raiseVector v).corrections = s.corrections := by
  unfold State.raiseVector; split; · rfl
  split <;> rfl

@[simp] theorem State.raiseVector_scrubbed (s : State) (v : Nat) : (s.raiseVector v).scrubbed = s.scrubbed := by
  unfold State.raiseVector; split; · rfl
  split <;> rfl

@[simp] theorem State.raiseVector_bankQuiet (s : State) (v : Nat) : (s.raiseVector v).bankQuiet = s.bankQuiet := by
  unfold State.raiseVector; split; · rfl
  split <;> rfl

@[simp] theorem State.raiseVector_fabric (s : State) (v : Nat) : (s.raiseVector v).fabric = s.fabric := by
  unfold State.raiseVector; split; · rfl
  split <;> rfl

@[simp] theorem State.raiseVector_reductions (s : State) (v : Nat) : (s.raiseVector v).reductions = s.reductions := by
  unfold State.raiseVector; split; · rfl
  split <;> rfl

@[simp] theorem State.raiseVector_combining (s : State) (v : Nat) : (s.raiseVector v).combining = s.combining := by
  unfold State.raiseVector; split; · rfl
  split <;> rfl

@[simp] theorem State.raiseVector_sysreset (s : State) (v : Nat) : (s.raiseVector v).sysreset = s.sysreset := by
  unfold State.raiseVector; split; · rfl
  split <;> rfl

@[simp] theorem State.raiseVector_power (s : State) (v : Nat) : (s.raiseVector v).power = s.power := by
  unfold State.raiseVector; split; · rfl
  split <;> rfl

@[simp] theorem State.raiseVector_boot (s : State) (v : Nat) : (s.raiseVector v).boot = s.boot := by
  unfold State.raiseVector; split; · rfl
  split <;> rfl

@[simp] theorem State.raiseVector_binnacle (s : State) (v : Nat) : (s.raiseVector v).binnacle = s.binnacle := by
  unfold State.raiseVector; split; · rfl
  split <;> rfl

@[simp] theorem State.raiseVector_silicon (s : State) (v : Nat) : (s.raiseVector v).silicon = s.silicon := by
  unfold State.raiseVector; split; · rfl
  split <;> rfl

@[simp] theorem State.raiseVector_carrier (s : State) (v : Nat) : (s.raiseVector v).carrier = s.carrier := by
  unfold State.raiseVector; split; · rfl
  split <;> rfl

/-! ### eventRing -/

@[simp] theorem State.eventRing_pending (s : State) (f : Field) (unit arg0 arg1 : Nat) :
    (s.eventRing f unit arg0 arg1).pending = s.pending := by
  unfold State.eventRing; dsimp only; split; · rfl
  split; · rfl
  exact State.raiseVector_pending _ _

@[simp] theorem State.eventRing_now (s : State) (f : Field) (unit arg0 arg1 : Nat) :
    (s.eventRing f unit arg0 arg1).now = s.now := by
  unfold State.eventRing; dsimp only; split; · rfl
  split; · rfl
  exact State.raiseVector_now _ _

@[simp] theorem State.eventRing_free (s : State) (f : Field) (unit arg0 arg1 : Nat) :
    (s.eventRing f unit arg0 arg1).free = s.free := by
  unfold State.eventRing; dsimp only; split; · rfl
  split; · rfl
  exact State.raiseVector_free _ _

@[simp] theorem State.eventRing_tick (s : State) (f : Field) (unit arg0 arg1 : Nat) :
    (s.eventRing f unit arg0 arg1).tick = s.tick := by
  unfold State.eventRing; dsimp only; split; · rfl
  split; · rfl
  exact State.raiseVector_tick _ _

@[simp] theorem State.eventRing_boundary (s : State) (f : Field) (unit arg0 arg1 : Nat) :
    (s.eventRing f unit arg0 arg1).boundary = s.boundary := by
  unfold State.eventRing; dsimp only; split; · rfl
  split; · rfl
  exact State.raiseVector_boundary _ _

@[simp] theorem State.eventRing_period (s : State) (f : Field) (unit arg0 arg1 : Nat) :
    (s.eventRing f unit arg0 arg1).period = s.period := by
  unfold State.eventRing; dsimp only; split; · rfl
  split; · rfl
  exact State.raiseVector_period _ _

@[simp] theorem State.eventRing_errorSeq (s : State) (f : Field) (unit arg0 arg1 : Nat) :
    (s.eventRing f unit arg0 arg1).errorSeq = s.errorSeq := by
  unfold State.eventRing; dsimp only; split; · rfl
  split; · rfl
  exact State.raiseVector_errorSeq _ _

@[simp] theorem State.eventRing_chart (s : State) (f : Field) (unit arg0 arg1 : Nat) :
    (s.eventRing f unit arg0 arg1).chart = s.chart := by
  unfold State.eventRing; dsimp only; split; · rfl
  split; · rfl
  exact State.raiseVector_chart _ _

@[simp] theorem State.eventRing_load (s : State) (f : Field) (unit arg0 arg1 : Nat) :
    (s.eventRing f unit arg0 arg1).load = s.load := by
  unfold State.eventRing; dsimp only; split; · rfl
  split; · rfl
  exact State.raiseVector_load _ _

@[simp] theorem State.eventRing_unloadWaiting (s : State) (f : Field) (unit arg0 arg1 : Nat) :
    (s.eventRing f unit arg0 arg1).unloadWaiting = s.unloadWaiting := by
  unfold State.eventRing; dsimp only; split; · rfl
  split; · rfl
  exact State.raiseVector_unloadWaiting _ _

@[simp] theorem State.eventRing_zeroing (s : State) (f : Field) (unit arg0 arg1 : Nat) :
    (s.eventRing f unit arg0 arg1).zeroing = s.zeroing := by
  unfold State.eventRing; dsimp only; split; · rfl
  split; · rfl
  exact State.raiseVector_zeroing _ _

@[simp] theorem State.eventRing_rings (s : State) (f : Field) (unit arg0 arg1 : Nat) :
    (s.eventRing f unit arg0 arg1).rings = s.rings := by
  unfold State.eventRing; dsimp only; split; · rfl
  split; · rfl
  exact State.raiseVector_rings _ _

@[simp] theorem State.eventRing_tasks (s : State) (f : Field) (unit arg0 arg1 : Nat) :
    (s.eventRing f unit arg0 arg1).tasks = s.tasks := by
  unfold State.eventRing; dsimp only; split; · rfl
  split; · rfl
  exact State.raiseVector_tasks _ _

@[simp] theorem State.eventRing_signals (s : State) (f : Field) (unit arg0 arg1 : Nat) :
    (s.eventRing f unit arg0 arg1).signals = s.signals := by
  unfold State.eventRing; dsimp only; split; · rfl
  split; · rfl
  exact State.raiseVector_signals _ _

@[simp] theorem State.eventRing_jobs (s : State) (f : Field) (unit arg0 arg1 : Nat) :
    (s.eventRing f unit arg0 arg1).jobs = s.jobs := by
  unfold State.eventRing; dsimp only; split; · rfl
  split; · rfl
  exact State.raiseVector_jobs _ _

@[simp] theorem State.eventRing_streams (s : State) (f : Field) (unit arg0 arg1 : Nat) :
    (s.eventRing f unit arg0 arg1).streams = s.streams := by
  unfold State.eventRing; dsimp only; split; · rfl
  split; · rfl
  exact State.raiseVector_streams _ _

@[simp] theorem State.eventRing_memQueue (s : State) (f : Field) (unit arg0 arg1 : Nat) :
    (s.eventRing f unit arg0 arg1).memQueue = s.memQueue := by
  unfold State.eventRing; dsimp only; split; · rfl
  split; · rfl
  exact State.raiseVector_memQueue _ _

@[simp] theorem State.eventRing_tables (s : State) (f : Field) (unit arg0 arg1 : Nat) :
    (s.eventRing f unit arg0 arg1).tables = s.tables := by
  unfold State.eventRing; dsimp only; split; · rfl
  split; · rfl
  exact State.raiseVector_tables _ _

@[simp] theorem State.eventRing_drift (s : State) (f : Field) (unit arg0 arg1 : Nat) :
    (s.eventRing f unit arg0 arg1).drift = s.drift := by
  unfold State.eventRing; dsimp only; split; · rfl
  split; · rfl
  exact State.raiseVector_drift _ _

@[simp] theorem State.eventRing_lanes (s : State) (f : Field) (unit arg0 arg1 : Nat) :
    (s.eventRing f unit arg0 arg1).lanes = s.lanes := by
  unfold State.eventRing; dsimp only; split; · rfl
  split; · rfl
  exact State.raiseVector_lanes _ _

@[simp] theorem State.eventRing_corrections (s : State) (f : Field) (unit arg0 arg1 : Nat) :
    (s.eventRing f unit arg0 arg1).corrections = s.corrections := by
  unfold State.eventRing; dsimp only; split; · rfl
  split; · rfl
  exact State.raiseVector_corrections _ _

@[simp] theorem State.eventRing_scrubbed (s : State) (f : Field) (unit arg0 arg1 : Nat) :
    (s.eventRing f unit arg0 arg1).scrubbed = s.scrubbed := by
  unfold State.eventRing; dsimp only; split; · rfl
  split; · rfl
  exact State.raiseVector_scrubbed _ _

@[simp] theorem State.eventRing_bankQuiet (s : State) (f : Field) (unit arg0 arg1 : Nat) :
    (s.eventRing f unit arg0 arg1).bankQuiet = s.bankQuiet := by
  unfold State.eventRing; dsimp only; split; · rfl
  split; · rfl
  exact State.raiseVector_bankQuiet _ _

@[simp] theorem State.eventRing_fabric (s : State) (f : Field) (unit arg0 arg1 : Nat) :
    (s.eventRing f unit arg0 arg1).fabric = s.fabric := by
  unfold State.eventRing; dsimp only; split; · rfl
  split; · rfl
  exact State.raiseVector_fabric _ _

@[simp] theorem State.eventRing_reductions (s : State) (f : Field) (unit arg0 arg1 : Nat) :
    (s.eventRing f unit arg0 arg1).reductions = s.reductions := by
  unfold State.eventRing; dsimp only; split; · rfl
  split; · rfl
  exact State.raiseVector_reductions _ _

@[simp] theorem State.eventRing_combining (s : State) (f : Field) (unit arg0 arg1 : Nat) :
    (s.eventRing f unit arg0 arg1).combining = s.combining := by
  unfold State.eventRing; dsimp only; split; · rfl
  split; · rfl
  exact State.raiseVector_combining _ _

@[simp] theorem State.eventRing_sysreset (s : State) (f : Field) (unit arg0 arg1 : Nat) :
    (s.eventRing f unit arg0 arg1).sysreset = s.sysreset := by
  unfold State.eventRing; dsimp only; split; · rfl
  split; · rfl
  exact State.raiseVector_sysreset _ _

@[simp] theorem State.eventRing_power (s : State) (f : Field) (unit arg0 arg1 : Nat) :
    (s.eventRing f unit arg0 arg1).power = s.power := by
  unfold State.eventRing; dsimp only; split; · rfl
  split; · rfl
  exact State.raiseVector_power _ _

@[simp] theorem State.eventRing_boot (s : State) (f : Field) (unit arg0 arg1 : Nat) :
    (s.eventRing f unit arg0 arg1).boot = s.boot := by
  unfold State.eventRing; dsimp only; split; · rfl
  split; · rfl
  exact State.raiseVector_boot _ _

@[simp] theorem State.eventRing_binnacle (s : State) (f : Field) (unit arg0 arg1 : Nat) :
    (s.eventRing f unit arg0 arg1).binnacle = s.binnacle := by
  unfold State.eventRing; dsimp only; split; · rfl
  split; · rfl
  exact State.raiseVector_binnacle _ _

@[simp] theorem State.eventRing_silicon (s : State) (f : Field) (unit arg0 arg1 : Nat) :
    (s.eventRing f unit arg0 arg1).silicon = s.silicon := by
  unfold State.eventRing; dsimp only; split; · rfl
  split; · rfl
  exact State.raiseVector_silicon _ _

@[simp] theorem State.eventRing_carrier (s : State) (f : Field) (unit arg0 arg1 : Nat) :
    (s.eventRing f unit arg0 arg1).carrier = s.carrier := by
  unfold State.eventRing; dsimp only; split; · rfl
  split; · rfl
  exact State.raiseVector_carrier _ _

/-! ### post -/

@[simp] theorem State.post_pending (s : State) (f : Field) (unit arg0 arg1 : Nat) :
    (s.post f unit arg0 arg1).pending = s.pending := by
  simp [State.post]

@[simp] theorem State.post_now (s : State) (f : Field) (unit arg0 arg1 : Nat) :
    (s.post f unit arg0 arg1).now = s.now := by
  simp [State.post]

@[simp] theorem State.post_free (s : State) (f : Field) (unit arg0 arg1 : Nat) :
    (s.post f unit arg0 arg1).free = s.free := by
  simp [State.post]

@[simp] theorem State.post_tick (s : State) (f : Field) (unit arg0 arg1 : Nat) :
    (s.post f unit arg0 arg1).tick = s.tick := by
  simp [State.post]

@[simp] theorem State.post_boundary (s : State) (f : Field) (unit arg0 arg1 : Nat) :
    (s.post f unit arg0 arg1).boundary = s.boundary := by
  simp [State.post]

@[simp] theorem State.post_period (s : State) (f : Field) (unit arg0 arg1 : Nat) :
    (s.post f unit arg0 arg1).period = s.period := by
  simp [State.post]

@[simp] theorem State.post_errorSeq (s : State) (f : Field) (unit arg0 arg1 : Nat) :
    (s.post f unit arg0 arg1).errorSeq = s.errorSeq := by
  simp [State.post]

@[simp] theorem State.post_chart (s : State) (f : Field) (unit arg0 arg1 : Nat) :
    (s.post f unit arg0 arg1).chart = s.chart := by
  simp [State.post]

@[simp] theorem State.post_load (s : State) (f : Field) (unit arg0 arg1 : Nat) :
    (s.post f unit arg0 arg1).load = s.load := by
  simp [State.post]

@[simp] theorem State.post_unloadWaiting (s : State) (f : Field) (unit arg0 arg1 : Nat) :
    (s.post f unit arg0 arg1).unloadWaiting = s.unloadWaiting := by
  simp [State.post]

@[simp] theorem State.post_zeroing (s : State) (f : Field) (unit arg0 arg1 : Nat) :
    (s.post f unit arg0 arg1).zeroing = s.zeroing := by
  simp [State.post]

@[simp] theorem State.post_rings (s : State) (f : Field) (unit arg0 arg1 : Nat) :
    (s.post f unit arg0 arg1).rings = s.rings := by
  simp [State.post]

@[simp] theorem State.post_tasks (s : State) (f : Field) (unit arg0 arg1 : Nat) :
    (s.post f unit arg0 arg1).tasks = s.tasks := by
  simp [State.post]

@[simp] theorem State.post_signals (s : State) (f : Field) (unit arg0 arg1 : Nat) :
    (s.post f unit arg0 arg1).signals = s.signals := by
  simp [State.post]

@[simp] theorem State.post_jobs (s : State) (f : Field) (unit arg0 arg1 : Nat) :
    (s.post f unit arg0 arg1).jobs = s.jobs := by
  simp [State.post]

@[simp] theorem State.post_streams (s : State) (f : Field) (unit arg0 arg1 : Nat) :
    (s.post f unit arg0 arg1).streams = s.streams := by
  simp [State.post]

@[simp] theorem State.post_memQueue (s : State) (f : Field) (unit arg0 arg1 : Nat) :
    (s.post f unit arg0 arg1).memQueue = s.memQueue := by
  simp [State.post]

@[simp] theorem State.post_tables (s : State) (f : Field) (unit arg0 arg1 : Nat) :
    (s.post f unit arg0 arg1).tables = s.tables := by
  simp [State.post]

@[simp] theorem State.post_drift (s : State) (f : Field) (unit arg0 arg1 : Nat) :
    (s.post f unit arg0 arg1).drift = s.drift := by
  simp [State.post]

@[simp] theorem State.post_lanes (s : State) (f : Field) (unit arg0 arg1 : Nat) :
    (s.post f unit arg0 arg1).lanes = s.lanes := by
  simp [State.post]

@[simp] theorem State.post_corrections (s : State) (f : Field) (unit arg0 arg1 : Nat) :
    (s.post f unit arg0 arg1).corrections = s.corrections := by
  simp [State.post]

@[simp] theorem State.post_scrubbed (s : State) (f : Field) (unit arg0 arg1 : Nat) :
    (s.post f unit arg0 arg1).scrubbed = s.scrubbed := by
  simp [State.post]

@[simp] theorem State.post_bankQuiet (s : State) (f : Field) (unit arg0 arg1 : Nat) :
    (s.post f unit arg0 arg1).bankQuiet = s.bankQuiet := by
  simp [State.post]

@[simp] theorem State.post_fabric (s : State) (f : Field) (unit arg0 arg1 : Nat) :
    (s.post f unit arg0 arg1).fabric = s.fabric := by
  simp [State.post]

@[simp] theorem State.post_reductions (s : State) (f : Field) (unit arg0 arg1 : Nat) :
    (s.post f unit arg0 arg1).reductions = s.reductions := by
  simp [State.post]

@[simp] theorem State.post_combining (s : State) (f : Field) (unit arg0 arg1 : Nat) :
    (s.post f unit arg0 arg1).combining = s.combining := by
  simp [State.post]

@[simp] theorem State.post_sysreset (s : State) (f : Field) (unit arg0 arg1 : Nat) :
    (s.post f unit arg0 arg1).sysreset = s.sysreset := by
  simp [State.post]

@[simp] theorem State.post_power (s : State) (f : Field) (unit arg0 arg1 : Nat) :
    (s.post f unit arg0 arg1).power = s.power := by
  simp [State.post]

@[simp] theorem State.post_boot (s : State) (f : Field) (unit arg0 arg1 : Nat) :
    (s.post f unit arg0 arg1).boot = s.boot := by
  simp [State.post]

@[simp] theorem State.post_binnacle (s : State) (f : Field) (unit arg0 arg1 : Nat) :
    (s.post f unit arg0 arg1).binnacle = s.binnacle := by
  simp [State.post]

@[simp] theorem State.post_silicon (s : State) (f : Field) (unit arg0 arg1 : Nat) :
    (s.post f unit arg0 arg1).silicon = s.silicon := by
  simp [State.post]

@[simp] theorem State.post_carrier (s : State) (f : Field) (unit arg0 arg1 : Nat) :
    (s.post f unit arg0 arg1).carrier = s.carrier := by
  simp [State.post]

/-! ### logError -/

@[simp] theorem State.logError_pending (s : State) (r : ErrorRecord) : (s.logError r).pending = s.pending := by
  unfold State.logError; dsimp only; split; · rfl
  split <;> simp

@[simp] theorem State.logError_now (s : State) (r : ErrorRecord) : (s.logError r).now = s.now := by
  unfold State.logError; dsimp only; split; · rfl
  split <;> simp

@[simp] theorem State.logError_free (s : State) (r : ErrorRecord) : (s.logError r).free = s.free := by
  unfold State.logError; dsimp only; split; · rfl
  split <;> simp

@[simp] theorem State.logError_tick (s : State) (r : ErrorRecord) : (s.logError r).tick = s.tick := by
  unfold State.logError; dsimp only; split; · rfl
  split <;> simp

@[simp] theorem State.logError_boundary (s : State) (r : ErrorRecord) : (s.logError r).boundary = s.boundary := by
  unfold State.logError; dsimp only; split; · rfl
  split <;> simp

@[simp] theorem State.logError_period (s : State) (r : ErrorRecord) : (s.logError r).period = s.period := by
  unfold State.logError; dsimp only; split; · rfl
  split <;> simp

@[simp] theorem State.logError_chart (s : State) (r : ErrorRecord) : (s.logError r).chart = s.chart := by
  unfold State.logError; dsimp only; split; · rfl
  split <;> simp

@[simp] theorem State.logError_load (s : State) (r : ErrorRecord) : (s.logError r).load = s.load := by
  unfold State.logError; dsimp only; split; · rfl
  split <;> simp

@[simp] theorem State.logError_unloadWaiting (s : State) (r : ErrorRecord) :
    (s.logError r).unloadWaiting = s.unloadWaiting := by
  unfold State.logError; dsimp only; split; · rfl
  split <;> simp

@[simp] theorem State.logError_zeroing (s : State) (r : ErrorRecord) : (s.logError r).zeroing = s.zeroing := by
  unfold State.logError; dsimp only; split; · rfl
  split <;> simp

@[simp] theorem State.logError_rings (s : State) (r : ErrorRecord) : (s.logError r).rings = s.rings := by
  unfold State.logError; dsimp only; split; · rfl
  split <;> simp

@[simp] theorem State.logError_tasks (s : State) (r : ErrorRecord) : (s.logError r).tasks = s.tasks := by
  unfold State.logError; dsimp only; split; · rfl
  split <;> simp

@[simp] theorem State.logError_signals (s : State) (r : ErrorRecord) : (s.logError r).signals = s.signals := by
  unfold State.logError; dsimp only; split; · rfl
  split <;> simp

@[simp] theorem State.logError_jobs (s : State) (r : ErrorRecord) : (s.logError r).jobs = s.jobs := by
  unfold State.logError; dsimp only; split; · rfl
  split <;> simp

@[simp] theorem State.logError_streams (s : State) (r : ErrorRecord) : (s.logError r).streams = s.streams := by
  unfold State.logError; dsimp only; split; · rfl
  split <;> simp

@[simp] theorem State.logError_memQueue (s : State) (r : ErrorRecord) : (s.logError r).memQueue = s.memQueue := by
  unfold State.logError; dsimp only; split; · rfl
  split <;> simp

@[simp] theorem State.logError_tables (s : State) (r : ErrorRecord) : (s.logError r).tables = s.tables := by
  unfold State.logError; dsimp only; split; · rfl
  split <;> simp

@[simp] theorem State.logError_drift (s : State) (r : ErrorRecord) : (s.logError r).drift = s.drift := by
  unfold State.logError; dsimp only; split; · rfl
  split <;> simp

@[simp] theorem State.logError_lanes (s : State) (r : ErrorRecord) : (s.logError r).lanes = s.lanes := by
  unfold State.logError; dsimp only; split; · rfl
  split <;> simp

@[simp] theorem State.logError_corrections (s : State) (r : ErrorRecord) :
    (s.logError r).corrections = s.corrections := by
  unfold State.logError; dsimp only; split; · rfl
  split <;> simp

@[simp] theorem State.logError_scrubbed (s : State) (r : ErrorRecord) : (s.logError r).scrubbed = s.scrubbed := by
  unfold State.logError; dsimp only; split; · rfl
  split <;> simp

@[simp] theorem State.logError_bankQuiet (s : State) (r : ErrorRecord) : (s.logError r).bankQuiet = s.bankQuiet := by
  unfold State.logError; dsimp only; split; · rfl
  split <;> simp

@[simp] theorem State.logError_fabric (s : State) (r : ErrorRecord) : (s.logError r).fabric = s.fabric := by
  unfold State.logError; dsimp only; split; · rfl
  split <;> simp

@[simp] theorem State.logError_reductions (s : State) (r : ErrorRecord) :
    (s.logError r).reductions = s.reductions := by
  unfold State.logError; dsimp only; split; · rfl
  split <;> simp

@[simp] theorem State.logError_combining (s : State) (r : ErrorRecord) : (s.logError r).combining = s.combining := by
  unfold State.logError; dsimp only; split; · rfl
  split <;> simp

@[simp] theorem State.logError_sysreset (s : State) (r : ErrorRecord) : (s.logError r).sysreset = s.sysreset := by
  unfold State.logError; dsimp only; split; · rfl
  split <;> simp

@[simp] theorem State.logError_power (s : State) (r : ErrorRecord) : (s.logError r).power = s.power := by
  unfold State.logError; dsimp only; split; · rfl
  split <;> simp

@[simp] theorem State.logError_boot (s : State) (r : ErrorRecord) : (s.logError r).boot = s.boot := by
  unfold State.logError; dsimp only; split; · rfl
  split <;> simp

@[simp] theorem State.logError_binnacle (s : State) (r : ErrorRecord) : (s.logError r).binnacle = s.binnacle := by
  unfold State.logError; dsimp only; split; · rfl
  split <;> simp

@[simp] theorem State.logError_silicon (s : State) (r : ErrorRecord) : (s.logError r).silicon = s.silicon := by
  unfold State.logError; dsimp only; split; · rfl
  split <;> simp

@[simp] theorem State.logError_carrier (s : State) (r : ErrorRecord) : (s.logError r).carrier = s.carrier := by
  unfold State.logError; dsimp only; split; · rfl
  split <;> simp

/-! ### writeRecord -/

@[simp] theorem State.writeRecord_pending (s : State) (ring : Nat) (w : WaitingRecord) :
    (s.writeRecord ring w).pending = s.pending := by
  unfold State.writeRecord; dsimp only; split <;> simp

@[simp] theorem State.writeRecord_now (s : State) (ring : Nat) (w : WaitingRecord) :
    (s.writeRecord ring w).now = s.now := by
  unfold State.writeRecord; dsimp only; split <;> simp

@[simp] theorem State.writeRecord_free (s : State) (ring : Nat) (w : WaitingRecord) :
    (s.writeRecord ring w).free = s.free := by
  unfold State.writeRecord; dsimp only; split <;> simp

@[simp] theorem State.writeRecord_tick (s : State) (ring : Nat) (w : WaitingRecord) :
    (s.writeRecord ring w).tick = s.tick := by
  unfold State.writeRecord; dsimp only; split <;> simp

@[simp] theorem State.writeRecord_boundary (s : State) (ring : Nat) (w : WaitingRecord) :
    (s.writeRecord ring w).boundary = s.boundary := by
  unfold State.writeRecord; dsimp only; split <;> simp

@[simp] theorem State.writeRecord_period (s : State) (ring : Nat) (w : WaitingRecord) :
    (s.writeRecord ring w).period = s.period := by
  unfold State.writeRecord; dsimp only; split <;> simp

@[simp] theorem State.writeRecord_regs (s : State) (ring : Nat) (w : WaitingRecord) :
    (s.writeRecord ring w).regs = s.regs := by
  unfold State.writeRecord; dsimp only; split <;> simp

@[simp] theorem State.writeRecord_eventSeq (s : State) (ring : Nat) (w : WaitingRecord) :
    (s.writeRecord ring w).eventSeq = s.eventSeq := by
  unfold State.writeRecord; dsimp only; split <;> simp

@[simp] theorem State.writeRecord_errorSeq (s : State) (ring : Nat) (w : WaitingRecord) :
    (s.writeRecord ring w).errorSeq = s.errorSeq := by
  unfold State.writeRecord; dsimp only; split <;> simp

@[simp] theorem State.writeRecord_chart (s : State) (ring : Nat) (w : WaitingRecord) :
    (s.writeRecord ring w).chart = s.chart := by
  unfold State.writeRecord; dsimp only; split <;> simp

@[simp] theorem State.writeRecord_load (s : State) (ring : Nat) (w : WaitingRecord) :
    (s.writeRecord ring w).load = s.load := by
  unfold State.writeRecord; dsimp only; split <;> simp

@[simp] theorem State.writeRecord_unloadWaiting (s : State) (ring : Nat) (w : WaitingRecord) :
    (s.writeRecord ring w).unloadWaiting = s.unloadWaiting := by
  unfold State.writeRecord; dsimp only; split <;> simp

@[simp] theorem State.writeRecord_zeroing (s : State) (ring : Nat) (w : WaitingRecord) :
    (s.writeRecord ring w).zeroing = s.zeroing := by
  unfold State.writeRecord; dsimp only; split <;> simp

@[simp] theorem State.writeRecord_tasks (s : State) (ring : Nat) (w : WaitingRecord) :
    (s.writeRecord ring w).tasks = s.tasks := by
  unfold State.writeRecord; dsimp only; split <;> simp

@[simp] theorem State.writeRecord_signals (s : State) (ring : Nat) (w : WaitingRecord) :
    (s.writeRecord ring w).signals = s.signals := by
  unfold State.writeRecord; dsimp only; split <;> simp

@[simp] theorem State.writeRecord_jobs (s : State) (ring : Nat) (w : WaitingRecord) :
    (s.writeRecord ring w).jobs = s.jobs := by
  unfold State.writeRecord; dsimp only; split <;> simp

@[simp] theorem State.writeRecord_streams (s : State) (ring : Nat) (w : WaitingRecord) :
    (s.writeRecord ring w).streams = s.streams := by
  unfold State.writeRecord; dsimp only; split <;> simp

@[simp] theorem State.writeRecord_memQueue (s : State) (ring : Nat) (w : WaitingRecord) :
    (s.writeRecord ring w).memQueue = s.memQueue := by
  unfold State.writeRecord; dsimp only; split <;> simp

@[simp] theorem State.writeRecord_tables (s : State) (ring : Nat) (w : WaitingRecord) :
    (s.writeRecord ring w).tables = s.tables := by
  unfold State.writeRecord; dsimp only; split <;> simp

@[simp] theorem State.writeRecord_drift (s : State) (ring : Nat) (w : WaitingRecord) :
    (s.writeRecord ring w).drift = s.drift := by
  unfold State.writeRecord; dsimp only; split <;> simp

@[simp] theorem State.writeRecord_lanes (s : State) (ring : Nat) (w : WaitingRecord) :
    (s.writeRecord ring w).lanes = s.lanes := by
  unfold State.writeRecord; dsimp only; split <;> simp

@[simp] theorem State.writeRecord_corrections (s : State) (ring : Nat) (w : WaitingRecord) :
    (s.writeRecord ring w).corrections = s.corrections := by
  unfold State.writeRecord; dsimp only; split <;> simp

@[simp] theorem State.writeRecord_scrubbed (s : State) (ring : Nat) (w : WaitingRecord) :
    (s.writeRecord ring w).scrubbed = s.scrubbed := by
  unfold State.writeRecord; dsimp only; split <;> simp

@[simp] theorem State.writeRecord_bankQuiet (s : State) (ring : Nat) (w : WaitingRecord) :
    (s.writeRecord ring w).bankQuiet = s.bankQuiet := by
  unfold State.writeRecord; dsimp only; split <;> simp

@[simp] theorem State.writeRecord_fabric (s : State) (ring : Nat) (w : WaitingRecord) :
    (s.writeRecord ring w).fabric = s.fabric := by
  unfold State.writeRecord; dsimp only; split <;> simp

@[simp] theorem State.writeRecord_reductions (s : State) (ring : Nat) (w : WaitingRecord) :
    (s.writeRecord ring w).reductions = s.reductions := by
  unfold State.writeRecord; dsimp only; split <;> simp

@[simp] theorem State.writeRecord_combining (s : State) (ring : Nat) (w : WaitingRecord) :
    (s.writeRecord ring w).combining = s.combining := by
  unfold State.writeRecord; dsimp only; split <;> simp

@[simp] theorem State.writeRecord_sysreset (s : State) (ring : Nat) (w : WaitingRecord) :
    (s.writeRecord ring w).sysreset = s.sysreset := by
  unfold State.writeRecord; dsimp only; split <;> simp

@[simp] theorem State.writeRecord_power (s : State) (ring : Nat) (w : WaitingRecord) :
    (s.writeRecord ring w).power = s.power := by
  unfold State.writeRecord; dsimp only; split <;> simp

@[simp] theorem State.writeRecord_boot (s : State) (ring : Nat) (w : WaitingRecord) :
    (s.writeRecord ring w).boot = s.boot := by
  unfold State.writeRecord; dsimp only; split <;> simp

@[simp] theorem State.writeRecord_binnacle (s : State) (ring : Nat) (w : WaitingRecord) :
    (s.writeRecord ring w).binnacle = s.binnacle := by
  unfold State.writeRecord; dsimp only; split <;> simp

@[simp] theorem State.writeRecord_silicon (s : State) (ring : Nat) (w : WaitingRecord) :
    (s.writeRecord ring w).silicon = s.silicon := by
  unfold State.writeRecord; dsimp only; split <;> simp

@[simp] theorem State.writeRecord_carrier (s : State) (ring : Nat) (w : WaitingRecord) :
    (s.writeRecord ring w).carrier = s.carrier := by
  unfold State.writeRecord; dsimp only; split <;> simp

/-! ### terminateJob -/

@[simp] theorem State.terminateJob_pending (s : State) (job cause : Nat) :
    (s.terminateJob job cause).pending = s.pending := by
  unfold State.terminateJob; split
  · split <;> rfl
  · rfl

@[simp] theorem State.terminateJob_now (s : State) (job cause : Nat) :
    (s.terminateJob job cause).now = s.now := by
  unfold State.terminateJob; split
  · split <;> rfl
  · rfl

@[simp] theorem State.terminateJob_free (s : State) (job cause : Nat) :
    (s.terminateJob job cause).free = s.free := by
  unfold State.terminateJob; split
  · split <;> rfl
  · rfl

@[simp] theorem State.terminateJob_tick (s : State) (job cause : Nat) :
    (s.terminateJob job cause).tick = s.tick := by
  unfold State.terminateJob; split
  · split <;> rfl
  · rfl

@[simp] theorem State.terminateJob_boundary (s : State) (job cause : Nat) :
    (s.terminateJob job cause).boundary = s.boundary := by
  unfold State.terminateJob; split
  · split <;> rfl
  · rfl

@[simp] theorem State.terminateJob_period (s : State) (job cause : Nat) :
    (s.terminateJob job cause).period = s.period := by
  unfold State.terminateJob; split
  · split <;> rfl
  · rfl

@[simp] theorem State.terminateJob_mem (s : State) (job cause : Nat) :
    (s.terminateJob job cause).mem = s.mem := by
  unfold State.terminateJob; split
  · split <;> rfl
  · rfl

@[simp] theorem State.terminateJob_writes (s : State) (job cause : Nat) :
    (s.terminateJob job cause).writes = s.writes := by
  unfold State.terminateJob; split
  · split <;> rfl
  · rfl

@[simp] theorem State.terminateJob_regs (s : State) (job cause : Nat) :
    (s.terminateJob job cause).regs = s.regs := by
  unfold State.terminateJob; split
  · split <;> rfl
  · rfl

@[simp] theorem State.terminateJob_eventSeq (s : State) (job cause : Nat) :
    (s.terminateJob job cause).eventSeq = s.eventSeq := by
  unfold State.terminateJob; split
  · split <;> rfl
  · rfl

@[simp] theorem State.terminateJob_errorSeq (s : State) (job cause : Nat) :
    (s.terminateJob job cause).errorSeq = s.errorSeq := by
  unfold State.terminateJob; split
  · split <;> rfl
  · rfl

@[simp] theorem State.terminateJob_chart (s : State) (job cause : Nat) :
    (s.terminateJob job cause).chart = s.chart := by
  unfold State.terminateJob; split
  · split <;> rfl
  · rfl

@[simp] theorem State.terminateJob_load (s : State) (job cause : Nat) :
    (s.terminateJob job cause).load = s.load := by
  unfold State.terminateJob; split
  · split <;> rfl
  · rfl

@[simp] theorem State.terminateJob_unloadWaiting (s : State) (job cause : Nat) :
    (s.terminateJob job cause).unloadWaiting = s.unloadWaiting := by
  unfold State.terminateJob; split
  · split <;> rfl
  · rfl

@[simp] theorem State.terminateJob_zeroing (s : State) (job cause : Nat) :
    (s.terminateJob job cause).zeroing = s.zeroing := by
  unfold State.terminateJob; split
  · split <;> rfl
  · rfl

@[simp] theorem State.terminateJob_tasks (s : State) (job cause : Nat) :
    (s.terminateJob job cause).tasks = s.tasks := by
  unfold State.terminateJob; split
  · split <;> rfl
  · rfl

@[simp] theorem State.terminateJob_signals (s : State) (job cause : Nat) :
    (s.terminateJob job cause).signals = s.signals := by
  unfold State.terminateJob; split
  · split <;> rfl
  · rfl

@[simp] theorem State.terminateJob_streams (s : State) (job cause : Nat) :
    (s.terminateJob job cause).streams = s.streams := by
  unfold State.terminateJob; split
  · split <;> rfl
  · rfl

@[simp] theorem State.terminateJob_memQueue (s : State) (job cause : Nat) :
    (s.terminateJob job cause).memQueue = s.memQueue := by
  unfold State.terminateJob; split
  · split <;> rfl
  · rfl

@[simp] theorem State.terminateJob_tables (s : State) (job cause : Nat) :
    (s.terminateJob job cause).tables = s.tables := by
  unfold State.terminateJob; split
  · split <;> rfl
  · rfl

@[simp] theorem State.terminateJob_drift (s : State) (job cause : Nat) :
    (s.terminateJob job cause).drift = s.drift := by
  unfold State.terminateJob; split
  · split <;> rfl
  · rfl

@[simp] theorem State.terminateJob_lanes (s : State) (job cause : Nat) :
    (s.terminateJob job cause).lanes = s.lanes := by
  unfold State.terminateJob; split
  · split <;> rfl
  · rfl

@[simp] theorem State.terminateJob_corrections (s : State) (job cause : Nat) :
    (s.terminateJob job cause).corrections = s.corrections := by
  unfold State.terminateJob; split
  · split <;> rfl
  · rfl

@[simp] theorem State.terminateJob_scrubbed (s : State) (job cause : Nat) :
    (s.terminateJob job cause).scrubbed = s.scrubbed := by
  unfold State.terminateJob; split
  · split <;> rfl
  · rfl

@[simp] theorem State.terminateJob_bankQuiet (s : State) (job cause : Nat) :
    (s.terminateJob job cause).bankQuiet = s.bankQuiet := by
  unfold State.terminateJob; split
  · split <;> rfl
  · rfl

@[simp] theorem State.terminateJob_fabric (s : State) (job cause : Nat) :
    (s.terminateJob job cause).fabric = s.fabric := by
  unfold State.terminateJob; split
  · split <;> rfl
  · rfl

@[simp] theorem State.terminateJob_reductions (s : State) (job cause : Nat) :
    (s.terminateJob job cause).reductions = s.reductions := by
  unfold State.terminateJob; split
  · split <;> rfl
  · rfl

@[simp] theorem State.terminateJob_combining (s : State) (job cause : Nat) :
    (s.terminateJob job cause).combining = s.combining := by
  unfold State.terminateJob; split
  · split <;> rfl
  · rfl

@[simp] theorem State.terminateJob_sysreset (s : State) (job cause : Nat) :
    (s.terminateJob job cause).sysreset = s.sysreset := by
  unfold State.terminateJob; split
  · split <;> rfl
  · rfl

@[simp] theorem State.terminateJob_power (s : State) (job cause : Nat) :
    (s.terminateJob job cause).power = s.power := by
  unfold State.terminateJob; split
  · split <;> rfl
  · rfl

@[simp] theorem State.terminateJob_pcie (s : State) (job cause : Nat) :
    (s.terminateJob job cause).pcie = s.pcie := by
  unfold State.terminateJob; split
  · split <;> rfl
  · rfl

@[simp] theorem State.terminateJob_boot (s : State) (job cause : Nat) :
    (s.terminateJob job cause).boot = s.boot := by
  unfold State.terminateJob; split
  · split <;> rfl
  · rfl

@[simp] theorem State.terminateJob_binnacle (s : State) (job cause : Nat) :
    (s.terminateJob job cause).binnacle = s.binnacle := by
  unfold State.terminateJob; split
  · split <;> rfl
  · rfl

@[simp] theorem State.terminateJob_silicon (s : State) (job cause : Nat) :
    (s.terminateJob job cause).silicon = s.silicon := by
  unfold State.terminateJob; split
  · split <;> rfl
  · rfl

@[simp] theorem State.terminateJob_carrier (s : State) (job cause : Nat) :
    (s.terminateJob job cause).carrier = s.carrier := by
  unfold State.terminateJob; split
  · split <;> rfl
  · rfl

@[simp] theorem State.terminateJob_outputs (s : State) (job cause : Nat) :
    (s.terminateJob job cause).outputs = s.outputs := by
  unfold State.terminateJob; split
  · split <;> rfl
  · rfl

/-! ### setPort -/

@[simp] theorem State.setPort_pending (s : State) (p : Nat) (x : Port) : (s.setPort p x).pending = s.pending := rfl

@[simp] theorem State.setPort_now (s : State) (p : Nat) (x : Port) : (s.setPort p x).now = s.now := rfl

@[simp] theorem State.setPort_free (s : State) (p : Nat) (x : Port) : (s.setPort p x).free = s.free := rfl

@[simp] theorem State.setPort_tick (s : State) (p : Nat) (x : Port) : (s.setPort p x).tick = s.tick := rfl

@[simp] theorem State.setPort_boundary (s : State) (p : Nat) (x : Port) : (s.setPort p x).boundary = s.boundary := rfl

@[simp] theorem State.setPort_period (s : State) (p : Nat) (x : Port) : (s.setPort p x).period = s.period := rfl

@[simp] theorem State.setPort_mem (s : State) (p : Nat) (x : Port) : (s.setPort p x).mem = s.mem := rfl

@[simp] theorem State.setPort_writes (s : State) (p : Nat) (x : Port) : (s.setPort p x).writes = s.writes := rfl

@[simp] theorem State.setPort_regs (s : State) (p : Nat) (x : Port) : (s.setPort p x).regs = s.regs := rfl

@[simp] theorem State.setPort_eventSeq (s : State) (p : Nat) (x : Port) : (s.setPort p x).eventSeq = s.eventSeq := rfl

@[simp] theorem State.setPort_errorSeq (s : State) (p : Nat) (x : Port) : (s.setPort p x).errorSeq = s.errorSeq := rfl

@[simp] theorem State.setPort_chart (s : State) (p : Nat) (x : Port) : (s.setPort p x).chart = s.chart := rfl

@[simp] theorem State.setPort_load (s : State) (p : Nat) (x : Port) : (s.setPort p x).load = s.load := rfl

@[simp] theorem State.setPort_unloadWaiting (s : State) (p : Nat) (x : Port) :
    (s.setPort p x).unloadWaiting = s.unloadWaiting := rfl

@[simp] theorem State.setPort_zeroing (s : State) (p : Nat) (x : Port) : (s.setPort p x).zeroing = s.zeroing := rfl

@[simp] theorem State.setPort_rings (s : State) (p : Nat) (x : Port) : (s.setPort p x).rings = s.rings := rfl

@[simp] theorem State.setPort_tasks (s : State) (p : Nat) (x : Port) : (s.setPort p x).tasks = s.tasks := rfl

@[simp] theorem State.setPort_signals (s : State) (p : Nat) (x : Port) : (s.setPort p x).signals = s.signals := rfl

@[simp] theorem State.setPort_jobs (s : State) (p : Nat) (x : Port) : (s.setPort p x).jobs = s.jobs := rfl

@[simp] theorem State.setPort_streams (s : State) (p : Nat) (x : Port) : (s.setPort p x).streams = s.streams := rfl

@[simp] theorem State.setPort_memQueue (s : State) (p : Nat) (x : Port) : (s.setPort p x).memQueue = s.memQueue := rfl

@[simp] theorem State.setPort_tables (s : State) (p : Nat) (x : Port) : (s.setPort p x).tables = s.tables := rfl

@[simp] theorem State.setPort_drift (s : State) (p : Nat) (x : Port) : (s.setPort p x).drift = s.drift := rfl

@[simp] theorem State.setPort_lanes (s : State) (p : Nat) (x : Port) : (s.setPort p x).lanes = s.lanes := rfl

@[simp] theorem State.setPort_corrections (s : State) (p : Nat) (x : Port) :
    (s.setPort p x).corrections = s.corrections := rfl

@[simp] theorem State.setPort_scrubbed (s : State) (p : Nat) (x : Port) : (s.setPort p x).scrubbed = s.scrubbed := rfl

@[simp] theorem State.setPort_bankQuiet (s : State) (p : Nat) (x : Port) :
    (s.setPort p x).bankQuiet = s.bankQuiet := rfl

@[simp] theorem State.setPort_reductions (s : State) (p : Nat) (x : Port) :
    (s.setPort p x).reductions = s.reductions := rfl

@[simp] theorem State.setPort_combining (s : State) (p : Nat) (x : Port) :
    (s.setPort p x).combining = s.combining := rfl

@[simp] theorem State.setPort_sysreset (s : State) (p : Nat) (x : Port) : (s.setPort p x).sysreset = s.sysreset := rfl

@[simp] theorem State.setPort_power (s : State) (p : Nat) (x : Port) : (s.setPort p x).power = s.power := rfl

@[simp] theorem State.setPort_pcie (s : State) (p : Nat) (x : Port) : (s.setPort p x).pcie = s.pcie := rfl

@[simp] theorem State.setPort_boot (s : State) (p : Nat) (x : Port) : (s.setPort p x).boot = s.boot := rfl

@[simp] theorem State.setPort_binnacle (s : State) (p : Nat) (x : Port) : (s.setPort p x).binnacle = s.binnacle := rfl

@[simp] theorem State.setPort_silicon (s : State) (p : Nat) (x : Port) : (s.setPort p x).silicon = s.silicon := rfl

@[simp] theorem State.setPort_carrier (s : State) (p : Nat) (x : Port) : (s.setPort p x).carrier = s.carrier := rfl

@[simp] theorem State.setPort_outputs (s : State) (p : Nat) (x : Port) : (s.setPort p x).outputs = s.outputs := rfl

/-! ### setRequest -/

@[simp] theorem State.setRequest_pending (s : State) (r : Request) : (s.setRequest r).pending = s.pending := rfl

@[simp] theorem State.setRequest_now (s : State) (r : Request) : (s.setRequest r).now = s.now := rfl

@[simp] theorem State.setRequest_free (s : State) (r : Request) : (s.setRequest r).free = s.free := rfl

@[simp] theorem State.setRequest_tick (s : State) (r : Request) : (s.setRequest r).tick = s.tick := rfl

@[simp] theorem State.setRequest_boundary (s : State) (r : Request) : (s.setRequest r).boundary = s.boundary := rfl

@[simp] theorem State.setRequest_period (s : State) (r : Request) : (s.setRequest r).period = s.period := rfl

@[simp] theorem State.setRequest_mem (s : State) (r : Request) : (s.setRequest r).mem = s.mem := rfl

@[simp] theorem State.setRequest_writes (s : State) (r : Request) : (s.setRequest r).writes = s.writes := rfl

@[simp] theorem State.setRequest_regs (s : State) (r : Request) : (s.setRequest r).regs = s.regs := rfl

@[simp] theorem State.setRequest_eventSeq (s : State) (r : Request) : (s.setRequest r).eventSeq = s.eventSeq := rfl

@[simp] theorem State.setRequest_errorSeq (s : State) (r : Request) : (s.setRequest r).errorSeq = s.errorSeq := rfl

@[simp] theorem State.setRequest_chart (s : State) (r : Request) : (s.setRequest r).chart = s.chart := rfl

@[simp] theorem State.setRequest_load (s : State) (r : Request) : (s.setRequest r).load = s.load := rfl

@[simp] theorem State.setRequest_unloadWaiting (s : State) (r : Request) :
    (s.setRequest r).unloadWaiting = s.unloadWaiting := rfl

@[simp] theorem State.setRequest_zeroing (s : State) (r : Request) : (s.setRequest r).zeroing = s.zeroing := rfl

@[simp] theorem State.setRequest_rings (s : State) (r : Request) : (s.setRequest r).rings = s.rings := rfl

@[simp] theorem State.setRequest_tasks (s : State) (r : Request) : (s.setRequest r).tasks = s.tasks := rfl

@[simp] theorem State.setRequest_signals (s : State) (r : Request) : (s.setRequest r).signals = s.signals := rfl

@[simp] theorem State.setRequest_jobs (s : State) (r : Request) : (s.setRequest r).jobs = s.jobs := rfl

@[simp] theorem State.setRequest_streams (s : State) (r : Request) : (s.setRequest r).streams = s.streams := rfl

@[simp] theorem State.setRequest_memQueue (s : State) (r : Request) : (s.setRequest r).memQueue = s.memQueue := rfl

@[simp] theorem State.setRequest_tables (s : State) (r : Request) : (s.setRequest r).tables = s.tables := rfl

@[simp] theorem State.setRequest_drift (s : State) (r : Request) : (s.setRequest r).drift = s.drift := rfl

@[simp] theorem State.setRequest_lanes (s : State) (r : Request) : (s.setRequest r).lanes = s.lanes := rfl

@[simp] theorem State.setRequest_corrections (s : State) (r : Request) :
    (s.setRequest r).corrections = s.corrections := rfl

@[simp] theorem State.setRequest_scrubbed (s : State) (r : Request) : (s.setRequest r).scrubbed = s.scrubbed := rfl

@[simp] theorem State.setRequest_bankQuiet (s : State) (r : Request) : (s.setRequest r).bankQuiet = s.bankQuiet := rfl

@[simp] theorem State.setRequest_reductions (s : State) (r : Request) :
    (s.setRequest r).reductions = s.reductions := rfl

@[simp] theorem State.setRequest_combining (s : State) (r : Request) : (s.setRequest r).combining = s.combining := rfl

@[simp] theorem State.setRequest_sysreset (s : State) (r : Request) : (s.setRequest r).sysreset = s.sysreset := rfl

@[simp] theorem State.setRequest_power (s : State) (r : Request) : (s.setRequest r).power = s.power := rfl

@[simp] theorem State.setRequest_pcie (s : State) (r : Request) : (s.setRequest r).pcie = s.pcie := rfl

@[simp] theorem State.setRequest_boot (s : State) (r : Request) : (s.setRequest r).boot = s.boot := rfl

@[simp] theorem State.setRequest_binnacle (s : State) (r : Request) : (s.setRequest r).binnacle = s.binnacle := rfl

@[simp] theorem State.setRequest_silicon (s : State) (r : Request) : (s.setRequest r).silicon = s.silicon := rfl

@[simp] theorem State.setRequest_carrier (s : State) (r : Request) : (s.setRequest r).carrier = s.carrier := rfl

@[simp] theorem State.setRequest_outputs (s : State) (r : Request) : (s.setRequest r).outputs = s.outputs := rfl

/-! ### addReply -/

@[simp] theorem State.addReply_pending (s : State) (id : TaskId) (r : RemoteReply) :
    (s.addReply id r).pending = s.pending := rfl

@[simp] theorem State.addReply_now (s : State) (id : TaskId) (r : RemoteReply) :
    (s.addReply id r).now = s.now := rfl

@[simp] theorem State.addReply_free (s : State) (id : TaskId) (r : RemoteReply) :
    (s.addReply id r).free = s.free := rfl

@[simp] theorem State.addReply_tick (s : State) (id : TaskId) (r : RemoteReply) :
    (s.addReply id r).tick = s.tick := rfl

@[simp] theorem State.addReply_boundary (s : State) (id : TaskId) (r : RemoteReply) :
    (s.addReply id r).boundary = s.boundary := rfl

@[simp] theorem State.addReply_period (s : State) (id : TaskId) (r : RemoteReply) :
    (s.addReply id r).period = s.period := rfl

@[simp] theorem State.addReply_mem (s : State) (id : TaskId) (r : RemoteReply) :
    (s.addReply id r).mem = s.mem := rfl

@[simp] theorem State.addReply_writes (s : State) (id : TaskId) (r : RemoteReply) :
    (s.addReply id r).writes = s.writes := rfl

@[simp] theorem State.addReply_regs (s : State) (id : TaskId) (r : RemoteReply) :
    (s.addReply id r).regs = s.regs := rfl

@[simp] theorem State.addReply_eventSeq (s : State) (id : TaskId) (r : RemoteReply) :
    (s.addReply id r).eventSeq = s.eventSeq := rfl

@[simp] theorem State.addReply_errorSeq (s : State) (id : TaskId) (r : RemoteReply) :
    (s.addReply id r).errorSeq = s.errorSeq := rfl

@[simp] theorem State.addReply_chart (s : State) (id : TaskId) (r : RemoteReply) :
    (s.addReply id r).chart = s.chart := rfl

@[simp] theorem State.addReply_load (s : State) (id : TaskId) (r : RemoteReply) :
    (s.addReply id r).load = s.load := rfl

@[simp] theorem State.addReply_unloadWaiting (s : State) (id : TaskId) (r : RemoteReply) :
    (s.addReply id r).unloadWaiting = s.unloadWaiting := rfl

@[simp] theorem State.addReply_zeroing (s : State) (id : TaskId) (r : RemoteReply) :
    (s.addReply id r).zeroing = s.zeroing := rfl

@[simp] theorem State.addReply_rings (s : State) (id : TaskId) (r : RemoteReply) :
    (s.addReply id r).rings = s.rings := rfl

@[simp] theorem State.addReply_tasks (s : State) (id : TaskId) (r : RemoteReply) :
    (s.addReply id r).tasks = s.tasks := rfl

@[simp] theorem State.addReply_signals (s : State) (id : TaskId) (r : RemoteReply) :
    (s.addReply id r).signals = s.signals := rfl

@[simp] theorem State.addReply_jobs (s : State) (id : TaskId) (r : RemoteReply) :
    (s.addReply id r).jobs = s.jobs := rfl

@[simp] theorem State.addReply_streams (s : State) (id : TaskId) (r : RemoteReply) :
    (s.addReply id r).streams = s.streams := rfl

@[simp] theorem State.addReply_memQueue (s : State) (id : TaskId) (r : RemoteReply) :
    (s.addReply id r).memQueue = s.memQueue := rfl

@[simp] theorem State.addReply_tables (s : State) (id : TaskId) (r : RemoteReply) :
    (s.addReply id r).tables = s.tables := rfl

@[simp] theorem State.addReply_drift (s : State) (id : TaskId) (r : RemoteReply) :
    (s.addReply id r).drift = s.drift := rfl

@[simp] theorem State.addReply_lanes (s : State) (id : TaskId) (r : RemoteReply) :
    (s.addReply id r).lanes = s.lanes := rfl

@[simp] theorem State.addReply_corrections (s : State) (id : TaskId) (r : RemoteReply) :
    (s.addReply id r).corrections = s.corrections := rfl

@[simp] theorem State.addReply_scrubbed (s : State) (id : TaskId) (r : RemoteReply) :
    (s.addReply id r).scrubbed = s.scrubbed := rfl

@[simp] theorem State.addReply_bankQuiet (s : State) (id : TaskId) (r : RemoteReply) :
    (s.addReply id r).bankQuiet = s.bankQuiet := rfl

@[simp] theorem State.addReply_reductions (s : State) (id : TaskId) (r : RemoteReply) :
    (s.addReply id r).reductions = s.reductions := rfl

@[simp] theorem State.addReply_combining (s : State) (id : TaskId) (r : RemoteReply) :
    (s.addReply id r).combining = s.combining := rfl

@[simp] theorem State.addReply_sysreset (s : State) (id : TaskId) (r : RemoteReply) :
    (s.addReply id r).sysreset = s.sysreset := rfl

@[simp] theorem State.addReply_power (s : State) (id : TaskId) (r : RemoteReply) :
    (s.addReply id r).power = s.power := rfl

@[simp] theorem State.addReply_pcie (s : State) (id : TaskId) (r : RemoteReply) :
    (s.addReply id r).pcie = s.pcie := rfl

@[simp] theorem State.addReply_boot (s : State) (id : TaskId) (r : RemoteReply) :
    (s.addReply id r).boot = s.boot := rfl

@[simp] theorem State.addReply_binnacle (s : State) (id : TaskId) (r : RemoteReply) :
    (s.addReply id r).binnacle = s.binnacle := rfl

@[simp] theorem State.addReply_silicon (s : State) (id : TaskId) (r : RemoteReply) :
    (s.addReply id r).silicon = s.silicon := rfl

@[simp] theorem State.addReply_carrier (s : State) (id : TaskId) (r : RemoteReply) :
    (s.addReply id r).carrier = s.carrier := rfl

@[simp] theorem State.addReply_outputs (s : State) (id : TaskId) (r : RemoteReply) :
    (s.addReply id r).outputs = s.outputs := rfl

/-! ### dropRequests -/

@[simp] theorem State.dropRequests_pending (s : State) (id : TaskId) : (s.dropRequests id).pending = s.pending := rfl

@[simp] theorem State.dropRequests_now (s : State) (id : TaskId) : (s.dropRequests id).now = s.now := rfl

@[simp] theorem State.dropRequests_free (s : State) (id : TaskId) : (s.dropRequests id).free = s.free := rfl

@[simp] theorem State.dropRequests_tick (s : State) (id : TaskId) : (s.dropRequests id).tick = s.tick := rfl

@[simp] theorem State.dropRequests_boundary (s : State) (id : TaskId) :
    (s.dropRequests id).boundary = s.boundary := rfl

@[simp] theorem State.dropRequests_period (s : State) (id : TaskId) : (s.dropRequests id).period = s.period := rfl

@[simp] theorem State.dropRequests_mem (s : State) (id : TaskId) : (s.dropRequests id).mem = s.mem := rfl

@[simp] theorem State.dropRequests_writes (s : State) (id : TaskId) : (s.dropRequests id).writes = s.writes := rfl

@[simp] theorem State.dropRequests_regs (s : State) (id : TaskId) : (s.dropRequests id).regs = s.regs := rfl

@[simp] theorem State.dropRequests_eventSeq (s : State) (id : TaskId) :
    (s.dropRequests id).eventSeq = s.eventSeq := rfl

@[simp] theorem State.dropRequests_errorSeq (s : State) (id : TaskId) :
    (s.dropRequests id).errorSeq = s.errorSeq := rfl

@[simp] theorem State.dropRequests_chart (s : State) (id : TaskId) : (s.dropRequests id).chart = s.chart := rfl

@[simp] theorem State.dropRequests_load (s : State) (id : TaskId) : (s.dropRequests id).load = s.load := rfl

@[simp] theorem State.dropRequests_unloadWaiting (s : State) (id : TaskId) :
    (s.dropRequests id).unloadWaiting = s.unloadWaiting := rfl

@[simp] theorem State.dropRequests_zeroing (s : State) (id : TaskId) : (s.dropRequests id).zeroing = s.zeroing := rfl

@[simp] theorem State.dropRequests_rings (s : State) (id : TaskId) : (s.dropRequests id).rings = s.rings := rfl

@[simp] theorem State.dropRequests_tasks (s : State) (id : TaskId) : (s.dropRequests id).tasks = s.tasks := rfl

@[simp] theorem State.dropRequests_signals (s : State) (id : TaskId) : (s.dropRequests id).signals = s.signals := rfl

@[simp] theorem State.dropRequests_jobs (s : State) (id : TaskId) : (s.dropRequests id).jobs = s.jobs := rfl

@[simp] theorem State.dropRequests_streams (s : State) (id : TaskId) : (s.dropRequests id).streams = s.streams := rfl

@[simp] theorem State.dropRequests_memQueue (s : State) (id : TaskId) :
    (s.dropRequests id).memQueue = s.memQueue := rfl

@[simp] theorem State.dropRequests_tables (s : State) (id : TaskId) : (s.dropRequests id).tables = s.tables := rfl

@[simp] theorem State.dropRequests_drift (s : State) (id : TaskId) : (s.dropRequests id).drift = s.drift := rfl

@[simp] theorem State.dropRequests_lanes (s : State) (id : TaskId) : (s.dropRequests id).lanes = s.lanes := rfl

@[simp] theorem State.dropRequests_corrections (s : State) (id : TaskId) :
    (s.dropRequests id).corrections = s.corrections := rfl

@[simp] theorem State.dropRequests_scrubbed (s : State) (id : TaskId) :
    (s.dropRequests id).scrubbed = s.scrubbed := rfl

@[simp] theorem State.dropRequests_bankQuiet (s : State) (id : TaskId) :
    (s.dropRequests id).bankQuiet = s.bankQuiet := rfl

@[simp] theorem State.dropRequests_reductions (s : State) (id : TaskId) :
    (s.dropRequests id).reductions = s.reductions := rfl

@[simp] theorem State.dropRequests_combining (s : State) (id : TaskId) :
    (s.dropRequests id).combining = s.combining := rfl

@[simp] theorem State.dropRequests_sysreset (s : State) (id : TaskId) :
    (s.dropRequests id).sysreset = s.sysreset := rfl

@[simp] theorem State.dropRequests_power (s : State) (id : TaskId) : (s.dropRequests id).power = s.power := rfl

@[simp] theorem State.dropRequests_boot (s : State) (id : TaskId) : (s.dropRequests id).boot = s.boot := rfl

@[simp] theorem State.dropRequests_binnacle (s : State) (id : TaskId) :
    (s.dropRequests id).binnacle = s.binnacle := rfl

@[simp] theorem State.dropRequests_silicon (s : State) (id : TaskId) : (s.dropRequests id).silicon = s.silicon := rfl

@[simp] theorem State.dropRequests_carrier (s : State) (id : TaskId) : (s.dropRequests id).carrier = s.carrier := rfl

@[simp] theorem State.dropRequests_outputs (s : State) (id : TaskId) : (s.dropRequests id).outputs = s.outputs := rfl

end Sys2Proof.Machine
end

