-- ==== Sys2Proof/Laws/Memory.lean ====
section
/-!
SUPPORT. Memory: what every effect on it does to each byte, and that every effect keeps the canonical form.
-/

namespace Sys2Proof.Machine

/-! ### The canonical form -/

/-- natsRising as a statement about members. -/
theorem natsRising_iff (lo : Option Nat) (l : List Nat) :
    natsRising lo l = true ↔ (∀ b ∈ lo, ∀ x ∈ l, b < x) ∧ l.Pairwise (· < ·) := by
  induction l generalizing lo with
  | nil => simp [natsRising]
  | cons h t ih =>
    simp only [natsRising, Bool.and_eq_true, ih, List.pairwise_cons, List.mem_cons]
    cases lo with
    | none => simp
    | some b =>
      simp only [Option.mem_def, Option.some.injEq, decide_eq_true_eq, forall_eq', forall_eq_or_imp]
      constructor
      · rintro ⟨h1, h2, h3⟩
        exact ⟨⟨h1, fun x hx => Nat.lt_trans h1 (h2 x hx)⟩, h2, h3⟩
      · rintro ⟨⟨h1, _⟩, h2, h3⟩
        exact ⟨h1, h2, h3⟩

/-- cellsRising as a statement about members. -/
theorem cellsRising_iff (lo : Option Nat) (l : List Host.Cell) :
    cellsRising lo l = true ↔ (∀ b ∈ lo, ∀ c ∈ l, b < c.1) ∧ (∀ c ∈ l, c.2 ≠ Memory.unlisted) ∧
      l.Pairwise (fun a b => a.1 < b.1) := by
  induction l generalizing lo with
  | nil => simp [cellsRising]
  | cons h t ih =>
    simp only [cellsRising, Bool.and_eq_true, ih, List.pairwise_cons, List.mem_cons, decide_eq_true_eq]
    cases lo with
    | none =>
      simp only [Option.mem_def, reduceCtorEq, false_implies, implies_true, true_and, Option.some.injEq, forall_eq',
        forall_eq_or_imp]
      tauto
    | some b =>
      simp only [Option.mem_def, Option.some.injEq, forall_eq', forall_eq_or_imp, decide_eq_true_eq]
      constructor
      · rintro ⟨⟨h1, h2⟩, h3, h4, h5⟩
        exact ⟨⟨h1, fun x hx => Nat.lt_trans h1 (h3 x hx)⟩, ⟨h2, h4⟩, h3, h5⟩
      · rintro ⟨⟨h1, _⟩, ⟨h2, h4⟩, h3, h5⟩
        exact ⟨⟨h1, h2⟩, h3, h4, h5⟩

/-- The canonical form of a list of cells. -/
def cellsOk (l : List Host.Cell) : Prop := (∀ c ∈ l, c.2 ≠ Memory.unlisted) ∧ l.Pairwise (fun a b => a.1 < b.1)

/-- Memory.wf in terms of its members. -/
theorem Memory.wf_iff (m : Memory) : m.wf = true ↔ cellsOk m.cells ∧ m.poison.Pairwise (· < ·) := by
  simp [Memory.wf, cellsRising_iff, natsRising_iff, cellsOk]

/-- Filtering keeps the form. -/
theorem cellsOk_filter {l : List Host.Cell} (h : cellsOk l) (p : Host.Cell → Bool) : cellsOk (l.filter p) :=
  ⟨fun c hc => h.1 c ((List.mem_filter.1 hc).1), h.2.sublist List.filter_sublist⟩

/-- Cells of a list below, inside and above a range. -/
theorem cellsOk_splice {l mid : List Host.Cell} {k n : Nat} (h : cellsOk l) (hm : cellsOk mid)
    (hin : ∀ c ∈ mid, k ≤ c.1 ∧ c.1 < k + n) : cellsOk (spliceCells l k n mid) := by
  have hb := cellsOk_filter h (fun c => decide (c.1 < k))
  have hf := cellsOk_filter h (fun c => decide (k + n ≤ c.1))
  refine ⟨?_, ?_⟩
  · intro c hc
    simp only [spliceCells, cellsBelow, cellsFrom, List.mem_append] at hc
    rcases hc with (hc | hc) | hc
    · exact hb.1 c hc
    · exact hm.1 c hc
    · exact hf.1 c hc
  · simp only [spliceCells, cellsBelow, cellsFrom, List.pairwise_append, List.mem_append, List.mem_filter,
      decide_eq_true_eq]
    refine ⟨⟨hb.2, hm.2, ?_⟩, hf.2, ?_⟩
    · rintro a ⟨_, ha⟩ b hb'
      have := (hin b hb').1
      omega
    · rintro a (⟨_, ha⟩ | ha) b ⟨_, hb'⟩
      · omega
      · have := (hin a ha).2
        omega

/-- The cells of a list of bytes lie at its keys and are in form. -/
theorem cellsOf_ok (k : Nat) (d : List Byte) :
    cellsOk (cellsOf k d) ∧ ∀ c ∈ cellsOf k d, k ≤ c.1 ∧ c.1 < k + d.length := by
  induction d generalizing k with
  | nil => simp [cellsOf, cellsOk]
  | cons b r ih =>
    obtain ⟨⟨h1, h2⟩, h3⟩ := ih (k + 1)
    unfold cellsOf
    split
    · refine ⟨⟨h1, h2⟩, fun c hc => ?_⟩
      have := h3 c hc
      simp only [List.length_cons]; omega
    · rename_i hb
      refine ⟨⟨?_, ?_⟩, ?_⟩
      · intro c hc
        rcases List.mem_cons.1 hc with rfl | hc
        · exact hb
        · exact h1 c hc
      · refine List.pairwise_cons.2 ⟨fun c hc => ?_, h2⟩
        have := (h3 c hc).1
        simp only; omega
      · intro c hc
        simp only [List.length_cons]
        rcases List.mem_cons.1 hc with rfl | hc
        · simp
        · have := h3 c hc
          omega

/-- Shifted cells lie in the destination and are in form. -/
theorem shiftedCells_ok {l : List Host.Cell} (h : cellsOk l) (src dst n : Nat) :
    cellsOk (shiftedCells l src dst n) ∧ ∀ c ∈ shiftedCells l src dst n, dst ≤ c.1 ∧ c.1 < dst + n := by
  have hf := cellsOk_filter h (fun c => decide (src ≤ c.1) && decide (c.1 < src + n))
  have hmem : ∀ c ∈ l.filter (fun c => decide (src ≤ c.1) && decide (c.1 < src + n)), src ≤ c.1 ∧ c.1 < src + n := by
    intro c hc
    simpa using (List.mem_filter.1 hc).2
  unfold shiftedCells
  refine ⟨⟨?_, ?_⟩, ?_⟩
  · intro c hc
    obtain ⟨a, ha, rfl⟩ := List.mem_map.1 hc
    exact hf.1 a ha
  · refine List.pairwise_map.2 (hf.2.imp_of_mem ?_)
    intro a b ha hb hab
    have := hmem a ha
    have := hmem b hb
    simp only; omega
  · intro c hc
    obtain ⟨a, ha, rfl⟩ := List.mem_map.1 hc
    have := hmem a ha
    simp only; omega

/-- Inserting keeps a list rising, and adds one member. -/
theorem insertNat_ok (k : Nat) (l : List Nat) (h : l.Pairwise (· < ·)) :
    (insertNat k l).Pairwise (· < ·) ∧ ∀ x, x ∈ insertNat k l ↔ x = k ∨ x ∈ l := by
  induction l with
  | nil => simp [insertNat]
  | cons a r ih =>
    obtain ⟨ha, hr⟩ := List.pairwise_cons.1 h
    obtain ⟨i1, i2⟩ := ih hr
    unfold insertNat
    split
    · rename_i hk
      refine ⟨List.pairwise_cons.2 ⟨?_, h⟩, by simp⟩
      intro x hx
      rcases List.mem_cons.1 hx with rfl | hx
      · exact hk
      · exact Nat.lt_trans hk (ha x hx)
    · split
      · rename_i hk
        subst hk
        exact ⟨h, by simp⟩
      · rename_i h1 h2
        refine ⟨List.pairwise_cons.2 ⟨?_, i1⟩, ?_⟩
        · intro x hx
          rcases (i2 x).1 hx with rfl | hx
          · omega
          · exact ha x hx
        · intro x
          simp only [List.mem_cons, i2]
          tauto

/-- Marking blocks keeps the list of poisoned blocks rising, and adds exactly those blocks. -/
theorem addPoison_ok (p l : List Nat) (h : p.Pairwise (· < ·)) :
    (addPoison p l).Pairwise (· < ·) ∧ ∀ x, x ∈ addPoison p l ↔ x ∈ l ∨ x ∈ p := by
  unfold addPoison
  induction l generalizing p with
  | nil => simp [h]
  | cons b r ih =>
    obtain ⟨j1, j2⟩ := insertNat_ok b p h
    obtain ⟨k1, k2⟩ := ih (insertNat b p) j1
    refine ⟨k1, fun x => ?_⟩
    rw [List.foldl_cons, k2, j2, List.mem_cons]
    tauto

/-- Every effect on memory keeps the canonical form. -/
theorem Memory.apply_wf (m : Memory) (op : MemOp) (h : m.wf = true) : (m.apply op).wf = true := by
  rw [Memory.wf_iff] at h ⊢
  obtain ⟨hc, hp⟩ := h
  have hw : ∀ k n, (poisonAfterWrite m.poison k n).Pairwise (· < ·) := fun k n => hp.sublist List.filter_sublist
  have hbytes : ∀ k (d : List Byte), cellsOk (spliceCells m.cells k d.length (cellsOf k d)) := fun k d =>
    cellsOk_splice hc (cellsOf_ok k d).1 (cellsOf_ok k d).2
  cases op with
  | write k d => exact ⟨hbytes k d, hw _ _⟩
  | writePoisoned k d => exact ⟨hbytes k d, (addPoison_ok _ _ hp).1⟩
  | move src dst n =>
    exact ⟨cellsOk_splice hc (shiftedCells_ok hc src dst n).1 (shiftedCells_ok hc src dst n).2,
      (addPoison_ok _ _ (hw _ _)).1⟩
  | zero k n => exact ⟨cellsOk_splice hc ⟨by simp, by simp⟩ (by simp), hw _ _⟩
  | poison k n => exact ⟨hc, (addPoison_ok _ _ hp).1⟩
  | undefinedBytes k n draw =>
    have := hbytes k ((List.range n).map (Config.freeByte draw))
    rw [List.length_map, List.length_range] at this
    exact ⟨this, hw _ _⟩

/-- A list of effects keeps the canonical form. -/
theorem Memory.applyAll_wf (m : Memory) (ops : List MemOp) (h : m.wf = true) : (m.applyAll ops).wf = true := by
  unfold Memory.applyAll
  induction ops generalizing m with
  | nil => exact h
  | cons op r ih => exact ih _ (m.apply_wf op h)

/-- A write keeps the canonical form. -/
theorem Memory.write_wf (m : Memory) (k : Nat) (d : List Byte) (h : m.wf = true) : (m.write k d).wf = true :=
  m.apply_wf (.write k d) h

/-- The memory of the reset state is in form. -/
theorem State.reset_mem_wf : State.reset.mem.wf = true := rfl

/-! ### Bytes -/

/-- The first cell of an appended list with a key. -/
theorem cellAt_append (j : Nat) (a b : List Host.Cell) :
    cellAt j (a ++ b) = if a.any (fun c => decide (c.1 = j)) then cellAt j a else cellAt j b := by
  induction a with
  | nil => simp
  | cons c r ih =>
    by_cases h : c.1 = j
    · simp [cellAt, h]
    · simp [cellAt, h, ih]

/-- A key that no cell has reads as an unlisted address. -/
theorem cellAt_none (j : Nat) (l : List Host.Cell) (h : ∀ c ∈ l, c.1 ≠ j) : cellAt j l = Memory.unlisted := by
  induction l with
  | nil => rfl
  | cons c r ih =>
    rw [cellAt, if_neg (h c (List.mem_cons_self ..)), ih (fun x hx => h x (List.mem_cons_of_mem _ hx))]

/-- A filter that keeps the cells of a key does not change what it reads as. -/
theorem cellAt_filter (j : Nat) (l : List Host.Cell) (p : Host.Cell → Bool) (h : ∀ c ∈ l, c.1 = j → p c = true) :
    cellAt j (l.filter p) = cellAt j l := by
  induction l with
  | nil => rfl
  | cons c r ih =>
    have hr := ih (fun x hx => h x (List.mem_cons_of_mem _ hx))
    by_cases hj : c.1 = j
    · rw [List.filter_cons_of_pos (h c (List.mem_cons_self ..) hj)]
      simp [cellAt, hj]
    · by_cases hp : p c = true
      · rw [List.filter_cons_of_pos hp]
        simp [cellAt, hj, hr]
      · rw [List.filter_cons_of_neg hp, hr]
        simp [cellAt, hj]

/-- What a splice reads as: the middle inside the range, the old cells outside. -/
theorem cellAt_splice (l mid : List Host.Cell) (k n j : Nat) (hin : ∀ c ∈ mid, k ≤ c.1 ∧ c.1 < k + n) :
    cellAt j (spliceCells l k n mid) = if k ≤ j ∧ j < k + n then cellAt j mid else cellAt j l := by
  have hbelow : ¬ j < k → (cellsBelow l k).any (fun c => decide (c.1 = j)) = false := by
    intro h
    simp only [cellsBelow, List.any_eq_false, List.mem_filter, decide_eq_true_eq]
    rintro c ⟨_, hc⟩ rfl
    exact h hc
  have hmid : ¬ (k ≤ j ∧ j < k + n) → mid.any (fun c => decide (c.1 = j)) = false := by
    intro h
    simp only [List.any_eq_false, decide_eq_true_eq]
    rintro c hc rfl
    exact h (hin c hc)
  unfold spliceCells
  rw [List.append_assoc, cellAt_append, cellAt_append]
  by_cases hj : j < k
  · have hno : ¬ (k ≤ j ∧ j < k + n) := by omega
    rw [if_neg hno, hmid hno]
    simp only [Bool.false_eq_true, if_false]
    have e1 : cellAt j (cellsBelow l k) = cellAt j l := cellAt_filter j l _ (by intro c _ hc; simp [hc, hj])
    have e2 : cellAt j (cellsFrom l (k + n)) = Memory.unlisted :=
      cellAt_none _ _ (by
        intro c hc
        simp only [cellsFrom, List.mem_filter, decide_eq_true_eq] at hc
        omega)
    split
    · exact e1
    · rename_i hany
      rw [e2, ← e1]
      refine (cellAt_none _ _ ?_).symm
      intro c hc hcj
      exact hany (List.any_eq_true.2 ⟨c, hc, by simp [hcj]⟩)
  · rw [hbelow hj]
    simp only [Bool.false_eq_true, if_false]
    by_cases hr : j < k + n
    · have hin' : k ≤ j ∧ j < k + n := ⟨by omega, hr⟩
      rw [if_pos hin']
      split
      · rfl
      · rename_i hany
        rw [cellAt_none j (cellsFrom l (k + n)) (by
          intro c hc
          simp only [cellsFrom, List.mem_filter, decide_eq_true_eq] at hc
          omega)]
        refine (cellAt_none _ _ ?_).symm
        intro c hc hcj
        exact hany (List.any_eq_true.2 ⟨c, hc, by simp [hcj]⟩)
    · have hno : ¬ (k ≤ j ∧ j < k + n) := by omega
      rw [if_neg hno, hmid hno]
      simp only [Bool.false_eq_true, if_false]
      exact cellAt_filter j l _ (by intro c _ hc; simp [hc]; omega)

/-- The cells of a list of bytes read as its bytes. -/
theorem cellAt_cellsOf (k j : Nat) (d : List Byte) (hj : k ≤ j) :
    cellAt j (cellsOf k d) = d.getD (j - k) Memory.unlisted := by
  induction d generalizing k with
  | nil => simp [cellsOf, cellAt]
  | cons b r ih =>
    have hskip : k = j → cellAt j (cellsOf (k + 1) r) = Memory.unlisted := by
      rintro rfl
      refine cellAt_none _ _ (fun c hc => ?_)
      have := ((cellsOf_ok (k + 1) r).2 c hc).1
      omega
    unfold cellsOf
    by_cases he : k = j
    · subst he
      split
      · rename_i hb
        rw [hskip rfl]
        simp [hb]
      · simp [cellAt]
    · have hlt : k + 1 ≤ j := by omega
      have e : j - k = (j - (k + 1)) + 1 := by omega
      split
      · rw [ih (k + 1) hlt, e, List.getD_cons_succ]
      · rw [cellAt, if_neg he, ih (k + 1) hlt, e, List.getD_cons_succ]

/-- A byte after a write: the byte written there, or what was there. -/
theorem Memory.read_write (m : Memory) (k j : Nat) (d : List Byte) :
    (m.write k d).read j = if k ≤ j ∧ j < k + d.length then d.getD (j - k) Memory.unlisted else m.read j := by
  unfold Memory.read Memory.write
  rw [cellAt_splice _ _ _ _ _ (cellsOf_ok k d).2]
  split
  · rename_i h
    exact cellAt_cellsOf k j d h.1
  · rfl

/-- A byte outside what an effect may change is unchanged. -/
theorem Memory.read_apply_outside (m : Memory) (op : MemOp) (j : Nat)
    (h : j < op.range.1 ∨ op.range.1 + op.range.2 ≤ j) : (m.apply op).read j = m.read j := by
  have hno : ∀ k n, (j < k ∨ k + n ≤ j) → ¬ (k ≤ j ∧ j < k + n) := fun k n h => by omega
  cases op <;> simp only [MemOp.range] at h
  case write k d => rw [Memory.apply, Memory.read_write, if_neg (hno _ _ h)]
  case writePoisoned k d =>
    show (m.write k d).read j = m.read j
    rw [Memory.read_write, if_neg (hno _ _ h)]
  case move src dst n =>
    have hin : ∀ c ∈ shiftedCells m.cells src dst n, dst ≤ c.1 ∧ c.1 < dst + n := by
      intro c hc
      obtain ⟨a, ha, rfl⟩ := List.mem_map.1 hc
      have := (List.mem_filter.1 ha).2
      simp only [Bool.and_eq_true, decide_eq_true_eq] at this
      simp only; omega
    show cellAt j (spliceCells _ _ _ _) = cellAt j _
    rw [cellAt_splice _ _ _ _ _ hin, if_neg (hno _ _ h)]
  case zero k n =>
    show cellAt j (spliceCells _ _ _ _) = cellAt j _
    rw [cellAt_splice _ _ _ _ _ (by simp), if_neg (hno _ _ h)]
  case poison k n => rfl
  case undefinedBytes k n draw =>
    have hin := (cellsOf_ok k ((List.range n).map (Config.freeByte draw))).2
    rw [List.length_map, List.length_range] at hin
    show cellAt j (spliceCells _ _ _ _) = cellAt j _
    rw [cellAt_splice _ _ _ _ _ hin, if_neg (hno _ _ h)]

/-- A byte outside what every effect of a list may change is unchanged. -/
theorem Memory.read_applyAll_outside (m : Memory) (ops : List MemOp) (j : Nat)
    (h : ∀ op ∈ ops, j < op.range.1 ∨ op.range.1 + op.range.2 ≤ j) : (m.applyAll ops).read j = m.read j := by
  unfold Memory.applyAll
  induction ops generalizing m with
  | nil => rfl
  | cons op r ih =>
    rw [List.foldl_cons, ih _ (fun x hx => h x (List.mem_cons_of_mem _ hx)),
      Memory.read_apply_outside _ _ _ (h op (List.mem_cons_self ..))]

end Sys2Proof.Machine
end

