-- ==== Sys2Proof/Laws/Frames.lean ====
section
/-!
SUPPORT. What each operation may change: one lemma for each function that gives a state. Each says which parts of the state it
leaves as they were, that memory keeps its canonical form, and that the security counter does not fall.
-/

namespace Sys2Proof.Machine

section

set_option Elab.async false

/-- From s to t only the listed parts may have changed, memory keeps its form, and the security counter has not fallen. -/
def Keeps (ps : List Part) (s t : State) : Prop :=
  changesOnly ps s t ∧ (s.mem.wf = true → t.mem.wf = true) ∧ s.binnacle.counter ≤ t.binnacle.counter

/-- Parts agree with themselves. -/
theorem Part.same_refl (p : Part) (s : State) : p.same s s := by
  cases p <;> rfl

/-- Agreement passes through a middle state. -/
theorem Part.same_trans {p : Part} {s t u : State} (h1 : p.same s t) (h2 : p.same t u) : p.same s u := by
  cases p <;> exact Eq.trans h2 h1

/-- Nothing changes. -/
theorem Keeps.refl (ps : List Part) (s : State) : Keeps ps s s :=
  ⟨fun p _ => p.same_refl s, id, Nat.le_refl _⟩

/-- One more operation, whose parts are among those that may change. -/
theorem Keeps.after {a b : List Part} {s t u : State} (h2 : Keeps a t u) (h1 : Keeps b s t)
    (h : a.all b.contains = true := by rfl) : Keeps b s u := by
  refine ⟨fun p hp => Part.same_trans (h1.1 p hp) (h2.1 p ?_), fun hw => h2.2.1 (h1.2.1 hw), Nat.le_trans h1.2.2 h2.2.2⟩
  by_contra hc
  rw [Bool.not_eq_false] at hc
  have := List.all_eq_true.1 h p (List.contains_iff_mem.1 hc)
  rw [hp] at this
  exact Bool.noConfusion this

/-- More parts may change. -/
theorem Keeps.mono {a b : List Part} {s t : State} (h1 : Keeps a s t) (h : a.all b.contains = true) : Keeps b s t :=
  h1.after (Keeps.refl _ _) h

/-- Either branch. -/
theorem Keeps.ite {c : Prop} [Decidable c] {ps : List Part} {s t u : State} (h1 : c → Keeps ps s t)
    (h2 : ¬ c → Keeps ps s u) : Keeps ps s (if c then t else u) := by
  split
  · exact h1 ‹_›
  · exact h2 ‹_›

/-- A fold of operations. -/
theorem Keeps.foldl {α : Type} {ps : List Part} {s t : State} {f : State → α → State} {l : List α}
    (hf : ∀ t a, Keeps ps t (f t a)) (h : Keeps ps s t) : Keeps ps s (l.foldl f t) := by
  induction l generalizing t with
  | nil => exact h
  | cons a r ih => exact ih ((hf t a).after h (List.all_eq_true.2 (fun p hp => List.contains_iff_mem.2 hp)))

/-- A command that answers a state answers the state of its effect. -/
theorem Keeps.performed {ps : List Part} {s t0 t : State} {c : Instr} (hk : Keeps ps s t0) (h : perform c t0 = .next t) :
    Keeps ps s t := by
  unfold perform at h
  split at h
  · rw [← Host.Outcome.next.inj h]
    exact hk
  · exact absurd h (by simp)

/-- Replacing now. -/
theorem Keeps.made_now {ps : List Part} {s i : State}
    {now : Nat}
    (h : Keeps ps s i)
    (hm : [Part.now].all ps.contains = true := by rfl) :
    Keeps ps s { i with
      now := now } := by
  refine Keeps.after (t := i) (a := [.now]) ⟨?_, id, Nat.le_refl _⟩ h hm
  intro p hp
  cases p <;> first | exact Bool.noConfusion hp | rfl

/-- Replacing now, tick, boundary, period. -/
theorem Keeps.made_now_tick_boundary_period {ps : List Part} {s i : State}
    {now : Nat} {tick : Nat} {boundary : Nat} {period : Nat}
    (h : Keeps ps s i)
    (hm : [Part.now, Part.tick, Part.boundary, Part.period].all ps.contains = true := by rfl) :
    Keeps ps s { i with
      now := now, tick := tick, boundary := boundary, period := period } := by
  refine Keeps.after (t := i) (a := [.now, .tick, .boundary, .period]) ⟨?_, id, Nat.le_refl _⟩ h hm
  intro p hp
  cases p <;> first | exact Bool.noConfusion hp | rfl

/-- Replacing free. -/
theorem Keeps.made_free {ps : List Part} {s i : State}
    {free : Nat}
    (h : Keeps ps s i)
    (hm : [Part.free].all ps.contains = true := by rfl) :
    Keeps ps s { i with
      free := free } := by
  refine Keeps.after (t := i) (a := [.free]) ⟨?_, id, Nat.le_refl _⟩ h hm
  intro p hp
  cases p <;> first | exact Bool.noConfusion hp | rfl

/-- Replacing free, chart, jobs, fabric, power. -/
theorem Keeps.made_free_chart_jobs_fabric_power {ps : List Part} {s i : State}
    {free : Nat} {chart : Option Chart} {jobs : List Job} {fabric : Fabric} {power : Power}
    (h : Keeps ps s i)
    (hm : [Part.free, Part.chart, Part.jobs, Part.fabric, Part.power].all ps.contains = true := by rfl) :
    Keeps ps s { i with
      free := free, chart := chart, jobs := jobs, fabric := fabric, power := power } := by
  refine Keeps.after (t := i) (a := [.free, .chart, .jobs, .fabric, .power]) ⟨?_, id, Nat.le_refl _⟩ h hm
  intro p hp
  cases p <;> first | exact Bool.noConfusion hp | rfl

/-- Replacing regs. -/
theorem Keeps.made_regs {ps : List Part} {s i : State}
    {regs : List (Nat × Nat)}
    (h : Keeps ps s i)
    (hm : [Part.regs].all ps.contains = true := by rfl) :
    Keeps ps s { i with
      regs := regs } := by
  refine Keeps.after (t := i) (a := [.regs]) ⟨?_, id, Nat.le_refl _⟩ h hm
  intro p hp
  cases p <;> first | exact Bool.noConfusion hp | rfl

/-- Replacing eventSeq. -/
theorem Keeps.made_eventSeq {ps : List Part} {s i : State}
    {eventSeq : Nat}
    (h : Keeps ps s i)
    (hm : [Part.eventSeq].all ps.contains = true := by rfl) :
    Keeps ps s { i with
      eventSeq := eventSeq } := by
  refine Keeps.after (t := i) (a := [.eventSeq]) ⟨?_, id, Nat.le_refl _⟩ h hm
  intro p hp
  cases p <;> first | exact Bool.noConfusion hp | rfl

/-- Replacing eventSeq, rings, fabric, sysreset, pcie. -/
theorem Keeps.made_eventSeq_rings_fabric_sysreset_pcie {ps : List Part} {s i : State}
    {eventSeq : Nat} {rings : List Ring} {fabric : Fabric} {sysreset : Option SysReset} {pcie : Pcie}
    (h : Keeps ps s i)
    (hm : [Part.eventSeq, Part.rings, Part.fabric, Part.sysreset, Part.pcie].all ps.contains = true := by rfl) :
    Keeps ps s { i with
      eventSeq := eventSeq, rings := rings, fabric := fabric, sysreset := sysreset, pcie := pcie } := by
  refine Keeps.after (t := i) (a := [.eventSeq, .rings, .fabric, .sysreset, .pcie]) ⟨?_, id, Nat.le_refl _⟩ h hm
  intro p hp
  cases p <;> first | exact Bool.noConfusion hp | rfl

/-- Replacing errorSeq. -/
theorem Keeps.made_errorSeq {ps : List Part} {s i : State}
    {errorSeq : Nat}
    (h : Keeps ps s i)
    (hm : [Part.errorSeq].all ps.contains = true := by rfl) :
    Keeps ps s { i with
      errorSeq := errorSeq } := by
  refine Keeps.after (t := i) (a := [.errorSeq]) ⟨?_, id, Nat.le_refl _⟩ h hm
  intro p hp
  cases p <;> first | exact Bool.noConfusion hp | rfl

/-- Replacing chart, zeroing, rings, tasks, jobs, tables. -/
theorem Keeps.made_chart_zeroing_rings_tasks_jobs_tables {ps : List Part} {s i : State}
    {chart : Option Chart} {zeroing : Bool} {rings : List Ring} {tasks : List Task} {jobs : List Job} {tables : List
      OpenTable}
    (h : Keeps ps s i)
    (hm : [Part.chart, Part.zeroing, Part.rings, Part.tasks, Part.jobs,
      Part.tables].all ps.contains = true := by rfl) :
    Keeps ps s { i with
      chart := chart, zeroing := zeroing, rings := rings, tasks := tasks, jobs := jobs, tables := tables } := by
  refine Keeps.after (t := i) (a := [.chart, .zeroing, .rings, .tasks, .jobs, .tables]) ⟨?_, id, Nat.le_refl _⟩ h hm
  intro p hp
  cases p <;> first | exact Bool.noConfusion hp | rfl

/-- Replacing load. -/
theorem Keeps.made_load {ps : List Part} {s i : State}
    {load : Option Load}
    (h : Keeps ps s i)
    (hm : [Part.load].all ps.contains = true := by rfl) :
    Keeps ps s { i with
      load := load } := by
  refine Keeps.after (t := i) (a := [.load]) ⟨?_, id, Nat.le_refl _⟩ h hm
  intro p hp
  cases p <;> first | exact Bool.noConfusion hp | rfl

/-- Replacing load, unloadWaiting. -/
theorem Keeps.made_load_unloadWaiting {ps : List Part} {s i : State}
    {load : Option Load} {unloadWaiting : Bool}
    (h : Keeps ps s i)
    (hm : [Part.load, Part.unloadWaiting].all ps.contains = true := by rfl) :
    Keeps ps s { i with
      load := load, unloadWaiting := unloadWaiting } := by
  refine Keeps.after (t := i) (a := [.load, .unloadWaiting]) ⟨?_, id, Nat.le_refl _⟩ h hm
  intro p hp
  cases p <;> first | exact Bool.noConfusion hp | rfl

/-- Replacing unloadWaiting. -/
theorem Keeps.made_unloadWaiting {ps : List Part} {s i : State}
    {unloadWaiting : Bool}
    (h : Keeps ps s i)
    (hm : [Part.unloadWaiting].all ps.contains = true := by rfl) :
    Keeps ps s { i with
      unloadWaiting := unloadWaiting } := by
  refine Keeps.after (t := i) (a := [.unloadWaiting]) ⟨?_, id, Nat.le_refl _⟩ h hm
  intro p hp
  cases p <;> first | exact Bool.noConfusion hp | rfl

/-- Replacing zeroing. -/
theorem Keeps.made_zeroing {ps : List Part} {s i : State}
    {zeroing : Bool}
    (h : Keeps ps s i)
    (hm : [Part.zeroing].all ps.contains = true := by rfl) :
    Keeps ps s { i with
      zeroing := zeroing } := by
  refine Keeps.after (t := i) (a := [.zeroing]) ⟨?_, id, Nat.le_refl _⟩ h hm
  intro p hp
  cases p <;> first | exact Bool.noConfusion hp | rfl

/-- Replacing rings. -/
theorem Keeps.made_rings {ps : List Part} {s i : State}
    {rings : List Ring}
    (h : Keeps ps s i)
    (hm : [Part.rings].all ps.contains = true := by rfl) :
    Keeps ps s { i with
      rings := rings } := by
  refine Keeps.after (t := i) (a := [.rings]) ⟨?_, id, Nat.le_refl _⟩ h hm
  intro p hp
  cases p <;> first | exact Bool.noConfusion hp | rfl

/-- Replacing tasks. -/
theorem Keeps.made_tasks {ps : List Part} {s i : State}
    {tasks : List Task}
    (h : Keeps ps s i)
    (hm : [Part.tasks].all ps.contains = true := by rfl) :
    Keeps ps s { i with
      tasks := tasks } := by
  refine Keeps.after (t := i) (a := [.tasks]) ⟨?_, id, Nat.le_refl _⟩ h hm
  intro p hp
  cases p <;> first | exact Bool.noConfusion hp | rfl

/-- Replacing tasks, signals. -/
theorem Keeps.made_tasks_signals {ps : List Part} {s i : State}
    {tasks : List Task} {signals : List PendingSignal}
    (h : Keeps ps s i)
    (hm : [Part.tasks, Part.signals].all ps.contains = true := by rfl) :
    Keeps ps s { i with
      tasks := tasks, signals := signals } := by
  refine Keeps.after (t := i) (a := [.tasks, .signals]) ⟨?_, id, Nat.le_refl _⟩ h hm
  intro p hp
  cases p <;> first | exact Bool.noConfusion hp | rfl

/-- Replacing tasks, power. -/
theorem Keeps.made_tasks_power {ps : List Part} {s i : State}
    {tasks : List Task} {power : Power}
    (h : Keeps ps s i)
    (hm : [Part.tasks, Part.power].all ps.contains = true := by rfl) :
    Keeps ps s { i with
      tasks := tasks, power := power } := by
  refine Keeps.after (t := i) (a := [.tasks, .power]) ⟨?_, id, Nat.le_refl _⟩ h hm
  intro p hp
  cases p <;> first | exact Bool.noConfusion hp | rfl

/-- Replacing signals. -/
theorem Keeps.made_signals {ps : List Part} {s i : State}
    {signals : List PendingSignal}
    (h : Keeps ps s i)
    (hm : [Part.signals].all ps.contains = true := by rfl) :
    Keeps ps s { i with
      signals := signals } := by
  refine Keeps.after (t := i) (a := [.signals]) ⟨?_, id, Nat.le_refl _⟩ h hm
  intro p hp
  cases p <;> first | exact Bool.noConfusion hp | rfl

/-- Replacing signals, tables, reductions. -/
theorem Keeps.made_signals_tables_reductions {ps : List Part} {s i : State}
    {signals : List PendingSignal} {tables : List OpenTable} {reductions : List Reduction}
    (h : Keeps ps s i)
    (hm : [Part.signals, Part.tables, Part.reductions].all ps.contains = true := by rfl) :
    Keeps ps s { i with
      signals := signals, tables := tables, reductions := reductions } := by
  refine Keeps.after (t := i) (a := [.signals, .tables, .reductions]) ⟨?_, id, Nat.le_refl _⟩ h hm
  intro p hp
  cases p <;> first | exact Bool.noConfusion hp | rfl

/-- Replacing jobs. -/
theorem Keeps.made_jobs {ps : List Part} {s i : State}
    {jobs : List Job}
    (h : Keeps ps s i)
    (hm : [Part.jobs].all ps.contains = true := by rfl) :
    Keeps ps s { i with
      jobs := jobs } := by
  refine Keeps.after (t := i) (a := [.jobs]) ⟨?_, id, Nat.le_refl _⟩ h hm
  intro p hp
  cases p <;> first | exact Bool.noConfusion hp | rfl

/-- Replacing jobs, power. -/
theorem Keeps.made_jobs_power {ps : List Part} {s i : State}
    {jobs : List Job} {power : Power}
    (h : Keeps ps s i)
    (hm : [Part.jobs, Part.power].all ps.contains = true := by rfl) :
    Keeps ps s { i with
      jobs := jobs, power := power } := by
  refine Keeps.after (t := i) (a := [.jobs, .power]) ⟨?_, id, Nat.le_refl _⟩ h hm
  intro p hp
  cases p <;> first | exact Bool.noConfusion hp | rfl

/-- Replacing streams. -/
theorem Keeps.made_streams {ps : List Part} {s i : State}
    {streams : List Stream}
    (h : Keeps ps s i)
    (hm : [Part.streams].all ps.contains = true := by rfl) :
    Keeps ps s { i with
      streams := streams } := by
  refine Keeps.after (t := i) (a := [.streams]) ⟨?_, id, Nat.le_refl _⟩ h hm
  intro p hp
  cases p <;> first | exact Bool.noConfusion hp | rfl

/-- Replacing streams, fabric. -/
theorem Keeps.made_streams_fabric {ps : List Part} {s i : State}
    {streams : List Stream} {fabric : Fabric}
    (h : Keeps ps s i)
    (hm : [Part.streams, Part.fabric].all ps.contains = true := by rfl) :
    Keeps ps s { i with
      streams := streams, fabric := fabric } := by
  refine Keeps.after (t := i) (a := [.streams, .fabric]) ⟨?_, id, Nat.le_refl _⟩ h hm
  intro p hp
  cases p <;> first | exact Bool.noConfusion hp | rfl

/-- Replacing memQueue. -/
theorem Keeps.made_memQueue {ps : List Part} {s i : State}
    {memQueue : List MemRequest}
    (h : Keeps ps s i)
    (hm : [Part.memQueue].all ps.contains = true := by rfl) :
    Keeps ps s { i with
      memQueue := memQueue } := by
  refine Keeps.after (t := i) (a := [.memQueue]) ⟨?_, id, Nat.le_refl _⟩ h hm
  intro p hp
  cases p <;> first | exact Bool.noConfusion hp | rfl

/-- Replacing tables. -/
theorem Keeps.made_tables {ps : List Part} {s i : State}
    {tables : List OpenTable}
    (h : Keeps ps s i)
    (hm : [Part.tables].all ps.contains = true := by rfl) :
    Keeps ps s { i with
      tables := tables } := by
  refine Keeps.after (t := i) (a := [.tables]) ⟨?_, id, Nat.le_refl _⟩ h hm
  intro p hp
  cases p <;> first | exact Bool.noConfusion hp | rfl

/-- Replacing drift. -/
theorem Keeps.made_drift {ps : List Part} {s i : State}
    {drift : List DriftWindow}
    (h : Keeps ps s i)
    (hm : [Part.drift].all ps.contains = true := by rfl) :
    Keeps ps s { i with
      drift := drift } := by
  refine Keeps.after (t := i) (a := [.drift]) ⟨?_, id, Nat.le_refl _⟩ h hm
  intro p hp
  cases p <;> first | exact Bool.noConfusion hp | rfl

/-- Replacing lanes. -/
theorem Keeps.made_lanes {ps : List Part} {s i : State}
    {lanes : List LaneCount}
    (h : Keeps ps s i)
    (hm : [Part.lanes].all ps.contains = true := by rfl) :
    Keeps ps s { i with
      lanes := lanes } := by
  refine Keeps.after (t := i) (a := [.lanes]) ⟨?_, id, Nat.le_refl _⟩ h hm
  intro p hp
  cases p <;> first | exact Bool.noConfusion hp | rfl

/-- Replacing lanes, binnacle. -/
theorem Keeps.made_lanes_binnacle {ps : List Part} {s i : State}
    {lanes : List LaneCount} {binnacle : Binnacle}
    (h : Keeps ps s i)
    (hm : [Part.lanes, Part.binnacle].all ps.contains = true := by rfl)
    (hb : i.binnacle.counter ≤ binnacle.counter := by
      first | exact Nat.le_refl _ | exact Nat.le_max_left _ _ | (split <;> exact Nat.le_refl _)) :
    Keeps ps s { i with
      lanes := lanes, binnacle := binnacle } := by
  refine Keeps.after (t := i) (a := [.lanes, .binnacle]) ⟨?_, id, hb⟩ h hm
  intro p hp
  cases p <;> first | exact Bool.noConfusion hp | rfl

/-- Replacing corrections. -/
theorem Keeps.made_corrections {ps : List Part} {s i : State}
    {corrections : List Correction}
    (h : Keeps ps s i)
    (hm : [Part.corrections].all ps.contains = true := by rfl) :
    Keeps ps s { i with
      corrections := corrections } := by
  refine Keeps.after (t := i) (a := [.corrections]) ⟨?_, id, Nat.le_refl _⟩ h hm
  intro p hp
  cases p <;> first | exact Bool.noConfusion hp | rfl

/-- Replacing scrubbed. -/
theorem Keeps.made_scrubbed {ps : List Part} {s i : State}
    {scrubbed : List Nat}
    (h : Keeps ps s i)
    (hm : [Part.scrubbed].all ps.contains = true := by rfl) :
    Keeps ps s { i with
      scrubbed := scrubbed } := by
  refine Keeps.after (t := i) (a := [.scrubbed]) ⟨?_, id, Nat.le_refl _⟩ h hm
  intro p hp
  cases p <;> first | exact Bool.noConfusion hp | rfl

/-- Replacing bankQuiet. -/
theorem Keeps.made_bankQuiet {ps : List Part} {s i : State}
    {bankQuiet : List Nat}
    (h : Keeps ps s i)
    (hm : [Part.bankQuiet].all ps.contains = true := by rfl) :
    Keeps ps s { i with
      bankQuiet := bankQuiet } := by
  refine Keeps.after (t := i) (a := [.bankQuiet]) ⟨?_, id, Nat.le_refl _⟩ h hm
  intro p hp
  cases p <;> first | exact Bool.noConfusion hp | rfl

/-- Replacing fabric. -/
theorem Keeps.made_fabric {ps : List Part} {s i : State}
    {fabric : Fabric}
    (h : Keeps ps s i)
    (hm : [Part.fabric].all ps.contains = true := by rfl) :
    Keeps ps s { i with
      fabric := fabric } := by
  refine Keeps.after (t := i) (a := [.fabric]) ⟨?_, id, Nat.le_refl _⟩ h hm
  intro p hp
  cases p <;> first | exact Bool.noConfusion hp | rfl

/-- Replacing fabric, combining. -/
theorem Keeps.made_fabric_combining {ps : List Part} {s i : State}
    {fabric : Fabric} {combining : List Combining}
    (h : Keeps ps s i)
    (hm : [Part.fabric, Part.combining].all ps.contains = true := by rfl) :
    Keeps ps s { i with
      fabric := fabric, combining := combining } := by
  refine Keeps.after (t := i) (a := [.fabric, .combining]) ⟨?_, id, Nat.le_refl _⟩ h hm
  intro p hp
  cases p <;> first | exact Bool.noConfusion hp | rfl

/-- Replacing fabric, pcie. -/
theorem Keeps.made_fabric_pcie {ps : List Part} {s i : State}
    {fabric : Fabric} {pcie : Pcie}
    (h : Keeps ps s i)
    (hm : [Part.fabric, Part.pcie].all ps.contains = true := by rfl) :
    Keeps ps s { i with
      fabric := fabric, pcie := pcie } := by
  refine Keeps.after (t := i) (a := [.fabric, .pcie]) ⟨?_, id, Nat.le_refl _⟩ h hm
  intro p hp
  cases p <;> first | exact Bool.noConfusion hp | rfl

/-- Replacing reductions. -/
theorem Keeps.made_reductions {ps : List Part} {s i : State}
    {reductions : List Reduction}
    (h : Keeps ps s i)
    (hm : [Part.reductions].all ps.contains = true := by rfl) :
    Keeps ps s { i with
      reductions := reductions } := by
  refine Keeps.after (t := i) (a := [.reductions]) ⟨?_, id, Nat.le_refl _⟩ h hm
  intro p hp
  cases p <;> first | exact Bool.noConfusion hp | rfl

/-- Replacing combining. -/
theorem Keeps.made_combining {ps : List Part} {s i : State}
    {combining : List Combining}
    (h : Keeps ps s i)
    (hm : [Part.combining].all ps.contains = true := by rfl) :
    Keeps ps s { i with
      combining := combining } := by
  refine Keeps.after (t := i) (a := [.combining]) ⟨?_, id, Nat.le_refl _⟩ h hm
  intro p hp
  cases p <;> first | exact Bool.noConfusion hp | rfl

/-- Replacing sysreset. -/
theorem Keeps.made_sysreset {ps : List Part} {s i : State}
    {sysreset : Option SysReset}
    (h : Keeps ps s i)
    (hm : [Part.sysreset].all ps.contains = true := by rfl) :
    Keeps ps s { i with
      sysreset := sysreset } := by
  refine Keeps.after (t := i) (a := [.sysreset]) ⟨?_, id, Nat.le_refl _⟩ h hm
  intro p hp
  cases p <;> first | exact Bool.noConfusion hp | rfl

/-- Replacing power. -/
theorem Keeps.made_power {ps : List Part} {s i : State}
    {power : Power}
    (h : Keeps ps s i)
    (hm : [Part.power].all ps.contains = true := by rfl) :
    Keeps ps s { i with
      power := power } := by
  refine Keeps.after (t := i) (a := [.power]) ⟨?_, id, Nat.le_refl _⟩ h hm
  intro p hp
  cases p <;> first | exact Bool.noConfusion hp | rfl

/-- Replacing power, binnacle. -/
theorem Keeps.made_power_binnacle {ps : List Part} {s i : State}
    {power : Power} {binnacle : Binnacle}
    (h : Keeps ps s i)
    (hm : [Part.power, Part.binnacle].all ps.contains = true := by rfl)
    (hb : i.binnacle.counter ≤ binnacle.counter := by
      first | exact Nat.le_refl _ | exact Nat.le_max_left _ _ | (split <;> exact Nat.le_refl _)) :
    Keeps ps s { i with
      power := power, binnacle := binnacle } := by
  refine Keeps.after (t := i) (a := [.power, .binnacle]) ⟨?_, id, hb⟩ h hm
  intro p hp
  cases p <;> first | exact Bool.noConfusion hp | rfl

/-- Replacing power, carrier. -/
theorem Keeps.made_power_carrier {ps : List Part} {s i : State}
    {power : Power} {carrier : Carrier}
    (h : Keeps ps s i)
    (hm : [Part.power, Part.carrier].all ps.contains = true := by rfl) :
    Keeps ps s { i with
      power := power, carrier := carrier } := by
  refine Keeps.after (t := i) (a := [.power, .carrier]) ⟨?_, id, Nat.le_refl _⟩ h hm
  intro p hp
  cases p <;> first | exact Bool.noConfusion hp | rfl

/-- Replacing pcie. -/
theorem Keeps.made_pcie {ps : List Part} {s i : State}
    {pcie : Pcie}
    (h : Keeps ps s i)
    (hm : [Part.pcie].all ps.contains = true := by rfl) :
    Keeps ps s { i with
      pcie := pcie } := by
  refine Keeps.after (t := i) (a := [.pcie]) ⟨?_, id, Nat.le_refl _⟩ h hm
  intro p hp
  cases p <;> first | exact Bool.noConfusion hp | rfl

/-- Replacing pcie, binnacle. -/
theorem Keeps.made_pcie_binnacle {ps : List Part} {s i : State}
    {pcie : Pcie} {binnacle : Binnacle}
    (h : Keeps ps s i)
    (hm : [Part.pcie, Part.binnacle].all ps.contains = true := by rfl)
    (hb : i.binnacle.counter ≤ binnacle.counter := by
      first | exact Nat.le_refl _ | exact Nat.le_max_left _ _ | (split <;> exact Nat.le_refl _)) :
    Keeps ps s { i with
      pcie := pcie, binnacle := binnacle } := by
  refine Keeps.after (t := i) (a := [.pcie, .binnacle]) ⟨?_, id, hb⟩ h hm
  intro p hp
  cases p <;> first | exact Bool.noConfusion hp | rfl

/-- Replacing pcie, outputs. -/
theorem Keeps.made_pcie_outputs {ps : List Part} {s i : State}
    {pcie : Pcie} {outputs : List Output}
    (h : Keeps ps s i)
    (hm : [Part.pcie, Part.outputs].all ps.contains = true := by rfl) :
    Keeps ps s { i with
      pcie := pcie, outputs := outputs } := by
  refine Keeps.after (t := i) (a := [.pcie, .outputs]) ⟨?_, id, Nat.le_refl _⟩ h hm
  intro p hp
  cases p <;> first | exact Bool.noConfusion hp | rfl

/-- Replacing boot. -/
theorem Keeps.made_boot {ps : List Part} {s i : State}
    {boot : Boot}
    (h : Keeps ps s i)
    (hm : [Part.boot].all ps.contains = true := by rfl) :
    Keeps ps s { i with
      boot := boot } := by
  refine Keeps.after (t := i) (a := [.boot]) ⟨?_, id, Nat.le_refl _⟩ h hm
  intro p hp
  cases p <;> first | exact Bool.noConfusion hp | rfl

/-- Replacing boot, binnacle. -/
theorem Keeps.made_boot_binnacle {ps : List Part} {s i : State}
    {boot : Boot} {binnacle : Binnacle}
    (h : Keeps ps s i)
    (hm : [Part.boot, Part.binnacle].all ps.contains = true := by rfl)
    (hb : i.binnacle.counter ≤ binnacle.counter := by
      first | exact Nat.le_refl _ | exact Nat.le_max_left _ _ | (split <;> exact Nat.le_refl _)) :
    Keeps ps s { i with
      boot := boot, binnacle := binnacle } := by
  refine Keeps.after (t := i) (a := [.boot, .binnacle]) ⟨?_, id, hb⟩ h hm
  intro p hp
  cases p <;> first | exact Bool.noConfusion hp | rfl

/-- Replacing boot, binnacle, carrier. -/
theorem Keeps.made_boot_binnacle_carrier {ps : List Part} {s i : State}
    {boot : Boot} {binnacle : Binnacle} {carrier : Carrier}
    (h : Keeps ps s i)
    (hm : [Part.boot, Part.binnacle, Part.carrier].all ps.contains = true := by rfl)
    (hb : i.binnacle.counter ≤ binnacle.counter := by
      first | exact Nat.le_refl _ | exact Nat.le_max_left _ _ | (split <;> exact Nat.le_refl _)) :
    Keeps ps s { i with
      boot := boot, binnacle := binnacle, carrier := carrier } := by
  refine Keeps.after (t := i) (a := [.boot, .binnacle, .carrier]) ⟨?_, id, hb⟩ h hm
  intro p hp
  cases p <;> first | exact Bool.noConfusion hp | rfl

/-- Replacing binnacle. -/
theorem Keeps.made_binnacle {ps : List Part} {s i : State}
    {binnacle : Binnacle}
    (h : Keeps ps s i)
    (hm : [Part.binnacle].all ps.contains = true := by rfl)
    (hb : i.binnacle.counter ≤ binnacle.counter := by
      first | exact Nat.le_refl _ | exact Nat.le_max_left _ _ | (split <;> exact Nat.le_refl _)) :
    Keeps ps s { i with
      binnacle := binnacle } := by
  refine Keeps.after (t := i) (a := [.binnacle]) ⟨?_, id, hb⟩ h hm
  intro p hp
  cases p <;> first | exact Bool.noConfusion hp | rfl

/-- Replacing carrier. -/
theorem Keeps.made_carrier {ps : List Part} {s i : State}
    {carrier : Carrier}
    (h : Keeps ps s i)
    (hm : [Part.carrier].all ps.contains = true := by rfl) :
    Keeps ps s { i with
      carrier := carrier } := by
  refine Keeps.after (t := i) (a := [.carrier]) ⟨?_, id, Nat.le_refl _⟩ h hm
  intro p hp
  cases p <;> first | exact Bool.noConfusion hp | rfl

/-- Replacing outputs. -/
theorem Keeps.made_outputs {ps : List Part} {s i : State}
    {outputs : List Output}
    (h : Keeps ps s i)
    (hm : [Part.outputs].all ps.contains = true := by rfl) :
    Keeps ps s { i with
      outputs := outputs } := by
  refine Keeps.after (t := i) (a := [.outputs]) ⟨?_, id, Nat.le_refl _⟩ h hm
  intro p hp
  cases p <;> first | exact Bool.noConfusion hp | rfl

/-- What State.setReg may change. -/
theorem State.setReg_keeps (s : State) (f : Field) (v : Nat) :
    Keeps [.regs] s (State.setReg s f v) := by
  unfold State.setReg
  refine Keeps.made_regs ?_
  exact Keeps.refl _ _

/-- What State.setRegs may change. -/
theorem State.setRegs_keeps (s : State) (l : List (Field × Nat)) :
    Keeps [.regs] s (State.setRegs s l) := by
  unfold State.setRegs
  refine Keeps.foldl (fun _ _ => ?_) ?_
  refine Keeps.after (State.setReg_keeps ..) ?_
  exact Keeps.refl _ _
  exact Keeps.refl _ _

/-- What State.dropTask may change. -/
theorem State.dropTask_keeps (s : State) (id : TaskId) :
    Keeps [.tasks] s (State.dropTask s id) := by
  unfold State.dropTask
  refine Keeps.made_tasks ?_
  exact Keeps.refl _ _

/-- What State.bump may change. -/
theorem State.bump_keeps (s : State) (f : Field) (n : Nat) :
    Keeps [.regs] s (State.bump s f n) := by
  unfold State.bump
  refine Keeps.after (State.setReg_keeps ..) ?_
  exact Keeps.refl _ _

/-- What State.setTask may change. -/
theorem State.setTask_keeps (s : State) (t : Task) :
    Keeps [.tasks] s (State.setTask s t) := by
  unfold State.setTask
  refine Keeps.made_tasks ?_
  exact Keeps.refl _ _

/-- What State.setJob may change. -/
theorem State.setJob_keeps (s : State) (j : Job) :
    Keeps [.jobs] s (State.setJob s j) := by
  unfold State.setJob
  refine Keeps.made_jobs ?_
  exact Keeps.refl _ _

/-- What State.raiseReg may change. -/
theorem State.raiseReg_keeps (s : State) (f : Field) (v : Nat) :
    Keeps [.regs] s (State.raiseReg s f v) := by
  unfold State.raiseReg
  refine Keeps.ite (fun _ => ?_) (fun _ => ?_)
  refine Keeps.after (State.setReg_keeps ..) ?_
  exact Keeps.refl _ _
  exact Keeps.refl _ _

/-- What State.write may change. -/
theorem State.write_keeps (s : State) (k : Nat) (d : List Byte) : Keeps [.mem, .writes] s (State.write s k d) := by
  refine ⟨?_, fun h => Memory.write_wf s.mem k d h, Nat.le_refl _⟩
  intro p hp
  cases p <;> first | exact Bool.noConfusion hp | rfl

/-- What State.memOps may change. -/
theorem State.memOps_keeps (s : State) (ops : List MemOp) : Keeps [.mem, .writes] s (State.memOps s ops) := by
  refine ⟨?_, fun h => Memory.applyAll_wf s.mem ops h, Nat.le_refl _⟩
  intro p hp
  cases p <;> first | exact Bool.noConfusion hp | rfl

/-- What State.setRing may change. -/
theorem State.setRing_keeps (s : State) (r : Ring) :
    Keeps [.rings] s (State.setRing s r) := by
  unfold State.setRing
  refine Keeps.made_rings ?_
  exact Keeps.refl _ _

/-- What State.draw may change. -/
theorem State.draw_keeps (s : State) :
    Keeps [.free] s (State.draw s).2 := by
  unfold State.draw
  dsimp only
  refine Keeps.made_free ?_
  exact Keeps.refl _ _

/-- The same of a result that is named. -/
theorem State.draw_keeps_eq {s : State} {y : _} {t0 : State}
    (h : State.draw s = (y, t0)) : Keeps [.free] s t0 := by
  have hk := State.draw_keeps s
  rw [h] at hk
  exact hk

/-- What State.resetRegs may change. -/
theorem State.resetRegs_keeps (s : State) (sel : Nat → Bool) :
    Keeps [.regs] s (State.resetRegs s sel) := by
  unfold State.resetRegs
  refine Keeps.made_regs ?_
  exact Keeps.refl _ _

/-- What State.emit may change. -/
theorem State.emit_keeps (s : State) (o : Output) :
    Keeps [.outputs] s (State.emit s o) := by
  unfold State.emit
  refine Keeps.made_outputs ?_
  exact Keeps.refl _ _

/-- A host write that is turned away leaves by the connector only. -/
theorem State.secWrite_keeps {ps : List Part} {s t : State} (h : Keeps ps s t) (ho : ps.contains .outputs = true :=
      by rfl) :
    Keeps ps s (State.secWrite s t) := by
  unfold State.secWrite
  split
  · exact Keeps.refl _ _
  · split
    · exact Keeps.after (State.emit_keeps ..) (Keeps.refl _ _) (by simp only [List.all_cons, List.all_nil, ho,
    Bool.and_self])
    · exact h

/-- A host write that is turned away leaves by the connector only. -/
theorem State.hostWrite_keeps {ps : List Part} {s t : State} (h : Keeps ps s t) (ho : ps.contains .outputs = true :=
      by
    rfl) :
    Keeps ps s (State.hostWrite s t) := by
  unfold State.hostWrite
  refine State.secWrite_keeps ?_ ho
  split
  · exact Keeps.refl _ _
  · exact h

/-- What State.bumps may change. -/
theorem State.bumps_keeps (s : State) (l : List (Field × Nat)) :
    Keeps [.regs] s (State.bumps s l) := by
  unfold State.bumps
  refine Keeps.foldl (fun _ _ => ?_) ?_
  refine Keeps.after (State.bump_keeps ..) ?_
  exact Keeps.refl _ _
  exact Keeps.refl _ _

/-- What State.sendVector may change. -/
theorem State.sendVector_keeps (s : State) (v : Nat) :
    Keeps [.pcie, .outputs] s (State.sendVector s v) := by
  unfold State.sendVector
  dsimp only
  refine Keeps.made_pcie_outputs ?_
  exact Keeps.refl _ _

/-- What State.raiseVector may change. -/
theorem State.raiseVector_keeps (s : State) (v : Nat) :
    Keeps [.pcie, .outputs] s (State.raiseVector s v) := by
  unfold State.raiseVector
  dsimp only
  refine Keeps.ite (fun _ => ?_) (fun _ => ?_)
  refine Keeps.made_pcie ?_
  exact Keeps.refl _ _
  refine Keeps.ite (fun _ => ?_) (fun _ => ?_)
  refine Keeps.made_pcie ?_
  exact Keeps.refl _ _
  refine Keeps.after (State.sendVector_keeps ..) ?_
  exact Keeps.refl _ _

/-- What State.eventRing may change. -/
theorem State.eventRing_keeps (s : State) (f : Field) (unit : Nat) (arg0 : Nat) (arg1 : Nat) :
    Keeps [.mem, .writes, .regs, .eventSeq, .pcie, .outputs] s (State.eventRing s f unit arg0 arg1) := by
  unfold State.eventRing
  dsimp only
  refine Keeps.ite (fun _ => ?_) (fun _ => ?_)
  exact Keeps.refl _ _
  refine Keeps.ite (fun _ => ?_) (fun _ => ?_)
  refine Keeps.after (State.setReg_keeps ..) ?_
  refine Keeps.after (State.bump_keeps ..) ?_
  exact Keeps.refl _ _
  refine Keeps.after (State.raiseVector_keeps ..) ?_
  refine Keeps.made_eventSeq ?_
  refine Keeps.after (State.setReg_keeps ..) ?_
  refine Keeps.after (State.write_keeps ..) ?_
  exact Keeps.refl _ _

/-- What State.post may change. -/
theorem State.post_keeps (s : State) (f : Field) (unit : Nat) (arg0 : Nat) (arg1 : Nat) :
    Keeps [.mem, .writes, .regs, .eventSeq, .pcie, .outputs] s (State.post s f unit arg0 arg1) := by
  unfold State.post
  refine Keeps.after (State.eventRing_keeps ..) ?_
  refine Keeps.after (State.setReg_keeps ..) ?_
  exact Keeps.refl _ _

/-- What State.logError may change. -/
theorem State.logError_keeps (s : State) (r : ErrorRecord) :
    Keeps [.mem, .writes, .regs, .eventSeq, .errorSeq, .pcie, .outputs] s (State.logError s r) := by
  unfold State.logError
  dsimp only
  refine Keeps.ite (fun _ => ?_) (fun _ => ?_)
  refine Keeps.after (State.bump_keeps ..) ?_
  exact Keeps.refl _ _
  refine Keeps.ite (fun _ => ?_) (fun _ => ?_)
  refine Keeps.after (State.post_keeps ..) ?_
  refine Keeps.after (State.bump_keeps ..) ?_
  exact Keeps.refl _ _
  refine Keeps.after (State.post_keeps ..) ?_
  refine Keeps.after (State.setReg_keeps ..) ?_
  refine Keeps.after (State.write_keeps ..) ?_
  refine Keeps.made_errorSeq ?_
  exact Keeps.refl _ _

/-- What State.writeCorrections may change. -/
theorem State.writeCorrections_keeps (s : State) :
    Keeps [.mem, .writes, .regs, .eventSeq, .errorSeq, .corrections, .pcie,
      .outputs] s (State.writeCorrections s) := by
  unfold State.writeCorrections
  dsimp only
  refine Keeps.foldl (fun _ _ => ?_) ?_
  refine Keeps.after (State.logError_keeps ..) ?_
  exact Keeps.refl _ _
  refine Keeps.made_corrections ?_
  exact Keeps.refl _ _

/-- What State.corrected may change. -/
theorem State.corrected_keeps (s : State) (die : Nat) (tile : Nat) (unit : Nat) (addr : Nat) :
    Keeps [.corrections] s (State.corrected s die tile unit addr) := by
  unfold State.corrected
  dsimp only
  refine Keeps.made_corrections ?_
  exact Keeps.refl _ _

/-- What State.regrant may change. -/
theorem State.regrant_keeps (s : State) :
    Keeps [.regs, .memQueue] s (State.regrant s) := by
  unfold State.regrant
  dsimp only
  refine Keeps.ite (fun _ => ?_) (fun _ => ?_)
  refine Keeps.made_memQueue ?_
  exact Keeps.refl _ _
  refine Keeps.after (State.bump_keeps ..) ?_
  refine Keeps.made_memQueue ?_
  exact Keeps.refl _ _

/-- What State.releaseRequests may change. -/
theorem State.releaseRequests_keeps (s : State) (sel : MemRequest → Bool) :
    Keeps [.regs, .memQueue] s (State.releaseRequests s sel) := by
  unfold State.releaseRequests
  refine Keeps.after (State.regrant_keeps ..) ?_
  refine Keeps.made_memQueue ?_
  exact Keeps.refl _ _

/-- What State.enterRequests may change. -/
theorem State.enterRequests_keeps (s : State) (l : List MemRequest) :
    Keeps [.regs, .memQueue] s (State.enterRequests s l) := by
  unfold State.enterRequests
  refine Keeps.after (State.regrant_keeps ..) ?_
  refine Keeps.made_memQueue ?_
  exact Keeps.refl _ _

/-- What State.driftBlock may change. -/
theorem State.driftBlock_keeps (s : State) (b : BlockStat) :
    Keeps [.mem, .writes, .regs, .eventSeq, .drift, .pcie, .outputs] s (State.driftBlock s b) := by
  unfold State.driftBlock
  dsimp only
  refine Keeps.ite (fun _ => ?_) (fun _ => ?_)
  exact Keeps.refl _ _
  refine Keeps.ite (fun _ => ?_) (fun _ => ?_)
  refine Keeps.made_drift ?_
  exact Keeps.refl _ _
  refine Keeps.ite (fun _ => ?_) (fun _ => ?_)
  refine Keeps.after (State.post_keeps ..) ?_
  refine Keeps.ite (fun _ => ?_) (fun _ => ?_)
  refine Keeps.after (State.setReg_keeps ..) ?_
  refine Keeps.ite (fun _ => ?_) (fun _ => ?_)
  refine Keeps.after (State.setReg_keeps ..) ?_
  refine Keeps.ite (fun _ => ?_) (fun _ => ?_)
  refine Keeps.after (State.setReg_keeps ..) ?_
  refine Keeps.after (State.setRegs_keeps ..) ?_
  refine Keeps.made_drift ?_
  exact Keeps.refl _ _
  refine Keeps.after (State.setRegs_keeps ..) ?_
  refine Keeps.made_drift ?_
  exact Keeps.refl _ _
  refine Keeps.ite (fun _ => ?_) (fun _ => ?_)
  refine Keeps.after (State.setReg_keeps ..) ?_
  refine Keeps.after (State.setRegs_keeps ..) ?_
  refine Keeps.made_drift ?_
  exact Keeps.refl _ _
  refine Keeps.after (State.setRegs_keeps ..) ?_
  refine Keeps.made_drift ?_
  exact Keeps.refl _ _
  refine Keeps.ite (fun _ => ?_) (fun _ => ?_)
  refine Keeps.after (State.setReg_keeps ..) ?_
  refine Keeps.ite (fun _ => ?_) (fun _ => ?_)
  refine Keeps.after (State.setReg_keeps ..) ?_
  refine Keeps.after (State.setRegs_keeps ..) ?_
  refine Keeps.made_drift ?_
  exact Keeps.refl _ _
  refine Keeps.after (State.setRegs_keeps ..) ?_
  refine Keeps.made_drift ?_
  exact Keeps.refl _ _
  refine Keeps.ite (fun _ => ?_) (fun _ => ?_)
  refine Keeps.after (State.setReg_keeps ..) ?_
  refine Keeps.after (State.setRegs_keeps ..) ?_
  refine Keeps.made_drift ?_
  exact Keeps.refl _ _
  refine Keeps.after (State.setRegs_keeps ..) ?_
  refine Keeps.made_drift ?_
  exact Keeps.refl _ _
  refine Keeps.made_drift ?_
  exact Keeps.refl _ _

/-- What State.blockStat may change. -/
theorem State.blockStat_keeps (s : State) (b : BlockStat) :
    Keeps [.mem, .writes, .regs, .eventSeq, .drift, .pcie, .outputs] s (State.blockStat s b) := by
  unfold State.blockStat
  dsimp only
  refine Keeps.after (State.driftBlock_keeps ..) ?_
  refine Keeps.ite (fun _ => ?_) (fun _ => ?_)
  refine Keeps.after (State.post_keeps ..) ?_
  refine Keeps.ite (fun _ => ?_) (fun _ => ?_)
  refine Keeps.after (State.raiseReg_keeps ..) ?_
  exact Keeps.refl _ _
  exact Keeps.refl _ _
  refine Keeps.ite (fun _ => ?_) (fun _ => ?_)
  refine Keeps.after (State.raiseReg_keeps ..) ?_
  exact Keeps.refl _ _
  exact Keeps.refl _ _

/-- What State.blockStats may change. -/
theorem State.blockStats_keeps (s : State) (l : List BlockStat) :
    Keeps [.mem, .writes, .regs, .eventSeq, .drift, .pcie, .outputs] s (State.blockStats s l) := by
  unfold State.blockStats
  refine Keeps.foldl (fun _ _ => ?_) ?_
  refine Keeps.after (State.blockStat_keeps ..) ?_
  exact Keeps.refl _ _
  exact Keeps.refl _ _

/-- What State.dropRequests may change. -/
theorem State.dropRequests_keeps (s : State) (id : TaskId) :
    Keeps [.fabric, .pcie] s (State.dropRequests s id) := by
  unfold State.dropRequests
  dsimp only
  refine Keeps.made_fabric_pcie ?_
  exact Keeps.refl _ _

/-- What State.makeReady may change. -/
theorem State.makeReady_keeps (s : State) (t : Task) :
    Keeps [.tasks] s (State.makeReady s t) := by
  unfold State.makeReady
  split
  refine Keeps.after (State.setTask_keeps ..) ?_
  exact Keeps.refl _ _
  refine Keeps.after (State.setTask_keeps ..) ?_
  exact Keeps.refl _ _

/-- What State.postAll may change. -/
theorem State.postAll_keeps (s : State) (l : List (Field × Nat × Nat)) :
    Keeps [.mem, .writes, .regs, .eventSeq, .pcie, .outputs] s (State.postAll s l) := by
  unfold State.postAll
  refine Keeps.foldl (fun _ _ => ?_) ?_
  refine Keeps.after (State.post_keeps ..) ?_
  exact Keeps.refl _ _
  exact Keeps.refl _ _

/-- What State.suspectTile may change. -/
theorem State.suspectTile_keeps (s : State) (tile : Nat) :
    Keeps [.regs] s (State.suspectTile s tile) := by
  unfold State.suspectTile
  dsimp only
  refine Keeps.ite (fun _ => ?_) (fun _ => ?_)
  exact Keeps.refl _ _
  refine Keeps.after (State.setReg_keeps ..) ?_
  exact Keeps.refl _ _

/-- What State.commitZero may change. -/
theorem State.commitZero_keeps (s : State) (t : Task) :
    Keeps [.regs, .tasks] s (State.commitZero s t) := by
  unfold State.commitZero
  split
  refine Keeps.after (State.setTask_keeps ..) ?_
  refine Keeps.after (State.bump_keeps ..) ?_
  exact Keeps.refl _ _
  refine Keeps.after (State.setTask_keeps ..) ?_
  exact Keeps.refl _ _

/-- What State.counterZero may change. -/
theorem State.counterZero_keeps (s : State) (t : Task) :
    Keeps [.tasks] s (State.counterZero s t) := by
  unfold State.counterZero
  dsimp only
  refine Keeps.ite (fun _ => ?_) (fun _ => ?_)
  refine Keeps.after (State.setTask_keeps ..) ?_
  exact Keeps.refl _ _
  refine Keeps.after (State.makeReady_keeps ..) ?_
  exact Keeps.refl _ _

/-- What State.decrement may change. -/
theorem State.decrement_keeps (s : State) (t : Task) (amount : Nat) (towardsCommit : Bool) :
    Keeps [.regs, .tasks] s (State.decrement s t amount towardsCommit) := by
  unfold State.decrement
  dsimp only
  refine Keeps.after (State.bump_keeps ..) ?_
  refine Keeps.ite (fun _ => ?_) (fun _ => ?_)
  split
  refine Keeps.after (State.commitZero_keeps ..) ?_
  refine Keeps.ite (fun _ => ?_) (fun _ => ?_)
  refine Keeps.after (State.counterZero_keeps ..) ?_
  refine Keeps.after (State.setTask_keeps ..) ?_
  exact Keeps.refl _ _
  refine Keeps.after (State.setTask_keeps ..) ?_
  exact Keeps.refl _ _
  refine Keeps.ite (fun _ => ?_) (fun _ => ?_)
  refine Keeps.after (State.counterZero_keeps ..) ?_
  refine Keeps.after (State.setTask_keeps ..) ?_
  exact Keeps.refl _ _
  refine Keeps.after (State.setTask_keeps ..) ?_
  exact Keeps.refl _ _
  refine Keeps.ite (fun _ => ?_) (fun _ => ?_)
  refine Keeps.after (State.counterZero_keeps ..) ?_
  refine Keeps.after (State.setTask_keeps ..) ?_
  exact Keeps.refl _ _
  refine Keeps.after (State.setTask_keeps ..) ?_
  exact Keeps.refl _ _

/-- What State.pendSignal may change. -/
theorem State.pendSignal_keeps {s : State} {job : Nat} {tag : Nat} {amount : Nat} {t0 : State}
    (h : State.pendSignal s job tag amount = some t0) : Keeps [.regs, .signals] s t0 := by
  unfold State.pendSignal at h
  dsimp only at h
  split at h
  rw [← Option.some.inj h]
  refine Keeps.made_signals ?_
  exact Keeps.refl _ _
  split at h
  exact absurd h (by simp)
  rw [← Option.some.inj h]
  refine Keeps.ite (fun _ => ?_) (fun _ => ?_)
  refine Keeps.after (State.setReg_keeps ..) ?_
  refine Keeps.made_signals ?_
  exact Keeps.refl _ _
  refine Keeps.made_signals ?_
  exact Keeps.refl _ _

/-- What State.signal? may change. -/
theorem State.signal?_keeps {s : State} {job : Nat} {tag : Nat} {amount : Nat} {towardsCommit : Bool} {t0 : State}
    (h : State.signal? s job tag amount towardsCommit = some t0) : Keeps [.regs, .tasks, .signals] s t0 := by
  unfold State.signal? at h
  split at h
  rw [← Option.some.inj h]
  exact Keeps.refl _ _
  split at h
  rw [← Option.some.inj h]
  refine Keeps.after (State.bump_keeps ..) ?_
  exact Keeps.refl _ _
  split at h
  rw [← Option.some.inj h]
  refine Keeps.after (State.decrement_keeps ..) ?_
  exact Keeps.refl _ _
  refine Keeps.after (State.pendSignal_keeps h) ?_
  exact Keeps.refl _ _

/-- What State.placeSignals may change. -/
theorem State.placeSignals_keeps (s : State) (job : Nat) (l : List Nat) :
    Keeps [.regs, .tasks, .signals] s (State.placeSignals s job l).1 := by
  induction l generalizing s with
  | nil => exact Keeps.refl _ _
  | cons tag r ih =>
    unfold State.placeSignals
    split
    · exact Keeps.after (ih _) (State.signal?_keeps (by assumption))
    · exact ih s

/-- The same of a result that is named. -/
theorem State.placeSignals_keeps_eq {s : State} {job : Nat} {l : List Nat} {t0 : State} {y : List Nat}
    (h : State.placeSignals s job l = (t0, y)) :
    Keeps [.regs, .tasks, .signals] s t0 := by
  have hk := State.placeSignals_keeps s job l
  rw [h] at hk
  exact hk

/-- What State.afterRecord may change. -/
theorem State.afterRecord_keeps (s : State) (t : Task) :
    Keeps [.regs, .tasks, .signals] s (State.afterRecord s t) := by
  unfold State.afterRecord
  dsimp only
  refine Keeps.ite (fun _ => ?_) (fun _ => ?_)
  refine Keeps.after (State.dropTask_keeps ..) ?_
  refine Keeps.after (State.placeSignals_keeps ..) ?_
  refine Keeps.after (State.setTask_keeps ..) ?_
  exact Keeps.refl _ _
  refine Keeps.after (State.setTask_keeps ..) ?_
  refine Keeps.after (State.placeSignals_keeps ..) ?_
  refine Keeps.after (State.setTask_keeps ..) ?_
  exact Keeps.refl _ _

/-- What State.refreshEnds may change. -/
theorem State.refreshEnds_keeps (s : State) (t : Task) :
    Keeps [.tables] s (State.refreshEnds s t) := by
  unfold State.refreshEnds
  refine Keeps.ite (fun _ => ?_) (fun _ => ?_)
  refine Keeps.made_tables ?_
  exact Keeps.refl _ _
  exact Keeps.refl _ _

/-- What State.tagTraffic may change. -/
theorem State.tagTraffic_keeps (s : State) (n : Nat) :
    Keeps [.free, .regs] s (State.tagTraffic s n) := by
  unfold State.tagTraffic
  refine Keeps.ite (fun _ => ?_) (fun _ => ?_)
  exact Keeps.refl _ _
  refine Keeps.after (State.bump_keeps ..) ?_
  refine Keeps.made_free ?_
  exact Keeps.refl _ _

/-- What State.countCompleted may change. -/
theorem State.countCompleted_keeps (s : State) (t : Task) :
    Keeps [.regs] s (State.countCompleted s t) := by
  unfold State.countCompleted
  refine Keeps.ite (fun _ => ?_) (fun _ => ?_)
  exact Keeps.refl _ _
  refine Keeps.ite (fun _ => ?_) (fun _ => ?_)
  refine Keeps.after (State.bumps_keeps ..) ?_
  exact Keeps.refl _ _
  refine Keeps.ite (fun _ => ?_) (fun _ => ?_)
  refine Keeps.after (State.bump_keeps ..) ?_
  exact Keeps.refl _ _
  refine Keeps.ite (fun _ => ?_) (fun _ => ?_)
  refine Keeps.after (State.bump_keeps ..) ?_
  exact Keeps.refl _ _
  refine Keeps.ite (fun _ => ?_) (fun _ => ?_)
  refine Keeps.after (State.bump_keeps ..) ?_
  exact Keeps.refl _ _
  refine Keeps.ite (fun _ => ?_) (fun _ => ?_)
  refine Keeps.after (State.bump_keeps ..) ?_
  exact Keeps.refl _ _
  exact Keeps.refl _ _

/-- What State.writeRecord may change. -/
theorem State.writeRecord_keeps (s : State) (ring : Nat) (w : WaitingRecord) :
    Keeps [.mem, .writes, .rings, .pcie, .outputs] s (State.writeRecord s ring w) := by
  unfold State.writeRecord
  dsimp only
  refine Keeps.ite (fun _ => ?_) (fun _ => ?_)
  refine Keeps.after (State.raiseVector_keeps ..) ?_
  refine Keeps.after (State.setRing_keeps ..) ?_
  refine Keeps.after (State.write_keeps ..) ?_
  exact Keeps.refl _ _
  refine Keeps.after (State.setRing_keeps ..) ?_
  refine Keeps.after (State.write_keeps ..) ?_
  exact Keeps.refl _ _

/-- What State.complete may change. -/
theorem State.complete_keeps (s0 : State) (t : Task) (status : Nat) :
    Keeps [.mem, .writes, .regs, .rings, .tasks, .signals, .pcie, .outputs] s0 (State.complete s0 t status) := by
  unfold State.complete
  dsimp only
  refine Keeps.ite (fun _ => ?_) (fun _ => ?_)
  refine Keeps.after (State.afterRecord_keeps ..) ?_
  refine Keeps.after (State.countCompleted_keeps ..) ?_
  exact Keeps.refl _ _
  refine Keeps.ite (fun _ => ?_) (fun _ => ?_)
  refine Keeps.after (State.setRing_keeps ..) ?_
  refine Keeps.after (State.setTask_keeps ..) ?_
  refine Keeps.after (State.countCompleted_keeps ..) ?_
  exact Keeps.refl _ _
  refine Keeps.after (State.afterRecord_keeps ..) ?_
  refine Keeps.after (State.writeRecord_keeps ..) ?_
  refine Keeps.after (State.countCompleted_keeps ..) ?_
  exact Keeps.refl _ _

/-- What State.missTraffic may change. -/
theorem State.missTraffic_keeps (s : State) :
    Keeps [.free, .regs] s (State.missTraffic s) := by
  unfold State.missTraffic
  refine Keeps.after (State.bumps_keeps ..) ?_
  refine Keeps.made_free ?_
  exact Keeps.refl _ _

/-- What State.reject may change. -/
theorem State.reject_keeps (s : State) (ring : Nat) (userTag : Nat) (signalTag : Nat) (status : Nat) (interrupt : Bool) :
    Keeps [.mem, .writes, .rings, .pcie, .outputs] s (State.reject s ring userTag signalTag status interrupt) := by
  unfold State.reject
  dsimp only
  refine Keeps.ite (fun _ => ?_) (fun _ => ?_)
  refine Keeps.after (State.setRing_keeps ..) ?_
  exact Keeps.refl _ _
  refine Keeps.after (State.writeRecord_keeps ..) ?_
  exact Keeps.refl _ _

/-- What State.terminateJob may change. -/
theorem State.terminateJob_keeps (s : State) (job : Nat) (cause : Nat) :
    Keeps [.rings, .jobs] s (State.terminateJob s job cause) := by
  unfold State.terminateJob
  dsimp only
  split
  refine Keeps.ite (fun _ => ?_) (fun _ => ?_)
  refine Keeps.made_rings ?_
  refine Keeps.after (State.setJob_keeps ..) ?_
  exact Keeps.refl _ _
  exact Keeps.refl _ _
  exact Keeps.refl _ _

/-- What State.poisonConsumed may change. -/
theorem State.poisonConsumed_keeps (s : State) (t : Task) :
    Keeps [.mem, .writes, .regs, .eventSeq, .errorSeq, .rings, .jobs, .pcie,
      .outputs] s (State.poisonConsumed s t) := by
  unfold State.poisonConsumed
  dsimp only
  refine Keeps.after (State.terminateJob_keeps ..) ?_
  refine Keeps.after (State.logError_keeps ..) ?_
  refine Keeps.after (State.bump_keeps ..) ?_
  exact Keeps.refl _ _

/-- What State.undefine may change. -/
theorem State.undefine_keeps (s : State) (outs : List (Nat × Nat)) :
    Keeps [.free, .mem, .writes] s (State.undefine s outs) := by
  unfold State.undefine
  refine Keeps.after (State.memOps_keeps ..) ?_
  refine Keeps.made_free ?_
  exact Keeps.refl _ _

/-- What State.cutRecord may change. -/
theorem State.cutRecord_keeps (s : State) (t : Task) :
    Keeps [.free, .mem, .writes] s (State.cutRecord s t) := by
  unfold State.cutRecord
  dsimp only
  refine Keeps.ite (fun _ => ?_) (fun _ => ?_)
  exact Keeps.refl _ _
  refine Keeps.ite (fun _ => ?_) (fun _ => ?_)
  refine Keeps.after (State.memOps_keeps ..) ?_
  exact Keeps.refl _ _
  refine Keeps.after (State.memOps_keeps ..) ?_
  refine Keeps.made_free ?_
  exact Keeps.refl _ _

/-- What State.countCycles may change. -/
theorem State.countCycles_keeps (s : State) (t : Task) (r : Result) :
    Keeps [.free, .regs] s (State.countCycles s t r) := by
  unfold State.countCycles
  split
  exact Keeps.refl _ _
  refine Keeps.after (State.bumps_keeps ..) ?_
  refine Keeps.made_free ?_
  exact Keeps.refl _ _

/-- What State.traffic may change. -/
theorem State.traffic_keeps (s : State) (t : Task) (r : Result) :
    Keeps [.free, .regs] s (State.traffic s t r) := by
  unfold State.traffic
  refine Keeps.ite (fun _ => ?_) (fun _ => ?_)
  refine Keeps.after (State.tagTraffic_keeps ..) ?_
  exact Keeps.refl _ _
  refine Keeps.ite (fun _ => ?_) (fun _ => ?_)
  refine Keeps.after (State.missTraffic_keeps ..) ?_
  exact Keeps.refl _ _
  exact Keeps.refl _ _

/-- What State.applyResult may change. -/
theorem State.applyResult_keeps (s : State) (t : Task) (r0 : Result) :
    Keeps [.free, .mem, .writes, .regs, .eventSeq, .tasks, .drift, .pcie, .outputs] s (State.applyResult s t r0) := by
  unfold State.applyResult
  dsimp only
  refine Keeps.after (State.setTask_keeps ..) ?_
  refine Keeps.after (State.countCycles_keeps ..) ?_
  refine Keeps.after (State.traffic_keeps ..) ?_
  refine Keeps.after (State.postAll_keeps ..) ?_
  refine Keeps.after (State.blockStats_keeps ..) ?_
  refine Keeps.foldl (fun _ _ => ?_) ?_
  refine Keeps.after (State.raiseReg_keeps ..) ?_
  exact Keeps.refl _ _
  refine Keeps.after (State.bump_keeps ..) ?_
  refine Keeps.after (State.bumps_keeps ..) ?_
  refine Keeps.after (State.memOps_keeps ..) ?_
  refine Keeps.made_free ?_
  exact Keeps.refl _ _

/-- What State.engineStep may change. -/
theorem State.engineStep_keeps (s : State) (id : TaskId) (engine : Nat) (op : Nat) (run : Task → Result) :
    Keeps [.free, .mem, .writes, .regs, .eventSeq, .tasks, .drift, .pcie,
      .outputs] s (State.engineStep s id engine op run) := by
  unfold State.engineStep
  split
  refine Keeps.after (State.applyResult_keeps ..) ?_
  exact Keeps.refl _ _
  exact Keeps.refl _ _

/-- What State.cutOff may change. -/
theorem State.cutOff_keeps (s : State) (t : Task) :
    Keeps [.free, .mem, .writes, .fabric, .pcie] s (State.cutOff s t) := by
  unfold State.cutOff
  refine Keeps.after (State.dropRequests_keeps ..) ?_
  refine Keeps.ite (fun _ => ?_) (fun _ => ?_)
  refine Keeps.after (State.cutRecord_keeps ..) ?_
  refine Keeps.after (State.undefine_keeps ..) ?_
  exact Keeps.refl _ _
  exact Keeps.refl _ _

/-- What State.tileEnds may change. -/
theorem State.tileEnds_keeps (s : State) (t : Task) (status : Nat) :
    Keeps [.free, .mem, .writes, .tasks, .fabric, .pcie] s (State.tileEnds s t status) := by
  unfold State.tileEnds
  refine Keeps.after (State.setTask_keeps ..) ?_
  refine Keeps.after (State.cutOff_keeps ..) ?_
  exact Keeps.refl _ _

/-- What State.moveFromTile may change. -/
theorem State.moveFromTile_keeps (s : State) (tile : Nat) (t : Task) :
    Keeps [.free, .mem, .writes, .tasks, .fabric, .pcie] s (State.moveFromTile s tile t) := by
  unfold State.moveFromTile
  refine Keeps.ite (fun _ => ?_) (fun _ => ?_)
  exact Keeps.refl _ _
  split
  split
  refine Keeps.after (State.setTask_keeps ..) ?_
  exact Keeps.refl _ _
  refine Keeps.after (State.setTask_keeps ..) ?_
  exact Keeps.refl _ _
  refine Keeps.ite (fun _ => ?_) (fun _ => ?_)
  refine Keeps.after (State.tileEnds_keeps ..) ?_
  exact Keeps.refl _ _
  split
  refine Keeps.after (State.setTask_keeps ..) ?_
  refine Keeps.after (State.dropRequests_keeps ..) ?_
  exact Keeps.refl _ _
  refine Keeps.after (State.tileEnds_keeps ..) ?_
  exact Keeps.refl _ _
  exact Keeps.refl _ _

/-- What State.undefineOverwritten may change. -/
theorem State.undefineOverwritten_keeps (s : State) (t : Task) :
    Keeps [.free, .mem, .writes] s (State.undefineOverwritten s t) := by
  unfold State.undefineOverwritten
  refine Keeps.ite (fun _ => ?_) (fun _ => ?_)
  refine Keeps.after (State.undefine_keeps ..) ?_
  exact Keeps.refl _ _
  exact Keeps.refl _ _

/-- What State.retireTile may change. -/
theorem State.retireTile_keeps (s : State) (tile : Nat) :
    Keeps [.free, .mem, .writes, .regs, .eventSeq, .errorSeq, .tasks, .fabric, .pcie, .binnacle,
      .outputs] s (State.retireTile s tile) := by
  unfold State.retireTile
  dsimp only
  refine Keeps.ite (fun _ => ?_) (fun _ => ?_)
  exact Keeps.refl _ _
  refine Keeps.after (State.post_keeps ..) ?_
  refine Keeps.after (State.logError_keeps ..) ?_
  refine Keeps.foldl (fun _ _ => ?_) ?_
  refine Keeps.after (State.moveFromTile_keeps ..) ?_
  exact Keeps.refl _ _
  refine Keeps.made_binnacle ?_
  exact Keeps.refl _ _

/-- What State.closeStreams may change. -/
theorem State.closeStreams_keeps (s : State) (sel : Stream → Bool) :
    Keeps [.regs, .streams, .memQueue, .fabric] s (State.closeStreams s sel) := by
  unfold State.closeStreams
  dsimp only
  refine Keeps.ite (fun _ => ?_) (fun _ => ?_)
  exact Keeps.refl _ _
  refine Keeps.after (State.bump_keeps ..) ?_
  refine Keeps.after (State.releaseRequests_keeps ..) ?_
  refine Keeps.made_streams_fabric ?_
  exact Keeps.refl _ _

/-- What State.requestSent may change. -/
theorem State.requestSent_keeps (s : State) (seq : Nat) :
    Keeps [.fabric] s (State.requestSent s seq) := by
  unfold State.requestSent
  dsimp only
  refine Keeps.made_fabric ?_
  exact Keeps.refl _ _

/-- What State.setPort may change. -/
theorem State.setPort_keeps (s : State) (p : Nat) (x : Port) :
    Keeps [.fabric] s (State.setPort s p x) := by
  unfold State.setPort
  dsimp only
  refine Keeps.made_fabric ?_
  exact Keeps.refl _ _

/-- What State.freeFlits may change. -/
theorem State.freeFlits_keeps (s : State) (p : Nat) (vc : Nat) (n : Nat) :
    Keeps [.fabric] s (State.freeFlits s p vc n) := by
  unfold State.freeFlits
  dsimp only
  refine Keeps.ite (fun _ => ?_) (fun _ => ?_)
  refine Keeps.after (State.setPort_keeps ..) ?_
  exact Keeps.refl _ _
  exact Keeps.refl _ _

/-- What State.flitLeft may change. -/
theorem State.flitLeft_keeps (s : State) (o : OutPacket) :
    Keeps [.fabric] s (State.flitLeft s o) := by
  unfold State.flitLeft
  dsimp only
  split
  refine Keeps.ite (fun _ => ?_) (fun _ => ?_)
  refine Keeps.after (State.requestSent_keeps ..) ?_
  split
  refine Keeps.ite (fun _ => ?_) (fun _ => ?_)
  refine Keeps.after (State.freeFlits_keeps ..) ?_
  exact Keeps.refl _ _
  exact Keeps.refl _ _
  exact Keeps.refl _ _
  split
  refine Keeps.ite (fun _ => ?_) (fun _ => ?_)
  refine Keeps.after (State.freeFlits_keeps ..) ?_
  exact Keeps.refl _ _
  exact Keeps.refl _ _
  exact Keeps.refl _ _
  split
  refine Keeps.ite (fun _ => ?_) (fun _ => ?_)
  refine Keeps.after (State.freeFlits_keeps ..) ?_
  exact Keeps.refl _ _
  exact Keeps.refl _ _
  exact Keeps.refl _ _

/-- What State.pumpFuel may change. -/
theorem State.pumpFuel_keeps (p n : Nat) (s : State) :
    Keeps [.regs, .fabric, .outputs] s (State.pumpFuel p n s) := by
  induction n generalizing s with
  | zero => exact Keeps.refl _ _
  | succ n ih =>
    unfold State.pumpFuel
    dsimp only
    split
    · exact Keeps.refl _ _
    · split
      · exact Keeps.refl _ _
      · split
        · exact Keeps.refl _ _
        · refine Keeps.after (ih _) ?_
          refine Keeps.after (State.flitLeft_keeps ..) ?_
          refine Keeps.after (State.emit_keeps ..) ?_
          refine Keeps.after (State.bump_keeps ..) ?_
          exact Keeps.after (State.setPort_keeps ..) (Keeps.refl _ _)

/-- What State.pump may change. -/
theorem State.pump_keeps (s : State) (p : Nat) :
    Keeps [.regs, .fabric, .outputs] s (State.pump s p) := by
  unfold State.pump
  refine Keeps.after (State.pumpFuel_keeps ..) ?_
  exact Keeps.refl _ _

/-- What State.sendControl may change. -/
theorem State.sendControl_keeps (s : State) (p : Nat) (content : List Byte) :
    Keeps [.outputs] s (State.sendControl s p content) := by
  unfold State.sendControl
  refine Keeps.after (State.emit_keeps ..) ?_
  exact Keeps.refl _ _

/-- What State.askFull may change. -/
theorem State.askFull_keeps (s : State) (p : Nat) (tc : Nat) :
    Keeps [.fabric, .outputs] s (State.askFull s p tc) := by
  unfold State.askFull
  dsimp only
  refine Keeps.ite (fun _ => ?_) (fun _ => ?_)
  refine Keeps.after (State.sendControl_keeps ..) ?_
  refine Keeps.after (State.setPort_keeps ..) ?_
  exact Keeps.refl _ _
  exact Keeps.refl _ _

/-- What State.queueOn may change. -/
theorem State.queueOn_keeps (s : State) (p : Nat) (tc : Nat) (v : Nat) (o : OutPacket) :
    Keeps [.regs, .fabric, .outputs] s (State.queueOn s p tc v o) := by
  unfold State.queueOn
  dsimp only
  refine Keeps.after (State.pump_keeps ..) ?_
  refine Keeps.after (State.askFull_keeps ..) ?_
  refine Keeps.after (State.setPort_keeps ..) ?_
  exact Keeps.refl _ _

/-- What State.enqueue may change. -/
theorem State.enqueue_keeps (s : State) (p : Nat) (k : Packet) :
    Keeps [.regs, .fabric, .outputs] s (State.enqueue s p k) := by
  unfold State.enqueue
  dsimp only
  refine Keeps.after (State.queueOn_keeps ..) ?_
  exact Keeps.refl _ _

/-- What State.sendNotice may change. -/
theorem State.sendNotice_keeps (s : State) (p : Nat) (dst : Nat) (src : Nat) (arg : Nat) :
    Keeps [.regs, .fabric, .outputs] s (State.sendNotice s p dst src arg) := by
  unfold State.sendNotice
  dsimp only
  refine Keeps.ite (fun _ => ?_) (fun _ => ?_)
  refine Keeps.after (State.enqueue_keeps ..) ?_
  exact Keeps.refl _ _
  exact Keeps.refl _ _

/-- What State.noticeOwn may change. -/
theorem State.noticeOwn_keeps (s : State) (p : Nat) :
    Keeps [.regs, .fabric, .outputs] s (State.noticeOwn s p) := by
  unfold State.noticeOwn
  dsimp only
  split
  exact Keeps.refl _ _
  refine Keeps.ite (fun _ => ?_) (fun _ => ?_)
  exact Keeps.refl _ _
  refine Keeps.after (State.sendNotice_keeps ..) ?_
  refine Keeps.after (State.sendNotice_keeps ..) ?_
  exact Keeps.refl _ _

/-- What State.transitFlit may change. -/
theorem State.transitFlit_keeps (s : State) (p : Nat) (i : Nat) (w : Nat) (d : List Byte) :
    Keeps [.regs, .fabric, .outputs] s (State.transitFlit s p i w d) := by
  unfold State.transitFlit
  dsimp only
  split
  refine Keeps.after (State.pump_keeps ..) ?_
  refine Keeps.after (State.setPort_keeps ..) ?_
  exact Keeps.refl _ _
  refine Keeps.after (State.freeFlits_keeps ..) ?_
  exact Keeps.refl _ _

/-- What State.breakChanged may change. -/
theorem State.breakChanged_keeps (s : State) (before : List Nat) :
    Keeps [.mem, .writes, .regs, .eventSeq, .pcie, .outputs] s (State.breakChanged s before) := by
  unfold State.breakChanged
  refine Keeps.ite (fun _ => ?_) (fun _ => ?_)
  exact Keeps.refl _ _
  refine Keeps.after (State.post_keeps ..) ?_
  exact Keeps.refl _ _

/-- What State.setLink may change. -/
theorem State.setLink_keeps (s : State) (p : Nat) (state : Nat) (reason : Nat) :
    Keeps [.mem, .writes, .regs, .eventSeq, .fabric, .pcie, .outputs] s (State.setLink s p state reason) := by
  unfold State.setLink
  dsimp only
  refine Keeps.after (State.pump_keeps ..) ?_
  refine Keeps.ite (fun _ => ?_) (fun _ => ?_)
  refine Keeps.after (State.noticeOwn_keeps ..) ?_
  refine Keeps.after (State.breakChanged_keeps ..) ?_
  refine Keeps.ite (fun _ => ?_) (fun _ => ?_)
  refine Keeps.after (State.post_keeps ..) ?_
  refine Keeps.ite (fun _ => ?_) (fun _ => ?_)
  refine Keeps.after (State.post_keeps ..) ?_
  refine Keeps.ite (fun _ => ?_) (fun _ => ?_)
  refine Keeps.after (State.post_keeps ..) ?_
  refine Keeps.after (State.setRegs_keeps ..) ?_
  exact Keeps.refl _ _
  refine Keeps.after (State.setRegs_keeps ..) ?_
  exact Keeps.refl _ _
  refine Keeps.ite (fun _ => ?_) (fun _ => ?_)
  refine Keeps.after (State.post_keeps ..) ?_
  refine Keeps.after (State.setRegs_keeps ..) ?_
  exact Keeps.refl _ _
  refine Keeps.after (State.setRegs_keeps ..) ?_
  exact Keeps.refl _ _
  refine Keeps.ite (fun _ => ?_) (fun _ => ?_)
  refine Keeps.after (State.post_keeps ..) ?_
  refine Keeps.ite (fun _ => ?_) (fun _ => ?_)
  refine Keeps.after (State.post_keeps ..) ?_
  refine Keeps.after (State.setRegs_keeps ..) ?_
  exact Keeps.refl _ _
  refine Keeps.after (State.setRegs_keeps ..) ?_
  exact Keeps.refl _ _
  refine Keeps.ite (fun _ => ?_) (fun _ => ?_)
  refine Keeps.after (State.post_keeps ..) ?_
  refine Keeps.after (State.setRegs_keeps ..) ?_
  exact Keeps.refl _ _
  refine Keeps.after (State.setRegs_keeps ..) ?_
  exact Keeps.refl _ _
  refine Keeps.after (State.breakChanged_keeps ..) ?_
  refine Keeps.ite (fun _ => ?_) (fun _ => ?_)
  refine Keeps.after (State.post_keeps ..) ?_
  refine Keeps.ite (fun _ => ?_) (fun _ => ?_)
  refine Keeps.after (State.post_keeps ..) ?_
  refine Keeps.ite (fun _ => ?_) (fun _ => ?_)
  refine Keeps.after (State.post_keeps ..) ?_
  refine Keeps.after (State.setRegs_keeps ..) ?_
  exact Keeps.refl _ _
  refine Keeps.after (State.setRegs_keeps ..) ?_
  exact Keeps.refl _ _
  refine Keeps.ite (fun _ => ?_) (fun _ => ?_)
  refine Keeps.after (State.post_keeps ..) ?_
  refine Keeps.after (State.setRegs_keeps ..) ?_
  exact Keeps.refl _ _
  refine Keeps.after (State.setRegs_keeps ..) ?_
  exact Keeps.refl _ _
  refine Keeps.ite (fun _ => ?_) (fun _ => ?_)
  refine Keeps.after (State.post_keeps ..) ?_
  refine Keeps.ite (fun _ => ?_) (fun _ => ?_)
  refine Keeps.after (State.post_keeps ..) ?_
  refine Keeps.after (State.setRegs_keeps ..) ?_
  exact Keeps.refl _ _
  refine Keeps.after (State.setRegs_keeps ..) ?_
  exact Keeps.refl _ _
  refine Keeps.ite (fun _ => ?_) (fun _ => ?_)
  refine Keeps.after (State.post_keeps ..) ?_
  refine Keeps.after (State.setRegs_keeps ..) ?_
  exact Keeps.refl _ _
  refine Keeps.after (State.setRegs_keeps ..) ?_
  exact Keeps.refl _ _

/-- What State.askRow may change. -/
theorem State.askRow_keeps (s : State) (id : TaskId) (e : RowFetch) :
    Keeps [.tasks, .fabric] s (State.askRow s id e) := by
  unfold State.askRow
  dsimp only
  refine Keeps.ite (fun _ => ?_) (fun _ => ?_)
  refine Keeps.made_fabric ?_
  exact Keeps.refl _ _
  split
  refine Keeps.after (State.setTask_keeps ..) ?_
  refine Keeps.made_fabric ?_
  exact Keeps.refl _ _
  refine Keeps.made_fabric ?_
  exact Keeps.refl _ _

/-- What State.sendPacket? may change. -/
theorem State.sendPacket?_keeps {s : State} {k : Packet} {t0 : State}
    (h : State.sendPacket? s k = some t0) : Keeps [.regs, .fabric, .outputs] s t0 := by
  unfold State.sendPacket? at h
  dsimp only at h
  split at h
  exact absurd h (by simp)
  rw [← Option.some.inj h]
  refine Keeps.made_fabric ?_
  exact Keeps.refl _ _
  rw [← Option.some.inj h]
  refine Keeps.after (State.enqueue_keeps ..) ?_
  exact Keeps.refl _ _

/-- What State.sendPacket may change. -/
theorem State.sendPacket_keeps (s : State) (k : Packet) :
    Keeps [.regs, .fabric, .outputs] s (State.sendPacket s k) := by
  unfold State.sendPacket
  cases h : s.sendPacket? k with
  | none => exact Keeps.after (State.bump_keeps ..) (Keeps.refl _ _)
  | some t => exact Keeps.after (State.sendPacket?_keeps h) (Keeps.refl _ _)

/-- What State.addReply may change. -/
theorem State.addReply_keeps (s : State) (id : TaskId) (r : RemoteReply) :
    Keeps [.fabric] s (State.addReply s id r) := by
  unfold State.addReply
  dsimp only
  refine Keeps.made_fabric ?_
  exact Keeps.refl _ _

/-- What State.deliverRow may change. -/
theorem State.deliverRow_keeps (s : State) (seq : Nat) (x : RemoteReply) :
    Keeps [.fabric] s (State.deliverRow s seq x) := by
  unfold State.deliverRow
  dsimp only
  refine Keeps.foldl (fun _ _ => ?_) ?_
  refine Keeps.after (State.addReply_keeps ..) ?_
  exact Keeps.refl _ _
  refine Keeps.made_fabric ?_
  exact Keeps.refl _ _

/-- What State.failReplies may change. -/
theorem State.failReplies_keeps (s : State) (r : Request) (status : Nat) :
    Keeps [.fabric] s (State.failReplies s r status) := by
  unfold State.failReplies
  refine Keeps.ite (fun _ => ?_) (fun _ => ?_)
  exact Keeps.refl _ _
  refine Keeps.ite (fun _ => ?_) (fun _ => ?_)
  refine Keeps.foldl (fun _ _ => ?_) ?_
  refine Keeps.after (State.deliverRow_keeps ..) ?_
  exact Keeps.refl _ _
  exact Keeps.refl _ _
  refine Keeps.after (State.addReply_keeps ..) ?_
  exact Keeps.refl _ _

/-- What State.finishRemote may change. -/
theorem State.finishRemote_keeps (s : State) (t : Task) :
    Keeps [.free, .mem, .writes, .tasks, .fabric, .pcie] s (State.finishRemote s t) := by
  unfold State.finishRemote
  dsimp only
  refine Keeps.after (State.setTask_keeps ..) ?_
  refine Keeps.after (State.dropRequests_keeps ..) ?_
  refine Keeps.after (State.memOps_keeps ..) ?_
  refine Keeps.made_free ?_
  exact Keeps.refl _ _

/-- What State.remoteProgress may change. -/
theorem State.remoteProgress_keeps (s : State) (id : TaskId) :
    Keeps [.free, .mem, .writes, .tasks, .fabric, .pcie] s (State.remoteProgress s id) := by
  unfold State.remoteProgress
  split
  refine Keeps.ite (fun _ => ?_) (fun _ => ?_)
  refine Keeps.after (State.finishRemote_keeps ..) ?_
  exact Keeps.refl _ _
  exact Keeps.refl _ _
  exact Keeps.refl _ _

/-- What State.dropClosed may change. -/
theorem State.dropClosed_keeps (s : State) :
    Keeps [.fabric] s (State.dropClosed s) := by
  unfold State.dropClosed
  dsimp only
  refine Keeps.made_fabric ?_
  exact Keeps.refl _ _

/-- What State.setRequest may change. -/
theorem State.setRequest_keeps (s : State) (r : Request) :
    Keeps [.fabric] s (State.setRequest s r) := by
  unfold State.setRequest
  dsimp only
  refine Keeps.made_fabric ?_
  exact Keeps.refl _ _

/-- What State.engineReply may change. -/
theorem State.engineReply_keeps (s : State) (r : Request) (status : Nat) (poisonMap : Nat) (data : List Byte) :
    Keeps [.regs, .fabric] s (State.engineReply s r status poisonMap data) := by
  unfold State.engineReply
  refine Keeps.ite (fun _ => ?_) (fun _ => ?_)
  exact Keeps.refl _ _
  refine Keeps.ite (fun _ => ?_) (fun _ => ?_)
  refine Keeps.after (State.addReply_keeps ..) ?_
  refine Keeps.after (State.bump_keeps ..) ?_
  exact Keeps.refl _ _
  refine Keeps.after (State.addReply_keeps ..) ?_
  exact Keeps.refl _ _

/-- What State.storePayload may change. -/
theorem State.storePayload_keeps (s : State) (a : Nat) (d : List Byte) (map : Nat) :
    Keeps [.mem, .writes] s (State.storePayload s a d map) := by
  unfold State.storePayload
  dsimp only
  refine Keeps.after (State.memOps_keeps ..) ?_
  exact Keeps.refl _ _

/-- What State.endRequest may change. -/
theorem State.endRequest_keeps (s : State) (seq : Nat) (status : Nat) (poisonMap : Nat) (arg0 : Nat) (data : List Byte) :
    Keeps [.free, .mem, .writes, .regs, .tasks, .fabric,
      .pcie] s (State.endRequest s seq status poisonMap arg0 data) := by
  unfold State.endRequest
  dsimp only
  split
  refine Keeps.after (State.bump_keeps ..) ?_
  exact Keeps.refl _ _
  refine Keeps.after (State.remoteProgress_keeps ..) ?_
  refine Keeps.after (State.dropClosed_keeps ..) ?_
  refine Keeps.after (State.setRequest_keeps ..) ?_
  refine Keeps.ite (fun _ => ?_) (fun _ => ?_)
  refine Keeps.after (State.engineReply_keeps ..) ?_
  exact Keeps.refl _ _
  refine Keeps.ite (fun _ => ?_) (fun _ => ?_)
  refine Keeps.after (State.storePayload_keeps ..) ?_
  exact Keeps.refl _ _
  refine Keeps.ite (fun _ => ?_) (fun _ => ?_)
  refine Keeps.after (State.storePayload_keeps ..) ?_
  exact Keeps.refl _ _
  exact Keeps.refl _ _

/-- What State.responseTimeout may change. -/
theorem State.responseTimeout_keeps (s : State) (seq : Nat) :
    Keeps [.free, .mem, .writes, .regs, .tasks, .fabric, .pcie] s (State.responseTimeout s seq) := by
  unfold State.responseTimeout
  dsimp only
  split
  exact Keeps.refl _ _
  split
  exact Keeps.refl _ _
  refine Keeps.ite (fun _ => ?_) (fun _ => ?_)
  exact Keeps.refl _ _
  refine Keeps.ite (fun _ => ?_) (fun _ => ?_)
  refine Keeps.after (State.setRequest_keeps ..) ?_
  refine Keeps.after (State.failReplies_keeps ..) ?_
  refine Keeps.after (State.bump_keeps ..) ?_
  exact Keeps.refl _ _
  refine Keeps.after (State.endRequest_keeps ..) ?_
  refine Keeps.after (State.bump_keeps ..) ?_
  exact Keeps.refl _ _

/-- What State.listResponse may change. -/
theorem State.listResponse_keeps (s : State) (k : Packet) :
    Keeps [.regs, .fabric] s (State.listResponse s k) := by
  unfold State.listResponse
  dsimp only
  split
  refine Keeps.after (State.bump_keeps ..) ?_
  exact Keeps.refl _ _
  refine Keeps.after (State.setRequest_keeps ..) ?_
  refine Keeps.foldl (fun _ _ => ?_) ?_
  refine Keeps.after (State.deliverRow_keeps ..) ?_
  exact Keeps.refl _ _
  exact Keeps.refl _ _

/-- What State.takeSeq may change. -/
theorem State.takeSeq_keeps (s : State) (io : Nat) :
    Keeps [.fabric] s (State.takeSeq s io).2 := by
  unfold State.takeSeq
  dsimp only
  refine Keeps.made_fabric ?_
  exact Keeps.refl _ _

/-- The same of a result that is named. -/
theorem State.takeSeq_keeps_eq {s : State} {io : Nat} {y : _} {t0 : State}
    (h : State.takeSeq s io = (y, t0)) : Keeps [.fabric] s t0 := by
  have hk := State.takeSeq_keeps s io
  rw [h] at hk
  exact hk

/-- What State.issue may change. -/
theorem State.issue_keeps (s : State) (io : Nat) (id : TaskId) (k : Packet) (localAddr : Nat) (rows : List Nat) :
    Keeps [.regs, .fabric, .outputs] s (State.issue s io id k localAddr rows) := by
  unfold State.issue
  dsimp only
  split
  refine Keeps.after (State.sendPacket?_keeps (by assumption)) ?_
  refine Keeps.made_fabric ?_
  refine Keeps.after (State.takeSeq_keeps ..) ?_
  exact Keeps.refl _ _
  refine Keeps.after (State.setRequest_keeps ..) ?_
  refine Keeps.after (State.failReplies_keeps ..) ?_
  refine Keeps.after (State.bump_keeps ..) ?_
  refine Keeps.made_fabric ?_
  refine Keeps.after (State.takeSeq_keeps ..) ?_
  exact Keeps.refl _ _

/-- What State.sendRowList may change. -/
theorem State.sendRowList_keeps (s : State) (l : List RowFetch) :
    Keeps [.regs, .tasks, .fabric, .outputs] s (State.sendRowList s l) := by
  unfold State.sendRowList
  dsimp only
  split
  exact Keeps.refl _ _
  refine Keeps.ite (fun _ => ?_) (fun _ => ?_)
  exact Keeps.refl _ _
  refine Keeps.made_fabric ?_
  refine Keeps.after (State.issue_keeps ..) ?_
  split
  refine Keeps.after (State.setTask_keeps ..) ?_
  refine Keeps.made_fabric ?_
  exact Keeps.refl _ _
  refine Keeps.made_fabric ?_
  exact Keeps.refl _ _

/-- What State.dropOut may change. -/
theorem State.dropOut_keeps (s : State) (o : OutPacket) :
    Keeps [.fabric] s (State.dropOut s o) := by
  unfold State.dropOut
  dsimp only
  split
  refine Keeps.after (State.requestSent_keeps ..) ?_
  split
  refine Keeps.ite (fun _ => ?_) (fun _ => ?_)
  refine Keeps.after (State.freeFlits_keeps ..) ?_
  exact Keeps.refl _ _
  exact Keeps.refl _ _
  exact Keeps.refl _ _
  split
  refine Keeps.ite (fun _ => ?_) (fun _ => ?_)
  refine Keeps.after (State.freeFlits_keeps ..) ?_
  exact Keeps.refl _ _
  exact Keeps.refl _ _
  exact Keeps.refl _ _

/-- What State.moduleReset may change. -/
theorem State.moduleReset_keeps (s : State) :
    Keeps [.mem, .writes, .regs, .eventSeq, .errorSeq, .chart, .load, .unloadWaiting, .zeroing, .rings, .tasks,
      .signals, .jobs, .streams, .memQueue, .tables, .drift, .lanes, .corrections, .scrubbed, .bankQuiet, .fabric,
      .reductions, .combining, .sysreset, .power, .pcie, .boot] s (State.moduleReset s) := by
  refine ⟨?_, fun _ => rfl, Nat.le_refl _⟩
  intro p hp
  cases p <;> first | exact Bool.noConfusion hp | rfl

/-- What State.extendMeasure may change. -/
theorem State.extendMeasure_keeps (s : State) (i : Nat) (data : List Byte) :
    Keeps [.regs] s (State.extendMeasure s i data) := by
  unfold State.extendMeasure
  refine Keeps.after (State.setReg_keeps ..) ?_
  exact Keeps.refl _ _

/-- What State.startTransit may change. -/
theorem State.startTransit_keeps (s : State) (p : Nat) (i : Nat) (w : Nat) (k : Packet) :
    Keeps [.regs, .fabric, .outputs] s (State.startTransit s p i w k) := by
  unfold State.startTransit
  dsimp only
  refine Keeps.after (State.queueOn_keeps ..) ?_
  exact Keeps.refl _ _

/-- What State.sendGets may change. -/
theorem State.sendGets_keeps (s : State) (t : Task) (die : Nat) (missing : List (Nat × Nat)) :
    Keeps [.regs, .fabric, .outputs] s (State.sendGets s t die missing) := by
  unfold State.sendGets
  dsimp only
  refine Keeps.foldl (fun _ _ => ?_) ?_
  refine Keeps.ite (fun _ => ?_) (fun _ => ?_)
  refine Keeps.after (State.issue_keeps ..) ?_
  refine Keeps.after (State.bump_keeps ..) ?_
  exact Keeps.refl _ _
  exact Keeps.refl _ _
  exact Keeps.refl _ _

/-- What State.resetIfSent may change. -/
theorem State.resetIfSent_keeps (s : State) :
    Keeps [.mem, .writes, .regs, .eventSeq, .errorSeq, .chart, .load, .unloadWaiting, .zeroing, .rings, .tasks,
      .signals, .jobs, .streams, .memQueue, .tables, .drift, .lanes, .corrections, .scrubbed, .bankQuiet, .fabric,
      .reductions, .combining, .sysreset, .power, .pcie, .boot] s (State.resetIfSent s) := by
  unfold State.resetIfSent
  dsimp only
  refine Keeps.ite (fun _ => ?_) (fun _ => ?_)
  refine Keeps.after (State.moduleReset_keeps ..) ?_
  exact Keeps.refl _ _
  exact Keeps.refl _ _

/-- What State.clearPort may change. -/
theorem State.clearPort_keeps (s : State) (p : Nat) :
    Keeps [.regs, .fabric, .combining] s (State.clearPort s p) := by
  unfold State.clearPort
  dsimp only
  refine Keeps.foldl (fun _ _ => ?_) ?_
  refine Keeps.after (State.dropOut_keeps ..) ?_
  exact Keeps.refl _ _
  refine Keeps.made_fabric_combining ?_
  refine Keeps.after (State.setReg_keeps ..) ?_
  refine Keeps.after (State.setPort_keeps ..) ?_
  exact Keeps.refl _ _

/-- What State.linkDown may change. -/
theorem State.linkDown_keeps (s : State) (p : Nat) (reason : Nat) :
    Keeps [.mem, .writes, .regs, .eventSeq, .fabric, .combining, .pcie, .outputs] s (State.linkDown s p reason) := by
  unfold State.linkDown
  refine Keeps.after (State.setLink_keeps ..) ?_
  refine Keeps.after (State.clearPort_keeps ..) ?_
  exact Keeps.refl _ _

/-- What State.freeArrival may change. -/
theorem State.freeArrival_keeps (s : State) (a : Arrival) :
    Keeps [.fabric] s (State.freeArrival s a) := by
  unfold State.freeArrival
  refine Keeps.after (State.freeFlits_keeps ..) ?_
  exact Keeps.refl _ _

/-- What State.sendRows may change. -/
theorem State.sendRows_keeps (s : State) :
    Keeps [.regs, .tasks, .fabric, .outputs] s (State.sendRows s) := by
  unfold State.sendRows
  dsimp only
  refine Keeps.foldl (fun _ _ => ?_) ?_
  refine Keeps.after (State.sendRowList_keeps ..) ?_
  exact Keeps.refl _ _
  exact Keeps.refl _ _

/-- What State.applyFetched may change. -/
theorem State.applyFetched_keeps (s : State) (t : Task) (die : Nat) (r : Result) :
    Keeps [.free, .mem, .writes, .regs, .eventSeq, .tasks, .drift, .fabric, .pcie,
      .outputs] s (State.applyFetched s t die r) := by
  unfold State.applyFetched
  refine Keeps.ite (fun _ => ?_) (fun _ => ?_)
  refine Keeps.after (State.dropRequests_keeps ..) ?_
  refine Keeps.after (State.applyResult_keeps ..) ?_
  exact Keeps.refl _ _
  refine Keeps.after (State.sendRows_keeps ..) ?_
  refine Keeps.foldl (fun _ _ => ?_) ?_
  refine Keeps.after (State.askRow_keeps ..) ?_
  exact Keeps.refl _ _
  exact Keeps.refl _ _

/-- What State.applyRemote may change. -/
theorem State.applyRemote_keeps (s : State) (t : Task) (die : Nat) (r : Result) :
    Keeps [.free, .mem, .writes, .regs, .eventSeq, .tasks, .drift, .fabric, .pcie,
      .outputs] s (State.applyRemote s t die r) := by
  unfold State.applyRemote
  refine Keeps.ite (fun _ => ?_) (fun _ => ?_)
  refine Keeps.after (State.dropRequests_keeps ..) ?_
  refine Keeps.after (State.applyResult_keeps ..) ?_
  exact Keeps.refl _ _
  refine Keeps.after (State.sendGets_keeps ..) ?_
  exact Keeps.refl _ _

/-- What State.stopTransit may change. -/
theorem State.stopTransit_keeps (s : State) (p : Nat) (i : Nat) (w : Nat) :
    Keeps [.regs, .fabric, .outputs] s (State.stopTransit s p i w) := by
  unfold State.stopTransit
  dsimp only
  split
  refine Keeps.after (State.pump_keeps ..) ?_
  refine Keeps.after (State.dropOut_keeps ..) ?_
  refine Keeps.after (State.setPort_keeps ..) ?_
  exact Keeps.refl _ _
  exact Keeps.refl _ _

/-- What State.setStream may change. -/
theorem State.setStream_keeps (s : State) (x : Stream) :
    Keeps [.streams] s (State.setStream s x) := by
  unfold State.setStream
  refine Keeps.made_streams ?_
  exact Keeps.refl _ _

/-- What State.sendStreamGet may change. -/
theorem State.sendStreamGet_keeps (s : State) (x : Stream) (block : Nat) (p : Nat × Nat) :
    Keeps [.regs, .fabric, .outputs] s (State.sendStreamGet s x block p) := by
  unfold State.sendStreamGet
  dsimp only
  refine Keeps.ite (fun _ => ?_) (fun _ => ?_)
  refine Keeps.after (State.issue_keeps ..) ?_
  exact Keeps.refl _ _
  refine Keeps.made_fabric ?_
  exact Keeps.refl _ _

/-- What State.issueBlock may change. -/
theorem State.issueBlock_keeps (s : State) (x : Stream) (f : Flying) :
    Keeps [.regs, .memQueue, .fabric, .outputs] s (State.issueBlock s x f) := by
  unfold State.issueBlock
  dsimp only
  split
  exact Keeps.refl _ _
  refine Keeps.ite (fun _ => ?_) (fun _ => ?_)
  refine Keeps.after (State.enterRequests_keeps ..) ?_
  refine Keeps.after (State.bump_keeps ..) ?_
  exact Keeps.refl _ _
  refine Keeps.foldl (fun _ _ => ?_) ?_
  refine Keeps.after (State.sendStreamGet_keeps ..) ?_
  exact Keeps.refl _ _
  refine Keeps.after (State.bump_keeps ..) ?_
  exact Keeps.refl _ _

/-- What State.issueStream may change. -/
theorem State.issueStream_keeps (s : State) (x : Stream) (upTo : Nat) :
    Keeps [.regs, .memQueue, .fabric, .outputs] s (State.issueStream s x upTo).1 := by
  unfold State.issueStream
  dsimp only
  refine Keeps.foldl (fun _ _ => ?_) ?_
  refine Keeps.after (State.issueBlock_keeps ..) ?_
  exact Keeps.refl _ _
  exact Keeps.refl _ _

/-- The same of a result that is named. -/
theorem State.issueStream_keeps_eq {s : State} {x : Stream} {upTo : Nat} {t0 : State} {y : _}
    (h : State.issueStream s x upTo = (t0, y)) : Keeps [.regs, .memQueue, .fabric, .outputs] s t0 := by
  have hk := State.issueStream_keeps s x upTo
  rw [h] at hk
  exact hk

/-- What State.consumeBlock may change. -/
theorem State.consumeBlock_keeps (s : State) (x : Stream) (tagsBusy : Bool) :
    Keeps [.regs, .streams, .memQueue, .fabric, .outputs] s (State.consumeBlock s x tagsBusy) := by
  unfold State.consumeBlock
  dsimp only
  refine Keeps.ite (fun _ => ?_) (fun _ => ?_)
  refine Keeps.after (State.closeStreams_keeps ..) ?_
  refine Keeps.ite (fun _ => ?_) (fun _ => ?_)
  exact Keeps.refl _ _
  refine Keeps.after (State.bump_keeps ..) ?_
  exact Keeps.refl _ _
  refine Keeps.after (State.setStream_keeps ..) ?_
  refine Keeps.after (State.issueStream_keeps ..) ?_
  refine Keeps.ite (fun _ => ?_) (fun _ => ?_)
  exact Keeps.refl _ _
  refine Keeps.after (State.bump_keeps ..) ?_
  exact Keeps.refl _ _

/-- What State.askBlock may change. -/
theorem State.askBlock_keeps (s : State) (x : Stream) :
    Keeps [.regs, .streams, .memQueue, .fabric, .outputs] s (State.askBlock s x) := by
  unfold State.askBlock
  dsimp only
  refine Keeps.ite (fun _ => ?_) (fun _ => ?_)
  exact Keeps.refl _ _
  refine Keeps.after (State.setStream_keeps ..) ?_
  refine Keeps.after (State.issueStream_keeps ..) ?_
  refine Keeps.after (State.bump_keeps ..) ?_
  exact Keeps.refl _ _

/-- What State.streamConsume may change. -/
theorem State.streamConsume_keeps (s : State) (die : Nat) (slot : Nat) (tagsBusy : Bool) :
    Keeps [.regs, .streams, .memQueue, .fabric, .outputs] s (State.streamConsume s die slot tagsBusy) := by
  unfold State.streamConsume
  split
  refine Keeps.ite (fun _ => ?_) (fun _ => ?_)
  refine Keeps.after (State.consumeBlock_keeps ..) ?_
  exact Keeps.refl _ _
  refine Keeps.after (State.askBlock_keeps ..) ?_
  exact Keeps.refl _ _
  exact Keeps.refl _ _

/-- What State.streamClose may change. -/
theorem State.streamClose_keeps (s : State) (id : TaskId) :
    Keeps [.free, .mem, .writes, .regs, .eventSeq, .tasks, .streams, .memQueue, .drift, .fabric, .pcie,
      .outputs] s (State.streamClose s id) := by
  unfold State.streamClose
  dsimp only
  split
  refine Keeps.after (State.applyResult_keeps ..) ?_
  refine Keeps.after (State.closeStreams_keeps ..) ?_
  exact Keeps.refl _ _
  exact Keeps.refl _ _

/-- What State.landBlock may change. -/
theorem State.landBlock_keeps (s : State) (x : Stream) (f : Flying) (ops : List MemOp) (st : BlockState) :
    Keeps [.free, .mem, .writes, .regs, .streams, .memQueue, .fabric, .pcie] s (State.landBlock s x f ops st) := by
  unfold State.landBlock
  dsimp only
  split
  refine Keeps.after (State.dropRequests_keeps ..) ?_
  refine Keeps.after (State.releaseRequests_keeps ..) ?_
  refine Keeps.after (State.setStream_keeps ..) ?_
  refine Keeps.after (State.memOps_keeps ..) ?_
  refine Keeps.made_free ?_
  exact Keeps.refl _ _
  refine Keeps.after (State.bump_keeps ..) ?_
  refine Keeps.after (State.dropRequests_keeps ..) ?_
  refine Keeps.after (State.releaseRequests_keeps ..) ?_
  refine Keeps.after (State.setStream_keeps ..) ?_
  refine Keeps.after (State.memOps_keeps ..) ?_
  refine Keeps.made_free ?_
  exact Keeps.refl _ _
  refine Keeps.ite (fun _ => ?_) (fun _ => ?_)
  refine Keeps.after (State.bump_keeps ..) ?_
  refine Keeps.after (State.dropRequests_keeps ..) ?_
  refine Keeps.after (State.releaseRequests_keeps ..) ?_
  refine Keeps.after (State.setStream_keeps ..) ?_
  refine Keeps.after (State.memOps_keeps ..) ?_
  refine Keeps.made_free ?_
  exact Keeps.refl _ _
  refine Keeps.after (State.dropRequests_keeps ..) ?_
  refine Keeps.after (State.releaseRequests_keeps ..) ?_
  refine Keeps.after (State.setStream_keeps ..) ?_
  refine Keeps.after (State.memOps_keeps ..) ?_
  refine Keeps.made_free ?_
  exact Keeps.refl _ _

/-- What State.openStream may change. -/
theorem State.openStream_keeps (s : State) (t : Task) (slot : Nat) (d : StreamDesc) :
    Keeps [.regs, .streams, .memQueue, .fabric, .outputs] s (State.openStream s t slot d) := by
  unfold State.openStream
  dsimp only
  refine Keeps.ite (fun _ => ?_) (fun _ => ?_)
  exact Keeps.refl _ _
  refine Keeps.made_streams ?_
  refine Keeps.after (State.issueStream_keeps ..) ?_
  exact Keeps.refl _ _

/-- What State.streamArrival may change. -/
theorem State.streamArrival_keeps (s : State) (die : Nat) (slot : Nat) (block : Nat) (remote : List RemoteReply) :
    Keeps [.free, .mem, .writes, .regs, .streams, .memQueue, .fabric,
      .pcie] s (State.streamArrival s die slot block remote) := by
  unfold State.streamArrival
  split
  split
  split
  refine Keeps.after (State.landBlock_keeps ..) ?_
  exact Keeps.refl _ _
  exact Keeps.refl _ _
  exact Keeps.refl _ _
  exact Keeps.refl _ _

/-- What State.scrubbedOne may change. -/
theorem State.scrubbedOne_keeps (s : State) (stack : Nat) :
    Keeps [.mem, .writes, .regs, .eventSeq, .scrubbed, .pcie, .outputs] s (State.scrubbedOne s stack) := by
  unfold State.scrubbedOne
  dsimp only
  refine Keeps.ite (fun _ => ?_) (fun _ => ?_)
  refine Keeps.after (State.post_keeps ..) ?_
  refine Keeps.after (State.bump_keeps ..) ?_
  refine Keeps.made_scrubbed ?_
  exact Keeps.refl _ _
  refine Keeps.made_scrubbed ?_
  exact Keeps.refl _ _

/-- What State.codewordUncorrectable may change. -/
theorem State.codewordUncorrectable_keeps (s : State) (offset : Nat) (p : HbmPlace) :
    Keeps [.mem, .writes, .regs, .eventSeq, .errorSeq, .pcie,
      .outputs] s (State.codewordUncorrectable s offset p) := by
  unfold State.codewordUncorrectable
  dsimp only
  refine Keeps.ite (fun _ => ?_) (fun _ => ?_)
  exact Keeps.refl _ _
  refine Keeps.after (State.logError_keeps ..) ?_
  refine Keeps.after (State.post_keeps ..) ?_
  refine Keeps.after (State.bump_keeps ..) ?_
  refine Keeps.after (State.memOps_keeps ..) ?_
  exact Keeps.refl _ _

/-- What State.laneCorrected may change. -/
theorem State.laneCorrected_keeps (s : State) (p : HbmPlace) (lane : Nat) :
    Keeps [.mem, .writes, .regs, .eventSeq, .lanes, .pcie, .binnacle, .outputs] s (State.laneCorrected s p lane) := by
  unfold State.laneCorrected
  dsimp only
  refine Keeps.ite (fun _ => ?_) (fun _ => ?_)
  refine Keeps.ite (fun _ => ?_) (fun _ => ?_)
  refine Keeps.after (State.post_keeps ..) ?_
  refine Keeps.made_lanes_binnacle ?_
  exact Keeps.refl _ _
  refine Keeps.after (State.post_keeps ..) ?_
  refine Keeps.made_lanes ?_
  exact Keeps.refl _ _
  refine Keeps.made_lanes ?_
  exact Keeps.refl _ _

/-- What State.codeword may change. -/
theorem State.codeword_keeps (s : State) (offset : Nat) (lanes : List Nat) (uncorrectable : Bool) :
    Keeps [.free, .mem, .writes, .regs, .eventSeq, .errorSeq, .lanes, .corrections, .pcie, .binnacle,
      .outputs] s (State.codeword s offset lanes uncorrectable) := by
  unfold State.codeword
  dsimp only
  refine Keeps.ite (fun _ => ?_) (fun _ => ?_)
  exact Keeps.refl _ _
  refine Keeps.ite (fun _ => ?_) (fun _ => ?_)
  refine Keeps.after (State.codewordUncorrectable_keeps ..) ?_
  exact Keeps.refl _ _
  refine Keeps.ite (fun _ => ?_) (fun _ => ?_)
  refine Keeps.ite (fun _ => ?_) (fun _ => ?_)
  refine Keeps.foldl (fun _ _ => ?_) ?_
  refine Keeps.after (State.laneCorrected_keeps ..) ?_
  exact Keeps.refl _ _
  exact Keeps.refl _ _
  refine Keeps.after (State.corrected_keeps ..) ?_
  refine Keeps.after (State.bump_keeps ..) ?_
  refine Keeps.foldl (fun _ _ => ?_) ?_
  refine Keeps.after (State.laneCorrected_keeps ..) ?_
  exact Keeps.refl _ _
  exact Keeps.refl _ _
  refine Keeps.after (State.corrected_keeps ..) ?_
  refine Keeps.after (State.bump_keeps ..) ?_
  refine Keeps.after (State.memOps_keeps ..) ?_
  refine Keeps.made_free ?_
  exact Keeps.refl _ _

/-- What State.scrub may change. -/
theorem State.scrub_keeps (s : State) (offset : Nat) (lanes : List Nat) (uncorrectable : Bool) :
    Keeps [.free, .mem, .writes, .regs, .eventSeq, .errorSeq, .lanes, .corrections, .scrubbed, .pcie, .binnacle,
      .outputs] s (State.scrub s offset lanes uncorrectable) := by
  unfold State.scrub
  dsimp only
  refine Keeps.ite (fun _ => ?_) (fun _ => ?_)
  exact Keeps.refl _ _
  refine Keeps.after (State.scrubbedOne_keeps ..) ?_
  refine Keeps.after (State.codeword_keeps ..) ?_
  exact Keeps.refl _ _

/-- What State.demandReads may change. -/
theorem State.demandReads_keeps (s : State) (ranges : List (Nat × Nat)) (errors : List CodewordError) :
    Keeps [.free, .mem, .writes, .regs, .eventSeq, .errorSeq, .lanes, .corrections, .pcie, .binnacle,
      .outputs] s (State.demandReads s ranges errors) := by
  unfold State.demandReads
  refine Keeps.foldl (fun _ _ => ?_) ?_
  refine Keeps.ite (fun _ => ?_) (fun _ => ?_)
  refine Keeps.after (State.codeword_keeps ..) ?_
  exact Keeps.refl _ _
  exact Keeps.refl _ _
  exact Keeps.refl _ _

/-- What State.copyStep may change. -/
theorem State.copyStep_keeps (s : State) (id : TaskId) (op : Nat) (errors : List CodewordError) :
    Keeps [.free, .mem, .writes, .regs, .eventSeq, .errorSeq, .tasks, .drift, .lanes, .corrections, .pcie, .binnacle,
      .outputs] s (State.copyStep s id op errors) := by
  unfold State.copyStep
  dsimp only
  split
  refine Keeps.after (State.applyResult_keeps ..) ?_
  refine Keeps.after (State.demandReads_keeps ..) ?_
  exact Keeps.refl _ _
  exact Keeps.refl _ _

/-- What State.streamOpen may change. -/
theorem State.streamOpen_keeps (s : State) (id : TaskId) :
    Keeps [.free, .mem, .writes, .regs, .eventSeq, .tasks, .streams, .memQueue, .drift, .fabric, .pcie,
      .outputs] s (State.streamOpen s id) := by
  unfold State.streamOpen
  dsimp only
  split
  refine Keeps.ite (fun _ => ?_) (fun _ => ?_)
  refine Keeps.after (State.applyResult_keeps ..) ?_
  refine Keeps.after (State.openStream_keeps ..) ?_
  exact Keeps.refl _ _
  refine Keeps.after (State.applyResult_keeps ..) ?_
  exact Keeps.refl _ _
  exact Keeps.refl _ _

/-- What State.bankCapEval may change. -/
theorem State.bankCapEval_keeps (s : State) (die : Nat) (waited : Bool) (ranOut : Bool) :
    Keeps [.mem, .writes, .regs, .eventSeq, .bankQuiet, .pcie,
      .outputs] s (State.bankCapEval s die waited ranOut) := by
  unfold State.bankCapEval
  dsimp only
  refine Keeps.ite (fun _ => ?_) (fun _ => ?_)
  refine Keeps.after (State.setReg_keeps ..) ?_
  exact Keeps.refl _ _
  refine Keeps.ite (fun _ => ?_) (fun _ => ?_)
  refine Keeps.ite (fun _ => ?_) (fun _ => ?_)
  refine Keeps.after (State.post_keeps ..) ?_
  refine Keeps.after (State.setReg_keeps ..) ?_
  refine Keeps.made_bankQuiet ?_
  exact Keeps.refl _ _
  refine Keeps.made_bankQuiet ?_
  exact Keeps.refl _ _
  refine Keeps.ite (fun _ => ?_) (fun _ => ?_)
  refine Keeps.after (State.setReg_keeps ..) ?_
  refine Keeps.made_bankQuiet ?_
  exact Keeps.refl _ _
  refine Keeps.made_bankQuiet ?_
  exact Keeps.refl _ _

/-- What State.shadowDiffers may change. -/
theorem State.shadowDiffers_keeps (s : State) (t : Task) (tile : Nat) (unit : Nat) (status : Nat) (x : ShadowRuns) :
    Keeps [.mem, .writes, .regs, .eventSeq, .errorSeq, .pcie,
      .outputs] s (State.shadowDiffers s t tile unit status x) := by
  unfold State.shadowDiffers
  refine Keeps.after (State.logError_keeps ..) ?_
  refine Keeps.after (State.post_keeps ..) ?_
  refine Keeps.after (State.bump_keeps ..) ?_
  exact Keeps.refl _ _

/-- What State.suspectAgain may change. -/
theorem State.suspectAgain_keeps (s : State) (t : Task) (tile : Nat) (major : Nat) (x : ShadowRuns) :
    Keeps [.free, .mem, .writes, .regs, .eventSeq, .errorSeq, .tasks, .fabric, .pcie, .binnacle,
      .outputs] s (State.suspectAgain s t tile major x) := by
  unfold State.suspectAgain
  dsimp only
  refine Keeps.ite (fun _ => ?_) (fun _ => ?_)
  refine Keeps.after (State.bump_keeps ..) ?_
  refine Keeps.after (State.suspectTile_keeps ..) ?_
  exact Keeps.refl _ _
  refine Keeps.after (State.retireTile_keeps ..) ?_
  refine Keeps.after (State.shadowDiffers_keeps ..) ?_
  refine Keeps.after (State.suspectTile_keeps ..) ?_
  exact Keeps.refl _ _

/-- What State.shadowOutcome may change. -/
theorem State.shadowOutcome_keeps (s0 : State) (t : Task) (x : ShadowRuns) :
    Keeps [.free, .mem, .writes, .regs, .eventSeq, .errorSeq, .tasks, .fabric, .pcie, .binnacle,
      .outputs] s0 (State.shadowOutcome s0 t x).1 := by
  unfold State.shadowOutcome
  dsimp only
  split
  dsimp only
  refine Keeps.ite (fun _ => ?_) (fun _ => ?_)
  exact Keeps.refl _ _
  refine Keeps.after (State.undefine_keeps ..) ?_
  exact Keeps.refl _ _
  split
  dsimp only
  refine Keeps.after (State.shadowDiffers_keeps ..) ?_
  refine Keeps.ite (fun _ => ?_) (fun _ => ?_)
  exact Keeps.refl _ _
  refine Keeps.after (State.undefine_keeps ..) ?_
  exact Keeps.refl _ _
  split
  dsimp only
  refine Keeps.after (State.suspectAgain_keeps ..) ?_
  refine Keeps.after (State.shadowDiffers_keeps ..) ?_
  refine Keeps.ite (fun _ => ?_) (fun _ => ?_)
  exact Keeps.refl _ _
  refine Keeps.after (State.undefine_keeps ..) ?_
  exact Keeps.refl _ _
  split
  dsimp only
  refine Keeps.after (State.suspectAgain_keeps ..) ?_
  refine Keeps.after (State.setTask_keeps ..) ?_
  refine Keeps.after (State.shadowDiffers_keeps ..) ?_
  exact Keeps.refl _ _
  dsimp only
  refine Keeps.after (State.shadowDiffers_keeps ..) ?_
  refine Keeps.after (State.shadowDiffers_keeps ..) ?_
  refine Keeps.ite (fun _ => ?_) (fun _ => ?_)
  exact Keeps.refl _ _
  refine Keeps.after (State.undefine_keeps ..) ?_
  exact Keeps.refl _ _

/-- The same of a result that is named. -/
theorem State.shadowOutcome_keeps_eq {s0 : State} {t : Task} {x : ShadowRuns} {t0 : State} {y : _}
    (h : State.shadowOutcome s0 t x = (t0, y)) : Keeps [.free, .mem, .writes, .regs, .eventSeq, .errorSeq, .tasks,
      .fabric, .pcie, .binnacle, .outputs] s0 t0 := by
  have hk := State.shadowOutcome_keeps s0 t x
  rw [h] at hk
  exact hk

/-- What State.shadowCheck may change. -/
theorem State.shadowCheck_keeps (s : State) (t : Task) (runs : List (Option Nat)) :
    Keeps [.free, .mem, .writes, .regs, .eventSeq, .errorSeq, .tasks, .fabric, .pcie, .binnacle,
      .outputs] s (State.shadowCheck s t runs).1 := by
  unfold State.shadowCheck
  dsimp only
  split
  dsimp only
  exact Keeps.refl _ _
  split
  dsimp only
  refine Keeps.after (State.bump_keeps ..) ?_
  exact Keeps.refl _ _
  split
  dsimp only
  refine Keeps.after (State.bump_keeps ..) ?_
  exact Keeps.refl _ _
  split
  dsimp only
  exact Keeps.refl _ _
  dsimp only
  refine Keeps.ite (fun _ => ?_) (fun _ => ?_)
  refine Keeps.after (State.bump_keeps ..) ?_
  refine Keeps.after (State.shadowOutcome_keeps ..) ?_
  exact Keeps.refl _ _
  refine Keeps.after (State.shadowOutcome_keeps ..) ?_
  exact Keeps.refl _ _

/-- The same of a result that is named. -/
theorem State.shadowCheck_keeps_eq {s : State} {t : Task} {runs : List (Option Nat)} {t0 : State} {y : _}
    (h : State.shadowCheck s t runs = (t0, y)) : Keeps [.free, .mem, .writes, .regs, .eventSeq, .errorSeq, .tasks,
      .fabric, .pcie, .binnacle, .outputs] s t0 := by
  have hk := State.shadowCheck_keeps s t runs
  rw [h] at hk
  exact hk

/-- What State.widenLink may change. -/
theorem State.widenLink_keeps (s : State) (p : Nat) :
    Keeps [.fabric, .outputs] s (State.widenLink s p) := by
  unfold State.widenLink
  dsimp only
  refine Keeps.ite (fun _ => ?_) (fun _ => ?_)
  refine Keeps.after (State.askFull_keeps ..) ?_
  refine Keeps.after (State.setPort_keeps ..) ?_
  exact Keeps.refl _ _
  refine Keeps.after (State.setPort_keeps ..) ?_
  exact Keeps.refl _ _

/-- What State.abandonEntry may change. -/
theorem State.abandonEntry_keeps (s : State) :
    Keeps [.mem, .writes, .regs, .eventSeq, .fabric, .power, .pcie, .outputs] s (State.abandonEntry s) := by
  unfold State.abandonEntry
  dsimp only
  refine Keeps.after (State.post_keeps ..) ?_
  refine Keeps.after (State.setRegs_keeps ..) ?_
  refine Keeps.foldl (fun _ _ => ?_) ?_
  refine Keeps.after (State.widenLink_keeps ..) ?_
  exact Keeps.refl _ _
  refine Keeps.made_power ?_
  exact Keeps.refl _ _

/-- What State.rejectEntry may change. -/
theorem State.rejectEntry_keeps (s : State) (ring : Nat) (status : Nat) :
    Keeps [.mem, .writes, .rings, .pcie, .outputs] s (State.rejectEntry s ring status) := by
  unfold State.rejectEntry
  dsimp only
  refine Keeps.ite (fun _ => ?_) (fun _ => ?_)
  refine Keeps.after (State.reject_keeps ..) ?_
  exact Keeps.refl _ _
  refine Keeps.after (State.setRing_keeps ..) ?_
  refine Keeps.after (State.reject_keeps ..) ?_
  exact Keeps.refl _ _

/-- What State.doorbell may change. -/
theorem State.doorbell_keeps (s : State) (ring : Nat) (value : Nat) :
    Keeps [.regs, .rings] s (State.doorbell s ring value) := by
  unfold State.doorbell
  dsimp only
  refine Keeps.ite (fun _ => ?_) (fun _ => ?_)
  refine Keeps.after (State.setRing_keeps ..) ?_
  exact Keeps.refl _ _
  refine Keeps.after (State.bump_keeps ..) ?_
  exact Keeps.refl _ _

/-- What State.delayExpiry may change. -/
theorem State.delayExpiry_keeps (s : State) (id : TaskId) :
    Keeps [.tasks] s (State.delayExpiry s id) := by
  unfold State.delayExpiry
  split
  split
  refine Keeps.ite (fun _ => ?_) (fun _ => ?_)
  refine Keeps.after (State.makeReady_keeps ..) ?_
  exact Keeps.refl _ _
  exact Keeps.refl _ _
  exact Keeps.refl _ _
  exact Keeps.refl _ _

/-- What State.ringEnable may change. -/
theorem State.ringEnable_keeps (s : State) :
    Keeps [.regs, .rings] s (State.ringEnable s) := by
  unfold State.ringEnable
  dsimp only
  refine Keeps.ite (fun _ => ?_) (fun _ => ?_)
  exact Keeps.refl _ _
  refine Keeps.ite (fun _ => ?_) (fun _ => ?_)
  refine Keeps.after (State.setRing_keeps ..) ?_
  exact Keeps.refl _ _
  refine Keeps.after (State.setReg_keeps ..) ?_
  exact Keeps.refl _ _

/-- What State.tickWrite may change. -/
theorem State.tickWrite_keeps (s : State) (value : Nat) :
    Keeps [.regs] s (State.tickWrite s value) := by
  unfold State.tickWrite
  dsimp only
  refine Keeps.ite (fun _ => ?_) (fun _ => ?_)
  refine Keeps.after (State.setReg_keeps ..) ?_
  exact Keeps.refl _ _
  exact Keeps.refl _ _

/-- A ring entry: what rejecting it or its own effect may change. -/
theorem State.takeEntry_keeps {ps : List Part} {s : State} {ring : Nat} {kinds : Nat → Bool} {act : Nat → RingEntry →
      State}
    (h : ∀ j e, Keeps ps s (act j e)) (ho : [Part.mem, .writes, .rings, .pcie,
      .outputs].all ps.contains = true := by rfl) :
    Keeps ps s (State.takeEntry s ring kinds act) := by
  unfold State.takeEntry
  split
  · split
    · exact Keeps.after (State.rejectEntry_keeps ..) (Keeps.refl _ _) ho
    · split
      · exact h _ _
      · exact Keeps.refl _ _
  · exact Keeps.refl _ _

/-- What State.discardTask may change. -/
theorem State.discardTask_keeps (s : State) (t : Task) :
    Keeps [.free, .mem, .writes, .regs, .rings, .tasks, .signals, .fabric, .pcie,
      .outputs] s (State.discardTask s t) := by
  unfold State.discardTask
  dsimp only
  refine Keeps.after (State.complete_keeps ..) ?_
  refine Keeps.after (State.cutOff_keeps ..) ?_
  refine Keeps.ite (fun _ => ?_) (fun _ => ?_)
  refine Keeps.after (State.undefine_keeps ..) ?_
  refine Keeps.after (State.bump_keeps ..) ?_
  exact Keeps.refl _ _
  refine Keeps.after (State.bump_keeps ..) ?_
  exact Keeps.refl _ _

/-- What State.ringDiscard may change. -/
theorem State.ringDiscard_keeps (s : State) (ring : Nat) :
    Keeps [.free, .mem, .writes, .regs, .rings, .tasks, .signals, .fabric, .pcie,
      .outputs] s (State.ringDiscard s ring) := by
  unfold State.ringDiscard
  dsimp only
  refine State.takeEntry_keeps (fun _ _ => ?_)
  split
  refine Keeps.ite (fun _ => ?_) (fun _ => ?_)
  refine Keeps.after (State.discardTask_keeps ..) ?_
  refine Keeps.after (State.setRing_keeps ..) ?_
  exact Keeps.refl _ _
  refine Keeps.after (State.bump_keeps ..) ?_
  refine Keeps.after (State.setRing_keeps ..) ?_
  exact Keeps.refl _ _
  refine Keeps.after (State.bump_keeps ..) ?_
  refine Keeps.after (State.setRing_keeps ..) ?_
  exact Keeps.refl _ _

/-- What State.ringNop may change. -/
theorem State.ringNop_keeps (s : State) (ring : Nat) :
    Keeps [.mem, .writes, .rings, .pcie, .outputs] s (State.ringNop s ring) := by
  unfold State.ringNop
  refine State.takeEntry_keeps (fun _ _ => ?_)
  refine Keeps.ite (fun _ => ?_) (fun _ => ?_)
  refine Keeps.after (State.setRing_keeps ..) ?_
  exact Keeps.refl _ _
  refine Keeps.after (State.rejectEntry_keeps ..) ?_
  exact Keeps.refl _ _

/-- What State.registerTask may change. -/
theorem State.registerTask_keeps (s : State) (job : Nat) (ring : Nat) (d : TaskDesc) :
    Keeps [.regs, .tasks, .signals] s (State.registerTask s job ring d) := by
  unfold State.registerTask
  dsimp only
  refine Keeps.ite (fun _ => ?_) (fun _ => ?_)
  refine Keeps.after (State.counterZero_keeps ..) ?_
  refine Keeps.ite (fun _ => ?_) (fun _ => ?_)
  refine Keeps.after (State.setReg_keeps ..) ?_
  refine Keeps.after (State.raiseReg_keeps ..) ?_
  refine Keeps.after (State.bump_keeps ..) ?_
  refine Keeps.made_tasks_signals ?_
  exact Keeps.refl _ _
  refine Keeps.after (State.raiseReg_keeps ..) ?_
  refine Keeps.after (State.bump_keeps ..) ?_
  refine Keeps.made_tasks_signals ?_
  exact Keeps.refl _ _
  refine Keeps.ite (fun _ => ?_) (fun _ => ?_)
  refine Keeps.after (State.setReg_keeps ..) ?_
  refine Keeps.after (State.raiseReg_keeps ..) ?_
  refine Keeps.after (State.bump_keeps ..) ?_
  refine Keeps.made_tasks_signals ?_
  exact Keeps.refl _ _
  refine Keeps.after (State.raiseReg_keeps ..) ?_
  refine Keeps.after (State.bump_keeps ..) ?_
  refine Keeps.made_tasks_signals ?_
  exact Keeps.refl _ _

/-- What State.recordWrite may change. -/
theorem State.recordWrite_keeps (s : State) (ring : Nat) :
    Keeps [.mem, .writes, .regs, .rings, .tasks, .signals, .pcie, .outputs] s (State.recordWrite s ring) := by
  unfold State.recordWrite
  dsimp only
  split
  exact Keeps.refl _ _
  refine Keeps.ite (fun _ => ?_) (fun _ => ?_)
  exact Keeps.refl _ _
  split
  split
  refine Keeps.after (State.afterRecord_keeps ..) ?_
  refine Keeps.after (State.setRing_keeps ..) ?_
  refine Keeps.after (State.writeRecord_keeps ..) ?_
  refine Keeps.after (State.setRing_keeps ..) ?_
  exact Keeps.refl _ _
  refine Keeps.after (State.setRing_keeps ..) ?_
  refine Keeps.after (State.writeRecord_keeps ..) ?_
  refine Keeps.after (State.setRing_keeps ..) ?_
  exact Keeps.refl _ _
  refine Keeps.after (State.setRing_keeps ..) ?_
  refine Keeps.after (State.setRing_keeps ..) ?_
  refine Keeps.after (State.writeRecord_keeps ..) ?_
  refine Keeps.after (State.setRing_keeps ..) ?_
  exact Keeps.refl _ _

/-- What State.wakeTrigger may change. -/
theorem State.wakeTrigger_keeps (s : State) :
    Keeps [.mem, .writes, .regs, .eventSeq, .fabric, .power, .pcie, .outputs] s (State.wakeTrigger s) := by
  unfold State.wakeTrigger
  dsimp only
  split
  exact Keeps.refl _ _
  refine Keeps.after (State.abandonEntry_keeps ..) ?_
  exact Keeps.refl _ _
  refine Keeps.made_power ?_
  exact Keeps.refl _ _
  exact Keeps.refl _ _

/-- What State.doorbellWrite may change. -/
theorem State.doorbellWrite_keeps (s : State) (ring : Nat) (off : Nat) (size : Nat) (value : Nat) :
    Keeps [.mem, .writes, .regs, .eventSeq, .rings, .fabric, .power, .pcie,
      .outputs] s (State.doorbellWrite s ring off size value) := by
  unfold State.doorbellWrite
  dsimp only
  refine Keeps.ite (fun _ => ?_) (fun _ => ?_)
  refine Keeps.ite (fun _ => ?_) (fun _ => ?_)
  refine Keeps.after (State.doorbell_keeps ..) ?_
  refine Keeps.after (State.wakeTrigger_keeps ..) ?_
  exact Keeps.refl _ _
  refine Keeps.made_power ?_
  refine Keeps.after (State.wakeTrigger_keeps ..) ?_
  exact Keeps.refl _ _
  refine Keeps.after (State.bump_keeps ..) ?_
  exact Keeps.refl _ _

/-- What State.ringFence may change. -/
theorem State.ringFence_keeps (s : State) (ring : Nat) :
    Keeps [.mem, .writes, .rings, .pcie, .outputs] s (State.ringFence s ring) := by
  unfold State.ringFence
  dsimp only
  refine State.takeEntry_keeps (fun _ _ => ?_)
  refine Keeps.after (State.setRing_keeps ..) ?_
  exact Keeps.refl _ _

/-- What State.signalPlace may change. -/
theorem State.signalPlace_keeps (s : State) (id : TaskId) :
    Keeps [.regs, .tasks, .signals] s (State.signalPlace s id) := by
  unfold State.signalPlace
  dsimp only
  split
  refine Keeps.ite (fun _ => ?_) (fun _ => ?_)
  refine Keeps.ite (fun _ => ?_) (fun _ => ?_)
  refine Keeps.after (State.dropTask_keeps ..) ?_
  refine Keeps.after (State.placeSignals_keeps ..) ?_
  exact Keeps.refl _ _
  refine Keeps.after (State.setTask_keeps ..) ?_
  refine Keeps.after (State.placeSignals_keeps ..) ?_
  exact Keeps.refl _ _
  exact Keeps.refl _ _
  exact Keeps.refl _ _

/-- What State.cqHeadWrite may change. -/
theorem State.cqHeadWrite_keeps (s : State) (ring : Nat) (size : Nat) (value : Nat) :
    Keeps [.regs, .rings] s (State.cqHeadWrite s ring size value) := by
  unfold State.cqHeadWrite
  dsimp only
  refine Keeps.ite (fun _ => ?_) (fun _ => ?_)
  refine Keeps.after (State.setRing_keeps ..) ?_
  exact Keeps.refl _ _
  refine Keeps.after (State.bump_keeps ..) ?_
  exact Keeps.refl _ _

/-- What State.runAgain may change. -/
theorem State.runAgain_keeps (s : State) (t : Task) :
    Keeps [.tasks] s (State.runAgain s t) := by
  unfold State.runAgain
  dsimp only
  refine Keeps.ite (fun _ => ?_) (fun _ => ?_)
  refine Keeps.after (State.makeReady_keeps ..) ?_
  exact Keeps.refl _ _
  refine Keeps.after (State.setTask_keeps ..) ?_
  exact Keeps.refl _ _

/-- What State.replayEnd may change. -/
theorem State.replayEnd_keeps (s : State) (t : Task) :
    Keeps [.free, .mem, .writes, .regs, .eventSeq, .errorSeq, .tasks, .fabric, .pcie, .binnacle,
      .outputs] s (State.replayEnd s t) := by
  unfold State.replayEnd
  refine Keeps.ite (fun _ => ?_) (fun _ => ?_)
  exact Keeps.refl _ _
  refine Keeps.ite (fun _ => ?_) (fun _ => ?_)
  refine Keeps.after (State.bump_keeps ..) ?_
  exact Keeps.refl _ _
  refine Keeps.ite (fun _ => ?_) (fun _ => ?_)
  refine Keeps.after (State.retireTile_keeps ..) ?_
  exact Keeps.refl _ _
  exact Keeps.refl _ _

/-- What State.fenceCleared may change. -/
theorem State.fenceCleared_keeps (s : State) (ring : Nat) :
    Keeps [.rings] s (State.fenceCleared s ring) := by
  unfold State.fenceCleared
  dsimp only
  refine Keeps.ite (fun _ => ?_) (fun _ => ?_)
  refine Keeps.after (State.setRing_keeps ..) ?_
  exact Keeps.refl _ _
  exact Keeps.refl _ _

/-- What State.passCycle may change. -/
theorem State.passCycle_keeps (s : State) :
    Keeps [.now, .tick, .boundary, .period, .mem, .writes, .regs, .eventSeq, .errorSeq, .corrections, .pcie,
      .outputs] s (State.passCycle s) := by
  unfold State.passCycle
  dsimp only
  refine Keeps.ite (fun _ => ?_) (fun _ => ?_)
  refine Keeps.after (State.writeCorrections_keeps ..) ?_
  refine Keeps.made_now_tick_boundary_period ?_
  exact Keeps.refl _ _
  refine Keeps.after (State.writeCorrections_keeps ..) ?_
  refine Keeps.made_now ?_
  exact Keeps.refl _ _

/-- What State.rejectDescriptor may change. -/
theorem State.rejectDescriptor_keeps (s : State) (ring : Nat) (userTag : Nat) (signalTag : Nat) (status : Nat) (interrupt :
      Bool) :
    Keeps [.mem, .writes, .rings, .pcie, .outputs] s (State.rejectDescriptor s ring userTag signalTag status
      interrupt) := by
  unfold State.rejectDescriptor
  dsimp only
  refine Keeps.ite (fun _ => ?_) (fun _ => ?_)
  refine Keeps.after (State.reject_keeps ..) ?_
  exact Keeps.refl _ _
  refine Keeps.after (State.setRing_keeps ..) ?_
  refine Keeps.after (State.reject_keeps ..) ?_
  exact Keeps.refl _ _

/-- What State.ringTasks may change. -/
theorem State.ringTasks_keeps (s : State) (ring : Nat) :
    Keeps [.mem, .writes, .rings, .pcie, .outputs] s (State.ringTasks s ring) := by
  unfold State.ringTasks
  dsimp only
  refine State.takeEntry_keeps (fun _ _ => ?_)
  refine Keeps.ite (fun _ => ?_) (fun _ => ?_)
  refine Keeps.after (State.setRing_keeps ..) ?_
  exact Keeps.refl _ _
  refine Keeps.ite (fun _ => ?_) (fun _ => ?_)
  refine Keeps.after (State.setRing_keeps ..) ?_
  exact Keeps.refl _ _
  refine Keeps.after (State.rejectEntry_keeps ..) ?_
  exact Keeps.refl _ _

/-- What State.deadlineExpiry may change. -/
theorem State.deadlineExpiry_keeps (s : State) (id : TaskId) :
    Keeps [.mem, .writes, .regs, .rings, .tasks, .signals, .pcie, .outputs] s (State.deadlineExpiry s id) := by
  unfold State.deadlineExpiry
  split
  split
  refine Keeps.ite (fun _ => ?_) (fun _ => ?_)
  refine Keeps.after (State.complete_keeps ..) ?_
  exact Keeps.refl _ _
  exact Keeps.refl _ _
  exact Keeps.refl _ _
  exact Keeps.refl _ _

/-- What State.ringSignal may change. -/
theorem State.ringSignal_keeps (s : State) (ring : Nat) :
    Keeps [.mem, .writes, .regs, .rings, .tasks, .signals, .pcie, .outputs] s (State.ringSignal s ring) := by
  unfold State.ringSignal
  dsimp only
  refine State.takeEntry_keeps (fun _ _ => ?_)
  refine Keeps.ite (fun _ => ?_) (fun _ => ?_)
  refine Keeps.after (State.rejectEntry_keeps ..) ?_
  exact Keeps.refl _ _
  split
  refine Keeps.after (State.setRing_keeps ..) ?_
  refine Keeps.after (State.signal?_keeps (by assumption)) ?_
  exact Keeps.refl _ _
  refine Keeps.after (State.setRing_keeps ..) ?_
  exact Keeps.refl _ _

/-- What State.taskRegister may change. -/
theorem State.taskRegister_keeps (s : State) (ring : Nat) :
    Keeps [.mem, .writes, .regs, .rings, .tasks, .signals, .pcie, .outputs] s (State.taskRegister s ring) := by
  unfold State.taskRegister
  dsimp only
  split
  refine Keeps.ite (fun _ => ?_) (fun _ => ?_)
  exact Keeps.refl _ _
  refine Keeps.ite (fun _ => ?_) (fun _ => ?_)
  refine Keeps.after (State.rejectDescriptor_keeps ..) ?_
  exact Keeps.refl _ _
  refine Keeps.ite (fun _ => ?_) (fun _ => ?_)
  refine Keeps.after (State.rejectDescriptor_keeps ..) ?_
  exact Keeps.refl _ _
  refine Keeps.ite (fun _ => ?_) (fun _ => ?_)
  refine Keeps.after (State.setRing_keeps ..) ?_
  exact Keeps.refl _ _
  refine Keeps.after (State.setRing_keeps ..) ?_
  refine Keeps.after (State.registerTask_keeps ..) ?_
  exact Keeps.refl _ _
  exact Keeps.refl _ _

/-- What State.finishTask may change. -/
theorem State.finishTask_keeps (s : State) (t : Task) (runs : List (Option Nat)) :
    Keeps [.free, .mem, .writes, .regs, .eventSeq, .errorSeq, .rings, .tasks, .signals, .jobs, .tables, .fabric,
      .pcie, .binnacle, .outputs] s (State.finishTask s t runs) := by
  unfold State.finishTask
  dsimp only
  refine Keeps.ite (fun _ => ?_) (fun _ => ?_)
  refine Keeps.after (State.complete_keeps ..) ?_
  exact Keeps.refl _ _
  split
  refine Keeps.after (State.shadowCheck_keeps_eq (by assumption)) ?_
  refine Keeps.after (State.replayEnd_keeps ..) ?_
  refine Keeps.after (State.undefineOverwritten_keeps ..) ?_
  exact Keeps.refl _ _
  refine Keeps.ite (fun _ => ?_) (fun _ => ?_)
  refine Keeps.after (State.poisonConsumed_keeps ..) ?_
  refine Keeps.after (State.complete_keeps ..) ?_
  refine Keeps.ite (fun _ => ?_) (fun _ => ?_)
  refine Keeps.after (State.refreshEnds_keeps ..) ?_
  refine Keeps.after (State.shadowCheck_keeps_eq (by assumption)) ?_
  refine Keeps.after (State.replayEnd_keeps ..) ?_
  refine Keeps.after (State.undefineOverwritten_keeps ..) ?_
  exact Keeps.refl _ _
  refine Keeps.after (State.shadowCheck_keeps_eq (by assumption)) ?_
  refine Keeps.after (State.replayEnd_keeps ..) ?_
  refine Keeps.after (State.undefineOverwritten_keeps ..) ?_
  exact Keeps.refl _ _
  refine Keeps.after (State.complete_keeps ..) ?_
  refine Keeps.ite (fun _ => ?_) (fun _ => ?_)
  refine Keeps.after (State.refreshEnds_keeps ..) ?_
  refine Keeps.after (State.shadowCheck_keeps_eq (by assumption)) ?_
  refine Keeps.after (State.replayEnd_keeps ..) ?_
  refine Keeps.after (State.undefineOverwritten_keeps ..) ?_
  exact Keeps.refl _ _
  refine Keeps.after (State.shadowCheck_keeps_eq (by assumption)) ?_
  refine Keeps.after (State.replayEnd_keeps ..) ?_
  refine Keeps.after (State.undefineOverwritten_keeps ..) ?_
  exact Keeps.refl _ _

/-- What State.taskComplete may change. -/
theorem State.taskComplete_keeps (s : State) (id : TaskId) (runs : List (Option Nat)) :
    Keeps [.free, .mem, .writes, .regs, .eventSeq, .errorSeq, .rings, .tasks, .signals, .jobs, .tables, .fabric,
      .pcie, .binnacle, .outputs] s (State.taskComplete s id runs) := by
  unfold State.taskComplete
  dsimp only
  split
  exact Keeps.refl _ _
  refine Keeps.ite (fun _ => ?_) (fun _ => ?_)
  exact Keeps.refl _ _
  refine Keeps.ite (fun _ => ?_) (fun _ => ?_)
  refine Keeps.ite (fun _ => ?_) (fun _ => ?_)
  refine Keeps.after (State.setTask_keeps ..) ?_
  exact Keeps.refl _ _
  refine Keeps.ite (fun _ => ?_) (fun _ => ?_)
  refine Keeps.after (State.runAgain_keeps ..) ?_
  refine Keeps.after (State.bump_keeps ..) ?_
  refine Keeps.ite (fun _ => ?_) (fun _ => ?_)
  exact Keeps.refl _ _
  refine Keeps.after (State.bump_keeps ..) ?_
  exact Keeps.refl _ _
  refine Keeps.after (State.finishTask_keeps ..) ?_
  refine Keeps.ite (fun _ => ?_) (fun _ => ?_)
  exact Keeps.refl _ _
  refine Keeps.after (State.bump_keeps ..) ?_
  exact Keeps.refl _ _
  refine Keeps.after (State.finishTask_keeps ..) ?_
  exact Keeps.refl _ _

/-- What State.ringDisable may change. -/
theorem State.ringDisable_keeps (s : State) :
    Keeps [.rings] s (State.ringDisable s) := by
  unfold State.ringDisable
  dsimp only
  refine Keeps.after (State.setRing_keeps ..) ?_
  exact Keeps.refl _ _

/-- What State.sendIdent may change. -/
theorem State.sendIdent_keeps (s : State) (p : Nat) (part : Nat) (content : List Byte) :
    Keeps [.outputs] s (State.sendIdent s p part content) := by
  unfold State.sendIdent
  refine Keeps.after (State.sendControl_keeps ..) ?_
  exact Keeps.refl _ _

/-- What State.dropOpen may change. -/
theorem State.dropOpen_keeps (s : State) (p : Nat) (vc : Nat) :
    Keeps [.fabric] s (State.dropOpen s p vc) := by
  unfold State.dropOpen
  dsimp only
  refine Keeps.after (State.setPort_keeps ..) ?_
  exact Keeps.refl _ _

/-- What State.putOpen may change. -/
theorem State.putOpen_keeps (s : State) (p : Nat) (o : OpenPacket) :
    Keeps [.fabric] s (State.putOpen s p o) := by
  unfold State.putOpen
  dsimp only
  refine Keeps.after (State.setPort_keeps ..) ?_
  refine Keeps.after (State.dropOpen_keeps ..) ?_
  exact Keeps.refl _ _

/-- What State.keepOpen may change. -/
theorem State.keepOpen_keeps (s : State) (p : Nat) (o : OpenPacket) :
    Keeps [.fabric] s (State.keepOpen s p o) := by
  unfold State.keepOpen
  dsimp only
  refine Keeps.ite (fun _ => ?_) (fun _ => ?_)
  refine Keeps.after (State.putOpen_keeps ..) ?_
  exact Keeps.refl _ _
  split
  refine Keeps.made_fabric ?_
  refine Keeps.after (State.dropOpen_keeps ..) ?_
  exact Keeps.refl _ _
  refine Keeps.after (State.dropOpen_keeps ..) ?_
  exact Keeps.refl _ _

/-- What State.dataFlit may change. -/
theorem State.dataFlit_keeps (s : State) (p : Nat) (vc : Nat) (tag : Nat) (content : List Byte) :
    Keeps [.regs, .fabric, .outputs] s (State.dataFlit s p vc tag content) := by
  unfold State.dataFlit
  dsimp only
  split
  refine Keeps.after (State.bump_keeps ..) ?_
  refine Keeps.after (State.freeFlits_keeps ..) ?_
  exact Keeps.refl _ _
  split
  refine Keeps.after (State.keepOpen_keeps ..) ?_
  exact Keeps.refl _ _
  refine Keeps.after (State.keepOpen_keeps ..) ?_
  refine Keeps.after (State.transitFlit_keeps ..) ?_
  exact Keeps.refl _ _
  refine Keeps.after (State.keepOpen_keeps ..) ?_
  refine Keeps.after (State.freeFlits_keeps ..) ?_
  exact Keeps.refl _ _

/-- What State.respond may change. -/
theorem State.respond_keeps (s : State) (k : Packet) (status : Nat) :
    Keeps [.regs, .fabric, .outputs] s (State.respond s k status) := by
  unfold State.respond
  refine Keeps.ite (fun _ => ?_) (fun _ => ?_)
  refine Keeps.after (State.sendPacket_keeps ..) ?_
  exact Keeps.refl _ _
  exact Keeps.refl _ _

/-- What State.sendAck may change. -/
theorem State.sendAck_keeps (s : State) (p : Nat) :
    Keeps [.fabric, .outputs] s (State.sendAck s p) := by
  unfold State.sendAck
  dsimp only
  refine Keeps.after (State.sendControl_keeps ..) ?_
  refine Keeps.after (State.setPort_keeps ..) ?_
  exact Keeps.refl _ _

/-- What State.onAckCredit may change. -/
theorem State.onAckCredit_keeps (s : State) (p : Nat) (ackSeq : Nat) (freed : List Nat) :
    Keeps [.regs, .fabric, .outputs] s (State.onAckCredit s p ackSeq freed) := by
  unfold State.onAckCredit
  dsimp only
  refine Keeps.after (State.pump_keeps ..) ?_
  refine Keeps.after (State.setPort_keeps ..) ?_
  exact Keeps.refl _ _

/-- What State.sendChart may change. -/
theorem State.sendChart_keeps (s : State) (p : Nat) :
    Keeps [.fabric, .outputs] s (State.sendChart s p) := by
  unfold State.sendChart
  dsimp only
  refine Keeps.after (State.setPort_keeps ..) ?_
  refine Keeps.after (State.sendControl_keeps ..) ?_
  refine Keeps.after (State.sendControl_keeps ..) ?_
  exact Keeps.refl _ _

/-- What State.fecResult may change. -/
theorem State.fecResult_keeps (s : State) (p : Nat) (u : Nat) (fec : Nat) :
    Keeps [.regs, .fabric] s (State.fecResult s p u fec) := by
  unfold State.fecResult
  dsimp only
  refine Keeps.ite (fun _ => ?_) (fun _ => ?_)
  exact Keeps.refl _ _
  refine Keeps.after (State.bump_keeps ..) ?_
  refine Keeps.after (State.setPort_keeps ..) ?_
  exact Keeps.refl _ _

/-- What State.heard may change. -/
theorem State.heard_keeps (s : State) (p : Nat) :
    Keeps [.fabric] s (State.heard s p) := by
  unfold State.heard
  dsimp only
  refine Keeps.after (State.setPort_keeps ..) ?_
  exact Keeps.refl _ _

/-- What State.sendNak may change. -/
theorem State.sendNak_keeps (s : State) (p : Nat) :
    Keeps [.fabric, .outputs] s (State.sendNak s p) := by
  unfold State.sendNak
  dsimp only
  refine Keeps.after (State.sendControl_keeps ..) ?_
  refine Keeps.after (State.setPort_keeps ..) ?_
  exact Keeps.refl _ _

/-- What State.discardFlit may change. -/
theorem State.discardFlit_keeps (s : State) (p : Nat) :
    Keeps [.fabric, .outputs] s (State.discardFlit s p) := by
  unfold State.discardFlit
  refine Keeps.ite (fun _ => ?_) (fun _ => ?_)
  exact Keeps.refl _ _
  refine Keeps.after (State.sendNak_keeps ..) ?_
  exact Keeps.refl _ _

/-- What State.resend may change. -/
theorem State.resend_keeps (s : State) (p : Nat) (n : Nat) :
    Keeps [.regs, .outputs] s (State.resend s p n) := by
  unfold State.resend
  dsimp only
  refine Keeps.after (State.bump_keeps ..) ?_
  refine Keeps.foldl (fun _ _ => ?_) ?_
  refine Keeps.after (State.emit_keeps ..) ?_
  exact Keeps.refl _ _
  exact Keeps.refl _ _

/-- What State.onNak may change. -/
theorem State.onNak_keeps (s : State) (p : Nat) (expected : Nat) :
    Keeps [.mem, .writes, .regs, .eventSeq, .fabric, .combining, .pcie, .outputs] s (State.onNak s p expected) := by
  unfold State.onNak
  dsimp only
  refine Keeps.ite (fun _ => ?_) (fun _ => ?_)
  refine Keeps.after (State.linkDown_keeps ..) ?_
  exact Keeps.refl _ _
  refine Keeps.ite (fun _ => ?_) (fun _ => ?_)
  refine Keeps.after (State.resend_keeps ..) ?_
  refine Keeps.after (State.setPort_keeps ..) ?_
  exact Keeps.refl _ _
  refine Keeps.after (State.setPort_keeps ..) ?_
  exact Keeps.refl _ _

/-- What State.sendStatement may change. -/
theorem State.sendStatement_keeps (s : State) (p : Nat) :
    Keeps [.outputs] s (State.sendStatement s p) := by
  unfold State.sendStatement
  refine Keeps.foldl (fun _ _ => ?_) ?_
  refine Keeps.after (State.sendIdent_keeps ..) ?_
  exact Keeps.refl _ _
  exact Keeps.refl _ _

/-- What State.chartCheck may change. -/
theorem State.chartCheck_keeps (s : State) (p : Nat) :
    Keeps [.mem, .writes, .regs, .eventSeq, .fabric, .pcie, .outputs] s (State.chartCheck s p) := by
  unfold State.chartCheck
  dsimp only
  refine Keeps.ite (fun _ => ?_) (fun _ => ?_)
  exact Keeps.refl _ _
  refine Keeps.ite (fun _ => ?_) (fun _ => ?_)
  exact Keeps.refl _ _
  refine Keeps.after (State.setLink_keeps ..) ?_
  exact Keeps.refl _ _

/-- What State.beginCheck may change. -/
theorem State.beginCheck_keeps (s : State) (p : Nat) :
    Keeps [.mem, .writes, .regs, .eventSeq, .fabric, .pcie, .outputs] s (State.beginCheck s p) := by
  unfold State.beginCheck
  dsimp only
  refine Keeps.after (State.chartCheck_keeps ..) ?_
  refine Keeps.after (State.sendChart_keeps ..) ?_
  refine Keeps.after (State.setPort_keeps ..) ?_
  exact Keeps.refl _ _

/-- What State.acceptPeer may change. -/
theorem State.acceptPeer_keeps (s : State) (p : Nat) :
    Keeps [.mem, .writes, .regs, .eventSeq, .fabric, .pcie, .binnacle, .outputs] s (State.acceptPeer s p) := by
  unfold State.acceptPeer
  dsimp only
  refine Keeps.after (State.beginCheck_keeps ..) ?_
  refine Keeps.after (State.extendMeasure_keeps ..) ?_
  refine Keeps.made_binnacle ?_
  exact Keeps.refl _ _

/-- What State.judgePeer may change. -/
theorem State.judgePeer_keeps (s : State) (p : Nat) (key : List Byte) (node : Nat) :
    Keeps [.mem, .writes, .regs, .eventSeq, .fabric, .pcie, .binnacle,
      .outputs] s (State.judgePeer s p key node) := by
  unfold State.judgePeer
  dsimp only
  refine Keeps.ite (fun _ => ?_) (fun _ => ?_)
  refine Keeps.after (State.beginCheck_keeps ..) ?_
  refine Keeps.after (State.setRegs_keeps ..) ?_
  exact Keeps.refl _ _
  refine Keeps.ite (fun _ => ?_) (fun _ => ?_)
  refine Keeps.ite (fun _ => ?_) (fun _ => ?_)
  refine Keeps.after (State.acceptPeer_keeps ..) ?_
  refine Keeps.after (State.setRegs_keeps ..) ?_
  exact Keeps.refl _ _
  refine Keeps.after (State.setLink_keeps ..) ?_
  refine Keeps.after (State.setRegs_keeps ..) ?_
  exact Keeps.refl _ _
  refine Keeps.made_binnacle ?_
  refine Keeps.after (State.post_keeps ..) ?_
  refine Keeps.after (State.setLink_keeps ..) ?_
  refine Keeps.after (State.setRegs_keeps ..) ?_
  exact Keeps.refl _ _

/-- What State.onIdent may change. -/
theorem State.onIdent_keeps (s : State) (p : Nat) (part : Nat) (content : List Byte) :
    Keeps [.mem, .writes, .regs, .eventSeq, .fabric, .pcie, .binnacle,
      .outputs] s (State.onIdent s p part content) := by
  unfold State.onIdent
  dsimp only
  refine Keeps.ite (fun _ => ?_) (fun _ => ?_)
  exact Keeps.refl _ _
  refine Keeps.ite (fun _ => ?_) (fun _ => ?_)
  refine Keeps.after (State.setLink_keeps ..) ?_
  exact Keeps.refl _ _
  refine Keeps.ite (fun _ => ?_) (fun _ => ?_)
  refine Keeps.after (State.sendStatement_keeps ..) ?_
  refine Keeps.after (State.setPort_keeps ..) ?_
  exact Keeps.refl _ _
  refine Keeps.ite (fun _ => ?_) (fun _ => ?_)
  exact Keeps.refl _ _
  refine Keeps.ite (fun _ => ?_) (fun _ => ?_)
  refine Keeps.after (State.setPort_keeps ..) ?_
  exact Keeps.refl _ _
  refine Keeps.ite (fun _ => ?_) (fun _ => ?_)
  refine Keeps.after (State.judgePeer_keeps ..) ?_
  refine Keeps.after (State.setPort_keeps ..) ?_
  exact Keeps.refl _ _
  refine Keeps.after (State.setLink_keeps ..) ?_
  refine Keeps.after (State.setPort_keeps ..) ?_
  exact Keeps.refl _ _

/-- What State.narrowed may change. -/
theorem State.narrowed_keeps (s : State) (p : Nat) :
    Keeps [.regs, .fabric, .outputs] s (State.narrowed s p) := by
  unfold State.narrowed
  dsimp only
  refine Keeps.ite (fun _ => ?_) (fun _ => ?_)
  refine Keeps.after (State.askFull_keeps ..) ?_
  refine Keeps.after (State.setReg_keeps ..) ?_
  refine Keeps.after (State.setPort_keeps ..) ?_
  exact Keeps.refl _ _
  refine Keeps.after (State.setReg_keeps ..) ?_
  refine Keeps.after (State.setPort_keeps ..) ?_
  exact Keeps.refl _ _

/-- What State.sendWidth may change. -/
theorem State.sendWidth_keeps (s : State) (p : Nat) (code : Nat) :
    Keeps [.outputs] s (State.sendWidth s p code) := by
  unfold State.sendWidth
  refine Keeps.after (State.sendControl_keeps ..) ?_
  exact Keeps.refl _ _

/-- What State.onWidth may change. -/
theorem State.onWidth_keeps (s : State) (p : Nat) (code : Nat) :
    Keeps [.regs, .fabric, .outputs] s (State.onWidth s p code) := by
  unfold State.onWidth
  dsimp only
  refine Keeps.ite (fun _ => ?_) (fun _ => ?_)
  exact Keeps.refl _ _
  split
  refine Keeps.after (State.narrowed_keeps ..) ?_
  refine Keeps.after (State.sendWidth_keeps ..) ?_
  exact Keeps.refl _ _
  refine Keeps.ite (fun _ => ?_) (fun _ => ?_)
  refine Keeps.after (State.narrowed_keeps ..) ?_
  exact Keeps.refl _ _
  exact Keeps.refl _ _
  refine Keeps.ite (fun _ => ?_) (fun _ => ?_)
  refine Keeps.after (State.setPort_keeps ..) ?_
  refine Keeps.after (State.sendWidth_keeps ..) ?_
  exact Keeps.refl _ _
  exact Keeps.refl _ _
  refine Keeps.ite (fun _ => ?_) (fun _ => ?_)
  refine Keeps.after (State.setPort_keeps ..) ?_
  exact Keeps.refl _ _
  exact Keeps.refl _ _
  exact Keeps.refl _ _

/-- What State.onChart may change. -/
theorem State.onChart_keeps (s : State) (p : Nat) (part : Nat) (state : Nat) (node : Nat) (systemId : Nat) (digest : List Byte)
      :
    Keeps [.mem, .writes, .regs, .eventSeq, .fabric, .pcie,
      .outputs] s (State.onChart s p part state node systemId digest) := by
  unfold State.onChart
  dsimp only
  refine Keeps.ite (fun _ => ?_) (fun _ => ?_)
  refine Keeps.after (State.chartCheck_keeps ..) ?_
  refine Keeps.after (State.setReg_keeps ..) ?_
  refine Keeps.after (State.setPort_keeps ..) ?_
  exact Keeps.refl _ _
  refine Keeps.ite (fun _ => ?_) (fun _ => ?_)
  refine Keeps.after (State.chartCheck_keeps ..) ?_
  refine Keeps.after (State.setPort_keeps ..) ?_
  exact Keeps.refl _ _
  exact Keeps.refl _ _

/-- What State.onControl may change. -/
theorem State.onControl_keeps (s : State) (p : Nat) (c : List Byte) :
    Keeps [.mem, .writes, .regs, .eventSeq, .fabric, .combining, .pcie, .binnacle,
      .outputs] s (State.onControl s p c) := by
  unfold State.onControl
  split
  refine Keeps.after (State.onAckCredit_keeps ..) ?_
  exact Keeps.refl _ _
  refine Keeps.after (State.onNak_keeps ..) ?_
  exact Keeps.refl _ _
  exact Keeps.refl _ _
  refine Keeps.after (State.onIdent_keeps ..) ?_
  exact Keeps.refl _ _
  refine Keeps.after (State.onWidth_keeps ..) ?_
  exact Keeps.refl _ _
  refine Keeps.after (State.onChart_keeps ..) ?_
  exact Keeps.refl _ _
  refine Keeps.after (State.bump_keeps ..) ?_
  exact Keeps.refl _ _

/-- What State.headerArrives may change. -/
theorem State.headerArrives_keeps (s : State) (p : Nat) (vc : Nat) (k : Packet) :
    Keeps [.regs, .fabric, .outputs] s (State.headerArrives s p vc k).1 := by
  unfold State.headerArrives
  dsimp only
  split
  dsimp only
  refine Keeps.after (State.freeFlits_keeps ..) ?_
  exact Keeps.refl _ _
  split
  dsimp only
  refine Keeps.after (State.respond_keeps ..) ?_
  refine Keeps.after (State.bump_keeps ..) ?_
  refine Keeps.after (State.freeFlits_keeps ..) ?_
  exact Keeps.refl _ _
  dsimp only
  refine Keeps.after (State.startTransit_keeps ..) ?_
  refine Keeps.after (State.bump_keeps ..) ?_
  exact Keeps.refl _ _
  split
  dsimp only
  exact Keeps.refl _ _
  dsimp only
  refine Keeps.after (State.respond_keeps ..) ?_
  refine Keeps.after (State.bump_keeps ..) ?_
  refine Keeps.after (State.freeFlits_keeps ..) ?_
  exact Keeps.refl _ _

/-- The same of a result that is named. -/
theorem State.headerArrives_keeps_eq {s : State} {p : Nat} {vc : Nat} {k : Packet} {t0 : State} {y : _}
    (h : State.headerArrives s p vc k = (t0, y)) : Keeps [.regs, .fabric, .outputs] s t0 := by
  have hk := State.headerArrives_keeps s p vc k
  rw [h] at hk
  exact hk

/-- What State.truncatePacket may change. -/
theorem State.truncatePacket_keeps (s : State) (p : Nat) (o : OpenPacket) :
    Keeps [.regs, .fabric, .outputs] s (State.truncatePacket s p o) := by
  unfold State.truncatePacket
  dsimp only
  split
  refine Keeps.after (State.respond_keeps ..) ?_
  refine Keeps.after (State.bump_keeps ..) ?_
  refine Keeps.after (State.freeFlits_keeps ..) ?_
  refine Keeps.after (State.dropOpen_keeps ..) ?_
  exact Keeps.refl _ _
  refine Keeps.after (State.respond_keeps ..) ?_
  refine Keeps.after (State.stopTransit_keeps ..) ?_
  refine Keeps.after (State.bump_keeps ..) ?_
  refine Keeps.after (State.freeFlits_keeps ..) ?_
  refine Keeps.after (State.dropOpen_keeps ..) ?_
  exact Keeps.refl _ _
  refine Keeps.after (State.bump_keeps ..) ?_
  refine Keeps.after (State.freeFlits_keeps ..) ?_
  refine Keeps.after (State.dropOpen_keeps ..) ?_
  exact Keeps.refl _ _

/-- What State.headerFlit may change. -/
theorem State.headerFlit_keeps (s : State) (p : Nat) (vc : Nat) (tag : Nat) (content : List Byte) :
    Keeps [.regs, .fabric, .outputs] s (State.headerFlit s p vc tag content) := by
  unfold State.headerFlit
  dsimp only
  refine Keeps.after (State.keepOpen_keeps ..) ?_
  refine Keeps.after (State.headerArrives_keeps ..) ?_
  split
  refine Keeps.after (State.truncatePacket_keeps ..) ?_
  exact Keeps.refl _ _
  exact Keeps.refl _ _

/-- What State.acceptFlit may change. -/
theorem State.acceptFlit_keeps (s : State) (p : Nat) (unitType : Nat) (flit : List Byte) :
    Keeps [.regs, .fabric, .outputs] s (State.acceptFlit s p unitType flit) := by
  unfold State.acceptFlit
  dsimp only
  refine Keeps.ite (fun _ => ?_) (fun _ => ?_)
  refine Keeps.after (State.sendAck_keeps ..) ?_
  refine Keeps.ite (fun _ => ?_) (fun _ => ?_)
  refine Keeps.after (State.headerFlit_keeps ..) ?_
  refine Keeps.after (State.bump_keeps ..) ?_
  refine Keeps.after (State.setPort_keeps ..) ?_
  exact Keeps.refl _ _
  refine Keeps.after (State.dataFlit_keeps ..) ?_
  refine Keeps.after (State.bump_keeps ..) ?_
  refine Keeps.after (State.setPort_keeps ..) ?_
  exact Keeps.refl _ _
  refine Keeps.ite (fun _ => ?_) (fun _ => ?_)
  refine Keeps.after (State.headerFlit_keeps ..) ?_
  refine Keeps.after (State.bump_keeps ..) ?_
  refine Keeps.after (State.setPort_keeps ..) ?_
  exact Keeps.refl _ _
  refine Keeps.after (State.dataFlit_keeps ..) ?_
  refine Keeps.after (State.bump_keeps ..) ?_
  refine Keeps.after (State.setPort_keeps ..) ?_
  exact Keeps.refl _ _

/-- What State.unitArrives may change. -/
theorem State.unitArrives_keeps (s : State) (p : Nat) (seq : Nat) (u : Nat) (fec : Nat) (value : Nat) :
    Keeps [.mem, .writes, .regs, .eventSeq, .fabric, .combining, .pcie, .binnacle,
      .outputs] s (State.unitArrives s p seq u fec value) := by
  unfold State.unitArrives
  dsimp only
  refine Keeps.ite (fun _ => ?_) (fun _ => ?_)
  refine Keeps.after (State.fecResult_keeps ..) ?_
  refine Keeps.after (State.heard_keeps ..) ?_
  exact Keeps.refl _ _
  refine Keeps.ite (fun _ => ?_) (fun _ => ?_)
  refine Keeps.ite (fun _ => ?_) (fun _ => ?_)
  refine Keeps.after (State.discardFlit_keeps ..) ?_
  refine Keeps.after (State.bump_keeps ..) ?_
  refine Keeps.after (State.fecResult_keeps ..) ?_
  refine Keeps.after (State.heard_keeps ..) ?_
  exact Keeps.refl _ _
  refine Keeps.after (State.bump_keeps ..) ?_
  refine Keeps.after (State.fecResult_keeps ..) ?_
  refine Keeps.after (State.heard_keeps ..) ?_
  exact Keeps.refl _ _
  refine Keeps.ite (fun _ => ?_) (fun _ => ?_)
  refine Keeps.after (State.onControl_keeps ..) ?_
  refine Keeps.after (State.fecResult_keeps ..) ?_
  refine Keeps.after (State.heard_keeps ..) ?_
  exact Keeps.refl _ _
  refine Keeps.ite (fun _ => ?_) (fun _ => ?_)
  refine Keeps.after (State.discardFlit_keeps ..) ?_
  refine Keeps.after (State.fecResult_keeps ..) ?_
  refine Keeps.after (State.heard_keeps ..) ?_
  exact Keeps.refl _ _
  refine Keeps.after (State.acceptFlit_keeps ..) ?_
  refine Keeps.after (State.fecResult_keeps ..) ?_
  refine Keeps.after (State.heard_keeps ..) ?_
  exact Keeps.refl _ _

/-- What State.onBreak may change. -/
theorem State.onBreak_keeps (s : State) (p : Nat) (k : Packet) :
    Keeps [.mem, .writes, .regs, .eventSeq, .fabric, .pcie, .outputs] s (State.onBreak s p k) := by
  unfold State.onBreak
  dsimp only
  split
  refine Keeps.after (State.sendNotice_keeps ..) ?_
  exact Keeps.refl _ _
  refine Keeps.ite (fun _ => ?_) (fun _ => ?_)
  exact Keeps.refl _ _
  refine Keeps.ite (fun _ => ?_) (fun _ => ?_)
  refine Keeps.after (State.breakChanged_keeps ..) ?_
  refine Keeps.after (State.setReg_keeps ..) ?_
  exact Keeps.refl _ _
  refine Keeps.after (State.sendNotice_keeps ..) ?_
  refine Keeps.after (State.breakChanged_keeps ..) ?_
  refine Keeps.after (State.setReg_keeps ..) ?_
  exact Keeps.refl _ _

/-- What State.takeIn may change. -/
theorem State.takeIn_keeps (s : State) (k : Packet) :
    Keeps [.fabric] s (State.takeIn s k) := by
  unfold State.takeIn
  dsimp only
  split
  refine Keeps.after (State.freeArrival_keeps ..) ?_
  refine Keeps.made_fabric ?_
  exact Keeps.refl _ _
  exact Keeps.refl _ _

/-- What State.startTraining may change. -/
theorem State.startTraining_keeps (s : State) (p : Nat) :
    Keeps [.mem, .writes, .regs, .eventSeq, .fabric, .combining, .pcie, .outputs] s (State.startTraining s p) := by
  unfold State.startTraining
  refine Keeps.after (State.setLink_keeps ..) ?_
  refine Keeps.after (State.bump_keeps ..) ?_
  refine Keeps.after (State.setReg_keeps ..) ?_
  refine Keeps.after (State.clearPort_keeps ..) ?_
  exact Keeps.refl _ _

/-- What State.chartChanged may change. -/
theorem State.chartChanged_keeps (s : State) :
    Keeps [.mem, .writes, .regs, .eventSeq, .fabric, .pcie, .outputs] s (State.chartChanged s) := by
  unfold State.chartChanged
  refine Keeps.foldl (fun _ _ => ?_) ?_
  refine Keeps.ite (fun _ => ?_) (fun _ => ?_)
  refine Keeps.after (State.chartCheck_keeps ..) ?_
  refine Keeps.after (State.sendChart_keeps ..) ?_
  exact Keeps.refl _ _
  exact Keeps.refl _ _
  exact Keeps.refl _ _

/-- What State.portEnable may change. -/
theorem State.portEnable_keeps (s : State) (port : Nat) (enable : Bool) :
    Keeps [.mem, .writes, .regs, .eventSeq, .fabric, .combining, .pcie,
      .outputs] s (State.portEnable s port enable) := by
  unfold State.portEnable
  dsimp only
  refine Keeps.ite (fun _ => ?_) (fun _ => ?_)
  refine Keeps.ite (fun _ => ?_) (fun _ => ?_)
  refine Keeps.after (State.setLink_keeps ..) ?_
  refine Keeps.after (State.setReg_keeps ..) ?_
  exact Keeps.refl _ _
  refine Keeps.after (State.setReg_keeps ..) ?_
  exact Keeps.refl _ _
  refine Keeps.after (State.setLink_keeps ..) ?_
  refine Keeps.after (State.clearPort_keeps ..) ?_
  refine Keeps.after (State.setReg_keeps ..) ?_
  exact Keeps.refl _ _

/-- What State.killTask may change. -/
theorem State.killTask_keeps (s : State) (t : Task) :
    Keeps [.free, .mem, .writes, .regs, .rings, .tasks, .signals, .fabric, .pcie,
      .outputs] s (State.killTask s t) := by
  unfold State.killTask
  split
  exact Keeps.refl _ _
  exact Keeps.refl _ _
  refine Keeps.after (State.complete_keeps ..) ?_
  refine Keeps.after (State.cutOff_keeps ..) ?_
  exact Keeps.refl _ _

/-- What State.forceDrain may change. -/
theorem State.forceDrain_keeps (s : State) :
    Keeps [.free, .mem, .writes, .regs, .rings, .tasks, .signals, .fabric, .pcie,
      .outputs] s (State.forceDrain s) := by
  unfold State.forceDrain
  dsimp only
  refine Keeps.foldl (fun _ _ => ?_) ?_
  refine Keeps.after (State.killTask_keeps ..) ?_
  exact Keeps.refl _ _
  refine Keeps.made_rings ?_
  exact Keeps.refl _ _

/-- What State.setChart may change. -/
theorem State.setChart_keeps (s : State) (state : Nat) :
    Keeps [.mem, .writes, .regs, .eventSeq, .fabric, .pcie, .outputs] s (State.setChart s state) := by
  unfold State.setChart
  refine Keeps.after (State.chartChanged_keeps ..) ?_
  refine Keeps.after (State.setReg_keeps ..) ?_
  exact Keeps.refl _ _

/-- What State.unload may change. -/
theorem State.unload_keeps (s : State) :
    Keeps [.free, .mem, .writes, .regs, .eventSeq, .unloadWaiting, .rings, .tasks, .signals, .fabric, .pcie,
      .outputs] s (State.unload s) := by
  unfold State.unload
  dsimp only
  refine Keeps.ite (fun _ => ?_) (fun _ => ?_)
  refine Keeps.after (State.setReg_keeps ..) ?_
  refine Keeps.made_unloadWaiting ?_
  exact Keeps.refl _ _
  refine Keeps.ite (fun _ => ?_) (fun _ => ?_)
  refine Keeps.ite (fun _ => ?_) (fun _ => ?_)
  refine Keeps.after (State.forceDrain_keeps ..) ?_
  refine Keeps.after (State.setChart_keeps ..) ?_
  refine Keeps.after (State.setReg_keeps ..) ?_
  exact Keeps.refl _ _
  refine Keeps.after (State.setChart_keeps ..) ?_
  refine Keeps.after (State.setReg_keeps ..) ?_
  exact Keeps.refl _ _
  refine Keeps.ite (fun _ => ?_) (fun _ => ?_)
  refine Keeps.after (State.post_keeps ..) ?_
  refine Keeps.after (State.setReg_keeps ..) ?_
  exact Keeps.refl _ _
  exact Keeps.refl _ _

/-- What State.loadResult may change. -/
theorem State.loadResult_keeps (s : State) (status : Nat) (reason : Nat) (off : Nat) :
    Keeps [.regs] s (State.loadResult s status reason off) := by
  unfold State.loadResult
  refine Keeps.after (State.setRegs_keeps ..) ?_
  exact Keeps.refl _ _

/-- What State.rejectLoad may change. -/
theorem State.rejectLoad_keeps (s : State) :
    Keeps [.mem, .writes, .regs, .eventSeq, .pcie, .outputs] s (State.rejectLoad s) := by
  unfold State.rejectLoad
  refine Keeps.after (State.post_keeps ..) ?_
  refine Keeps.after (State.loadResult_keeps ..) ?_
  exact Keeps.refl _ _

/-- What State.startLoad may change. -/
theorem State.startLoad_keeps (s : State) :
    Keeps [.mem, .writes, .regs, .eventSeq, .load, .fabric, .pcie, .outputs] s (State.startLoad s) := by
  unfold State.startLoad
  dsimp only
  refine Keeps.after (State.setChart_keeps ..) ?_
  refine Keeps.after (State.setReg_keeps ..) ?_
  refine Keeps.made_load ?_
  exact Keeps.refl _ _

/-- What State.loadWrite may change. -/
theorem State.loadWrite_keeps (s : State) (withUnload : Bool) :
    Keeps [.free, .mem, .writes, .regs, .eventSeq, .load, .unloadWaiting, .rings, .tasks, .signals, .fabric, .pcie,
      .outputs] s (State.loadWrite s withUnload) := by
  unfold State.loadWrite
  refine Keeps.ite (fun _ => ?_) (fun _ => ?_)
  refine Keeps.ite (fun _ => ?_) (fun _ => ?_)
  refine Keeps.after (State.unload_keeps ..) ?_
  exact Keeps.refl _ _
  exact Keeps.refl _ _
  refine Keeps.ite (fun _ => ?_) (fun _ => ?_)
  refine Keeps.after (State.rejectLoad_keeps ..) ?_
  refine Keeps.after (State.unload_keeps ..) ?_
  exact Keeps.refl _ _
  refine Keeps.ite (fun _ => ?_) (fun _ => ?_)
  refine Keeps.after (State.rejectLoad_keeps ..) ?_
  exact Keeps.refl _ _
  refine Keeps.after (State.startLoad_keeps ..) ?_
  exact Keeps.refl _ _

/-- What State.force may change. -/
theorem State.force_keeps (s : State) :
    Keeps [.free, .mem, .writes, .regs, .rings, .tasks, .signals, .fabric, .pcie, .outputs] s (State.force s) := by
  unfold State.force
  dsimp only
  refine Keeps.ite (fun _ => ?_) (fun _ => ?_)
  refine Keeps.after (State.forceDrain_keeps ..) ?_
  refine Keeps.after (State.setReg_keeps ..) ?_
  exact Keeps.refl _ _
  refine Keeps.after (State.setReg_keeps ..) ?_
  exact Keeps.refl _ _

/-- What State.linksLose may change. -/
theorem State.linksLose_keeps (s : State) :
    Keeps [.mem, .writes, .regs, .eventSeq, .fabric, .pcie, .outputs] s (State.linksLose s) := by
  unfold State.linksLose
  refine Keeps.foldl (fun _ _ => ?_) ?_
  refine Keeps.ite (fun _ => ?_) (fun _ => ?_)
  refine Keeps.after (State.setLink_keeps ..) ?_
  exact Keeps.refl _ _
  exact Keeps.refl _ _
  exact Keeps.refl _ _

/-- What State.dropHeld may change. -/
theorem State.dropHeld_keeps (s : State) (sel : Nat → Bool) (status : Nat) :
    Keeps [.regs, .fabric, .outputs] s (State.dropHeld s sel status) := by
  unfold State.dropHeld
  dsimp only
  refine Keeps.foldl (fun _ _ => ?_) ?_
  refine Keeps.after (State.respond_keeps ..) ?_
  refine Keeps.after (State.freeArrival_keeps ..) ?_
  exact Keeps.refl _ _
  refine Keeps.made_fabric ?_
  exact Keeps.refl _ _

/-- What State.dropCombining may change. -/
theorem State.dropCombining_keeps (s : State) (sel : Nat → Bool) :
    Keeps [.fabric, .combining] s (State.dropCombining s sel) := by
  unfold State.dropCombining
  dsimp only
  refine Keeps.foldl (fun _ _ => ?_) ?_
  refine Keeps.after (State.freeArrival_keeps ..) ?_
  exact Keeps.refl _ _
  refine Keeps.made_combining ?_
  exact Keeps.refl _ _

/-- What State.dropUnits may change. -/
theorem State.dropUnits_keeps (s : State) (sel : Nat → Bool) (status : Nat) :
    Keeps [.regs, .signals, .streams, .memQueue, .tables, .fabric, .reductions, .combining,
      .outputs] s (State.dropUnits s sel status) := by
  unfold State.dropUnits
  dsimp only
  refine Keeps.made_signals_tables_reductions ?_
  refine Keeps.after (State.dropHeld_keeps ..) ?_
  refine Keeps.after (State.dropCombining_keeps ..) ?_
  refine Keeps.after (State.closeStreams_keeps ..) ?_
  exact Keeps.refl _ _

/-- What State.dropChart may change. -/
theorem State.dropChart_keeps (s : State) :
    Keeps [.mem, .writes, .regs, .eventSeq, .chart, .zeroing, .rings, .tasks, .signals, .jobs, .streams, .memQueue,
      .tables, .fabric, .reductions, .combining, .pcie, .outputs] s (State.dropChart s) := by
  unfold State.dropChart
  dsimp only
  refine Keeps.after (State.breakChanged_keeps ..) ?_
  refine Keeps.after (State.setRegs_keeps ..) ?_
  refine Keeps.made_chart_zeroing_rings_tasks_jobs_tables ?_
  refine Keeps.after (State.dropUnits_keeps ..) ?_
  refine Keeps.after (State.linksLose_keeps ..) ?_
  exact Keeps.refl _ _

/-- What State.zeroStores may change. -/
theorem State.zeroStores_keeps (s : State) :
    Keeps [.mem, .writes] s (State.zeroStores s) := by
  unfold State.zeroStores
  dsimp only
  refine Keeps.after (State.memOps_keeps ..) ?_
  exact Keeps.refl _ _

/-- What State.unloadDone may change. -/
theorem State.unloadDone_keeps (s : State) :
    Keeps [.mem, .writes, .regs, .eventSeq, .chart, .zeroing, .rings, .tasks, .signals, .jobs, .streams, .memQueue,
      .tables, .fabric, .reductions, .combining, .pcie, .outputs] s (State.unloadDone s) := by
  unfold State.unloadDone
  refine Keeps.ite (fun _ => ?_) (fun _ => ?_)
  refine Keeps.after (State.post_keeps ..) ?_
  refine Keeps.after (State.setChart_keeps ..) ?_
  refine Keeps.after (State.setReg_keeps ..) ?_
  refine Keeps.after (State.dropChart_keeps ..) ?_
  refine Keeps.after (State.zeroStores_keeps ..) ?_
  exact Keeps.refl _ _
  exact Keeps.refl _ _

/-- What State.unloadDrained may change. -/
theorem State.unloadDrained_keeps (s : State) :
    Keeps [.mem, .writes, .zeroing] s (State.unloadDrained s) := by
  unfold State.unloadDrained
  refine Keeps.ite (fun _ => ?_) (fun _ => ?_)
  refine Keeps.after (State.zeroStores_keeps ..) ?_
  refine Keeps.made_zeroing ?_
  exact Keeps.refl _ _
  exact Keeps.refl _ _

/-- What State.install may change. -/
theorem State.install_keeps (s : State) (c : Chart) :
    Keeps [.free, .mem, .writes, .regs, .eventSeq, .chart, .jobs, .fabric, .power, .pcie,
      .outputs] s (State.install s c) := by
  unfold State.install
  dsimp only
  refine Keeps.after (State.breakChanged_keeps ..) ?_
  refine Keeps.after (State.extendMeasure_keeps ..) ?_
  refine Keeps.after (State.setRegs_keeps ..) ?_
  refine Keeps.made_free_chart_jobs_fabric_power ?_
  refine Keeps.after (State.memOps_keeps ..) ?_
  exact Keeps.refl _ _

/-- What State.loadEnds may change. -/
theorem State.loadEnds_keeps (s : State) (r : Except Failure Chart) :
    Keeps [.free, .mem, .writes, .regs, .eventSeq, .chart, .load, .jobs, .fabric, .power, .pcie,
      .outputs] s (State.loadEnds s r) := by
  unfold State.loadEnds
  dsimp only
  split
  refine Keeps.after (State.post_keeps ..) ?_
  refine Keeps.after (State.setChart_keeps ..) ?_
  refine Keeps.after (State.loadResult_keeps ..) ?_
  refine Keeps.after (State.install_keeps ..) ?_
  refine Keeps.after (State.setReg_keeps ..) ?_
  refine Keeps.made_load ?_
  exact Keeps.refl _ _
  refine Keeps.after (State.post_keeps ..) ?_
  refine Keeps.after (State.setChart_keeps ..) ?_
  refine Keeps.after (State.loadResult_keeps ..) ?_
  refine Keeps.after (State.setReg_keeps ..) ?_
  refine Keeps.made_load ?_
  exact Keeps.refl _ _

/-- What State.loadChecksEnd may change. -/
theorem State.loadChecksEnd_keeps (s : State) :
    Keeps [.free, .mem, .writes, .regs, .eventSeq, .chart, .load, .unloadWaiting, .rings, .tasks, .signals, .jobs,
      .fabric, .power, .pcie, .outputs] s (State.loadChecksEnd s) := by
  unfold State.loadChecksEnd
  dsimp only
  split
  exact Keeps.refl _ _
  refine Keeps.ite (fun _ => ?_) (fun _ => ?_)
  refine Keeps.after (State.unload_keeps ..) ?_
  refine Keeps.made_unloadWaiting ?_
  refine Keeps.after (State.loadEnds_keeps ..) ?_
  exact Keeps.refl _ _
  refine Keeps.after (State.loadEnds_keeps ..) ?_
  exact Keeps.refl _ _

/-- What State.rebudget may change. -/
theorem State.rebudget_keeps (s : State) :
    Keeps [.mem, .writes, .regs, .eventSeq, .power, .pcie, .outputs] s (State.rebudget s) := by
  unfold State.rebudget
  dsimp only
  refine Keeps.ite (fun _ => ?_) (fun _ => ?_)
  refine Keeps.after (State.post_keeps ..) ?_
  refine Keeps.made_power ?_
  refine Keeps.after (State.setRegs_keeps ..) ?_
  exact Keeps.refl _ _
  refine Keeps.ite (fun _ => ?_) (fun _ => ?_)
  refine Keeps.after (State.setReg_keeps ..) ?_
  refine Keeps.made_power ?_
  refine Keeps.after (State.setRegs_keeps ..) ?_
  exact Keeps.refl _ _
  refine Keeps.made_power ?_
  refine Keeps.after (State.setRegs_keeps ..) ?_
  exact Keeps.refl _ _

/-- What State.rthUpdate may change. -/
theorem State.rthUpdate_keeps (s : State) (tjMax : Nat) (tIn : Nat) (pIn : Nat) :
    Keeps [.mem, .writes, .regs, .eventSeq, .power, .pcie, .binnacle,
      .outputs] s (State.rthUpdate s tjMax tIn pIn) := by
  unfold State.rthUpdate
  dsimp only
  refine Keeps.after (State.rebudget_keeps ..) ?_
  refine Keeps.after (State.setRegs_keeps ..) ?_
  refine Keeps.made_power_binnacle ?_
  exact Keeps.refl _ _

/-- What State.inputLow may change. -/
theorem State.inputLow_keeps (s : State) (vin : Nat) :
    Keeps [.mem, .writes, .regs, .eventSeq, .power, .pcie, .outputs] s (State.inputLow s vin) := by
  unfold State.inputLow
  dsimp only
  refine Keeps.ite (fun _ => ?_) (fun _ => ?_)
  refine Keeps.after (State.post_keeps ..) ?_
  refine Keeps.after (State.rebudget_keeps ..) ?_
  refine Keeps.after (State.setReg_keeps ..) ?_
  refine Keeps.made_power ?_
  exact Keeps.refl _ _
  refine Keeps.after (State.rebudget_keeps ..) ?_
  refine Keeps.after (State.setReg_keeps ..) ?_
  refine Keeps.made_power ?_
  exact Keeps.refl _ _

/-- What State.prefRevise may change. -/
theorem State.prefRevise_keeps (s : State) (phase : Nat) (wait : Nat) (busy : Nat) (atPref : Bool) :
    Keeps [.regs] s (State.prefRevise s phase wait busy atPref) := by
  unfold State.prefRevise
  dsimp only
  refine Keeps.ite (fun _ => ?_) (fun _ => ?_)
  refine Keeps.ite (fun _ => ?_) (fun _ => ?_)
  refine Keeps.after (State.setReg_keeps ..) ?_
  exact Keeps.refl _ _
  refine Keeps.ite (fun _ => ?_) (fun _ => ?_)
  refine Keeps.after (State.setReg_keeps ..) ?_
  exact Keeps.refl _ _
  exact Keeps.refl _ _
  exact Keeps.refl _ _

/-- What State.capWrite may change. -/
theorem State.capWrite_keeps (s : State) (value : Nat) :
    Keeps [.mem, .writes, .regs, .eventSeq, .power, .pcie, .outputs] s (State.capWrite s value) := by
  unfold State.capWrite
  dsimp only
  refine Keeps.ite (fun _ => ?_) (fun _ => ?_)
  refine Keeps.after (State.rebudget_keeps ..) ?_
  refine Keeps.after (State.setReg_keeps ..) ?_
  exact Keeps.refl _ _
  exact Keeps.refl _ _

/-- What State.showGate may change. -/
theorem State.showGate_keeps (s : State) (d : Nat) :
    Keeps [.regs] s (State.showGate s d) := by
  unfold State.showGate
  refine Keeps.ite (fun _ => ?_) (fun _ => ?_)
  refine Keeps.after (State.setReg_keeps ..) ?_
  exact Keeps.refl _ _
  exact Keeps.refl _ _

/-- What State.setDiePower may change. -/
theorem State.setDiePower_keeps (s : State) (d : Nat) (x : DiePower) :
    Keeps [.power] s (State.setDiePower s d x) := by
  unfold State.setDiePower
  dsimp only
  refine Keeps.made_power ?_
  exact Keeps.refl _ _

/-- What State.applyDie may change. -/
theorem State.applyDie_keeps (s : State) (d : Nat) (entry : Nat) (mult : Nat) (gate : Nat) :
    Keeps [.regs, .power] s (State.applyDie s d entry mult gate) := by
  unfold State.applyDie
  dsimp only
  refine Keeps.after (State.showGate_keeps ..) ?_
  refine Keeps.after (State.setDiePower_keeps ..) ?_
  exact Keeps.refl _ _

/-- What State.keepFixed may change. -/
theorem State.keepFixed_keeps (s : State) :
    Keeps [.power] s (State.keepFixed s) := by
  unfold State.keepFixed
  dsimp only
  refine Keeps.made_power ?_
  exact Keeps.refl _ _

/-- What State.yieldFixed may change. -/
theorem State.yieldFixed_keeps (s : State) :
    Keeps [.mem, .writes, .regs, .eventSeq, .power, .pcie, .outputs] s (State.yieldFixed s) := by
  unfold State.yieldFixed
  dsimp only
  refine Keeps.ite (fun _ => ?_) (fun _ => ?_)
  refine Keeps.after (State.setReg_keeps ..) ?_
  exact Keeps.refl _ _
  refine Keeps.after (State.post_keeps ..) ?_
  refine Keeps.made_power ?_
  refine Keeps.after (State.setReg_keeps ..) ?_
  exact Keeps.refl _ _

/-- What State.setUnreachable may change. -/
theorem State.setUnreachable_keeps (s : State) (u : Bool) :
    Keeps [.mem, .writes, .regs, .eventSeq, .pcie, .outputs] s (State.setUnreachable s u) := by
  unfold State.setUnreachable
  refine Keeps.ite (fun _ => ?_) (fun _ => ?_)
  refine Keeps.after (State.post_keeps ..) ?_
  refine Keeps.after (State.setReg_keeps ..) ?_
  exact Keeps.refl _ _
  refine Keeps.after (State.setReg_keeps ..) ?_
  exact Keeps.refl _ _

/-- What State.applyLoop may change. -/
theorem State.applyLoop_keeps (s : State) (phases : List Nat) (m : PilotMeasure) (avail : ℚ) (start : List Nat) :
    Keeps [.mem, .writes, .regs, .eventSeq, .power, .pcie, .outputs] s (State.applyLoop s phases m avail start) := by
  unfold State.applyLoop
  dsimp only
  refine Keeps.after (State.setUnreachable_keeps ..) ?_
  refine Keeps.foldl (fun _ _ => ?_) ?_
  refine Keeps.after (State.applyDie_keeps ..) ?_
  exact Keeps.refl _ _
  exact Keeps.refl _ _

/-- What State.applyPilot may change. -/
theorem State.applyPilot_keeps (s : State) (phases : List Nat) (m : PilotMeasure) :
    Keeps [.mem, .writes, .regs, .eventSeq, .power, .pcie, .outputs] s (State.applyPilot s phases m) := by
  unfold State.applyPilot
  dsimp only
  refine Keeps.ite (fun _ => ?_) (fun _ => ?_)
  split
  refine Keeps.after (State.setRegs_keeps ..) ?_
  refine Keeps.foldl (fun _ _ => ?_) ?_
  refine Keeps.after (State.applyDie_keeps ..) ?_
  exact Keeps.refl _ _
  refine Keeps.after (State.keepFixed_keeps ..) ?_
  exact Keeps.refl _ _
  refine Keeps.after (State.yieldFixed_keeps ..) ?_
  refine Keeps.after (State.applyLoop_keeps ..) ?_
  exact Keeps.refl _ _
  refine Keeps.after (State.applyLoop_keeps ..) ?_
  refine Keeps.after (State.setReg_keeps ..) ?_
  refine Keeps.after (State.keepFixed_keeps ..) ?_
  exact Keeps.refl _ _

/-- What State.learnPhases may change. -/
theorem State.learnPhases_keeps (s : State) (phases : List Nat) (m : PilotMeasure) :
    Keeps [.power] s (State.learnPhases s phases m) := by
  unfold State.learnPhases
  dsimp only
  refine Keeps.made_power ?_
  exact Keeps.refl _ _

/-- What State.checkFmax may change. -/
theorem State.checkFmax_keeps (s : State) (d : Nat) :
    Keeps [.mem, .writes, .regs, .eventSeq, .power, .pcie, .outputs] s (State.checkFmax s d) := by
  unfold State.checkFmax
  dsimp only
  refine Keeps.ite (fun _ => ?_) (fun _ => ?_)
  refine Keeps.after (State.post_keeps ..) ?_
  refine Keeps.after (State.setDiePower_keeps ..) ?_
  exact Keeps.refl _ _
  exact Keeps.refl _ _

/-- What State.countRailLimit may change. -/
theorem State.countRailLimit_keeps (s : State) :
    Keeps [.regs, .power] s (State.countRailLimit s) := by
  unfold State.countRailLimit
  dsimp only
  refine Keeps.ite (fun _ => ?_) (fun _ => ?_)
  refine Keeps.after (State.bump_keeps ..) ?_
  refine Keeps.made_power ?_
  exact Keeps.refl _ _
  exact Keeps.refl _ _

/-- What State.droopHoldEnd may change. -/
theorem State.droopHoldEnd_keeps (s : State) (d : Nat) :
    Keeps [.power] s (State.droopHoldEnd s d) := by
  unfold State.droopHoldEnd
  dsimp only
  refine Keeps.ite (fun _ => ?_) (fun _ => ?_)
  refine Keeps.after (State.setDiePower_keeps ..) ?_
  exact Keeps.refl _ _
  exact Keeps.refl _ _

/-- What State.junctionThrottle may change. -/
theorem State.junctionThrottle_keeps (s : State) (d : Nat) (tj : Nat) :
    Keeps [.regs, .power] s (State.junctionThrottle s d tj) := by
  unfold State.junctionThrottle
  dsimp only
  refine Keeps.ite (fun _ => ?_) (fun _ => ?_)
  refine Keeps.after (State.setReg_keeps ..) ?_
  exact Keeps.refl _ _
  refine Keeps.ite (fun _ => ?_) (fun _ => ?_)
  refine Keeps.after (State.setDiePower_keeps ..) ?_
  refine Keeps.after (State.setReg_keeps ..) ?_
  exact Keeps.refl _ _
  refine Keeps.after (State.setDiePower_keeps ..) ?_
  refine Keeps.after (State.setReg_keeps ..) ?_
  exact Keeps.refl _ _

/-- What State.wakeWrite may change. -/
theorem State.wakeWrite_keeps (s : State) :
    Keeps [.mem, .writes, .regs, .eventSeq, .fabric, .power, .pcie, .outputs] s (State.wakeWrite s) := by
  unfold State.wakeWrite
  dsimp only
  refine Keeps.ite (fun _ => ?_) (fun _ => ?_)
  refine Keeps.after (State.setReg_keeps ..) ?_
  refine Keeps.after (State.wakeTrigger_keeps ..) ?_
  exact Keeps.refl _ _
  refine Keeps.after (State.wakeTrigger_keeps ..) ?_
  exact Keeps.refl _ _

/-- What State.reportInterval may change. -/
theorem State.reportInterval_keeps (s : State) (phases : List Nat) (m : PilotMeasure) :
    Keeps [.regs] s (State.reportInterval s phases m) := by
  unfold State.reportInterval
  refine Keeps.after (State.setRegs_keeps ..) ?_
  exact Keeps.refl _ _

/-- What State.railLimit may change. -/
theorem State.railLimit_keeps (s : State) (r : RailReport) (gate : Nat) :
    Keeps [.regs, .power] s (State.railLimit s r gate) := by
  unfold State.railLimit
  dsimp only
  split
  exact Keeps.refl _ _
  refine Keeps.after (State.showGate_keeps ..) ?_
  refine Keeps.ite (fun _ => ?_) (fun _ => ?_)
  refine Keeps.after (State.bump_keeps ..) ?_
  refine Keeps.made_power ?_
  exact Keeps.refl _ _
  refine Keeps.made_power ?_
  exact Keeps.refl _ _

/-- What State.multSlewStep may change. -/
theorem State.multSlewStep_keeps (s : State) (d : Nat) :
    Keeps [.regs] s (State.multSlewStep s d) := by
  unfold State.multSlewStep
  dsimp only
  refine Keeps.ite (fun _ => ?_) (fun _ => ?_)
  exact Keeps.refl _ _
  refine Keeps.ite (fun _ => ?_) (fun _ => ?_)
  refine Keeps.after (State.setRegs_keeps ..) ?_
  exact Keeps.refl _ _
  refine Keeps.ite (fun _ => ?_) (fun _ => ?_)
  refine Keeps.ite (fun _ => ?_) (fun _ => ?_)
  refine Keeps.after (State.setReg_keeps ..) ?_
  refine Keeps.after (State.setReg_keeps ..) ?_
  exact Keeps.refl _ _
  refine Keeps.after (State.setReg_keeps ..) ?_
  exact Keeps.refl _ _
  exact Keeps.refl _ _

/-- What State.askNarrow may change. -/
theorem State.askNarrow_keeps (s : State) (p : Nat) :
    Keeps [.fabric, .outputs] s (State.askNarrow s p) := by
  unfold State.askNarrow
  dsimp only
  refine Keeps.ite (fun _ => ?_) (fun _ => ?_)
  refine Keeps.after (State.sendWidth_keeps ..) ?_
  refine Keeps.after (State.setPort_keeps ..) ?_
  exact Keeps.refl _ _
  exact Keeps.refl _ _

/-- What State.anchorWrite may change. -/
theorem State.anchorWrite_keeps (s : State) :
    Keeps [.mem, .writes, .regs, .eventSeq, .fabric, .power, .pcie, .outputs] s (State.anchorWrite s) := by
  unfold State.anchorWrite
  dsimp only
  refine Keeps.ite (fun _ => ?_) (fun _ => ?_)
  exact Keeps.refl _ _
  refine Keeps.ite (fun _ => ?_) (fun _ => ?_)
  refine Keeps.foldl (fun _ _ => ?_) ?_
  refine Keeps.after (State.askNarrow_keeps ..) ?_
  exact Keeps.refl _ _
  refine Keeps.after (State.setReg_keeps ..) ?_
  refine Keeps.made_power ?_
  exact Keeps.refl _ _
  refine Keeps.after (State.post_keeps ..) ?_
  refine Keeps.after (State.setReg_keeps ..) ?_
  exact Keeps.refl _ _

/-- What State.shareEnergy may change. -/
theorem State.shareEnergy_keeps (s : State) (uj : Nat) (weights : List (Nat × Nat)) :
    Keeps [.jobs, .power] s (State.shareEnergy s uj weights) := by
  unfold State.shareEnergy
  dsimp only
  refine Keeps.made_jobs_power ?_
  exact Keeps.refl _ _

/-- What State.accountEnergy may change. -/
theorem State.accountEnergy_keeps (s : State) (m : PilotMeasure) :
    Keeps [.jobs, .power] s (State.accountEnergy s m) := by
  unfold State.accountEnergy
  dsimp only
  refine Keeps.after (State.shareEnergy_keeps ..) ?_
  refine Keeps.after (State.shareEnergy_keeps ..) ?_
  refine Keeps.after (State.shareEnergy_keeps ..) ?_
  refine Keeps.foldl (fun _ _ => ?_) ?_
  refine Keeps.after (State.shareEnergy_keeps ..) ?_
  exact Keeps.refl _ _
  exact Keeps.refl _ _

/-- What State.reportPhases may change. -/
theorem State.reportPhases_keeps (s : State) (phases : List Nat) (m : PilotMeasure) :
    Keeps [.regs] s (State.reportPhases s phases m) := by
  unfold State.reportPhases
  refine Keeps.foldl (fun _ _ => ?_) ?_
  refine Keeps.after (State.setReg_keeps ..) ?_
  exact Keeps.refl _ _
  exact Keeps.refl _ _

/-- What State.pilotInterval may change. -/
theorem State.pilotInterval_keeps (s : State) (m : PilotMeasure) :
    Keeps [.mem, .writes, .regs, .eventSeq, .jobs, .power, .pcie, .outputs] s (State.pilotInterval s m) := by
  unfold State.pilotInterval
  dsimp only
  refine Keeps.ite (fun _ => ?_) (fun _ => ?_)
  refine Keeps.after (State.accountEnergy_keeps ..) ?_
  refine Keeps.after (State.rebudget_keeps ..) ?_
  refine Keeps.after (State.setRegs_keeps ..) ?_
  refine Keeps.after (State.countRailLimit_keeps ..) ?_
  refine Keeps.made_power ?_
  exact Keeps.refl _ _
  refine Keeps.after (State.accountEnergy_keeps ..) ?_
  refine Keeps.ite (fun _ => ?_) (fun _ => ?_)
  refine Keeps.after (State.bump_keeps ..) ?_
  refine Keeps.after (State.reportPhases_keeps ..) ?_
  refine Keeps.after (State.applyPilot_keeps ..) ?_
  refine Keeps.after (State.rebudget_keeps ..) ?_
  refine Keeps.after (State.reportInterval_keeps ..) ?_
  refine Keeps.after (State.learnPhases_keeps ..) ?_
  refine Keeps.after (State.countRailLimit_keeps ..) ?_
  refine Keeps.made_power ?_
  exact Keeps.refl _ _
  refine Keeps.after (State.reportPhases_keeps ..) ?_
  refine Keeps.after (State.applyPilot_keeps ..) ?_
  refine Keeps.after (State.rebudget_keeps ..) ?_
  refine Keeps.after (State.reportInterval_keeps ..) ?_
  refine Keeps.after (State.learnPhases_keeps ..) ?_
  refine Keeps.after (State.countRailLimit_keeps ..) ?_
  refine Keeps.made_power ?_
  exact Keeps.refl _ _

/-- What State.ageingMeasure may change. -/
theorem State.ageingMeasure_keeps (s : State) (driftPpm : List Nat) :
    Keeps [.mem, .writes, .regs, .eventSeq, .power, .pcie, .outputs] s (State.ageingMeasure s driftPpm) := by
  unfold State.ageingMeasure
  dsimp only
  refine Keeps.foldl (fun _ _ => ?_) ?_
  refine Keeps.after (State.checkFmax_keeps ..) ?_
  exact Keeps.refl _ _
  refine Keeps.made_power ?_
  exact Keeps.refl _ _

/-- What State.wakeComplete may change. -/
theorem State.wakeComplete_keeps (s : State) :
    Keeps [.mem, .writes, .regs, .eventSeq, .rings, .power, .pcie, .outputs] s (State.wakeComplete s) := by
  unfold State.wakeComplete
  dsimp only
  refine Keeps.ite (fun _ => ?_) (fun _ => ?_)
  refine Keeps.after (State.post_keeps ..) ?_
  refine Keeps.foldl (fun _ _ => ?_) ?_
  refine Keeps.after (State.doorbell_keeps ..) ?_
  exact Keeps.refl _ _
  refine Keeps.after (State.setRegs_keeps ..) ?_
  refine Keeps.after (State.memOps_keeps ..) ?_
  refine Keeps.made_power ?_
  exact Keeps.refl _ _
  exact Keeps.refl _ _

/-- What State.oppWrite may change. -/
theorem State.oppWrite_keeps (s : State) (e : Nat) (value : Nat) :
    Keeps [.regs] s (State.oppWrite s e value) := by
  unfold State.oppWrite
  dsimp only
  refine Keeps.ite (fun _ => ?_) (fun _ => ?_)
  refine Keeps.ite (fun _ => ?_) (fun _ => ?_)
  refine Keeps.after (State.setReg_keeps ..) ?_
  exact Keeps.refl _ _
  exact Keeps.refl _ _
  exact Keeps.refl _ _

/-- What State.ageingStore may change. -/
theorem State.ageingStore_keeps (s : State) :
    Keeps [.binnacle] s (State.ageingStore s) := by
  unfold State.ageingStore
  dsimp only
  refine Keeps.made_binnacle ?_
  exact Keeps.refl _ _

/-- What State.droopPersist may change. -/
theorem State.droopPersist_keeps (s : State) (d : Nat) :
    Keeps [.power] s (State.droopPersist s d) := by
  unfold State.droopPersist
  dsimp only
  refine Keeps.ite (fun _ => ?_) (fun _ => ?_)
  exact Keeps.refl _ _
  refine Keeps.after (State.setDiePower_keeps ..) ?_
  exact Keeps.refl _ _

/-- What State.anchorCommit may change. -/
theorem State.anchorCommit_keeps (s : State) :
    Keeps [.mem, .writes, .regs, .tasks, .power] s (State.anchorCommit s) := by
  unfold State.anchorCommit
  dsimp only
  refine Keeps.ite (fun _ => ?_) (fun _ => ?_)
  refine Keeps.after (State.setRegs_keeps ..) ?_
  refine Keeps.after (State.memOps_keeps ..) ?_
  refine Keeps.made_tasks_power ?_
  exact Keeps.refl _ _
  exact Keeps.refl _ _

/-- What State.voltageAdjust may change. -/
theorem State.voltageAdjust_keeps (s : State) (d : Nat) (slackPs : ℤ) :
    Keeps [.mem, .writes, .regs, .eventSeq, .power, .pcie, .outputs] s (State.voltageAdjust s d slackPs) := by
  unfold State.voltageAdjust
  dsimp only
  refine Keeps.ite (fun _ => ?_) (fun _ => ?_)
  exact Keeps.refl _ _
  refine Keeps.ite (fun _ => ?_) (fun _ => ?_)
  refine Keeps.after (State.setReg_keeps ..) ?_
  refine Keeps.after (State.setReg_keeps ..) ?_
  exact Keeps.refl _ _
  refine Keeps.ite (fun _ => ?_) (fun _ => ?_)
  refine Keeps.after (State.setReg_keeps ..) ?_
  refine Keeps.after (State.setReg_keeps ..) ?_
  exact Keeps.refl _ _
  refine Keeps.after (State.checkFmax_keeps ..) ?_
  refine Keeps.after (State.setDiePower_keeps ..) ?_
  refine Keeps.after (State.setReg_keeps ..) ?_
  exact Keeps.refl _ _

/-- What State.replay may change. -/
theorem State.replay_keeps (s : State) (t : Task) (tile : Nat) (attempt : Nat) (unit : Nat) :
    Keeps [.mem, .writes, .regs, .eventSeq, .errorSeq, .tasks, .fabric, .pcie,
      .outputs] s (State.replay s t tile attempt unit) := by
  unfold State.replay
  dsimp only
  refine Keeps.after (State.setTask_keeps ..) ?_
  refine Keeps.after (State.dropRequests_keeps ..) ?_
  refine Keeps.after (State.logError_keeps ..) ?_
  refine Keeps.after (State.bump_keeps ..) ?_
  exact Keeps.refl _ _

/-- What State.killJobTasks may change. -/
theorem State.killJobTasks_keeps (s : State) (job : Nat) :
    Keeps [.free, .mem, .writes, .regs, .rings, .tasks, .signals, .fabric, .pcie,
      .outputs] s (State.killJobTasks s job) := by
  unfold State.killJobTasks
  dsimp only
  refine Keeps.made_tasks ?_
  refine Keeps.foldl (fun _ _ => ?_) ?_
  refine Keeps.after (State.killTask_keeps ..) ?_
  exact Keeps.refl _ _
  exact Keeps.refl _ _

/-- What State.entryParity may change. -/
theorem State.entryParity_keeps (s : State) (t : Task) :
    Keeps [.free, .mem, .writes, .regs, .eventSeq, .errorSeq, .rings, .tasks, .signals, .fabric, .pcie,
      .outputs] s (State.entryParity s t) := by
  unfold State.entryParity
  dsimp only
  refine Keeps.after (State.complete_keeps ..) ?_
  refine Keeps.after (State.cutOff_keeps ..) ?_
  refine Keeps.after (State.logError_keeps ..) ?_
  refine Keeps.after (State.bump_keeps ..) ?_
  exact Keeps.refl _ _

/-- What State.ringParity may change. -/
theorem State.ringParity_keeps (s : State) (ring : Nat) :
    Keeps [.mem, .writes, .rings, .pcie, .outputs] s (State.ringParity s ring) := by
  unfold State.ringParity
  dsimp only
  refine Keeps.ite (fun _ => ?_) (fun _ => ?_)
  exact Keeps.refl _ _
  refine Keeps.ite (fun _ => ?_) (fun _ => ?_)
  refine Keeps.after (State.rejectDescriptor_keeps ..) ?_
  exact Keeps.refl _ _
  refine Keeps.ite (fun _ => ?_) (fun _ => ?_)
  refine Keeps.after (State.rejectEntry_keeps ..) ?_
  exact Keeps.refl _ _
  exact Keeps.refl _ _

/-- What State.jobRevive may change. -/
theorem State.jobRevive_keeps (s : State) :
    Keeps [.jobs] s (State.jobRevive s) := by
  unfold State.jobRevive
  split
  refine Keeps.ite (fun _ => ?_) (fun _ => ?_)
  refine Keeps.after (State.setJob_keeps ..) ?_
  exact Keeps.refl _ _
  exact Keeps.refl _ _
  exact Keeps.refl _ _

/-- What State.parityEnds may change. -/
theorem State.parityEnds_keeps (s : State) (t : Task) :
    Keeps [.free, .mem, .writes, .tasks, .fabric, .pcie] s (State.parityEnds s t) := by
  unfold State.parityEnds
  refine Keeps.after (State.setTask_keeps ..) ?_
  refine Keeps.after (State.cutOff_keeps ..) ?_
  exact Keeps.refl _ _

/-- What State.tileParity may change. -/
theorem State.tileParity_keeps (s0 : State) (t : Task) (tile : Nat) :
    Keeps [.free, .mem, .writes, .regs, .eventSeq, .errorSeq, .tasks, .fabric, .pcie,
      .outputs] s0 (State.tileParity s0 t tile) := by
  unfold State.tileParity
  dsimp only
  refine Keeps.ite (fun _ => ?_) (fun _ => ?_)
  refine Keeps.after (State.setTask_keeps ..) ?_
  refine Keeps.after (State.bump_keeps ..) ?_
  refine Keeps.after (State.suspectTile_keeps ..) ?_
  refine Keeps.after (State.bump_keeps ..) ?_
  exact Keeps.refl _ _
  refine Keeps.ite (fun _ => ?_) (fun _ => ?_)
  refine Keeps.after (State.parityEnds_keeps ..) ?_
  refine Keeps.after (State.logError_keeps ..) ?_
  refine Keeps.after (State.suspectTile_keeps ..) ?_
  refine Keeps.after (State.bump_keeps ..) ?_
  exact Keeps.refl _ _
  refine Keeps.ite (fun _ => ?_) (fun _ => ?_)
  refine Keeps.after (State.replay_keeps ..) ?_
  refine Keeps.after (State.suspectTile_keeps ..) ?_
  refine Keeps.after (State.bump_keeps ..) ?_
  exact Keeps.refl _ _
  split
  refine Keeps.after (State.replay_keeps ..) ?_
  refine Keeps.after (State.suspectTile_keeps ..) ?_
  refine Keeps.after (State.bump_keeps ..) ?_
  exact Keeps.refl _ _
  refine Keeps.after (State.parityEnds_keeps ..) ?_
  refine Keeps.after (State.logError_keeps ..) ?_
  refine Keeps.after (State.suspectTile_keeps ..) ?_
  refine Keeps.after (State.bump_keeps ..) ?_
  exact Keeps.refl _ _

/-- What State.closeJob may change. -/
theorem State.closeJob_keeps (s : State) (job : Nat) :
    Keeps [.regs, .rings, .signals, .streams, .memQueue, .tables, .fabric, .reductions, .combining,
      .outputs] s (State.closeJob s job) := by
  unfold State.closeJob
  dsimp only
  refine Keeps.made_rings ?_
  refine Keeps.after (State.dropUnits_keeps ..) ?_
  exact Keeps.refl _ _

/-- What State.jobKilled may change. -/
theorem State.jobKilled_keeps (s : State) (j : Job) :
    Keeps [.mem, .writes, .regs, .eventSeq, .errorSeq, .jobs, .pcie, .outputs] s (State.jobKilled s j) := by
  unfold State.jobKilled
  dsimp only
  refine Keeps.after (State.post_keeps ..) ?_
  refine Keeps.after (State.logError_keeps ..) ?_
  refine Keeps.ite (fun _ => ?_) (fun _ => ?_)
  refine Keeps.after (State.bump_keeps ..) ?_
  refine Keeps.after (State.setJob_keeps ..) ?_
  exact Keeps.refl _ _
  refine Keeps.after (State.setReg_keeps ..) ?_
  refine Keeps.after (State.bump_keeps ..) ?_
  refine Keeps.after (State.setJob_keeps ..) ?_
  exact Keeps.refl _ _

/-- What State.poisonBlock may change. -/
theorem State.poisonBlock_keeps (s : State) (key : Nat) :
    Keeps [.mem, .writes] s (State.poisonBlock s key) := by
  unfold State.poisonBlock
  refine Keeps.after (State.memOps_keeps ..) ?_
  exact Keeps.refl _ _

/-- What State.jobKill may change. -/
theorem State.jobKill_keeps (s : State) :
    Keeps [.regs, .rings, .jobs] s (State.jobKill s) := by
  unfold State.jobKill
  dsimp only
  refine Keeps.ite (fun _ => ?_) (fun _ => ?_)
  refine Keeps.after (State.setReg_keeps ..) ?_
  refine Keeps.after (State.terminateJob_keeps ..) ?_
  exact Keeps.refl _ _
  exact Keeps.refl _ _

/-- What State.errLogHead may change. -/
theorem State.errLogHead_keeps (s : State) (head : Nat) :
    Keeps [.regs] s (State.errLogHead s head) := by
  unfold State.errLogHead
  dsimp only
  refine Keeps.ite (fun _ => ?_) (fun _ => ?_)
  refine Keeps.after (State.setReg_keeps ..) ?_
  exact Keeps.refl _ _
  refine Keeps.after (State.bump_keeps ..) ?_
  exact Keeps.refl _ _

/-- What State.sharedParity may change. -/
theorem State.sharedParity_keeps (s : State) (job : Option Nat) :
    Keeps [.free, .mem, .writes, .regs, .eventSeq, .errorSeq, .rings, .jobs, .pcie,
      .outputs] s (State.sharedParity s job) := by
  unfold State.sharedParity
  dsimp only
  split
  refine Keeps.after (State.terminateJob_keeps ..) ?_
  refine Keeps.after (State.logError_keeps ..) ?_
  refine Keeps.after (State.bump_keeps ..) ?_
  refine Keeps.after (State.draw_keeps ..) ?_
  exact Keeps.refl _ _
  refine Keeps.foldl (fun _ _ => ?_) ?_
  refine Keeps.after (State.terminateJob_keeps ..) ?_
  exact Keeps.refl _ _
  refine Keeps.after (State.logError_keeps ..) ?_
  refine Keeps.after (State.bump_keeps ..) ?_
  refine Keeps.after (State.draw_keeps ..) ?_
  exact Keeps.refl _ _

/-- What State.parityError may change. -/
theorem State.parityError_keeps (s : State) (site : ParitySite) :
    Keeps [.free, .mem, .writes, .regs, .eventSeq, .errorSeq, .rings, .tasks, .signals, .jobs, .corrections, .fabric,
      .pcie, .outputs] s (State.parityError s site) := by
  unfold State.parityError
  split
  refine Keeps.after (State.logError_keeps ..) ?_
  refine Keeps.after (State.poisonBlock_keeps ..) ?_
  refine Keeps.after (State.bump_keeps ..) ?_
  exact Keeps.refl _ _
  split
  refine Keeps.ite (fun _ => ?_) (fun _ => ?_)
  refine Keeps.after (State.tileParity_keeps ..) ?_
  exact Keeps.refl _ _
  exact Keeps.refl _ _
  exact Keeps.refl _ _
  split
  refine Keeps.ite (fun _ => ?_) (fun _ => ?_)
  refine Keeps.after (State.parityEnds_keeps ..) ?_
  refine Keeps.after (State.bump_keeps ..) ?_
  exact Keeps.refl _ _
  exact Keeps.refl _ _
  exact Keeps.refl _ _
  refine Keeps.after (State.ringParity_keeps ..) ?_
  refine Keeps.after (State.bump_keeps ..) ?_
  exact Keeps.refl _ _
  split
  refine Keeps.ite (fun _ => ?_) (fun _ => ?_)
  exact Keeps.refl _ _
  refine Keeps.after (State.entryParity_keeps ..) ?_
  exact Keeps.refl _ _
  exact Keeps.refl _ _
  refine Keeps.after (State.sharedParity_keeps ..) ?_
  exact Keeps.refl _ _
  refine Keeps.after (State.bump_keeps ..) ?_
  exact Keeps.refl _ _
  refine Keeps.after (State.corrected_keeps ..) ?_
  refine Keeps.after (State.bump_keeps ..) ?_
  exact Keeps.refl _ _
  refine Keeps.after (State.logError_keeps ..) ?_
  refine Keeps.after (State.poisonBlock_keeps ..) ?_
  refine Keeps.after (State.bump_keeps ..) ?_
  exact Keeps.refl _ _

/-- What State.jobTerminated may change. -/
theorem State.jobTerminated_keeps (s : State) (job : Nat) :
    Keeps [.free, .mem, .writes, .regs, .eventSeq, .errorSeq, .rings, .tasks, .signals, .jobs, .streams, .memQueue,
      .tables, .fabric, .reductions, .combining, .pcie, .outputs] s (State.jobTerminated s job) := by
  unfold State.jobTerminated
  dsimp only
  split
  refine Keeps.ite (fun _ => ?_) (fun _ => ?_)
  refine Keeps.ite (fun _ => ?_) (fun _ => ?_)
  refine Keeps.after (State.jobKilled_keeps ..) ?_
  refine Keeps.after (State.closeJob_keeps ..) ?_
  refine Keeps.after (State.killJobTasks_keeps ..) ?_
  exact Keeps.refl _ _
  refine Keeps.after (State.closeJob_keeps ..) ?_
  refine Keeps.after (State.killJobTasks_keeps ..) ?_
  exact Keeps.refl _ _
  exact Keeps.refl _ _
  exact Keeps.refl _ _

/-- What State.errLogEnable may change. -/
theorem State.errLogEnable_keeps (s : State) (enable : Bool) :
    Keeps [.regs] s (State.errLogEnable s enable) := by
  unfold State.errLogEnable
  refine Keeps.ite (fun _ => ?_) (fun _ => ?_)
  refine Keeps.after (State.setReg_keeps ..) ?_
  exact Keeps.refl _ _
  refine Keeps.ite (fun _ => ?_) (fun _ => ?_)
  exact Keeps.refl _ _
  refine Keeps.ite (fun _ => ?_) (fun _ => ?_)
  refine Keeps.after (State.setRegs_keeps ..) ?_
  exact Keeps.refl _ _
  refine Keeps.after (State.bump_keeps ..) ?_
  exact Keeps.refl _ _

/-- What State.setReduction may change. -/
theorem State.setReduction_keeps (s : State) (r : Reduction) :
    Keeps [.reductions] s (State.setReduction s r) := by
  unfold State.setReduction
  refine Keeps.made_reductions ?_
  exact Keeps.refl _ _

/-- What State.recordPacket may change. -/
theorem State.recordPacket_keeps (s : State) (r : Reduction) (x : ExactPacket) (block : Nat) :
    Keeps [.mem, .writes, .reductions] s (State.recordPacket s r x block) := by
  unfold State.recordPacket
  dsimp only
  refine Keeps.ite (fun _ => ?_) (fun _ => ?_)
  refine Keeps.after (State.write_keeps ..) ?_
  exact Keeps.refl _ _
  refine Keeps.after (State.setReduction_keeps ..) ?_
  exact Keeps.refl _ _

/-- What State.applyElement may change. -/
theorem State.applyElement_keeps (s : State) (r : Reduction) (x : ExactPacket) (entry : Nat) (e : ExactCell) (j : Nat) :
    Keeps [.mem, .writes, .regs] s (State.applyElement s r x entry e j) := by
  unfold State.applyElement
  dsimp only
  refine Keeps.after (State.bump_keeps ..) ?_
  refine Keeps.after (State.write_keeps ..) ?_
  exact Keeps.refl _ _

/-- What State.applyPacket may change. -/
theorem State.applyPacket_keeps (s : State) (r : Reduction) (x : ExactPacket) (block : Nat) (entries : List Nat) :
    Keeps [.free, .mem, .writes, .regs, .reductions] s (State.applyPacket s r x block entries) := by
  unfold State.applyPacket
  dsimp only
  refine Keeps.after (State.bumps_keeps ..) ?_
  refine Keeps.after (State.draw_keeps ..) ?_
  refine Keeps.after (State.recordPacket_keeps ..) ?_
  refine Keeps.foldl (fun _ _ => ?_) ?_
  refine Keeps.after (State.applyElement_keeps ..) ?_
  exact Keeps.refl _ _
  exact Keeps.refl _ _

/-- What State.exactArrives may change. -/
theorem State.exactArrives_keeps (s : State) (k : Packet) :
    Keeps [.free, .mem, .writes, .regs, .eventSeq, .reductions, .pcie, .outputs] s (State.exactArrives s k).1 := by
  unfold State.exactArrives
  dsimp only
  split
  split
  dsimp only
  refine Keeps.after (State.bump_keeps ..) ?_
  exact Keeps.refl _ _
  split
  dsimp only
  refine Keeps.after (State.bump_keeps ..) ?_
  exact Keeps.refl _ _
  split
  dsimp only
  refine Keeps.after (State.bump_keeps ..) ?_
  exact Keeps.refl _ _
  split
  dsimp only
  refine Keeps.after (State.post_keeps ..) ?_
  refine Keeps.after (State.bump_keeps ..) ?_
  exact Keeps.refl _ _
  split
  split
  dsimp only
  refine Keeps.after (State.bump_keeps ..) ?_
  exact Keeps.refl _ _
  split
  split
  dsimp only
  refine Keeps.after (State.bump_keeps ..) ?_
  exact Keeps.refl _ _
  dsimp only
  refine Keeps.after (State.post_keeps ..) ?_
  refine Keeps.after (State.bump_keeps ..) ?_
  exact Keeps.refl _ _
  dsimp only
  refine Keeps.after (State.applyPacket_keeps ..) ?_
  exact Keeps.refl _ _
  split
  dsimp only
  refine Keeps.after (State.bump_keeps ..) ?_
  exact Keeps.refl _ _
  dsimp only
  refine Keeps.after (State.applyPacket_keeps ..) ?_
  refine Keeps.made_free ?_
  exact Keeps.refl _ _
  split
  dsimp only
  refine Keeps.after (State.bump_keeps ..) ?_
  exact Keeps.refl _ _
  split
  dsimp only
  refine Keeps.after (State.bump_keeps ..) ?_
  exact Keeps.refl _ _
  split
  dsimp only
  refine Keeps.after (State.bump_keeps ..) ?_
  exact Keeps.refl _ _
  split
  dsimp only
  refine Keeps.after (State.post_keeps ..) ?_
  refine Keeps.after (State.bump_keeps ..) ?_
  exact Keeps.refl _ _
  split
  split
  dsimp only
  refine Keeps.after (State.bump_keeps ..) ?_
  exact Keeps.refl _ _
  split
  split
  dsimp only
  refine Keeps.after (State.bump_keeps ..) ?_
  exact Keeps.refl _ _
  dsimp only
  refine Keeps.after (State.post_keeps ..) ?_
  refine Keeps.after (State.bump_keeps ..) ?_
  exact Keeps.refl _ _
  dsimp only
  refine Keeps.after (State.applyPacket_keeps ..) ?_
  exact Keeps.refl _ _
  split
  dsimp only
  refine Keeps.after (State.bump_keeps ..) ?_
  exact Keeps.refl _ _
  dsimp only
  refine Keeps.after (State.applyPacket_keeps ..) ?_
  refine Keeps.made_free ?_
  exact Keeps.refl _ _

/-- The same of a result that is named. -/
theorem State.exactArrives_keeps_eq {s : State} {k : Packet} {t0 : State} {y : _}
    (h : State.exactArrives s k = (t0, y)) : Keeps [.free, .mem, .writes, .regs, .eventSeq, .reductions, .pcie,
      .outputs] s t0 := by
  have hk := State.exactArrives_keeps s k
  rw [h] at hk
  exact hk

/-- What State.closeResult may change. -/
theorem State.closeResult_keeps (s : State) (r : Reduction) (cells : List (Nat × Nat × ExactCell)) :
    Keeps [.mem, .writes, .regs] s (State.closeResult s r cells) := by
  unfold State.closeResult
  dsimp only
  refine Keeps.ite (fun _ => ?_) (fun _ => ?_)
  exact Keeps.refl _ _
  refine Keeps.after (State.bumps_keeps ..) ?_
  refine Keeps.after (State.memOps_keeps ..) ?_
  refine Keeps.foldl (fun _ _ => ?_) ?_
  refine Keeps.after (State.write_keeps ..) ?_
  exact Keeps.refl _ _
  refine Keeps.ite (fun _ => ?_) (fun _ => ?_)
  refine Keeps.after (State.memOps_keeps ..) ?_
  exact Keeps.refl _ _
  exact Keeps.refl _ _

/-- What State.closeReduction may change. -/
theorem State.closeReduction_keeps (s : State) (t : Task) (r : Reduction) (a : CloseArgs) :
    Keeps [.mem, .writes, .regs, .eventSeq, .errorSeq, .reductions, .pcie,
      .outputs] s (State.closeReduction s t r a).1 := by
  unfold State.closeReduction
  dsimp only
  split
  dsimp only
  refine Keeps.after (State.logError_keeps ..) ?_
  refine Keeps.after (State.post_keeps ..) ?_
  refine Keeps.after (State.bump_keeps ..) ?_
  refine Keeps.after (State.setReduction_keeps ..) ?_
  exact Keeps.refl _ _
  split
  dsimp only
  refine Keeps.after (State.closeResult_keeps ..) ?_
  refine Keeps.after (State.setReduction_keeps ..) ?_
  exact Keeps.refl _ _
  split
  dsimp only
  refine Keeps.after (State.setReduction_keeps ..) ?_
  exact Keeps.refl _ _
  dsimp only
  refine Keeps.after (State.write_keeps ..) ?_
  refine Keeps.after (State.write_keeps ..) ?_
  refine Keeps.after (State.closeResult_keeps ..) ?_
  refine Keeps.after (State.setReduction_keeps ..) ?_
  exact Keeps.refl _ _

/-- The same of a result that is named. -/
theorem State.closeReduction_keeps_eq {s : State} {t : Task} {r : Reduction} {a : CloseArgs} {t0 : State} {y : _}
    (h : State.closeReduction s t r a = (t0, y)) : Keeps [.mem, .writes, .regs, .eventSeq, .errorSeq, .reductions,
      .pcie, .outputs] s t0 := by
  have hk := State.closeReduction_keeps s t r a
  rw [h] at hk
  exact hk

/-- What State.endAll may change. -/
theorem State.endAll_keeps (s : State) (l : List Packet) :
    Keeps [.free, .mem, .writes, .regs, .tasks, .fabric, .pcie] s (State.endAll s l) := by
  unfold State.endAll
  refine Keeps.foldl (fun _ _ => ?_) ?_
  refine Keeps.after (State.endRequest_keeps ..) ?_
  exact Keeps.refl _ _
  exact Keeps.refl _ _

/-- What State.servePut may change. -/
theorem State.servePut_keeps (s : State) (k : Packet) :
    Keeps [.mem, .writes] s (State.servePut s k).1 := by
  unfold State.servePut
  dsimp only
  split
  dsimp only
  refine Keeps.after (State.storePayload_keeps ..) ?_
  exact Keeps.refl _ _
  dsimp only
  exact Keeps.refl _ _

/-- The same of a result that is named. -/
theorem State.servePut_keeps_eq {s : State} {k : Packet} {t0 : State} {y : _}
    (h : State.servePut s k = (t0, y)) : Keeps [.mem, .writes] s t0 := by
  have hk := State.servePut_keeps s k
  rw [h] at hk
  exact hk

/-- What State.serveNmAcc may change. -/
theorem State.serveNmAcc_keeps (s : State) (k : Packet) :
    Keeps [.mem, .writes, .regs] s (State.serveNmAcc s k).1 := by
  unfold State.serveNmAcc
  dsimp only
  split
  dsimp only
  exact Keeps.refl _ _
  split
  dsimp only
  exact Keeps.refl _ _
  dsimp only
  refine Keeps.after (State.bumps_keeps ..) ?_
  refine Keeps.after (State.memOps_keeps ..) ?_
  exact Keeps.refl _ _

/-- The same of a result that is named. -/
theorem State.serveNmAcc_keeps_eq {s : State} {k : Packet} {t0 : State} {y : _}
    (h : State.serveNmAcc s k = (t0, y)) : Keeps [.mem, .writes, .regs] s t0 := by
  have hk := State.serveNmAcc_keeps s k
  rw [h] at hk
  exact hk

/-- What State.serveCas may change. -/
theorem State.serveCas_keeps (s : State) (k : Packet) :
    Keeps [.mem, .writes] s (State.serveCas s k).1 := by
  unfold State.serveCas
  dsimp only
  split
  dsimp only
  exact Keeps.refl _ _
  split
  dsimp only
  exact Keeps.refl _ _
  dsimp only
  refine Keeps.ite (fun _ => ?_) (fun _ => ?_)
  refine Keeps.after (State.write_keeps ..) ?_
  exact Keeps.refl _ _
  exact Keeps.refl _ _

/-- The same of a result that is named. -/
theorem State.serveCas_keeps_eq {s : State} {k : Packet} {t0 : State} {y : _}
    (h : State.serveCas s k = (t0, y)) : Keeps [.mem, .writes] s t0 := by
  have hk := State.serveCas_keeps s k
  rw [h] at hk
  exact hk

/-- What State.serveSignal may change. -/
theorem State.serveSignal_keeps (s : State) (a : Arrival) :
    Keeps [.regs, .tasks, .signals, .fabric] s (State.serveSignal s a).1 := by
  unfold State.serveSignal
  dsimp only
  split
  dsimp only
  refine Keeps.after (State.freeArrival_keeps ..) ?_
  refine Keeps.after (State.signal?_keeps (by assumption)) ?_
  exact Keeps.refl _ _
  dsimp only
  refine Keeps.made_fabric ?_
  exact Keeps.refl _ _

/-- The same of a result that is named. -/
theorem State.serveSignal_keeps_eq {s : State} {a : Arrival} {t0 : State} {y : _}
    (h : State.serveSignal s a = (t0, y)) : Keeps [.regs, .tasks, .signals, .fabric] s t0 := by
  have hk := State.serveSignal_keeps s a
  rw [h] at hk
  exact hk

/-- What State.serveBody may change. -/
theorem State.serveBody_keeps (s : State) (a : Arrival) :
    Keeps [.free, .mem, .writes, .regs, .eventSeq, .tasks, .signals, .fabric, .reductions, .pcie,
      .outputs] s (State.serveBody s a).1 := by
  unfold State.serveBody
  dsimp only
  split
  dsimp only
  refine Keeps.after (State.freeArrival_keeps ..) ?_
  exact Keeps.refl _ _
  split
  dsimp only
  refine Keeps.after (State.freeArrival_keeps ..) ?_
  exact Keeps.refl _ _
  split
  dsimp only
  refine Keeps.after (State.freeArrival_keeps ..) ?_
  refine Keeps.after (State.servePut_keeps ..) ?_
  exact Keeps.refl _ _
  split
  dsimp only
  refine Keeps.after (State.freeArrival_keeps ..) ?_
  exact Keeps.refl _ _
  split
  dsimp only
  refine Keeps.after (State.freeArrival_keeps ..) ?_
  exact Keeps.refl _ _
  split
  dsimp only
  refine Keeps.after (State.freeArrival_keeps ..) ?_
  refine Keeps.after (State.exactArrives_keeps ..) ?_
  exact Keeps.refl _ _
  split
  dsimp only
  refine Keeps.after (State.freeArrival_keeps ..) ?_
  refine Keeps.after (State.serveNmAcc_keeps ..) ?_
  exact Keeps.refl _ _
  split
  dsimp only
  refine Keeps.after (State.freeArrival_keeps ..) ?_
  refine Keeps.after (State.serveCas_keeps ..) ?_
  exact Keeps.refl _ _
  split
  refine Keeps.after (State.serveSignal_keeps ..) ?_
  refine Keeps.after (State.servePut_keeps ..) ?_
  exact Keeps.refl _ _
  dsimp only
  refine Keeps.after (State.freeArrival_keeps ..) ?_
  refine Keeps.after (State.servePut_keeps ..) ?_
  exact Keeps.refl _ _

/-- The same of a result that is named. -/
theorem State.serveBody_keeps_eq {s : State} {a : Arrival} {t0 : State} {y : _}
    (h : State.serveBody s a = (t0, y)) : Keeps [.free, .mem, .writes, .regs, .eventSeq, .tasks, .signals, .fabric,
      .reductions, .pcie, .outputs] s t0 := by
  have hk := State.serveBody_keeps s a
  rw [h] at hk
  exact hk

/-- What State.issueOrServe may change. -/
theorem State.issueOrServe_keeps (s : State) (io : Nat) (id : TaskId) (k : Packet) (localAddr : Nat) :
    Keeps [.free, .mem, .writes, .regs, .eventSeq, .tasks, .signals, .fabric, .reductions, .pcie,
      .outputs] s (State.issueOrServe s io id k localAddr) := by
  unfold State.issueOrServe
  dsimp only
  refine Keeps.ite (fun _ => ?_) (fun _ => ?_)
  refine Keeps.after (State.endAll_keeps ..) ?_
  refine Keeps.after (State.serveBody_keeps ..) ?_
  refine Keeps.made_fabric ?_
  refine Keeps.after (State.takeSeq_keeps ..) ?_
  exact Keeps.refl _ _
  refine Keeps.after (State.issue_keeps ..) ?_
  exact Keeps.refl _ _

/-- What State.sendPieces may change. -/
theorem State.sendPieces_keeps (id : TaskId) (n : Nat) (s : State) :
    Keeps [.free, .mem, .writes, .regs, .eventSeq, .tasks, .signals, .fabric, .reductions, .pcie,
      .outputs] s (State.sendPieces id n s) := by
  induction n generalizing s with
  | zero => exact Keeps.refl _ _
  | succ n ih =>
    unfold State.sendPieces
    dsimp only
    split
    · exact Keeps.refl _ _
    · split
      · refine Keeps.after (State.remoteProgress_keeps ..) ?_
        exact Keeps.after (State.setTask_keeps ..) (Keeps.refl _ _)
      · split
        · refine Keeps.after (ih _) ?_
          refine Keeps.after (State.issueOrServe_keeps ..) ?_
          exact Keeps.after (State.setTask_keeps ..) (Keeps.refl _ _)
        · exact Keeps.refl _ _

/-- What State.sendAll may change. -/
theorem State.sendAll_keeps (s : State) (l : List Packet) :
    Keeps [.regs, .fabric, .outputs] s (State.sendAll s l) := by
  unfold State.sendAll
  refine Keeps.foldl (fun _ _ => ?_) ?_
  refine Keeps.after (State.sendPacket_keeps ..) ?_
  exact Keeps.refl _ _
  exact Keeps.refl _ _

/-- What State.noChart may change. -/
theorem State.noChart_keeps (s : State) (k : Packet) :
    Keeps [.regs, .fabric, .outputs] s (State.noChart s k) := by
  unfold State.noChart
  refine Keeps.after (State.respond_keeps ..) ?_
  refine Keeps.after (State.takeIn_keeps ..) ?_
  exact Keeps.refl _ _

/-- What State.unlist may change. -/
theorem State.unlist_keeps (s : State) (a : Arrival) :
    Keeps [.fabric] s (State.unlist s a) := by
  unfold State.unlist
  dsimp only
  refine Keeps.made_fabric ?_
  exact Keeps.refl _ _

/-- What State.serveRequest may change. -/
theorem State.serveRequest_keeps (s : State) (k : Packet) :
    Keeps [.free, .mem, .writes, .regs, .eventSeq, .tasks, .signals, .fabric, .reductions, .power, .pcie,
      .outputs] s (State.serveRequest s k) := by
  unfold State.serveRequest
  dsimp only
  refine Keeps.ite (fun _ => ?_) (fun _ => ?_)
  refine Keeps.after (State.noChart_keeps ..) ?_
  exact Keeps.refl _ _
  refine Keeps.ite (fun _ => ?_) (fun _ => ?_)
  exact Keeps.refl _ _
  refine Keeps.ite (fun _ => ?_) (fun _ => ?_)
  refine Keeps.after (State.sendAll_keeps ..) ?_
  refine Keeps.after (State.tagTraffic_keeps ..) ?_
  refine Keeps.after (State.serveBody_keeps ..) ?_
  refine Keeps.after (State.wakeTrigger_keeps ..) ?_
  refine Keeps.after (State.unlist_keeps ..) ?_
  exact Keeps.refl _ _
  refine Keeps.after (State.respond_keeps ..) ?_
  refine Keeps.after (State.bump_keeps ..) ?_
  refine Keeps.after (State.freeArrival_keeps ..) ?_
  refine Keeps.after (State.wakeTrigger_keeps ..) ?_
  refine Keeps.after (State.unlist_keeps ..) ?_
  exact Keeps.refl _ _

/-- What State.serveOp may change. -/
theorem State.serveOp_keeps (s : State) (op : Nat) (k : Packet) :
    Keeps [.free, .mem, .writes, .regs, .eventSeq, .tasks, .signals, .fabric, .reductions, .power, .pcie,
      .outputs] s (State.serveOp s op k) := by
  unfold State.serveOp
  refine Keeps.ite (fun _ => ?_) (fun _ => ?_)
  refine Keeps.after (State.serveRequest_keeps ..) ?_
  exact Keeps.refl _ _
  exact Keeps.refl _ _

/-- What State.drainWaiting may change. -/
theorem State.drainWaiting_keeps (s : State) :
    Keeps [.free, .mem, .writes, .regs, .eventSeq, .tasks, .signals, .fabric, .reductions, .pcie,
      .outputs] s (State.drainWaiting s) := by
  unfold State.drainWaiting
  dsimp only
  refine Keeps.foldl (fun _ _ => ?_) ?_
  refine Keeps.ite (fun _ => ?_) (fun _ => ?_)
  refine Keeps.after (State.issueOrServe_keeps ..) ?_
  refine Keeps.made_fabric ?_
  exact Keeps.refl _ _
  exact Keeps.refl _ _
  exact Keeps.refl _ _

/-- What State.queueRequests may change. -/
theorem State.queueRequests_keeps (s : State) (id : TaskId) (io : Nat) (l : List Packet) :
    Keeps [.free, .mem, .writes, .regs, .eventSeq, .tasks, .signals, .fabric, .reductions, .pcie,
      .outputs] s (State.queueRequests s id io l) := by
  unfold State.queueRequests
  dsimp only
  refine Keeps.after (State.remoteProgress_keeps ..) ?_
  refine Keeps.after (State.drainWaiting_keeps ..) ?_
  refine Keeps.made_fabric ?_
  exact Keeps.refl _ _

/-- What State.continueRemote may change. -/
theorem State.continueRemote_keeps (s : State) (t : Task) :
    Keeps [.free, .mem, .writes, .regs, .eventSeq, .tasks, .signals, .fabric, .reductions, .pcie,
      .outputs] s (State.continueRemote s t) := by
  unfold State.continueRemote
  refine Keeps.after (State.sendPieces_keeps ..) ?_
  exact Keeps.refl _ _

/-- What State.settle may change. -/
theorem State.settle_keeps (s0 : State) :
    Keeps [.free, .mem, .writes, .regs, .eventSeq, .tasks, .signals, .fabric, .reductions, .pcie,
      .outputs] s0 (State.settle s0) := by
  unfold State.settle
  dsimp only
  refine Keeps.foldl (fun _ _ => ?_) ?_
  refine Keeps.after (State.continueRemote_keeps ..) ?_
  exact Keeps.refl _ _
  refine Keeps.after (State.drainWaiting_keeps ..) ?_
  refine Keeps.after (State.sendRows_keeps ..) ?_
  exact Keeps.refl _ _

/-- What State.takeResponse may change. -/
theorem State.takeResponse_keeps (s : State) (op : Nat) (k : Packet) :
    Keeps [.free, .mem, .writes, .regs, .eventSeq, .tasks, .signals, .fabric, .reductions, .pcie,
      .outputs] s (State.takeResponse s op k) := by
  unfold State.takeResponse
  dsimp only
  refine Keeps.ite (fun _ => ?_) (fun _ => ?_)
  refine Keeps.after (State.settle_keeps ..) ?_
  refine Keeps.ite (fun _ => ?_) (fun _ => ?_)
  refine Keeps.after (State.listResponse_keeps ..) ?_
  refine Keeps.after (State.takeIn_keeps ..) ?_
  exact Keeps.refl _ _
  refine Keeps.after (State.endRequest_keeps ..) ?_
  refine Keeps.after (State.takeIn_keeps ..) ?_
  exact Keeps.refl _ _
  exact Keeps.refl _ _

/-- What State.startRemote may change. -/
theorem State.startRemote_keeps (s : State) (id : TaskId) (op : Nat) :
    Keeps [.free, .mem, .writes, .regs, .eventSeq, .tasks, .signals, .fabric, .reductions, .pcie,
      .outputs] s (State.startRemote s id op) := by
  unfold State.startRemote
  dsimp only
  split
  refine Keeps.ite (fun _ => ?_) (fun _ => ?_)
  refine Keeps.after (State.continueRemote_keeps ..) ?_
  refine Keeps.after (State.setTask_keeps ..) ?_
  exact Keeps.refl _ _
  exact Keeps.refl _ _
  exact Keeps.refl _ _

/-- What State.retrySignal may change. -/
theorem State.retrySignal_keeps (s : State) (a : Arrival) :
    Keeps [.regs, .tasks, .signals, .fabric, .outputs] s (State.retrySignal s a) := by
  unfold State.retrySignal
  dsimp only
  refine Keeps.after (State.sendAll_keeps ..) ?_
  refine Keeps.after (State.serveSignal_keeps ..) ?_
  refine Keeps.made_fabric ?_
  exact Keeps.refl _ _

/-- What State.functionReset may change. -/
theorem State.functionReset_keeps (s : State) :
    Keeps [.mem, .writes, .regs, .eventSeq, .chart, .load, .unloadWaiting, .zeroing, .rings, .tasks, .signals, .jobs,
      .streams, .memQueue, .tables, .fabric, .reductions, .combining, .sysreset, .pcie,
      .outputs] s (State.functionReset s) := by
  unfold State.functionReset
  dsimp only
  refine Keeps.after (State.setChart_keeps ..) ?_
  refine Keeps.after (State.setRegs_keeps ..) ?_
  refine Keeps.made_eventSeq_rings_fabric_sysreset_pcie ?_
  refine Keeps.after (State.memOps_keeps ..) ?_
  refine Keeps.after (State.resetRegs_keeps ..) ?_
  refine Keeps.after (State.dropChart_keeps ..) ?_
  refine Keeps.made_load_unloadWaiting ?_
  exact Keeps.refl _ _

/-- What State.broadcastWrite may change. -/
theorem State.broadcastWrite_keeps (s : State) (a : CollArgs) (e : Combining) :
    Keeps [.mem, .writes] s (State.broadcastWrite s a e) := by
  unfold State.broadcastWrite
  refine Keeps.foldl (fun _ _ => ?_) ?_
  refine Keeps.after (State.storePayload_keeps ..) ?_
  exact Keeps.refl _ _
  exact Keeps.refl _ _

/-- What State.resetMsg may change. -/
theorem State.resetMsg_keeps (s : State) (op : Nat) (dst : Nat) (root : Nat) :
    Keeps [.regs, .fabric, .outputs] s (State.resetMsg s op dst root) := by
  unfold State.resetMsg
  refine Keeps.after (State.sendPacket_keeps ..) ?_
  exact Keeps.refl _ _

/-- What State.resetProgress may change. -/
theorem State.resetProgress_keeps (s : State) :
    Keeps [.mem, .writes, .regs, .eventSeq, .errorSeq, .chart, .load, .unloadWaiting, .zeroing, .rings, .tasks,
      .signals, .jobs, .streams, .memQueue, .tables, .drift, .lanes, .corrections, .scrubbed, .bankQuiet, .fabric,
      .reductions, .combining, .sysreset, .power, .pcie, .boot, .outputs] s (State.resetProgress s) := by
  unfold State.resetProgress
  dsimp only
  split
  exact Keeps.refl _ _
  refine Keeps.ite (fun _ => ?_) (fun _ => ?_)
  exact Keeps.refl _ _
  refine Keeps.after (State.resetIfSent_keeps ..) ?_
  split
  refine Keeps.after (State.resetMsg_keeps ..) ?_
  refine Keeps.made_sysreset ?_
  exact Keeps.refl _ _
  refine Keeps.made_sysreset ?_
  exact Keeps.refl _ _

/-- What State.resetNotice may change. -/
theorem State.resetNotice_keeps (s : State) (initiator : Bool) (root : Nat) :
    Keeps [.mem, .writes, .regs, .eventSeq, .errorSeq, .chart, .load, .unloadWaiting, .zeroing, .rings, .tasks,
      .signals, .jobs, .streams, .memQueue, .tables, .drift, .lanes, .corrections, .scrubbed, .bankQuiet, .fabric,
      .reductions, .combining, .sysreset, .power, .pcie, .boot, .outputs] s (State.resetNotice s initiator root) := by
  unfold State.resetNotice
  dsimp only
  refine Keeps.after (State.resetProgress_keeps ..) ?_
  refine Keeps.after (State.post_keeps ..) ?_
  refine Keeps.foldl (fun _ _ => ?_) ?_
  refine Keeps.after (State.resetMsg_keeps ..) ?_
  exact Keeps.refl _ _
  refine Keeps.foldl (fun _ _ => ?_) ?_
  refine Keeps.after (State.terminateJob_keeps ..) ?_
  exact Keeps.refl _ _
  refine Keeps.made_sysreset ?_
  exact Keeps.refl _ _

/-- What State.sysresetWrite may change. -/
theorem State.sysresetWrite_keeps (s : State) (value : Nat) :
    Keeps [.mem, .writes, .regs, .eventSeq, .errorSeq, .chart, .load, .unloadWaiting, .zeroing, .rings, .tasks,
      .signals, .jobs, .streams, .memQueue, .tables, .drift, .lanes, .corrections, .scrubbed, .bankQuiet, .fabric,
      .reductions, .combining, .sysreset, .power, .pcie, .boot, .outputs] s (State.sysresetWrite s value) := by
  unfold State.sysresetWrite
  refine Keeps.ite (fun _ => ?_) (fun _ => ?_)
  exact Keeps.refl _ _
  refine Keeps.ite (fun _ => ?_) (fun _ => ?_)
  refine Keeps.after (State.moduleReset_keeps ..) ?_
  exact Keeps.refl _ _
  refine Keeps.ite (fun _ => ?_) (fun _ => ?_)
  exact Keeps.refl _ _
  refine Keeps.after (State.resetNotice_keeps ..) ?_
  exact Keeps.refl _ _

/-- What State.broadcastOn may change. -/
theorem State.broadcastOn_keeps (s : State) (t : Task) (a : CollArgs) (off : Nat) (map : Nat) (d : List Byte) :
    Keeps [.regs, .fabric, .outputs] s (State.broadcastOn s t a off map d) := by
  unfold State.broadcastOn
  dsimp only
  refine Keeps.foldl (fun _ _ => ?_) ?_
  refine Keeps.after (State.sendPacket_keeps ..) ?_
  exact Keeps.refl _ _
  exact Keeps.refl _ _

/-- What State.broadcastTake may change. -/
theorem State.broadcastTake_keeps (s : State) (t : Task) (e : Combining) (x : Arrival) :
    Keeps [.regs, .fabric, .outputs] s (State.broadcastTake s t e x).1 := by
  unfold State.broadcastTake
  dsimp only
  refine Keeps.after (State.freeArrival_keeps ..) ?_
  refine Keeps.after (State.broadcastOn_keeps ..) ?_
  exact Keeps.refl _ _

/-- The same of a result that is named. -/
theorem State.broadcastTake_keeps_eq {s : State} {t : Task} {e : Combining} {x : Arrival} {t0 : State} {y : _}
    (h : State.broadcastTake s t e x = (t0, y)) : Keeps [.regs, .fabric, .outputs] s t0 := by
  have hk := State.broadcastTake_keeps s t e x
  rw [h] at hk
  exact hk

/-- What State.collEnds may change. -/
theorem State.collEnds_keeps (s : State) (t : Task) (status : Nat) :
    Keeps [.tasks] s (State.collEnds s t status) := by
  unfold State.collEnds
  refine Keeps.after (State.setTask_keeps ..) ?_
  exact Keeps.refl _ _

/-- What State.closeNow may change. -/
theorem State.closeNow_keeps (s : State) (t : Task) (a : CollArgs) (r : Reduction) :
    Keeps [.mem, .writes, .regs, .eventSeq, .errorSeq, .tasks, .reductions, .pcie,
      .outputs] s (State.closeNow s t a r) := by
  unfold State.closeNow
  dsimp only
  refine Keeps.after (State.collEnds_keeps ..) ?_
  refine Keeps.after (State.closeReduction_keeps ..) ?_
  exact Keeps.refl _ _

/-- What State.freeCombining may change. -/
theorem State.freeCombining_keeps (s : State) (e : Combining) :
    Keeps [.fabric, .combining] s (State.freeCombining s e) := by
  unfold State.freeCombining
  refine Keeps.foldl (fun _ _ => ?_) ?_
  refine Keeps.after (State.freeArrival_keeps ..) ?_
  exact Keeps.refl _ _
  refine Keeps.made_combining ?_
  exact Keeps.refl _ _

/-- What State.fixCopies may change. -/
theorem State.fixCopies_keeps (s : State) (t : Task) :
    Keeps [.mem, .writes] s (State.fixCopies s t) := by
  unfold State.fixCopies
  refine Keeps.after (State.memOps_keeps ..) ?_
  exact Keeps.refl _ _

/-- What State.combineDown may change. -/
theorem State.combineDown_keeps (s : State) (e : Combining) (t : Task) :
    Keeps [.mem, .writes, .regs, .tasks, .fabric, .combining, .outputs] s (State.combineDown s e t) := by
  unfold State.combineDown
  dsimp only
  refine Keeps.after (State.collEnds_keeps ..) ?_
  refine Keeps.after (State.bump_keeps ..) ?_
  refine Keeps.after (State.freeCombining_keeps ..) ?_
  refine Keeps.ite (fun _ => ?_) (fun _ => ?_)
  refine Keeps.after (State.fixCopies_keeps ..) ?_
  refine Keeps.foldl (fun _ _ => ?_) ?_
  refine Keeps.after (State.sendPacket_keeps ..) ?_
  exact Keeps.refl _ _
  exact Keeps.refl _ _
  refine Keeps.foldl (fun _ _ => ?_) ?_
  refine Keeps.after (State.sendPacket_keeps ..) ?_
  exact Keeps.refl _ _
  exact Keeps.refl _ _

/-- What State.setCombining may change. -/
theorem State.setCombining_keeps (s : State) (e : Combining) :
    Keeps [.combining] s (State.setCombining s e) := by
  unfold State.setCombining
  refine Keeps.made_combining ?_
  exact Keeps.refl _ _

/-- What State.combineProgress may change. -/
theorem State.combineProgress_keeps (s : State) (job : Nat) (tc : Nat) (id : Nat) :
    Keeps [.mem, .writes, .regs, .tasks, .fabric, .combining, .outputs] s (State.combineProgress s job tc id) := by
  unfold State.combineProgress
  dsimp only
  split
  exact Keeps.refl _ _
  split
  exact Keeps.refl _ _
  refine Keeps.ite (fun _ => ?_) (fun _ => ?_)
  refine Keeps.after (State.combineDown_keeps ..) ?_
  exact Keeps.refl _ _
  refine Keeps.ite (fun _ => ?_) (fun _ => ?_)
  exact Keeps.refl _ _
  refine Keeps.ite (fun _ => ?_) (fun _ => ?_)
  refine Keeps.after (State.combineDown_keeps ..) ?_
  exact Keeps.refl _ _
  split
  exact Keeps.refl _ _
  refine Keeps.after (State.setCombining_keeps ..) ?_
  refine Keeps.after (State.sendPacket_keeps ..) ?_
  exact Keeps.refl _ _

/-- What State.combiningFor may change. -/
theorem State.combiningFor_keeps {s : State} {job : Nat} {tc : Nat} {id : Nat} {t0 : State} {y : _}
    (h : State.combiningFor s job tc id = some (t0, y)) : Keeps [.combining] s t0 := by
  unfold State.combiningFor at h
  dsimp only at h
  split at h
  obtain ⟨h1, _⟩ := Prod.mk.inj (Option.some.inj h)
  rw [← h1]
  exact Keeps.refl _ _
  split at h
  exact absurd h (by simp)
  obtain ⟨h1, _⟩ := Prod.mk.inj (Option.some.inj h)
  rw [← h1]
  refine Keeps.made_combining ?_
  exact Keeps.refl _ _

/-- What State.combineArrive may change. -/
theorem State.combineArrive_keeps (s : State) (t : Task) :
    Keeps [.mem, .writes, .regs, .tasks, .fabric, .combining, .outputs] s (State.combineArrive s t) := by
  unfold State.combineArrive
  dsimp only
  split
  exact Keeps.refl _ _
  refine Keeps.ite (fun _ => ?_) (fun _ => ?_)
  exact Keeps.refl _ _
  refine Keeps.after (State.combineProgress_keeps ..) ?_
  refine Keeps.after (State.setCombining_keeps ..) ?_
  refine Keeps.after (State.combiningFor_keeps (by assumption)) ?_
  exact Keeps.refl _ _

/-- A combining message: what taking it, the wake it triggers and its own effect may change. -/
theorem State.combineIn_keeps {ps : List Part} {s : State} {k : Packet} {act : State → Arrival → Combining → State}
    (h : ∀ t a e, Keeps ps t (act t a e)) (ho : [Part.mem, .writes, .regs, .eventSeq, .fabric, .combining, .power,
      .pcie, .outputs].all ps.contains = true := by rfl) :
    Keeps ps s (State.combineIn s k act) := by
  have hs : ∀ t u, Keeps [Part.mem, .writes, .regs, .eventSeq, .fabric, .combining, .power, .pcie,
      .outputs] t u → Keeps ps t u := fun t u hk => Keeps.mono hk ho
  unfold State.combineIn
  split
  · refine hs _ _ ?_
    exact Keeps.after (State.takeIn_keeps ..) (Keeps.refl _ _)
  · split
    · exact Keeps.refl _ _
    · dsimp only
      split
      · refine hs _ _ ?_
        refine Keeps.after (State.bump_keeps ..) ?_
        refine Keeps.after (State.takeIn_keeps ..) ?_
        exact Keeps.after (State.wakeTrigger_keeps ..) (Keeps.refl _ _)
      · split
        · refine hs _ _ ?_
          refine Keeps.after (State.takeIn_keeps ..) ?_
          exact Keeps.after (State.wakeTrigger_keeps ..) (Keeps.refl _ _)
        · split
          · refine hs _ _ ?_
            exact Keeps.after (State.wakeTrigger_keeps ..) (Keeps.refl _ _)
          · refine Keeps.after (h _ _ _) (hs _ _ ?_) (List.all_eq_true.2 (fun p hp => List.contains_iff_mem.2 hp))
            refine Keeps.after (State.unlist_keeps ..) ?_
            refine Keeps.after (State.combiningFor_keeps (by assumption)) ?_
            exact Keeps.after (State.wakeTrigger_keeps ..) (Keeps.refl _ _)

/-- What State.endsLate may change. -/
theorem State.endsLate_keeps (s : State) (t : Task) :
    Keeps [.mem, .writes, .regs, .eventSeq, .tasks, .pcie, .outputs] s (State.endsLate s t) := by
  unfold State.endsLate
  refine Keeps.after (State.post_keeps ..) ?_
  refine Keeps.after (State.bump_keeps ..) ?_
  refine Keeps.after (State.collEnds_keeps ..) ?_
  exact Keeps.refl _ _

/-- What State.closeLate may change. -/
theorem State.closeLate_keeps (s : State) (t : Task) (r : Reduction) :
    Keeps [.free, .mem, .writes, .regs, .eventSeq, .tasks, .reductions, .pcie,
      .outputs] s (State.closeLate s t r) := by
  unfold State.closeLate
  refine Keeps.after (State.endsLate_keeps ..) ?_
  refine Keeps.after (State.undefine_keeps ..) ?_
  refine Keeps.after (State.setReduction_keeps ..) ?_
  exact Keeps.refl _ _

/-- What State.closeDeadline may change. -/
theorem State.closeDeadline_keeps (s : State) (t : Task) (a : CollArgs) :
    Keeps [.free, .mem, .writes, .regs, .eventSeq, .errorSeq, .tasks, .reductions, .pcie,
      .outputs] s (State.closeDeadline s t a) := by
  unfold State.closeDeadline
  refine Keeps.ite (fun _ => ?_) (fun _ => ?_)
  exact Keeps.refl _ _
  split
  refine Keeps.ite (fun _ => ?_) (fun _ => ?_)
  refine Keeps.after (State.closeNow_keeps ..) ?_
  exact Keeps.refl _ _
  refine Keeps.after (State.closeLate_keeps ..) ?_
  exact Keeps.refl _ _
  refine Keeps.after (State.endsLate_keeps ..) ?_
  exact Keeps.refl _ _

/-- What State.combineNote may change. -/
theorem State.combineNote_keeps (s : State) (a : Arrival) (e : Combining) :
    Keeps [.mem, .writes, .regs, .tasks, .fabric, .combining, .outputs] s (State.combineNote s a e) := by
  unfold State.combineNote
  dsimp only
  refine Keeps.after (State.combineProgress_keeps ..) ?_
  refine Keeps.after (State.setCombining_keeps ..) ?_
  refine Keeps.after (State.freeArrival_keeps ..) ?_
  exact Keeps.refl _ _

/-- What State.combineOp may change. -/
theorem State.combineOp_keeps (s : State) (op : Nat) (k : Packet) :
    Keeps [.mem, .writes, .regs, .eventSeq, .tasks, .fabric, .combining, .power, .pcie,
      .outputs] s (State.combineOp s op k) := by
  unfold State.combineOp
  refine Keeps.ite (fun _ => ?_) (fun _ => ?_)
  refine State.combineIn_keeps (fun _ _ _ => ?_)
  refine Keeps.after (State.combineNote_keeps ..) ?_
  exact Keeps.refl _ _
  exact Keeps.refl _ _

/-- What State.closeComplete may change. -/
theorem State.closeComplete_keeps (s : State) (id : TaskId) :
    Keeps [.mem, .writes, .regs, .eventSeq, .errorSeq, .tasks, .reductions, .pcie,
      .outputs] s (State.closeComplete s id) := by
  unfold State.closeComplete
  dsimp only
  split
  exact Keeps.refl _ _
  split
  refine Keeps.ite (fun _ => ?_) (fun _ => ?_)
  refine Keeps.after (State.closeNow_keeps ..) ?_
  exact Keeps.refl _ _
  exact Keeps.refl _ _
  exact Keeps.refl _ _

/-- What State.broadcastEnds may change. -/
theorem State.broadcastEnds_keeps (s : State) (t : Task) :
    Keeps [.regs, .tasks] s (State.broadcastEnds s t) := by
  unfold State.broadcastEnds
  refine Keeps.after (State.collEnds_keeps ..) ?_
  refine Keeps.after (State.bump_keeps ..) ?_
  exact Keeps.refl _ _

/-- What State.broadcastProgress may change. -/
theorem State.broadcastProgress_keeps (s : State) (t : Task) (e : Combining) :
    Keeps [.mem, .writes, .regs, .tasks, .fabric, .combining, .outputs] s (State.broadcastProgress s t e) := by
  have hf : ∀ (l : List Arrival) (p q : State × Combining), Keeps [Part.mem, .writes, .regs, .tasks, .fabric,
      .combining, .outputs] s p.1 →
      l.foldl (fun p x => p.1.broadcastTake t p.2 x) p = q → Keeps [Part.mem, .writes, .regs, .tasks, .fabric,
      .combining, .outputs] s q.1 := by
    intro l
    induction l with
    | nil => intro p q h hq; rw [← hq]; exact h
    | cons x r ih => intro p q h hq; exact ih _ _ (Keeps.after (State.broadcastTake_keeps ..) h) hq
  unfold State.broadcastProgress
  dsimp only
  have h1 := hf e.held (s, { e with held := [] }) _ (Keeps.refl _ _) rfl
  split
  · refine Keeps.after (State.broadcastEnds_keeps ..) ?_
    refine Keeps.after (State.freeCombining_keeps ..) ?_
    exact Keeps.after (State.broadcastWrite_keeps ..) h1
  · exact Keeps.after (State.setCombining_keeps ..) h1

/-- A reset message: what taking it, the wake it triggers and its own effect may change. -/
theorem State.resetIn_keeps {ps : List Part} {s : State} {op : Nat} {k : Packet} {act : State → State}
    (h : ∀ t, Keeps ps t (act t)) (ho : [Part.mem, .writes, .regs, .eventSeq, .fabric, .power, .pcie,
      .outputs].all ps.contains = true := by rfl) :
    Keeps ps s (State.resetIn s op k act) := by
  have hs : ∀ t u, Keeps [Part.mem, .writes, .regs, .eventSeq, .fabric, .power, .pcie,
      .outputs] t u → Keeps ps t u := fun t u hk => Keeps.mono hk ho
  unfold State.resetIn
  split
  · refine Keeps.after (h _) (hs _ _ ?_) (List.all_eq_true.2 (fun p hp => List.contains_iff_mem.2 hp))
    refine Keeps.after (State.wakeTrigger_keeps ..) ?_
    exact Keeps.after (State.takeIn_keeps ..) (Keeps.refl _ _)
  · exact Keeps.refl _ _

/-- What State.closeStart may change. -/
theorem State.closeStart_keeps (s : State) (id : TaskId) :
    Keeps [.mem, .writes, .regs, .eventSeq, .errorSeq, .tasks, .reductions, .pcie,
      .outputs] s (State.closeStart s id) := by
  unfold State.closeStart
  dsimp only
  split
  exact Keeps.refl _ _
  refine Keeps.ite (fun _ => ?_) (fun _ => ?_)
  refine Keeps.after (State.collEnds_keeps ..) ?_
  exact Keeps.refl _ _
  split
  refine Keeps.after (State.collEnds_keeps ..) ?_
  exact Keeps.refl _ _
  refine Keeps.ite (fun _ => ?_) (fun _ => ?_)
  refine Keeps.after (State.setTask_keeps ..) ?_
  exact Keeps.refl _ _
  refine Keeps.after (State.closeNow_keeps ..) ?_
  exact Keeps.refl _ _

/-- What State.broadcastNote may change. -/
theorem State.broadcastNote_keeps (s : State) (a : Arrival) (e : Combining) :
    Keeps [.mem, .writes, .regs, .tasks, .fabric, .combining, .outputs] s (State.broadcastNote s a e) := by
  unfold State.broadcastNote
  dsimp only
  split
  refine Keeps.after (State.broadcastProgress_keeps ..) ?_
  exact Keeps.refl _ _
  refine Keeps.after (State.setCombining_keeps ..) ?_
  exact Keeps.refl _ _

/-- What State.broadcastStart may change. -/
theorem State.broadcastStart_keeps (s : State) (id : TaskId) :
    Keeps [.free, .mem, .writes, .regs, .tasks, .fabric, .combining, .outputs] s (State.broadcastStart s id) := by
  unfold State.broadcastStart
  dsimp only
  split
  exact Keeps.refl _ _
  refine Keeps.ite (fun _ => ?_) (fun _ => ?_)
  refine Keeps.after (State.broadcastEnds_keeps ..) ?_
  refine Keeps.foldl (fun _ _ => ?_) ?_
  refine Keeps.after (State.broadcastOn_keeps ..) ?_
  exact Keeps.refl _ _
  exact Keeps.refl _ _
  refine Keeps.ite (fun _ => ?_) (fun _ => ?_)
  refine Keeps.after (State.broadcastEnds_keeps ..) ?_
  exact Keeps.refl _ _
  split
  exact Keeps.refl _ _
  refine Keeps.ite (fun _ => ?_) (fun _ => ?_)
  exact Keeps.refl _ _
  refine Keeps.ite (fun _ => ?_) (fun _ => ?_)
  exact Keeps.refl _ _
  refine Keeps.after (State.broadcastProgress_keeps ..) ?_
  refine Keeps.after (State.undefine_keeps ..) ?_
  refine Keeps.after (State.combiningFor_keeps (by assumption)) ?_
  exact Keeps.refl _ _

/-- What State.dropEntryOf may change. -/
theorem State.dropEntryOf_keeps (s : State) (id : TaskId) :
    Keeps [.fabric, .combining] s (State.dropEntryOf s id) := by
  unfold State.dropEntryOf
  split
  refine Keeps.after (State.freeCombining_keeps ..) ?_
  exact Keeps.refl _ _
  exact Keeps.refl _ _

/-- What State.openReduction may change. -/
theorem State.openReduction_keeps (s : State) (id : TaskId) :
    Keeps [.mem, .writes, .tasks, .reductions] s (State.openReduction s id) := by
  unfold State.openReduction
  dsimp only
  split
  exact Keeps.refl _ _
  refine Keeps.ite (fun _ => ?_) (fun _ => ?_)
  refine Keeps.after (State.collEnds_keeps ..) ?_
  exact Keeps.refl _ _
  refine Keeps.ite (fun _ => ?_) (fun _ => ?_)
  refine Keeps.after (State.collEnds_keeps ..) ?_
  exact Keeps.refl _ _
  refine Keeps.ite (fun _ => ?_) (fun _ => ?_)
  refine Keeps.made_reductions ?_
  exact Keeps.refl _ _
  refine Keeps.after (State.collEnds_keeps ..) ?_
  refine Keeps.made_reductions ?_
  refine Keeps.after (State.memOps_keeps ..) ?_
  refine Keeps.made_reductions ?_
  exact Keeps.refl _ _

/-- What State.collDeadline may change. -/
theorem State.collDeadline_keeps (s : State) (id : TaskId) :
    Keeps [.free, .mem, .writes, .regs, .eventSeq, .errorSeq, .tasks, .fabric, .reductions, .combining, .pcie,
      .outputs] s (State.collDeadline s id) := by
  unfold State.collDeadline
  dsimp only
  split
  exact Keeps.refl _ _
  refine Keeps.ite (fun _ => ?_) (fun _ => ?_)
  exact Keeps.refl _ _
  split
  exact Keeps.refl _ _
  refine Keeps.after (State.closeDeadline_keeps ..) ?_
  exact Keeps.refl _ _
  refine Keeps.after (State.endsLate_keeps ..) ?_
  refine Keeps.after (State.dropEntryOf_keeps ..) ?_
  refine Keeps.after (State.undefine_keeps ..) ?_
  exact Keeps.refl _ _

/-- What State.bankCapWrite may change. -/
theorem State.bankCapWrite_keeps (s : State) (f : Field) (v : Nat) :
    Keeps [.regs, .memQueue] s (State.bankCapWrite s f v) := by
  unfold State.bankCapWrite
  dsimp only
  refine Keeps.after (State.regrant_keeps ..) ?_
  refine Keeps.ite (fun _ => ?_) (fun _ => ?_)
  refine Keeps.after (State.setRegs_keeps ..) ?_
  refine Keeps.after (State.setReg_keeps ..) ?_
  exact Keeps.refl _ _
  refine Keeps.after (State.setReg_keeps ..) ?_
  exact Keeps.refl _ _

/-- What State.putField may change. -/
theorem State.putField_keeps (s : State) (f : Field) (v : Nat) :
    Keeps [.mem, .writes, .regs, .eventSeq, .rings, .memQueue, .power, .pcie, .outputs] s (State.putField s f v) := by
  unfold State.putField
  dsimp only
  refine Keeps.ite (fun _ => ?_) (fun _ => ?_)
  refine Keeps.after (State.setRing_keeps ..) ?_
  exact Keeps.refl _ _
  refine Keeps.ite (fun _ => ?_) (fun _ => ?_)
  refine Keeps.after (State.setRing_keeps ..) ?_
  exact Keeps.refl _ _
  refine Keeps.ite (fun _ => ?_) (fun _ => ?_)
  refine Keeps.after (State.setRing_keeps ..) ?_
  exact Keeps.refl _ _
  refine Keeps.ite (fun _ => ?_) (fun _ => ?_)
  refine Keeps.after (State.setRing_keeps ..) ?_
  exact Keeps.refl _ _
  refine Keeps.ite (fun _ => ?_) (fun _ => ?_)
  refine Keeps.after (State.bankCapWrite_keeps ..) ?_
  exact Keeps.refl _ _
  refine Keeps.ite (fun _ => ?_) (fun _ => ?_)
  refine Keeps.after (State.rebudget_keeps ..) ?_
  refine Keeps.after (State.setReg_keeps ..) ?_
  exact Keeps.refl _ _
  refine Keeps.ite (fun _ => ?_) (fun _ => ?_)
  refine Keeps.ite (fun _ => ?_) (fun _ => ?_)
  refine Keeps.after (State.setReg_keeps ..) ?_
  refine Keeps.after (State.setReg_keeps ..) ?_
  exact Keeps.refl _ _
  refine Keeps.after (State.setReg_keeps ..) ?_
  exact Keeps.refl _ _
  refine Keeps.after (State.setReg_keeps ..) ?_
  exact Keeps.refl _ _

/-- What State.writeField may change. -/
theorem State.writeField_keeps (s : State) (off : Nat) (size : Nat) (value : Nat) (f : Field) :
    Keeps [.mem, .writes, .regs, .eventSeq, .rings, .memQueue, .power, .pcie,
      .outputs] s (State.writeField s off size value f) := by
  unfold State.writeField
  dsimp only
  refine Keeps.ite (fun _ => ?_) (fun _ => ?_)
  exact Keeps.refl _ _
  split
  refine Keeps.ite (fun _ => ?_) (fun _ => ?_)
  refine Keeps.after (State.putField_keeps ..) ?_
  exact Keeps.refl _ _
  exact Keeps.refl _ _
  refine Keeps.after (State.setReg_keeps ..) ?_
  exact Keeps.refl _ _
  exact Keeps.refl _ _

/-- What State.regWrite may change. -/
theorem State.regWrite_keeps (s : State) (off : Nat) (size : Nat) (value : Nat) :
    Keeps [.mem, .writes, .regs, .eventSeq, .rings, .memQueue, .power, .pcie,
      .outputs] s (State.regWrite s off size value) := by
  unfold State.regWrite
  refine Keeps.foldl (fun _ _ => ?_) ?_
  refine Keeps.after (State.writeField_keeps ..) ?_
  exact Keeps.refl _ _
  exact Keeps.refl _ _

/-- What State.clearRead may change. -/
theorem State.clearRead_keeps (s : State) (off : Nat) :
    Keeps [.regs] s (State.clearRead s off) := by
  unfold State.clearRead
  refine Keeps.foldl (fun _ _ => ?_) ?_
  refine Keeps.after (State.setReg_keeps ..) ?_
  exact Keeps.refl _ _
  exact Keeps.refl _ _

/-- What State.sendHost may change. -/
theorem State.sendHost_keeps (s : State) (t : Task) :
    Keeps [.free, .mem, .writes, .regs, .eventSeq, .tasks, .drift, .pcie, .outputs] s (State.sendHost s t) := by
  unfold State.sendHost
  dsimp only
  refine Keeps.after (State.applyResult_keeps ..) ?_
  refine Keeps.made_outputs ?_
  exact Keeps.refl _ _

/-- What State.bar0Read may change. -/
theorem State.bar0Read_keeps (s : State) (off : Nat) (size : Nat) :
    Keeps [.regs, .outputs] s (State.bar0Read s off size) := by
  unfold State.bar0Read
  refine Keeps.ite (fun _ => ?_) (fun _ => ?_)
  refine Keeps.after (State.emit_keeps ..) ?_
  refine Keeps.after (State.bump_keeps ..) ?_
  exact Keeps.refl _ _
  refine Keeps.ite (fun _ => ?_) (fun _ => ?_)
  refine Keeps.after (State.emit_keeps ..) ?_
  exact Keeps.refl _ _
  refine Keeps.ite (fun _ => ?_) (fun _ => ?_)
  refine Keeps.after (State.emit_keeps ..) ?_
  exact Keeps.refl _ _
  refine Keeps.after (State.emit_keeps ..) ?_
  refine Keeps.ite (fun _ => ?_) (fun _ => ?_)
  refine Keeps.after (State.clearRead_keeps ..) ?_
  exact Keeps.refl _ _
  exact Keeps.refl _ _

/-- What State.issueRead may change. -/
theorem State.issueRead_keeps (s : State) (t : Task) (a : HostArgs) (p : Nat × Nat) :
    Keeps [.pcie, .outputs] s (State.issueRead s t a p) := by
  unfold State.issueRead
  dsimp only
  refine Keeps.after (State.emit_keeps ..) ?_
  refine Keeps.made_pcie ?_
  exact Keeps.refl _ _

/-- What State.issueReads may change. -/
theorem State.issueReads_keeps (s : State) (t : Task) :
    Keeps [.tasks, .pcie, .outputs] s (State.issueReads s t) := by
  unfold State.issueReads
  dsimp only
  refine Keeps.after (State.setTask_keeps ..) ?_
  refine Keeps.foldl (fun _ _ => ?_) ?_
  refine Keeps.after (State.issueRead_keeps ..) ?_
  exact Keeps.refl _ _
  exact Keeps.refl _ _

/-- What State.resumeReads may change. -/
theorem State.resumeReads_keeps (s : State) :
    Keeps [.tasks, .pcie, .outputs] s (State.resumeReads s) := by
  unfold State.resumeReads
  refine Keeps.foldl (fun _ _ => ?_) ?_
  refine Keeps.after (State.issueReads_keeps ..) ?_
  exact Keeps.refl _ _
  exact Keeps.refl _ _

/-- What State.sendPending may change. -/
theorem State.sendPending_keeps (s : State) (v : Nat) :
    Keeps [.pcie, .outputs] s (State.sendPending s v) := by
  unfold State.sendPending
  dsimp only
  refine Keeps.ite (fun _ => ?_) (fun _ => ?_)
  refine Keeps.after (State.raiseVector_keeps ..) ?_
  refine Keeps.made_pcie ?_
  exact Keeps.refl _ _
  exact Keeps.refl _ _

/-- What State.sendAllPending may change. -/
theorem State.sendAllPending_keeps (s : State) :
    Keeps [.pcie, .outputs] s (State.sendAllPending s) := by
  unfold State.sendAllPending
  refine Keeps.foldl (fun _ _ => ?_) ?_
  refine Keeps.after (State.sendPending_keeps ..) ?_
  exact Keeps.refl _ _
  exact Keeps.refl _ _

/-- What State.configure may change. -/
theorem State.configure_keeps (s : State) (r : CfgRegister) (v : Nat) :
    Keeps [.pcie, .outputs] s (State.configure s r v) := by
  unfold State.configure
  dsimp only
  split
  refine Keeps.made_pcie ?_
  exact Keeps.refl _ _
  refine Keeps.made_pcie ?_
  exact Keeps.refl _ _
  refine Keeps.made_pcie ?_
  exact Keeps.refl _ _
  refine Keeps.made_pcie ?_
  exact Keeps.refl _ _
  refine Keeps.after (State.sendAllPending_keeps ..) ?_
  refine Keeps.made_pcie ?_
  exact Keeps.refl _ _
  refine Keeps.made_pcie ?_
  exact Keeps.refl _ _

/-- What State.configurationRequest may change. -/
theorem State.configurationRequest_keeps (s : State) (r : CfgRegister) (v : Nat) :
    Keeps [.pcie, .outputs] s (State.configurationRequest s r v) := by
  unfold State.configurationRequest
  refine Keeps.ite (fun _ => ?_) (fun _ => ?_)
  exact Keeps.refl _ _
  refine Keeps.ite (fun _ => ?_) (fun _ => ?_)
  refine Keeps.after (State.emit_keeps ..) ?_
  exact Keeps.refl _ _
  refine Keeps.after (State.configure_keeps ..) ?_
  exact Keeps.refl _ _

/-- What State.setMsix may change. -/
theorem State.setMsix_keeps (s : State) (e : MsixEntry) :
    Keeps [.pcie] s (State.setMsix s e) := by
  unfold State.setMsix
  dsimp only
  refine Keeps.made_pcie ?_
  exact Keeps.refl _ _

/-- What State.driftCfgWrite may change. -/
theorem State.driftCfgWrite_keeps (s : State) (value : Nat) :
    Keeps [.regs, .drift] s (State.driftCfgWrite s value) := by
  unfold State.driftCfgWrite
  dsimp only
  refine Keeps.made_drift ?_
  refine Keeps.foldl (fun _ _ => ?_) ?_
  refine Keeps.ite (fun _ => ?_) (fun _ => ?_)
  refine Keeps.after (State.setReg_keeps ..) ?_
  exact Keeps.refl _ _
  exact Keeps.refl _ _
  exact Keeps.refl _ _

/-- What State.readerDone may change. -/
theorem State.readerDone_keeps (s : State) (id : TaskId) :
    Keeps [.free, .mem, .writes, .regs, .eventSeq, .tasks, .drift, .pcie, .outputs] s (State.readerDone s id) := by
  unfold State.readerDone
  split
  refine Keeps.ite (fun _ => ?_) (fun _ => ?_)
  refine Keeps.after (State.applyResult_keeps ..) ?_
  exact Keeps.refl _ _
  exact Keeps.refl _ _
  exact Keeps.refl _ _

/-- What State.bar2Transfer may change. -/
theorem State.bar2Transfer_keeps (s : State) (off : Nat) (write : Option (List Byte)) (ep : Bool) (length : Nat) :
    Keeps [.mem, .writes, .outputs] s (State.bar2Transfer s off write ep length) := by
  unfold State.bar2Transfer
  split
  split
  refine Keeps.after (State.memOps_keeps ..) ?_
  exact Keeps.refl _ _
  refine Keeps.after (State.emit_keeps ..) ?_
  exact Keeps.refl _ _
  split
  refine Keeps.after (State.emit_keeps ..) ?_
  exact Keeps.refl _ _
  refine Keeps.after (State.emit_keeps ..) ?_
  exact Keeps.refl _ _

/-- What State.bar2Access may change. -/
theorem State.bar2Access_keeps (s : State) (off : Nat) (write : Option (List Byte)) (ep : Bool) (r : Bar2Reads) :
    Keeps [.free, .mem, .writes, .regs, .eventSeq, .errorSeq, .lanes, .corrections, .pcie, .binnacle,
      .outputs] s (State.bar2Access s off write ep r) := by
  unfold State.bar2Access
  refine Keeps.after (State.bar2Transfer_keeps ..) ?_
  refine Keeps.after (State.demandReads_keeps ..) ?_
  exact Keeps.refl _ _

/-- What State.readerFails may change. -/
theorem State.readerFails_keeps (s : State) (id : TaskId) (status : Nat) :
    Keeps [.free, .mem, .writes, .tasks, .fabric, .pcie] s (State.readerFails s id status) := by
  unfold State.readerFails
  split
  refine Keeps.after (State.setTask_keeps ..) ?_
  refine Keeps.after (State.dropRequests_keeps ..) ?_
  refine Keeps.after (State.undefine_keeps ..) ?_
  exact Keeps.refl _ _
  exact Keeps.refl _ _

/-- What State.hostTimeout may change. -/
theorem State.hostTimeout_keeps (s : State) (tag : Nat) :
    Keeps [.free, .mem, .writes, .regs, .tasks, .fabric, .pcie, .outputs] s (State.hostTimeout s tag) := by
  unfold State.hostTimeout
  split
  refine Keeps.ite (fun _ => ?_) (fun _ => ?_)
  refine Keeps.after (State.resumeReads_keeps ..) ?_
  refine Keeps.after (State.readerFails_keeps ..) ?_
  refine Keeps.after (State.bump_keeps ..) ?_
  exact Keeps.refl _ _
  exact Keeps.refl _ _
  exact Keeps.refl _ _

/-- What State.linkChanged may change. -/
theorem State.linkChanged_keeps (s : State) (speed : Nat) (width : Nat) (flit : Bool) :
    Keeps [.mem, .writes, .regs, .eventSeq, .pcie, .outputs] s (State.linkChanged s speed width flit) := by
  unfold State.linkChanged
  dsimp only
  refine Keeps.after (State.post_keeps ..) ?_
  refine Keeps.made_pcie ?_
  refine Keeps.after (State.setRegs_keeps ..) ?_
  exact Keeps.refl _ _

/-- What State.evqEnable may change. -/
theorem State.evqEnable_keeps (s : State) (enable : Bool) :
    Keeps [.regs] s (State.evqEnable s enable) := by
  unfold State.evqEnable
  refine Keeps.ite (fun _ => ?_) (fun _ => ?_)
  refine Keeps.after (State.setReg_keeps ..) ?_
  exact Keeps.refl _ _
  refine Keeps.ite (fun _ => ?_) (fun _ => ?_)
  exact Keeps.refl _ _
  refine Keeps.ite (fun _ => ?_) (fun _ => ?_)
  refine Keeps.after (State.setRegs_keeps ..) ?_
  exact Keeps.refl _ _
  refine Keeps.after (State.bump_keeps ..) ?_
  exact Keeps.refl _ _

/-- What State.featCommit may change. -/
theorem State.featCommit_keeps (s : State) :
    Keeps [.mem, .writes, .regs, .eventSeq, .pcie, .outputs] s (State.featCommit s) := by
  unfold State.featCommit
  dsimp only
  refine Keeps.ite (fun _ => ?_) (fun _ => ?_)
  exact Keeps.refl _ _
  refine Keeps.ite (fun _ => ?_) (fun _ => ?_)
  refine Keeps.after (State.setReg_keeps ..) ?_
  exact Keeps.refl _ _
  refine Keeps.after (State.post_keeps ..) ?_
  exact Keeps.refl _ _

/-- What State.toHost may change. -/
theorem State.toHost_keeps (s : State) (id : TaskId) :
    Keeps [.free, .mem, .writes, .regs, .eventSeq, .tasks, .drift, .pcie, .outputs] s (State.toHost s id) := by
  unfold State.toHost
  split
  refine Keeps.after (State.sendHost_keeps ..) ?_
  exact Keeps.refl _ _
  exact Keeps.refl _ _

/-- What State.msixHoldoffEnd may change. -/
theorem State.msixHoldoffEnd_keeps (s : State) (v : Nat) :
    Keeps [.pcie, .outputs] s (State.msixHoldoffEnd s v) := by
  unfold State.msixHoldoffEnd
  dsimp only
  split
  refine Keeps.ite (fun _ => ?_) (fun _ => ?_)
  refine Keeps.ite (fun _ => ?_) (fun _ => ?_)
  refine Keeps.after (State.raiseVector_keeps ..) ?_
  refine Keeps.made_pcie ?_
  exact Keeps.refl _ _
  refine Keeps.made_pcie ?_
  exact Keeps.refl _ _
  exact Keeps.refl _ _
  exact Keeps.refl _ _

/-- What State.evqHead may change. -/
theorem State.evqHead_keeps (s : State) (head : Nat) :
    Keeps [.regs] s (State.evqHead s head) := by
  unfold State.evqHead
  dsimp only
  refine Keeps.ite (fun _ => ?_) (fun _ => ?_)
  refine Keeps.after (State.setReg_keeps ..) ?_
  exact Keeps.refl _ _
  refine Keeps.after (State.bump_keeps ..) ?_
  exact Keeps.refl _ _

/-- What State.msixUnmask may change. -/
theorem State.msixUnmask_keeps (s : State) (v : Nat) :
    Keeps [.pcie, .outputs] s (State.msixUnmask s v) := by
  unfold State.msixUnmask
  dsimp only
  refine Keeps.after (State.sendPending_keeps ..) ?_
  refine Keeps.after (State.setMsix_keeps ..) ?_
  exact Keeps.refl _ _

/-- What State.landRead may change. -/
theorem State.landRead_keeps (s : State) (r : HostRead) (ep : Bool) (data : List Byte) :
    Keeps [.mem, .writes, .pcie] s (State.landRead s r ep data) := by
  unfold State.landRead
  dsimp only
  refine Keeps.made_pcie ?_
  refine Keeps.after (State.memOps_keeps ..) ?_
  exact Keeps.refl _ _

/-- What State.fromHost may change. -/
theorem State.fromHost_keeps (s : State) (id : TaskId) :
    Keeps [.free, .mem, .writes, .regs, .eventSeq, .tasks, .drift, .pcie, .outputs] s (State.fromHost s id) := by
  unfold State.fromHost
  split
  refine Keeps.ite (fun _ => ?_) (fun _ => ?_)
  refine Keeps.after (State.readerDone_keeps ..) ?_
  refine Keeps.after (State.issueReads_keeps ..) ?_
  exact Keeps.refl _ _
  exact Keeps.refl _ _
  exact Keeps.refl _ _

/-- What State.msixWrite may change. -/
theorem State.msixWrite_keeps (s : State) (off : Nat) (size : Nat) (value : Nat) :
    Keeps [.pcie, .outputs] s (State.msixWrite s off size value) := by
  unfold State.msixWrite
  dsimp only
  refine Keeps.after (State.sendPending_keeps ..) ?_
  refine Keeps.after (State.setMsix_keeps ..) ?_
  exact Keeps.refl _ _

/-- What State.hostCompletion may change. -/
theorem State.hostCompletion_keeps (s : State) (tag : Nat) (status : CplStatus) (ep : Bool) (data : List Byte) :
    Keeps [.free, .mem, .writes, .regs, .eventSeq, .tasks, .drift, .fabric, .pcie,
      .outputs] s (State.hostCompletion s tag status ep data) := by
  unfold State.hostCompletion
  dsimp only
  split
  refine Keeps.made_pcie ?_
  exact Keeps.refl _ _
  split
  refine Keeps.after (State.readerDone_keeps ..) ?_
  refine Keeps.after (State.resumeReads_keeps ..) ?_
  refine Keeps.after (State.landRead_keeps ..) ?_
  exact Keeps.refl _ _
  refine Keeps.after (State.resumeReads_keeps ..) ?_
  refine Keeps.after (State.readerFails_keeps ..) ?_
  exact Keeps.refl _ _

/-- What State.bar0Write may change. -/
theorem State.bar0Write_keeps (s : State) (off : Nat) (size : Nat) (value : Nat) :
    Keeps [.mem, .writes, .regs, .eventSeq, .rings, .memQueue, .power, .pcie,
      .outputs] s (State.bar0Write s off size value) := by
  unfold State.bar0Write
  refine Keeps.ite (fun _ => ?_) (fun _ => ?_)
  refine Keeps.after (State.bump_keeps ..) ?_
  exact Keeps.refl _ _
  refine Keeps.ite (fun _ => ?_) (fun _ => ?_)
  exact Keeps.refl _ _
  refine Keeps.ite (fun _ => ?_) (fun _ => ?_)
  refine Keeps.after (State.msixWrite_keeps ..) ?_
  exact Keeps.refl _ _
  refine Keeps.after (State.regWrite_keeps ..) ?_
  exact Keeps.refl _ _

/-- What State.passBlock may change. -/
theorem State.passBlock_keeps (s : State) (x : Stream) :
    Keeps [.free, .regs, .streams, .memQueue, .fabric, .outputs] s (State.passBlock s x) := by
  unfold State.passBlock
  refine Keeps.after (State.consumeBlock_keeps ..) ?_
  refine Keeps.made_free ?_
  exact Keeps.refl _ _

/-- What State.takeBlock may change. -/
theorem State.takeBlock_keeps (s : State) (die : Nat) (slot : Nat) (remote : List RemoteReply) :
    Keeps [.free, .mem, .writes, .regs, .streams, .memQueue, .fabric, .pcie,
      .outputs] s (State.takeBlock s die slot remote).1 := by
  unfold State.takeBlock
  dsimp only
  split
  dsimp only
  exact Keeps.refl _ _
  split
  dsimp only
  refine Keeps.after (State.passBlock_keeps ..) ?_
  exact Keeps.refl _ _
  split
  dsimp only
  refine Keeps.after (State.streamArrival_keeps ..) ?_
  refine Keeps.after (State.askBlock_keeps ..) ?_
  exact Keeps.refl _ _
  split
  dsimp only
  refine Keeps.after (State.passBlock_keeps ..) ?_
  refine Keeps.after (State.streamArrival_keeps ..) ?_
  refine Keeps.after (State.askBlock_keeps ..) ?_
  exact Keeps.refl _ _
  dsimp only
  refine Keeps.after (State.streamArrival_keeps ..) ?_
  refine Keeps.after (State.askBlock_keeps ..) ?_
  exact Keeps.refl _ _

/-- The same of a result that is named. -/
theorem State.takeBlock_keeps_eq {s : State} {die : Nat} {slot : Nat} {remote : List RemoteReply} {t0 : State} {y : _}
    (h : State.takeBlock s die slot remote = (t0, y)) : Keeps [.free, .mem, .writes, .regs, .streams, .memQueue,
      .fabric, .pcie, .outputs] s t0 := by
  have hk := State.takeBlock_keeps s die slot remote
  rw [h] at hk
  exact hk

/-- What State.takeBlocks may change. -/
theorem State.takeBlocks_keeps (s : State) (die slot : Nat) (remote : List RemoteReply) (spec : Bool) (n : Nat)
    (l : List Taken) : Keeps [.free, .mem, .writes, .regs, .streams, .memQueue, .fabric, .pcie,
      .outputs] s (State.takeBlocks s die slot remote spec n l).1 := by
  induction n generalizing s l with
  | zero => exact Keeps.refl _ _
  | succ n ih =>
    unfold State.takeBlocks
    split
    · exact State.takeBlock_keeps_eq (by assumption)
    · split
      · exact State.takeBlock_keeps_eq (by assumption)
      · exact Keeps.after (ih _ _) (State.takeBlock_keeps_eq (by assumption))

/-- The same of a result that is named. -/
theorem State.takeBlocks_keeps_eq {s : State} {die slot : Nat} {remote : List RemoteReply} {spec : Bool} {n : Nat}
    {l : List Taken} {t0 : State} {y : _} (h : State.takeBlocks s die slot remote spec n l = (t0, y)) :
    Keeps [.free, .mem, .writes, .regs, .streams, .memQueue, .fabric, .pcie, .outputs] s t0 := by
  have hk := State.takeBlocks_keeps s die slot remote spec n l
  rw [h] at hk
  exact hk

/-- What State.consumeStep may change. -/
theorem State.consumeStep_keeps (s : State) (t : Task) (slot : Nat) (remote : List RemoteReply) (n : Nat) (run : State →
      List Taken → Result) :
    Keeps [.free, .mem, .writes, .regs, .eventSeq, .tasks, .streams, .memQueue, .drift, .fabric, .pcie,
      .outputs] s (State.consumeStep s t slot remote n run) := by
  unfold State.consumeStep
  split
  refine Keeps.after (State.applyResult_keeps ..) ?_
  refine Keeps.after (State.takeBlocks_keeps_eq (by assumption)) ?_
  exact Keeps.refl _ _
  refine Keeps.after (State.setTask_keeps ..) ?_
  refine Keeps.after (State.takeBlocks_keeps_eq (by assumption)) ?_
  exact Keeps.refl _ _

/-- What State.gatherStep may change. -/
theorem State.gatherStep_keeps (s : State) (id : TaskId) (remote : List RemoteReply) :
    Keeps [.free, .mem, .writes, .regs, .eventSeq, .tasks, .streams, .memQueue, .drift, .fabric, .pcie,
      .outputs] s (State.gatherStep s id remote) := by
  unfold State.gatherStep
  dsimp only
  split
  refine Keeps.ite (fun _ => ?_) (fun _ => ?_)
  refine Keeps.after (State.consumeStep_keeps ..) ?_
  exact Keeps.refl _ _
  refine Keeps.after (State.applyResult_keeps ..) ?_
  exact Keeps.refl _ _
  exact Keeps.refl _ _

/-- What State.segStep may change. -/
theorem State.segStep_keeps (s : State) (id : TaskId) (remote : List RemoteReply) :
    Keeps [.free, .mem, .writes, .regs, .eventSeq, .tasks, .streams, .memQueue, .drift, .fabric, .pcie,
      .outputs] s (State.segStep s id remote) := by
  unfold State.segStep
  dsimp only
  split
  refine Keeps.ite (fun _ => ?_) (fun _ => ?_)
  refine Keeps.after (State.consumeStep_keeps ..) ?_
  exact Keeps.refl _ _
  refine Keeps.after (State.applyResult_keeps ..) ?_
  exact Keeps.refl _ _
  exact Keeps.refl _ _

/-- What State.arrayStep may change. -/
theorem State.arrayStep_keeps (s : State) (id : TaskId) (op : Nat) (run : Task → Result) :
    Keeps [.free, .mem, .writes, .regs, .eventSeq, .tasks, .drift, .pcie,
      .outputs] s (State.arrayStep s id op run) := by
  unfold State.arrayStep
  split
  refine Keeps.ite (fun _ => ?_) (fun _ => ?_)
  refine Keeps.after (State.engineStep_keeps ..) ?_
  exact Keeps.refl _ _
  refine Keeps.after (State.engineStep_keeps ..) ?_
  exact Keeps.refl _ _
  exact Keeps.refl _ _

/-- What State.runFirmware may change. -/
theorem State.runFirmware_keeps (s : State) (image : List Byte) :
    Keeps [.mem, .writes, .regs, .boot] s (State.runFirmware s image) := by
  unfold State.runFirmware
  dsimp only
  refine Keeps.after (State.setReg_keeps ..) ?_
  refine Keeps.after (State.extendMeasure_keeps ..) ?_
  refine Keeps.after (State.memOps_keeps ..) ?_
  refine Keeps.made_boot ?_
  exact Keeps.refl _ _

/-- What State.commitSvn may change. -/
theorem State.commitSvn_keeps (s : State) :
    Keeps [.binnacle] s (State.commitSvn s) := by
  unfold State.commitSvn
  dsimp only
  refine Keeps.made_binnacle ?_
  exact Keeps.refl _ _

/-- What State.doeReply may change. -/
theorem State.doeReply_keeps (s : State) (code : Nat) (result : Nat) (body : List Byte) :
    Keeps [.outputs] s (State.doeReply s code result body) := by
  unfold State.doeReply
  refine Keeps.after (State.emit_keeps ..) ?_
  exact Keeps.refl _ _

/-- A DOE request that is turned away leaves by the connector only. -/
theorem State.doeRequest_keeps {ps : List Part} {s t : State} {code : Nat} {lengthOk : Bool} (h : Keeps ps s t)
    (ho : ps.contains .outputs = true := by rfl) : Keeps ps s (State.doeRequest s code lengthOk t) := by
  have ha : [Part.outputs].all ps.contains = true := by simp only [List.all_cons, List.all_nil, ho, Bool.and_self]
  unfold State.doeRequest
  split
  · exact Keeps.refl _ _
  · split
    · exact Keeps.after (State.emit_keeps ..) (Keeps.refl _ _) ha
    · split
      · exact Keeps.after (State.doeReply_keeps ..) (Keeps.refl _ _) ha
      · exact h

/-- What State.enterRecovery may change. -/
theorem State.enterRecovery_keeps (s : State) (reason : Nat) :
    Keeps [.mem, .writes, .regs, .boot] s (State.enterRecovery s reason) := by
  unfold State.enterRecovery
  dsimp only
  refine Keeps.after (State.setRegs_keeps ..) ?_
  refine Keeps.after (State.memOps_keeps ..) ?_
  refine Keeps.made_boot ?_
  exact Keeps.refl _ _

/-- What State.bootImage may change. -/
theorem State.bootImage_keeps (s : State) :
    Keeps [.free, .mem, .writes, .regs, .boot] s (State.bootImage s) := by
  unfold State.bootImage
  dsimp only
  refine Keeps.ite (fun _ => ?_) (fun _ => ?_)
  refine Keeps.after (State.enterRecovery_keeps ..) ?_
  refine Keeps.after (State.draw_keeps ..) ?_
  exact Keeps.refl _ _
  refine Keeps.ite (fun _ => ?_) (fun _ => ?_)
  refine Keeps.after (State.runFirmware_keeps ..) ?_
  refine Keeps.after (State.extendMeasure_keeps ..) ?_
  exact Keeps.refl _ _
  refine Keeps.after (State.enterRecovery_keeps ..) ?_
  exact Keeps.refl _ _

/-- What State.flashWritten may change. -/
theorem State.flashWritten_keeps (s : State) (ok : Bool) :
    Keeps [.boot, .binnacle] s (State.flashWritten s ok) := by
  unfold State.flashWritten
  dsimp only
  split
  refine Keeps.made_boot_binnacle ?_
  exact Keeps.refl _ _
  exact Keeps.refl _ _

/-- What State.bootGoesOn may change. -/
theorem State.bootGoesOn_keeps (s : State) :
    Keeps [.free, .mem, .writes, .regs, .boot, .binnacle] s (State.bootGoesOn s) := by
  unfold State.bootGoesOn
  dsimp only
  refine Keeps.ite (fun _ => ?_) (fun _ => ?_)
  refine Keeps.after (State.bootImage_keeps ..) ?_
  refine Keeps.made_boot ?_
  refine Keeps.after (State.flashWritten_keeps ..) ?_
  exact Keeps.refl _ _
  exact Keeps.refl _ _

/-- What State.getNonce may change. -/
theorem State.getNonce_keeps (s : State) (nonce : Nonce) :
    Keeps [.pcie, .outputs] s (State.getNonce s nonce) := by
  unfold State.getNonce
  dsimp only
  refine Keeps.after (State.doeReply_keeps ..) ?_
  refine Keeps.made_pcie ?_
  exact Keeps.refl _ _

/-- What State.doeRelease may change. -/
theorem State.doeRelease_keeps (s : State) (sig : List Byte) :
    Keeps [.mem, .writes, .regs, .eventSeq, .pcie, .binnacle, .outputs] s (State.doeRelease s sig) := by
  unfold State.doeRelease
  dsimp only
  split
  refine Keeps.after (State.doeReply_keeps ..) ?_
  refine Keeps.made_pcie ?_
  exact Keeps.refl _ _
  refine Keeps.ite (fun _ => ?_) (fun _ => ?_)
  refine Keeps.after (State.doeReply_keeps ..) ?_
  refine Keeps.made_pcie ?_
  exact Keeps.refl _ _
  refine Keeps.ite (fun _ => ?_) (fun _ => ?_)
  refine Keeps.after (State.doeReply_keeps ..) ?_
  refine Keeps.made_pcie ?_
  exact Keeps.refl _ _
  refine Keeps.after (State.doeReply_keeps ..) ?_
  refine Keeps.after (State.post_keeps ..) ?_
  refine Keeps.after (State.extendMeasure_keeps ..) ?_
  refine Keeps.made_pcie_binnacle ?_
  exact Keeps.refl _ _

/-- What State.updateFails may change. -/
theorem State.updateFails_keeps (s : State) (reason : Nat) :
    Keeps [.mem, .writes, .regs, .eventSeq, .pcie, .outputs] s (State.updateFails s reason) := by
  unfold State.updateFails
  refine Keeps.after (State.post_keeps ..) ?_
  refine Keeps.after (State.setRegs_keeps ..) ?_
  exact Keeps.refl _ _

/-- What State.recoverWrite may change. -/
theorem State.recoverWrite_keeps (s : State) :
    Keeps [.regs, .boot] s (State.recoverWrite s) := by
  unfold State.recoverWrite
  dsimp only
  refine Keeps.ite (fun _ => ?_) (fun _ => ?_)
  exact Keeps.refl _ _
  refine Keeps.ite (fun _ => ?_) (fun _ => ?_)
  refine Keeps.after (State.setReg_keeps ..) ?_
  refine Keeps.made_boot ?_
  exact Keeps.refl _ _
  refine Keeps.after (State.setReg_keeps ..) ?_
  exact Keeps.refl _ _

/-- What State.bootIdentity may change. -/
theorem State.bootIdentity_keeps (s : State) :
    Keeps [.mem, .writes, .regs, .eventSeq, .pcie, .boot, .outputs] s (State.bootIdentity s) := by
  unfold State.bootIdentity
  dsimp only
  refine Keeps.ite (fun _ => ?_) (fun _ => ?_)
  refine Keeps.after (State.setRegs_keeps ..) ?_
  refine Keeps.made_boot ?_
  refine Keeps.after (State.extendMeasure_keeps ..) ?_
  refine Keeps.after (State.setRegs_keeps ..) ?_
  exact Keeps.refl _ _
  refine Keeps.after (State.post_keeps ..) ?_
  refine Keeps.after (State.setRegs_keeps ..) ?_
  refine Keeps.made_boot ?_
  refine Keeps.after (State.extendMeasure_keeps ..) ?_
  refine Keeps.after (State.setRegs_keeps ..) ?_
  exact Keeps.refl _ _

/-- What State.updateDone may change. -/
theorem State.updateDone_keeps (s : State) (ok : Bool) :
    Keeps [.mem, .writes, .regs, .eventSeq, .pcie, .boot, .binnacle, .outputs] s (State.updateDone s ok) := by
  unfold State.updateDone
  dsimp only
  split
  exact Keeps.refl _ _
  refine Keeps.ite (fun _ => ?_) (fun _ => ?_)
  exact Keeps.refl _ _
  refine Keeps.ite (fun _ => ?_) (fun _ => ?_)
  refine Keeps.after (State.flashWritten_keeps ..) ?_
  exact Keeps.refl _ _
  refine Keeps.ite (fun _ => ?_) (fun _ => ?_)
  refine Keeps.after (State.post_keeps ..) ?_
  refine Keeps.after (State.setRegs_keeps ..) ?_
  refine Keeps.after (State.flashWritten_keeps ..) ?_
  exact Keeps.refl _ _
  refine Keeps.after (State.updateFails_keeps ..) ?_
  refine Keeps.after (State.flashWritten_keeps ..) ?_
  exact Keeps.refl _ _

/-- What State.enrolKey may change. -/
theorem State.enrolKey_keeps (s : State) (key : List Byte) :
    Keeps [.mem, .writes, .regs, .eventSeq, .pcie, .binnacle, .outputs] s (State.enrolKey s key) := by
  unfold State.enrolKey
  dsimp only
  refine Keeps.after (State.post_keeps ..) ?_
  refine Keeps.after (State.extendMeasure_keeps ..) ?_
  refine Keeps.made_binnacle ?_
  exact Keeps.refl _ _

/-- What State.recoveryWritten may change. -/
theorem State.recoveryWritten_keeps (s : State) (ok : Bool) :
    Keeps [.mem, .writes, .regs, .eventSeq, .errorSeq, .chart, .load, .unloadWaiting, .zeroing, .rings, .tasks,
      .signals, .jobs, .streams, .memQueue, .tables, .drift, .lanes, .corrections, .scrubbed, .bankQuiet, .fabric,
      .reductions, .combining, .sysreset, .power, .pcie, .boot, .binnacle] s (State.recoveryWritten s ok) := by
  unfold State.recoveryWritten
  dsimp only
  split
  exact Keeps.refl _ _
  refine Keeps.ite (fun _ => ?_) (fun _ => ?_)
  exact Keeps.refl _ _
  refine Keeps.ite (fun _ => ?_) (fun _ => ?_)
  refine Keeps.after (State.moduleReset_keeps ..) ?_
  refine Keeps.after (State.flashWritten_keeps ..) ?_
  exact Keeps.refl _ _
  refine Keeps.after (State.setRegs_keeps ..) ?_
  refine Keeps.after (State.flashWritten_keeps ..) ?_
  exact Keeps.refl _ _

/-- What State.doeEnroll may change. -/
theorem State.doeEnroll_keeps (s : State) (key : List Byte) :
    Keeps [.mem, .writes, .regs, .eventSeq, .pcie, .binnacle, .outputs] s (State.doeEnroll s key) := by
  unfold State.doeEnroll
  refine Keeps.ite (fun _ => ?_) (fun _ => ?_)
  refine Keeps.after (State.doeReply_keeps ..) ?_
  exact Keeps.refl _ _
  refine Keeps.ite (fun _ => ?_) (fun _ => ?_)
  refine Keeps.after (State.doeReply_keeps ..) ?_
  exact Keeps.refl _ _
  refine Keeps.after (State.doeReply_keeps ..) ?_
  refine Keeps.after (State.enrolKey_keeps ..) ?_
  exact Keeps.refl _ _

/-- What State.bootRom may change. -/
theorem State.bootRom_keeps (s : State) :
    Keeps [.free, .mem, .writes, .regs, .eventSeq, .pcie, .boot, .outputs] s (State.bootRom s) := by
  unfold State.bootRom
  dsimp only
  refine Keeps.ite (fun _ => ?_) (fun _ => ?_)
  refine Keeps.ite (fun _ => ?_) (fun _ => ?_)
  refine Keeps.made_boot ?_
  refine Keeps.after (State.bootIdentity_keeps ..) ?_
  exact Keeps.refl _ _
  refine Keeps.after (State.bootImage_keeps ..) ?_
  refine Keeps.after (State.bootIdentity_keeps ..) ?_
  exact Keeps.refl _ _
  exact Keeps.refl _ _

/-- What State.updateWrite may change. -/
theorem State.updateWrite_keeps (s : State) :
    Keeps [.mem, .writes, .regs, .eventSeq, .pcie, .boot, .outputs] s (State.updateWrite s) := by
  unfold State.updateWrite
  dsimp only
  refine Keeps.ite (fun _ => ?_) (fun _ => ?_)
  exact Keeps.refl _ _
  refine Keeps.ite (fun _ => ?_) (fun _ => ?_)
  refine Keeps.after (State.setRegs_keeps ..) ?_
  refine Keeps.made_boot ?_
  exact Keeps.refl _ _
  refine Keeps.after (State.updateFails_keeps ..) ?_
  exact Keeps.refl _ _

/-- What State.mgmtReply may change. -/
theorem State.mgmtReply_keeps (s : State) (r : MgmtRequest) (code : Nat) (result : Nat) (body : List Byte) :
    Keeps [.regs, .fabric, .outputs] s (State.mgmtReply s r code result body) := by
  unfold State.mgmtReply
  dsimp only
  split
  refine Keeps.after (State.sendPacket_keeps ..) ?_
  exact Keeps.refl _ _
  refine Keeps.after (State.emit_keeps ..) ?_
  exact Keeps.refl _ _

/-- What State.mgmtValues may change. -/
theorem State.mgmtValues_keeps (s : State) (r : MgmtRequest) (code : Nat) (values : List Nat) :
    Keeps [.regs, .fabric, .outputs] s (State.mgmtValues s r code values) := by
  unfold State.mgmtValues
  refine Keeps.after (State.mgmtReply_keeps ..) ?_
  exact Keeps.refl _ _

/-- What State.recordRemoval may change. -/
theorem State.recordRemoval_keeps (s : State) (cause : Nat) :
    Keeps [.binnacle] s (State.recordRemoval s cause) := by
  unfold State.recordRemoval
  dsimp only
  refine Keeps.made_binnacle ?_
  exact Keeps.refl _ _

/-- What State.setCarrier may change. -/
theorem State.setCarrier_keeps (s : State) (c : Carrier) :
    Keeps [.carrier] s (State.setCarrier s c) := by
  unfold State.setCarrier
  refine Keeps.made_carrier ?_
  exact Keeps.refl _ _

/-- What State.railsOff may change. -/
theorem State.railsOff_keeps (s : State) (p : PowerState) :
    Keeps [.mem, .writes, .regs, .eventSeq, .errorSeq, .chart, .load, .unloadWaiting, .zeroing, .rings, .tasks,
      .signals, .jobs, .streams, .memQueue, .tables, .drift, .lanes, .corrections, .scrubbed, .bankQuiet, .fabric,
      .reductions, .combining, .sysreset, .power, .pcie, .boot, .carrier] s (State.railsOff s p) := by
  unfold State.railsOff
  dsimp only
  refine Keeps.after (State.setCarrier_keeps ..) ?_
  refine Keeps.made_power ?_
  refine Keeps.after (State.moduleReset_keeps ..) ?_
  exact Keeps.refl _ _

/-- What State.latchUnderPower may change. -/
theorem State.latchUnderPower_keeps (s : State) :
    Keeps [.mem, .writes, .regs, .eventSeq, .errorSeq, .chart, .load, .unloadWaiting, .zeroing, .rings, .tasks,
      .signals, .jobs, .streams, .memQueue, .tables, .drift, .lanes, .corrections, .scrubbed, .bankQuiet, .fabric,
      .reductions, .combining, .sysreset, .power, .pcie, .boot, .binnacle, .carrier] s (State.latchUnderPower s) := by
  unfold State.latchUnderPower
  dsimp only
  refine Keeps.ite (fun _ => ?_) (fun _ => ?_)
  refine Keeps.after (State.recordRemoval_keeps ..) ?_
  refine Keeps.after (State.railsOff_keeps ..) ?_
  refine Keeps.after (State.setCarrier_keeps ..) ?_
  exact Keeps.refl _ _
  refine Keeps.after (State.setCarrier_keeps ..) ?_
  exact Keeps.refl _ _

/-- A management request that is turned away is answered only. -/
theorem State.mgmtRequest_keeps {ps : List Part} {s t : State} {r : MgmtRequest} {code : Nat} {lengthOk : Bool}
    (h : Keeps ps s t) (ho : [Part.regs, .fabric, .outputs].all ps.contains = true := by rfl) :
    Keeps ps s (State.mgmtRequest s r code lengthOk t) := by
  unfold State.mgmtRequest
  split
  · exact Keeps.refl _ _
  · dsimp only
    repeat' first
      | exact h
      | exact Keeps.after (State.mgmtReply_keeps ..) (Keeps.refl _ _) ho
      | split

/-- What State.setIdentify may change. -/
theorem State.setIdentify_keeps (s : State) (r : MgmtRequest) :
    Keeps [.regs, .fabric, .carrier, .outputs] s (State.setIdentify s r) := by
  unfold State.setIdentify
  dsimp only
  refine State.mgmtRequest_keeps ?_
  refine Keeps.after (State.mgmtReply_keeps ..) ?_
  refine Keeps.after (State.setCarrier_keeps ..) ?_
  exact Keeps.refl _ _

/-- What State.startSequence may change. -/
theorem State.startSequence_keeps (s : State) :
    Keeps [.carrier] s (State.startSequence s) := by
  unfold State.startSequence
  dsimp only
  refine Keeps.after (State.setCarrier_keeps ..) ?_
  exact Keeps.refl _ _

/-- What State.mgmtEnroll may change. -/
theorem State.mgmtEnroll_keeps (s : State) (r : MgmtRequest) :
    Keeps [.mem, .writes, .regs, .eventSeq, .fabric, .pcie, .binnacle, .outputs] s (State.mgmtEnroll s r) := by
  unfold State.mgmtEnroll
  refine State.mgmtRequest_keeps ?_
  refine Keeps.ite (fun _ => ?_) (fun _ => ?_)
  refine Keeps.after (State.mgmtReply_keeps ..) ?_
  exact Keeps.refl _ _
  refine Keeps.ite (fun _ => ?_) (fun _ => ?_)
  refine Keeps.after (State.mgmtReply_keeps ..) ?_
  exact Keeps.refl _ _
  refine Keeps.after (State.mgmtReply_keeps ..) ?_
  refine Keeps.after (State.enrolKey_keeps ..) ?_
  exact Keeps.refl _ _

/-- What State.attentionPress may change. -/
theorem State.attentionPress_keeps (s : State) :
    Keeps [.carrier, .outputs] s (State.attentionPress s) := by
  unfold State.attentionPress
  dsimp only
  refine Keeps.ite (fun _ => ?_) (fun _ => ?_)
  refine Keeps.after (State.emit_keeps ..) ?_
  refine Keeps.after (State.setCarrier_keeps ..) ?_
  exact Keeps.refl _ _
  exact Keeps.refl _ _

/-- What State.handleHot may change. -/
theorem State.handleHot_keeps (s : State) (celsius : Nat) :
    Keeps [.carrier] s (State.handleHot s celsius) := by
  unfold State.handleHot
  dsimp only
  refine Keeps.ite (fun _ => ?_) (fun _ => ?_)
  refine Keeps.after (State.setCarrier_keeps ..) ?_
  exact Keeps.refl _ _
  exact Keeps.refl _ _

/-- What State.setAutoOn may change. -/
theorem State.setAutoOn_keeps (s : State) (r : MgmtRequest) :
    Keeps [.regs, .fabric, .binnacle, .outputs] s (State.setAutoOn s r) := by
  unfold State.setAutoOn
  dsimp only
  refine State.mgmtRequest_keeps ?_
  refine Keeps.after (State.mgmtReply_keeps ..) ?_
  refine Keeps.made_binnacle ?_
  exact Keeps.refl _ _

/-- What State.handleCool may change. -/
theorem State.handleCool_keeps (s : State) (celsius : Nat) :
    Keeps [.carrier] s (State.handleCool s celsius) := by
  unfold State.handleCool
  dsimp only
  refine Keeps.ite (fun _ => ?_) (fun _ => ?_)
  refine Keeps.after (State.setCarrier_keeps ..) ?_
  exact Keeps.refl _ _
  exact Keeps.refl _ _

/-- What State.attentionLongPress may change. -/
theorem State.attentionLongPress_keeps (s : State) :
    Keeps [.carrier, .outputs] s (State.attentionLongPress s) := by
  unfold State.attentionLongPress
  dsimp only
  refine Keeps.ite (fun _ => ?_) (fun _ => ?_)
  refine Keeps.after (State.emit_keeps ..) ?_
  refine Keeps.after (State.setCarrier_keeps ..) ?_
  exact Keeps.refl _ _
  exact Keeps.refl _ _

/-- What State.powerOn may change. -/
theorem State.powerOn_keeps (s : State) (r : MgmtRequest) :
    Keeps [.regs, .fabric, .carrier, .outputs] s (State.powerOn s r) := by
  unfold State.powerOn
  refine State.mgmtRequest_keeps ?_
  refine Keeps.ite (fun _ => ?_) (fun _ => ?_)
  refine Keeps.after (State.mgmtReply_keeps ..) ?_
  exact Keeps.refl _ _
  refine Keeps.ite (fun _ => ?_) (fun _ => ?_)
  refine Keeps.after (State.mgmtReply_keeps ..) ?_
  refine Keeps.after (State.startSequence_keeps ..) ?_
  exact Keeps.refl _ _
  refine Keeps.after (State.mgmtReply_keeps ..) ?_
  exact Keeps.refl _ _

/-- What State.inputCalm may change. -/
theorem State.inputCalm_keeps (s : State) :
    Keeps [.carrier] s (State.inputCalm s) := by
  unfold State.inputCalm
  dsimp only
  refine Keeps.after (State.setCarrier_keeps ..) ?_
  exact Keeps.refl _ _

/-- What State.setInput may change. -/
theorem State.setInput_keeps (s : State) (vin : Nat) :
    Keeps [.mem, .writes, .regs, .eventSeq, .power, .pcie, .carrier, .outputs] s (State.setInput s vin) := by
  unfold State.setInput
  dsimp only
  refine Keeps.ite (fun _ => ?_) (fun _ => ?_)
  refine Keeps.after (State.rebudget_keeps ..) ?_
  refine Keeps.after (State.setReg_keeps ..) ?_
  refine Keeps.made_power_carrier ?_
  exact Keeps.refl _ _
  refine Keeps.made_power_carrier ?_
  exact Keeps.refl _ _

/-- What State.inputHigh may change. -/
theorem State.inputHigh_keeps (s : State) (vin : Nat) :
    Keeps [.mem, .writes, .regs, .eventSeq, .power, .pcie, .carrier, .outputs] s (State.inputHigh s vin) := by
  unfold State.inputHigh
  refine Keeps.ite (fun _ => ?_) (fun _ => ?_)
  refine Keeps.after (State.emit_keeps ..) ?_
  refine Keeps.after (State.inputCalm_keeps ..) ?_
  refine Keeps.after (State.setInput_keeps ..) ?_
  exact Keeps.refl _ _
  exact Keeps.refl _ _

/-- What State.trip may change. -/
theorem State.trip_keeps (s : State) (cause : Nat) (lasts : Bool) (r : Reading) :
    Keeps [.mem, .writes, .regs, .eventSeq, .errorSeq, .chart, .load, .unloadWaiting, .zeroing, .rings, .tasks,
      .signals, .jobs, .streams, .memQueue, .tables, .drift, .lanes, .corrections, .scrubbed, .bankQuiet, .fabric,
      .reductions, .combining, .sysreset, .power, .pcie, .boot, .binnacle, .carrier,
      .outputs] s (State.trip s cause lasts r) := by
  unfold State.trip
  dsimp only
  refine Keeps.ite (fun _ => ?_) (fun _ => ?_)
  refine Keeps.after (State.emit_keeps ..) ?_
  refine Keeps.after (State.setCarrier_keeps ..) ?_
  refine Keeps.after (State.railsOff_keeps ..) ?_
  refine Keeps.made_binnacle ?_
  exact Keeps.refl _ _
  exact Keeps.refl _ _

/-- What State.railOvercurrent may change. -/
theorem State.railOvercurrent_keeps (s : State) (r : Reading) :
    Keeps [.mem, .writes, .regs, .eventSeq, .errorSeq, .chart, .load, .unloadWaiting, .zeroing, .rings, .tasks,
      .signals, .jobs, .streams, .memQueue, .tables, .drift, .lanes, .corrections, .scrubbed, .bankQuiet, .fabric,
      .reductions, .combining, .sysreset, .power, .pcie, .boot, .binnacle, .carrier,
      .outputs] s (State.railOvercurrent s r) := by
  unfold State.railOvercurrent
  refine Keeps.after (State.trip_keeps ..) ?_
  exact Keeps.refl _ _

/-- What State.powerOff may change. -/
theorem State.powerOff_keeps (s : State) (r : MgmtRequest) :
    Keeps [.mem, .writes, .regs, .eventSeq, .errorSeq, .chart, .load, .unloadWaiting, .zeroing, .rings, .tasks,
      .signals, .jobs, .streams, .memQueue, .tables, .drift, .lanes, .corrections, .scrubbed, .bankQuiet, .fabric,
      .reductions, .combining, .sysreset, .power, .pcie, .boot, .binnacle, .carrier,
      .outputs] s (State.powerOff s r) := by
  unfold State.powerOff
  dsimp only
  refine State.mgmtRequest_keeps ?_
  refine Keeps.ite (fun _ => ?_) (fun _ => ?_)
  refine Keeps.after (State.mgmtReply_keeps ..) ?_
  refine Keeps.after (State.setCarrier_keeps ..) ?_
  refine Keeps.after (State.railsOff_keeps ..) ?_
  refine Keeps.ite (fun _ => ?_) (fun _ => ?_)
  refine Keeps.after (State.ageingStore_keeps ..) ?_
  exact Keeps.refl _ _
  exact Keeps.refl _ _
  refine Keeps.after (State.mgmtReply_keeps ..) ?_
  exact Keeps.refl _ _

/-- What State.clearSafe may change. -/
theorem State.clearSafe_keeps (s : State) (r : MgmtRequest) :
    Keeps [.regs, .fabric, .carrier, .outputs] s (State.clearSafe s r) := by
  unfold State.clearSafe
  dsimp only
  refine State.mgmtRequest_keeps ?_
  refine Keeps.ite (fun _ => ?_) (fun _ => ?_)
  refine Keeps.after (State.mgmtReply_keeps ..) ?_
  exact Keeps.refl _ _
  refine Keeps.ite (fun _ => ?_) (fun _ => ?_)
  refine Keeps.after (State.mgmtReply_keeps ..) ?_
  exact Keeps.refl _ _
  refine Keeps.ite (fun _ => ?_) (fun _ => ?_)
  refine Keeps.after (State.mgmtReply_keeps ..) ?_
  exact Keeps.refl _ _
  refine Keeps.after (State.mgmtReply_keeps ..) ?_
  refine Keeps.ite (fun _ => ?_) (fun _ => ?_)
  refine Keeps.after (State.startSequence_keeps ..) ?_
  refine Keeps.after (State.setCarrier_keeps ..) ?_
  exact Keeps.refl _ _
  refine Keeps.after (State.setCarrier_keeps ..) ?_
  exact Keeps.refl _ _

/-- What State.presSBreak may change. -/
theorem State.presSBreak_keeps (s : State) :
    Keeps [.mem, .writes, .regs, .eventSeq, .errorSeq, .chart, .load, .unloadWaiting, .zeroing, .rings, .tasks,
      .signals, .jobs, .streams, .memQueue, .tables, .drift, .lanes, .corrections, .scrubbed, .bankQuiet, .fabric,
      .reductions, .combining, .sysreset, .power, .pcie, .boot, .carrier] s (State.presSBreak s) := by
  unfold State.presSBreak
  dsimp only
  refine Keeps.ite (fun _ => ?_) (fun _ => ?_)
  refine Keeps.after (State.railsOff_keeps ..) ?_
  refine Keeps.after (State.setCarrier_keeps ..) ?_
  exact Keeps.refl _ _
  refine Keeps.after (State.setCarrier_keeps ..) ?_
  exact Keeps.refl _ _

/-- What State.getStatus may change. -/
theorem State.getStatus_keeps (s : State) (r : MgmtRequest) :
    Keeps [.regs, .fabric, .outputs] s (State.getStatus s r) := by
  unfold State.getStatus
  refine State.mgmtRequest_keeps ?_
  refine Keeps.after (State.mgmtValues_keeps ..) ?_
  exact Keeps.refl _ _

/-- What State.getSensors may change. -/
theorem State.getSensors_keeps (s : State) (r : MgmtRequest) :
    Keeps [.free, .regs, .fabric, .outputs] s (State.getSensors s r) := by
  unfold State.getSensors
  dsimp only
  refine State.mgmtRequest_keeps ?_
  refine Keeps.after (State.mgmtValues_keeps ..) ?_
  refine Keeps.after (State.draw_keeps ..) ?_
  exact Keeps.refl _ _

/-- What State.getEvents may change. -/
theorem State.getEvents_keeps (s : State) (r : MgmtRequest) :
    Keeps [.regs, .fabric, .outputs] s (State.getEvents s r) := by
  unfold State.getEvents
  dsimp only
  refine State.mgmtRequest_keeps ?_
  refine Keeps.after (State.mgmtValues_keeps ..) ?_
  exact Keeps.refl _ _

/-- What State.mgmtPacket may change. -/
theorem State.mgmtPacket_keeps (s : State) (k : Packet) :
    Keeps [.free, .regs, .fabric, .carrier, .outputs] s (State.mgmtPacket s k) := by
  unfold State.mgmtPacket
  dsimp only
  split
  refine Keeps.after (State.getStatus_keeps ..) ?_
  exact Keeps.refl _ _
  refine Keeps.after (State.getSensors_keeps ..) ?_
  exact Keeps.refl _ _
  refine Keeps.after (State.getEvents_keeps ..) ?_
  exact Keeps.refl _ _
  refine Keeps.after (State.setIdentify_keeps ..) ?_
  exact Keeps.refl _ _
  refine State.mgmtRequest_keeps ?_
  refine Keeps.after (State.mgmtReply_keeps ..) ?_
  exact Keeps.refl _ _

/-- What State.leakage may change. -/
theorem State.leakage_keeps (s : State) (r : Reading) :
    Keeps [.mem, .writes, .regs, .eventSeq, .errorSeq, .chart, .load, .unloadWaiting, .zeroing, .rings, .tasks,
      .signals, .jobs, .streams, .memQueue, .tables, .drift, .lanes, .corrections, .scrubbed, .bankQuiet, .fabric,
      .reductions, .combining, .sysreset, .power, .pcie, .boot, .binnacle, .carrier,
      .outputs] s (State.leakage s r) := by
  unfold State.leakage
  refine Keeps.after (State.trip_keeps ..) ?_
  exact Keeps.refl _ _

/-- What State.vauxLoss may change. -/
theorem State.vauxLoss_keeps (s : State) :
    Keeps [.mem, .writes, .regs, .eventSeq, .errorSeq, .chart, .load, .unloadWaiting, .zeroing, .rings, .tasks,
      .signals, .jobs, .streams, .memQueue, .tables, .drift, .lanes, .corrections, .scrubbed, .bankQuiet, .fabric,
      .reductions, .combining, .sysreset, .power, .pcie, .boot, .binnacle, .carrier] s (State.vauxLoss s) := by
  unfold State.vauxLoss
  dsimp only
  refine Keeps.made_boot_binnacle_carrier ?_
  refine Keeps.after (State.railsOff_keeps ..) ?_
  exact Keeps.refl _ _

/-- What State.clearRetired may change. -/
theorem State.clearRetired_keeps (s : State) (r : MgmtRequest) :
    Keeps [.regs, .fabric, .binnacle, .outputs] s (State.clearRetired s r) := by
  unfold State.clearRetired
  dsimp only
  refine State.mgmtRequest_keeps ?_
  refine Keeps.ite (fun _ => ?_) (fun _ => ?_)
  refine Keeps.after (State.mgmtReply_keeps ..) ?_
  exact Keeps.refl _ _
  refine Keeps.after (State.mgmtReply_keeps ..) ?_
  refine Keeps.made_binnacle ?_
  exact Keeps.refl _ _

/-- What State.inputOvervoltage may change. -/
theorem State.inputOvervoltage_keeps (s : State) (vin : Nat) (persisted : Bool) :
    Keeps [.mem, .writes, .regs, .eventSeq, .errorSeq, .chart, .load, .unloadWaiting, .zeroing, .rings, .tasks,
      .signals, .jobs, .streams, .memQueue, .tables, .drift, .lanes, .corrections, .scrubbed, .bankQuiet, .fabric,
      .reductions, .combining, .sysreset, .power, .pcie, .boot, .binnacle, .carrier,
      .outputs] s (State.inputOvervoltage s vin persisted) := by
  unfold State.inputOvervoltage
  dsimp only
  refine Keeps.ite (fun _ => ?_) (fun _ => ?_)
  refine Keeps.after (State.trip_keeps ..) ?_
  refine Keeps.after (State.setInput_keeps ..) ?_
  exact Keeps.refl _ _
  refine Keeps.after (State.setInput_keeps ..) ?_
  exact Keeps.refl _ _

/-- What State.powerSequence may change. -/
theorem State.powerSequence_keeps (s : State) (ok : Bool) :
    Keeps [.mem, .writes, .regs, .eventSeq, .errorSeq, .chart, .load, .unloadWaiting, .zeroing, .rings, .tasks,
      .signals, .jobs, .streams, .memQueue, .tables, .drift, .lanes, .corrections, .scrubbed, .bankQuiet, .fabric,
      .reductions, .combining, .sysreset, .power, .pcie, .boot, .carrier, .outputs] s (State.powerSequence s ok) := by
  unfold State.powerSequence
  dsimp only
  split
  refine Keeps.ite (fun _ => ?_) (fun _ => ?_)
  exact Keeps.refl _ _
  refine Keeps.ite (fun _ => ?_) (fun _ => ?_)
  refine Keeps.after (State.emit_keeps ..) ?_
  refine Keeps.after (State.railsOff_keeps ..) ?_
  exact Keeps.refl _ _
  refine Keeps.ite (fun _ => ?_) (fun _ => ?_)
  refine Keeps.after (State.setCarrier_keeps ..) ?_
  refine Keeps.made_power ?_
  exact Keeps.refl _ _
  refine Keeps.after (State.setCarrier_keeps ..) ?_
  refine Keeps.made_power ?_
  refine Keeps.after (State.moduleReset_keeps ..) ?_
  exact Keeps.refl _ _
  exact Keeps.refl _ _

/-- What State.clearPeer may change. -/
theorem State.clearPeer_keeps (s : State) (r : MgmtRequest) :
    Keeps [.regs, .fabric, .binnacle, .outputs] s (State.clearPeer s r) := by
  unfold State.clearPeer
  dsimp only
  refine State.mgmtRequest_keeps ?_
  refine Keeps.after (State.mgmtReply_keeps ..) ?_
  refine Keeps.made_binnacle ?_
  exact Keeps.refl _ _

/-- What State.inputUndervoltage may change. -/
theorem State.inputUndervoltage_keeps (s : State) (vin : Nat) :
    Keeps [.mem, .writes, .regs, .eventSeq, .errorSeq, .chart, .load, .unloadWaiting, .zeroing, .rings, .tasks,
      .signals, .jobs, .streams, .memQueue, .tables, .drift, .lanes, .corrections, .scrubbed, .bankQuiet, .fabric,
      .reductions, .combining, .sysreset, .power, .pcie, .boot, .carrier,
      .outputs] s (State.inputUndervoltage s vin) := by
  unfold State.inputUndervoltage
  dsimp only
  refine Keeps.after (State.setCarrier_keeps ..) ?_
  refine Keeps.ite (fun _ => ?_) (fun _ => ?_)
  refine Keeps.after (State.railsOff_keeps ..) ?_
  refine Keeps.after (State.inputCalm_keeps ..) ?_
  refine Keeps.after (State.setInput_keeps ..) ?_
  exact Keeps.refl _ _
  refine Keeps.after (State.inputCalm_keeps ..) ?_
  refine Keeps.after (State.setInput_keeps ..) ?_
  exact Keeps.refl _ _

/-- What State.getAgeing may change. -/
theorem State.getAgeing_keeps (s : State) (r : MgmtRequest) :
    Keeps [.regs, .fabric, .outputs] s (State.getAgeing s r) := by
  unfold State.getAgeing
  refine State.mgmtRequest_keeps ?_
  refine Keeps.after (State.mgmtValues_keeps ..) ?_
  exact Keeps.refl _ _

/-- What State.coolantLoss may change. -/
theorem State.coolantLoss_keeps (s : State) (r : Reading) :
    Keeps [.mem, .writes, .regs, .eventSeq, .errorSeq, .chart, .load, .unloadWaiting, .zeroing, .rings, .tasks,
      .signals, .jobs, .streams, .memQueue, .tables, .drift, .lanes, .corrections, .scrubbed, .bankQuiet, .fabric,
      .reductions, .combining, .sysreset, .power, .pcie, .boot, .binnacle, .carrier,
      .outputs] s (State.coolantLoss s r) := by
  unfold State.coolantLoss
  refine Keeps.after (State.trip_keeps ..) ?_
  exact Keeps.refl _ _

/-- What State.junctionOvertemp may change. -/
theorem State.junctionOvertemp_keeps (s : State) (r : Reading) :
    Keeps [.mem, .writes, .regs, .eventSeq, .errorSeq, .chart, .load, .unloadWaiting, .zeroing, .rings, .tasks,
      .signals, .jobs, .streams, .memQueue, .tables, .drift, .lanes, .corrections, .scrubbed, .bankQuiet, .fabric,
      .reductions, .combining, .sysreset, .power, .pcie, .boot, .binnacle, .carrier,
      .outputs] s (State.junctionOvertemp s r) := by
  unfold State.junctionOvertemp
  refine Keeps.after (State.trip_keeps ..) ?_
  exact Keeps.refl _ _

/-- What State.presenceWindowEnd may change. -/
theorem State.presenceWindowEnd_keeps (s : State) :
    Keeps [.carrier] s (State.presenceWindowEnd s) := by
  unfold State.presenceWindowEnd
  dsimp only
  refine Keeps.ite (fun _ => ?_) (fun _ => ?_)
  exact Keeps.refl _ _
  refine Keeps.after (State.setCarrier_keeps ..) ?_
  exact Keeps.refl _ _

/-- What State.inputRestored may change. -/
theorem State.inputRestored_keeps (s : State) (vin : Nat) :
    Keeps [.mem, .writes, .regs, .eventSeq, .power, .pcie, .carrier, .outputs] s (State.inputRestored s vin) := by
  unfold State.inputRestored
  dsimp only
  split
  refine Keeps.ite (fun _ => ?_) (fun _ => ?_)
  refine Keeps.after (State.startSequence_keeps ..) ?_
  refine Keeps.after (State.setCarrier_keeps ..) ?_
  refine Keeps.after (State.inputCalm_keeps ..) ?_
  refine Keeps.after (State.setInput_keeps ..) ?_
  exact Keeps.refl _ _
  refine Keeps.after (State.setCarrier_keeps ..) ?_
  refine Keeps.after (State.inputCalm_keeps ..) ?_
  refine Keeps.after (State.setInput_keeps ..) ?_
  exact Keeps.refl _ _
  refine Keeps.ite (fun _ => ?_) (fun _ => ?_)
  refine Keeps.after (State.startSequence_keeps ..) ?_
  refine Keeps.after (State.setCarrier_keeps ..) ?_
  refine Keeps.after (State.inputCalm_keeps ..) ?_
  refine Keeps.after (State.setInput_keeps ..) ?_
  exact Keeps.refl _ _
  refine Keeps.after (State.setCarrier_keeps ..) ?_
  refine Keeps.after (State.inputCalm_keeps ..) ?_
  refine Keeps.after (State.setInput_keeps ..) ?_
  exact Keeps.refl _ _
  refine Keeps.after (State.setCarrier_keeps ..) ?_
  refine Keeps.after (State.inputCalm_keeps ..) ?_
  refine Keeps.after (State.setInput_keeps ..) ?_
  exact Keeps.refl _ _

/-- What State.sampleStep may change. -/
theorem State.sampleStep_keeps (s : State) (id : TaskId) (remote : List RemoteReply) :
    Keeps [.free, .mem, .writes, .regs, .eventSeq, .tasks, .drift, .fabric, .pcie,
      .outputs] s (State.sampleStep s id remote) := by
  unfold State.sampleStep
  split
  split
  refine Keeps.after (State.applyRemote_keeps ..) ?_
  refine Keeps.after (State.setTask_keeps ..) ?_
  exact Keeps.refl _ _
  exact Keeps.refl _ _
  exact Keeps.refl _ _

/-- What State.setTable may change. -/
theorem State.setTable_keeps (s : State) (x : OpenTable) :
    Keeps [.tables] s (State.setTable s x) := by
  unfold State.setTable
  refine Keeps.made_tables ?_
  exact Keeps.refl _ _

/-- What State.refreshBegins may change. -/
theorem State.refreshBegins_keeps (s : State) (t : Task) :
    Keeps [.tables] s (State.refreshBegins s t) := by
  unfold State.refreshBegins
  dsimp only
  split
  refine Keeps.ite (fun _ => ?_) (fun _ => ?_)
  exact Keeps.refl _ _
  refine Keeps.after (State.setTable_keeps ..) ?_
  exact Keeps.refl _ _
  exact Keeps.refl _ _

/-- What State.refreshStep may change. -/
theorem State.refreshStep_keeps (s : State) (id : TaskId) (remote : List RemoteReply) :
    Keeps [.free, .mem, .writes, .regs, .eventSeq, .tasks, .drift, .fabric, .pcie,
      .outputs] s (State.refreshStep s id remote) := by
  unfold State.refreshStep
  split
  refine Keeps.ite (fun _ => ?_) (fun _ => ?_)
  exact Keeps.refl _ _
  refine Keeps.after (State.applyFetched_keeps ..) ?_
  exact Keeps.refl _ _
  exact Keeps.refl _ _

/-- What State.swapComplete may change. -/
theorem State.swapComplete_keeps (s : State) (table : Nat) :
    Keeps [.free, .mem, .writes, .regs, .eventSeq, .tasks, .tables, .drift, .pcie,
      .outputs] s (State.swapComplete s table) := by
  unfold State.swapComplete
  dsimp only
  split
  exact Keeps.refl _ _
  split
  exact Keeps.refl _ _
  refine Keeps.ite (fun _ => ?_) (fun _ => ?_)
  exact Keeps.refl _ _
  split
  refine Keeps.ite (fun _ => ?_) (fun _ => ?_)
  refine Keeps.after (State.applyResult_keeps ..) ?_
  refine Keeps.after (State.setTable_keeps ..) ?_
  exact Keeps.refl _ _
  refine Keeps.after (State.setTable_keeps ..) ?_
  exact Keeps.refl _ _
  refine Keeps.after (State.setTable_keeps ..) ?_
  exact Keeps.refl _ _

/-- What State.lookupStep may change. -/
theorem State.lookupStep_keeps (s : State) (id : TaskId) (remote : List RemoteReply) :
    Keeps [.free, .mem, .writes, .regs, .eventSeq, .tasks, .drift, .fabric, .pcie,
      .outputs] s (State.lookupStep s id remote) := by
  unfold State.lookupStep
  split
  refine Keeps.after (State.applyFetched_keeps ..) ?_
  exact Keeps.refl _ _
  exact Keeps.refl _ _

/-- What State.tableOpen may change. -/
theorem State.tableOpen_keeps (s : State) (id : TaskId) :
    Keeps [.free, .mem, .writes, .regs, .eventSeq, .tasks, .tables, .drift, .pcie,
      .outputs] s (State.tableOpen s id) := by
  unfold State.tableOpen
  dsimp only
  split
  exact Keeps.refl _ _
  refine Keeps.ite (fun _ => ?_) (fun _ => ?_)
  refine Keeps.after (State.applyResult_keeps ..) ?_
  exact Keeps.refl _ _
  refine Keeps.after (State.applyResult_keeps ..) ?_
  refine Keeps.made_tables ?_
  exact Keeps.refl _ _

/-- What State.tableSwap may change. -/
theorem State.tableSwap_keeps (s : State) (id : TaskId) :
    Keeps [.free, .mem, .writes, .regs, .eventSeq, .tasks, .tables, .drift, .pcie,
      .outputs] s (State.tableSwap s id) := by
  unfold State.tableSwap
  split
  exact Keeps.refl _ _
  split
  refine Keeps.after (State.applyResult_keeps ..) ?_
  exact Keeps.refl _ _
  refine Keeps.ite (fun _ => ?_) (fun _ => ?_)
  exact Keeps.refl _ _
  refine Keeps.ite (fun _ => ?_) (fun _ => ?_)
  refine Keeps.after (State.applyResult_keeps ..) ?_
  exact Keeps.refl _ _
  refine Keeps.ite (fun _ => ?_) (fun _ => ?_)
  exact Keeps.refl _ _
  refine Keeps.after (State.setTable_keeps ..) ?_
  exact Keeps.refl _ _

/-- What State.pushRun may change. -/
theorem State.pushRun_keeps (s : State) (t : Task) :
    Keeps [.free, .mem, .writes, .regs, .eventSeq, .tasks, .signals, .drift, .fabric, .reductions, .pcie,
      .outputs] s (State.pushRun s t) := by
  unfold State.pushRun
  dsimp only
  refine Keeps.ite (fun _ => ?_) (fun _ => ?_)
  refine Keeps.after (State.applyResult_keeps ..) ?_
  exact Keeps.refl _ _
  split
  refine Keeps.after (State.applyResult_keeps ..) ?_
  exact Keeps.refl _ _
  refine Keeps.after (State.queueRequests_keeps ..) ?_
  refine Keeps.after (State.setTask_keeps ..) ?_
  refine Keeps.after (State.bumps_keeps ..) ?_
  refine Keeps.after (State.memOps_keeps ..) ?_
  refine Keeps.made_free ?_
  exact Keeps.refl _ _

/-- What State.pushStep may change. -/
theorem State.pushStep_keeps (s : State) (id : TaskId) :
    Keeps [.free, .mem, .writes, .regs, .eventSeq, .tasks, .signals, .drift, .fabric, .reductions, .pcie,
      .outputs] s (State.pushStep s id) := by
  unfold State.pushStep
  split
  refine Keeps.ite (fun _ => ?_) (fun _ => ?_)
  refine Keeps.after (State.pushRun_keeps ..) ?_
  exact Keeps.refl _ _
  exact Keeps.refl _ _
  exact Keeps.refl _ _

/-- What State.arrayPassStart may change. -/
theorem State.arrayPassStart_keeps (s : State) (id : TaskId) :
    Keeps [.regs, .tasks] s (State.arrayPassStart s id) := by
  unfold State.arrayPassStart
  dsimp only
  split
  exact Keeps.refl _ _
  refine Keeps.ite (fun _ => ?_) (fun _ => ?_)
  split
  refine Keeps.after (State.setTask_keeps ..) ?_
  refine Keeps.after (State.bumps_keeps ..) ?_
  exact Keeps.refl _ _
  exact Keeps.refl _ _
  exact Keeps.refl _ _

/-- What State.ratioWatch may change. -/
theorem State.ratioWatch_keeps (s : State) (x : UpdStats) :
    Keeps [.mem, .writes, .regs, .eventSeq, .pcie, .outputs] s (State.ratioWatch s x) := by
  unfold State.ratioWatch
  refine Keeps.ite (fun _ => ?_) (fun _ => ?_)
  refine Keeps.after (State.post_keeps ..) ?_
  exact Keeps.refl _ _
  exact Keeps.refl _ _

/-- What State.applyRow may change. -/
theorem State.applyRow_keeps (s : State) (c : UpdCtx) (x : OpenTable) (l : Nat) (listTaint : Option Nat) (r :
      TableApplied) :
    Keeps [.mem, .writes] s (State.applyRow s c x l listTaint r).1 := by
  unfold State.applyRow
  dsimp only
  split
  dsimp only
  exact Keeps.refl _ _
  split
  dsimp only
  exact Keeps.refl _ _
  dsimp only
  refine Keeps.after (State.memOps_keeps ..) ?_
  refine Keeps.after (State.memOps_keeps ..) ?_
  exact Keeps.refl _ _

/-- The same of a result that is named. -/
theorem State.applyRow_keeps_eq {s : State} {c : UpdCtx} {x : OpenTable} {l : Nat} {listTaint : Option Nat} {r :
      TableApplied} {t0 : State} {y : _}
    (h : State.applyRow s c x l listTaint r = (t0, y)) : Keeps [.mem, .writes] s t0 := by
  have hk := State.applyRow_keeps s c x l listTaint r
  rw [h] at hk
  exact hk

/-- What State.applyRows may change. -/
theorem State.applyRows_keeps (c : UpdCtx) (x : OpenTable) (l : List Nat) (s : State) (r : TableApplied) :
    Keeps [.mem, .writes] s (State.applyRows c x l s r).1 := by
  induction l generalizing s r with
  | nil => exact Keeps.refl _ _
  | cons i rest ih =>
    unfold State.applyRows
    exact Keeps.after (ih _ _) (State.applyRow_keeps ..)

/-- The same of a result that is named. -/
theorem State.applyRows_keeps_eq {c : UpdCtx} {x : OpenTable} {l : List Nat} {s : State} {r : TableApplied} {t0 :
      State}
    {y : TableApplied} (h : State.applyRows c x l s r = (t0, y)) : Keeps [.mem, .writes] s t0 := by
  have hk := State.applyRows_keeps c x l s r
  rw [h] at hk
  exact hk

/-- What State.applyTable may change. -/
theorem State.applyTable_keeps (s : State) (t : Task) (c : UpdCtx) :
    Keeps [.free, .mem, .writes, .regs, .eventSeq, .tasks, .drift, .pcie, .outputs] s (State.applyTable s t c) := by
  unfold State.applyTable
  dsimp only
  split
  refine Keeps.after (State.applyResult_keeps ..) ?_
  exact Keeps.refl _ _
  refine Keeps.after (State.ratioWatch_keeps ..) ?_
  refine Keeps.after (State.applyResult_keeps ..) ?_
  refine Keeps.after (State.applyRows_keeps ..) ?_
  exact Keeps.refl _ _

/-- What State.normRun may change. -/
theorem State.normRun_keeps (s : State) (t : Task) :
    Keeps [.free, .mem, .writes, .regs, .eventSeq, .tasks, .signals, .drift, .fabric, .reductions, .pcie,
      .outputs] s (State.normRun s t) := by
  unfold State.normRun
  dsimp only
  refine Keeps.ite (fun _ => ?_) (fun _ => ?_)
  refine Keeps.after (State.applyResult_keeps ..) ?_
  exact Keeps.refl _ _
  split
  refine Keeps.after (State.applyResult_keeps ..) ?_
  exact Keeps.refl _ _
  refine Keeps.after (State.queueRequests_keeps ..) ?_
  refine Keeps.after (State.setTask_keeps ..) ?_
  exact Keeps.refl _ _

/-- What State.normStep may change. -/
theorem State.normStep_keeps (s : State) (id : TaskId) :
    Keeps [.free, .mem, .writes, .regs, .eventSeq, .tasks, .signals, .drift, .fabric, .reductions, .pcie,
      .outputs] s (State.normStep s id) := by
  unfold State.normStep
  split
  refine Keeps.ite (fun _ => ?_) (fun _ => ?_)
  refine Keeps.after (State.normRun_keeps ..) ?_
  exact Keeps.refl _ _
  exact Keeps.refl _ _
  exact Keeps.refl _ _

/-- What State.applyDense may change. -/
theorem State.applyDense_keeps (s : State) (t : Task) (c : UpdCtx) :
    Keeps [.free, .mem, .writes, .regs, .eventSeq, .tasks, .drift, .pcie, .outputs] s (State.applyDense s t c) := by
  unfold State.applyDense
  dsimp only
  refine Keeps.after (State.ratioWatch_keeps ..) ?_
  refine Keeps.after (State.applyResult_keeps ..) ?_
  exact Keeps.refl _ _

/-- What State.applyStep may change. -/
theorem State.applyStep_keeps (s : State) (id : TaskId) :
    Keeps [.free, .mem, .writes, .regs, .eventSeq, .tasks, .drift, .pcie, .outputs] s (State.applyStep s id) := by
  unfold State.applyStep
  split
  exact Keeps.refl _ _
  refine Keeps.ite (fun _ => ?_) (fun _ => ?_)
  refine Keeps.after (State.applyResult_keeps ..) ?_
  exact Keeps.refl _ _
  split
  refine Keeps.after (State.applyResult_keeps ..) ?_
  exact Keeps.refl _ _
  refine Keeps.ite (fun _ => ?_) (fun _ => ?_)
  refine Keeps.after (State.applyDense_keeps ..) ?_
  exact Keeps.refl _ _
  refine Keeps.after (State.applyTable_keeps ..) ?_
  exact Keeps.refl _ _

/-- What State.dispatchSuppressed may change. -/
theorem State.dispatchSuppressed_keeps (s : State) (t : Task) :
    Keeps [.regs, .tasks] s (State.dispatchSuppressed s t) := by
  unfold State.dispatchSuppressed
  refine Keeps.after (State.setTask_keeps ..) ?_
  refine Keeps.after (State.bump_keeps ..) ?_
  exact Keeps.refl _ _

/-- What State.dispatchFails may change. -/
theorem State.dispatchFails_keeps (s : State) (t : Task) (status : Nat) :
    Keeps [.free, .mem, .writes, .tasks] s (State.dispatchFails s t status) := by
  unfold State.dispatchFails
  dsimp only
  refine Keeps.after (State.setTask_keeps ..) ?_
  refine Keeps.ite (fun _ => ?_) (fun _ => ?_)
  refine Keeps.after (State.memOps_keeps ..) ?_
  exact Keeps.refl _ _
  refine Keeps.ite (fun _ => ?_) (fun _ => ?_)
  refine Keeps.made_free ?_
  refine Keeps.after (State.memOps_keeps ..) ?_
  exact Keeps.refl _ _
  exact Keeps.refl _ _

/-- What State.dispatchEnds may change. -/
theorem State.dispatchEnds_keeps (s : State) (t : Task) (status : Nat) :
    Keeps [.tasks] s (State.dispatchEnds s t status) := by
  unfold State.dispatchEnds
  refine Keeps.after (State.setTask_keeps ..) ?_
  exact Keeps.refl _ _

/-- What State.dispatchRuns may change. -/
theorem State.dispatchRuns_keeps (s : State) (t : Task) :
    Keeps [.tasks, .tables] s (State.dispatchRuns s t) := by
  unfold State.dispatchRuns
  dsimp only
  refine Keeps.after (State.setTask_keeps ..) ?_
  refine Keeps.ite (fun _ => ?_) (fun _ => ?_)
  refine Keeps.after (State.refreshBegins_keeps ..) ?_
  exact Keeps.refl _ _
  exact Keeps.refl _ _

/-- What State.dispatchWith may change. -/
theorem State.dispatchWith_keeps (s : State) (t : Task) (status : Nat) :
    Keeps [.free, .mem, .writes, .regs, .tasks, .tables] s (State.dispatchWith s t status) := by
  unfold State.dispatchWith
  refine Keeps.ite (fun _ => ?_) (fun _ => ?_)
  refine Keeps.after (State.dispatchRuns_keeps ..) ?_
  exact Keeps.refl _ _
  refine Keeps.ite (fun _ => ?_) (fun _ => ?_)
  refine Keeps.after (State.dispatchRuns_keeps ..) ?_
  refine Keeps.after (State.bump_keeps ..) ?_
  exact Keeps.refl _ _
  refine Keeps.ite (fun _ => ?_) (fun _ => ?_)
  refine Keeps.after (State.dispatchSuppressed_keeps ..) ?_
  exact Keeps.refl _ _
  refine Keeps.after (State.dispatchFails_keeps ..) ?_
  exact Keeps.refl _ _

/-- What State.dispatchTask may change. -/
theorem State.dispatchTask_keeps (s : State) (t : Task) :
    Keeps [.free, .mem, .writes, .regs, .tasks, .tables] s (State.dispatchTask s t) := by
  unfold State.dispatchTask
  refine Keeps.ite (fun _ => ?_) (fun _ => ?_)
  refine Keeps.ite (fun _ => ?_) (fun _ => ?_)
  refine Keeps.after (State.setTask_keeps ..) ?_
  exact Keeps.refl _ _
  refine Keeps.after (State.dispatchEnds_keeps ..) ?_
  exact Keeps.refl _ _
  refine Keeps.ite (fun _ => ?_) (fun _ => ?_)
  refine Keeps.after (State.dispatchEnds_keeps ..) ?_
  exact Keeps.refl _ _
  refine Keeps.ite (fun _ => ?_) (fun _ => ?_)
  refine Keeps.after (State.dispatchEnds_keeps ..) ?_
  exact Keeps.refl _ _
  refine Keeps.ite (fun _ => ?_) (fun _ => ?_)
  refine Keeps.after (State.dispatchEnds_keeps ..) ?_
  exact Keeps.refl _ _
  refine Keeps.ite (fun _ => ?_) (fun _ => ?_)
  refine Keeps.after (State.dispatchEnds_keeps ..) ?_
  exact Keeps.refl _ _
  refine Keeps.after (State.dispatchWith_keeps ..) ?_
  exact Keeps.refl _ _

/-- What State.dispatchAt may change. -/
theorem State.dispatchAt_keeps (s : State) (engine : Nat) (place : Nat) :
    Keeps [.free, .mem, .writes, .regs, .tasks, .tables] s (State.dispatchAt s engine place) := by
  unfold State.dispatchAt
  refine Keeps.ite (fun _ => ?_) (fun _ => ?_)
  exact Keeps.refl _ _
  split
  refine Keeps.ite (fun _ => ?_) (fun _ => ?_)
  refine Keeps.after (State.dispatchTask_keeps ..) ?_
  exact Keeps.refl _ _
  exact Keeps.refl _ _
  exact Keeps.refl _ _

end

end Sys2Proof.Machine
end

