-- ==== Sys2Proof/Laws/Commands.lean ====
section
/-!
SUPPORT. What each command may change: one lemma for each meaning, over the operations of Laws/Frames.lean.
-/

namespace Sys2Proof.Machine

section

set_option Elab.async false

/-- What execAccept may change. -/
theorem execAccept_keeps {port : Nat} {s : State} {t0 : State}
    (h : execAccept port s = .next t0) : Keeps [.mem, .writes, .regs, .eventSeq, .fabric, .pcie, .binnacle,
      .outputs] s t0 := by
  refine Keeps.performed ?_ h
  refine State.hostWrite_keeps ?_
  refine Keeps.ite (fun _ => ?_) (fun _ => ?_)
  refine Keeps.after (State.acceptPeer_keeps ..) ?_
  exact Keeps.refl _ _
  exact Keeps.refl _ _

/-- What execAckCredit may change. -/
theorem execAckCredit_keeps {port : Nat} {ackSeq : Nat} {freed : List Nat} {s : State} {t0 : State}
    (h : execAckCredit port ackSeq freed s = .next t0) : Keeps [.mem, .writes, .regs, .eventSeq, .errorSeq, .chart,
      .load, .unloadWaiting, .zeroing, .rings, .tasks, .signals, .jobs, .streams, .memQueue, .tables, .drift, .lanes,
      .corrections, .scrubbed, .bankQuiet, .fabric, .reductions, .combining, .sysreset, .power, .pcie, .boot,
      .outputs] s t0 := by
  refine Keeps.performed ?_ h
  refine Keeps.ite (fun _ => ?_) (fun _ => ?_)
  refine Keeps.after (State.resetIfSent_keeps ..) ?_
  refine Keeps.after (State.onAckCredit_keeps ..) ?_
  refine Keeps.after (State.heard_keeps ..) ?_
  exact Keeps.refl _ _
  exact Keeps.refl _ _

/-- What execAckProgressTimeout may change. -/
theorem execAckProgressTimeout_keeps {port : Nat} {s : State} {t0 : State}
    (h : execAckProgressTimeout port s = .next t0) : Keeps [.mem, .writes, .regs, .eventSeq, .fabric, .combining,
      .pcie, .outputs] s t0 := by
  refine Keeps.performed ?_ h
  dsimp only
  refine Keeps.ite (fun _ => ?_) (fun _ => ?_)
  refine Keeps.after (State.linkDown_keeps ..) ?_
  exact Keeps.refl _ _
  exact Keeps.refl _ _

/-- What execAckTimer may change. -/
theorem execAckTimer_keeps {port : Nat} {s : State} {t0 : State}
    (h : execAckTimer port s = .next t0) : Keeps [.fabric, .outputs] s t0 := by
  refine Keeps.performed ?_ h
  refine Keeps.ite (fun _ => ?_) (fun _ => ?_)
  refine Keeps.after (State.sendAck_keeps ..) ?_
  exact Keeps.refl _ _
  exact Keeps.refl _ _

/-- What execAck may change. -/
theorem execAck_keeps {packet : Packet} {s : State} {t0 : State}
    (h : execAck packet s = .next t0) : Keeps [.free, .mem, .writes, .regs, .eventSeq, .tasks, .signals, .fabric,
      .reductions, .pcie, .outputs] s t0 := by
  refine Keeps.performed ?_ h
  refine Keeps.after (State.takeResponse_keeps ..) ?_
  exact Keeps.refl _ _

/-- What execAgeingMeasure may change. -/
theorem execAgeingMeasure_keeps {driftPpm : List Nat} {s : State} {t0 : State}
    (h : execAgeingMeasure driftPpm s = .next t0) : Keeps [.mem, .writes, .regs, .eventSeq, .power, .pcie,
      .outputs] s t0 := by
  refine Keeps.performed ?_ h
  refine Keeps.after (State.ageingMeasure_keeps ..) ?_
  exact Keeps.refl _ _

/-- What execAgeingStore may change. -/
theorem execAgeingStore_keeps {s : State} {t0 : State}
    (h : execAgeingStore s = .next t0) : Keeps [.binnacle] s t0 := by
  refine Keeps.performed ?_ h
  refine Keeps.after (State.ageingStore_keeps ..) ?_
  exact Keeps.refl _ _

/-- What execAlignmentEnd may change. -/
theorem execAlignmentEnd_keeps {port : Nat} {ok : Bool} {nonce : Nonce} {s : State} {t0 : State}
    (h : execAlignmentEnd port ok nonce s = .next t0) : Keeps [.mem, .writes, .regs, .eventSeq, .fabric, .combining,
      .pcie, .outputs] s t0 := by
  refine Keeps.performed ?_ h
  dsimp only
  refine Keeps.ite (fun _ => ?_) (fun _ => ?_)
  exact Keeps.refl _ _
  refine Keeps.ite (fun _ => ?_) (fun _ => ?_)
  refine Keeps.after (State.sendIdent_keeps ..) ?_
  refine Keeps.after (State.setLink_keeps ..) ?_
  refine Keeps.after (State.setPort_keeps ..) ?_
  refine Keeps.after (State.clearPort_keeps ..) ?_
  exact Keeps.refl _ _
  refine Keeps.after (State.linkDown_keeps ..) ?_
  exact Keeps.refl _ _

/-- What execAnchorCommit may change. -/
theorem execAnchorCommit_keeps {s : State} {t0 : State}
    (h : execAnchorCommit s = .next t0) : Keeps [.mem, .writes, .regs, .tasks, .power] s t0 := by
  refine Keeps.performed ?_ h
  refine Keeps.after (State.anchorCommit_keeps ..) ?_
  exact Keeps.refl _ _

/-- What execAnchor may change. -/
theorem execAnchor_keeps {s : State} {t0 : State}
    (h : execAnchor s = .next t0) : Keeps [.mem, .writes, .regs, .eventSeq, .fabric, .power, .pcie,
      .outputs] s t0 := by
  refine Keeps.performed ?_ h
  refine State.hostWrite_keeps ?_
  refine Keeps.after (State.anchorWrite_keeps ..) ?_
  exact Keeps.refl _ _

/-- What execApply may change. -/
theorem execApply_keeps {id : TaskId} {s : State} {t0 : State}
    (h : execApply id s = .next t0) : Keeps [.free, .mem, .writes, .regs, .eventSeq, .tasks, .drift, .pcie,
      .outputs] s t0 := by
  refine Keeps.performed ?_ h
  refine Keeps.after (State.applyStep_keeps ..) ?_
  exact Keeps.refl _ _

/-- What execArrayPassStart may change. -/
theorem execArrayPassStart_keeps {id : TaskId} {s : State} {t0 : State}
    (h : execArrayPassStart id s = .next t0) : Keeps [.regs, .tasks] s t0 := by
  refine Keeps.performed ?_ h
  refine Keeps.after (State.arrayPassStart_keeps ..) ?_
  exact Keeps.refl _ _

/-- What execAttentionLongPress may change. -/
theorem execAttentionLongPress_keeps {s : State} {t0 : State}
    (h : execAttentionLongPress s = .next t0) : Keeps [.carrier, .outputs] s t0 := by
  refine Keeps.performed ?_ h
  refine Keeps.after (State.attentionLongPress_keeps ..) ?_
  exact Keeps.refl _ _

/-- What execAttentionPress may change. -/
theorem execAttentionPress_keeps {s : State} {t0 : State}
    (h : execAttentionPress s = .next t0) : Keeps [.carrier, .outputs] s t0 := by
  refine Keeps.performed ?_ h
  refine Keeps.after (State.attentionPress_keeps ..) ?_
  exact Keeps.refl _ _

/-- What execBankCapEval may change. -/
theorem execBankCapEval_keeps {die : Nat} {waitedWhileFull : Bool} {poolRanOut : Bool} {s : State} {t0 : State}
    (h : execBankCapEval die waitedWhileFull poolRanOut s = .next t0) : Keeps [.mem, .writes, .regs, .eventSeq,
      .memQueue, .bankQuiet, .pcie, .outputs] s t0 := by
  refine Keeps.performed ?_ h
  refine Keeps.after (State.regrant_keeps ..) ?_
  refine Keeps.after (State.bankCapEval_keeps ..) ?_
  exact Keeps.refl _ _

/-- What execBar2Access may change. -/
theorem execBar2Access_keeps {offset : Nat} {write : Option (List Byte)} {ep : Bool} {reads : Bar2Reads} {s : State}
      {t0 : State}
    (h : execBar2Access offset write ep reads s = .next t0) : Keeps [.free, .mem, .writes, .regs, .eventSeq,
      .errorSeq, .lanes, .corrections, .pcie, .binnacle, .outputs] s t0 := by
  refine Keeps.performed ?_ h
  refine State.secWrite_keeps ?_
  refine Keeps.after (State.bar2Access_keeps ..) ?_
  exact Keeps.refl _ _

/-- What execBarDown may change. -/
theorem execBarDown_keeps {packet : Packet} {s : State} {t0 : State}
    (h : execBarDown packet s = .next t0) : Keeps [.mem, .writes, .regs, .eventSeq, .tasks, .fabric, .combining,
      .power, .pcie, .outputs] s t0 := by
  refine Keeps.performed ?_ h
  refine Keeps.after (State.combineOp_keeps ..) ?_
  exact Keeps.refl _ _

/-- What execBarUp may change. -/
theorem execBarUp_keeps {packet : Packet} {s : State} {t0 : State}
    (h : execBarUp packet s = .next t0) : Keeps [.mem, .writes, .regs, .eventSeq, .tasks, .fabric, .combining,
      .power, .pcie, .outputs] s t0 := by
  refine Keeps.performed ?_ h
  refine Keeps.after (State.combineOp_keeps ..) ?_
  exact Keeps.refl _ _

/-- What execBarrier may change. -/
theorem execBarrier_keeps {id : TaskId} {s : State} {t0 : State}
    (h : execBarrier id s = .next t0) : Keeps [.mem, .writes, .regs, .tasks, .fabric, .combining, .outputs] s t0 := by
  refine Keeps.performed ?_ h
  split
  refine Keeps.after (State.combineArrive_keeps ..) ?_
  exact Keeps.refl _ _
  exact Keeps.refl _ _

/-- What execBcastData may change. -/
theorem execBcastData_keeps {packet : Packet} {s : State} {t0 : State}
    (h : execBcastData packet s = .next t0) : Keeps [.mem, .writes, .regs, .eventSeq, .tasks, .fabric, .combining,
      .power, .pcie, .outputs] s t0 := by
  refine Keeps.performed ?_ h
  refine Keeps.ite (fun _ => ?_) (fun _ => ?_)
  refine State.combineIn_keeps (fun _ _ _ => ?_)
  refine Keeps.after (State.broadcastNote_keeps ..) ?_
  exact Keeps.refl _ _
  exact Keeps.refl _ _

/-- What execBootFlashWaitEnd may change. -/
theorem execBootFlashWaitEnd_keeps {s : State} {t0 : State}
    (h : execBootFlashWaitEnd s = .next t0) : Keeps [.free, .mem, .writes, .regs, .boot, .binnacle] s t0 := by
  refine Keeps.performed ?_ h
  refine Keeps.after (State.bootGoesOn_keeps ..) ?_
  exact Keeps.refl _ _

/-- What execBoot may change. -/
theorem execBoot_keeps {s : State} {t0 : State}
    (h : execBoot s = .next t0) : Keeps [.free, .mem, .writes, .regs, .eventSeq, .pcie, .boot, .outputs] s t0 := by
  refine Keeps.performed ?_ h
  refine Keeps.after (State.bootRom_keeps ..) ?_
  exact Keeps.refl _ _

/-- What execBreakNotice may change. -/
theorem execBreakNotice_keeps {port : Nat} {packet : Packet} {s : State} {t0 : State}
    (h : execBreakNotice port packet s = .next t0) : Keeps [.mem, .writes, .regs, .eventSeq, .fabric, .pcie,
      .outputs] s t0 := by
  refine Keeps.performed ?_ h
  refine Keeps.ite (fun _ => ?_) (fun _ => ?_)
  refine Keeps.after (State.onBreak_keeps ..) ?_
  refine Keeps.after (State.takeIn_keeps ..) ?_
  exact Keeps.refl _ _
  exact Keeps.refl _ _

/-- What execBroadcast may change. -/
theorem execBroadcast_keeps {id : TaskId} {s : State} {t0 : State}
    (h : execBroadcast id s = .next t0) : Keeps [.free, .mem, .writes, .regs, .tasks, .fabric, .combining,
      .outputs] s t0 := by
  refine Keeps.performed ?_ h
  refine Keeps.after (State.broadcastStart_keeps ..) ?_
  exact Keeps.refl _ _

/-- What execCapWrite may change. -/
theorem execCapWrite_keeps {value : Nat} {s : State} {t0 : State}
    (h : execCapWrite value s = .next t0) : Keeps [.mem, .writes, .regs, .eventSeq, .power, .pcie,
      .outputs] s t0 := by
  refine Keeps.performed ?_ h
  refine State.hostWrite_keeps ?_
  refine Keeps.after (State.capWrite_keeps ..) ?_
  exact Keeps.refl _ _

/-- What execCasResp may change. -/
theorem execCasResp_keeps {packet : Packet} {s : State} {t0 : State}
    (h : execCasResp packet s = .next t0) : Keeps [.free, .mem, .writes, .regs, .eventSeq, .tasks, .signals, .fabric,
      .reductions, .pcie, .outputs] s t0 := by
  refine Keeps.performed ?_ h
  refine Keeps.after (State.takeResponse_keeps ..) ?_
  exact Keeps.refl _ _

/-- What execCas may change. -/
theorem execCas_keeps {packet : Packet} {s : State} {t0 : State}
    (h : execCas packet s = .next t0) : Keeps [.free, .mem, .writes, .regs, .eventSeq, .tasks, .signals, .fabric,
      .reductions, .power, .pcie, .outputs] s t0 := by
  refine Keeps.performed ?_ h
  refine Keeps.after (State.serveOp_keeps ..) ?_
  exact Keeps.refl _ _

/-- What execChain may change. -/
theorem execChain_keeps {id : TaskId} {s : State} {t0 : State}
    (h : execChain id s = .next t0) : Keeps [.free, .mem, .writes, .regs, .eventSeq, .tasks, .drift, .pcie,
      .outputs] s t0 := by
  refine Keeps.performed ?_ h
  refine Keeps.after (State.engineStep_keeps ..) ?_
  exact Keeps.refl _ _

/-- What execChartResend may change. -/
theorem execChartResend_keeps {port : Nat} {s : State} {t0 : State}
    (h : execChartResend port s = .next t0) : Keeps [.fabric, .outputs] s t0 := by
  refine Keeps.performed ?_ h
  dsimp only
  refine Keeps.ite (fun _ => ?_) (fun _ => ?_)
  refine Keeps.after (State.sendChart_keeps ..) ?_
  exact Keeps.refl _ _
  exact Keeps.refl _ _

/-- What execChart may change. -/
theorem execChart_keeps {port : Nat} {part : Nat} {state : Nat} {node : Nat} {systemId : Nat} {digest : List Byte} {s : State}
      {t0 : State}
    (h : execChart port part state node systemId digest s = .next t0) : Keeps [.mem, .writes, .regs, .eventSeq,
      .fabric, .pcie, .outputs] s t0 := by
  refine Keeps.performed ?_ h
  refine Keeps.ite (fun _ => ?_) (fun _ => ?_)
  refine Keeps.after (State.onChart_keeps ..) ?_
  refine Keeps.after (State.heard_keeps ..) ?_
  exact Keeps.refl _ _
  exact Keeps.refl _ _

/-- What execClearPeer may change. -/
theorem execClearPeer_keeps {request : MgmtRequest} {s : State} {t0 : State}
    (h : execClearPeer request s = .next t0) : Keeps [.regs, .fabric, .binnacle, .outputs] s t0 := by
  refine Keeps.performed ?_ h
  refine Keeps.after (State.clearPeer_keeps ..) ?_
  exact Keeps.refl _ _

/-- What execClearRetired may change. -/
theorem execClearRetired_keeps {request : MgmtRequest} {s : State} {t0 : State}
    (h : execClearRetired request s = .next t0) : Keeps [.regs, .fabric, .binnacle, .outputs] s t0 := by
  refine Keeps.performed ?_ h
  refine Keeps.after (State.clearRetired_keeps ..) ?_
  exact Keeps.refl _ _

/-- What execClearSafe may change. -/
theorem execClearSafe_keeps {request : MgmtRequest} {s : State} {t0 : State}
    (h : execClearSafe request s = .next t0) : Keeps [.regs, .fabric, .carrier, .outputs] s t0 := by
  refine Keeps.performed ?_ h
  refine Keeps.after (State.clearSafe_keeps ..) ?_
  exact Keeps.refl _ _

/-- What execCloseLedgerComplete may change. -/
theorem execCloseLedgerComplete_keeps {id : TaskId} {s : State} {t0 : State}
    (h : execCloseLedgerComplete id s = .next t0) : Keeps [.mem, .writes, .regs, .eventSeq, .errorSeq, .tasks,
      .reductions, .pcie, .outputs] s t0 := by
  refine Keeps.performed ?_ h
  refine Keeps.after (State.closeComplete_keeps ..) ?_
  exact Keeps.refl _ _

/-- What execCollClose may change. -/
theorem execCollClose_keeps {id : TaskId} {s : State} {t0 : State}
    (h : execCollClose id s = .next t0) : Keeps [.mem, .writes, .regs, .eventSeq, .errorSeq, .tasks, .reductions,
      .pcie, .outputs] s t0 := by
  refine Keeps.performed ?_ h
  refine Keeps.after (State.closeStart_keeps ..) ?_
  exact Keeps.refl _ _

/-- What execCollOpen may change. -/
theorem execCollOpen_keeps {id : TaskId} {s : State} {t0 : State}
    (h : execCollOpen id s = .next t0) : Keeps [.mem, .writes, .tasks, .reductions] s t0 := by
  refine Keeps.performed ?_ h
  refine Keeps.after (State.openReduction_keeps ..) ?_
  exact Keeps.refl _ _

/-- What execCollectiveDeadline may change. -/
theorem execCollectiveDeadline_keeps {id : TaskId} {s : State} {t0 : State}
    (h : execCollectiveDeadline id s = .next t0) : Keeps [.free, .mem, .writes, .regs, .eventSeq, .errorSeq, .tasks,
      .fabric, .reductions, .combining, .pcie, .outputs] s t0 := by
  refine Keeps.performed ?_ h
  refine Keeps.after (State.collDeadline_keeps ..) ?_
  exact Keeps.refl _ _

/-- What execCommitSvn may change. -/
theorem execCommitSvn_keeps {s : State} {t0 : State}
    (h : execCommitSvn s = .next t0) : Keeps [.binnacle, .outputs] s t0 := by
  refine Keeps.performed ?_ h
  refine State.secWrite_keeps ?_
  refine Keeps.after (State.commitSvn_keeps ..) ?_
  exact Keeps.refl _ _

/-- What execCompletionRecordWrite may change. -/
theorem execCompletionRecordWrite_keeps {ring : Nat} {s : State} {t0 : State}
    (h : execCompletionRecordWrite ring s = .next t0) : Keeps [.mem, .writes, .regs, .rings, .tasks, .signals, .pcie,
      .outputs] s t0 := by
  refine Keeps.performed ?_ h
  refine Keeps.after (State.recordWrite_keeps ..) ?_
  exact Keeps.refl _ _

/-- What execConfigurationRequest may change. -/
theorem execConfigurationRequest_keeps {register : CfgRegister} {value : Nat} {s : State} {t0 : State}
    (h : execConfigurationRequest register value s = .next t0) : Keeps [.pcie, .outputs] s t0 := by
  refine Keeps.performed ?_ h
  refine Keeps.after (State.configurationRequest_keeps ..) ?_
  exact Keeps.refl _ _

/-- What execCoolantLoss may change. -/
theorem execCoolantLoss_keeps {reading : Reading} {s : State} {t0 : State}
    (h : execCoolantLoss reading s = .next t0) : Keeps [.mem, .writes, .regs, .eventSeq, .errorSeq, .chart, .load,
      .unloadWaiting, .zeroing, .rings, .tasks, .signals, .jobs, .streams, .memQueue, .tables, .drift, .lanes,
      .corrections, .scrubbed, .bankQuiet, .fabric, .reductions, .combining, .sysreset, .power, .pcie, .boot,
      .binnacle, .carrier, .outputs] s t0 := by
  refine Keeps.performed ?_ h
  refine Keeps.after (State.coolantLoss_keeps ..) ?_
  exact Keeps.refl _ _

/-- What execCopy2d may change. -/
theorem execCopy2d_keeps {reads : TaskReads} {s : State} {t0 : State}
    (h : execCopy2d reads s = .next t0) : Keeps [.free, .mem, .writes, .regs, .eventSeq, .errorSeq, .tasks, .drift,
      .lanes, .corrections, .pcie, .binnacle, .outputs] s t0 := by
  refine Keeps.performed ?_ h
  refine Keeps.after (State.copyStep_keeps ..) ?_
  exact Keeps.refl _ _

/-- What execCopy may change. -/
theorem execCopy_keeps {reads : TaskReads} {s : State} {t0 : State}
    (h : execCopy reads s = .next t0) : Keeps [.free, .mem, .writes, .regs, .eventSeq, .errorSeq, .tasks, .drift,
      .lanes, .corrections, .pcie, .binnacle, .outputs] s t0 := by
  refine Keeps.performed ?_ h
  refine Keeps.after (State.copyStep_keeps ..) ?_
  exact Keeps.refl _ _

/-- What execCqHead may change. -/
theorem execCqHead_keeps {ring : Nat} {size : Nat} {value : Nat} {s : State} {t0 : State}
    (h : execCqHead ring size value s = .next t0) : Keeps [.regs, .rings, .outputs] s t0 := by
  refine Keeps.performed ?_ h
  refine State.hostWrite_keeps ?_
  refine Keeps.after (State.cqHeadWrite_keeps ..) ?_
  exact Keeps.refl _ _

/-- What execDeadlineExpiry may change. -/
theorem execDeadlineExpiry_keeps {id : TaskId} {s : State} {t0 : State}
    (h : execDeadlineExpiry id s = .next t0) : Keeps [.mem, .writes, .regs, .rings, .tasks, .signals, .pcie,
      .outputs] s t0 := by
  refine Keeps.performed ?_ h
  refine Keeps.after (State.deadlineExpiry_keeps ..) ?_
  exact Keeps.refl _ _

/-- What execDelayExpiry may change. -/
theorem execDelayExpiry_keeps {id : TaskId} {s : State} {t0 : State}
    (h : execDelayExpiry id s = .next t0) : Keeps [.tasks] s t0 := by
  refine Keeps.performed ?_ h
  refine Keeps.after (State.delayExpiry_keeps ..) ?_
  exact Keeps.refl _ _

/-- What execDevReset may change. -/
theorem execDevReset_keeps {value : Nat} {s : State} {t0 : State}
    (h : execDevReset value s = .next t0) : Keeps [.mem, .writes, .regs, .eventSeq, .errorSeq, .chart, .load,
      .unloadWaiting, .zeroing, .rings, .tasks, .signals, .jobs, .streams, .memQueue, .tables, .drift, .lanes,
      .corrections, .scrubbed, .bankQuiet, .fabric, .reductions, .combining, .sysreset, .power, .pcie, .boot,
      .outputs] s t0 := by
  refine Keeps.performed ?_ h
  refine State.hostWrite_keeps ?_
  refine Keeps.ite (fun _ => ?_) (fun _ => ?_)
  refine Keeps.after (State.moduleReset_keeps ..) ?_
  exact Keeps.refl _ _
  exact Keeps.refl _ _

/-- What execDiscard may change. -/
theorem execDiscard_keeps {ring : Nat} {s : State} {t0 : State}
    (h : execDiscard ring s = .next t0) : Keeps [.free, .mem, .writes, .regs, .rings, .tasks, .signals, .fabric,
      .pcie, .outputs] s t0 := by
  refine Keeps.performed ?_ h
  refine Keeps.after (State.ringDiscard_keeps ..) ?_
  exact Keeps.refl _ _

/-- What execDispatch may change. -/
theorem execDispatch_keeps {engine : Nat} {place : Nat} {s : State} {t0 : State}
    (h : execDispatch engine place s = .next t0) : Keeps [.free, .mem, .writes, .regs, .tasks, .tables] s t0 := by
  refine Keeps.performed ?_ h
  refine Keeps.after (State.dispatchAt_keeps ..) ?_
  exact Keeps.refl _ _

/-- What execDoorbellTail may change. -/
theorem execDoorbellTail_keeps {ring : Nat} {off : Nat} {size : Nat} {value : Nat} {s : State} {t0 : State}
    (h : execDoorbellTail ring off size value s = .next t0) : Keeps [.mem, .writes, .regs, .eventSeq, .rings,
      .fabric, .power, .pcie, .outputs] s t0 := by
  refine Keeps.performed ?_ h
  refine State.hostWrite_keeps ?_
  refine Keeps.after (State.doorbellWrite_keeps ..) ?_
  exact Keeps.refl _ _

/-- What execDriftCfgWrite may change. -/
theorem execDriftCfgWrite_keeps {value : Nat} {s : State} {t0 : State}
    (h : execDriftCfgWrite value s = .next t0) : Keeps [.regs, .drift, .outputs] s t0 := by
  refine Keeps.performed ?_ h
  refine State.hostWrite_keeps ?_
  refine Keeps.after (State.driftCfgWrite_keeps ..) ?_
  exact Keeps.refl _ _

/-- What execDroopHoldEnd may change. -/
theorem execDroopHoldEnd_keeps {die : Nat} {s : State} {t0 : State}
    (h : execDroopHoldEnd die s = .next t0) : Keeps [.power] s t0 := by
  refine Keeps.performed ?_ h
  refine Keeps.after (State.droopHoldEnd_keeps ..) ?_
  exact Keeps.refl _ _

/-- What execDroopPersist may change. -/
theorem execDroopPersist_keeps {die : Nat} {s : State} {t0 : State}
    (h : execDroopPersist die s = .next t0) : Keeps [.power] s t0 := by
  refine Keeps.performed ?_ h
  refine Keeps.after (State.droopPersist_keeps ..) ?_
  exact Keeps.refl _ _

/-- What execDroop may change. -/
theorem execDroop_keeps {die : Nat} {cycles : Nat} {s : State} {t0 : State}
    (h : execDroop die cycles s = .next t0) : Keeps [.regs] s t0 := by
  refine Keeps.performed ?_ h
  refine Keeps.after (State.bump_keeps ..) ?_
  exact Keeps.refl _ _

/-- What execEnroll may change. -/
theorem execEnroll_keeps {body : List Byte} {s : State} {t0 : State}
    (h : execEnroll body s = .next t0) : Keeps [.mem, .writes, .regs, .eventSeq, .pcie, .binnacle,
      .outputs] s t0 := by
  refine Keeps.performed ?_ h
  refine State.doeRequest_keeps ?_
  refine Keeps.after (State.doeEnroll_keeps ..) ?_
  exact Keeps.refl _ _

/-- What execEqualisationEnd may change. -/
theorem execEqualisationEnd_keeps {port : Nat} {ok : Bool} {s : State} {t0 : State}
    (h : execEqualisationEnd port ok s = .next t0) : Keeps [.mem, .writes, .regs, .eventSeq, .fabric, .combining,
      .pcie, .outputs] s t0 := by
  refine Keeps.performed ?_ h
  dsimp only
  refine Keeps.ite (fun _ => ?_) (fun _ => ?_)
  exact Keeps.refl _ _
  refine Keeps.ite (fun _ => ?_) (fun _ => ?_)
  refine Keeps.after (State.setPort_keeps ..) ?_
  exact Keeps.refl _ _
  refine Keeps.after (State.linkDown_keeps ..) ?_
  exact Keeps.refl _ _

/-- What execErrLogEnable may change. -/
theorem execErrLogEnable_keeps {enable : Bool} {s : State} {t0 : State}
    (h : execErrLogEnable enable s = .next t0) : Keeps [.regs, .outputs] s t0 := by
  refine Keeps.performed ?_ h
  refine State.hostWrite_keeps ?_
  refine Keeps.after (State.errLogEnable_keeps ..) ?_
  exact Keeps.refl _ _

/-- What execErrLogHead may change. -/
theorem execErrLogHead_keeps {head : Nat} {s : State} {t0 : State}
    (h : execErrLogHead head s = .next t0) : Keeps [.regs, .outputs] s t0 := by
  refine Keeps.performed ?_ h
  refine State.hostWrite_keeps ?_
  refine Keeps.after (State.errLogHead_keeps ..) ?_
  exact Keeps.refl _ _

/-- What execEvqEnable may change. -/
theorem execEvqEnable_keeps {enable : Bool} {s : State} {t0 : State}
    (h : execEvqEnable enable s = .next t0) : Keeps [.regs, .outputs] s t0 := by
  refine Keeps.performed ?_ h
  refine State.hostWrite_keeps ?_
  refine Keeps.after (State.evqEnable_keeps ..) ?_
  exact Keeps.refl _ _

/-- What execEvqHead may change. -/
theorem execEvqHead_keeps {head : Nat} {s : State} {t0 : State}
    (h : execEvqHead head s = .next t0) : Keeps [.regs, .outputs] s t0 := by
  refine Keeps.performed ?_ h
  refine State.hostWrite_keeps ?_
  refine Keeps.after (State.evqHead_keeps ..) ?_
  exact Keeps.refl _ _

/-- What execExactAcc may change. -/
theorem execExactAcc_keeps {packet : Packet} {s : State} {t0 : State}
    (h : execExactAcc packet s = .next t0) : Keeps [.free, .mem, .writes, .regs, .eventSeq, .tasks, .signals,
      .fabric, .reductions, .power, .pcie, .outputs] s t0 := by
  refine Keeps.performed ?_ h
  refine Keeps.after (State.serveOp_keeps ..) ?_
  exact Keeps.refl _ _

/-- What execExportRows may change. -/
theorem execExportRows_keeps {id : TaskId} {s : State} {t0 : State}
    (h : execExportRows id s = .next t0) : Keeps [.free, .mem, .writes, .regs, .eventSeq, .tasks, .drift, .pcie,
      .outputs] s t0 := by
  refine Keeps.performed ?_ h
  refine Keeps.after (State.engineStep_keeps ..) ?_
  exact Keeps.refl _ _

/-- What execFeatCommit may change. -/
theorem execFeatCommit_keeps {s : State} {t0 : State}
    (h : execFeatCommit s = .next t0) : Keeps [.mem, .writes, .regs, .eventSeq, .pcie, .outputs] s t0 := by
  refine Keeps.performed ?_ h
  refine State.hostWrite_keeps ?_
  refine Keeps.after (State.featCommit_keeps ..) ?_
  exact Keeps.refl _ _

/-- What execFecLockLost may change. -/
theorem execFecLockLost_keeps {port : Nat} {s : State} {t0 : State}
    (h : execFecLockLost port s = .next t0) : Keeps [.mem, .writes, .regs, .eventSeq, .fabric, .combining, .pcie,
      .outputs] s t0 := by
  refine Keeps.performed ?_ h
  refine Keeps.ite (fun _ => ?_) (fun _ => ?_)
  refine Keeps.after (State.linkDown_keeps ..) ?_
  exact Keeps.refl _ _
  exact Keeps.refl _ _

/-- What execFenceCleared may change. -/
theorem execFenceCleared_keeps {ring : Nat} {s : State} {t0 : State}
    (h : execFenceCleared ring s = .next t0) : Keeps [.rings] s t0 := by
  refine Keeps.performed ?_ h
  refine Keeps.after (State.fenceCleared_keeps ..) ?_
  exact Keeps.refl _ _

/-- What execFence may change. -/
theorem execFence_keeps {ring : Nat} {s : State} {t0 : State}
    (h : execFence ring s = .next t0) : Keeps [.mem, .writes, .rings, .pcie, .outputs] s t0 := by
  refine Keeps.performed ?_ h
  refine Keeps.after (State.ringFence_keeps ..) ?_
  exact Keeps.refl _ _

/-- What execFill may change. -/
theorem execFill_keeps {id : TaskId} {s : State} {t0 : State}
    (h : execFill id s = .next t0) : Keeps [.free, .mem, .writes, .regs, .eventSeq, .tasks, .drift, .pcie,
      .outputs] s t0 := by
  refine Keeps.performed ?_ h
  refine Keeps.after (State.engineStep_keeps ..) ?_
  exact Keeps.refl _ _

/-- What execFixDown may change. -/
theorem execFixDown_keeps {packet : Packet} {s : State} {t0 : State}
    (h : execFixDown packet s = .next t0) : Keeps [.mem, .writes, .regs, .eventSeq, .tasks, .fabric, .combining,
      .power, .pcie, .outputs] s t0 := by
  refine Keeps.performed ?_ h
  refine Keeps.after (State.combineOp_keeps ..) ?_
  exact Keeps.refl _ _

/-- What execFixDrained may change. -/
theorem execFixDrained_keeps {id : TaskId} {s : State} {t0 : State}
    (h : execFixDrained id s = .next t0) : Keeps [.mem, .writes, .regs, .tasks, .fabric, .combining,
      .outputs] s t0 := by
  refine Keeps.performed ?_ h
  split
  refine Keeps.ite (fun _ => ?_) (fun _ => ?_)
  refine Keeps.after (State.combineArrive_keeps ..) ?_
  refine Keeps.after (State.setTask_keeps ..) ?_
  exact Keeps.refl _ _
  exact Keeps.refl _ _
  exact Keeps.refl _ _

/-- What execFixUp may change. -/
theorem execFixUp_keeps {packet : Packet} {s : State} {t0 : State}
    (h : execFixUp packet s = .next t0) : Keeps [.mem, .writes, .regs, .eventSeq, .tasks, .fabric, .combining,
      .power, .pcie, .outputs] s t0 := by
  refine Keeps.performed ?_ h
  refine Keeps.after (State.combineOp_keeps ..) ?_
  exact Keeps.refl _ _

/-- What execFix may change. -/
theorem execFix_keeps {id : TaskId} {s : State} {t0 : State}
    (h : execFix id s = .next t0) : Keeps [.tasks] s t0 := by
  refine Keeps.performed ?_ h
  split
  refine Keeps.ite (fun _ => ?_) (fun _ => ?_)
  refine Keeps.after (State.setTask_keeps ..) ?_
  exact Keeps.refl _ _
  exact Keeps.refl _ _
  exact Keeps.refl _ _

/-- What execFlitReceive may change. -/
theorem execFlitReceive_keeps {port : Nat} {seq : Nat} {unit : Nat} {fec : Nat} {value : Nat} {s : State} {t0 : State}
    (h : execFlitReceive port seq unit fec value s = .next t0) : Keeps [.mem, .writes, .regs, .eventSeq, .fabric,
      .combining, .pcie, .binnacle, .outputs] s t0 := by
  refine Keeps.performed ?_ h
  refine Keeps.ite (fun _ => ?_) (fun _ => ?_)
  refine Keeps.after (State.unitArrives_keeps ..) ?_
  exact Keeps.refl _ _
  exact Keeps.refl _ _

/-- What execForce may change. -/
theorem execForce_keeps {s : State} {t0 : State}
    (h : execForce s = .next t0) : Keeps [.free, .mem, .writes, .regs, .rings, .tasks, .signals, .fabric, .pcie,
      .outputs] s t0 := by
  refine Keeps.performed ?_ h
  refine State.hostWrite_keeps ?_
  refine Keeps.after (State.force_keeps ..) ?_
  exact Keeps.refl _ _

/-- What execFromHost may change. -/
theorem execFromHost_keeps {task : TaskId} {s : State} {t0 : State}
    (h : execFromHost task s = .next t0) : Keeps [.free, .mem, .writes, .regs, .eventSeq, .tasks, .drift, .pcie,
      .outputs] s t0 := by
  refine Keeps.performed ?_ h
  refine Keeps.after (State.fromHost_keeps ..) ?_
  exact Keeps.refl _ _

/-- What execFunctionReset may change. -/
theorem execFunctionReset_keeps {s : State} {t0 : State}
    (h : execFunctionReset s = .next t0) : Keeps [.mem, .writes, .regs, .eventSeq, .chart, .load, .unloadWaiting,
      .zeroing, .rings, .tasks, .signals, .jobs, .streams, .memQueue, .tables, .fabric, .reductions, .combining,
      .sysreset, .pcie, .outputs] s t0 := by
  refine Keeps.performed ?_ h
  refine Keeps.after (State.functionReset_keeps ..) ?_
  exact Keeps.refl _ _

/-- What execGather may change. -/
theorem execGather_keeps {id : TaskId} {remote : List RemoteReply} {s : State} {t0 : State}
    (h : execGather id remote s = .next t0) : Keeps [.free, .mem, .writes, .regs, .eventSeq, .tasks, .streams,
      .memQueue, .drift, .fabric, .pcie, .outputs] s t0 := by
  refine Keeps.performed ?_ h
  refine Keeps.after (State.gatherStep_keeps ..) ?_
  exact Keeps.refl _ _

/-- What execGetAgeing may change. -/
theorem execGetAgeing_keeps {request : MgmtRequest} {s : State} {t0 : State}
    (h : execGetAgeing request s = .next t0) : Keeps [.regs, .fabric, .outputs] s t0 := by
  refine Keeps.performed ?_ h
  refine Keeps.after (State.getAgeing_keeps ..) ?_
  exact Keeps.refl _ _

/-- What execGetCert may change. -/
theorem execGetCert_keeps {body : List Byte} {s : State} {t0 : State}
    (h : execGetCert body s = .next t0) : Keeps [.outputs] s t0 := by
  refine Keeps.performed ?_ h
  refine State.doeRequest_keeps ?_
  refine Keeps.after (State.doeReply_keeps ..) ?_
  exact Keeps.refl _ _

/-- What execGetEvents may change. -/
theorem execGetEvents_keeps {request : MgmtRequest} {s : State} {t0 : State}
    (h : execGetEvents request s = .next t0) : Keeps [.regs, .fabric, .outputs] s t0 := by
  refine Keeps.performed ?_ h
  refine Keeps.after (State.getEvents_keeps ..) ?_
  exact Keeps.refl _ _

/-- What execGetNonce may change. -/
theorem execGetNonce_keeps {body : List Byte} {nonce : Nonce} {s : State} {t0 : State}
    (h : execGetNonce body nonce s = .next t0) : Keeps [.pcie, .outputs] s t0 := by
  refine Keeps.performed ?_ h
  refine State.doeRequest_keeps ?_
  refine Keeps.after (State.getNonce_keeps ..) ?_
  exact Keeps.refl _ _

/-- What execGetReport may change. -/
theorem execGetReport_keeps {body : List Byte} {s : State} {t0 : State}
    (h : execGetReport body s = .next t0) : Keeps [.outputs] s t0 := by
  refine Keeps.performed ?_ h
  refine State.doeRequest_keeps ?_
  refine Keeps.ite (fun _ => ?_) (fun _ => ?_)
  refine Keeps.after (State.doeReply_keeps ..) ?_
  exact Keeps.refl _ _
  refine Keeps.after (State.doeReply_keeps ..) ?_
  exact Keeps.refl _ _

/-- What execGetResp may change. -/
theorem execGetResp_keeps {packet : Packet} {s : State} {t0 : State}
    (h : execGetResp packet s = .next t0) : Keeps [.free, .mem, .writes, .regs, .eventSeq, .tasks, .signals, .fabric,
      .reductions, .pcie, .outputs] s t0 := by
  refine Keeps.performed ?_ h
  refine Keeps.after (State.takeResponse_keeps ..) ?_
  exact Keeps.refl _ _

/-- What execGetSensors may change. -/
theorem execGetSensors_keeps {request : MgmtRequest} {s : State} {t0 : State}
    (h : execGetSensors request s = .next t0) : Keeps [.free, .regs, .fabric, .outputs] s t0 := by
  refine Keeps.performed ?_ h
  refine Keeps.after (State.getSensors_keeps ..) ?_
  exact Keeps.refl _ _

/-- What execGetStatus may change. -/
theorem execGetStatus_keeps {request : MgmtRequest} {s : State} {t0 : State}
    (h : execGetStatus request s = .next t0) : Keeps [.regs, .fabric, .outputs] s t0 := by
  refine Keeps.performed ?_ h
  refine Keeps.after (State.getStatus_keeps ..) ?_
  exact Keeps.refl _ _

/-- What execGet may change. -/
theorem execGet_keeps {packet : Packet} {s : State} {t0 : State}
    (h : execGet packet s = .next t0) : Keeps [.free, .mem, .writes, .regs, .eventSeq, .tasks, .signals, .fabric,
      .reductions, .power, .pcie, .outputs] s t0 := by
  refine Keeps.performed ?_ h
  refine Keeps.after (State.serveOp_keeps ..) ?_
  exact Keeps.refl _ _

/-- What execGrad may change. -/
theorem execGrad_keeps {id : TaskId} {s : State} {t0 : State}
    (h : execGrad id s = .next t0) : Keeps [.free, .mem, .writes, .regs, .eventSeq, .tasks, .drift, .pcie,
      .outputs] s t0 := by
  refine Keeps.performed ?_ h
  refine Keeps.after (State.engineStep_keeps ..) ?_
  exact Keeps.refl _ _

/-- What execHandleCool may change. -/
theorem execHandleCool_keeps {celsius : Nat} {s : State} {t0 : State}
    (h : execHandleCool celsius s = .next t0) : Keeps [.carrier] s t0 := by
  refine Keeps.performed ?_ h
  refine Keeps.after (State.handleCool_keeps ..) ?_
  exact Keeps.refl _ _

/-- What execHandleHot may change. -/
theorem execHandleHot_keeps {celsius : Nat} {s : State} {t0 : State}
    (h : execHandleHot celsius s = .next t0) : Keeps [.carrier] s t0 := by
  refine Keeps.performed ?_ h
  refine Keeps.after (State.handleHot_keeps ..) ?_
  exact Keeps.refl _ _

/-- What execHostCompletion may change. -/
theorem execHostCompletion_keeps {tag : Nat} {status : CplStatus} {ep : Bool} {data : List Byte} {s : State} {t0 :
      State}
    (h : execHostCompletion tag status ep data s = .next t0) : Keeps [.free, .mem, .writes, .regs, .eventSeq, .tasks,
      .drift, .fabric, .pcie, .outputs] s t0 := by
  refine Keeps.performed ?_ h
  refine Keeps.ite (fun _ => ?_) (fun _ => ?_)
  refine Keeps.after (State.hostCompletion_keeps ..) ?_
  exact Keeps.refl _ _
  exact Keeps.refl _ _

/-- What execHostTimeout may change. -/
theorem execHostTimeout_keeps {tag : Nat} {s : State} {t0 : State}
    (h : execHostTimeout tag s = .next t0) : Keeps [.free, .mem, .writes, .regs, .tasks, .fabric, .pcie,
      .outputs] s t0 := by
  refine Keeps.performed ?_ h
  refine Keeps.after (State.hostTimeout_keeps ..) ?_
  exact Keeps.refl _ _

/-- What execIdent may change. -/
theorem execIdent_keeps {port : Nat} {part : Nat} {content : List Byte} {s : State} {t0 : State}
    (h : execIdent port part content s = .next t0) : Keeps [.mem, .writes, .regs, .eventSeq, .fabric, .pcie,
      .binnacle, .outputs] s t0 := by
  refine Keeps.performed ?_ h
  refine Keeps.ite (fun _ => ?_) (fun _ => ?_)
  refine Keeps.after (State.onIdent_keeps ..) ?_
  refine Keeps.after (State.heard_keeps ..) ?_
  exact Keeps.refl _ _
  exact Keeps.refl _ _

/-- What execInputHigh may change. -/
theorem execInputHigh_keeps {vin : Nat} {s : State} {t0 : State}
    (h : execInputHigh vin s = .next t0) : Keeps [.mem, .writes, .regs, .eventSeq, .power, .pcie, .carrier,
      .outputs] s t0 := by
  refine Keeps.performed ?_ h
  refine Keeps.after (State.inputHigh_keeps ..) ?_
  exact Keeps.refl _ _

/-- What execInputLow may change. -/
theorem execInputLow_keeps {vin : Nat} {s : State} {t0 : State}
    (h : execInputLow vin s = .next t0) : Keeps [.mem, .writes, .regs, .eventSeq, .power, .pcie, .outputs] s t0 := by
  refine Keeps.performed ?_ h
  refine Keeps.after (State.inputLow_keeps ..) ?_
  exact Keeps.refl _ _

/-- What execInputOvervoltage may change. -/
theorem execInputOvervoltage_keeps {vin : Nat} {persisted : Bool} {s : State} {t0 : State}
    (h : execInputOvervoltage vin persisted s = .next t0) : Keeps [.mem, .writes, .regs, .eventSeq, .errorSeq,
      .chart, .load, .unloadWaiting, .zeroing, .rings, .tasks, .signals, .jobs, .streams, .memQueue, .tables, .drift,
      .lanes, .corrections, .scrubbed, .bankQuiet, .fabric, .reductions, .combining, .sysreset, .power, .pcie, .boot,
      .binnacle, .carrier, .outputs] s t0 := by
  refine Keeps.performed ?_ h
  refine Keeps.after (State.inputOvervoltage_keeps ..) ?_
  exact Keeps.refl _ _

/-- What execInputRestored may change. -/
theorem execInputRestored_keeps {vin : Nat} {s : State} {t0 : State}
    (h : execInputRestored vin s = .next t0) : Keeps [.mem, .writes, .regs, .eventSeq, .power, .pcie, .carrier,
      .outputs] s t0 := by
  refine Keeps.performed ?_ h
  refine Keeps.after (State.inputRestored_keeps ..) ?_
  exact Keeps.refl _ _

/-- What execInputUndervoltage may change. -/
theorem execInputUndervoltage_keeps {vin : Nat} {s : State} {t0 : State}
    (h : execInputUndervoltage vin s = .next t0) : Keeps [.mem, .writes, .regs, .eventSeq, .errorSeq, .chart, .load,
      .unloadWaiting, .zeroing, .rings, .tasks, .signals, .jobs, .streams, .memQueue, .tables, .drift, .lanes,
      .corrections, .scrubbed, .bankQuiet, .fabric, .reductions, .combining, .sysreset, .power, .pcie, .boot,
      .carrier, .outputs] s t0 := by
  refine Keeps.performed ?_ h
  refine Keeps.after (State.inputUndervoltage_keeps ..) ?_
  exact Keeps.refl _ _

/-- What execIntersect may change. -/
theorem execIntersect_keeps {id : TaskId} {s : State} {t0 : State}
    (h : execIntersect id s = .next t0) : Keeps [.free, .mem, .writes, .regs, .eventSeq, .tasks, .drift, .pcie,
      .outputs] s t0 := by
  refine Keeps.performed ?_ h
  refine Keeps.after (State.engineStep_keeps ..) ?_
  exact Keeps.refl _ _

/-- What execJobKill may change. -/
theorem execJobKill_keeps {s : State} {t0 : State}
    (h : execJobKill s = .next t0) : Keeps [.regs, .rings, .jobs, .outputs] s t0 := by
  refine Keeps.performed ?_ h
  refine State.hostWrite_keeps ?_
  refine Keeps.after (State.jobKill_keeps ..) ?_
  exact Keeps.refl _ _

/-- What execJobRevive may change. -/
theorem execJobRevive_keeps {s : State} {t0 : State}
    (h : execJobRevive s = .next t0) : Keeps [.jobs, .outputs] s t0 := by
  refine Keeps.performed ?_ h
  refine State.hostWrite_keeps ?_
  refine Keeps.after (State.jobRevive_keeps ..) ?_
  exact Keeps.refl _ _

/-- What execJobTerminated may change. -/
theorem execJobTerminated_keeps {job : Nat} {s : State} {t0 : State}
    (h : execJobTerminated job s = .next t0) : Keeps [.free, .mem, .writes, .regs, .eventSeq, .errorSeq, .rings,
      .tasks, .signals, .jobs, .streams, .memQueue, .tables, .fabric, .reductions, .combining, .pcie,
      .outputs] s t0 := by
  refine Keeps.performed ?_ h
  refine Keeps.after (State.jobTerminated_keeps ..) ?_
  exact Keeps.refl _ _

/-- What execJunctionOvertemp may change. -/
theorem execJunctionOvertemp_keeps {reading : Reading} {s : State} {t0 : State}
    (h : execJunctionOvertemp reading s = .next t0) : Keeps [.mem, .writes, .regs, .eventSeq, .errorSeq, .chart,
      .load, .unloadWaiting, .zeroing, .rings, .tasks, .signals, .jobs, .streams, .memQueue, .tables, .drift, .lanes,
      .corrections, .scrubbed, .bankQuiet, .fabric, .reductions, .combining, .sysreset, .power, .pcie, .boot,
      .binnacle, .carrier, .outputs] s t0 := by
  refine Keeps.performed ?_ h
  refine Keeps.after (State.junctionOvertemp_keeps ..) ?_
  exact Keeps.refl _ _

/-- What execJunctionThrottle may change. -/
theorem execJunctionThrottle_keeps {die : Nat} {tj : Nat} {s : State} {t0 : State}
    (h : execJunctionThrottle die tj s = .next t0) : Keeps [.regs, .power] s t0 := by
  refine Keeps.performed ?_ h
  refine Keeps.after (State.junctionThrottle_keeps ..) ?_
  exact Keeps.refl _ _

/-- What execKeepaliveLost may change. -/
theorem execKeepaliveLost_keeps {port : Nat} {s : State} {t0 : State}
    (h : execKeepaliveLost port s = .next t0) : Keeps [.mem, .writes, .regs, .eventSeq, .fabric, .combining, .pcie,
      .outputs] s t0 := by
  refine Keeps.performed ?_ h
  refine Keeps.ite (fun _ => ?_) (fun _ => ?_)
  refine Keeps.after (State.linkDown_keeps ..) ?_
  exact Keeps.refl _ _
  exact Keeps.refl _ _

/-- What execKeepaliveTimer may change. -/
theorem execKeepaliveTimer_keeps {port : Nat} {s : State} {t0 : State}
    (h : execKeepaliveTimer port s = .next t0) : Keeps [.fabric, .outputs] s t0 := by
  refine Keeps.performed ?_ h
  dsimp only
  refine Keeps.ite (fun _ => ?_) (fun _ => ?_)
  refine Keeps.after (State.sendControl_keeps ..) ?_
  refine Keeps.after (State.setPort_keeps ..) ?_
  exact Keeps.refl _ _
  exact Keeps.refl _ _

/-- What execKeepalive may change. -/
theorem execKeepalive_keeps {port : Nat} {s : State} {t0 : State}
    (h : execKeepalive port s = .next t0) : Keeps [.fabric] s t0 := by
  refine Keeps.performed ?_ h
  refine Keeps.ite (fun _ => ?_) (fun _ => ?_)
  refine Keeps.after (State.heard_keeps ..) ?_
  exact Keeps.refl _ _
  exact Keeps.refl _ _

/-- What execLatchUnderPower may change. -/
theorem execLatchUnderPower_keeps {s : State} {t0 : State}
    (h : execLatchUnderPower s = .next t0) : Keeps [.mem, .writes, .regs, .eventSeq, .errorSeq, .chart, .load,
      .unloadWaiting, .zeroing, .rings, .tasks, .signals, .jobs, .streams, .memQueue, .tables, .drift, .lanes,
      .corrections, .scrubbed, .bankQuiet, .fabric, .reductions, .combining, .sysreset, .power, .pcie, .boot,
      .binnacle, .carrier] s t0 := by
  refine Keeps.performed ?_ h
  refine Keeps.after (State.latchUnderPower_keeps ..) ?_
  exact Keeps.refl _ _

/-- What execLeakage may change. -/
theorem execLeakage_keeps {reading : Reading} {s : State} {t0 : State}
    (h : execLeakage reading s = .next t0) : Keeps [.mem, .writes, .regs, .eventSeq, .errorSeq, .chart, .load,
      .unloadWaiting, .zeroing, .rings, .tasks, .signals, .jobs, .streams, .memQueue, .tables, .drift, .lanes,
      .corrections, .scrubbed, .bankQuiet, .fabric, .reductions, .combining, .sysreset, .power, .pcie, .boot,
      .binnacle, .carrier, .outputs] s t0 := by
  refine Keeps.performed ?_ h
  refine Keeps.after (State.leakage_keeps ..) ?_
  exact Keeps.refl _ _

/-- What execLinkChanged may change. -/
theorem execLinkChanged_keeps {speed : Nat} {width : Nat} {flit : Bool} {s : State} {t0 : State}
    (h : execLinkChanged speed width flit s = .next t0) : Keeps [.mem, .writes, .regs, .eventSeq, .pcie,
      .outputs] s t0 := by
  refine Keeps.performed ?_ h
  refine Keeps.ite (fun _ => ?_) (fun _ => ?_)
  refine Keeps.after (State.linkChanged_keeps ..) ?_
  exact Keeps.refl _ _
  exact Keeps.refl _ _

/-- What execLinkTrainStart may change. -/
theorem execLinkTrainStart_keeps {port : Nat} {s : State} {t0 : State}
    (h : execLinkTrainStart port s = .next t0) : Keeps [.mem, .writes, .regs, .eventSeq, .fabric, .combining, .pcie,
      .outputs] s t0 := by
  refine Keeps.performed ?_ h
  refine Keeps.ite (fun _ => ?_) (fun _ => ?_)
  refine Keeps.after (State.startTraining_keeps ..) ?_
  exact Keeps.refl _ _
  exact Keeps.refl _ _

/-- What execListGet may change. -/
theorem execListGet_keeps {packet : Packet} {s : State} {t0 : State}
    (h : execListGet packet s = .next t0) : Keeps [.free, .mem, .writes, .regs, .eventSeq, .tasks, .signals, .fabric,
      .reductions, .power, .pcie, .outputs] s t0 := by
  refine Keeps.performed ?_ h
  refine Keeps.after (State.serveOp_keeps ..) ?_
  exact Keeps.refl _ _

/-- What execListResp may change. -/
theorem execListResp_keeps {packet : Packet} {s : State} {t0 : State}
    (h : execListResp packet s = .next t0) : Keeps [.free, .mem, .writes, .regs, .eventSeq, .tasks, .signals,
      .fabric, .reductions, .pcie, .outputs] s t0 := by
  refine Keeps.performed ?_ h
  refine Keeps.after (State.takeResponse_keeps ..) ?_
  exact Keeps.refl _ _

/-- What execLoadChecksEnd may change. -/
theorem execLoadChecksEnd_keeps {s : State} {t0 : State}
    (h : execLoadChecksEnd s = .next t0) : Keeps [.free, .mem, .writes, .regs, .eventSeq, .chart, .load,
      .unloadWaiting, .rings, .tasks, .signals, .jobs, .fabric, .power, .pcie, .outputs] s t0 := by
  refine Keeps.performed ?_ h
  refine Keeps.after (State.loadChecksEnd_keeps ..) ?_
  exact Keeps.refl _ _

/-- What execLoad may change. -/
theorem execLoad_keeps {withUnload : Bool} {s : State} {t0 : State}
    (h : execLoad withUnload s = .next t0) : Keeps [.free, .mem, .writes, .regs, .eventSeq, .load, .unloadWaiting,
      .rings, .tasks, .signals, .fabric, .pcie, .outputs] s t0 := by
  refine Keeps.performed ?_ h
  refine State.hostWrite_keeps ?_
  refine Keeps.after (State.loadWrite_keeps ..) ?_
  exact Keeps.refl _ _

/-- What execLookup may change. -/
theorem execLookup_keeps {id : TaskId} {remote : List RemoteReply} {s : State} {t0 : State}
    (h : execLookup id remote s = .next t0) : Keeps [.free, .mem, .writes, .regs, .eventSeq, .tasks, .drift, .fabric,
      .pcie, .outputs] s t0 := by
  refine Keeps.performed ?_ h
  refine Keeps.after (State.lookupStep_keeps ..) ?_
  exact Keeps.refl _ _

/-- What execMgmtEnroll may change. -/
theorem execMgmtEnroll_keeps {request : MgmtRequest} {s : State} {t0 : State}
    (h : execMgmtEnroll request s = .next t0) : Keeps [.mem, .writes, .regs, .eventSeq, .fabric, .pcie, .binnacle,
      .outputs] s t0 := by
  refine Keeps.performed ?_ h
  refine Keeps.after (State.mgmtEnroll_keeps ..) ?_
  exact Keeps.refl _ _

/-- What execMgmt may change. -/
theorem execMgmt_keeps {packet : Packet} {s : State} {t0 : State}
    (h : execMgmt packet s = .next t0) : Keeps [.free, .regs, .fabric, .carrier, .outputs] s t0 := by
  refine Keeps.performed ?_ h
  refine Keeps.ite (fun _ => ?_) (fun _ => ?_)
  refine Keeps.after (State.mgmtPacket_keeps ..) ?_
  refine Keeps.after (State.takeIn_keeps ..) ?_
  exact Keeps.refl _ _
  exact Keeps.refl _ _

/-- What execModuleReset may change. -/
theorem execModuleReset_keeps {s : State} {t0 : State}
    (h : execModuleReset s = .next t0) : Keeps [.mem, .writes, .regs, .eventSeq, .errorSeq, .chart, .load,
      .unloadWaiting, .zeroing, .rings, .tasks, .signals, .jobs, .streams, .memQueue, .tables, .drift, .lanes,
      .corrections, .scrubbed, .bankQuiet, .fabric, .reductions, .combining, .sysreset, .power, .pcie,
      .boot] s t0 := by
  refine Keeps.performed ?_ h
  refine Keeps.after (State.moduleReset_keeps ..) ?_
  exact Keeps.refl _ _

/-- What execMsixHoldoffEnd may change. -/
theorem execMsixHoldoffEnd_keeps {vector : Nat} {s : State} {t0 : State}
    (h : execMsixHoldoffEnd vector s = .next t0) : Keeps [.pcie, .outputs] s t0 := by
  refine Keeps.performed ?_ h
  refine Keeps.after (State.msixHoldoffEnd_keeps ..) ?_
  exact Keeps.refl _ _

/-- What execMsixUnmask may change. -/
theorem execMsixUnmask_keeps {vector : Nat} {s : State} {t0 : State}
    (h : execMsixUnmask vector s = .next t0) : Keeps [.pcie, .outputs] s t0 := by
  refine Keeps.performed ?_ h
  refine State.hostWrite_keeps ?_
  refine Keeps.after (State.msixUnmask_keeps ..) ?_
  exact Keeps.refl _ _

/-- What execMultSlewStep may change. -/
theorem execMultSlewStep_keeps {die : Nat} {s : State} {t0 : State}
    (h : execMultSlewStep die s = .next t0) : Keeps [.regs] s t0 := by
  refine Keeps.performed ?_ h
  refine Keeps.after (State.multSlewStep_keeps ..) ?_
  exact Keeps.refl _ _

/-- What execNakRepeat may change. -/
theorem execNakRepeat_keeps {port : Nat} {s : State} {t0 : State}
    (h : execNakRepeat port s = .next t0) : Keeps [.fabric, .outputs] s t0 := by
  refine Keeps.performed ?_ h
  split
  refine Keeps.ite (fun _ => ?_) (fun _ => ?_)
  refine Keeps.after (State.sendNak_keeps ..) ?_
  exact Keeps.refl _ _
  exact Keeps.refl _ _
  exact Keeps.refl _ _

/-- What execNak may change. -/
theorem execNak_keeps {port : Nat} {expected : Nat} {s : State} {t0 : State}
    (h : execNak port expected s = .next t0) : Keeps [.mem, .writes, .regs, .eventSeq, .fabric, .combining, .pcie,
      .outputs] s t0 := by
  refine Keeps.performed ?_ h
  refine Keeps.ite (fun _ => ?_) (fun _ => ?_)
  refine Keeps.after (State.onNak_keeps ..) ?_
  refine Keeps.after (State.heard_keeps ..) ?_
  exact Keeps.refl _ _
  exact Keeps.refl _ _

/-- What execNmAcc may change. -/
theorem execNmAcc_keeps {packet : Packet} {s : State} {t0 : State}
    (h : execNmAcc packet s = .next t0) : Keeps [.free, .mem, .writes, .regs, .eventSeq, .tasks, .signals, .fabric,
      .reductions, .power, .pcie, .outputs] s t0 := by
  refine Keeps.performed ?_ h
  refine Keeps.after (State.serveOp_keeps ..) ?_
  exact Keeps.refl _ _

/-- What execNop may change. -/
theorem execNop_keeps {id : TaskId} {s : State} {t0 : State}
    (h : execNop id s = .next t0) : Keeps [.free, .mem, .writes, .regs, .eventSeq, .tasks, .drift, .pcie,
      .outputs] s t0 := by
  refine Keeps.performed ?_ h
  refine Keeps.after (State.engineStep_keeps ..) ?_
  exact Keeps.refl _ _

/-- What execNorm may change. -/
theorem execNorm_keeps {id : TaskId} {s : State} {t0 : State}
    (h : execNorm id s = .next t0) : Keeps [.free, .mem, .writes, .regs, .eventSeq, .tasks, .signals, .drift,
      .fabric, .reductions, .pcie, .outputs] s t0 := by
  refine Keeps.performed ?_ h
  refine Keeps.after (State.normStep_keeps ..) ?_
  exact Keeps.refl _ _

/-- What execOppWrite may change. -/
theorem execOppWrite_keeps {entry : Nat} {value : Nat} {s : State} {t0 : State}
    (h : execOppWrite entry value s = .next t0) : Keeps [.regs, .outputs] s t0 := by
  refine Keeps.performed ?_ h
  refine State.hostWrite_keeps ?_
  refine Keeps.after (State.oppWrite_keeps ..) ?_
  exact Keeps.refl _ _

/-- What execPacketGapTimeout may change. -/
theorem execPacketGapTimeout_keeps {port : Nat} {vc : Nat} {s : State} {t0 : State}
    (h : execPacketGapTimeout port vc s = .next t0) : Keeps [.regs, .fabric, .outputs] s t0 := by
  refine Keeps.performed ?_ h
  split
  refine Keeps.ite (fun _ => ?_) (fun _ => ?_)
  refine Keeps.after (State.truncatePacket_keeps ..) ?_
  exact Keeps.refl _ _
  exact Keeps.refl _ _
  exact Keeps.refl _ _

/-- What execParityError may change. -/
theorem execParityError_keeps {site : ParitySite} {s : State} {t0 : State}
    (h : execParityError site s = .next t0) : Keeps [.free, .mem, .writes, .regs, .eventSeq, .errorSeq, .rings,
      .tasks, .signals, .jobs, .corrections, .fabric, .pcie, .outputs] s t0 := by
  refine Keeps.performed ?_ h
  refine Keeps.after (State.parityError_keeps ..) ?_
  exact Keeps.refl _ _

/-- What execPilotInterval may change. -/
theorem execPilotInterval_keeps {measure : PilotMeasure} {s : State} {t0 : State}
    (h : execPilotInterval measure s = .next t0) : Keeps [.mem, .writes, .regs, .eventSeq, .jobs, .power, .pcie,
      .outputs] s t0 := by
  refine Keeps.performed ?_ h
  refine Keeps.after (State.pilotInterval_keeps ..) ?_
  exact Keeps.refl _ _

/-- What execPortEnable may change. -/
theorem execPortEnable_keeps {port : Nat} {enable : Bool} {s : State} {t0 : State}
    (h : execPortEnable port enable s = .next t0) : Keeps [.mem, .writes, .regs, .eventSeq, .fabric, .combining,
      .pcie, .outputs] s t0 := by
  refine Keeps.performed ?_ h
  refine State.hostWrite_keeps ?_
  refine Keeps.after (State.portEnable_keeps ..) ?_
  exact Keeps.refl _ _

/-- What execPowerOff may change. -/
theorem execPowerOff_keeps {request : MgmtRequest} {s : State} {t0 : State}
    (h : execPowerOff request s = .next t0) : Keeps [.mem, .writes, .regs, .eventSeq, .errorSeq, .chart, .load,
      .unloadWaiting, .zeroing, .rings, .tasks, .signals, .jobs, .streams, .memQueue, .tables, .drift, .lanes,
      .corrections, .scrubbed, .bankQuiet, .fabric, .reductions, .combining, .sysreset, .power, .pcie, .boot,
      .binnacle, .carrier, .outputs] s t0 := by
  refine Keeps.performed ?_ h
  refine Keeps.after (State.powerOff_keeps ..) ?_
  exact Keeps.refl _ _

/-- What execPowerOn may change. -/
theorem execPowerOn_keeps {request : MgmtRequest} {s : State} {t0 : State}
    (h : execPowerOn request s = .next t0) : Keeps [.regs, .fabric, .carrier, .outputs] s t0 := by
  refine Keeps.performed ?_ h
  refine Keeps.after (State.powerOn_keeps ..) ?_
  exact Keeps.refl _ _

/-- What execPowerSequence may change. -/
theorem execPowerSequence_keeps {ok : Bool} {s : State} {t0 : State}
    (h : execPowerSequence ok s = .next t0) : Keeps [.mem, .writes, .regs, .eventSeq, .errorSeq, .chart, .load,
      .unloadWaiting, .zeroing, .rings, .tasks, .signals, .jobs, .streams, .memQueue, .tables, .drift, .lanes,
      .corrections, .scrubbed, .bankQuiet, .fabric, .reductions, .combining, .sysreset, .power, .pcie, .boot,
      .carrier, .outputs] s t0 := by
  refine Keeps.performed ?_ h
  refine Keeps.after (State.powerSequence_keeps ..) ?_
  exact Keeps.refl _ _

/-- What execPrefRevise may change. -/
theorem execPrefRevise_keeps {phase : Nat} {waitCycles : Nat} {busyCycles : Nat} {atPref : Bool} {s : State} {t0 : State}
    (h : execPrefRevise phase waitCycles busyCycles atPref s = .next t0) : Keeps [.regs] s t0 := by
  refine Keeps.performed ?_ h
  refine Keeps.after (State.prefRevise_keeps ..) ?_
  exact Keeps.refl _ _

/-- What execPresSBreak may change. -/
theorem execPresSBreak_keeps {s : State} {t0 : State}
    (h : execPresSBreak s = .next t0) : Keeps [.mem, .writes, .regs, .eventSeq, .errorSeq, .chart, .load,
      .unloadWaiting, .zeroing, .rings, .tasks, .signals, .jobs, .streams, .memQueue, .tables, .drift, .lanes,
      .corrections, .scrubbed, .bankQuiet, .fabric, .reductions, .combining, .sysreset, .power, .pcie, .boot,
      .carrier] s t0 := by
  refine Keeps.performed ?_ h
  refine Keeps.after (State.presSBreak_keeps ..) ?_
  exact Keeps.refl _ _

/-- What execPresenceWindowEnd may change. -/
theorem execPresenceWindowEnd_keeps {s : State} {t0 : State}
    (h : execPresenceWindowEnd s = .next t0) : Keeps [.carrier] s t0 := by
  refine Keeps.performed ?_ h
  refine Keeps.after (State.presenceWindowEnd_keeps ..) ?_
  exact Keeps.refl _ _

/-- What execProductSparse may change. -/
theorem execProductSparse_keeps {id : TaskId} {s : State} {t0 : State}
    (h : execProductSparse id s = .next t0) : Keeps [.free, .mem, .writes, .regs, .eventSeq, .tasks, .drift, .pcie,
      .outputs] s t0 := by
  refine Keeps.performed ?_ h
  refine Keeps.after (State.arrayStep_keeps ..) ?_
  exact Keeps.refl _ _

/-- What execProduct may change. -/
theorem execProduct_keeps {id : TaskId} {s : State} {t0 : State}
    (h : execProduct id s = .next t0) : Keeps [.free, .mem, .writes, .regs, .eventSeq, .tasks, .drift, .pcie,
      .outputs] s t0 := by
  refine Keeps.performed ?_ h
  refine Keeps.after (State.arrayStep_keeps ..) ?_
  exact Keeps.refl _ _

/-- What execPush may change. -/
theorem execPush_keeps {id : TaskId} {s : State} {t0 : State}
    (h : execPush id s = .next t0) : Keeps [.free, .mem, .writes, .regs, .eventSeq, .tasks, .signals, .drift,
      .fabric, .reductions, .pcie, .outputs] s t0 := by
  refine Keeps.performed ?_ h
  refine Keeps.after (State.pushStep_keeps ..) ?_
  exact Keeps.refl _ _

/-- What execPutSignal may change. -/
theorem execPutSignal_keeps {packet : Packet} {s : State} {t0 : State}
    (h : execPutSignal packet s = .next t0) : Keeps [.free, .mem, .writes, .regs, .eventSeq, .tasks, .signals,
      .fabric, .reductions, .power, .pcie, .outputs] s t0 := by
  refine Keeps.performed ?_ h
  split
  refine Keeps.after (State.retrySignal_keeps ..) ?_
  exact Keeps.refl _ _
  refine Keeps.after (State.serveOp_keeps ..) ?_
  exact Keeps.refl _ _

/-- What execPut may change. -/
theorem execPut_keeps {packet : Packet} {s : State} {t0 : State}
    (h : execPut packet s = .next t0) : Keeps [.free, .mem, .writes, .regs, .eventSeq, .tasks, .signals, .fabric,
      .reductions, .power, .pcie, .outputs] s t0 := by
  refine Keeps.performed ?_ h
  refine Keeps.after (State.serveOp_keeps ..) ?_
  exact Keeps.refl _ _

/-- What execRailLimit may change. -/
theorem execRailLimit_keeps {report : RailReport} {gate : Nat} {s : State} {t0 : State}
    (h : execRailLimit report gate s = .next t0) : Keeps [.regs, .power] s t0 := by
  refine Keeps.performed ?_ h
  refine Keeps.after (State.railLimit_keeps ..) ?_
  exact Keeps.refl _ _

/-- What execRailOvercurrent may change. -/
theorem execRailOvercurrent_keeps {reading : Reading} {s : State} {t0 : State}
    (h : execRailOvercurrent reading s = .next t0) : Keeps [.mem, .writes, .regs, .eventSeq, .errorSeq, .chart,
      .load, .unloadWaiting, .zeroing, .rings, .tasks, .signals, .jobs, .streams, .memQueue, .tables, .drift, .lanes,
      .corrections, .scrubbed, .bankQuiet, .fabric, .reductions, .combining, .sysreset, .power, .pcie, .boot,
      .binnacle, .carrier, .outputs] s t0 := by
  refine Keeps.performed ?_ h
  refine Keeps.after (State.railOvercurrent_keeps ..) ?_
  exact Keeps.refl _ _

/-- What execRcRead may change. -/
theorem execRcRead_keeps {offset : Nat} {size : Nat} {s : State} {t0 : State}
    (h : execRcRead offset size s = .next t0) : Keeps [.regs, .outputs] s t0 := by
  refine Keeps.performed ?_ h
  refine State.secWrite_keeps ?_
  refine Keeps.after (State.bar0Read_keeps ..) ?_
  exact Keeps.refl _ _

/-- What execRecover may change. -/
theorem execRecover_keeps {s : State} {t0 : State}
    (h : execRecover s = .next t0) : Keeps [.regs, .boot, .outputs] s t0 := by
  refine Keeps.performed ?_ h
  refine State.secWrite_keeps ?_
  refine Keeps.after (State.recoverWrite_keeps ..) ?_
  exact Keeps.refl _ _

/-- What execRecoveryFlashWriteEnd may change. -/
theorem execRecoveryFlashWriteEnd_keeps {ok : Bool} {s : State} {t0 : State}
    (h : execRecoveryFlashWriteEnd ok s = .next t0) : Keeps [.mem, .writes, .regs, .eventSeq, .errorSeq, .chart,
      .load, .unloadWaiting, .zeroing, .rings, .tasks, .signals, .jobs, .streams, .memQueue, .tables, .drift, .lanes,
      .corrections, .scrubbed, .bankQuiet, .fabric, .reductions, .combining, .sysreset, .power, .pcie, .boot,
      .binnacle] s t0 := by
  refine Keeps.performed ?_ h
  refine Keeps.after (State.recoveryWritten_keeps ..) ?_
  exact Keeps.refl _ _

/-- What execRegisterWrite may change. -/
theorem execRegisterWrite_keeps {offset : Nat} {size : Nat} {value : Nat} {s : State} {t0 : State}
    (h : execRegisterWrite offset size value s = .next t0) : Keeps [.mem, .writes, .regs, .eventSeq, .rings,
      .memQueue, .power, .pcie, .outputs] s t0 := by
  refine Keeps.performed ?_ h
  refine State.secWrite_keeps ?_
  refine Keeps.after (State.bar0Write_keeps ..) ?_
  exact Keeps.refl _ _

/-- What execRelease may change. -/
theorem execRelease_keeps {body : List Byte} {s : State} {t0 : State}
    (h : execRelease body s = .next t0) : Keeps [.mem, .writes, .regs, .eventSeq, .pcie, .binnacle,
      .outputs] s t0 := by
  refine Keeps.performed ?_ h
  refine State.doeRequest_keeps ?_
  refine Keeps.after (State.doeRelease_keeps ..) ?_
  exact Keeps.refl _ _

/-- What execRemoteCas may change. -/
theorem execRemoteCas_keeps {id : TaskId} {s : State} {t0 : State}
    (h : execRemoteCas id s = .next t0) : Keeps [.free, .mem, .writes, .regs, .eventSeq, .tasks, .signals, .fabric,
      .reductions, .pcie, .outputs] s t0 := by
  refine Keeps.performed ?_ h
  refine Keeps.after (State.startRemote_keeps ..) ?_
  exact Keeps.refl _ _

/-- What execRemoteExactAcc may change. -/
theorem execRemoteExactAcc_keeps {id : TaskId} {s : State} {t0 : State}
    (h : execRemoteExactAcc id s = .next t0) : Keeps [.free, .mem, .writes, .regs, .eventSeq, .tasks, .signals,
      .fabric, .reductions, .pcie, .outputs] s t0 := by
  refine Keeps.performed ?_ h
  refine Keeps.after (State.startRemote_keeps ..) ?_
  exact Keeps.refl _ _

/-- What execRemoteGet may change. -/
theorem execRemoteGet_keeps {id : TaskId} {s : State} {t0 : State}
    (h : execRemoteGet id s = .next t0) : Keeps [.free, .mem, .writes, .regs, .eventSeq, .tasks, .signals, .fabric,
      .reductions, .pcie, .outputs] s t0 := by
  refine Keeps.performed ?_ h
  refine Keeps.after (State.startRemote_keeps ..) ?_
  exact Keeps.refl _ _

/-- What execRemoteNmAcc may change. -/
theorem execRemoteNmAcc_keeps {id : TaskId} {s : State} {t0 : State}
    (h : execRemoteNmAcc id s = .next t0) : Keeps [.free, .mem, .writes, .regs, .eventSeq, .tasks, .signals, .fabric,
      .reductions, .pcie, .outputs] s t0 := by
  refine Keeps.performed ?_ h
  refine Keeps.after (State.startRemote_keeps ..) ?_
  exact Keeps.refl _ _

/-- What execRemotePutSignal may change. -/
theorem execRemotePutSignal_keeps {id : TaskId} {s : State} {t0 : State}
    (h : execRemotePutSignal id s = .next t0) : Keeps [.free, .mem, .writes, .regs, .eventSeq, .tasks, .signals,
      .fabric, .reductions, .pcie, .outputs] s t0 := by
  refine Keeps.performed ?_ h
  refine Keeps.after (State.startRemote_keeps ..) ?_
  exact Keeps.refl _ _

/-- What execRemotePut may change. -/
theorem execRemotePut_keeps {id : TaskId} {s : State} {t0 : State}
    (h : execRemotePut id s = .next t0) : Keeps [.free, .mem, .writes, .regs, .eventSeq, .tasks, .signals, .fabric,
      .reductions, .pcie, .outputs] s t0 := by
  refine Keeps.performed ?_ h
  refine Keeps.after (State.startRemote_keeps ..) ?_
  exact Keeps.refl _ _

/-- What execResetDown may change. -/
theorem execResetDown_keeps {packet : Packet} {s : State} {t0 : State}
    (h : execResetDown packet s = .next t0) : Keeps [.mem, .writes, .regs, .eventSeq, .errorSeq, .chart, .load,
      .unloadWaiting, .zeroing, .rings, .tasks, .signals, .jobs, .streams, .memQueue, .tables, .drift, .lanes,
      .corrections, .scrubbed, .bankQuiet, .fabric, .reductions, .combining, .sysreset, .power, .pcie, .boot,
      .outputs] s t0 := by
  refine Keeps.performed ?_ h
  refine State.resetIn_keeps (fun _ => ?_)
  refine Keeps.ite (fun _ => ?_) (fun _ => ?_)
  exact Keeps.refl _ _
  refine Keeps.after (State.resetNotice_keeps ..) ?_
  exact Keeps.refl _ _

/-- What execResetUp may change. -/
theorem execResetUp_keeps {packet : Packet} {s : State} {t0 : State}
    (h : execResetUp packet s = .next t0) : Keeps [.mem, .writes, .regs, .eventSeq, .errorSeq, .chart, .load,
      .unloadWaiting, .zeroing, .rings, .tasks, .signals, .jobs, .streams, .memQueue, .tables, .drift, .lanes,
      .corrections, .scrubbed, .bankQuiet, .fabric, .reductions, .combining, .sysreset, .power, .pcie, .boot,
      .outputs] s t0 := by
  refine Keeps.performed ?_ h
  refine State.resetIn_keeps (fun _ => ?_)
  split
  refine Keeps.after (State.resetProgress_keeps ..) ?_
  refine Keeps.made_sysreset ?_
  exact Keeps.refl _ _
  exact Keeps.refl _ _

/-- What execResponseTimeout may change. -/
theorem execResponseTimeout_keeps {seq : Nat} {s : State} {t0 : State}
    (h : execResponseTimeout seq s = .next t0) : Keeps [.free, .mem, .writes, .regs, .eventSeq, .tasks, .signals,
      .fabric, .reductions, .pcie, .outputs] s t0 := by
  refine Keeps.performed ?_ h
  refine Keeps.after (State.settle_keeps ..) ?_
  refine Keeps.after (State.responseTimeout_keeps ..) ?_
  exact Keeps.refl _ _

/-- What execRetrain may change. -/
theorem execRetrain_keeps {port : Nat} {s : State} {t0 : State}
    (h : execRetrain port s = .next t0) : Keeps [.regs, .outputs] s t0 := by
  refine Keeps.performed ?_ h
  refine State.hostWrite_keeps ?_
  refine Keeps.after (State.setReg_keeps ..) ?_
  exact Keeps.refl _ _

/-- What execReturnTo16Lanes may change. -/
theorem execReturnTo16Lanes_keeps {port : Nat} {s : State} {t0 : State}
    (h : execReturnTo16Lanes port s = .next t0) : Keeps [.regs, .fabric] s t0 := by
  refine Keeps.performed ?_ h
  dsimp only
  refine Keeps.ite (fun _ => ?_) (fun _ => ?_)
  refine Keeps.after (State.setReg_keeps ..) ?_
  refine Keeps.after (State.setPort_keeps ..) ?_
  exact Keeps.refl _ _
  exact Keeps.refl _ _

/-- What execRingDisable may change. -/
theorem execRingDisable_keeps {s : State} {t0 : State}
    (h : execRingDisable s = .next t0) : Keeps [.rings, .outputs] s t0 := by
  refine Keeps.performed ?_ h
  refine State.hostWrite_keeps ?_
  refine Keeps.after (State.ringDisable_keeps ..) ?_
  exact Keeps.refl _ _

/-- What execRingEnable may change. -/
theorem execRingEnable_keeps {s : State} {t0 : State}
    (h : execRingEnable s = .next t0) : Keeps [.regs, .rings, .outputs] s t0 := by
  refine Keeps.performed ?_ h
  refine State.hostWrite_keeps ?_
  refine Keeps.after (State.ringEnable_keeps ..) ?_
  exact Keeps.refl _ _

/-- What execRingNop may change. -/
theorem execRingNop_keeps {ring : Nat} {s : State} {t0 : State}
    (h : execRingNop ring s = .next t0) : Keeps [.mem, .writes, .rings, .pcie, .outputs] s t0 := by
  refine Keeps.performed ?_ h
  refine Keeps.after (State.ringNop_keeps ..) ?_
  exact Keeps.refl _ _

/-- What execRoot may change. -/
theorem execRoot_keeps {id : TaskId} {s : State} {t0 : State}
    (h : execRoot id s = .next t0) : Keeps [.free, .mem, .writes, .regs, .eventSeq, .tasks, .drift, .pcie,
      .outputs] s t0 := by
  refine Keeps.performed ?_ h
  refine Keeps.after (State.engineStep_keeps ..) ?_
  exact Keeps.refl _ _

/-- What execRthUpdate may change. -/
theorem execRthUpdate_keeps {tjMax : Nat} {tIn : Nat} {pIn : Nat} {s : State} {t0 : State}
    (h : execRthUpdate tjMax tIn pIn s = .next t0) : Keeps [.mem, .writes, .regs, .eventSeq, .power, .pcie,
      .binnacle, .outputs] s t0 := by
  refine Keeps.performed ?_ h
  refine Keeps.after (State.rthUpdate_keeps ..) ?_
  exact Keeps.refl _ _

/-- What execSample may change. -/
theorem execSample_keeps {id : TaskId} {remote : List RemoteReply} {s : State} {t0 : State}
    (h : execSample id remote s = .next t0) : Keeps [.free, .mem, .writes, .regs, .eventSeq, .tasks, .drift, .fabric,
      .pcie, .outputs] s t0 := by
  refine Keeps.performed ?_ h
  refine Keeps.after (State.sampleStep_keeps ..) ?_
  exact Keeps.refl _ _

/-- What execScatterAdd may change. -/
theorem execScatterAdd_keeps {id : TaskId} {s : State} {t0 : State}
    (h : execScatterAdd id s = .next t0) : Keeps [.free, .mem, .writes, .regs, .eventSeq, .tasks, .drift, .pcie,
      .outputs] s t0 := by
  refine Keeps.performed ?_ h
  refine Keeps.after (State.engineStep_keeps ..) ?_
  exact Keeps.refl _ _

/-- What execScrubCodeword may change. -/
theorem execScrubCodeword_keeps {offset : Nat} {lanes : List Nat} {uncorrectable : Bool} {s : State} {t0 : State}
    (h : execScrubCodeword offset lanes uncorrectable s = .next t0) : Keeps [.free, .mem, .writes, .regs, .eventSeq,
      .errorSeq, .lanes, .corrections, .scrubbed, .pcie, .binnacle, .outputs] s t0 := by
  refine Keeps.performed ?_ h
  refine Keeps.after (State.scrub_keeps ..) ?_
  exact Keeps.refl _ _

/-- What execSegReduce may change. -/
theorem execSegReduce_keeps {id : TaskId} {remote : List RemoteReply} {s : State} {t0 : State}
    (h : execSegReduce id remote s = .next t0) : Keeps [.free, .mem, .writes, .regs, .eventSeq, .tasks, .streams,
      .memQueue, .drift, .fabric, .pcie, .outputs] s t0 := by
  refine Keeps.performed ?_ h
  refine Keeps.after (State.segStep_keeps ..) ?_
  exact Keeps.refl _ _

/-- What execSetAutoOn may change. -/
theorem execSetAutoOn_keeps {request : MgmtRequest} {s : State} {t0 : State}
    (h : execSetAutoOn request s = .next t0) : Keeps [.regs, .fabric, .binnacle, .outputs] s t0 := by
  refine Keeps.performed ?_ h
  refine Keeps.after (State.setAutoOn_keeps ..) ?_
  exact Keeps.refl _ _

/-- What execSetIdentify may change. -/
theorem execSetIdentify_keeps {request : MgmtRequest} {s : State} {t0 : State}
    (h : execSetIdentify request s = .next t0) : Keeps [.regs, .fabric, .carrier, .outputs] s t0 := by
  refine Keeps.performed ?_ h
  refine Keeps.after (State.setIdentify_keeps ..) ?_
  exact Keeps.refl _ _

/-- What execSignal may change. -/
theorem execSignal_keeps {ring : Nat} {s : State} {t0 : State}
    (h : execSignal ring s = .next t0) : Keeps [.mem, .writes, .regs, .rings, .tasks, .signals, .pcie,
      .outputs] s t0 := by
  refine Keeps.performed ?_ h
  refine Keeps.after (State.ringSignal_keeps ..) ?_
  exact Keeps.refl _ _

/-- What execStore may change. -/
theorem execStore_keeps {id : TaskId} {s : State} {t0 : State}
    (h : execStore id s = .next t0) : Keeps [.free, .mem, .writes, .regs, .eventSeq, .tasks, .drift, .pcie,
      .outputs] s t0 := by
  refine Keeps.performed ?_ h
  refine Keeps.after (State.engineStep_keeps ..) ?_
  exact Keeps.refl _ _

/-- What execStreamBlockArrival may change. -/
theorem execStreamBlockArrival_keeps {die : Nat} {slot : Nat} {block : Nat} {remote : List RemoteReply} {s : State} {t0 :
      State}
    (h : execStreamBlockArrival die slot block remote s = .next t0) : Keeps [.free, .mem, .writes, .regs, .streams,
      .memQueue, .fabric, .pcie] s t0 := by
  refine Keeps.performed ?_ h
  refine Keeps.after (State.streamArrival_keeps ..) ?_
  exact Keeps.refl _ _

/-- What execStreamBlockConsume may change. -/
theorem execStreamBlockConsume_keeps {die : Nat} {slot : Nat} {tagsBusy : Bool} {s : State} {t0 : State}
    (h : execStreamBlockConsume die slot tagsBusy s = .next t0) : Keeps [.regs, .streams, .memQueue, .fabric,
      .outputs] s t0 := by
  refine Keeps.performed ?_ h
  refine Keeps.after (State.streamConsume_keeps ..) ?_
  exact Keeps.refl _ _

/-- What execStreamClose may change. -/
theorem execStreamClose_keeps {id : TaskId} {s : State} {t0 : State}
    (h : execStreamClose id s = .next t0) : Keeps [.free, .mem, .writes, .regs, .eventSeq, .tasks, .streams,
      .memQueue, .drift, .fabric, .pcie, .outputs] s t0 := by
  refine Keeps.performed ?_ h
  refine Keeps.after (State.streamClose_keeps ..) ?_
  exact Keeps.refl _ _

/-- What execStreamOpen may change. -/
theorem execStreamOpen_keeps {id : TaskId} {s : State} {t0 : State}
    (h : execStreamOpen id s = .next t0) : Keeps [.free, .mem, .writes, .regs, .eventSeq, .tasks, .streams,
      .memQueue, .drift, .fabric, .pcie, .outputs] s t0 := by
  refine Keeps.performed ?_ h
  refine Keeps.after (State.streamOpen_keeps ..) ?_
  exact Keeps.refl _ _

/-- What execSuccessorSignalPlace may change. -/
theorem execSuccessorSignalPlace_keeps {id : TaskId} {s : State} {t0 : State}
    (h : execSuccessorSignalPlace id s = .next t0) : Keeps [.regs, .tasks, .signals] s t0 := by
  refine Keeps.performed ?_ h
  refine Keeps.after (State.signalPlace_keeps ..) ?_
  exact Keeps.refl _ _

/-- What execSwapComplete may change. -/
theorem execSwapComplete_keeps {table : Nat} {s : State} {t0 : State}
    (h : execSwapComplete table s = .next t0) : Keeps [.free, .mem, .writes, .regs, .eventSeq, .tasks, .tables,
      .drift, .pcie, .outputs] s t0 := by
  refine Keeps.performed ?_ h
  refine Keeps.after (State.swapComplete_keeps ..) ?_
  exact Keeps.refl _ _

/-- What execSysreset may change. -/
theorem execSysreset_keeps {value : Nat} {s : State} {t0 : State}
    (h : execSysreset value s = .next t0) : Keeps [.mem, .writes, .regs, .eventSeq, .errorSeq, .chart, .load,
      .unloadWaiting, .zeroing, .rings, .tasks, .signals, .jobs, .streams, .memQueue, .tables, .drift, .lanes,
      .corrections, .scrubbed, .bankQuiet, .fabric, .reductions, .combining, .sysreset, .power, .pcie, .boot,
      .outputs] s t0 := by
  refine Keeps.performed ?_ h
  refine State.hostWrite_keeps ?_
  refine Keeps.after (State.sysresetWrite_keeps ..) ?_
  exact Keeps.refl _ _

/-- What execTableOpen may change. -/
theorem execTableOpen_keeps {id : TaskId} {s : State} {t0 : State}
    (h : execTableOpen id s = .next t0) : Keeps [.free, .mem, .writes, .regs, .eventSeq, .tasks, .tables, .drift,
      .pcie, .outputs] s t0 := by
  refine Keeps.performed ?_ h
  refine Keeps.after (State.tableOpen_keeps ..) ?_
  exact Keeps.refl _ _

/-- What execTableRefresh may change. -/
theorem execTableRefresh_keeps {id : TaskId} {remote : List RemoteReply} {s : State} {t0 : State}
    (h : execTableRefresh id remote s = .next t0) : Keeps [.free, .mem, .writes, .regs, .eventSeq, .tasks, .drift,
      .fabric, .pcie, .outputs] s t0 := by
  refine Keeps.performed ?_ h
  refine Keeps.after (State.refreshStep_keeps ..) ?_
  exact Keeps.refl _ _

/-- What execTableSwap may change. -/
theorem execTableSwap_keeps {id : TaskId} {s : State} {t0 : State}
    (h : execTableSwap id s = .next t0) : Keeps [.free, .mem, .writes, .regs, .eventSeq, .tasks, .tables, .drift,
      .pcie, .outputs] s t0 := by
  refine Keeps.performed ?_ h
  refine Keeps.after (State.tableSwap_keeps ..) ?_
  exact Keeps.refl _ _

/-- What execTaskComplete may change. -/
theorem execTaskComplete_keeps {id : TaskId} {runs : List (Option Nat)} {s : State} {t0 : State}
    (h : execTaskComplete id runs s = .next t0) : Keeps [.free, .mem, .writes, .regs, .eventSeq, .errorSeq, .rings,
      .tasks, .signals, .jobs, .tables, .fabric, .pcie, .binnacle, .outputs] s t0 := by
  refine Keeps.performed ?_ h
  refine Keeps.after (State.taskComplete_keeps ..) ?_
  exact Keeps.refl _ _

/-- What execTaskRegister may change. -/
theorem execTaskRegister_keeps {ring : Nat} {s : State} {t0 : State}
    (h : execTaskRegister ring s = .next t0) : Keeps [.mem, .writes, .regs, .rings, .tasks, .signals, .pcie,
      .outputs] s t0 := by
  refine Keeps.performed ?_ h
  refine Keeps.after (State.taskRegister_keeps ..) ?_
  exact Keeps.refl _ _

/-- What execTasks may change. -/
theorem execTasks_keeps {ring : Nat} {s : State} {t0 : State}
    (h : execTasks ring s = .next t0) : Keeps [.mem, .writes, .rings, .pcie, .outputs] s t0 := by
  refine Keeps.performed ?_ h
  refine Keeps.after (State.ringTasks_keeps ..) ?_
  exact Keeps.refl _ _

/-- What execTickWrite may change. -/
theorem execTickWrite_keeps {value : Nat} {s : State} {t0 : State}
    (h : execTickWrite value s = .next t0) : Keeps [.regs, .outputs] s t0 := by
  refine Keeps.performed ?_ h
  refine State.hostWrite_keeps ?_
  refine Keeps.after (State.tickWrite_keeps ..) ?_
  exact Keeps.refl _ _

/-- What execToHost may change. -/
theorem execToHost_keeps {task : TaskId} {s : State} {t0 : State}
    (h : execToHost task s = .next t0) : Keeps [.free, .mem, .writes, .regs, .eventSeq, .tasks, .drift, .pcie,
      .outputs] s t0 := by
  refine Keeps.performed ?_ h
  refine Keeps.after (State.toHost_keeps ..) ?_
  exact Keeps.refl _ _

/-- What execTrainingRetry may change. -/
theorem execTrainingRetry_keeps {port : Nat} {s : State} {t0 : State}
    (h : execTrainingRetry port s = .next t0) : Keeps [.mem, .writes, .regs, .eventSeq, .fabric, .combining, .pcie,
      .outputs] s t0 := by
  refine Keeps.performed ?_ h
  refine Keeps.ite (fun _ => ?_) (fun _ => ?_)
  refine Keeps.after (State.startTraining_keeps ..) ?_
  exact Keeps.refl _ _
  exact Keeps.refl _ _

/-- What execUnloadDone may change. -/
theorem execUnloadDone_keeps {s : State} {t0 : State}
    (h : execUnloadDone s = .next t0) : Keeps [.mem, .writes, .regs, .eventSeq, .chart, .zeroing, .rings, .tasks,
      .signals, .jobs, .streams, .memQueue, .tables, .fabric, .reductions, .combining, .pcie, .outputs] s t0 := by
  refine Keeps.performed ?_ h
  refine Keeps.after (State.unloadDone_keeps ..) ?_
  exact Keeps.refl _ _

/-- What execUnloadDrained may change. -/
theorem execUnloadDrained_keeps {s : State} {t0 : State}
    (h : execUnloadDrained s = .next t0) : Keeps [.mem, .writes, .zeroing] s t0 := by
  refine Keeps.performed ?_ h
  refine Keeps.after (State.unloadDrained_keeps ..) ?_
  exact Keeps.refl _ _

/-- What execUnload may change. -/
theorem execUnload_keeps {s : State} {t0 : State}
    (h : execUnload s = .next t0) : Keeps [.free, .mem, .writes, .regs, .eventSeq, .unloadWaiting, .rings, .tasks,
      .signals, .fabric, .pcie, .outputs] s t0 := by
  refine Keeps.performed ?_ h
  refine State.hostWrite_keeps ?_
  refine Keeps.after (State.unload_keeps ..) ?_
  exact Keeps.refl _ _

/-- What execUpdateDone may change. -/
theorem execUpdateDone_keeps {ok : Bool} {s : State} {t0 : State}
    (h : execUpdateDone ok s = .next t0) : Keeps [.mem, .writes, .regs, .eventSeq, .pcie, .boot, .binnacle,
      .outputs] s t0 := by
  refine Keeps.performed ?_ h
  refine Keeps.after (State.updateDone_keeps ..) ?_
  exact Keeps.refl _ _

/-- What execUpdate may change. -/
theorem execUpdate_keeps {s : State} {t0 : State}
    (h : execUpdate s = .next t0) : Keeps [.mem, .writes, .regs, .eventSeq, .pcie, .boot, .outputs] s t0 := by
  refine Keeps.performed ?_ h
  refine State.secWrite_keeps ?_
  refine Keeps.after (State.updateWrite_keeps ..) ?_
  exact Keeps.refl _ _

/-- What execVauxLoss may change. -/
theorem execVauxLoss_keeps {s : State} {t0 : State}
    (h : execVauxLoss s = .next t0) : Keeps [.mem, .writes, .regs, .eventSeq, .errorSeq, .chart, .load,
      .unloadWaiting, .zeroing, .rings, .tasks, .signals, .jobs, .streams, .memQueue, .tables, .drift, .lanes,
      .corrections, .scrubbed, .bankQuiet, .fabric, .reductions, .combining, .sysreset, .power, .pcie, .boot,
      .binnacle, .carrier] s t0 := by
  refine Keeps.performed ?_ h
  refine Keeps.after (State.vauxLoss_keeps ..) ?_
  exact Keeps.refl _ _

/-- What execVoltageAdjust may change. -/
theorem execVoltageAdjust_keeps {die : Nat} {slackPs : ℤ} {s : State} {t0 : State}
    (h : execVoltageAdjust die slackPs s = .next t0) : Keeps [.mem, .writes, .regs, .eventSeq, .power, .pcie,
      .outputs] s t0 := by
  refine Keeps.performed ?_ h
  refine Keeps.after (State.voltageAdjust_keeps ..) ?_
  exact Keeps.refl _ _

/-- What execWakeComplete may change. -/
theorem execWakeComplete_keeps {s : State} {t0 : State}
    (h : execWakeComplete s = .next t0) : Keeps [.mem, .writes, .regs, .eventSeq, .rings, .power, .pcie,
      .outputs] s t0 := by
  refine Keeps.performed ?_ h
  refine Keeps.after (State.wakeComplete_keeps ..) ?_
  exact Keeps.refl _ _

/-- What execWake may change. -/
theorem execWake_keeps {s : State} {t0 : State}
    (h : execWake s = .next t0) : Keeps [.mem, .writes, .regs, .eventSeq, .fabric, .power, .pcie, .outputs] s t0 := by
  refine Keeps.performed ?_ h
  refine State.hostWrite_keeps ?_
  refine Keeps.after (State.wakeWrite_keeps ..) ?_
  exact Keeps.refl _ _

/-- What execWidth may change. -/
theorem execWidth_keeps {port : Nat} {code : Nat} {s : State} {t0 : State}
    (h : execWidth port code s = .next t0) : Keeps [.regs, .fabric, .outputs] s t0 := by
  refine Keeps.performed ?_ h
  refine Keeps.ite (fun _ => ?_) (fun _ => ?_)
  refine Keeps.after (State.onWidth_keeps ..) ?_
  refine Keeps.after (State.heard_keeps ..) ?_
  exact Keeps.refl _ _
  exact Keeps.refl _ _

end

end Sys2Proof.Machine
end

