-- ==== Sys2Proof/Laws/Registers.lean ====
section
/-!
SUPPORT. What setting a register field does to every field: the field's key decides, and the value is cut to its width.
-/

namespace Sys2Proof.Machine

/-- A stored key reads as what was stored last, every other key as before. -/
theorem lookupNat_storeNat (k v j : Nat) (l : List (Nat × Nat)) :
    lookupNat j (storeNat k v l) = if j = k then some v else lookupNat j l := by
  induction l with
  | nil => simp [storeNat, lookupNat, eq_comm]
  | cons p r ih =>
    unfold storeNat
    by_cases h1 : k < p.1
    · simp only [h1, if_true, lookupNat]
      by_cases h : k = j
      · simp [h]
      · simp [h, Ne.symm h]
    · by_cases h2 : k = p.1
      · subst h2
        simp only [Nat.lt_irrefl, if_false, if_true, lookupNat]
        by_cases h : p.1 = j
        · simp [h]
        · simp [h, Ne.symm h]
      · simp only [h1, h2, if_false, lookupNat, ih]
        by_cases h : p.1 = j
        · have hk : ¬ j = k := fun e => h2 (e.symm.trans h.symm)
          simp [h, hk]
        · simp [h]

/-- A field after a field is set. -/
theorem State.reg_setReg (s : State) (f g : Field) (v : Nat) :
    (s.setReg f v).reg g = if g.key = f.key then v % 2 ^ f.width else s.reg g := by
  unfold State.reg State.setReg
  simp only [lookupNat_storeNat]
  split <;> rfl

/-- The field that is set. -/
@[simp] theorem State.reg_setReg_self (s : State) (f : Field) (v : Nat) : (s.setReg f v).reg f = v % 2 ^ f.width := by
  simp [State.reg_setReg]

/-- A field with another key keeps its value. -/
theorem State.reg_setReg_other (s : State) {f g : Field} (v : Nat) (h : g.key ≠ f.key) :
    (s.setReg f v).reg g = s.reg g := by
  simp [State.reg_setReg, h]

/-- A counter after a count. -/
theorem State.reg_bump (s : State) (f g : Field) (n : Nat) :
    (s.bump f n).reg g = if g.key = f.key then (s.reg f + n) % 2 ^ f.width else s.reg g :=
  State.reg_setReg s f g _

/-- Fields that no entry of a list sets keep their values. -/
theorem State.reg_setRegs_other (l : List (Field × Nat)) (g : Field) (h : ∀ p ∈ l, g.key ≠ p.1.key) (s : State) :
    (s.setRegs l).reg g = s.reg g := by
  induction l generalizing s with
  | nil => rfl
  | cons p r ih =>
    show ((s.setReg p.1 p.2).setRegs r).reg g = _
    rw [ih (fun q hq => h q (List.mem_cons_of_mem _ hq)), State.reg_setReg_other _ _ (h p (List.mem_cons_self ..))]

/-- Fields that no entry of a list counts keep their values. -/
theorem State.reg_bumps_other (l : List (Field × Nat)) (g : Field) (h : ∀ p ∈ l, g.key ≠ p.1.key) (s : State) :
    (s.bumps l).reg g = s.reg g := by
  induction l generalizing s with
  | nil => rfl
  | cons p r ih =>
    show ((s.bump p.1 p.2).bumps r).reg g = _
    rw [ih (fun q hq => h q (List.mem_cons_of_mem _ hq)), State.reg_bump,
      if_neg (h p (List.mem_cons_self ..))]

/-- The register file decides every field: an update of anything else leaves them. -/
theorem State.reg_congr {s t : State} (h : t.regs = s.regs) (f : Field) : t.reg f = s.reg f := by
  unfold State.reg; rw [h]

@[simp] theorem State.reg_emit (s : State) (o : Output) (f : Field) : (s.emit o).reg f = s.reg f := rfl
@[simp] theorem State.reg_memOps (s : State) (ops : List MemOp) (f : Field) : (s.memOps ops).reg f = s.reg f := rfl
@[simp] theorem State.reg_write (s : State) (k : Nat) (d : List Byte) (f : Field) : (s.write k d).reg f = s.reg f := rfl
@[simp] theorem State.reg_setTask (s : State) (t : Task) (f : Field) : (s.setTask t).reg f = s.reg f := rfl
@[simp] theorem State.reg_dropTask (s : State) (id : TaskId) (f : Field) : (s.dropTask id).reg f = s.reg f := rfl
@[simp] theorem State.reg_setRing (s : State) (r : Ring) (f : Field) : (s.setRing r).reg f = s.reg f := rfl
@[simp] theorem State.reg_setJob (s : State) (j : Job) (f : Field) : (s.setJob j).reg f = s.reg f := rfl
@[simp] theorem State.reg_setPort (s : State) (p : Nat) (x : Port) (f : Field) : (s.setPort p x).reg f = s.reg f := rfl
@[simp] theorem State.reg_raiseVector (s : State) (v : Nat) (f : Field) : (s.raiseVector v).reg f = s.reg f :=
  State.reg_congr (by simp) f

/-- An event's record changes the event ring's registers only: its tail, the count of lost records and their event bit. -/
theorem State.reg_eventRing_other (s : State) (e : Field) (unit arg0 arg1 : Nat) {g : Field}
    (h1 : g.key ≠ Reg.DEV_EVQ_PTR_tail.key) (h2 : g.key ≠ Reg.DEV_CNT_EVENT_LOST.key)
    (h3 : g.key ≠ Reg.DEV_EVENT_event_lost.key) : (s.eventRing e unit arg0 arg1).reg g = s.reg g := by
  unfold State.eventRing
  dsimp only
  split
  · rfl
  · split
    · rw [State.reg_setReg_other _ _ h3]
      exact State.reg_setReg_other _ _ h2
    · rw [State.reg_raiseVector]
      exact (State.reg_setReg_other _ _ h1).trans rfl

/-- The bit of an event that is posted reads 1. -/
theorem State.reg_post_self (s : State) (e : Field) (unit arg0 arg1 : Nat) (hw : 0 < e.width)
    (h1 : e.key ≠ Reg.DEV_EVQ_PTR_tail.key) (h2 : e.key ≠ Reg.DEV_CNT_EVENT_LOST.key)
    (h3 : e.key ≠ Reg.DEV_EVENT_event_lost.key) : (s.post e unit arg0 arg1).reg e = 1 := by
  unfold State.post
  rw [State.reg_eventRing_other _ _ _ _ _ h1 h2 h3, State.reg_setReg_self]
  exact Nat.mod_eq_of_lt (Nat.one_lt_two_pow (by omega))

/-- What posting an event leaves as it was. -/
theorem State.reg_post_other (s : State) (e : Field) (unit arg0 arg1 : Nat) {g : Field} (h0 : g.key ≠ e.key)
    (h1 : g.key ≠ Reg.DEV_EVQ_PTR_tail.key) (h2 : g.key ≠ Reg.DEV_CNT_EVENT_LOST.key)
    (h3 : g.key ≠ Reg.DEV_EVENT_event_lost.key) : (s.post e unit arg0 arg1).reg g = s.reg g := by
  unfold State.post
  rw [State.reg_eventRing_other _ _ _ _ _ h1 h2 h3, State.reg_setReg_other _ _ h0]

end Sys2Proof.Machine
end

