-- ==== Sys2Proof/Tests/Slice0.lean ====
section
/-!
SUPPORT. Tests: WellFormed refuses a command for each of its checks, and for every statement with hypotheses one theorem shows
states and operands that meet them, clause by clause.
-/

namespace Sys2Proof.Tests

open Sys2Proof Sys2Proof.Machine

/-! ### Small states -/

/-- The reset state with register fields set. -/
def up (l : List (Field × Nat)) : State := State.reset.setRegs l

/-- A descriptor of a class. -/
def desc (e : Nat) : TaskDesc :=
  { engine := e, delayList := 0, waitMode := 0, spec := false, priority := 0, depCount := 0, place := 0, placeTile := false,
    phaseId := 0, commitCount := 0, args := 0, argsBytes := 64, waitTicks := 0, signalTag := 7, userTag := 0,
    succ := [], expirySucc := 0, interrupt := false, notify := false }

/-- Task (0, 0) of job 1 on ring 0, running with an argument block. -/
def task (e : Nat) (args : List Byte) : Task :=
  { id := ⟨0, 0⟩, job := 1, ring := 0, desc := desc e, counter := 0, commit := 0, phase := .running, tile := 0,
    substitute := none, moved := [], status := 0, marked := false, rerun := false, committed := false, deadlineTick := none,
    owed := [], poisonAt := none, args := args, outs := [], ins := [], startedAt := 0, blocks := [], age := 0, dispatched := none,
    expires := none, passes := 0, drainA := 0, drainB := 0, attempts := 0, faulty := none, csum := none, settled := false,
    fetched := [], listGets := 0, statsRecord := [], stage := 0 }

/-- A Chart of one module: ring range 0 to 1 and every byte of HBM belong to job 1. -/
def chart : Chart :=
  { serial := 1, extents := [2, 1, 1, 1], systemId := 0, nodeId := 0, identityFp := [],
    groups := [⟨0, false, 1⟩], parts := [], rings := [⟨0, 2, 1⟩],
    jobs := [⟨1, 0, 1, [⟨true, true, true, 0, 0, 0xC000000000⟩]⟩], partMaps := [], shardMaps := [], hotBytes := 0,
    hotRows := [], phases := [], excluded := 0, digest := [], commonDigest := [] }

/-- A state that runs job 1 under that Chart with some tasks, all features accepted. -/
def active (ts : List Task) : State :=
  { up [(Reg.CHT_STATUS_state, chtActive), (Reg.DEV_FEAT_CTRL_committed, 1), (Reg.DEV_FEAT_ACCEPT_accept, 0x3F)] with
    chart := some chart, jobs := [⟨1, 1, 0, 0⟩], tasks := ts }

/-- Ring 0 at its reset values but enabled, of 16 entries, one of them rung. -/
def ring0 : Ring := { Ring.initial 0 with enabled := true, log2Size := 4, tail := 1, cqBase := 0x1000 }

/-- An active state whose ring 0 has an entry of these bytes at its head. -/
def ringAt (b : List Byte) : State := { (active []).write 0 b with rings := [ring0] }

/-- A ring entry: kind, target, address, count, tag. -/
def entry (kind addr count tag : Nat) : List Byte :=
  leBytes 8 kind ++ leBytes 8 addr ++ leBytes 4 count ++ leBytes 4 tag

/-- A packet to this module for job 1. -/
def packet (op addr length : Nat) : Packet :=
  { Packet.blank with dst := 0, src := 1, jobId := 1, op := op, addr := addr, length := length,
                      payload := List.replicate length 1 }

theorem serves {s : State} (h : s.carrier.power = .on ∧ s.pcie.d3hot = false ∧ s.reg Reg.SEC_STATUS_state ≠ secRecovery) :
    hostServes s := ⟨⟨h.1, h.2.1⟩, h.2.2⟩

theorem runs {s : State} {t : Task} {e o : Nat}
    (h : (s.task? t.id == some t && decide (t.id.die < 8) && decide (t.phase = .running) && decide (t.desc.engine = e) &&
      decide (fieldLe t.args 0 1 = o) && decide (s.jobState t.job = 1)) = true) : engineRuns s t e o := by
  simp only [Bool.and_eq_true, beq_iff_eq, decide_eq_true_eq] at h
  exact ⟨h.1.1.1.1.1, h.1.1.1.1.2, h.1.1.1.2, h.1.1.2, h.1.2, h.2⟩


/-! ### Hypotheses that states meet: the queue, registers, the Chart -/

theorem meets_StepRunsFront : ∃ (s : State) (c : Instr) (rest : List Instr), s.pending = c :: rest :=
  ⟨{ State.reset with pending := [.unload] }, .unload, [], rfl⟩

/-- A correction since 0, and its 1 ms at its end and a cycle before. -/
theorem meets_IdleCycle : ∃ (s t u v : State) (c : Correction), (s.pending = [] ∧ s.now + 1 ≤ s.boundary) ∧
    (t.pending = [] ∧ t.boundary < t.now + 1) ∧ (u.corrections = [c] ∧ u.now + 1 = c.since + 100000) ∧
    v.corrections = [c] ∧ c.since + 100000 ≤ v.now :=
  ⟨State.reset, { State.reset with now := 100 }, { State.reset with now := 99999, corrections := [⟨0, 0xFF, 0, 0, 0, 1⟩] },
    { State.reset with now := 100000, corrections := [⟨0, 0xFF, 0, 0, 0, 1⟩] }, ⟨0, 0xFF, 0, 0, 0, 1⟩, by decide⟩

theorem meets_EveryCommandAnswers : ∃ c d : Instr, c.wf = true ∧ d.wf = false := ⟨.dispatch 11 63, .dispatch 12 0, by decide⟩

/-- Also of OneCommandPerStep. -/
theorem meets_MemoryStaysCanonical : ∃ s t : State, s.mem.wf = true ∧ step s = .next t := ⟨State.reset, _, rfl, rfl⟩

theorem meets_MonotonicCounter : ∃ s t u v w : State,
    (s.binnacle.counter < 2 ^ 32 ∧ s.boot.svn < 2 ^ 32 ∧ s.binnacle.counter = 2 ^ 32 - 1 ∧ step s = .next t) ∧
    (exec .boot u = .next v) ∧
    (bootServes s ∧ s.boot.svn ≤ s.binnacle.counter) ∧ (bootServes w ∧ w.binnacle.counter < w.boot.svn) :=
  ⟨{ State.reset with binnacle := { Binnacle.fresh with counter := 2 ^ 32 - 1 } }, _, State.reset, _,
    { State.reset with boot := { Boot.reset with svn := 1 } }, ⟨by decide, by decide, by decide, rfl⟩, rfl,
    ⟨⟨rfl, rfl⟩, by decide⟩, ⟨rfl, rfl⟩, by decide⟩

theorem meets_RegisterReads : ∃ (s : State) (off size : Nat), hostServes s ∧ bootServes s ∧ aligned off size = false :=
  ⟨State.reset, 0x12, 4, serves (by decide), ⟨rfl, rfl⟩, by decide⟩

theorem meets_RegisterWrites : ∃ (s : State) (a b c d : Nat), hostServes s ∧ (1 ≤ a % 4096 ∧ a % 4096 ≤ 2048) ∧
    (1 ≤ b % 4096 ∧ b % 4096 ≤ 2048) ∧ c % 4096 = 0 ∧ 2048 < d % 4096 :=
  ⟨State.reset, 1, 2048, 0, 2049, serves (by decide), by decide⟩

theorem meets_ChartLoad : ∃ s t u v : State, (hostServes s ∧ s.load = none ∧ s.chtState = chtNone) ∧
    (256 ≤ t.reg Reg.CHT_IMAGE_LEN_len ∧ t.load = none ∧ t.chtState = chtNone ∧ hostServes t) ∧
    (hostServes u ∧ u.load.isSome) ∧ hostServes v ∧ v.load = none ∧ v.chtState ≠ chtNone :=
  ⟨State.reset, up [(Reg.CHT_IMAGE_LEN_len, 256)], { State.reset with load := some ⟨[], false, 0⟩ },
    up [(Reg.CHT_STATUS_state, chtActive)], ⟨serves (by decide), by decide⟩, ⟨by decide, rfl, by decide, serves (by decide)⟩,
    ⟨serves (by decide), rfl⟩, serves (by decide), by decide⟩

/-- A load of an image that does not fit fails, with an unload waiting or without; and a state without a load. -/
theorem meets_ChartChecksEnd_fails : (∀ w : Bool, ∃ (s : State) (l : Load) (r o : Nat), s.load = some l ∧ s.unloadWaiting = w ∧
    s.checkImage l = .error (r, o)) ∧ State.reset.load = none :=
  ⟨fun w => ⟨{ State.reset with load := some ⟨[], false, 0⟩, unloadWaiting := w }, ⟨[], false, 0⟩, 2, 0, rfl, rfl, rfl⟩, rfl⟩

theorem meets_ChartUnload : ∃ a b c d e f g h : State,
    (hostServes a ∧ a.load = none ∧ a.chtState = chtActive ∧ a.reg Reg.CHT_CTRL_force = 0) ∧
    (hostServes b ∧ b.load = none ∧ b.chtState = chtActive ∧ b.reg Reg.CHT_CTRL_force = 1) ∧
    (hostServes c ∧ c.load = none ∧ c.chtState = chtNone ∧ c.chtState ≠ chtDraining ∧ exec .unload c = .next h) ∧
    (hostServes d ∧ d.load = none ∧ d.chtState = chtDraining ∧ d.zeroing = false ∧ d.drained = true) ∧
    (hostServes e ∧ e.load.isSome) ∧ f.zeroing = true ∧ (hostServes g ∧ g.chtState = chtDraining ∧ g.zeroing = true) :=
  have hd : hostServes { up [(Reg.CHT_STATUS_state, chtDraining)] with zeroing := true } := serves (by decide)
  ⟨up [(Reg.CHT_STATUS_state, chtActive)], up [(Reg.CHT_STATUS_state, chtActive), (Reg.CHT_CTRL_force, 1)], State.reset,
    up [(Reg.CHT_STATUS_state, chtDraining)], { State.reset with load := some ⟨[], false, 0⟩ },
    { State.reset with zeroing := true }, { up [(Reg.CHT_STATUS_state, chtDraining)] with zeroing := true }, _,
    ⟨serves (by decide), by decide⟩, ⟨serves (by decide), by decide⟩,
    ⟨serves (by decide), rfl, by decide, by decide, rfl⟩, ⟨serves (by decide), by decide⟩, ⟨serves (by decide), rfl⟩, rfl, hd, by decide, rfl⟩

/-! ### Rings -/

/-- A tail one whole ring ahead of head is taken, one more is not; a cq_head at cq_tail is, one beyond is not. -/
theorem meets_Doorbells : ∃ (s : State) (a b c d : Nat), hostServes s ∧ s.power.anchor = .awake ∧ s.accepted 0 = true ∧
    (s.ring 0).enabled = true ∧ s.chtState = chtActive ∧ (s.ringJob? 0).isSome ∧
    (a % 2 ^ 32 + 2 ^ 32 - (s.ring 0).head) % 2 ^ 32 ≤ 2 ^ (s.ring 0).log2Size ∧
    ¬ (b % 2 ^ 32 + 2 ^ 32 - (s.ring 0).head) % 2 ^ 32 ≤ 2 ^ (s.ring 0).log2Size ∧
    (c % 2 ^ 32 + 2 ^ 32 - (s.ring 0).cqHead) % 2 ^ 32 ≤ ((s.ring 0).cqTail + 2 ^ 32 - (s.ring 0).cqHead) % 2 ^ 32 ∧
    ((s.ring 0).cqTail + 2 ^ 32 - (s.ring 0).cqHead) % 2 ^ 32 < (d % 2 ^ 32 + 2 ^ 32 - (s.ring 0).cqHead) % 2 ^ 32 :=
  ⟨ringAt [], 16, 17, 0, 1, serves (by decide), by decide⟩

/-- Ring 0 in a stage of the anchor watch: on its way in, in the watch and in its wake. -/
def ringIn (a : AnchorStage) : State := { ringAt [] with power := { Power.reset with anchor := a } }

theorem meets_Doorbells_watch : (hostServes (ringIn .entering) ∧ (ringIn .entering).power.anchor = .entering ∧
      (ringIn .entering).abandonEntry.accepted 0 = true ∧ ((ringIn .entering).abandonEntry.ring 0).enabled = true ∧
      (ringIn .entering).abandonEntry.chtState = chtActive ∧ ((ringIn .entering).abandonEntry.ringJob? 0).isSome = true ∧
      ((ringIn .entering).abandonEntry.ring 0).head = 0 ∧ ((ringIn .entering).abandonEntry.ring 0).log2Size = 4 ∧
      ((ringIn .entering).abandonEntry.ring 1).enabled = false) ∧
    (hostServes (ringIn .watching) ∧ (ringIn .watching).power.anchor = .watching) ∧
    (hostServes (ringIn .waking) ∧ (ringIn .waking).power.anchor = .waking) :=
  ⟨⟨serves (by decide), by decide⟩, ⟨serves (by decide), rfl⟩, serves (by decide), rfl⟩

theorem opens (b : List Byte) : ringOpen (ringAt b) 0 1 :=
  ⟨by decide, rfl, rfl, rfl, rfl, show (0 : Nat) ≠ 1 by decide, rfl, rfl, rfl, rfl⟩

/-- An entry of each kind at the head of an open ring: NOP, the first and last reserved kinds, TASKS without and with descriptors, and
one outside every window; SIGNAL at and above its highest amount. -/
theorem meets_RingEntries :
    (∃ s e, ringOpen s 0 1 ∧ headEntry s 0 e ∧ e.kind = 0) ∧ (∃ s e, ringOpen s 0 1 ∧ headEntry s 0 e ∧ e.kind = 5) ∧
    (∃ s e, ringOpen s 0 1 ∧ headEntry s 0 e ∧ e.kind = 255) ∧
    (∃ s e, ringOpen s 0 1 ∧ headEntry s 0 e ∧ e.kind = 1 ∧ e.count = 0) ∧
    (∃ s e, ringOpen s 0 1 ∧ headEntry s 0 e ∧ e.kind = 1 ∧ e.count ≠ 0 ∧ s.tasksCheck 1 e = stOK) ∧
    (∃ s e, ringOpen s 0 1 ∧ headEntry s 0 e ∧ e.kind = 1 ∧ e.count ≠ 0 ∧ s.tasksCheck 1 e ≠ stOK) ∧
    (∃ s e, ringOpen s 0 1 ∧ headEntry s 0 e ∧ e.kind = 2 ∧ 65535 < e.count) ∧
    (∃ s e t, ringOpen s 0 1 ∧ headEntry s 0 e ∧ e.kind = 2 ∧ e.count ≤ 65535 ∧ s.signal? 1 e.tag e.count (e.target == 1) = some t) ∧
    ∃ s, ringOpen s 0 1 ∧ s.ringEntryPoisoned 0 = true :=
  ⟨⟨ringAt (entry 0 0 0 0), _, opens _, ⟨rfl, rfl⟩, by decide⟩, ⟨ringAt (entry 5 0 0 0), _, opens _, ⟨rfl, rfl⟩, by decide⟩,
    ⟨ringAt (entry 255 0 0 0), _, opens _, ⟨rfl, rfl⟩, by decide⟩, ⟨ringAt (entry 1 0 0 0), _, opens _, ⟨rfl, rfl⟩, by decide⟩,
    ⟨ringAt (entry 1 0x40 1 0), _, opens _, ⟨rfl, rfl⟩, by decide⟩, ⟨ringAt (entry 1 0x41 1 0), _, opens _, ⟨rfl, rfl⟩, by decide⟩,
    ⟨ringAt (entry 2 0 65536 9), _, opens _, ⟨rfl, rfl⟩, by decide⟩,
    ⟨ringAt (entry 2 0 65535 9), _, _, opens _, ⟨rfl, rfl⟩, by decide, by decide, rfl⟩,
    ⟨{ ringAt [] with mem := ⟨[], [0]⟩ }, ⟨by decide, rfl, rfl, rfl, rfl, show (0 : Nat) ≠ 1 by decide, rfl, rfl, rfl, rfl⟩, rfl⟩⟩

/-- Ring 0 at a stalled SIGNAL of an amount to tag 9, disabled, while the Chart is in a state. -/
def stalled (amount cht : Nat) (l : List PendingSignal) : State :=
  { (active []).setReg Reg.CHT_STATUS_state cht with
    rings := [{ ring0 with enabled := false, stalled := some ⟨2, 0, 0, amount, 9⟩ }], signals := l }

theorem meets_RingEntries_stalled : ∀ c ∈ [chtActive, chtDraining], ∀ n ∈ [65535, 65536],
    (stalled n c []).ringJob? 0 = some 1 ∧ (stalled n c []).jobState 1 = 1 ∧
      ((stalled n c []).chtState = chtActive ∨ (stalled n c []).chtState = chtDraining) ∧
      ((stalled n c []).ring 0).stalled = some ⟨2, 0, 0, n, 9⟩ ∧ ((stalled n c []).ring 0).fenced = false ∧
      ((stalled n c []).ring 0).heldByRecord = false ∧ ((stalled n c []).ring 0).progress = none := by decide

/-- A task that waits for a counter, tag 7 of job 1. -/
def waiter (n : Nat) : Task := { task 0 [] with phase := .waiting, counter := n }

theorem meets_SignalPlaced : ∃ s u v w x y : State, (∃ p ∈ s.signals, p.job = 1 ∧ p.tag = 9) ∧ s.tagged? 1 9 = none ∧
    ((∀ p ∈ u.signals, ¬ (p.job = 1 ∧ p.tag = 9)) ∧ u.signals.length < 65535 ∧ u.tagged? 1 9 = none) ∧
    ((∀ p ∈ v.signals, ¬ (p.job = 1 ∧ p.tag = 9)) ∧ v.signals.length = 65535 ∧ v.tagged? 1 9 = none) ∧
    ((∀ p ∈ w.signals, ¬ (p.job = 1 ∧ p.tag = 9)) ∧ 65536 ≤ w.signals.length ∧ w.tagged? 1 9 = none) ∧
    (x.tagged? 1 7 = some (waiter 2) ∧ (waiter 2).desc.spec = false ∧ (waiter 2).desc.waitMode ≠ 1 ∧ (waiter 2).phase = .waiting ∧
      (1 : Nat) < (waiter 2).counter ∧ (2 : Nat) = (waiter 2).counter) ∧
    y.tagged? 1 7 = some (waiter 0) :=
  ⟨{ active [] with signals := [⟨1, 9, 1⟩] }, active [], { active [] with signals := List.replicate 65535 ⟨2, 9, 1⟩ },
    { active [] with signals := List.replicate 65536 ⟨2, 9, 1⟩ }, active [waiter 2], active [waiter 0],
    ⟨_, List.mem_cons_self, rfl, rfl⟩, rfl, ⟨by decide, by decide, rfl⟩,
    ⟨fun p h => by rw [List.eq_of_mem_replicate h]; decide, List.length_replicate, rfl⟩,
    ⟨fun p h => by rw [List.eq_of_mem_replicate h]; decide, Nat.le_of_eq List.length_replicate.symm, rfl⟩,
    ⟨rfl, rfl, by decide⟩, rfl⟩

/-- DISCARD of a tag that nobody holds, of a task that is not speculative, and of a speculative one before and after its dispatch. -/
def discards (ts : List Task) : State := { ringAt (entry 3 0 0 7) with tasks := ts }

/-- A speculative task with a commit still due. -/
def spec (p : TaskPhase) : Task := { task 0 [] with desc := { desc 0 with spec := true }, commit := 1, phase := p }

theorem opensWith (b : List Byte) (ts : List Task) : ringOpen { ringAt b with tasks := ts } 0 1 :=
  ⟨by decide, rfl, rfl, rfl, rfl, show (0 : Nat) ≠ 1 by decide, rfl, rfl, rfl, rfl⟩

/-- Ring 0 with an outstanding fence. -/
def fenced (ts : List Task) : State := { active ts with rings := [{ ring0 with fenced := true }] }

theorem meets_RingDiscardAndFence :
    (∃ s e, ringOpen s 0 1 ∧ headEntry s 0 e ∧ e.kind = 3 ∧ s.tagged? 1 e.tag = none) ∧
    (∃ s e t, ringOpen s 0 1 ∧ headEntry s 0 e ∧ e.kind = 3 ∧ s.tagged? 1 e.tag = some t ∧ t.undecided = false) ∧
    (∃ s e t, ringOpen s 0 1 ∧ headEntry s 0 e ∧ e.kind = 3 ∧ s.tagged? 1 e.tag = some t ∧ t.undecided = true ∧
      t.mayHaveWritten = false) ∧
    (∃ s e t, ringOpen s 0 1 ∧ headEntry s 0 e ∧ e.kind = 3 ∧ s.tagged? 1 e.tag = some t ∧ t.undecided = true ∧
      t.phase = .running) ∧
    (∃ s e t, ringOpen s 0 1 ∧ headEntry s 0 e ∧ e.kind = 3 ∧ s.tagged? 1 e.tag = some t ∧ t.undecided = true ∧
      t.phase = .undecided) ∧
    (∃ s e, ringOpen s 0 1 ∧ headEntry s 0 e ∧ e.kind = 4 ∧ s.ringHasLive 0 = true) ∧
    (∃ s e, ringOpen s 0 1 ∧ headEntry s 0 e ∧ e.kind = 4 ∧ s.ringHasLive 0 = false) ∧
    (∃ s : State, (s.ring 0).fenced = true ∧ s.ringHasLive 0 = false) ∧ ∃ s : State, (s.ring 0).fenced = true ∧ s.ringHasLive 0 = true :=
  ⟨⟨discards [], _, opensWith _ _, ⟨rfl, rfl⟩, by decide, rfl⟩,
    ⟨discards [waiter 1], _, _, opensWith _ _, ⟨rfl, rfl⟩, by decide, rfl, by decide⟩,
    ⟨discards [spec .waiting], _, _, opensWith _ _, ⟨rfl, rfl⟩, by decide, rfl, by decide, by decide⟩,
    ⟨discards [spec .running], _, _, opensWith _ _, ⟨rfl, rfl⟩, by decide, rfl, by decide, rfl⟩,
    ⟨discards [spec .undecided], _, _, opensWith _ _, ⟨rfl, rfl⟩, by decide, rfl, by decide, rfl⟩,
    ⟨{ ringAt (entry 4 0 0 0) with tasks := [waiter 1] }, _, opensWith _ _, ⟨rfl, rfl⟩, by decide, by decide⟩,
    ⟨{ ringAt (entry 4 0 0 0) with tasks := [] }, _, opensWith _ _, ⟨rfl, rfl⟩, by decide, by decide⟩,
    ⟨fenced [], rfl, rfl⟩, ⟨fenced [waiter 1], rfl, rfl⟩⟩

/-! ### Tasks -/

/-- Ring 0 at descriptor 0 of an array of two at an address. -/
def registering (addr : Nat) (ts : List Task) : State := { active ts with rings := [{ ring0 with progress := some (0, addr, 2) }] }

theorem registers (ts : List Task) (addr : Nat) : registersNext (registering addr ts) 0 1 0 addr 2
    (parseDesc ((registering addr ts).readAddr (addrPlus addr (0 * 64)) 64)) :=
  ⟨by decide, rfl, rfl, rfl, rfl, rfl, rfl, rfl⟩

/-- A descriptor of zeros is a NOP and passes; one of argument bytes 0x40 and engine 12 does not. The table is full at 131,072 entries. -/
theorem meets_TaskRegister :
    (∃ s d, registersNext s 0 1 0 0x40 2 d ∧ s.descCheck 1 d = stOK ∧ s.tableUse (s.homeDie d) < 131072) ∧
    (∃ s d, registersNext s 0 1 0 0x40 2 d ∧ s.descCheck 1 d = stOK ∧ 131072 ≤ s.tableUse (s.homeDie d)) ∧
    (∃ s d, registersNext s 0 1 0 0x40 2 d ∧ s.descCheck 1 d ≠ stOK) ∧
    (∃ s : State, (s.ring 0).progress = some (0, 0x40, 2) ∧ s.ringJob? 0 = some 1 ∧ s.jobState 1 = 1 ∧ s.chtState = chtActive ∧
      (s.ring 0).heldByRecord = false ∧ s.poisonedAt (addrPlus 0x40 (0 * 64)) 64 = true) ∧
    ∃ (s : State) (d : TaskDesc), d.signalTag ≠ 0 ∧
      (((s.signals.find? (fun p => decide (p.job = 1) && decide (p.tag = d.signalTag))).map (·.count)).getD 0) < d.depCount :=
  ⟨⟨registering 0x40 [], _, registers _ _, by decide, by decide⟩,
    ⟨registering 0x40 (List.replicate 131072 (task 0 [])), _, registers _ _, rfl,
      Nat.le_of_eq (by unfold State.tableUse registering active; rw [List.filter_replicate]; exact List.length_replicate.symm)⟩,
    ⟨(registering 0x40 []).write 0x40 [12], _, ⟨by decide, rfl, rfl, rfl, rfl, rfl, by decide, rfl⟩, by decide⟩,
    ⟨{ registering 0x40 [] with mem := ⟨[], [1]⟩ }, by decide⟩,
    ⟨{ active [] with signals := [⟨1, 7, 2⟩] }, { desc 0 with depCount := 3 }, by decide, by decide⟩⟩

/-- A ready task of a class with so many argument bytes. -/
def readyTask (e argsBytes : Nat) : Task :=
  { task e [] with desc := { desc e with argsBytes := argsBytes, args := 0x1000 }, phase := .ready 0 }

/-- That task of a speculative class. -/
def specReady (e argsBytes : Nat) : Task :=
  { readyTask e argsBytes with desc := { (readyTask e argsBytes).desc with spec := true } }

/-- A free engine of a class takes a task, and its block is not short. -/
def takes (s : State) (e : Nat) (t : Task) : Prop :=
  s.power.anchor = .awake ∧ s.nextTask? e 0 = some t ∧ s.engineFree t = true ∧ 64 ≤ t.desc.argsBytes ∧
    s.sizePoisoned t.desc = false ∧ s.blockShort t.desc = false ∧ s.poisonedAt t.desc.args (s.blockSize t.desc) = false

/-- For each clause a ready task: NOP and another class without arguments, both ends of too few bytes for any block, one byte less than a
chain's block, a reserved op, poisoned blocks, a block that passes and one that fails. The block of zeros of DMA is a COPY of no bytes. -/
theorem meets_Dispatch :
    (∃ s : State, s.power.anchor ≠ .awake) ∧
    (∃ (s : State) (t : Task), s.nextTask? 7 0 = some t ∧ s.engineFree t = false) ∧
    (∀ p ∈ [(0, 0), (6, 0), (6, 1), (6, 63)], ∃ (s : State) (t : Task), s.power.anchor = .awake ∧ s.nextTask? p.1 0 = some t ∧
      s.engineFree t = true ∧ t.desc.argsBytes = p.2 ∧ t.desc.engine = p.1) ∧
    (∀ p ∈ [(4, 64), (5, 351)], ∃ (s : State) (t : Task), s.power.anchor = .awake ∧ s.nextTask? p.1 0 = some t ∧ s.engineFree t = true ∧
      64 ≤ t.desc.argsBytes ∧ s.sizePoisoned t.desc = false ∧ s.blockShort t.desc = true ∧ t.desc.argsBytes = p.2) ∧
    (∃ (s : State) (t : Task), s.power.anchor = .awake ∧ s.nextTask? 4 0 = some t ∧ s.engineFree t = true ∧ 64 ≤ t.desc.argsBytes ∧
      s.sizePoisoned t.desc = true) ∧
    (∃ (s : State) (t : Task), s.power.anchor = .awake ∧ s.nextTask? 6 0 = some t ∧ s.engineFree t = true ∧ 64 ≤ t.desc.argsBytes ∧
      s.sizePoisoned t.desc = false ∧ s.blockShort t.desc = false ∧ s.poisonedAt t.desc.args (s.blockSize t.desc) = true) ∧
    (∃ (s : State) (t : Task), takes s 6 t ∧ s.argsCheck (s.taken t) = stOK) ∧
    ∃ (s : State) (t : Task), takes s 6 t ∧ s.argsCheck (s.taken t) ≠ stOK ∧ t.speculative = false :=
  ⟨⟨{ State.reset with power := { Power.reset with anchor := .watching } }, by decide⟩,
    ⟨active [readyTask 7 0, { task 7 [] with id := ⟨0, 1⟩ }], _, rfl, rfl⟩,
    fun p h => ⟨active [readyTask p.1 p.2], readyTask p.1 p.2, rfl, by revert p; decide, by revert p; decide, rfl, rfl⟩,
    fun p h => ⟨active [readyTask p.1 p.2], readyTask p.1 p.2, rfl, by revert p; decide, by revert p; decide, by revert p; decide,
      by revert p; decide, by revert p; decide, rfl⟩,
    ⟨{ active [readyTask 4 64] with mem := ⟨[], [64]⟩ }, _, rfl, rfl, rfl, by decide, by decide⟩,
    ⟨{ active [readyTask 6 64] with mem := ⟨[], [64]⟩ }, _, rfl, rfl, rfl, by decide, by decide, by decide, by decide⟩,
    ⟨active [readyTask 6 64], _, ⟨rfl, rfl, rfl, by decide, by decide, by decide, by decide⟩, by decide⟩,
    ⟨(active [readyTask 6 64]).write 0x1000 [5], _, ⟨rfl, rfl, rfl, by decide, by decide, by decide, by decide⟩, by decide, by decide⟩⟩

/-- Of two ready tasks the one of the higher priority, and of one priority the one that has been ready longer. -/
theorem meets_Dispatch_order : ∃ (s : State) (t u : Task), s.nextTask? 6 0 = some t ∧ u ∈ s.candidates 6 0 ∧
    u.desc.priority = t.desc.priority ∧ t.readySince < u.readySince :=
  ⟨active [{ readyTask 6 0 with id := ⟨0, 1⟩, phase := .ready 5 }, { readyTask 6 0 with phase := .ready 4 }], _,
    { readyTask 6 0 with id := ⟨0, 1⟩, phase := .ready 5 }, rfl, by decide, by decide, by decide⟩

/-- A finished task with a status. -/
def finished (st : Nat) : Task := { task 0 [] with phase := .finished, status := st }

/-- A speculative task that has finished, marked or not, with its commit reached before or now. -/
def decided (e : Nat) (committed marked : Bool) : Task :=
  { task e [] with desc := { desc e with spec := true }, phase := .finished, committed := committed, marked := marked }

theorem meets_TaskComplete :
    (∃ (s : State) (t : Task), s.task? t.id = some t ∧ t.id.die < 8 ∧ t.phase = .finished ∧ s.jobState t.job ≠ 1) ∧
    (∃ (s : State) (t : Task), s.task? t.id = some t ∧ t.id.die < 8 ∧ t.phase = .finished ∧ s.jobState t.job = 1 ∧ t.speculative = true ∧
      t.commit ≠ 0 ∧ t.committed = false) ∧
    (∀ c m : Bool, ∃ (s : State) (t : Task), s.task? t.id = some t ∧ t.id.die < 8 ∧ t.phase = .finished ∧ s.jobState t.job = 1 ∧
      t.speculative = true ∧ t.commit = 0 ∧ t.committed = c ∧ t.marked = m ∧ isTileClass t.desc.engine = true ∧
        s.retired t.runTile = false) ∧
    (∀ e ∈ [1, 9], ∃ (s : State) (t : Task), s.task? t.id = some t ∧ t.id.die < 8 ∧ t.phase = .finished ∧ s.jobState t.job = 1 ∧
      t.speculative = true ∧ t.commit = 0 ∧ t.marked = true ∧ isTileClass t.desc.engine = (e == 1) ∧ s.retired t.runTile = true) ∧
    ∀ st, ∃ (s : State) (t : Task), s.task? t.id = some t ∧ t.id.die < 8 ∧ t.phase = .finished ∧ s.jobState t.job = 1 ∧
      t.speculative = false ∧ t.status = st :=
  ⟨⟨{ active [finished 0] with jobs := [⟨1, 2, 0, 0⟩] }, finished 0, rfl, by decide, rfl, by decide⟩,
    ⟨active [spec .finished], spec .finished, rfl, by decide, rfl, rfl, rfl, by decide, rfl⟩,
    fun c m => ⟨active [decided 1 c m], decided 1 c m, rfl, show (0 : Nat) < 8 by decide, rfl, rfl, by revert c m; decide, rfl, rfl, rfl, rfl,
      show (active []).retired 0 = false by decide⟩,
    fun e h => ⟨{ active [decided e false true] with binnacle := { Binnacle.fresh with retired := 1 } }, decided e false true, rfl,
      show (0 : Nat) < 8 by decide, rfl, rfl, by revert e; decide, rfl, rfl, by revert e; decide, by revert e; decide⟩,
    fun st => ⟨active [finished st], finished st, rfl, show (0 : Nat) < 8 by decide, rfl, rfl, rfl, rfl⟩⟩

/-- Ring 0 with a waiting record; its queue is full 16 entries after cq_head. -/
def recording (cqTail : Nat) (w : WaitingRecord) (ts : List Task) : State :=
  { active ts with rings := [{ ring0 with cqTail := cqTail, waiting := [w] }] }

/-- A record of no task, and of the task. -/
def record (t : Option TaskId) : WaitingRecord :=
  { userTag := 0, signalTag := 7, status := 0, tile := 0, task := t, interrupt := false, time := 0 }

/-- A completed task that owes a signal to tag 9. -/
def owing : Task := { task 0 [] with phase := .signalling, owed := [9] }

theorem stays (s : State) (job : Nat) (hn : s.tagged? job 9 = none)
    (hf : (∀ p ∈ s.signals, ¬ (p.job = job ∧ p.tag = 9)) ∧ 65536 ≤ s.signals.length) : s.placeSignals job [9] = (s, [9]) := by
  have hp : s.pendSignal job 9 1 = none := by
    have ha : s.signals.any (fun p => decide (p.job = job) && decide (p.tag = 9)) = false := by
      simpa [List.any_eq_false] using hf.1
    simp [State.pendSignal, ha, pendingSize, hf.2]
  simp [State.placeSignals, State.signal?, hn, hp]

theorem meets_CompletionRecords :
    (∃ t u : Task, t.dispatched = none ∧ t.desc.notify = false ∧ u.dispatched = none ∧ u.desc.notify = true) ∧
    (∃ (s : State) (t : Task), t.dispatched = none ∧ (s.ring t.ring).cqFull = false ∧ (s.ring t.ring).waiting = []) ∧
    (∃ (s : State) (t : Task), t.dispatched = none ∧ (s.ring t.ring).cqFull = true) ∧
    (∃ (s : State) (w : WaitingRecord), (s.ring 0).waiting = [w] ∧ (s.ring 0).cqFull = true) ∧
    (∃ (s : State) (w : WaitingRecord), (s.ring 0).waiting = [w] ∧ (s.ring 0).cqFull = false ∧ w.task = none ∧ w.interrupt = false) ∧
    (∃ (s : State) (w : WaitingRecord) (u : Task), (s.ring 0).waiting = [w] ∧ (s.ring 0).cqFull = false ∧ w.task = some u.id ∧
      s.task? u.id = some u ∧ (s.ring 0).closing = false ∧ w.interrupt = false) ∧
    (∃ (s : State) (w : WaitingRecord) (i : TaskId), (s.ring 0).waiting = [w] ∧ (s.ring 0).cqFull = false ∧ w.task = some i ∧
      s.tasks = [] ∧ w.interrupt = false) ∧
    (∃ s u : State, ∃ t : Task, s.task? t.id = some t ∧ t.id.die < 8 ∧ t.phase = .signalling ∧ s.placeSignals t.job t.owed = (u, [])) ∧
    ∃ s u : State, ∃ t : Task, s.task? t.id = some t ∧ t.id.die < 8 ∧ t.phase = .signalling ∧ s.placeSignals t.job t.owed = (u, [9]) :=
  ⟨⟨task 0 [], { task 0 [] with desc := { desc 0 with notify := true } }, rfl, rfl, rfl, rfl⟩,
    ⟨{ active [] with rings := [ring0] }, task 0 [], rfl, by decide, rfl⟩, ⟨recording 16 (record none) [], task 0 [], rfl, by decide⟩,
    ⟨recording 16 (record none) [], record none, rfl, by decide⟩, ⟨recording 15 (record none) [], record none, rfl, by decide, rfl, rfl⟩,
    ⟨recording 15 (record (some ⟨0, 0⟩)) [task 0 []], record (some ⟨0, 0⟩), task 0 [], rfl, by decide, rfl, rfl, rfl, rfl⟩,
    ⟨recording 15 (record (some ⟨0, 0⟩)) [], record (some ⟨0, 0⟩), ⟨0, 0⟩, rfl, by decide, rfl, rfl, rfl⟩,
    ⟨active [owing], _, owing, rfl, by decide, rfl, rfl⟩,
    ⟨{ active [owing] with signals := List.replicate 65536 ⟨2, 9, 1⟩ }, _, owing, rfl, by decide, rfl, stays _ 1 rfl
      ⟨fun p h => by rw [List.eq_of_mem_replicate h]; decide, Nat.le_of_eq List.length_replicate.symm⟩⟩⟩

/-- A task with a deadline at a tick, and one in a delay list. -/
def late (due : Nat) : Task := { waiter 1 with deadlineTick := some due }
def delayed (due : Nat) : Task := { task 0 [] with phase := .delaying due }

theorem meets_Expiries :
    (∃ (s : State) (t : Task), s.task? t.id = some t ∧ t.id.die < 8 ∧ t.deadlineTick = some 5 ∧ t.phase = .waiting ∧ t.dispatched = none ∧
      s.jobState t.job = 1 ∧ 5 ≤ s.tick ∧ (s.ring t.ring).cqFull = false ∧ (s.ring t.ring).waiting = [] ∧ ∃ u owed,
        ((s.writeRecord t.ring (t.record stLATE s.now)).setTask { t with status := stLATE, phase := .signalling, owed := [] }).placeSignals
          t.job (if t.desc.expirySucc = 0 then [] else [t.desc.expirySucc]) = (u, owed)) ∧
    (∃ (s : State) (t : Task), s.task? t.id = some t ∧ t.id.die < 8 ∧ t.deadlineTick = some 5 ∧ t.phase = .waiting ∧ t.dispatched = none ∧
      s.jobState t.job = 1 ∧ 5 ≤ s.tick ∧ (s.ring t.ring).cqFull = true) ∧
    (∃ (s : State) (t : Task), s.task? t.id = some t ∧ t.id.die < 8 ∧ t.deadlineTick = some 5 ∧ s.tick < 5) ∧
    (∃ (s : State) (t : Task), s.task? t.id = some t ∧ t.id.die < 8 ∧ t.phase = .delaying 5 ∧ 5 ≤ s.tick) ∧
    ∃ (s : State) (t : Task), s.task? t.id = some t ∧ t.id.die < 8 ∧ t.phase = .delaying 5 ∧ s.tick < 5 :=
  ⟨⟨{ active [late 5] with tick := 5 }, late 5, rfl, by decide, rfl, rfl, rfl, rfl, by decide, by decide, rfl, _, _, rfl⟩,
    ⟨{ recording 16 (record none) [late 5] with tick := 5 }, late 5, rfl, by decide, rfl, rfl, rfl, rfl, by decide, by decide⟩,
    ⟨{ active [late 5] with tick := 4 }, late 5, rfl, by decide, rfl, by decide⟩,
    ⟨{ active [delayed 5] with tick := 5 }, delayed 5, rfl, by decide, rfl, by decide⟩,
    ⟨{ active [delayed 5] with tick := 4 }, delayed 5, rfl, by decide, rfl, by decide⟩⟩

/-- An expiry whose signal finds the pending-signal table full. -/
theorem meets_Expiries_full : ∃ (s : State) (t : Task), s.task? t.id = some t ∧ t.id.die < 8 ∧ t.deadlineTick = some 5 ∧
    t.phase = .waiting ∧ t.dispatched = none ∧ s.jobState t.job = 1 ∧ 5 ≤ s.tick ∧ (s.ring t.ring).cqFull = false ∧
    (s.ring t.ring).waiting = [] ∧ ∃ u,
      ((s.writeRecord t.ring (t.record stLATE s.now)).setTask { t with status := stLATE, phase := .signalling, owed := [] }).placeSignals
        t.job (if t.desc.expirySucc = 0 then [] else [t.desc.expirySucc]) = (u, [9]) :=
  ⟨{ active [{ late 5 with desc := { desc 0 with expirySucc := 9 } }] with tick := 5, signals := List.replicate 65536 ⟨2, 9, 1⟩ },
    { late 5 with desc := { desc 0 with expirySucc := 9 } }, rfl, by decide, rfl, rfl, rfl, rfl, by decide, by decide, rfl, _,
    stays _ 1 rfl ⟨fun p h => by rw [List.eq_of_mem_replicate (h : p ∈ List.replicate 65536 ⟨2, 9, 1⟩)]; decide,
      Nat.le_of_eq List.length_replicate.symm⟩⟩

/-- A ring disabled at reset is enabled where its ranges lie in the window, and not where its base lies beyond HBM or nobody owns it. -/
theorem meets_TickRingsNop : (∃ s, hostServes s ∧ (s.ring (s.reg Reg.SCH_RING_SEL_ring)).enabled = false ∧
      s.ringEnableOk (s.ring (s.reg Reg.SCH_RING_SEL_ring)) = true) ∧
    (∃ s, hostServes s ∧ (s.ring (s.reg Reg.SCH_RING_SEL_ring)).enabled = false ∧
      s.ringEnableOk (s.ring (s.reg Reg.SCH_RING_SEL_ring)) = false) ∧
    ∃ s t, hostServes s ∧ engineRuns s t engNOP 0 :=
  ⟨⟨{ active [] with rings := [{ ring0 with enabled := false }] }, serves (by decide), by decide, by decide⟩,
    ⟨State.reset, serves (by decide), by decide, by decide⟩,
    ⟨active [task 0 []], task 0 [], serves (by decide), runs (by decide)⟩⟩

/-! ### Engines -/

/-- An argument block of n bytes with fields of a size at an offset. -/
def block (n : Nat) (fields : List (Nat × Nat × Nat)) : List Byte :=
  fields.foldl (fun b f => b.take f.1 ++ leBytes f.2.1 f.2.2 ++ b.drop (f.1 + f.2.1)) (List.replicate n 0)

/-- The state in which the task of a class with this block is the only one, and runs. -/
def one (e : Nat) (b : List Byte) : State := active [task e b]

/-- The first task of a state. -/
def the (s : State) : Task := s.tasks.headD (task 0 [])

theorem here (s : State) {e o : Nat} {P : State → Task → Prop}
    (h : (s.task? (the s).id == some (the s) && decide ((the s).id.die < 8) && decide ((the s).phase = .running) &&
      decide ((the s).desc.engine = e) && decide (fieldLe (the s).args 0 1 = o) && decide (s.jobState (the s).job = 1)) = true)
    (hp : P s (the s)) : ∃ s t, engineRuns s t e o ∧ P s t := ⟨s, the s, runs h, hp⟩

theorem meets_Copies :
    (∃ s t, engineRuns s t engDMA 0 ∧ (parseDma t.args).length ≠ 0 ∧ (parseDma t.args).xform = 0) ∧
    (∃ s t, engineRuns s t engDMA 4 ∧ (parseDma t.args).length ≠ 0 ∧ (parseDma t.args).xform = 0) ∧
    (∃ s t, engineRuns s t engDMA 1 ∧ (parseDma t.args).length ≠ 0 ∧ (parseDma t.args).rows ≠ 0 ∧ (parseDma t.args).xform = 0 ∧
      (parseDma t.args).length ≤ (parseDma t.args).dstStride.natAbs) ∧
    (∃ s t, engineRuns s t engDMA 1 ∧ (parseDma t.args).length ≠ 0 ∧ 1 < (parseDma t.args).rows ∧ (parseDma t.args).xform = 0 ∧
      (parseDma t.args).dstStride.natAbs < (parseDma t.args).length) ∧
    (∃ s t, engineRuns s t engDMA 1 ∧ (parseDma t.args).length ≠ 0 ∧ (parseDma t.args).rows ≠ 0 ∧ (parseDma t.args).xform ≠ 0) ∧
    (∃ s t, engineRuns s t engDMA 0 ∧ (parseDma t.args).length ≠ 0 ∧ (parseDma t.args).xform ≠ 0) ∧
    (∃ s t, engineRuns s t engDMA 0 ∧ (parseDma t.args).length = 0) ∧ (∃ s t, engineRuns s t engDMA 1 ∧ (parseDma t.args).rows = 0) ∧
    (∃ s t, engineRuns s t engDMA 4 ∧ (parseDma t.args).length = 0) ∧
    ∃ errs : List CodewordError, errs ≠ [] ∧ errs.all CodewordError.wf = true :=
  ⟨here (one 6 (block 64 [(0x18, 4, 1)])) (by decide) (by decide),
    here (one 6 (block 64 [(0, 1, 4), (0x18, 4, 1)])) (by decide) (by decide),
    here (one 6 (block 64 [(0, 1, 1), (4, 4, 2), (0x18, 4, 8), (0x28, 8, 2 ^ 64 - 8)])) (by decide) (by decide),
    here (one 6 (block 64 [(0, 1, 1), (4, 4, 2), (0x18, 4, 8), (0x28, 8, 7)])) (by decide) (by decide),
    here (one 6 (block 64 [(0, 1, 1), (4, 4, 2), (0x18, 4, 8), (0x30, 8, 1)])) (by decide) (by decide),
    here (one 6 (block 64 [(0x18, 4, 8), (0x30, 8, 1)])) (by decide) (by decide),
    here (one 6 (block 64 [])) (by decide) (by decide), here (one 6 (block 64 [(0, 1, 1)])) (by decide) (by decide),
    here (one 6 (block 64 [(0, 1, 4)])) (by decide) (by decide), [⟨0xBFFFFFFFFF, [0, 71], false⟩], by decide, by decide⟩

/-- A disturbed task: another write has fallen on its input since its run began. -/
theorem meets_ResultFrame_disturbed : ∃ (s : State) (t : Task), s.disturbed t = true ∧ t.outs = [(0x2000, 64)] :=
  ⟨{ active [] with writes := [(0x1000, 1)] }, { task 4 [1] with ins := [(0x1000, 64)], outs := [(0x2000, 64)] }, by decide⟩

theorem meets_ResultFrame : ∃ (s : State) (r : Result), s.accepted 1 = false ∧ r.events = [] ∧ r.blocks = [] ∧
    ∀ p ∈ r.bumps ++ r.raises, p.1.key ≠ Reg.DEV_FEAT_CTRL_committed.key ∧ p.1.key ≠ Reg.DEV_FEAT_ACCEPT_accept.key :=
  ⟨State.reset, { ops := [.write 0 [1]], bumps := [(Reg.MEM_CNT_UE, 1)] }, by decide, rfl, rfl, by decide⟩

/-- A stream of two 64-byte blocks, one of them issued, from a source. -/
def stream (src : Nat) (indexed : Bool) (flying : List Flying) (arrived : List (Nat × BlockState)) : Stream :=
  { die := 0, slot := 3, job := 1, src := src, dst := 0x2000, blockBytes := 64, blockCount := 2, stride := 64, bound := 64,
    slots := 2, depthMin := 1, depthMax := 2, indexed := indexed, adapt := false, idx := 0x3000, spec := false, depth := 1, consumed := 0,
    issued := 1, late := 0, lateInWindow := 0, asked := false, flying := flying, arrivals := arrived, openedAt := 0 }

/-- A state with an open stream; index 0 of an indexed one names a block beyond its bound. -/
def streaming (x : Stream) : State := { (active []).write 0x3000 [1] with streams := [x] }

/-- A Chart whose job may also use the tile stores. -/
def tiled : Chart := { chart with jobs := [⟨1, 0, 1, [⟨true, true, true, 0, 0, 0xC000000000⟩, ⟨false, true, true, 1, 0, 0x80000000⟩]⟩] }

/-- A STREAM_OPEN whose descriptor at 0 gives a mode and adapt, two blocks or none of 64 bytes and two slots. -/
def opening (mode blocks : Nat) : State :=
  ({ one 6 (block 64 [(0, 1, 2), (1, 1, 3)]) with chart := some tiled } : State).write 0
    (block 64 [(8, 8, 2 ^ 45), (0x10, 4, 64), (0x14, 4, blocks), (0x18, 8, 64), (0x20, 8, 0x1000), (0x28, 2, 2), (0x2A, 2, 1), (0x2C, 2, 2), (0x2E, 1, mode)])

theorem meets_Streams_open :
    (∀ m ∈ [0, 16], ∃ s t, engineRuns s t engDMA 2 ∧
      s.streamCheck t.job (t.runTile / 8) (parseDma t.args).stream (parseStream (s.readAddr (parseDma t.args).src 64)) = stOK ∧
      (parseStream (s.readAddr (parseDma t.args).src 64)).blockBytes ≠ 0 ∧ (parseStream (s.readAddr (parseDma t.args).src 64)).blockCount ≠ 0) ∧
    (∃ s t, engineRuns s t engDMA 2 ∧
      s.streamCheck t.job (t.runTile / 8) (parseDma t.args).stream (parseStream (s.readAddr (parseDma t.args).src 64)) = stOK ∧
      (parseStream (s.readAddr (parseDma t.args).src 64)).blockCount = 0) ∧
    (∃ s t, engineRuns s t engDMA 2 ∧
      s.streamCheck t.job (t.runTile / 8) (parseDma t.args).stream (parseStream (s.readAddr (parseDma t.args).src 64)) ≠ stOK) ∧
    (∃ s t, engineRuns s t engDMA 3 ∧ s.streams = []) ∧
    ∃ s t, engineRuns s t engDMA 3 ∧ ∃ x ∈ s.streams, x.die = t.runTile / 8 ∧ x.slot = (parseDma t.args).stream :=
  ⟨fun m h => ⟨opening m 2, the (opening m 2), runs (by revert m; decide), by revert m; decide, by revert m; decide, by revert m; decide⟩,
    here (opening 0 0) (by decide) (by decide), here (opening 2 2) (by decide) (by decide),
    here (one 6 (block 64 [(0, 1, 3)])) (by decide) rfl,
    here { one 6 (block 64 [(0, 1, 3), (1, 1, 3)]) with streams := [stream 0x1000 false [] []] } (by decide) ⟨_, List.mem_cons_self, rfl, rfl⟩⟩

/-- A block in flight: outside the bound with its index poisoned; from this module, with its tags or without, and with its source written since
the stream opened; from the other module, answered, answered ACCESS, or not. -/
theorem meets_Streams_arrival :
    (∃ (s : State) (x : Stream), s.stream? 0 3 = some x ∧
      x.flying.find? (fun f => decide (f.block = 0)) = some ⟨0, none, true⟩) ∧
    (∀ g w : Bool, ∃ (s : State) (x : Stream), s.stream? 0 3 = some x ∧
      x.flying.find? (fun f => decide (f.block = 0)) = some ⟨0, some 0x1000, false⟩ ∧ s.isLocal x.src = true ∧
      s.blockGranted (x.die, x.slot) 0 = g ∧ s.spoiled x = w) ∧
    (∀ st ∈ [stOK, stACCESS], ∃ (s : State) (x : Stream) (l : List RemoteReply), s.stream? 0 3 = some x ∧
      x.flying.find? (fun f => decide (f.block = 0)) = some ⟨0, some (2 ^ 48 + 0x1000), false⟩ ∧ s.isLocal x.src = false ∧
      (remoteAnswer (s.blockReplies x 0 l) (2 ^ 48 + 0x1000) x.blockBytes).map (·.1) = some st) ∧
    ∃ (s : State) (x : Stream), s.stream? 0 3 = some x ∧
      x.flying.find? (fun f => decide (f.block = 0)) = some ⟨0, some (2 ^ 48 + 0x1000), false⟩ ∧ s.isLocal x.src = false ∧
      remoteAnswer (s.blockReplies x 0 []) (2 ^ 48 + 0x1000) x.blockBytes = none :=
  ⟨⟨streaming (stream 0x1000 true [⟨0, none, true⟩] []), _, rfl, rfl⟩,
    fun g w => ⟨{ streaming (stream 0x1000 false [⟨0, some 0x1000, false⟩] []) with
        memQueue := [⟨0, [0], (0, 3), 0, g, false⟩], writes := if w then [(0x1000, 1)] else [] },
      stream 0x1000 false [⟨0, some 0x1000, false⟩] [], rfl, rfl, rfl, by revert g w; decide, by revert g w; decide⟩,
    fun st h => ⟨streaming (stream (2 ^ 48 + 0x1000) false [⟨0, some (2 ^ 48 + 0x1000), false⟩] []),
      stream (2 ^ 48 + 0x1000) false [⟨0, some (2 ^ 48 + 0x1000), false⟩] [],
      [⟨2 ^ 48 + 0x1000, st, 0, List.replicate 64 0⟩], rfl, rfl, rfl, by revert st; decide⟩,
    ⟨streaming (stream (2 ^ 48 + 0x1000) false [⟨0, some (2 ^ 48 + 0x1000), false⟩] []), _, rfl, rfl, rfl, rfl⟩⟩

theorem meets_Streams_consume :
    (∃ (s : State) (x : Stream), s.stream? 0 3 = some x ∧ x.arrivals.any (fun p => decide (p.1 = x.consumed)) = true) ∧
    ∀ a : Bool, ∃ (s : State) (x : Stream), s.stream? 0 3 = some x ∧ x.arrivals.any (fun p => decide (p.1 = x.consumed)) = false ∧
      x.asked = a :=
  ⟨⟨streaming (stream 0x1000 false [] [(0, .arrived)]), _, rfl, rfl⟩,
    fun a => ⟨streaming { stream 0x1000 false [] [] with asked := a }, { stream 0x1000 false [] [] with asked := a }, rfl, rfl, rfl⟩⟩

/-- A cap at its limit and below it, the ninth quiet window and the tenth, with adapt 0 and with one more operation waiting. -/
theorem meets_BankCapAndScrub_caps : ∃ a b c d e : State, a.reg Reg.MEM_BANK_CAP_adapt = 0 ∧
    (b.reg Reg.MEM_BANK_CAP_adapt ≠ 0 ∧ b.reg (Reg.MEM_DIE_cap_exp 7) < b.reg Reg.MEM_BANK_CAP_limit) ∧
    (c.reg Reg.MEM_BANK_CAP_adapt ≠ 0 ∧ c.bankQuiet.getD 7 0 = 9) ∧ (d.reg Reg.MEM_BANK_CAP_adapt ≠ 0 ∧ d.bankQuiet.getD 7 0 = 8) ∧
    (e.reg Reg.MEM_BANK_CAP_adapt ≠ 0 ∧ e.reg Reg.MEM_BANK_CAP_limit = e.reg (Reg.MEM_DIE_cap_exp 7)) :=
  ⟨up [(Reg.MEM_BANK_CAP_adapt, 0)], up [(Reg.MEM_BANK_CAP_adapt, 1), (Reg.MEM_BANK_CAP_limit, 6), (Reg.MEM_DIE_cap_exp 7, 5)],
    { up [(Reg.MEM_BANK_CAP_adapt, 1)] with bankQuiet := List.replicate 8 9 },
    { up [(Reg.MEM_BANK_CAP_adapt, 1)] with bankQuiet := List.replicate 8 8 },
    up [(Reg.MEM_BANK_CAP_adapt, 1), (Reg.MEM_BANK_CAP_limit, 5), (Reg.MEM_DIE_cap_exp 7, 5)],
    by decide, by decide, by decide, by decide, by decide⟩

/-- A stack about to read the codeword at an offset. -/
def scrubbing (offset : Nat) : State := { State.reset with scrubbed := State.reset.scrubbed.set (hbmMap offset).stack (scrubRank offset) }

set_option maxRecDepth 20000 in
/-- Patrol scrub off and in the watch; the first codeword and the last, the next one and another; one that holds poison; as many lanes as the
code corrects with a failed lane in the channel and without; a stack's last codeword but one and the last of all. -/
theorem meets_BankCapAndScrub_scrub :
    (up [(Reg.MEM_SCRUB_CFG_enable, 0)]).reg Reg.MEM_SCRUB_CFG_enable = 0 ∧
    (∃ s : State, s.power.anchor ≠ .awake) ∧
    (∀ o ∈ [0, hbmEnd - 1], (scrubbing o).reg Reg.MEM_SCRUB_CFG_enable ≠ 0 ∧ (scrubbing o).power.anchor = .awake ∧
      (scrubbing o).scrubbed.getD (hbmMap o).stack 0 = scrubRank o ∧ (scrubbing o).mem.poisoned o 1 = false ∧
      ([0, 71, 1, 2].Nodup ∧ ∀ l ∈ [0, 71, 1, 2], ((scrubbing o).lane (hbmMap o).stack (hbmMap o).pseudo l).marked = false) ∧
      (scrubbing o).lanes = []) ∧
    (State.reset.scrubbed.getD (hbmMap (hbmEnd - 1)).stack 0 ≠ scrubRank (hbmEnd - 1)) ∧
    (∃ s : State, s.reg Reg.MEM_SCRUB_CFG_enable ≠ 0 ∧ s.scrubbed.getD (hbmMap 0).stack 0 = scrubRank 0 ∧ s.mem.poisoned 0 1 = true) ∧
    (∃ s : State, s.scrubbed.getD (hbmMap 0).stack 0 = scrubRank 0 ∧
      s.lanes.any (fun x => x.marked && decide (x.stack = (hbmMap 0).stack) && decide (x.pseudo = (hbmMap 0).pseudo)) = true ∧
      ∀ l ∈ [0, 1, 71], (s.lane (hbmMap 0).stack (hbmMap 0).pseudo l).marked = false) ∧
    ∃ l : List Nat, l.length = 16 ∧ (∃ n ∈ l.set 3 (l.getD 3 0 + 1), n < 805306368) ∧ ∀ n ∈ l.set 4 (l.getD 4 0 + 1), 805306368 ≤ n :=
  ⟨by decide, ⟨{ State.reset with power := { Power.reset with anchor := .watching } }, by decide⟩, by decide +kernel, by decide +kernel,
    ⟨{ State.reset with mem := ⟨[], [0]⟩ }, by decide +kernel⟩,
    ⟨{ State.reset with lanes := [⟨(hbmMap 0).stack, (hbmMap 0).pseudo, 5, 1024, true⟩] }, by decide +kernel⟩,
    (List.replicate 16 805306368).set 4 805306367, by decide⟩

/-- One gathered row, in range and out of it; the other operations with and without work. -/
theorem meets_EdgeOps :
    (∃ s t, engineRuns s t engEDGE 1 ∧ (parseGather t.args).streamEn = false ∧ (parseGather t.args).rowBytes ≠ 0 ∧
      (parseGather t.args).count ≠ 0 ∧ (parseGather t.args).srcRows = 1 ∧ s.indexAt (s.key (parseGather t.args).idx) false 0 = 0) ∧
    (∃ s t, engineRuns s t engEDGE 1 ∧ (parseGather t.args).streamEn = false ∧ (parseGather t.args).rowBytes ≠ 0 ∧
      (parseGather t.args).count ≠ 0 ∧ (parseGather t.args).srcRows = 1 ∧ s.indexAt (s.key (parseGather t.args).idx) false 0 = 1) ∧
    (∃ s t, engineRuns s t engEDGE 2 ∧ (parseSeg t.args).streamEn = false ∧ (parseSeg t.args).width ≠ 0 ∧ (parseSeg t.args).count ≠ 0) ∧
    (∃ s t, engineRuns s t engEDGE 3 ∧ (parseScatter t.args).width = 1 ∧ (parseScatter t.args).count = 1) ∧
    (∃ s t, engineRuns s t engEDGE 4 ∧ (parseIntersect t.args).pairs = 1) ∧
    (∃ s t, engineRuns s t engEDGE 1 ∧ (parseGather t.args).rowBytes = 0) ∧ (∃ s t, engineRuns s t engEDGE 2 ∧ (parseSeg t.args).width = 0) ∧
    (∃ s t, engineRuns s t engEDGE 3 ∧ (parseScatter t.args).width = 1 ∧ (parseScatter t.args).count = 0) ∧
    ∃ s t, engineRuns s t engEDGE 4 ∧ (parseIntersect t.args).pairs = 0 :=
  ⟨here (one 4 (block 64 [(0, 1, 1), (4, 4, 4), (8, 4, 1), (0x20, 8, 1)])) (by decide) (by decide),
    here ((one 4 (block 64 [(0, 1, 1), (4, 4, 4), (8, 4, 1), (0x20, 8, 1)])).write 0 [1]) (by decide) (by decide),
    here (one 4 (block 96 [(0, 1, 2), (4, 4, 1), (0x14, 4, 1)])) (by decide) (by decide),
    here (one 4 (block 128 [(0, 1, 3), (4, 4, 1), (8, 4, 1)])) (by decide) (by decide),
    here (one 4 (block 64 [(0, 1, 4), (4, 4, 1)])) (by decide) (by decide),
    here (one 4 (block 64 [(0, 1, 1)])) (by decide) (by decide), here (one 4 (block 96 [(0, 1, 2)])) (by decide) (by decide),
    here (one 4 (block 128 [(0, 1, 3), (4, 4, 1)])) (by decide) (by decide),
    here (one 4 (block 64 [(0, 1, 4)])) (by decide) (by decide)⟩

/-- A GATHER of one row, or a SEG_REDUCE of one edge, under stream supply from slot 3. -/
def supplied (op : Nat) (l : List (Nat × BlockState)) : State :=
  { (one 4 (block 96 [(0, 1, op), (1, 1, 2), (2, 1, if op = 1 then 3 else 0), (3, 1, 0x10), (4, 4, 4), (8, 4, if op = 1 then 1 else 0),
      (0x14, 4, 1), (0x52, 1, 3)])).write 0 (block 128 [(8, 4, 1), (0x10, 4, 1), (0x1C, 4, 1), (0x44, 4, 1)]) with
    streams := [stream 0x1000 false [] l] }

/-- A task that finds its block, and one that waits for it. -/
theorem meets_EdgeOps_streams :
    (∀ l ∈ [[(0, BlockState.arrived)], []], ∃ s t, engineRuns s t engEDGE 1 ∧ (parseGather t.args).streamEn = true ∧
      (parseGather t.args).rowBytes ≠ 0 ∧ (s.takeBlocks (t.runTile / 8) (parseGather t.args).stream [] t.speculative
        ((parseGather t.args).count - t.blocks.length) t.blocks).2.2 = !l.isEmpty) ∧
    ∀ l ∈ [[(0, BlockState.arrived)], []], ∃ s t, engineRuns s t engEDGE 2 ∧ (parseSeg t.args).streamEn = true ∧
      (parseSeg t.args).width ≠ 0 ∧ (s.takeBlocks (t.runTile / 8) (parseSeg t.args).stream [] t.speculative
        (sumNat ((s.segments (parseSeg t.args)).map (fun g => (g.edges.map (·.length)).getD 0)) - t.blocks.length) t.blocks).2.2 = !l.isEmpty :=
  ⟨fun l h => ⟨supplied 1 l, the (supplied 1 l), runs (by revert l; decide), by revert l; decide, by revert l; decide, by revert l; decide⟩,
    fun l h => ⟨supplied 2 l, the (supplied 2 l), runs (by revert l; decide), by revert l; decide, by revert l; decide, by revert l; decide⟩⟩

/-- Table 2 of two rows of 16 bytes: row 0 is this module's, row 1 the other's and hot; graph 0 likewise. -/
def shared : Chart :=
  { chart with shardMaps := [⟨2, 1, 16, 2, [(0, 0), (1, 1)]⟩], partMaps := [⟨0, 0, 0, 2, [(0, 0), (1, 1)]⟩], hotBytes := 64, hotRows := [(2, 1)] }

/-- The open table: live epoch 65535. -/
def table2 : OpenTable :=
  { table := 2, job := 1, edge := false, format := 0, width := 4, region0 := 0x1000, region1 := 0x2000, grad := 0, edgeRows := 0,
    live := 65535, retained := none, replica := none, swapTask := none, refreshes := [] }

/-- A state with that table open in which a task with this block runs. -/
def tabled (x : OpenTable) (b : List Byte) : State := { one 4 b with chart := some shared, tables := [x] }

/-- The statuses of a speculative task's block: an argument outside every window, a range beyond its window, a stale epoch, a reserved op. -/
theorem meets_Dispatch_speculative :
    (∃ (s : State) (t : Task), takes s 6 t ∧ t.speculative = true ∧ s.argsCheck (s.taken t) = stACCESS) ∧
    (∃ (s : State) (t : Task), takes s 4 t ∧ t.speculative = true ∧ s.argsCheck (s.taken t) = stBOUND) ∧
    (∃ (s : State) (t : Task), takes s 4 t ∧ t.speculative = true ∧ s.argsCheck (s.taken t) = stEPOCH_STALE) ∧
    ∃ (s : State) (t : Task), takes s 6 t ∧ t.speculative = true ∧ s.argsCheck (s.taken t) = stFORMAT :=
  ⟨⟨(active [specReady 6 64]).write 0x1000 (block 64 [(8, 8, 2 ^ 45), (0x18, 4, 64)]), _,
      ⟨rfl, rfl, rfl, by decide, by decide, by decide, by decide⟩, rfl, by decide⟩,
    ⟨(active [specReady 4 64]).write 0x1000
        (block 64 [(0, 1, 1), (4, 4, 4), (8, 4, 1), (0xC, 4, 64), (0x20, 8, 1), (0x28, 8, 0x8000), (0x30, 4, 64)]), _,
      ⟨rfl, rfl, rfl, by decide, by decide, by decide, by decide⟩, rfl, by decide⟩,
    ⟨({ tabled table2 [] with tasks := [specReady 4 64] } : State).write 0x1000
        (block 64 [(0, 1, 0x20), (2, 2, 2), (4, 2, 1), (8, 4, 1), (0x28, 8, 0x8000), (0x30, 4, 0x40)]), _,
      ⟨rfl, rfl, rfl, by decide, by decide, by decide, by decide⟩, rfl, by decide⟩,
    ⟨(active [specReady 6 64]).write 0x1000 [5], _, ⟨rfl, rfl, rfl, by decide, by decide, by decide, by decide⟩, rfl, by decide⟩⟩

theorem meets_Tables_swap :
    (∃ s t, engineRuns s t engEDGE 0x22 ∧ s.tableOpenCheck t = stOK ∧ (parseTable (s.readAddr (fieldLe t.args 8 8) 64)).width ≠ 0) ∧
    (∃ s t, engineRuns s t engEDGE 0x23 ∧ ∃ x : OpenTable, s.openTable? (bits (fieldLe t.args 2 2) 11 0) = some x ∧ x.swapTask ≠ some t.id ∧
      x.job = t.job ∧ fieldLe t.args 4 2 = (x.live + 1) % 65536 ∧ x.retained = none) ∧
    (∃ s t, engineRuns s t engEDGE 0x23 ∧ ∃ x : OpenTable, s.openTable? (bits (fieldLe t.args 2 2) 11 0) = some x ∧ x.swapTask ≠ some t.id ∧
      x.job = t.job ∧ fieldLe t.args 4 2 = (x.live + 1) % 65536 ∧ x.retained ≠ none) ∧
    (∃ s t, engineRuns s t engEDGE 0x23 ∧ ∃ x : OpenTable, s.openTable? (bits (fieldLe t.args 2 2) 11 0) = some x ∧ x.swapTask ≠ some t.id ∧
      x.job = t.job ∧ fieldLe t.args 4 2 ≠ (x.live + 1) % 65536) ∧
    (∃ (s : State) (t : Task) (x : OpenTable), s.openTable? 2 = some x ∧ x.retained = some 65534 ∧
      (∀ u ∈ s.tasks, u.readsEpoch 2 65534 = false) ∧ x.swapTask = some t.id ∧ s.task? t.id = some t ∧ t.phase = .running) ∧
    ∃ (s : State) (x : OpenTable), s.openTable? 2 = some x ∧ x.retained = some 65534 ∧ ∃ u ∈ s.tasks, u.readsEpoch 2 65534 = true :=
  ⟨here (({ one 4 (block 64 [(0, 1, 0x22), (8, 8, 0x4000)]) with chart := some shared } : State).write 0x4000
      (block 64 [(0, 2, 2), (4, 4, 4), (8, 8, 0x1000), (0x10, 8, 0x2000)])) (by decide) (by decide),
    here (tabled table2 (block 64 [(0, 1, 0x23), (2, 2, 2)])) (by decide) ⟨table2, rfl, by decide, rfl, by decide, rfl⟩,
    here (tabled { table2 with retained := some 65534 } (block 64 [(0, 1, 0x23), (2, 2, 2)])) (by decide)
      ⟨{ table2 with retained := some 65534 }, rfl, by decide, rfl, by decide, by decide⟩,
    here (tabled table2 (block 64 [(0, 1, 0x23), (2, 2, 2), (4, 2, 1)])) (by decide) ⟨table2, rfl, by decide, rfl, by decide⟩,
    ⟨tabled { table2 with retained := some 65534, swapTask := some ⟨0, 0⟩ } (block 64 [(0, 1, 0x23), (2, 2, 2), (4, 2, 0xFFFF)]),
      task 4 (block 64 [(0, 1, 0x23), (2, 2, 2), (4, 2, 0xFFFF)]),
      { table2 with retained := some 65534, swapTask := some ⟨0, 0⟩ }, rfl, rfl, by decide, rfl, rfl, rfl⟩,
    ⟨tabled { table2 with retained := some 65534 } (block 64 [(0, 1, 0x20), (2, 2, 2), (4, 2, 65534)]), { table2 with retained := some 65534 },
      rfl, rfl, by decide⟩⟩

/-- A speculative task. -/
def specTask (b : List Byte) : Task := { task 4 b with desc := { desc 4 with spec := true } }

/-- A lookup or refresh of an own row has no reply due, one of a row of the other module has; an epoch below the live one is stale. -/
theorem meets_Tables_rows :
    (∃ s t, engineRuns s t engEDGE 0x20 ∧ (s.lookupRun [] (s.repliesFor t.id) t).missing = []) ∧
    (∃ s t, engineRuns s t engEDGE 0x20 ∧ (s.lookupRun [] (s.repliesFor t.id) t).missing ≠ []) ∧
    (∃ s t, engineRuns s t engEDGE 0x24 ∧ s.refreshWaits t = false ∧ (s.refreshRun [] (s.repliesFor t.id) t).missing = []) ∧
    (∃ s t, engineRuns s t engEDGE 0x24 ∧ s.refreshWaits t = false ∧ (s.refreshRun [] (s.repliesFor t.id) t).missing ≠ []) ∧
    (∃ s t, engineRuns s t engEDGE 0x21 ∧ s.requestsOf t.id = [] ∧ s.fabric.waiting.all (fun w => !decide (w.1 = t.id)) = true ∧
      (parsePush t.args).count = 0) ∧
    (∃ s t, engineRuns s t engEDGE 0x21 ∧ s.requestsOf t.id = [] ∧ s.fabric.waiting.all (fun w => !decide (w.1 = t.id)) = true ∧
      (parsePush t.args).count ≠ 0) ∧
    (∃ s t, engineRuns s t engEDGE 0x20 ∧ ∃ x : OpenTable, (parseLookup t.args).empty = false ∧ s.openTable? (parseLookup t.args).table = some x ∧
      (parseLookup t.args).epoch ≠ x.live ∧ x.retained ≠ some (parseLookup t.args).epoch ∧ t.speculative = false) ∧
    ∃ s t, engineRuns s t engEDGE 0x20 ∧ ∃ x : OpenTable, (parseLookup t.args).empty = false ∧ s.openTable? (parseLookup t.args).table = some x ∧
      (parseLookup t.args).epoch ≠ x.live ∧ x.retained ≠ some (parseLookup t.args).epoch ∧ t.speculative = true ∧ (parseLookup t.args).stats = 0 :=
  ⟨here (tabled table2 (block 64 [(0, 1, 0x20), (2, 2, 2), (4, 2, 65535), (8, 4, 1)])) (by decide) (by decide),
    here ((tabled table2 (block 64 [(0, 1, 0x20), (2, 2, 2), (4, 2, 65535), (8, 4, 1)])).write 0 [1]) (by decide) (by decide),
    here (tabled table2 (block 64 [(0, 1, 0x24), (2, 2, 2), (4, 2, 65535), (8, 4, 1)])) (by decide) (by decide),
    here ((tabled table2 (block 64 [(0, 1, 0x24), (2, 2, 2), (4, 2, 65535), (8, 4, 1)])).write 0 [1]) (by decide) (by decide),
    here (tabled table2 (block 64 [(0, 1, 0x21), (2, 2, 2)])) (by decide) (by decide),
    here (tabled table2 (block 64 [(0, 1, 0x21), (2, 2, 2), (8, 4, 1)])) (by decide) (by decide),
    here (tabled table2 (block 64 [(0, 1, 0x20), (2, 2, 2), (4, 2, 1), (8, 4, 1)])) (by decide)
      ⟨table2, by decide, rfl, by decide, by decide, rfl⟩,
    here { tabled table2 [] with tasks := [specTask (block 64 [(0, 1, 0x20), (2, 2, 2), (4, 2, 1), (8, 4, 1)])] } (by decide)
      ⟨table2, by decide, rfl, by decide, by decide, rfl, by decide⟩⟩

/-- A TABLE_SWAP to epoch 1 of table 2, and two TABLE_REFRESH tasks of it, the second of which waits for the first. -/
def swap : List Byte := block 64 [(0, 1, 0x23), (2, 2, 2), (4, 2, 1)]

def refreshing : State :=
  { tabled { table2 with refreshes := [⟨0, 1⟩, ⟨0, 0⟩] } (block 64 [(0, 1, 0x24), (2, 2, 2), (4, 2, 65535), (8, 4, 1)]) with
    tasks := [task 4 (block 64 [(0, 1, 0x24), (2, 2, 2), (4, 2, 65535), (8, 4, 1)]),
      { task 4 (block 64 [(0, 1, 0x24), (2, 2, 2), (4, 2, 65535), (8, 4, 1)]) with id := ⟨0, 1⟩ }] }

/-- The other ends: TABLE_OPEN that fails or opens nothing; TABLE_SWAP of no table, its own that waits, and another job's; a swap whose task
has gone; a refresh that waits; a PUSH that has sent; a lookup that runs on stale. -/
theorem meets_Tables_ends :
    (∃ s t, engineRuns s t engEDGE 0x22 ∧ s.tableOpenCheck t ≠ stOK) ∧
    (∃ s t, engineRuns s t engEDGE 0x22 ∧ s.tableOpenCheck t = stOK ∧ (parseTable (s.readAddr (fieldLe t.args 8 8) 64)).width = 0) ∧
    (∃ s t, engineRuns s t engEDGE 0x23 ∧ s.openTable? (bits (fieldLe t.args 2 2) 11 0) = none) ∧
    (∃ s t, engineRuns s t engEDGE 0x23 ∧ ∃ x : OpenTable, s.openTable? (bits (fieldLe t.args 2 2) 11 0) = some x ∧ x.swapTask = some t.id) ∧
    (∃ s t, engineRuns s t engEDGE 0x23 ∧ ∃ x : OpenTable, s.openTable? (bits (fieldLe t.args 2 2) 11 0) = some x ∧ x.swapTask ≠ some t.id ∧
      x.job ≠ t.job) ∧
    (∃ (s : State) (x : OpenTable), s.openTable? 2 = some x ∧ x.retained = some 65534 ∧ (∀ u ∈ s.tasks, u.readsEpoch 2 65534 = false) ∧
      x.swapTask = none) ∧
    (∃ s t, engineRuns s t engEDGE 0x24 ∧ s.refreshWaits t = true) ∧
    (∃ s t, engineRuns s t engEDGE 0x21 ∧ s.requestsOf t.id ≠ []) ∧
    ∃ (s : State) (t : Task), s.task? t.id = some t ∧ t.stage = 1 :=
  ⟨here (one 4 (block 64 [(0, 1, 0x22), (8, 8, 0x4001)])) (by decide) (by decide),
    here (({ one 4 (block 64 [(0, 1, 0x22), (8, 8, 0x4000)]) with chart := some shared } : State).write 0x4000
      (block 64 [(0, 2, 2), (8, 8, 0x1000), (0x10, 8, 0x2000)])) (by decide) (by decide),
    here (one 4 swap) (by decide) (by decide),
    here (tabled { table2 with swapTask := some ⟨0, 0⟩ } swap) (by decide) ⟨_, rfl, rfl⟩,
    here (tabled { table2 with job := 2 } swap) (by decide) ⟨{ table2 with job := 2 }, rfl, by decide, by decide⟩,
    ⟨tabled { table2 with retained := some 65534 } swap, { table2 with retained := some 65534 }, rfl, rfl, by decide, rfl⟩,
    here refreshing (by decide) (by decide),
    here { tabled table2 (block 64 [(0, 1, 0x21), (2, 2, 2), (8, 4, 1)]) with
      fabric := { Fabric.reset with requests := [⟨0, ⟨0, 0⟩, 5, 0, 0, 0, none, [], 0, none⟩] } } (by decide) (by decide),
    ⟨active [{ task 4 [0x20] with stage := 1 }], { task 4 [0x20] with stage := 1 }, rfl, rfl⟩⟩

/-- A product of one row of 64 by 32, and its two scale blocks of X: with the second one's byte out of place, the pre-scan fails. -/
def product : List Byte :=
  block 128 [(0, 1, 1), (1, 1, 0x33), (4, 4, 1), (8, 4, 64), (0xC, 4, 32), (0x18, 4, 0x1000), (0x1C, 4, 0x2000), (0x20, 4, 0x2100), (0x24, 4, 0x3000),
    (0x28, 4, 0x5000), (0x2C, 4, 0x6000), (0x30, 4, 0x7000)]

/-- A gradient of one tile. -/
def grad : List Byte := block 128 [(0, 1, 1), (1, 1, 3), (3, 1, 0x40), (8, 4, 32), (0xC, 4, 64), (0x10, 4, 32), (0x18, 4, 32)]

/-- A chain of one row of 64 elements of a scaled operand. -/
def chain : List Byte := block 352 [(0, 1, 1), (1, 1, 1), (4, 4, 1), (8, 4, 64), (0x4C, 1, 0x13)]

/-- The task has started a pass already. -/
def passing (n : Nat) (b : List Byte) : Task := { task 1 b with passes := n }

/-- Another running task of the tile's slot B that holds drain rows. -/
def holding (n : Nat) : Task := { task 2 [] with id := ⟨0, 1⟩, drainB := n, drainA := n }

set_option maxRecDepth 20000 in
theorem meets_ArraysAndVector :
    (∃ s t, engineRuns s t engARRAY_A 1 ∧ (parseProduct t.args).empty = false ∧ s.productScan t ≠ stOK) ∧
    (∃ s t, engineRuns s t engARRAY_B 1 ∧ True) ∧ (∃ s t, engineRuns s t engARRAY_A 2 ∧ True) ∧ (∃ s t, engineRuns s t engARRAY_B 2 ∧ True) ∧
    (∃ s t, engineRuns s t engARRAY_AB 1 ∧ (parseGrad t.args).empty = false ∧ s.gradScan t ≠ stOK) ∧
    (∃ s t, engineRuns s t engVECTOR 1 ∧ (parseChain t.args).rows ≠ 0 ∧ (parseChain t.args).width ≠ 0 ∧
      s.chainScan (parseChain t.args) ≠ stOK) ∧
    (∃ s t, engineRuns s t engARRAY_A 1 ∧ s.arrayScan t = stOK ∧ (s.arrayPasses t)[t.passes]?.isSome = true ∧ t.passes = 0 ∧
      (s.drainHeld t).1 + t.drainRows.1 = 1024 ∧ (s.drainHeld t).2 + t.drainRows.2 ≤ 1024) ∧
    ∃ s t, engineRuns s t engARRAY_A 1 ∧ s.arrayScan t = stOK ∧ t.passes = 0 ∧ (s.drainHeld t).1 + t.drainRows.1 = 1025 :=
  ⟨here (one 1 product) (by decide) (by decide), here (one 2 (block 128 [(0, 1, 1)])) (by decide) trivial,
    here (one 1 (block 128 [(0, 1, 2)])) (by decide) trivial, here (one 2 (block 128 [(0, 1, 2)])) (by decide) trivial,
    here (one 3 grad) (by decide) (by decide), here (one 5 chain) (by decide) (by decide),
    here (active [task 1 (block 128 [(0, 1, 1), (4, 4, 1), (8, 4, 32), (0xC, 4, 32)]), holding 1023]) (by decide) (by decide),
    here (active [task 1 (block 128 [(0, 1, 1), (4, 4, 1), (8, 4, 32), (0xC, 4, 32)]), holding 1024]) (by decide) (by decide)⟩

/-- Operations of no rows, an array task whose passes have all started, and one that has started a pass and its drain rows are reserved. -/
theorem meets_ArraysAndVector_ends :
    (parseProduct []).empty = true ∧ (parseGrad []).empty = true ∧ (parseChain []).rows = 0 ∧
    (∃ s t, engineRuns s t engARRAY_A 1 ∧ 0 < t.passes ∧ (s.arrayPasses t)[t.passes]? = none) ∧
    ∃ s t, engineRuns s t engARRAY_A 1 ∧ s.arrayScan t = stOK ∧ (s.arrayPasses t)[t.passes]?.isSome = true ∧
      (t.drainA, t.drainB) = t.drainRows :=
  ⟨by decide, by decide, by decide, here (active [passing 999 (block 128 [(0, 1, 1), (4, 4, 1), (8, 4, 32), (0xC, 4, 32)])]) (by decide) (by decide),
    here (active [{ task 1 (block 128 [(0, 1, 1), (4, 4, 1), (8, 4, 32), (0xC, 4, 32)]) with drainA := 1 }]) (by decide) (by decide)⟩

/-- A sampling task without hops, one whose seed is this module's, and one whose seed is the other's: its row offsets are asked for. -/
def sampling (seed : Byte) (b : List Byte) : State := ({ one 7 b with chart := some shared } : State).write 0x1000 [seed]

theorem meets_Sampling :
    (∃ s t, engineRuns s t engSAMPLE 0 ∧ (parseSample t.args).hopCount = 0) ∧
    (∃ s t, engineRuns s t engSAMPLE 1 ∧ (s.sampleRun [] (s.repliesFor t.id) t).missing = []) ∧
    ∃ s t, engineRuns s t engSAMPLE 1 ∧ (s.sampleRun [] (s.repliesFor t.id) t).missing ≠ [] :=
  ⟨here (one 7 (block 64 [])) (by decide) (by decide),
    here (sampling 0 (block 128 [(0, 1, 1), (4, 4, 1), (8, 8, 0x1000), (0x10, 8, 0x1100), (64, 2, 1)])) (by decide) (by decide),
    here (sampling 1 (block 128 [(0, 1, 1), (4, 4, 1), (8, 8, 0x1000), (0x10, 8, 0x1100), (64, 2, 1)])) (by decide) (by decide)⟩

/-- One get that has not been asked for, with the limit on gets one above what is outstanding, and at it. -/
theorem meets_Sampling_gets :
    (∃ s t, engineRuns s t engSAMPLE 1 ∧ s.unasked t.id ([(2 ^ 48, 16)] : List (Nat × Nat)).eraseDups = [(2 ^ 48, 16)] ∧
      s.outstanding (ioOfDie t.desc.place) < 16384 ∧
      ((s.requestsOf t.id).filter (·.ended.isNone)).length + 1 = s.reg Reg.SND_CFG_remote_limit) ∧
    ∃ s t, engineRuns s t engSAMPLE 1 ∧ s.reg Reg.SND_CFG_remote_limit = ((s.requestsOf t.id).filter (·.ended.isNone)).length :=
  ⟨here ((one 7 [1]).setReg Reg.SND_CFG_remote_limit 1) (by decide) (by decide),
    here ({ (one 7 [1]).setReg Reg.SND_CFG_remote_limit 1 with
      fabric := { Fabric.reset with requests := [⟨0, ⟨0, 0⟩, 2, 0, 64, 0, none, [], 0, none⟩] } }) (by decide) (by decide)⟩

/-! ### The torus -/

theorem meets_RemoteTasks : (∀ op ∈ [pktPUT, pktGET, pktEXACT_ACC, pktNM_ACC, pktCAS, pktPUT_SIGNAL], ∃ s t, engineRuns s t engREMOTE op ∧
    t.stage = 0 ∧ s.requestsOf t.id = []) ∧ ∃ a : RemoteArgs, a.op ≠ pktNM_ACC ∧ 0 < a.length :=
  ⟨by
    simp only [List.mem_cons, List.not_mem_nil, or_false, forall_eq_or_imp, forall_eq]
    exact ⟨here (one 9 [1]) (by decide) (by decide), here (one 9 [2]) (by decide) (by decide), here (one 9 [4]) (by decide) (by decide),
      here (one 9 [5]) (by decide) (by decide), here (one 9 [6]) (by decide) (by decide), here (one 9 [7]) (by decide) (by decide)⟩,
    parseRemote (block 64 [(0, 1, 1), (4, 4, 5000), (0x10, 8, 100)]), by decide, by decide⟩

/-- A REMOTE task that has started, and one of no bytes that has started. -/
theorem meets_RemoteTasks_started : (∀ op ∈ [pktPUT, pktGET, pktEXACT_ACC, pktNM_ACC, pktCAS, pktPUT_SIGNAL], ∃ s t, engineRuns s t engREMOTE op ∧
    t.stage ≠ 0) ∧ ∃ (s : State) (t : Task), s.task? t.id = some t ∧ t.stage = 1 ∧ (parseRemote t.args).pieces = [] :=
  ⟨fun op h => ⟨active [{ task 9 [BitVec.ofNat 8 op] with stage := 1 }], { task 9 [BitVec.ofNat 8 op] with stage := 1 },
      runs (by revert op; decide), by show (1 : Nat) ≠ 0; decide⟩,
    ⟨active [{ task 9 [1] with stage := 1 }], { task 9 [1] with stage := 1 }, by decide⟩⟩

/-- Module 0 with its pending-signal table full of another job's tags. -/
def crowded : State := { active [] with signals := List.replicate 65536 ⟨2, 9, 1⟩ }

theorem full (s : State) (job tag : Nat) (c : Bool) (h0 : tag ≠ 0) (hn : s.tagged? job tag = none)
    (hf : (∀ p ∈ s.signals, ¬ (p.job = job ∧ p.tag = tag)) ∧ 65536 ≤ s.signals.length) : s.signal? job tag 1 c = none := by
  have ha : s.signals.any (fun p => decide (p.job = job) && decide (p.tag = tag)) = false := by
    simpa [List.any_eq_false] using hf.1
  simp [State.signal?, State.pendSignal, hn, h0, ha, pendingSize, hf.2]

/-- A SIGNAL entry for which the full table has no place (of RingEntries). -/
theorem meets_RingEntries_full : ∃ s e, ringOpen s 0 1 ∧ headEntry s 0 e ∧ e.kind = 2 ∧ e.count = 1 ∧
    s.signal? 1 e.tag 1 (e.target == 1) = none :=
  ⟨{ ringAt (entry 2 0 1 9) with signals := List.replicate 65536 ⟨2, 9, 1⟩ }, _,
    ⟨by decide, rfl, rfl, rfl, rfl, show (0 : Nat) ≠ 1 by decide, rfl, rfl, rfl, rfl⟩, ⟨rfl, rfl⟩, by decide, by decide,
    full _ _ _ _ (by decide) rfl ⟨fun p h => by rw [List.eq_of_mem_replicate (h : p ∈ List.replicate 65536 ⟨2, 9, 1⟩)]; decide,
      Nat.le_of_eq List.length_replicate.symm⟩⟩

/-- In the active module every kind of request is served; its windows end with HBM; CAS finds its word or not. -/
theorem meets_OwnerServes :
    (∀ op ∈ [pktLIST_GET, pktEXACT_ACC, pktNM_ACC], (packet op 0 64).wf = true ∧ (active []).node? = some (packet op 0 64).dst ∧
      (active []).jobState (packet op 0 64).jobId < 2 ∧ ((active []).chartJob? (packet op 0 64).jobId).isSome = true) ∧
    (∃ k, requestServed (active []) k ∧ k.op = pktPUT ∧ (active []).ownerStatus k.jobId k.addr k.length false true = stOK) ∧
    (∃ k, requestServed (active []) k ∧ k.op = pktGET ∧ (active []).ownerStatus k.jobId k.addr k.length true false = stOK) ∧
    (∃ k, requestServed (active []) k ∧ k.op = pktCAS ∧ k.addr % 8 = 0 ∧ (active []).ownerStatus k.jobId k.addr 8 true true = stOK ∧
      (active []).poisonedAt k.addr 8 = false ∧ (active []).readLe k.addr 8 = k.arg0) ∧
    (∃ k, requestServed (active []) k ∧ k.op = pktCAS ∧ k.addr % 8 = 0 ∧ (active []).ownerStatus k.jobId k.addr 8 true true = stOK ∧
      (active []).poisonedAt k.addr 8 = false ∧ (active []).readLe k.addr 8 ≠ k.arg0) ∧
    (∃ s k v, requestServed s k ∧ k.op = pktPUT_SIGNAL ∧ s.fabric.heldSignals = [] ∧ s.ownerStatus k.jobId k.addr k.length false true = stOK ∧
      ((s.unlist (s.arrivalOf k)).storePayload k.addr (sliceBytes k.payload 0 k.length) k.poisonMap).signal? k.jobId (bits k.arg0 31 0) 1 false =
        some v) ∧
    (∃ k, requestServed crowded k ∧ k.op = pktPUT_SIGNAL ∧ crowded.fabric.heldSignals = [] ∧
      crowded.ownerStatus k.jobId k.addr k.length false true = stOK ∧
      ((crowded.unlist (crowded.arrivalOf k)).storePayload k.addr (sliceBytes k.payload 0 k.length) k.poisonMap).signal? k.jobId
        (bits k.arg0 31 0) 1 false = none) ∧
    (∃ (s : State) (k : Packet), k.wf = true ∧ s.node? = some k.dst ∧ k.op = pktPUT ∧ s.power.anchor = .awake ∧ 2 ≤ s.jobState k.jobId) ∧
    (∃ (s : State) (k : Packet), k.wf = true ∧ s.node? = some k.dst ∧ k.op = pktPUT ∧ s.power.anchor = .awake ∧ s.jobState k.jobId < 2 ∧
      s.chartJob? k.jobId = none) ∧
    (∃ (s : State) (k : Packet), requestServed s k ∧ k.op = pktPUT ∧ s.ownerStatus k.jobId k.addr k.length false true ≠ stOK) ∧
    ∃ (s : State) (k : Packet), k.wf = true ∧ s.node? = some k.dst ∧ k.op = pktPUT ∧ s.power.anchor = .watching ∧ k.tc = 1 :=
  ⟨by decide,
    ⟨packet 1 (0xC000000000 - 1) 1, ⟨by decide, rfl, rfl, by decide, rfl⟩, rfl, by decide⟩,
    ⟨{ packet 2 0 0 with length := 64 }, ⟨by decide, rfl, rfl, by decide, rfl⟩, rfl, by decide⟩,
    ⟨packet 6 8 0, ⟨by decide, rfl, rfl, by decide, rfl⟩, rfl, by decide, by decide, by decide, by decide⟩,
    ⟨{ packet 6 8 0 with arg0 := 1 }, ⟨by decide, rfl, rfl, by decide, rfl⟩, rfl, by decide, by decide, by decide, by decide⟩,
    ⟨active [], { packet 7 0 4 with arg0 := 7 }, _, ⟨by decide, rfl, rfl, by decide, rfl⟩, rfl, rfl, by decide, rfl⟩,
    ⟨{ packet 7 0 4 with arg0 := 7 }, ⟨by decide, rfl, rfl, by decide, rfl⟩, rfl, rfl, by decide,
      full _ _ _ _ (by decide) rfl ⟨fun p h => by rw [List.eq_of_mem_replicate (h : p ∈ List.replicate 65536 ⟨2, 9, 1⟩)]; decide,
        Nat.le_of_eq List.length_replicate.symm⟩⟩,
    ⟨{ active [] with jobs := [⟨1, 2, 0, 0⟩] }, packet 1 0 4, by decide, rfl, rfl, rfl, by decide⟩,
    ⟨active [], { packet 1 0 4 with jobId := 2 }, by decide, rfl, rfl, rfl, by decide, rfl⟩,
    ⟨active [], packet 1 (0xC000000000 - 1) 2, ⟨by decide, rfl, rfl, by decide, rfl⟩, rfl, by decide⟩,
    ⟨{ active [] with power := { Power.reset with anchor := .watching } }, { packet 1 0 4 with tc := 1 }, by decide, rfl, rfl, rfl, rfl⟩⟩

/-- The module in the anchor watch. -/
def asleep (a : AnchorStage) : State := { active [] with power := { Power.reset with anchor := a } }

/-- CAS on a poisoned word, off its alignment and outside the window; GET outside it; a request at each of the classes that the watch answers; a
PUT_SIGNAL that waits for an entry, which there is, or is not. -/
theorem meets_OwnerServes_refused :
    (∃ (s : State) (k : Packet), requestServed s k ∧ k.op = pktCAS ∧ k.addr % 8 = 0 ∧ s.ownerStatus k.jobId k.addr 8 true true = stOK ∧
      s.poisonedAt k.addr 8 = true) ∧
    (∃ (s : State) (k : Packet), requestServed s k ∧ k.op = pktCAS ∧ k.addr % 8 ≠ 0) ∧
    (∃ (s : State) (k : Packet), requestServed s k ∧ k.op = pktCAS ∧ k.addr % 8 = 0 ∧ s.ownerStatus k.jobId k.addr 8 true true ≠ stOK) ∧
    (∃ (s : State) (k : Packet), requestServed s k ∧ k.op = pktGET ∧ s.ownerStatus k.jobId k.addr k.length true false ≠ stOK) ∧
    (∀ tc ∈ [1, 3, 7], ∀ a ∈ [AnchorStage.watching, .waking], ({ packet 1 0 4 with tc := tc } : Packet).wf = true ∧
      (asleep a).node? = some (packet 1 0 4).dst ∧ (asleep a).power.anchor = a) ∧
    (∃ (s : State) (k : Packet) (a : Arrival) (v : State), k.wf = true ∧ s.fabric.heldSignals.find? (fun x => decide (x.packet = k)) = some a ∧
      ({ s with fabric := { s.fabric with heldSignals := s.fabric.heldSignals.erase a } } : State).signal? k.jobId (bits k.arg0 31 0) 1 false =
        some v) ∧
    ∃ (s : State) (k : Packet) (a : Arrival), k.wf = true ∧ s.fabric.heldSignals.find? (fun x => decide (x.packet = k)) = some a ∧
      ({ s with fabric := { s.fabric with heldSignals := s.fabric.heldSignals.erase a } } : State).signal? k.jobId (bits k.arg0 31 0) 1 false =
        none :=
  ⟨⟨{ active [] with mem := ⟨[], [0]⟩ }, packet 6 8 0, ⟨by decide, rfl, rfl, by decide, rfl⟩, rfl, by decide, by decide, by decide⟩,
    ⟨active [], packet 6 1 0, ⟨by decide, rfl, rfl, by decide, rfl⟩, rfl, by decide⟩,
    ⟨active [], packet 6 0xC000000000 0, ⟨by decide, rfl, rfl, by decide, rfl⟩, rfl, by decide, by decide⟩,
    ⟨active [], { packet 2 0xC000000000 0 with length := 64 }, ⟨by decide, rfl, rfl, by decide, rfl⟩, rfl, by decide⟩, by decide,
    ⟨{ active [] with fabric := { Fabric.reset with heldSignals := [⟨{ packet 7 0 4 with arg0 := 7 }, 0, 2, 2⟩] } },
      { packet 7 0 4 with arg0 := 7 }, ⟨{ packet 7 0 4 with arg0 := 7 }, 0, 2, 2⟩, _, by decide, rfl, rfl⟩,
    ⟨{ crowded with fabric := { Fabric.reset with heldSignals := [⟨{ packet 7 0 4 with arg0 := 7 }, 0, 2, 2⟩] } },
      { packet 7 0 4 with arg0 := 7 }, ⟨{ packet 7 0 4 with arg0 := 7 }, 0, 2, 2⟩, by decide, rfl,
      full _ _ _ _ (by decide) rfl ⟨fun p h => by rw [List.eq_of_mem_replicate (h : p ∈ List.replicate 65536 ⟨2, 9, 1⟩)]; decide,
        Nat.le_of_eq List.length_replicate.symm⟩⟩⟩

/-- A GET of the task's, sent at 0; its timer of 100 µs, 10,000 cycles, ends at 10,000. -/
def asked (op : Nat) (sent : Option Nat) : Request :=
  { seq := 5, task := ⟨0, 0⟩, op := op, remote := 0, length := 64, localAddr := 0, sentAt := sent, rows := [], left := 0, ended := none }

/-- A state that waits for that response at a time. -/
def awaiting (now op : Nat) (sent : Option Nat) : State :=
  { active [task 9 [2]] with now := now, fabric := { Fabric.reset with requests := [asked op sent] },
                             regs := (State.reset.setRegs [(Reg.FAB_CFG_resp_us, 100)]).regs ++ (active []).regs }

/-- No request outstanding, with a Chart and without; each kind of request that a task awaits; a timer at its end, a cycle before and not started. -/
theorem meets_Responses :
    (∀ op ∈ [pktACK, pktGET_RESP, pktLIST_RESP, pktCAS_RESP], (packet op 0 0).wf = true ∧ (active []).node? = some (packet op 0 0).dst ∧
      State.reset.node? = none ∧ ∀ r ∈ (active []).fabric.requests, r.seq = (packet op 0 0).seq → r.ended ≠ none) ∧
    (active []).fabric.requests.find? (fun r => decide (r.seq = 5) && r.ended.isNone) = none ∧
    (∀ op ∈ [pktPUT, pktGET, pktEXACT_ACC, pktNM_ACC, pktCAS, pktPUT_SIGNAL, pktLIST_GET],
      (awaiting 0 op (some 0)).fabric.requests.find? (fun r => decide (r.seq = 5) && r.ended.isNone) = some (asked op (some 0)) ∧
      (awaiting 0 op (some 0)).task? (asked op (some 0)).task = some (task 9 [2]) ∧ (task 9 [2]).awaitsResponses = true ∧
      (asked op (some 0)).op = op) ∧
    (∀ op ∈ [pktGET, pktLIST_GET], roundUp (0 + (awaiting 10000 op (some 0)).reg Reg.FAB_CFG_resp_us * 100) 100 = (awaiting 10000 op (some 0)).now ∧
      (awaiting 9999 op (some 0)).now + 1 = roundUp (0 + (awaiting 9999 op (some 0)).reg Reg.FAB_CFG_resp_us * 100) 100) ∧
    (awaiting 0 2 none).fabric.requests.find? (fun r => decide (r.seq = 5) && r.ended.isNone) = some (asked 2 none) ∧ (asked 2 none).sentAt = none := by
  decide

/-- Port 3 in a state, and with its flit machinery at given values. -/
def linked (st : Nat) (x : Port) : State :=
  { up [(Reg.FAB_P_STATE_state 3, st), (Reg.FAB_P_CTRL_enable 3, 1), (Reg.SEC_STATUS_state, secRunning), (Reg.SEC_STATUS_identity_valid, 1)] with
    fabric := { Fabric.reset with ports := List.replicate 8 x } }

/-- A flit of a unit type with its CRC. -/
def sealed (unitType : Nat) : List Byte :=
  List.replicate 61 0 ++ leBytes 3 (crc24 (leBytes 1 unitType ++ List.replicate 61 0))

/-- A replay buffer of two flits from number 65535 on. -/
def sending (run : Nat) : Port := { Port.reset with replay := List.replicate 2 ⟨0, 2, sealed 2⟩, replayFirst := 65535, nakRun := run, nakSeq := 65535 }

/-- A unit of each type, well formed and, from 1 on, with a wrong CRC; the codeword of unit 159 counted already, and that of unit 160 not. -/
theorem meets_Flits_units :
    (linked psUP Port.reset).linkRuns 3 = true ∧ (linked psDOWN Port.reset).linkRuns 3 = false ∧
    (∀ t ∈ [0, 1, 2, 3], unitValue t (sealed t) < 2 ^ 514 ∧ unitTypeOf (unitValue t (sealed t)) = t ∧
      flitIntact t (unitFlit (unitValue t (sealed t))) = true) ∧
    (∀ t ∈ [1, 2, 3], unitTypeOf (unitValue t (List.replicate 64 1)) = t ∧ flitIntact t (unitFlit (unitValue t (List.replicate 64 1))) = false) ∧
    65536 % 65536 = ((linked psUP Port.reset).port 3).rxExpected ∧ 1 % 65536 ≠ ((linked psUP Port.reset).port 3).rxExpected ∧
    ((linked psUP { Port.reset with fecCounted := List.replicate 16 1 }).port 3).fecCounted.getD (unitLane false 159) 0 = unitCodeword false 159 + 1 ∧
    ((linked psUP { Port.reset with fecCounted := List.replicate 16 1 }).port 3).fecCounted.getD (unitLane false 160) 0 ≠ unitCodeword false 160 + 1 ∧
    ((linked psUP Port.reset).port 3).nakAt = none ∧ ((linked psUP { Port.reset with nakAt := some 0 }).port 3).nakAt ≠ none := by
  refine ⟨by decide, by decide, by decide +kernel, by decide +kernel, by decide, by decide, by decide, by decide, by decide, by decide⟩

theorem meets_Flits :
    (∀ ack ∈ [65535, 0], 0 < (ack + 1 + 65536 - ((linked psUP (sending 0)).port 3).replayFirst % 65536) % 65536 ∧
      (ack + 1 + 65536 - ((linked psUP (sending 0)).port 3).replayFirst % 65536) % 65536 ≤ ((linked psUP (sending 0)).port 3).replay.length) ∧
    (65534 + 1 + 65536 - ((linked psUP (sending 0)).port 3).replayFirst % 65536) % 65536 = 0 ∧
    ((linked psUP (sending 0)).port 3).replay.length < (1 + 1 + 65536 - ((linked psUP (sending 0)).port 3).replayFirst % 65536) % 65536 ∧
    (((linked psUP (sending 7)).port 3).nakRun = 7 ∧ ((linked psUP (sending 7)).port 3).nakSeq = 65535) ∧
    ((linked psUP (sending 6)).port 3).nakRun = 6 ∧ ((linked psUP (sending 7)).port 3).nakSeq ≠ 0 ∧
    (0 + 65536 - ((linked psUP (sending 0)).port 3).replayFirst % 65536) % 65536 < ((linked psUP (sending 0)).port 3).replay.length ∧
    ((linked psUP (sending 0)).port 3).replay.length ≤ (1 + 65536 - ((linked psUP (sending 0)).port 3).replayFirst % 65536) % 65536 ∧
    (∀ r : Bool, ∃ s : State, (∀ x ∈ s.fabric.ports, ∀ o ∈ x.queue, o.vc / 2 = 7 → o.source ≠ none) ∧
      (s.sysreset.map (·.ready)) = some r) := by
  refine ⟨by decide, by decide, by decide, by decide, by decide, by decide, by decide, by decide,
    fun r => ⟨{ active [] with sysreset := some ⟨true, 0, [], r⟩ }, by show ∀ x ∈ (active []).fabric.ports, _; decide, rfl⟩⟩

theorem meets_ControlFlitsAndTimers_flits :
    ((linked psUP Port.reset).linkRuns 3 = true ∧ (linked psUP Port.reset).portState 3 ≠ psIDENTITY) ∧
    (∃ s : State, s.linkRuns 3 = true ∧ s.portState 3 = psIDENTITY ∧ s.reg Reg.SEC_STATUS_identity_valid = 0) ∧
    ((linked psIDENTITY Port.reset).linkRuns 3 = true ∧ (linked psIDENTITY Port.reset).portState 3 = psIDENTITY ∧
      (linked psIDENTITY Port.reset).reg Reg.SEC_STATUS_identity_valid ≠ 0 ∧ (linked psIDENTITY Port.reset).portState 3 ≠ psUP) ∧
    ((linked psUP Port.reset).portState 3 = psUP ∧ ((linked psUP Port.reset).port 3).narrowAsked = false) ∧
    ((linked psUP { Port.reset with narrowAsked := true, fullAsked := true }).port 3).narrowAsked = true ∧
    ((linked psUP { Port.reset with narrowAsked := true, fullAsked := true }).port 3).fullAsked = true ∧
    ∃ s : State, s.linkRuns 3 = true ∧ s.portState 3 = psUP ∧ s.reg (Reg.FAB_P_STATE_narrow 3) = 1 :=
  ⟨by decide, ⟨(linked psIDENTITY Port.reset).setReg Reg.SEC_STATUS_identity_valid 0, by decide⟩, by decide, by decide, rfl, rfl,
    ⟨(linked psUP Port.reset).setReg (Reg.FAB_P_STATE_narrow 3) 1, by decide⟩⟩

/-- A port whose timers started at 0 and hold something to time. -/
def timed : Port :=
  { sending 0 with nakAt := some 0, identified := true, widening := true,
                   open_ := [{ vc := 15, tag := 0, header := packet 1 0 4, course := .here, got := 0, data := [], flits := 1, lastAt := 0 }] }

/-- That port in a state at a time. -/
def timedAt (st now : Nat) : State := { (linked st timed).setReg (Reg.FAB_P_STATE_narrow 3) 1 with now := now }

/-- Each timer at its time, and one cycle before it. -/
theorem meets_ControlFlitsAndTimers_timers :
    (∀ n ∈ [9, 10, 99, 100, 999, 1000, 9999, 10000, 99999, 100000], (timedAt psUP n).linkRuns 3 = true ∧
      ((timedAt psUP n).port 3).nakAt = some 0 ∧ ((timedAt psUP n).port 3).lastAckAt = 0 ∧ ((timedAt psUP n).port 3).replay ≠ [] ∧
      ((timedAt psUP n).port 3).lastProgressAt = 0 ∧ ((timedAt psUP n).port 3).lastFlitAt = 0 ∧ (timedAt psUP n).now = n ∧
      (timedAt psUP n).reg (Reg.FAB_P_STATE_narrow 3) = 1 ∧ ((timedAt psUP n).port 3).lastKeepaliveAt = 0 ∧
      ((timedAt psUP n).port 3).widening = true) ∧
    (((timedAt psMGMT_ONLY 10000).port 3).identified = true ∧ (timedAt psMGMT_ONLY 10000).portState 3 ≠ psUP ∧
      ((timedAt psMGMT_ONLY 10000).port 3).chartSentAt + 10000 ≤ (timedAt psMGMT_ONLY 10000).now ∧
      (timedAt psMGMT_ONLY 10000).linkRuns 3 = true) ∧
    (((timedAt psUP 0).port 3).open_.find? (fun o => decide (o.vc = 15))).isSome = true ∧
    roundUp (0 + (timedAt psUP 0).reg Reg.FAB_CFG_gap_us * 100) 100 ≤
      (timedAt psUP (roundUp (0 + (timedAt psUP 0).reg Reg.FAB_CFG_gap_us * 100) 100)).now :=
  ⟨by decide, by decide, by decide, by decide⟩

/-- Nothing to time on a port that has just reset, nor on one that is down; a first and a last part of a statement. -/
theorem meets_ControlFlitsAndTimers_idle :
    ((linked psUP Port.reset).port 3).nakAt = none ∧ ((linked psUP Port.reset).port 3).replay = [] ∧
    ((linked psUP Port.reset).port 3).identified = false ∧ (linked psUP Port.reset).reg (Reg.FAB_P_STATE_narrow 3) ≠ 1 ∧
    ((linked psUP Port.reset).port 3).widening = false ∧ (linked psDOWN Port.reset).linkRuns 3 = false ∧
    (∀ o ∈ ((linked psDOWN Port.reset).port 3).open_, o.vc ≠ 15) ∧
    ((timedAt psDOWN 0).port 3).open_.find? (fun o => decide (o.vc = 15)) = some
      { vc := 15, tag := 0, header := packet 1 0 4, course := .here, got := 0, data := [], flits := 1, lastAt := 0 } ∧
    ((linked psIDENTITY { Port.reset with peerNonce := [1] }).port 3).peerNonce ≠ [] ∧
    ((List.range 5).filterMap (fun i => (([(5, [])] : List (Nat × List Byte)).find? (fun q => decide (q.1 = i + 1))).map (·.2))).length < 5 := by
  decide

/-- The torus of 4 × 4 × 4 at the module of coordinate 0, a port in a state. -/
def torusAt (st : Nat) : State := { linked st Port.reset with chart := some { chart with extents := [4, 4, 4, 1] } }

/-- A BREAK notice of the ring of P3: from the neighbour ahead, from the one after it, from this module, and of another ring; and to a
module that knows no torus. -/
theorem meets_Training_breaks :
    (∀ p ∈ [(0x30, 0x201), (0x20, 0x201), (0, 0x201), (0x30, 0x200), (0x30, 0x401)],
      ({ packet 0x71 0 0 with src := p.1, arg0 := p.2 } : Packet).wf = true) ∧
    (torusAt psUP).portCarries 3 0 = true ∧ (linked psUP Port.reset).portCarries 3 0 = true ∧
    ((linked psUP Port.reset).takeIn (packet 0x71 0 0)).routing? = none ∧
    (((torusAt psUP).takeIn (packet 0x71 0 0)).routing?.map (·.node)) = some 0 ∧
    ((torusAt psUP).takeIn (packet 0x71 0 0)).extent 1 = 4 ∧ bits 0x201 7 0 = 3 / 2 ∧ bits 0x201 15 8 < 4 ∧ bits 0x401 15 8 = 4 ∧
    bits 0x200 7 0 ≠ 3 / 2 ∧ (torusAt psUP).neighbour 2 = 0x30 := by decide

theorem meets_Training_acceptance :
    (linked psDISABLED Port.reset).mayTrain 3 = false ∧ ((linked psTRAINING Port.reset).port 3).equalised = false ∧
    (linked psUP Port.reset).portState 3 ≠ psTRAINING ∧
    (∃ s : State, hostServes s ∧ s.portState 3 < psQUARANTINE) ∧
    ∃ s : State, hostServes s ∧ s.portState 3 = psQUARANTINE ∧ s.reg (Reg.FAB_P_STATE_reason 3) = 3 :=
  ⟨by decide, by decide, by decide, ⟨linked psDOWN Port.reset, serves (by decide), by decide⟩,
    ⟨(linked psQUARANTINE Port.reset).setReg (Reg.FAB_P_STATE_reason 3) 3, serves (by decide), by decide⟩⟩

theorem meets_Training :
    ((linked psDOWN Port.reset).mayTrain 3 = true ∧ (linked psDOWN Port.reset).portState 3 = psDOWN) ∧
    (∃ s : State, s.mayTrain 3 = true ∧ s.reg (Reg.FAB_P_CTRL_retrain 3) = 1) ∧
    (∃ s : State, s.mayTrain 3 = true ∧ s.portState 3 = psDOWN ∧ (s.port 3).downAt + 100000000 = s.now) ∧
    (linked psDOWN Port.reset).now < ((linked psDOWN Port.reset).port 3).downAt + 100000000 ∧
    ((linked psTRAINING { Port.reset with equalised := true }).portState 3 = psTRAINING ∧
      ((linked psTRAINING { Port.reset with equalised := true }).port 3).equalised = true) ∧
    (hostServes (linked psMGMT_ONLY Port.reset) ∧ psQUARANTINE < (linked psMGMT_ONLY Port.reset).portState 3) ∧
    (∃ s : State, hostServes s ∧ s.portState 3 = psQUARANTINE ∧ s.reg (Reg.FAB_P_STATE_reason 3) ≠ 3) ∧
    (hostServes (linked psDISABLED Port.reset) ∧ (linked psDISABLED Port.reset).portState 3 = psDISABLED) ∧
    ((linked psDOWN Port.reset).portState 3 ≠ psDISABLED) ∧
    ∃ k : Packet, k.wf = true ∧ k.op = pktBREAK ∧ (linked psQUARANTINE Port.reset).portCarries 3 0 = true :=
  ⟨by decide, ⟨(linked psUP Port.reset).setReg (Reg.FAB_P_CTRL_retrain 3) 1, by decide⟩,
    ⟨{ linked psDOWN Port.reset with now := 100000000 }, by decide⟩, by decide, by decide, ⟨serves (by decide), by decide⟩,
    ⟨linked psQUARANTINE Port.reset, serves (by decide), by decide⟩, ⟨serves (by decide), by decide⟩, by decide, packet 0x71 0 0, by decide⟩

/-! ### Collectives -/

/-- OPEN or CLOSE of a result of 4 KiB at 0x10000, one contributor, pool at 0x20000, ledger at 0x30000. -/
def coll (op : Nat) : List Byte :=
  block 64 [(0, 1, op), (8, 8, 0x10000), (0x10, 8, 4096), (0x18, 8, 0x20000), (0x20, 4, 16), (0x24, 4, 1), (0x28, 8, 0x30000), (0x30, 4, 64), (0x3A, 1, 1)]

/-- The reduction that it opens, counted or not. -/
def reduction (counted closed : Bool) : Reduction :=
  { job := 1, addr := 0x10000, length := 4096, pool := 0x20000, poolEntries := 16, counted := counted, backup := false, keepCells := false,
    contributors := 1, ledger := 0x30000, rowBytes := 64, step := 5, closed := closed, sums := [] }

/-- The CLOSE task at a stage with a deadline at 500. -/
def closer (stage now : Nat) (r : Reduction) : State :=
  { active [{ task 10 (coll 2) with stage := stage, expires := some 500 }] with now := now, reductions := [r] }

theorem meets_Reductions_open :
    (∃ s t, engineRuns s t engCOLLECTIVE 1 ∧ (parseColl t.args).length = 0) ∧
    (∃ s t, engineRuns s t engCOLLECTIVE 1 ∧ (parseColl t.args).length ≠ 0 ∧
      ∃ r ∈ s.reductions, r.closed = false ∧ r.overlaps t.job (addrOff (parseColl t.args).addr) (parseColl t.args).length = true) ∧
    (∃ s t, engineRuns s t engCOLLECTIVE 1 ∧ (parseColl t.args).length ≠ 0 ∧ s.reductions ≠ [] ∧
      (s.reductions.filter (fun r => !r.overlaps t.job (addrOff (parseColl t.args).addr) (parseColl t.args).length)).length < 4096 ∧
      ∀ r ∈ s.reductions, r.closed = false → r.overlaps t.job (addrOff (parseColl t.args).addr) (parseColl t.args).length = false) ∧
    ∃ s t, engineRuns s t engCOLLECTIVE 1 ∧ (parseColl t.args).length ≠ 0 ∧
      4096 ≤ (s.reductions.filter (fun r => !r.overlaps t.job (addrOff (parseColl t.args).addr) (parseColl t.args).length)).length ∧
      ∀ r ∈ s.reductions, r.closed = false → r.overlaps t.job (addrOff (parseColl t.args).addr) (parseColl t.args).length = false :=
  ⟨here (one 10 [1]) (by decide) (by decide),
    here { one 10 (coll 1) with reductions := [reduction true false] } (by decide) ⟨by decide, reduction true false, by decide⟩,
    here { one 10 (coll 1) with reductions := [reduction true true] } (by decide) (by decide),
    here { one 10 (coll 1) with reductions := List.replicate 4096 { reduction true false with job := 2 } } (by decide)
      ⟨by decide, by rw [List.filter_eq_self.2 (fun r h => by rw [List.eq_of_mem_replicate h]; decide)]; exact Nat.le_of_eq List.length_replicate.symm,
        fun r h => by rw [List.eq_of_mem_replicate h]; decide⟩⟩

/-- A CLOSE of no bytes, and one of no reduction; counted and not, its ledger full and not, at its first stage and waiting; its deadline at the time and
a cycle before; contributions that are malformed, to no reduction, past its end, at its end but closed or of another step. -/
theorem meets_Reductions_close :
    (∃ s t, engineRuns s t engCOLLECTIVE 2 ∧ (parseColl t.args).length = 0) ∧
    (∃ s t, engineRuns s t engCOLLECTIVE 2 ∧ (parseColl t.args).length ≠ 0 ∧ s.closing? t.job (parseColl t.args) = none ∧ t.stage = 1 ∧
      t.expires = some 500 ∧ 500 ≤ s.now) ∧
    (∃ s t, engineRuns s t engCOLLECTIVE 2 ∧ (parseColl t.args).length ≠ 0 ∧ ∃ r : Reduction, s.closing? t.job (parseColl t.args) = some r ∧
      r.counted = true ∧ s.ledgerFull r = false ∧ t.stage = 1 ∧ t.expires = some 500 ∧ 500 ≤ s.now) ∧
    (∃ s t, engineRuns s t engCOLLECTIVE 2 ∧ (parseColl t.args).length ≠ 0 ∧ ∃ r : Reduction, s.closing? t.job (parseColl t.args) = some r ∧
      r.counted = false) ∧
    (∃ s t, engineRuns s t engCOLLECTIVE 2 ∧ ∃ r : Reduction, s.closing? t.job (parseColl t.args) = some r ∧ s.ledgerFull r = true ∧
      t.stage = 1 ∧ t.expires = some 500 ∧ 500 ≤ s.now) ∧
    (∃ s t, engineRuns s t engCOLLECTIVE 2 ∧ ∃ r : Reduction, s.closing? t.job (parseColl t.args) = some r ∧ t.stage ≠ 1 ∧ t.expires = some 500 ∧
      s.now + 1 = 500) ∧
    (∃ k : Packet, (decodeExact k).malformed = true) ∧
    (∃ (s : State) (k : Packet), (decodeExact k).malformed = false ∧ addrSpace k.addr = 0 ∧ s.node? = some (addrNode k.addr) ∧
      s.reductionAt? k.jobId (decodeExact k).off = none) ∧
    (∃ (s : State) (k : Packet) (r : Reduction), (decodeExact k).malformed = false ∧ addrSpace k.addr = 0 ∧
      s.node? = some (addrNode k.addr) ∧ s.reductionAt? k.jobId (decodeExact k).off = some r ∧
      r.addr + r.length < (decodeExact k).off + 4 * (decodeExact k).elems.length) ∧
    (∀ c : Bool, ∃ (s : State) (k : Packet) (r : Reduction), (decodeExact k).malformed = false ∧ addrSpace k.addr = 0 ∧
      s.node? = some (addrNode k.addr) ∧ s.reductionAt? k.jobId (decodeExact k).off = some r ∧
      (decodeExact k).off + 4 * (decodeExact k).elems.length ≤ r.addr + r.length ∧ r.closed = c ∧ (decodeExact k).step ≠ r.step) :=
  ⟨here (one 10 [2]) (by decide) (by decide),
    here { closer 1 500 (reduction true false) with reductions := [] } (by decide) (by decide),
    here (closer 1 500 (reduction true false)) (by decide) ⟨by decide, reduction true false, by decide⟩,
    here (closer 0 0 (reduction false false)) (by decide) ⟨by decide, reduction false false, by decide⟩,
    here ((closer 1 500 (reduction true false)).write 0x30008 [1]) (by decide) ⟨reduction true false, by decide⟩,
    here (closer 0 499 (reduction true false)) (by decide) ⟨reduction true false, by decide⟩, ⟨packet 4 0x10001 4, by decide⟩,
    ⟨active [], packet 4 0x10000 4, by decide⟩, ⟨closer 0 0 { reduction true true with length := 2048 }, packet 4 0x107FC 8, { reduction true true with length := 2048 }, by decide⟩,
    fun c => ⟨closer 0 0 (reduction true c), packet 4 0x10FFC 4, reduction true c, by revert c; decide⟩⟩

/-- A barrier message of job 1. -/
def note (op : Nat) : Packet := packet op 0 0

/-- The table of combining entries, full with those of another job. -/
def combined (s : State) : State := { s with combining := List.replicate 4096 ⟨2, 0, 0, none, [], false, [], []⟩ }

theorem noEntry (s : State) (job tc id : Nat) (hj : job ≠ 2) (h : s.combining = List.replicate 4096 ⟨2, 0, 0, none, [], false, [], []⟩) :
    s.combiningFor job tc id = none := by
  have hf : s.combiningAt? job tc id = none := by
    unfold State.combiningAt?
    rw [h, List.find?_eq_none]
    intro e he
    rw [List.eq_of_mem_replicate he]
    simp [Ne.symm hj]
  have hl : collTableSize ≤ s.combining.length := by rw [h, List.length_replicate]; exact Nat.le_refl _
  unfold State.combiningFor
  rw [hf]
  exact if_pos hl

/-- A BROADCAST of 64 bytes from module 1, and one of none. -/
def cast (n : Nat) : List Byte := block 64 [(0, 1, 4), (0x10, 8, n), (0x38, 2, 1)]

theorem meets_Barriers :
    (∃ s t, engineRuns s t engCOLLECTIVE 3 ∧ ∃ p : State × Combining,
      s.combiningFor t.job (parseColl t.args).tc (parseColl t.args).id = some p ∧ p.2.task = none) ∧
    (∃ s t, engineRuns s t engCOLLECTIVE 3 ∧ s.combiningFor t.job (parseColl t.args).tc (parseColl t.args).id = none) ∧
    (∃ s t, engineRuns s t engCOLLECTIVE 4 ∧ s.node? = some (parseColl t.args).root) ∧
    (∃ s t, engineRuns s t engCOLLECTIVE 4 ∧ s.node? ≠ some (parseColl t.args).root ∧ (parseColl t.args).length = 0) ∧
    (∃ s t, engineRuns s t engCOLLECTIVE 4 ∧ s.node? ≠ some (parseColl t.args).root ∧ (parseColl t.args).length ≠ 0 ∧
      s.combiningFor t.job (parseColl t.args).tc (parseColl t.args).id = none) ∧
    (∃ s t, engineRuns s t engCOLLECTIVE 4 ∧ s.node? ≠ some (parseColl t.args).root ∧ (parseColl t.args).length ≠ 0 ∧
      ∃ p : State × Combining, s.combiningFor t.job (parseColl t.args).tc (parseColl t.args).id = some p ∧ p.2.task = none) ∧
    (∃ s t, engineRuns s t engCOLLECTIVE 4 ∧ s.node? ≠ some (parseColl t.args).root ∧ (parseColl t.args).length ≠ 0 ∧
      ∃ p : State × Combining, s.combiningFor t.job (parseColl t.args).tc (parseColl t.args).id = some p ∧ p.2.task ≠ none) ∧
    (∃ s t, engineRuns s t engCOLLECTIVE 5 ∧ t.stage = 0) ∧ (∃ s t, engineRuns s t engCOLLECTIVE 5 ∧ t.stage ≠ 0 ∧ s.jobDrained t = true) ∧
    (∃ s t, engineRuns s t engCOLLECTIVE 5 ∧ t.stage ≠ 0 ∧ s.jobDrained t = false) ∧
    (∀ now ∈ [499, 500], ∃ s t, engineRuns s t engCOLLECTIVE 3 ∧ t.expires = some 500 ∧ s.now = now) ∧
    (∃ s t, engineRuns s t engCOLLECTIVE 3 ∧ t.expires = none) ∧
    (∃ (s : State) (k : Packet), k.wf = true ∧ s.node? = some k.dst ∧ s.power.anchor = .awake ∧ s.jobState k.jobId ≠ 1 ∧ k.op = pktBAR_UP) ∧
    (∃ (s : State) (k : Packet), k.wf = true ∧ s.node? = some k.dst ∧ s.power.anchor = .awake ∧ s.jobState k.jobId = 1 ∧ k.op = pktBAR_UP ∧
      s.combiningFor k.jobId k.tc (bits k.arg0 15 0) = none) ∧
    ∀ op ∈ [pktBAR_UP, pktBAR_DOWN, pktFIX_UP, pktFIX_DOWN, pktBCAST_DATA], (note op).wf = true ∧ (active []).node? = some (note op).dst ∧
      (active []).jobState (note op).jobId = 1 ∧
      ((active []).combiningFor (note op).jobId (note op).tc (bits (note op).arg0 15 0)).isSome = true :=
  ⟨here (one 10 (coll 3)) (by decide) ⟨_, rfl, rfl⟩, here (combined (one 10 (coll 3))) (by decide) (noEntry _ _ _ _ (by decide) rfl),
    here (one 10 (coll 4)) (by decide) (by decide), here (one 10 (cast 0)) (by decide) (by decide),
    here (combined (one 10 (cast 64))) (by decide) ⟨by decide, by decide, noEntry _ _ _ _ (by decide) rfl⟩,
    here (one 10 (cast 64)) (by decide) ⟨by decide, by decide, _, rfl, rfl⟩,
    here { one 10 (cast 64) with combining := [⟨1, 0, 0, some ⟨0, 1⟩, [], false, [], []⟩] } (by decide) ⟨by decide, by decide, _, rfl, by decide⟩,
    here (one 10 (coll 5)) (by decide) (by decide), here (active [{ task 10 (coll 5) with stage := 1 }]) (by decide) (by decide),
    here (active [{ task 10 (coll 5) with stage := 1 }, holding 0]) (by decide) (by decide),
    fun now h => ⟨{ active [{ task 10 (coll 3) with expires := some 500 }] with now := now }, { task 10 (coll 3) with expires := some 500 },
      runs (by revert now; decide), rfl, rfl⟩,
    here (one 10 (coll 3)) (by decide) rfl,
    ⟨{ active [] with jobs := [⟨1, 2, 0, 0⟩] }, note 0x40, by decide⟩,
    ⟨combined (active []), note 0x40, by decide, rfl, rfl, by decide, rfl, noEntry _ _ _ _ (by decide) rfl⟩, by decide⟩

/-- Two modules on a ring whose links are UP, module 0 with a system reset in progress. -/
def resetting (r : SysReset) : State :=
  { up ((List.range 8).map (fun q => (Reg.FAB_P_STATE_state q, psUP))) with chart := some { chart with extents := [2, 1, 1, 1] }, sysreset := some r }

/-- The root with its child's answer and without, a module below the root that has every answer, and one that is ready. -/
theorem meets_SystemReset_progress :
    (resetting ⟨true, 0, [], false⟩).resetChildren 0 = [1] ∧
    (∀ c ∈ (resetting ⟨true, 0, [1], false⟩).resetChildren 0, c ∈ (resetting ⟨true, 0, [1], false⟩).sysreset.toList.flatMap (·.answered)) ∧
    (resetting ⟨true, 0, [1], false⟩).treeHop ((resetting ⟨true, 0, [1], false⟩).node?.getD 0) 0 (resetting ⟨true, 0, [1], false⟩).fullScope 7 = none ∧
    (∀ c ∈ (resetting ⟨false, 1, [], false⟩).resetChildren 1, c ∈ ([] : List Nat)) ∧
    (resetting ⟨false, 1, [], false⟩).treeHop ((resetting ⟨false, 1, [], false⟩).node?.getD 0) 1 (resetting ⟨false, 1, [], false⟩).fullScope 7 = some 1 ∧
    (resetting ⟨false, 1, [], true⟩).sysreset = some ⟨false, 1, [], true⟩ := by decide

theorem meets_SystemReset :
    (hostServes (active []) ∧ (active []).chtState = chtActive ∧ (active []).sysreset = none) ∧
    (hostServes State.reset ∧ State.reset.chtState ≠ chtActive) ∧ (0x52534554 : Nat) % 2 ^ 32 = 0x52534554 ∧ (0 : Nat) % 2 ^ 32 ≠ 0x52534554 ∧
    (∃ s : State, hostServes s ∧ s.chtState = chtActive ∧ s.sysreset ≠ none) ∧
    (∀ op ∈ [pktRESET_DOWN, pktRESET_UP], (packet op 0 0).wf = true ∧ (active []).node? = some (packet op 0 0).dst ∧
      (packet op 0 0).op = op ∧ (((active []).takeIn (packet op 0 0)).wakeTrigger).sysreset = none) ∧
    ∀ op ∈ [pktRESET_DOWN, pktRESET_UP], ∃ s : State, s.node? = some (packet op 0 0).dst ∧
      ((s.takeIn (packet op 0 0)).wakeTrigger).sysreset = some ⟨true, 0, [], false⟩ :=
  ⟨⟨serves (by decide), by decide⟩, ⟨serves (by decide), by decide⟩, by decide, by decide,
    ⟨{ active [] with sysreset := some ⟨true, 0, [], false⟩ }, serves (by decide), by decide, by decide⟩, by decide,
    fun op h => ⟨{ active [] with sysreset := some ⟨true, 0, [], false⟩ }, by revert op; decide⟩⟩

/-! ### UPDATE and errors -/

/-- A Chart in which group 2 is a dense group or a table of this module's. -/
def owned (kind : Nat) : Chart := { chart with shardMaps := [⟨2, kind, 0, 16, [(0, 0)]⟩] }

/-- An UPDATE task of group 2, whose descriptor stands at 0x1000. -/
def updating (op kind : Nat) : State :=
  ({ one 8 (block 128 [(0, 1, op), (8, 8, 0x1000), (0x18, 4, 1)]) with chart := some (owned kind) } : State).write 0x1000 [2]

theorem meets_UpdateOps :
    (∃ s t, engineRuns s t engUPDATE updNORM ∧ s.requestsOf t.id = [] ∧ s.fabric.waiting.all (fun w => !decide (w.1 = t.id)) = true ∧
      (parseUpd t.args).empty = false ∧ (s.updCtx? t).isSome = true) ∧
    (∃ s t, engineRuns s t engUPDATE updAPPLY ∧ (parseUpd t.args).empty = false ∧ ∃ c : UpdCtx, s.updCtx? t = some c ∧ c.dense = true) ∧
    (∃ s t, engineRuns s t engUPDATE updAPPLY ∧ (parseUpd t.args).empty = false ∧ ∃ c : UpdCtx, s.updCtx? t = some c ∧ c.dense = false) ∧
    (∃ s t, engineRuns s t engUPDATE updSTORE ∧ True) ∧
    (∃ s t, engineRuns s t engUPDATE updROOT ∧ (parseUpd t.args).empty = false ∧ (s.updCtx? t).isSome = true) ∧
    (∃ s t, engineRuns s t engUPDATE updEXPORT ∧ True) ∧
    (∃ s t, engineRuns s t engUPDATE updNORM ∧ (parseUpd t.args).empty = true ∧ s.requestsOf t.id = [] ∧
      s.fabric.waiting.all (fun w => !decide (w.1 = t.id)) = true) ∧
    (∃ s t, engineRuns s t engUPDATE updAPPLY ∧ (parseUpd t.args).empty = true) ∧
    (∃ s t, engineRuns s t engUPDATE updSTORE ∧ (parseUpd t.args).empty = true) ∧
    (∃ s t, engineRuns s t engUPDATE updROOT ∧ (parseUpd t.args).empty = true) ∧
    ∃ s t, engineRuns s t engUPDATE updEXPORT ∧ (parseUpd t.args).empty = true :=
  ⟨here (updating updNORM 0) (by decide) (by decide), here (updating updAPPLY 0) (by decide) ⟨by decide, _, rfl, by decide⟩,
    here (updating updAPPLY 1) (by decide) ⟨by decide, _, rfl, by decide⟩, here (updating updSTORE 0) (by decide) trivial,
    here (updating updROOT 0) (by decide) (by decide), here (updating updEXPORT 0) (by decide) trivial,
    here (one 8 [updNORM]) (by decide) (by decide), here (one 8 [updAPPLY]) (by decide) (by decide),
    here (one 8 [updSTORE]) (by decide) (by decide), here (one 8 [updROOT]) (by decide) (by decide),
    here (one 8 [updEXPORT]) (by decide) (by decide)⟩

/-- An UPDATE operation of a group that the Chart does not have, and a NORM that waits for its response. -/
theorem meets_UpdateOps_none :
    (∀ op ∈ [updNORM, updAPPLY, updSTORE, updROOT, updEXPORT], ∃ s t, engineRuns s t engUPDATE op ∧ (parseUpd t.args).empty = false ∧
      s.updCtx? t = none ∧ s.requestsOf t.id = [] ∧ ∀ w ∈ s.fabric.waiting, w.1 ≠ t.id) ∧
    (∃ s t, engineRuns s t engUPDATE updNORM ∧ s.requestsOf t.id ≠ []) ∧
    ∃ s t, engineRuns s t engUPDATE updROOT ∧ (parseUpd t.args).empty = false ∧ ∃ c, s.updCtx? t = some c :=
  ⟨fun op h => ⟨{ updating op 0 with chart := some chart }, the (updating op 0), runs (by revert op; decide), by revert op; decide,
      by revert op; decide, by revert op; decide, by revert op; decide⟩,
    here { updating updNORM 0 with fabric := { Fabric.reset with requests := [⟨0, ⟨0, 0⟩, 4, 0, 0, 0, none, [], 0, none⟩] } } (by decide) (by decide),
    here (updating updROOT 0) (by decide) ⟨by decide, _, rfl⟩⟩

/-- A product on tile 0 after so many attempts; tile 1 of the group can stand in. -/
def attempted (n : Nat) : Task := { task 1 [1] with attempts := n }

/-- The state of that task under a Chart whose group has two tiles. -/
def replaying (n : Nat) : State := { active [attempted n] with chart := some { chart with groups := [⟨0, false, 3⟩] } }

/-- That state with phase 0 under the shadow of its runs. -/
def shadowing (groups : List TileGroup) : State :=
  { (active [attempted 0]).setReg Reg.ERR_SHADOW_PHASES_mask 1 with chart := some { chart with groups := groups } }

/-- A task that ran once, whose replay or second replay ran well, in a phase that is not shadowed, one whose shadow has no tile, and one whose
run formed its checksum. -/
theorem meets_TaskComplete_end :
    (∀ n ∈ [0, 1, 2], ∃ (s : State) (t : Task), s.jobState t.job = 1 ∧ t.attempts = n ∧ t.status ≠ stPARITY ∧ t.settled = false ∧
      s.shadowPhase t = false) ∧
    (∃ (s : State) (t : Task), s.jobState t.job = 1 ∧ t.attempts = 0 ∧ (s.undefineOverwritten t).shadowPhase t = true ∧ t.settled = false ∧
      (s.undefineOverwritten t).shadowSkipped t = true) ∧
    ∃ (s : State) (t : Task), s.jobState t.job = 1 ∧ t.attempts = 0 ∧ (s.undefineOverwritten t).shadowPhase t = true ∧ t.settled = false ∧
      (s.undefineOverwritten t).shadowSkipped t = false ∧ t.csum.isSome = true :=
  ⟨fun n h => ⟨replaying n, attempted n, rfl, rfl, show (0 : Nat) ≠ 9 by decide, rfl, by revert n; decide⟩,
    ⟨shadowing [⟨0, false, 1⟩], attempted 0, by decide⟩,
    ⟨shadowing [⟨0, false, 3⟩], { attempted 0 with csum := some 0 }, by decide⟩⟩

theorem meets_ParityErrors :
    (ParitySite.transfer (hbmEnd - 1)).wf = true ∧ (ParitySite.sramUncorrectable (2 ^ 45)).wf = true ∧
    (∀ n ∈ [0, 1, 2], (replaying n).task? (attempted n).id = some (attempted n) ∧ (attempted n).id.die < 8 ∧ (attempted n).phase = .running ∧
      (replaying n).jobState (attempted n).job = 1 ∧ isTileClass (attempted n).desc.engine = true ∧ (attempted n).desc.engine ≠ engDMA ∧
      (attempted n).speculative = false ∧ (attempted n).inPlace = false ∧ (attempted n).attempts = n ∧
      ((replaying n).heldTiles (attempted n)).contains 0 = true) ∧
    (((replaying 1).bump Reg.ERR_CNT_PARITY 1).suspectTile 0).substitute? (attempted 1).job 0 = some 1 ∧
    ((((replaying 1).bump Reg.ERR_CNT_PARITY 1).suspectTile 0).movedOff (attempted 1) 0).isSome = true ∧
    (((active [attempted 1]).bump Reg.ERR_CNT_PARITY 1).suspectTile 0).substitute? (attempted 1).job 0 = none :=
  ⟨by decide, by decide, by decide, by decide, by decide, by decide⟩

/-- The ends of a parity error: a task in place, a speculative one, a tile that it does not hold, the DMA, control state of a task that runs and
of one whose record waits, and a ring at a descriptor, at an entry, at none, and one that is held. -/
theorem meets_ParityErrors_ends :
    (∃ t : Task, t.phase = .running ∧ isTileClass t.desc.engine = true ∧ t.desc.engine ≠ engDMA ∧ t.speculative = false ∧ t.inPlace = true ∧
      ((active [t]).heldTiles t).contains 0 = true) ∧
    (∃ t : Task, t.phase = .running ∧ isTileClass t.desc.engine = true ∧ t.desc.engine ≠ engDMA ∧ t.speculative = true ∧
      ((active [t]).heldTiles t).contains 0 = true) ∧
    ((replaying 0).heldTiles (attempted 0)).contains 63 = false ∧ (task 6 []).desc.engine = engDMA ∧
    (task 1 []).unfinished = true ∧ ({ task 1 [] with phase := .recordDue } : Task).unfinished = false ∧
    (∃ s : State, (s.ring 0).heldByRecord = true) ∧
    (∃ s : State, (s.ring 0).heldByRecord = false ∧ (s.ring 0).progress ≠ none) ∧
    (∃ (s : State) (e : Nat × RingEntry), (s.ring 0).heldByRecord = false ∧ (s.ring 0).progress = none ∧
      (s.bump Reg.ERR_CNT_PARITY 1).ringEntry? 0 = some e) ∧
    ((active []).ring 0).heldByRecord = false ∧ ((active []).ring 0).progress = none ∧
      ((active []).bump Reg.ERR_CNT_PARITY 1).ringEntry? 0 = none :=
  ⟨⟨task 1 [1, 0, 0, 0x30], by decide⟩, ⟨{ task 1 [1] with desc := { desc 1 with spec := true } }, by decide⟩, by decide, by decide, by decide, by decide,
    ⟨{ active [] with rings := [{ ring0 with heldByRecord := true }] }, by decide⟩,
    ⟨{ active [] with rings := [{ ring0 with progress := some (0, 0, 1) }] }, by decide⟩,
    ⟨ringAt (entry 4 0 0 0), _, by decide, by decide, rfl⟩, by decide, by decide, by decide⟩

theorem meets_Jobs :
    (∃ s, hostServes s ∧ s.reg Reg.ERR_JOB_SEL_job_id = 1 ∧ s.jobState 1 = 1) ∧
    (∃ s, hostServes s ∧ s.reg Reg.ERR_JOB_SEL_job_id = 0 ∧ s.jobState 0 ≠ 1) ∧
    (∃ (s : State) (j : Job), hostServes s ∧ s.job? 1 = some j ∧ j.state = 3) ∧ (∃ (s : State) (j : Job), hostServes s ∧ s.job? 1 = some j ∧ j.state = 1) ∧
    (∃ (s : State) (j : Job), s.job? 1 = some j ∧ j.state = 2 ∧ ((s.killJobTasks 1).closeJob 1).jobRecordsDone 1 = true) ∧
    (∃ (s : State) (j : Job), s.job? 1 = some j ∧ j.state = 2 ∧ ((s.killJobTasks 1).closeJob 1).jobRecordsDone 1 = false) ∧
    (∃ s : State, hostServes s ∧ s.job? 2 = none) ∧ (∃ s : State, s.carrier.power ≠ .on) ∧
    ∃ s : State, s.carrier.power = .on ∧ s.pcie.d3hot = true :=
  ⟨⟨(active []).setReg Reg.ERR_JOB_SEL_job_id 1, serves (by decide), by decide⟩, ⟨active [], serves (by decide), by decide⟩,
    ⟨{ active [] with jobs := [⟨1, 3, 0, 0⟩] }, ⟨1, 3, 0, 0⟩, serves (by decide), rfl, rfl⟩, ⟨active [], ⟨1, 1, 0, 0⟩, serves (by decide), rfl, rfl⟩,
    ⟨{ active [] with jobs := [⟨1, 2, 0, 0⟩] }, ⟨1, 2, 0, 0⟩, rfl, rfl, by decide⟩,
    ⟨{ recording 16 (record none) [] with jobs := [⟨1, 2, 0, 0⟩] }, ⟨1, 2, 0, 0⟩, rfl, rfl, by decide⟩,
    ⟨active [], serves (by decide), by decide⟩, ⟨{ State.reset with carrier := { State.reset.carrier with power := .safe } }, by decide⟩,
    ⟨{ State.reset with pcie := { State.reset.pcie with d3hot := true } }, by decide⟩⟩

/-- Logs off and on, ending inside and beyond HBM, full, with room, a head at the tail and beyond it; an accepted event ring off, on and full. -/
theorem meets_LogsAndEvents :
    (∃ s, hostServes s ∧ s.reg Reg.ERR_LOG_CFG_enable ≠ 1 ∧ s.reg Reg.ERR_LOG_BASE_base * 64 + 64 * 2 ^ s.reg Reg.ERR_LOG_CFG_log2_entries ≤ 0xC000000000 ∧
      s.reg Reg.DEV_EVQ_CFG_enable ≠ 1 ∧ s.reg Reg.DEV_EVQ_BASE_base * 32 + 32 * 2 ^ s.reg Reg.DEV_EVQ_CFG_log2_size ≤ 0xC000000000) ∧
    (∃ s, hostServes s ∧ s.reg Reg.ERR_LOG_CFG_enable ≠ 1 ∧ 0xC000000000 < s.reg Reg.ERR_LOG_BASE_base * 64 + 64 * 2 ^ s.reg Reg.ERR_LOG_CFG_log2_entries ∧
      s.reg Reg.DEV_EVQ_CFG_enable ≠ 1 ∧ 0xC000000000 < s.reg Reg.DEV_EVQ_BASE_base * 32 + 32 * 2 ^ s.reg Reg.DEV_EVQ_CFG_log2_size) ∧
    (∃ s v w, hostServes s ∧ v < 2 ^ 32 ∧ w < 2 ^ 32 ∧
      (v + 2 ^ 32 - s.reg Reg.ERR_LOG_PTR_head) % 2 ^ 32 ≤ (s.reg Reg.ERR_LOG_PTR_tail + 2 ^ 32 - s.reg Reg.ERR_LOG_PTR_head) % 2 ^ 32 ∧
      (s.reg Reg.ERR_LOG_PTR_tail + 2 ^ 32 - s.reg Reg.ERR_LOG_PTR_head) % 2 ^ 32 < (w + 2 ^ 32 - s.reg Reg.ERR_LOG_PTR_head) % 2 ^ 32 ∧
      (v + 2 ^ 32 - s.reg Reg.DEV_EVQ_PTR_head) % 2 ^ 32 ≤ (s.reg Reg.DEV_EVQ_PTR_tail + 2 ^ 32 - s.reg Reg.DEV_EVQ_PTR_head) % 2 ^ 32 ∧
      (s.reg Reg.DEV_EVQ_PTR_tail + 2 ^ 32 - s.reg Reg.DEV_EVQ_PTR_head) % 2 ^ 32 < (w + 2 ^ 32 - s.reg Reg.DEV_EVQ_PTR_head) % 2 ^ 32) ∧
    (∀ f ∈ [Reg.FAB_EVENT_link_up, Reg.CHT_EVENT_load_done, Reg.MEM_EVENT_uncorrectable], f.width = 1 ∧ 0xB8 ≤ f.off) ∧ State.reset.accepted 1 = false ∧
    (∃ s : State, s.accepted 1 = true ∧ s.reg Reg.DEV_EVQ_CFG_enable ≠ 0 ∧
      (s.reg Reg.DEV_EVQ_PTR_tail + 2 ^ 32 - s.reg Reg.DEV_EVQ_PTR_head) % 2 ^ 32 ≠ 2 ^ s.reg Reg.DEV_EVQ_CFG_log2_size) ∧
    (∃ s : State, s.accepted 1 = true ∧ s.reg Reg.DEV_EVQ_CFG_enable = 0) ∧ State.reset.reg Reg.ERR_LOG_CFG_enable = 0 ∧
    (∃ s : State, s.reg Reg.ERR_LOG_CFG_enable ≠ 0 ∧
      (s.reg Reg.ERR_LOG_PTR_tail + 2 ^ 32 - s.reg Reg.ERR_LOG_PTR_head) % 2 ^ 32 ≠ 2 ^ s.reg Reg.ERR_LOG_CFG_log2_entries) ∧
    State.reset.vectorMasked 2047 = true ∧
    ∃ s : State, s.vectorMasked 2047 = false ∧ ∀ h ∈ s.pcie.holdoff, h.1 ≠ 2047 :=
  ⟨⟨up [(Reg.ERR_LOG_BASE_base, 0xC000000000 / 64 - 64), (Reg.ERR_LOG_CFG_log2_entries, 6), (Reg.DEV_EVQ_BASE_base, 0xC000000000 / 32 - 64),
        (Reg.DEV_EVQ_CFG_log2_size, 6)], serves (by decide), by decide⟩,
    ⟨up [(Reg.ERR_LOG_BASE_base, 0xC000000000 / 64 - 64), (Reg.ERR_LOG_CFG_log2_entries, 7), (Reg.DEV_EVQ_BASE_base, 0xC000000000 / 32 - 64),
        (Reg.DEV_EVQ_CFG_log2_size, 7)], serves (by decide), by decide⟩,
    ⟨up [(Reg.ERR_LOG_PTR_head, 2 ^ 32 - 1), (Reg.DEV_EVQ_PTR_head, 2 ^ 32 - 1)], 0, 1, serves (by decide), by decide⟩, by decide, by decide,
    ⟨up [(Reg.DEV_FEAT_CTRL_committed, 1), (Reg.DEV_FEAT_ACCEPT_accept, 3), (Reg.DEV_EVQ_CFG_enable, 1), (Reg.DEV_EVQ_CFG_log2_size, 6),
        (Reg.DEV_EVQ_PTR_tail, 63)], by decide⟩,
    ⟨up [(Reg.DEV_FEAT_CTRL_committed, 1), (Reg.DEV_FEAT_ACCEPT_accept, 3)], by decide⟩, by decide,
    ⟨up [(Reg.ERR_LOG_CFG_enable, 1), (Reg.ERR_LOG_CFG_log2_entries, 6), (Reg.ERR_LOG_PTR_tail, 63)], by decide⟩, by decide,
    ⟨{ State.reset with pcie := { State.reset.pcie with msixEnable := true, msix := [⟨2047, 0, 0, false⟩] } }, by decide⟩⟩

/-- Logs that are on, and full; a vector in its holdoff. -/
theorem meets_LogsAndEvents_full :
    (∃ s, hostServes s ∧ s.reg Reg.ERR_LOG_CFG_enable = 1 ∧ s.reg Reg.DEV_EVQ_CFG_enable = 1) ∧
    (∃ s : State, s.accepted 1 = true ∧ s.reg Reg.DEV_EVQ_CFG_enable ≠ 0 ∧
      (s.reg Reg.DEV_EVQ_PTR_tail + 2 ^ 32 - s.reg Reg.DEV_EVQ_PTR_head) % 2 ^ 32 = 2 ^ s.reg Reg.DEV_EVQ_CFG_log2_size ∧
      s.reg Reg.ERR_LOG_CFG_enable ≠ 0 ∧
      (s.reg Reg.ERR_LOG_PTR_tail + 2 ^ 32 - s.reg Reg.ERR_LOG_PTR_head) % 2 ^ 32 = 2 ^ s.reg Reg.ERR_LOG_CFG_log2_entries) ∧
    ∃ s : State, s.vectorMasked 2047 = false ∧ ∃ h ∈ s.pcie.holdoff, h.1 = 2047 :=
  ⟨⟨up [(Reg.ERR_LOG_CFG_enable, 1), (Reg.DEV_EVQ_CFG_enable, 1)], serves (by decide), by decide⟩,
    ⟨up [(Reg.DEV_FEAT_CTRL_committed, 1), (Reg.DEV_FEAT_ACCEPT_accept, 3), (Reg.DEV_EVQ_CFG_enable, 1), (Reg.DEV_EVQ_CFG_log2_size, 6),
        (Reg.DEV_EVQ_PTR_tail, 64), (Reg.ERR_LOG_CFG_enable, 1), (Reg.ERR_LOG_CFG_log2_entries, 6), (Reg.ERR_LOG_PTR_tail, 64)], by decide⟩,
    ⟨{ State.reset with pcie := { State.reset.pcie with msixEnable := true, msix := [⟨2047, 0, 0, false⟩], holdoff := [(2047, 100, false)] } },
      by decide⟩⟩

/-! ### Power -/

/-- A die at mult 40 whose target is given, and the operating table at 40, 41 and 42 about entry 5. -/
def clocked (target : Nat) : State :=
  ({ up [(Reg.PLT_DIE_mult 7, 40), (Reg.PLT_OPP_mult 4, 40), (Reg.PLT_OPP_mult 5, 41), (Reg.PLT_OPP_mult 6, 42)] with
     power := Power.reset } : State).setDiePower 7 { State.reset.diePower 7 with target := target, held := true, heldAt := 0, hot := true }

/-- Root mults on each side of the target and at it; slack on each side of the guardband of 12 ps and of 20 ps, and at both; a table entry at each end
of what its neighbours allow; the hold of 100 µs at its end and a cycle before. -/
theorem meets_ClocksVoltagesLimits :
    ((clocked 41).power.anchor = .awake ∧ (clocked 41).reg (Reg.PLT_DIE_mult 7) < ((clocked 41).diePower 7).target) ∧
    ((clocked 38).diePower 7).target + 1 < (clocked 38).reg (Reg.PLT_DIE_mult 7) ∧
    ((clocked 39).diePower 7).target + 1 = (clocked 39).reg (Reg.PLT_DIE_mult 7) ∧
    (clocked 40).reg (Reg.PLT_DIE_mult 7) = ((clocked 40).diePower 7).target ∧
    (((11 : Int) : Rat) < guardband ((clocked 40).power.drift.getD 7 0) ∧ guardband ((clocked 40).power.drift.getD 7 0) + 8 < ((21 : Int) : Rat) ∧
      ∀ x ∈ [(12 : Int), 20], guardband ((clocked 40).power.drift.getD 7 0) ≤ (x : Rat) ∧
        (x : Rat) ≤ guardband ((clocked 40).power.drift.getD 7 0) + 8) ∧
    (∀ v ∈ [40, 42], hostServes (clocked 40) ∧ 22 ≤ v ∧ v ≤ 72 ∧ (clocked 40).reg (Reg.PLT_OPP_mult (5 - 1)) ≤ v ∧
      v ≤ (clocked 40).reg (Reg.PLT_OPP_mult (5 + 1))) ∧ 39 < (clocked 40).reg (Reg.PLT_OPP_mult (5 - 1)) ∧
    (List.replicate 64 0).length = 64 ∧
    (((clocked 40).diePower 7).held = true ∧ ((clocked 40).diePower 7).heldAt + 10000 ≤ ({ clocked 40 with now := 10000 } : State).now ∧
      ({ clocked 40 with now := 9999 } : State).now < ((clocked 40).diePower 7).heldAt + 10000) ∧
    (clocked 40).reg Reg.PLT_THERMAL_tj_target < 100 ∧ 85 ≤ (clocked 40).reg Reg.PLT_THERMAL_tj_target :=
  ⟨by decide, by decide, by decide, by decide, by decide +kernel,
    fun v h => ⟨serves (by decide), (by decide : ∀ v ∈ [40, 42], 22 ≤ v ∧ v ≤ 72 ∧ (clocked 40).reg (Reg.PLT_OPP_mult (5 - 1)) ≤ v ∧
      v ≤ (clocked 40).reg (Reg.PLT_OPP_mult (5 + 1))) v h⟩,
    by decide, by decide, by decide⟩

/-- A state in a stage of the anchor watch. -/
def staged (a : AnchorStage) : State := { State.reset with power := { State.reset.power with anchor := a } }

/-- The limit of VCD3 at each window's boundary and 1 mA below all three, and of the auxiliary rail, which feeds no die; a limit that acts
on a die; the cap, the input voltage and the input power at the values where their clauses meet; the first and last table entry. -/
theorem meets_ClocksVoltagesLimits_limits :
    ((staged .entering).power.anchor = .entering ∧ (staged .watching).power.anchor = .watching ∧ (staged .waking).power.anchor = .waking) ∧
    (State.reset.diePower 7).held = false ∧
    (railOver ⟨3, 520000, 0, 0, 9⟩ = true ∧ railOver ⟨3, 0, 460000, 0, 9⟩ = true ∧ railOver ⟨3, 0, 0, 400000, 9⟩ = true ∧
      railOver ⟨3, 519999, 459999, 399999, 9⟩ = false ∧ railDie? 3 = some 3 ∧ railDie? 25 = some 7 ∧ railDie? 26 = none) ∧
    ((3, 32) ∈ ({ State.reset.power with railActing := [(3, 32)] } : Power).railActing ∧ railDie? (3, 32).1 = some 3) ∧
    (hostServes State.reset ∧ 2800 % 4096 ≤ 2800 ∧ 2800 < 2801 % 4096 ∧ 22 ≤ State.reset.reg (Reg.PLT_OPP_mult (0 + 1)) ∧
      State.reset.reg (Reg.PLT_OPP_mult (63 - 1)) ≤ 72) :=
  ⟨⟨rfl, rfl, rfl⟩, by decide, by decide, by decide, serves (by decide), by decide⟩

/-- A measure of an interval in which phase 1 ran on die 0. -/
def measure : PilotMeasure :=
  { dies := List.replicate 10 ⟨[(1, 100)], 1000, 500, List.replicate 64 0, 60⟩, vin := 4800, pinW := 100, lossW := 1, auxW := 1, hbmW := 1, ioW := 1,
    energyDies := List.replicate 8 1, energyHbm := 1, energyIo := 1, energyRest := 1, weightDies := List.replicate 8 [], weightHbm := [],
    weightIo := [] }

/-- A Chart whose phase 1 learns. -/
def learning : Chart := { chart with phases := [⟨0, 0, 0, 0, false, true⟩, ⟨20, 1, 1, 1, true, true⟩] }

/-- Every compute die in phase 1, whose preferred entry is given. -/
def inPhase (pref : Nat) : State :=
  { ({ active [] with chart := some learning } : State).setRegs
      ((Reg.PLT_PHASE_pref 1, pref) :: (List.range 8).map (fun d => (Reg.PLT_DIE_phase d, 1))) with
    power := { Power.reset with dies := List.replicate 10 { State.reset.diePower 0 with fmax := 40 } } }

/-- A rail limit that has acted or none, in each stage of the anchor watch; busy cycles one below twice the wait cycles, at both ends of the
range in which the preferred entry stays and one above it; an entry below the dies' highest one and at it; a phase that does not learn. -/
theorem meets_PilotIntervals :
    measure.wf = true ∧
    (∀ acted : Bool, ∀ a ∈ [AnchorStage.awake, .entering, .watching, .waking], ∃ s : State, s.power.railActed = acted ∧ s.power.anchor = a) ∧
    ((((inPhase 5).phaseEntry? 1).map (·.learn)).getD false = true ∧ (((inPhase 5).phaseEntry? 0).map (·.learn)).getD false = false) ∧
    ((199 : Nat) < 2 * 100 ∧ 2 * 100 ≤ (200 : Nat) ∧ (800 : Nat) ≤ 8 * 100 ∧ 8 * 100 < (801 : Nat)) ∧
    (∀ n ∈ [17, 18], ∀ d < 8, (inPhase n).reg (Reg.PLT_DIE_phase d) = 1) ∧
    (inPhase 17).reg (Reg.PLT_PHASE_pref 1) < ((List.range 8).map (inPhase 17).fmaxEntry).foldl Nat.min 63 ∧
    ((List.range 8).map (inPhase 18).fmaxEntry).foldl Nat.min 63 ≤ (inPhase 18).reg (Reg.PLT_PHASE_pref 1) :=
  ⟨by decide, fun acted a _ => ⟨{ active [] with power := { Power.reset with railActed := acted, anchor := a } }, rfl, rfl⟩, by decide, by decide,
    by decide, by decide +kernel, by decide +kernel⟩

/-- The gates after an interval: with no phase of energy every die runs free, or a rail holds one below 64. -/
theorem meets_PilotIntervals_gates : (∀ d < 8, 64 ≤ (up ((List.range 8).map (fun d => (Reg.PLT_DIE_gate d, 64)))).reg (Reg.PLT_DIE_gate d)) ∧
    ∃ d < 8, (up [(Reg.PLT_DIE_gate 7, 63)]).reg (Reg.PLT_DIE_gate d) < 64 := ⟨by decide, 7, by decide, by decide⟩

theorem meets_AnchorWatch :
    (hostServes State.reset ∧ State.reset.power.anchor = .awake ∧ State.reset.anchorReady = true) ∧
    (hostServes (active [task 0 []]) ∧ (active [task 0 []]).power.anchor = .awake ∧ (active [task 0 []]).anchorReady = false) ∧
    (staged .entering).power.anchor = .entering ∧ (hostServes (staged .watching) ∧ (staged .watching).power.anchor = .watching) ∧
    ((staged .waking).power.anchor = .waking ∧ (staged .waking).power.keptDoorbells = []) :=
  ⟨⟨serves (by decide), by decide⟩, ⟨serves (by decide), by decide⟩, rfl, ⟨serves (by decide), rfl⟩, by decide⟩

/-! ### The host interface -/

/-- A state whose BAR2 is accepted, and vector 7 in its holdoff until 100. -/
def windowed (now : Nat) (w : Bool) : State :=
  { up [(Reg.DEV_FEAT_CTRL_committed, 1), (Reg.DEV_FEAT_ACCEPT_accept, 0x11)] with
    now := now, pcie := { State.reset.pcie with holdoff := [(7, 100, w)] } }

theorem meets_HostAccess :
    (hostServes (windowed 0 false) ∧ (windowed 0 false).bar2At? 64 4 = some 64 ∧
      (windowed 0 false).bar2At? (2 ^ (30 + (windowed 0 false).pcie.bar2Log2Gib)) 4 = none) ∧
    (∀ now ∈ [99, 100], ∀ w : Bool, (windowed now w).pcie.holdoff.find? (fun x => decide (x.1 = 7)) = some (7, 100, w) ∧ (windowed now w).now = now) ∧
    (hostServes (up [(Reg.SEC_STATUS_state, secRunning)]) ∧ (up [(Reg.SEC_STATUS_state, secRunning)]).reg Reg.SEC_STATUS_state ≠ secBooting) ∧
    (State.reset.carrier.power = .on ∧ State.reset.reg Reg.SEC_STATUS_state = secBooting) ∧
    State.reset.pcie.holdoff.find? (fun x => decide (x.1 = 2047)) = none :=
  ⟨⟨serves (by decide), by decide⟩, by decide, ⟨serves (by decide), by decide⟩, by decide, rfl⟩

/-- BAR2 accesses inside and past the window, in a state that reads without an error; no power, D3hot and RECOVERY. -/
theorem meets_HostAccess_refused :
    (∀ w ∈ [none, some [(1 : Byte), 2, 3, 4]], bootServes (windowed 0 false) ∧
      ((windowed 0 false).demandReads ((windowed 0 false).bar2Reads 64 w 4) []).bar2At? 64 4 = some 64 ∧
      ((windowed 0 false).demandReads ((windowed 0 false).bar2Reads (2 ^ 30) w 4) []).bar2At? (2 ^ 30) 4 = none) ∧
    (∀ c ∈ [PowerState.off, .auxOnly, .sequencing 2], ({ State.reset with carrier := { State.reset.carrier with power := c } } : State).carrier.power ≠ .on) ∧
    (∃ s : State, s.carrier.power = .on ∧ s.pcie.d3hot = true) ∧
    ∃ s : State, bootServes s ∧ s.reg Reg.SEC_STATUS_state = secRecovery :=
  ⟨fun w h => ⟨⟨rfl, rfl⟩, (by decide : ∀ w ∈ [none, some [(1 : Byte), 2, 3, 4]],
      ((windowed 0 false).demandReads ((windowed 0 false).bar2Reads 64 w 4) []).bar2At? 64 4 = some 64 ∧
      ((windowed 0 false).demandReads ((windowed 0 false).bar2Reads (2 ^ 30) w 4) []).bar2At? (2 ^ 30) 4 = none) w h⟩,
    by decide, ⟨{ State.reset with pcie := { State.reset.pcie with d3hot := true } }, rfl, rfl⟩,
    ⟨up [(Reg.SEC_STATUS_state, secRecovery)], ⟨rfl, rfl⟩, by decide⟩⟩

/-- A write whose bit 0 is set and offered, one that is not offered, one without bit 0, the first and last word before a commit and one after it. -/
theorem meets_FeatureAcceptance :
    (∃ s, hostServes s ∧ s.reg Reg.DEV_FEAT_CTRL_committed ≠ 1 ∧
      Nat.land (s.reg Reg.DEV_FEAT_ACCEPT_accept) s.boot.offer = s.reg Reg.DEV_FEAT_ACCEPT_accept ∧ bit (s.reg Reg.DEV_FEAT_ACCEPT_accept) 0 = true) ∧
    (∃ s, hostServes s ∧ s.reg Reg.DEV_FEAT_CTRL_committed ≠ 1 ∧
      Nat.land (s.reg Reg.DEV_FEAT_ACCEPT_accept) s.boot.offer ≠ s.reg Reg.DEV_FEAT_ACCEPT_accept) ∧
    (∃ s, hostServes s ∧ s.reg Reg.DEV_FEAT_CTRL_committed ≠ 1 ∧ bit (s.reg Reg.DEV_FEAT_ACCEPT_accept) 0 = false) ∧
    (∃ s, hostServes s ∧ s.reg Reg.DEV_FEAT_CTRL_committed = 1) ∧ aligned 0x30 4 = true ∧ aligned 0x48 8 = true :=
  ⟨⟨up [(Reg.DEV_FEAT_ACCEPT_accept, 0x3F)], serves (by decide), by decide⟩, ⟨up [(Reg.DEV_FEAT_ACCEPT_accept, 0x41)], serves (by decide), by decide⟩,
    ⟨State.reset, serves (by decide), by decide⟩, ⟨active [], serves (by decide), by decide⟩, by decide, by decide⟩

/-- A read of the task's, issued at 0, whose timer ends at a time. -/
def reader (now : Nat) : State :=
  { active [{ task 11 [2] with stage := 1 }] with now := now, pcie := { State.reset.pcie with reads := [⟨3, ⟨0, 0⟩, 0x1000, 64, 0, 0⟩] } }

theorem meets_HostDma :
    (∃ s t, engineRuns s t engHOST_DMA 1 ∧ True) ∧ (∃ s t, engineRuns s t engHOST_DMA 2 ∧ t.stage = 0) ∧
    (∃ s t, engineRuns s t engHOST_DMA 2 ∧ t.stage ≠ 0) ∧
    (∃ s : State, s.carrier.power = .on ∧ ∀ r ∈ s.pcie.reads, r.tag ≠ 16383) ∧
    (∀ now ∈ [roundUp (timeoutUs State.reset.pcie.cplTimeout * 100) 100 - 1, roundUp (timeoutUs State.reset.pcie.cplTimeout * 100) 100],
      (reader now).carrier.power = .on ∧ (reader now).pcie.reads.find? (fun r => decide (r.tag = 3)) = some ⟨3, ⟨0, 0⟩, 0x1000, 64, 0, 0⟩ ∧
        (reader now).now = now) ∧
    ∃ p, p ∈ hostPieces 0xFFC 512 8 :=
  ⟨here (one 11 [1]) (by decide) trivial, here (one 11 [2]) (by decide) (by decide), here (reader 0) (by decide) (by decide),
    ⟨State.reset, rfl, by decide⟩, by decide, (0, 4), by decide⟩

theorem meets_Resets : hostServes State.reset ∧ (0x4D525354 : Nat) % 2 ^ 32 = 0x4D525354 ∧ (0x4D525355 : Nat) % 2 ^ 32 ≠ 0x4D525354 ∧
    State.reset.accepted 1 = false := ⟨serves (by decide), by decide⟩

/-! ### Boot and security -/

/-- A flash write in progress. -/
def writing (recovery : Bool) (s : State) : State := { s with boot := { s.boot with writing := some ⟨[1], recovery⟩ } }

/-- A module whose helper data cannot be read. -/
def blank : State := { State.reset with binnacle := { State.reset.binnacle with helperReadable := false } }

set_option maxRecDepth 1000000 in
/-- The manufactured firmware passes its checks, in the slot and in memory. -/
theorem meets_BootAndUpdate_good :
    (bootServes (up [(Reg.SEC_STATUS_state, secRunning), (Reg.SEC_IMAGE_LEN_len, 256)]) ∧ State.reset.checkFirmware State.reset.binnacle.flash = 0) ∧
    ∃ s : State, bootServes s ∧ s.reg Reg.SEC_STATUS_state = secRunning ∧ s.reg Reg.SEC_STATUS_upd_state ≠ 1 ∧
      s.givenImage (s.reg Reg.SEC_IMAGE_ADDR_addr * 4096) = State.reset.binnacle.flash :=
  ⟨⟨⟨rfl, rfl⟩, by decide +kernel⟩,
    (up [(Reg.SEC_STATUS_state, secRunning), (Reg.SEC_IMAGE_LEN_len, 256)]).write 0 State.reset.binnacle.flash, ⟨by decide, by decide⟩, by decide, by decide,
    by decide +kernel⟩

set_option maxRecDepth 1000000 in
theorem meets_BootAndUpdate :
    (blank.carrier.power = .on ∧ blank.reg Reg.SEC_STATUS_state = secBooting ∧ blank.boot.waiting = false ∧
      blank.bootIdentity.boot.writing = none ∧ (writing false blank).bootIdentity.boot.writing ≠ none) ∧
    (∃ s : State, s.reg Reg.SEC_STATUS_state ≠ secBooting) ∧ (∃ s : State, s.boot.waiting = true ∧ s.carrier.power = .on) ∧
    (State.reset.binnacle.torn = false ∧ bootServes State.reset) ∧
    (∃ (s : State), s.binnacle.torn = false ∧ s.checkFirmware s.binnacle.flash = 1) ∧
    (∃ s : State, bootServes s ∧ s.reg Reg.SEC_STATUS_state = secRunning ∧ s.reg Reg.SEC_STATUS_upd_state ≠ 1 ∧
      s.checkFirmware (s.givenImage (s.reg Reg.SEC_IMAGE_ADDR_addr * 4096)) ≠ 0) ∧
    (∃ (s : State) (w : FlashWrite), s.boot.writing = some w ∧ w.recovery = false ∧ s.boot.waiting = false ∧ s.reg Reg.SEC_STATUS_upd_state = 1) ∧
    (∃ s : State, bootServes s ∧ s.reg Reg.SEC_STATUS_state = secRecovery ∧ s.boot.writing = none ∧ s.checkFirmware (s.givenImage 0) ≠ 0) ∧
    (∃ s : State, bootServes s ∧ s.reg Reg.SEC_STATUS_state = secRecovery ∧ s.boot.writing = none ∧ s.givenImage 0 = State.reset.binnacle.flash) ∧
    ∃ (s : State) (w : FlashWrite), s.boot.writing = some w ∧ w.recovery = true ∧ s.reg Reg.SEC_STATUS_state = secRecovery :=
  ⟨⟨rfl, by decide, rfl, by decide +kernel, by decide +kernel⟩,
    ⟨up [(Reg.SEC_STATUS_state, secRunning)], by decide⟩, ⟨{ State.reset with boot := { State.reset.boot with waiting := true } }, rfl, rfl⟩,
    ⟨rfl, rfl, rfl⟩, ⟨{ State.reset with binnacle := { State.reset.binnacle with flash := [] } }, rfl, by decide⟩,
    ⟨up [(Reg.SEC_STATUS_state, secRunning)], ⟨rfl, rfl⟩, by decide, by decide, by decide⟩,
    ⟨writing false (up [(Reg.SEC_STATUS_upd_state, 1)]), _, rfl, rfl, rfl, by decide⟩,
    ⟨up [(Reg.SEC_STATUS_state, secRecovery)], ⟨rfl, rfl⟩, by decide, rfl, by decide⟩,
    ⟨(up [(Reg.SEC_STATUS_state, secRecovery), (Reg.SEC_IMAGE_LEN_len, 256)]).write 0 State.reset.binnacle.flash, ⟨by decide, by decide⟩, by decide,
      by decide, by decide +kernel⟩,
    ⟨writing true (up [(Reg.SEC_STATUS_state, secRecovery)]), _, rfl, rfl, by decide⟩⟩

/-- A running module with an identity or without, an owner or none, and the front panel pressed at 0 or not. -/
def secure (identity : Nat) (owner : Option (List Byte)) (pressed : Option Nat) : State :=
  { up [(Reg.SEC_STATUS_state, secRunning), (Reg.SEC_STATUS_identity_valid, identity)] with
    binnacle := { State.reset.binnacle with ownerKey := owner },
    carrier := { State.reset.carrier with pressedAt := pressed } }

/-- The key pair of the private key [1] was worked out with RFC 8032; this is its public key. -/
def owner : List Byte :=
  leBytes 57 93124249553146292941183224649891620343771808045359691389782727854982372867861001796814561934340582776149598547058174115369353306105153348

/-- Its signature over a nonce of zeros and an identity fingerprint of zeros, in the context of RELEASE. -/
def released : List Byte :=
  leBytes 114 3298408411322331439549459416829260776696865504746557845138975737330353745470376880628095272784974905310156887049758661223467117048892127225103130363929639184393008687538410219361888183922851746480850062853249254198175948545024142350484868327574009766764745304554412822756

/-- The link statement of that key on port 3 under nonces of zeros, with its signature in the context of the link. -/
def peerStatement : List Byte :=
  leBytes 4 0x4E444951 ++ owner ++ [3] ++ leBytes 2 0xFFFF ++ List.replicate 64 0 ++
    leBytes 114 25980353413130829831000074309935309609966165918149640329287217868791467177026788244646904875325144879550876139858100119629555821463146215588799042955128915809371367285130499622095564660054719431061585601131390615200806544483598976248373213963574104167939372922027358861117

set_option maxRecDepth 1000000 in
/-- The five parts of that statement on a port whose nonces they name: it verifies; with another of the peer's nonces it does not. -/
theorem meets_ControlFlitsAndTimers_statement :
    (((chunks 56 peerStatement).zipIdx.map (fun c => c.1)).flatten.take 242 = peerStatement) ∧
    ({ Port.reset with ownNonce := List.replicate 32 0, peerNonce := List.replicate 32 0 } : Port).statementVerifies peerStatement = true ∧
    ({ Port.reset with ownNonce := List.replicate 32 0, peerNonce := List.replicate 32 1 } : Port).statementVerifies peerStatement = false := by
  decide +kernel

/-- A state whose owner may be released under a nonce issued at 0. -/
def owned2 : State := { secure 0 (some owner) none with pcie := { State.reset.pcie with nonce := some (List.replicate 32 0, 0) } }

set_option maxRecDepth 1000000 in
theorem meets_DoeMailbox :
    (∀ i ∈ [0, 1], (secure i none none).carrier.power = .on ∧ (secure i none none).reg Reg.SEC_STATUS_state = secRunning ∧
      (secure i none none).reg Reg.SEC_STATUS_identity_valid = i) ∧
    (secure 0 (some owner) none).binnacle.ownerKey ≠ none ∧
    ((secure 0 none none).binnacle.ownerKey = none ∧ (secure 0 none none).present = false ∧ (secure 0 none (some 0)).binnacle.ownerKey = none ∧
      (secure 0 none (some 0)).present = true) ∧ owner.length = 57 ∧ released.length = 114 ∧
    (owned2.binnacle.ownerKey = some owner ∧ owned2.chtState = chtNone ∧ owned2.releaseSigned owner released = true) ∧
    (secure 0 (some owner) none).releaseSigned owner released = false :=
  ⟨by decide, by decide, by decide, by decide, by decide, ⟨rfl, by decide, by decide +kernel⟩, by decide⟩

/-- The module in a power state. -/
def powered (p : PowerState) : State := { State.reset with carrier := { State.reset.carrier with power := p } }

/-- Every step of the power-up sequence; the window of 60 s at its end and a cycle before; both sides of the interlock's limits. -/
theorem meets_CarrierPowerAndTrips :
    (∀ n ∈ [0, 3, 4], (powered (.sequencing n)).carrier.power = .sequencing n ∧ (powered (.sequencing n)).carrier.inputOk = true) ∧
    State.reset.carrier.power = .on ∧ State.reset.carrier.power ≠ .off ∧ State.reset.power.rails.any id = true ∧
    (∃ s : State, s.carrier.power = .auxOnly ∧ s.carrier.restart = true) ∧
    ∃ s : State, s.carrier.pressedAt = some 0 ∧ s.now + 1 = 0 + 6000000000 :=
  ⟨by decide, rfl, by decide, by decide, ⟨{ State.reset with carrier := { State.reset.carrier with power := .auxOnly, restart := true } }, rfl, rfl⟩,
    ⟨{ secure 0 none (some 0) with now := 5999999999 }, rfl, rfl⟩⟩

theorem meets_Management :
    (State.reset.carrier.power ≠ .off ∧ State.reset.carrier.power = .on ∧ State.reset.power.rails.any id = true ∧ State.reset.chtState = chtNone) ∧
    ((powered .auxOnly).carrier.power = .auxOnly ∧ (powered .auxOnly).carrier.latchOpen = false) ∧
    (∃ s : State, s.carrier.power ≠ .off ∧ s.carrier.latchOpen = true) ∧
    (∃ s : State, s.carrier.power = .safe ∧ s.carrier.tripsPresent = [] ∧ s.binnacle.autoOn = false) ∧
    (∃ s : State, s.carrier.power = .safe ∧ s.carrier.tripsPresent ≠ []) ∧ (active []).chtState ≠ chtNone ∧
    (∀ b : List Byte, b ∈ [[7], [0, 0, 0, 0]] → b ≠ []) ∧ fieldLe ([7] : List Byte) 0 1 < 8 ∧
    ((secure 0 none none).carrier.power = .on ∧ (secure 0 none none).reg Reg.SEC_STATUS_state = secRunning ∧
      (secure 0 none none).binnacle.ownerKey = none ∧ (secure 0 (some owner) none).binnacle.ownerKey ≠ none) ∧
    ∃ k : Packet, k.wf = true ∧ k.op = pktMGMT ∧ fieldLe k.payload 0 1 = 1 :=
  ⟨by decide, by decide, ⟨{ State.reset with carrier := { State.reset.carrier with latchOpen := true } }, by decide⟩,
    ⟨{ powered .safe with binnacle := { State.reset.binnacle with autoOn := false } }, by decide⟩, ⟨{ powered .safe with carrier := { (powered .safe).carrier with tripsPresent := [4] } }, by decide⟩, by decide, by decide, by decide, by decide,
    ⟨packet 0x70 0 1, by decide⟩⟩

/-! ### Numbers and isolation -/

set_option exponentiation.threshold 400 in
/-- The highest and lowest sums of a record and of a cell, and sums at the bound. -/
theorem meets_ExactSums :
    (∃ a : Acc, -(2 : Int) ^ 191 ≤ a.v ∧ a.v = 2 ^ 191 - 1 ∧ a.anchor = -(2 : Int) ^ 15 ∧ a.count = 2 ^ 32 - 1) ∧
    (∃ c : ExactCell, c.s = -(2 : Int) ^ 311) ∧
    (∃ c a b : ExactCell, c.invalid = false ∧ (c.s + a.s).natAbs = 2 ^ 311 - 1 ∧ (c.s + b.s).natAbs < 2 ^ 311 ∧
      (c.s + a.s + b.s).natAbs < 2 ^ 311) ∧
    ∃ c e : ExactCell, c.invalid = false ∧ 2 ^ 311 ≤ (c.s + e.s).natAbs :=
  ⟨⟨⟨2 ^ 191 - 1, -(2 : Int) ^ 15, false, false, false, false, 2 ^ 32 - 1⟩, by decide⟩, ⟨{ ExactCell.zero with s := -(2 : Int) ^ 311 }, rfl⟩,
    ⟨ExactCell.zero, { ExactCell.zero with s := 2 ^ 311 - 1 }, { ExactCell.zero with s := -1 }, by decide⟩,
    ⟨{ ExactCell.zero with s := 1 }, { ExactCell.zero with s := 2 ^ 311 - 1 }, by decide⟩⟩

theorem meets_FormatsRoundTrip : ∀ f < 8, 1 < 2 ^ (fmtMagBits f + 1) ∧ (f = fmtINT8 → (1 : Nat) ≠ 128) ∧ (decodeElem f 1).isFinite = true := by decide +kernel

/-- A PUT of one byte of ones changes the byte. -/
theorem meets_RequestsStayInWindows : ∃ (s t : State) (k : Packet), s.power.anchor = .awake ∧ exec (.put k) s = .next t ∧
    t.mem.read 5 ≠ s.mem.read 5 := ⟨active [], _, packet 1 5 1, rfl, rfl, by decide +kernel⟩

theorem meets_ChartAndOwnerChanges : ∃ (c : Instr) (s t : State), exec c s = .next t ∧ mayChangeChart c = false ∧ mayChangeOwner c = false :=
  ⟨.getCert [], State.reset, _, rfl, rfl, rfl⟩

theorem meets_FamilyFrames : ∃ s t : State, exec (.copy ⟨⟨0, 0⟩, []⟩) s = .next t := ⟨one 6 (block 64 []), _, rfl⟩

/-! ### A Chart that passes its checks -/

/-- The smallest image: one module, its identity the fingerprint of the key store after reset, one group of tile 0, a phase table. -/
def imageBody : List Byte :=
  leBytes 4 0x54484351 ++ leBytes 2 1 ++ leBytes 2 0x0860 ++ leBytes 4 832 ++ leBytes 4 4 ++ leBytes 16 8647250710480313142481866319143575871 ++
    leBytes 8 7 ++ leBytes 24 0 ++
    (leBytes 4 0x101 ++ leBytes 4 1 ++ leBytes 4 32 ++ leBytes 4 0 ++ [1, 1, 1, 1] ++ leBytes 12 0) ++
    (leBytes 4 2 ++ leBytes 4 1 ++ leBytes 4 48 ++ leBytes 20 0 ++ leBytes 16 49073664382680352876790478089739942214) ++
    (leBytes 4 3 ++ leBytes 4 1 ++ leBytes 4 32 ++ leBytes 12 0 ++ leBytes 8 1) ++
    (leBytes 4 10 ++ leBytes 4 64 ++ leBytes 4 528 ++ leBytes 4 0 ++ (List.range 64).flatMap (fun p => leBytes 8 (p + (if p = 0 then 64 else 0))))

/-- With its owner's signature. -/
def image : List Byte :=
  imageBody ++ leBytes 114 17724841555899162076691848395372830769230196023938386439486771033152142196332344758265717472287700279297409640379546122597708861562743071391928054166147019655236769872165781418557184468489150189376550446962959265855016882827741637772044502312228539161083267787733051892627 ++
    leBytes 14 0

/-- The module of that owner with a valid identity, the image loaded. -/
def loaded : State := { secure 1 (some owner) none with load := some ⟨image, true, 0⟩ }

set_option maxRecDepth 1000000 in
theorem meets_ChartChecksEnd_passes : ∀ w : Bool, ∃ (s : State) (l : Load) (c : Chart), s.load = some l ∧ s.unloadWaiting = w ∧
    s.checkImage l = .ok c := by
  intro w
  have h : ∀ w : Bool, (match ({ loaded with unloadWaiting := w } : State).checkImage ⟨image, true, 0⟩ with
      | .ok _ => true | .error _ => false) = true := by decide +kernel
  have h := h w
  split at h
  · rename_i c hc
    exact ⟨{ loaded with unloadWaiting := w }, _, c, rfl, rfl, hc⟩
  · exact absurd h (by decide)

/-! ### Forms in their ordinary course -/

/-- A doorbell at both ends of what its ring holds, and a cq_head at cq_tail. -/
theorem meets_OrdinaryForms : ∀ v ∈ [0, 16], hostServes (ringAt []) ∧ (ringAt []).accepted 0 = true ∧ (ringAt []).power.anchor = .awake ∧
    ((ringAt []).ring 0).enabled = true ∧ (ringAt []).chtState = chtActive ∧ ((ringAt []).ringJob? 0).isSome ∧
    (v % 2 ^ 32 + 2 ^ 32 - ((ringAt []).ring 0).head) % 2 ^ 32 ≤ 2 ^ ((ringAt []).ring 0).log2Size ∧
    ((0 : Nat) % 2 ^ 32 + 2 ^ 32 - ((ringAt []).ring 0).cqHead) % 2 ^ 32 ≤
      (((ringAt []).ring 0).cqTail + 2 ^ 32 - ((ringAt []).ring 0).cqHead) % 2 ^ 32 :=
  fun v h => ⟨serves (by decide), (by decide : ∀ v ∈ [0, 16], (ringAt []).accepted 0 = true ∧ (ringAt []).power.anchor = .awake ∧
    ((ringAt []).ring 0).enabled = true ∧ (ringAt []).chtState = chtActive ∧ ((ringAt []).ringJob? 0).isSome ∧
    (v % 2 ^ 32 + 2 ^ 32 - ((ringAt []).ring 0).head) % 2 ^ 32 ≤ 2 ^ ((ringAt []).ring 0).log2Size ∧
    ((0 : Nat) % 2 ^ 32 + 2 ^ 32 - ((ringAt []).ring 0).cqHead) % 2 ^ 32 ≤
      (((ringAt []).ring 0).cqTail + 2 ^ 32 - ((ringAt []).ring 0).cqHead) % 2 ^ 32) v h⟩

/-- A record to write, and a task that owes no further signal. -/
theorem meets_OrdinaryForms_ends :
    (∃ (s : State) (w : WaitingRecord), (s.ring 0).waiting = [w] ∧ (s.ring 0).cqFull = false ∧ w.task = none ∧ w.interrupt = false) ∧
    ∃ (s : State) (t : Task), s.task? t.id = some t ∧ t.id.die < 8 ∧ t.phase = .signalling ∧ t.owed = [] :=
  ⟨⟨recording 15 (record none) [], record none, rfl, by decide, rfl, rfl⟩,
    ⟨active [{ task 0 [] with phase := .signalling }], { task 0 [] with phase := .signalling }, rfl, by decide, rfl, rfl⟩⟩

/-- A lookup of one own row of the live epoch, and a push of one. -/
theorem meets_OrdinaryForms_rows :
    (∃ s t, engineRuns s t engEDGE 0x20 ∧ ∃ x : OpenTable, (parseLookup t.args).pooled = false ∧ (parseLookup t.args).count = 1 ∧
      s.openTable? (parseLookup t.args).table = some x ∧
      (fun (c : TableCtx) =>
        (fun (p : List FetchedRow × Access) => p.1.length = 1 ∧ p.2.status = stOK ∧ p.2.missing = [])
          (s.fetchRows c (rowPayload x.format x.width) ((List.range 1).map (fun i =>
            s.resolve c (s.indexAt (s.key (parseLookup t.args).idx) (parseLookup t.args).idx64 i))) {}))
        (s.tableCtx t (t.rowTraffic [] (s.repliesFor t.id)).answers x (parseLookup t.args).epoch (parseLookup t.args).idx64)) ∧
    ∃ s t, engineRuns s t engEDGE 0x21 ∧ s.requestsOf t.id = [] ∧ s.fabric.waiting.all (fun w => !decide (w.1 = t.id)) = true ∧
      ∃ x : OpenTable, (parsePush t.args).count = 1 ∧ s.openTable? (parsePush t.args).table = some x :=
  ⟨here (tabled table2 (block 64 [(0, 1, 0x20), (2, 2, 2), (4, 2, 65535), (8, 4, 1)])) (by decide)
      ⟨table2, by decide, by decide, rfl, by decide⟩,
    here (tabled table2 (block 64 [(0, 1, 0x21), (2, 2, 2), (8, 4, 1)])) (by decide) ⟨by decide, by decide, table2, by decide, rfl⟩⟩

/-! ### Well-formedness -/

/-- A task of a die that the module does not have, and a packet of a payload above 4,096 bytes. -/
def badTask : TaskId := ⟨8, 0⟩
def badPacket : Packet := { Packet.blank with payload := List.replicate 4097 0 }

set_option maxRecDepth 20000 in
set_option exponentiation.threshold 600 in
/-- For every check of every command a command that it refuses. -/
theorem test_wellFormed_refuses :
    (∀ c ∈ ([.taskComplete badTask [], .successorSignalPlace badTask, .delayExpiry badTask, .deadlineExpiry badTask, .nop badTask, .copy ⟨badTask, []⟩,
     .copy ⟨⟨0, 0⟩, [⟨0xC000000000, [], false⟩]⟩, .copy2d ⟨badTask, []⟩, .copy2d ⟨⟨0, 0⟩, [⟨0, [72], false⟩]⟩, .fill badTask, .streamOpen badTask, .streamClose badTask, .sample badTask [], .lookup badTask [], .push badTask,
     .tableOpen badTask, .tableSwap badTask, .tableRefresh badTask [], .gather badTask [], .segReduce badTask [], .scatterAdd badTask,
     .intersect badTask, .product badTask, .productSparse badTask, .arrayPassStart badTask, .chain badTask, .grad badTask,
     .remotePut badTask, .remoteGet badTask, .remoteExactAcc badTask, .remoteNmAcc badTask, .remoteCas badTask, .remotePutSignal badTask,
     .collOpen badTask, .collClose badTask, .closeLedgerComplete badTask, .collectiveDeadline badTask, .barrier badTask,
     .broadcast badTask, .fix badTask, .fixDrained badTask, .norm badTask, .apply badTask, .store badTask, .root badTask,
     .exportRows badTask, .toHost badTask, .fromHost badTask] : List Instr), c.wf = false) ∧
    (∀ c ∈ ([.doorbellTail 32768 0 0 0, .cqHead 32768 0 0, .ringNop 32768, .tasks 32768, .signal 32768, .discard 32768, .fence 32768,
     .fenceCleared 32768, .taskRegister 32768, .completionRecordWrite 32768] : List Instr), c.wf = false) ∧
    (∀ c ∈ ([.nak 8 0, .keepalive 8, .ident 8 0 [], .width 8 0, .nakRepeat 8, .ackTimer 8, .ackProgressTimeout 8, .chartResend 8,
     .linkTrainStart 8, .equalisationEnd 8 true, .alignmentEnd 8 true [], .trainingRetry 8, .fecLockLost 8, .keepaliveLost 8, .accept 8,
     .retrain 8, .portEnable 8 true, .keepaliveTimer 8, .returnTo16Lanes 8] : List Instr), c.wf = false) ∧
    (∀ c ∈ ([.put badPacket, .get badPacket, .listGet badPacket, .exactAcc badPacket, .nmAcc badPacket, .cas badPacket, .putSignal badPacket,
     .mgmt badPacket, .ack badPacket, .getResp badPacket, .listResp badPacket, .casResp badPacket, .barUp badPacket, .barDown badPacket,
     .bcastData badPacket, .fixUp badPacket, .fixDown badPacket, .resetDown badPacket, .resetUp badPacket] : List Instr), c.wf = false) ∧
    ∀ c ∈ ([.dispatch 12 0, .dispatch 0 64, .streamBlockArrival 8 0 0 [], .streamBlockArrival 0 256 0 [], .streamBlockConsume 8 0 true,
     .streamBlockConsume 0 256 true, .bankCapEval 8 true true, .scrubCodeword 0xC000000000 [] true, .scrubCodeword 0 [72] true,
     .swapComplete 4096, .flitReceive 8 0 0 0 0, .flitReceive 0 0 0 0 (2 ^ 514), .ackCredit 8 0 (List.replicate 16 0),
     .ackCredit 0 0 [], .chart 8 0 0 0 0 (List.replicate 32 0), .chart 0 0 0 0 0 [], .packetGapTimeout 8 0, .packetGapTimeout 0 16,
     .breakNotice 8 Packet.blank, .breakNotice 0 badPacket, .parityError (.transfer 0xC000000000), .parityError (.tileEngine badTask 0), .parityError (.tileEngine ⟨0, 0⟩ 64),
     .parityError (.control badTask), .parityError (.ringEntry 32768), .parityError (.taskEntry badTask), .parityError (.sramCorrected (some 64)),
     .parityError (.sramUncorrectable 0), .pilotInterval { measure with dies := [] }, .pilotInterval { measure with energyDies := [] },
     .pilotInterval { measure with weightDies := [] }, .pilotInterval { measure with dies := List.replicate 10 ⟨[], 0, 0, [], 0⟩ },
     .multSlewStep 10, .voltageAdjust 8 0, .prefRevise 64 0 0 true, .railLimit ⟨27, 0, 0, 0, 0⟩ 1, .railLimit ⟨0, 0, 0, 0, 0⟩ 0,
     .railLimit ⟨0, 0, 0, 0, 0⟩ 65, .bar2Access 0 none false ⟨64, [⟨0, [72], true⟩]⟩, .droop 8 0,
     .droopPersist 8, .droopHoldEnd 8, .junctionThrottle 10 0, .ageingMeasure [], .oppWrite 64 0, .msixHoldoffEnd 2048, .msixUnmask 2048,
     .hostCompletion 16384 .success true [], .hostTimeout 16384] : List Instr), c.wf = false := by
  refine ⟨by decide, by decide, by decide, by decide, by decide⟩

/-- An ill-formed command stops the block with its one fault. -/
theorem test_illFormed_faults : step { State.reset with pending := [.fence 32768] } = .fault .noSuchUnit := rfl

/-! ### Words -/

/-- The table gives no row bits: no word spells a command, and the queue stays as it is. -/
theorem test_no_word_spells_a_command (nbits w : Nat) : decodeTableWord nbits w = none ∧ State.reset.withFetchWord nbits w = State.reset :=
  ⟨rfl, rfl⟩

/-! ### The spec's worked examples and published test vectors -/

/-- 07's block of activations: 250, 0.75 and a value below half of 2^−9 in E4M3. -/
theorem test_E4M3_example : (convertRne fmtE4M3 (.fin false 250 0)).1 = 0x78 ∧ (convertRne fmtE4M3 (.fin false 3 (-2))).1 = 0x34 ∧
    (convertRne fmtE4M3 (.fin false 1 (-12))).1 = 0 ∧ (convertRne fmtE4M3 (.fin false 1 (-12))).2.vanish = 1 := by decide

/-- 07's gradient element: 0.3 lies 0.8 of the way from 0.25 to 0.3125, so it rounds up below 52,428 (0.3 as 314,572 ÷ 2^20 and a bit). -/
theorem test_E5M2_stochastic_example : (convertSr fmtE5M2 52427 (.fin false 5033165 (-24))).1 = 0x35 ∧
    (convertSr fmtE5M2 52428 (.fin false 5033164 (-24))).1 = 0x34 := by decide

set_option exponentiation.threshold 400 in
/-- 14's checksum: 1.5 and −0.25 sum to 1.25 in a cell, and so do their residues. -/
theorem test_checksum_example : csumTerm 0 (fp32Cell 0x3FC00000).s = 201326592 ∧
    (csumTerm 0 (fp32Cell 0x3FC00000).s + csumTerm 0 (fp32Cell 0xBE800000).s) % csumP = 167772160 ∧
    (fp32Cell 0x3FC00000).add (fp32Cell 0xBE800000) = fp32Cell 0x3FA00000 := by decide

/-- 13's put: the pieces of 10,000 bytes at 0x1_0F00. -/
theorem test_put_pieces_example :
    (parseRemote (block 64 [(0, 1, 1), (4, 4, 10000), (0x10, 8, 0x10F00)])).pieces.map (·.bytes) = [256, 4096, 4096, 1552] := by decide

/-- Module 0x0321 of the 4 × 4 × 4 torus, and the modules on its way to 0x0030. -/
def torus (node : Nat) : State :=
  { active [] with chart := some { chart with extents := [4, 4, 4, 1], nodeId := node } }

/-- 13's route from 0x0321 to 0x0030: by P0, then P3, then P5. -/
theorem test_route_example : ∀ p ∈ [(0x321, 0), (0x320, 3), (0x330, 5)],
    ({ torus p.1 with regs := ((List.range 8).foldl (fun (s : State) q => s.setReg (Reg.FAB_P_STATE_state q) psUP) (torus p.1)).regs }).route 0x0030 1 =
      some (some p.2) := by decide

/-- 03's ring of 4,096 entries with head at 8,186. -/
def longRing : State := { active [] with rings := [{ ring0 with head := 8186, tail := 8186, log2Size := 12 }] }

/-- A tail of 8,196 is taken, and one of 12,283 is ignored and counted. -/
theorem test_ring_wrap_example :
    exec (.doorbellTail 0 0 4 8196) longRing = .next (longRing.setRing { longRing.ring 0 with tail := 8196 }) ∧
      exec (.doorbellTail 0 0 4 12283) longRing = .next (longRing.bump Reg.SCH_CNT_DOORBELL_IGNORED 1) := ⟨rfl, rfl⟩

/-- 18's reading of 1 MiB in requests of 4,096 bytes. -/
theorem test_host_read_example : (hostPieces 0x100000 4096 1048576).length = 256 ∧ ∀ p ∈ hostPieces 0x100000 4096 1048576, p.2 = 4096 := by
  decide +kernel

/-- 06's row: row 2,000,000,000 of 64 equal shards. -/
theorem test_shard_example :
    let m : OwnerMap := ⟨5, 1, 129, 3100000000, (List.range 64).map (fun i => (48437500 * i, i))⟩
    m.owner? 2000000000 = some 41 ∧ m.localIndex 2000000000 41 = 14062500 ∧ roundUp 129 64 = 192 := by decide +kernel

/-- CRC-24 of RFC 4880 over the digits 1 to 9; SHAKE256 of nothing (FIPS 202); the public key of RFC 8032's first Ed448 vector. -/
theorem test_crc24_vector : crc24 (ascii "123456789") = 0x21CF02 := by decide +kernel

set_option maxRecDepth 1000000 in
theorem test_shake256_vector : (shake256 [] 8).map (·.toNat) = [0x46, 0xB9, 0xDD, 0x2B, 0x0B, 0xA8, 0x8D, 0x13] := by decide +kernel

set_option maxRecDepth 1000000 in
theorem test_ed448_vector :
    leNat (edPublic (leBytes 57 66850973949466274195823839272609099707756872054070757936724650661569142699601529885353428987140703348698854342354460717824899972130505324)) =
      93311180880998663061588898581357940613434376382822916347599311465164550738419377722548070897195110608138391268334742042988470188407838559 := by
  decide +kernel

end Sys2Proof.Tests
end

section
namespace Sys2Proof.Machine

open Sys2Proof

section

-- As in the model's Laws: one declaration after another keeps the joined text within the check's memory.
set_option Elab.async false

/-! ### How a command answers -/

/-- A command that names units the module has answers its effect. -/
theorem perform_of_wf {c : Instr} (h : c.wf = true) (t : State) : perform c t = .next t := if_pos h

/-- A command that names a unit the module lacks is a fault. -/
theorem perform_of_not_wf {c : Instr} (h : c.wf = false) (t : State) : perform c t = .fault .noSuchUnit :=
  if_neg (by simp [h])

/-- Every meaning is one effect on the state, under the check of the units that its command names. -/
theorem exec_eq_perform (c : Instr) (s : State) : ∃ t, exec c s = perform c t := by
  cases c <;> exact ⟨_, rfl⟩

/-- Settles O3: every command is performed, and the units it names decide between its effect and the fault. -/
theorem everyCommandAnswers : Obligations.EveryCommandAnswers := by
  intro c s
  obtain ⟨t, ht⟩ := exec_eq_perform c s
  rw [ht]
  exact ⟨fun h => ⟨t, perform_of_wf h t⟩, fun h => perform_of_not_wf h t⟩

/-! ### What the host reaches -/

/-- The host's write to a boot and attestation register takes effect. -/
theorem State.secWrite_of_bootServes {s : State} (h : bootServes s) (t : State) : s.secWrite t = t := by
  obtain ⟨hpower, hd0⟩ := h
  simp [State.secWrite, State.powered, hpower, hd0]

/-- The host's write to any other register takes effect. -/
theorem State.hostWrite_of_hostServes {s : State} (h : hostServes s) (t : State) : s.hostWrite t = t := by
  obtain ⟨hboot, hrun⟩ := h
  rw [State.hostWrite, if_neg hrun, State.secWrite_of_bootServes hboot]

/-- Outside RECOVERY a REGISTER_WRITE of a supported size, aligned and outside the MSI-X table, writes the registers there. -/
theorem exec_registerWrite_of_hostServes {s : State} (h : hostServes s) {off size : Nat} (value : Nat)
    (ha : aligned off size = true) (hoff : off < msixTable) :
    exec (.registerWrite off size value) s = .next (s.regWrite off size value) := by
  obtain ⟨hboot, hrun⟩ := h
  have hserved : s.bar0Served off = true := by simp [State.bar0Served, hrun]
  have hmsix : ¬ (msixTable ≤ off ∧ off < msixTableEnd) := fun hm => Nat.not_le.2 hoff hm.1
  show perform (.registerWrite off size value) (s.secWrite (s.bar0Write off size value)) = _
  rw [perform_of_wf rfl, State.secWrite_of_bootServes hboot]
  simp [State.bar0Write, ha, hserved, hmsix]

/-! ### Fields that a write covers -/

/-- A bit as a number. -/
theorem flag_bit (v i : Nat) : flag (bit v i) = v / 2 ^ i % 2 := by
  unfold flag bit
  split <;> simp_all

/-- The low bits of a value, summed. -/
theorem sum_low_bits (v n : Nat) :
    (List.range n).foldl (fun a k => a + flag (bit v k) * 2 ^ k) 0 = v % 2 ^ n := by
  induction n with
  | zero => simp [Nat.mod_one]
  | succ n ih =>
    rw [List.range_succ, List.foldl_append, ih, List.foldl_cons, List.foldl_nil, flag_bit, Nat.pow_succ,
      Nat.mod_mul, Nat.mul_comm]

/-- A write from a register's first byte on that covers a field writes the value's bits at the field's place. -/
theorem merged_of_covered (f : Field) (old size value : Nat) (h : f.lo + f.width ≤ 8 * size) :
    merged f old f.off size value = value / 2 ^ f.lo % 2 ^ f.width := by
  rw [← sum_low_bits]
  unfold merged
  refine List.foldl_ext _ _ _ (fun a k hk => ?_)
  have hk := List.mem_range.1 hk
  have hin : 8 * (f.off - f.off) ≤ f.lo + k ∧ f.lo + k < 8 * (f.off - f.off) + 8 * size := by omega
  have hbit : bit value (f.lo + k - 8 * (f.off - f.off)) = bit (value / 2 ^ f.lo) k := by
    simp [bit, Nat.div_div_eq_div_mul, Nat.pow_add]
  simp only [hin, and_self, if_true, hbit]

/-- A RW field that a write covers whole and that has no row of its own takes the value's bits, unless they are a reserved
encoding or the field ignores writes now (R6). -/
theorem State.writeField_rw (s : State) {f : Field} {size : Nat} (value : Nat) (hty : f.ty = .rw) (hw : 0 < f.width)
    (h : f.lo + f.width ≤ 8 * size) (hown : hasOwnRow f = false) {v : Nat} (hv : v = value / 2 ^ f.lo % 2 ^ f.width) :
    s.writeField f.off size value f = if f.permits v && !s.writeIgnored f v then s.putField f v else s := by
  have hcov : covers f f.off size = true := by simp [covers]; omega
  simp [State.writeField, hcov, hown, hty, merged_of_covered, h, hv]

/-- A field of one W1C bit that has no row of its own. -/
def Field.isW1cBit (f : Field) : Bool :=
  decide (f.ty = .w1c) && decide (f.width = 1) && decide (f.lo < 64) && !hasOwnRow f

/-- An 8-byte write clears a W1C bit where the written bit is 1 and keeps it where it is 0 (R7). -/
theorem State.writeField_w1cBit (s : State) {f : Field} (value : Nat) (hf : f.isW1cBit = true) :
    ∃ v, s.writeField f.off 8 value f = s.setReg f v ∧ v % 2 ^ f.width = if bit value f.lo then 0 else s.reg f % 2 := by
  obtain ⟨⟨⟨hty, hw⟩, hlo⟩, hown⟩ : ((f.ty = .w1c ∧ f.width = 1) ∧ f.lo < 64) ∧ hasOwnRow f = false := by
    simpa [Field.isW1cBit] using hf
  have hcov : covers f f.off 8 = true := by simp [covers]; omega
  refine ⟨Nat.land (s.reg f) (2 ^ f.width - 1 - merged f 0 f.off 8 value), by simp [State.writeField, hcov, hown, hty], ?_⟩
  rw [merged_of_covered f 0 8 value (by omega), hw, Nat.pow_one, ← flag_bit]
  cases bit value f.lo
  · show (s.reg f &&& 1) % 2 = s.reg f % 2
    rw [Nat.and_one_is_mod, Nat.mod_mod]
  · show (s.reg f &&& 0) % 2 = 0
    rw [Nat.and_zero]

/-- An 8-byte write to W1C bits of one register: each clears where the written bit is 1, and nothing else changes (R7). -/
theorem State.write_w1cBits (off value : Nat) (l : List Field) (hl : ∀ f ∈ l, f.off = off ∧ f.isW1cBit = true)
    (hd : (l.map Field.key).Nodup) (s : State) :
    let t := l.foldl (fun a f => a.writeField off 8 value f) s
    Keeps [.regs] s t ∧ (∀ f ∈ l, t.reg f = if bit value f.lo then 0 else s.reg f % 2) ∧
      ∀ g : Field, (∀ f ∈ l, g.key ≠ f.key) → t.reg g = s.reg g := by
  induction l generalizing s with
  | nil => exact ⟨Keeps.refl _ _, by simp, fun _ _ => rfl⟩
  | cons e r ih =>
    obtain ⟨heoff, he⟩ := hl e (List.mem_cons_self ..)
    obtain ⟨hnew, hdr⟩ := List.nodup_cons.1 hd
    have hne : ∀ f ∈ r, f.key ≠ e.key := fun f hf h => hnew (h ▸ List.mem_map_of_mem hf)
    obtain ⟨v, hset, hv⟩ := s.writeField_w1cBit value he
    rw [heoff] at hset
    obtain ⟨hkeep, hbits, hother⟩ := ih (fun f hf => hl f (List.mem_cons_of_mem _ hf)) hdr (s.setReg e v)
    simp only [List.foldl_cons, hset]
    refine ⟨hkeep.after (State.setReg_keeps ..), fun f hf => ?_, fun g hg => ?_⟩
    · rcases List.mem_cons.1 hf with rfl | hf
      · rw [hother f (fun x hx => (hne x hx).symm), State.reg_setReg_self, hv]
      · rw [hbits f hf, State.reg_setReg_other _ _ (hne f hf)]
    · rw [hother g (fun f hf => hg f (List.mem_cons_of_mem _ hf)),
        State.reg_setReg_other _ _ (hg e (List.mem_cons_self ..))]

/-- The one field of SND_CFG. -/
theorem fieldsAt_SND_CFG : fieldsAt 0x300000 = [Reg.SND_CFG_remote_limit] := by decide

/-- The fields of FAB_EVENT. -/
theorem fieldsAt_FAB_EVENT : fieldsAt 0x400060 =
    [Reg.FAB_EVENT_break_changed, Reg.FAB_EVENT_mgmt_only, Reg.FAB_EVENT_link_up, Reg.FAB_EVENT_link_down,
      Reg.FAB_EVENT_peer_changed] := by decide

/-- A write of 4 or 8 bytes to SND_CFG takes a permitted remote_limit and leaves a reserved encoding (R6, R125). -/
theorem State.regWrite_SND_CFG (s : State) {size : Nat} (value : Nat) (hs : 4 ≤ size) :
    s.regWrite 0x300000 size value =
      if 1 ≤ value % 4096 ∧ value % 4096 ≤ 2048 then s.setReg Reg.SND_CFG_remote_limit (value % 4096) else s := by
  have hput : s.putField Reg.SND_CFG_remote_limit (value % 4096) = s.setReg Reg.SND_CFG_remote_limit (value % 4096) := rfl
  have hfree : s.writeIgnored Reg.SND_CFG_remote_limit (value % 4096) = false := rfl
  have hfield := s.writeField_rw (f := Reg.SND_CFG_remote_limit) (size := size) value rfl (by decide)
    (show 0 + 12 ≤ 8 * size by omega) (by decide) (v := value % 4096) (by simp [Reg.SND_CFG_remote_limit])
  rw [State.regWrite, fieldsAt_SND_CFG, List.foldl_cons, List.foldl_nil]
  refine hfield.trans ?_
  rw [hput, hfree]
  simp [Field.permits, Reg.SND_CFG_remote_limit]

/-- A write to SND_CFG by the host. -/
theorem exec_registerWrite_SND_CFG {s : State} (h : hostServes s) {size : Nat} (value : Nat) (hs : size = 4 ∨ size = 8) :
    exec (.registerWrite 0x300000 size value) s =
      .next (if 1 ≤ value % 4096 ∧ value % 4096 ≤ 2048 then s.setReg Reg.SND_CFG_remote_limit (value % 4096) else s) := by
  have ha : aligned 0x300000 size = true := by rcases hs with rfl | rfl <;> decide
  rw [exec_registerWrite_of_hostServes h value ha (by decide), State.regWrite_SND_CFG s value (by omega)]

/-- Settles O8: SND_CFG by its one RW field, and FAB_EVENT by the effect of a write on W1C bits. -/
theorem registerWrites : Obligations.RegisterWrites := by
  refine ⟨fun s value hs => ⟨fun hmin hmax => ?_, fun hbad => ?_⟩, fun s value hs => ?_⟩
  · have hok : 1 ≤ value % 4096 ∧ value % 4096 ≤ 2048 := ⟨hmin, hmax⟩
    rw [exec_registerWrite_SND_CFG hs value (.inr rfl), exec_registerWrite_SND_CFG hs value (.inl rfl), if_pos hok]
    exact ⟨rfl, rfl⟩
  · have hno : ¬ (1 ≤ value % 4096 ∧ value % 4096 ≤ 2048) := by omega
    rw [exec_registerWrite_SND_CFG hs value (.inr rfl), exec_registerWrite_SND_CFG hs value (.inl rfl), if_neg hno]
    exact ⟨rfl, rfl⟩
  · obtain ⟨⟨honly, _, _⟩, hbits, hother⟩ :=
      State.write_w1cBits 0x400060 value (fieldsAt 0x400060) (by decide) (by decide) s
    refine ⟨s.regWrite 0x400060 8 value, exec_registerWrite_of_hostServes hs value (by decide) (by decide), honly,
      fun f hf => hbits f ?_, fun g hoff hlo => hother g fun f hf => ?_⟩
    · rw [fieldsAt_FAB_EVENT]
      revert f
      decide
    · have hf : f.off = 0x400060 ∧ f.lo < 64 := by revert f; decide
      unfold Field.key
      omega

/-! ### Reset -/

/-- A register that nothing has written reads its reset value. -/
theorem State.reg_of_regs_nil {s : State} (h : s.regs = []) (f : Field) : s.reg f = f.reset := by
  rw [State.reg, h]
  rfl

/-- Settles O50: no register is written and no cell is listed, so each reads its reset value and zero. -/
theorem resetState : Obligations.ResetState :=
  ⟨rfl, rfl, State.reg_of_regs_nil rfl _, State.reg_of_regs_nil rfl, fun _ => rfl, State.reset_mem_wf,
    State.reg_of_regs_nil rfl _, State.reg_of_regs_nil rfl _, rfl, rfl, rfl⟩

/-! ### What the links change

A change of a link's state posts events and sends packets: of the registers it may change those of the torus and the event
ring's tail and losses, and memory only by an event record. What closes streams besides counts in the memory system's
registers. -/

/-- The keys of the registers that the links and the memory queues change by themselves: blocks 2 and 4, and the event ring's
tail and losses. -/
def linkKey (k : Nat) : Prop :=
  k / 2 ^ 26 = 2 ∨ k / 2 ^ 26 = 4 ∨ k = Reg.DEV_EVQ_PTR_tail.key ∨ k = Reg.DEV_CNT_EVENT_LOST.key ∨
    k = Reg.DEV_EVENT_event_lost.key

/-- From s to t no other register has changed, and memory has not where no event ring is accepted. -/
def LinkEffect (s t : State) : Prop :=
  (∀ g : Field, ¬ linkKey g.key → t.reg g = s.reg g) ∧ (s.accepted 1 = false → t.mem = s.mem)

/-- The keys of the registers of a feature's acceptance and of the Chart's state are none of them. -/
theorem not_linkKey_chart : ∀ f ∈ [Reg.DEV_FEAT_CTRL_committed, Reg.DEV_FEAT_ACCEPT_accept, Reg.CHT_STATUS_state],
    ¬ linkKey f.key := by
  unfold linkKey
  decide

/-- A feature that is accepted stays accepted, and one that is not stays so. -/
theorem LinkEffect.accepted {s t : State} (h : LinkEffect s t) (f : Nat) : t.accepted f = s.accepted f := by
  unfold State.accepted
  rw [h.1 _ (not_linkKey_chart _ (by simp)), h.1 _ (not_linkKey_chart _ (by simp))]

/-- The Chart's state stays. -/
theorem LinkEffect.chtState {s t : State} (h : LinkEffect s t) : t.chtState = s.chtState :=
  h.1 _ (not_linkKey_chart _ (by simp))

/-- One effect after another. -/
theorem LinkEffect.trans {s t u : State} (h1 : LinkEffect s t) (h2 : LinkEffect t u) : LinkEffect s u :=
  ⟨fun g hg => (h2.1 g hg).trans (h1.1 g hg), fun ha => (h2.2 ((h1.accepted 1).trans ha)).trans (h1.2 ha)⟩

/-- What changes neither registers nor memory. -/
theorem LinkEffect.of_keeps {ps : List Part} {s t : State} (h : Keeps ps s t) (hr : ps.contains .regs = false := by rfl)
    (hm : ps.contains .mem = false := by rfl) : LinkEffect s t :=
  ⟨fun g _ => State.reg_congr (h.1 .regs hr) g, fun _ => h.1 .mem hm⟩

theorem LinkEffect.refl (s : State) : LinkEffect s s := .of_keeps (Keeps.refl [] s)

/-- An effect under a condition. -/
theorem LinkEffect.ite {c : Prop} [Decidable c] {s t u : State} (h1 : LinkEffect s t) (h2 : LinkEffect s u) :
    LinkEffect s (if c then t else u) := by
  split
  · exact h1
  · exact h2

/-- One effect more under a condition. -/
theorem LinkEffect.thenIf {c : Prop} [Decidable c] {s t u : State} (h1 : LinkEffect s t) (h2 : LinkEffect t u) :
    LinkEffect s (if c then u else t) :=
  .ite (h1.trans h2) h1

/-- Effects in order. -/
theorem LinkEffect.foldl {α : Type} {f : State → α → State} (l : List α) (s : State)
    (hf : ∀ t, ∀ a ∈ l, LinkEffect t (f t a)) : LinkEffect s (l.foldl f s) := by
  induction l generalizing s with
  | nil => exact .refl s
  | cons a r ih => exact (hf s a (List.mem_cons_self ..)).trans (ih _ fun t b hb => hf t b (List.mem_cons_of_mem _ hb))

/-- Setting one of these registers. -/
theorem State.setReg_linkEffect (s : State) {f : Field} (hf : linkKey f.key) (v : Nat) : LinkEffect s (s.setReg f v) :=
  ⟨fun _ hg => State.reg_setReg_other _ _ fun h => hg (h ▸ hf), fun _ => rfl⟩

/-- Counting in one of these registers. -/
theorem State.bump_linkEffect (s : State) {f : Field} (hf : linkKey f.key) (n : Nat) : LinkEffect s (s.bump f n) :=
  s.setReg_linkEffect hf _

/-- Posting an event of the torus. -/
theorem State.post_linkEffect (s : State) {e : Field} (he : linkKey e.key) (unit arg0 arg1 : Nat) :
    LinkEffect s (s.post e unit arg0 arg1) := by
  refine (s.setReg_linkEffect he 1).trans ⟨fun g hg => ?_, fun ha => ?_⟩
  · have hne : ∀ f : Field, linkKey f.key → g.key ≠ f.key := fun f hf h => hg (h ▸ hf)
    exact State.reg_eventRing_other _ _ _ _ _ (hne _ (by unfold linkKey; decide)) (hne _ (by unfold linkKey; decide))
      (hne _ (by unfold linkKey; decide))
  · rw [State.post, State.eventRing]
    simp [ha]

/-- The registers of a port. -/
theorem linkKey_port {p : Nat} (hp : p < 8) : ∀ f ∈ [Reg.FAB_P_STATE_state p, Reg.FAB_P_STATE_reason p, Reg.FAB_P_CNT_TX p],
    linkKey f.key := by
  intro f hf
  simp only [List.mem_cons, List.not_mem_nil, or_false] at hf
  refine .inr (.inl ?_)
  rcases hf with rfl | rfl | rfl <;> simp only [Field.key, Reg.FAB_P_STATE_state, Reg.FAB_P_STATE_reason, Reg.FAB_P_CNT_TX] <;>
    omega

/-- The torus' events. -/
theorem linkKey_event : ∀ f ∈ fieldsAt 0x400060, linkKey f.key := by
  unfold linkKey
  decide

/-- A port sends what it may send. -/
theorem State.pump_linkEffect (s : State) {p : Nat} (hp : p < 8) : LinkEffect s (s.pump p) := by
  unfold State.pump
  generalize (s.port p).waitingFlits = n
  induction n generalizing s with
  | zero => exact .refl s
  | succ n ih =>
    unfold State.pumpFuel
    dsimp only
    split
    · exact .refl s
    · split
      · exact .refl s
      · split
        · exact .refl s
        · refine .trans ?_ (ih _)
          refine .trans ?_ (.of_keeps (State.flitLeft_keeps ..))
          refine .trans ?_ (.of_keeps (State.emit_keeps ..))
          refine .trans ?_ (State.bump_linkEffect _ (linkKey_port hp _ (by simp)) _)
          exact .of_keeps (State.setPort_keeps ..)

/-- A packet is queued on a port. -/
theorem State.enqueue_linkEffect (s : State) {p : Nat} (hp : p < 8) (k : Packet) : LinkEffect s (s.enqueue p k) := by
  unfold State.enqueue State.queueOn
  refine .trans ?_ (State.pump_linkEffect _ hp)
  refine .trans ?_ (.of_keeps (State.askFull_keeps ..))
  exact .of_keeps (State.setPort_keeps ..)

/-- The way round a ring leaves by one of the ring's two ports. -/
theorem State.legPort_half {s : State} {d c t tc p : Nat} (h : s.legPort d c t tc = some p) : p / 2 = d := by
  unfold State.legPort at h
  dsimp only at h
  split at h
  · cases h
    omega
  · split at h
    · cases h
      omega
    · cases h

/-- A route leaves by one of the eight ports. -/
theorem State.route_lt {s : State} {dst tc p : Nat} (h : s.route dst tc = some (some p)) : p < 8 := by
  unfold State.route at h
  split at h
  · cases h
  · split at h
    · cases h
    · dsimp only at h
      split at h
      · cases h
      · rename_i d hd
        have hd4 : d < 4 := List.mem_range.1 (List.mem_of_find?_eq_some hd)
        split at h
        · cases h
        · obtain ⟨q, hq, he⟩ := Option.map_eq_some_iff.1 h
          cases he
          have := State.legPort_half hq
          omega

/-- A packet of this module leaves, arrives at once, or is counted. -/
theorem State.sendPacket_linkEffect (s : State) (k : Packet) : LinkEffect s (s.sendPacket k) := by
  unfold State.sendPacket State.sendPacket?
  split
  · exact s.bump_linkEffect (by unfold linkKey; decide) 1
  · exact .of_keeps (Keeps.made_fabric (Keeps.refl [.fabric] s))
  · rename_i p hp
    exact s.enqueue_linkEffect (State.route_lt hp) _

/-- A request is answered. -/
theorem State.respond_linkEffect (s : State) (k : Packet) (status : Nat) : LinkEffect s (s.respond k status) :=
  .ite (s.sendPacket_linkEffect _) (.refl s)

/-- A BREAK notice is sent. -/
theorem State.sendNotice_linkEffect (s : State) {p : Nat} (hp : p < 8) (dst src arg : Nat) :
    LinkEffect s (s.sendNotice p dst src arg) :=
  .ite (s.enqueue_linkEffect hp _) (.refl s)

/-- The notices of a port's own link. -/
theorem State.noticeOwn_linkEffect (s : State) {p : Nat} (hp : p < 8) : LinkEffect s (s.noticeOwn p) := by
  unfold State.noticeOwn
  dsimp only
  split
  · exact .refl s
  · exact .ite (.refl s)
      ((State.sendNotice_linkEffect _ (by omega) ..).trans (State.sendNotice_linkEffect _ (by omega) ..))

/-- The break maps are compared with what they were. -/
theorem State.breakChanged_linkEffect (s : State) (before : List Nat) : LinkEffect s (s.breakChanged before) :=
  .ite (.refl s) (s.post_linkEffect (linkKey_event _ (by decide)) ..)

/-- A link takes a state and a reason. -/
theorem State.setLink_linkEffect (s : State) {p : Nat} (hp : p < 8) (state reason : Nat) :
    LinkEffect s (s.setLink p state reason) := by
  have hpost : ∀ (t : State), ∀ e ∈ fieldsAt 0x400060, LinkEffect t (t.post e p) := fun t e he =>
    t.post_linkEffect (linkKey_event e he) ..
  unfold State.setLink
  refine .trans ?_ (State.pump_linkEffect _ hp)
  refine .thenIf ?_ (State.noticeOwn_linkEffect _ hp)
  refine .trans ?_ (State.breakChanged_linkEffect ..)
  refine .thenIf ?_ (hpost _ Reg.FAB_EVENT_mgmt_only (by decide))
  refine .thenIf ?_ (hpost _ Reg.FAB_EVENT_link_down (by decide))
  refine .thenIf ?_ (hpost _ Reg.FAB_EVENT_link_up (by decide))
  exact (s.setReg_linkEffect (linkKey_port hp _ (by simp)) state).trans
    (State.setReg_linkEffect _ (linkKey_port hp _ (by simp)) reason)

/-- Links that are UP become MGMT_ONLY. -/
theorem State.linksLose_linkEffect (s : State) : LinkEffect s s.linksLose :=
  .foldl _ s fun t _ hp => .ite (t.setLink_linkEffect (List.mem_range.1 hp) ..) (.refl t)

/-- The Chart check of a port. -/
theorem State.chartCheck_linkEffect (s : State) {p : Nat} (hp : p < 8) : LinkEffect s (s.chartCheck p) :=
  .ite (.refl s) (.ite (.refl s) (s.setLink_linkEffect hp ..))

/-- The ports hear of a new Chart state. -/
theorem State.chartChanged_linkEffect (s : State) : LinkEffect s s.chartChanged :=
  .foldl _ s fun t _ hp => .ite
    ((LinkEffect.of_keeps (State.sendChart_keeps ..)).trans (State.chartCheck_linkEffect _ (List.mem_range.1 hp))) (.refl t)

/-- Tags go to requests that wait. -/
theorem State.regrant_linkEffect (s : State) : LinkEffect s s.regrant := by
  unfold State.regrant
  dsimp only
  have hq : LinkEffect s { s with memQueue := s.grants [] s.memQueue [] } := ⟨fun _ _ => rfl, fun _ => rfl⟩
  exact .ite hq (hq.trans (State.bump_linkEffect _ (by unfold linkKey; decide) _))

/-- Streams close. -/
theorem State.closeStreams_linkEffect (s : State) (sel : Stream → Bool) : LinkEffect s (s.closeStreams sel) := by
  unfold State.closeStreams State.releaseRequests
  refine .ite (.refl s) (.trans ?_ (State.bump_linkEffect _ (by unfold linkKey; decide) _))
  exact .trans ⟨fun _ _ => rfl, fun _ => rfl⟩ (State.regrant_linkEffect _)

/-- What jobs hold besides tasks ends. -/
theorem State.dropUnits_linkEffect (s : State) (sel : Nat → Bool) (status : Nat) :
    LinkEffect s (s.dropUnits sel status) := by
  have hheld : ∀ t : State, LinkEffect t (t.dropHeld sel status) := fun t =>
    .trans ⟨fun _ _ => rfl, fun _ => rfl⟩ (.foldl _ _ fun u _ _ =>
      (LinkEffect.of_keeps (u.freeArrival_keeps _)).trans (State.respond_linkEffect ..))
  exact (((s.closeStreams_linkEffect _).trans (.of_keeps (State.dropCombining_keeps ..))).trans (hheld _)).trans
    ⟨fun _ _ => rfl, fun _ => rfl⟩

/-! ### The Chart goes -/

/-- The registers that name the Chart and its phases, with what they read without one. -/
def noChartRegs : List (Field × Nat) :=
  [(Reg.CHT_SERIAL_serial, 0), (Reg.CHT_DIGEST_digest, 0), (Reg.CHT_COMMON_DIGEST_digest, 0)] ++
    (List.range 64).flatMap (fun p =>
      [(Reg.PLT_PHASE_valid p, 0), (Reg.PLT_PHASE_pref p, 0), (Reg.PLT_PHASE_est_w p, 0)])

/-- They lie above the host interface's block. -/
theorem noChartRegs_key : ∀ p ∈ noChartRegs, 2 ^ 26 ≤ p.1.key := by
  intro p hp
  simp only [noChartRegs, List.mem_append, List.mem_flatMap, List.mem_cons, List.not_mem_nil, or_false] at hp
  rcases hp with (rfl | rfl | rfl) | ⟨i, _, rfl | rfl | rfl⟩
  all_goals
    simp only [Field.key, Reg.CHT_SERIAL_serial, Reg.CHT_DIGEST_digest, Reg.CHT_COMMON_DIGEST_digest, Reg.PLT_PHASE_valid,
      Reg.PLT_PHASE_pref, Reg.PLT_PHASE_est_w]
    omega

/-- Clearing them accepts no feature and takes none back. -/
theorem State.accepted_noChartRegs (s : State) (f : Nat) : (s.setRegs noChartRegs).accepted f = s.accepted f := by
  have hlow : ∀ g ∈ [Reg.DEV_FEAT_CTRL_committed, Reg.DEV_FEAT_ACCEPT_accept], (s.setRegs noChartRegs).reg g = s.reg g := by
    intro g hg
    have hkey : g.key < 2 ^ 26 := by revert g; decide
    exact State.reg_setRegs_other _ _ (fun p hp h => by have := noChartRegs_key p hp; omega) s
  unfold State.accepted
  rw [hlow _ (by simp), hlow _ (by simp)]

/-- The state without its Chart's jobs, tasks and tables, its rings released. -/
def State.unchart (s : State) : State :=
  { s with chart := none, jobs := [], tasks := [], tables := [], zeroing := false, rings := s.rings.map Ring.released }

@[simp] theorem State.unchart_mem (s : State) : s.unchart.mem = s.mem := rfl
theorem State.accepted_unchart (s : State) (f : Nat) : s.unchart.accepted f = s.accepted f := rfl

/-- What links and jobs lose as the Chart goes. -/
def State.unlinked (s : State) : State := s.linksLose.dropUnits (fun _ => true) stACCESS

/-- The parts in which the Chart goes. -/
theorem State.dropChart_eq (s : State) :
    s.dropChart = (s.unlinked.unchart.setRegs noChartRegs).breakChanged s.unlinked.breakMaps := rfl

/-- The links and the jobs lose what they have with no more than a change of links brings. -/
theorem State.unlinked_linkEffect (s : State) : LinkEffect s s.unlinked :=
  s.linksLose_linkEffect.trans (State.dropUnits_linkEffect ..)

/-- The Chart's going leaves memory where no event ring is accepted. -/
theorem State.dropChart_mem (s : State) (h : s.accepted 1 = false) : s.dropChart.mem = s.mem := by
  have hlinks := s.unlinked_linkEffect
  have hnone : (s.unlinked.unchart.setRegs noChartRegs).accepted 1 = false := by
    rw [State.accepted_noChartRegs, State.accepted_unchart, hlinks.accepted, h]
  rw [s.dropChart_eq, (State.breakChanged_linkEffect ..).2 hnone, State.setRegs_mem, State.unchart_mem, hlinks.2 h]

/-- The Chart's going leaves no Chart, no job and no task. -/
theorem State.dropChart_empty (s : State) : s.dropChart.chart = none ∧ s.dropChart.jobs = [] ∧ s.dropChart.tasks = [] := by
  have hkeep := (State.breakChanged_keeps (s.unlinked.unchart.setRegs noChartRegs) s.unlinked.breakMaps).1
  rw [s.dropChart_eq]
  refine ⟨(hkeep .chart rfl).trans ?_, (hkeep .jobs rfl).trans ?_, (hkeep .tasks rfl).trans ?_⟩
  · exact State.setRegs_chart ..
  · exact State.setRegs_jobs ..
  · exact State.setRegs_tasks ..

/-! ### Resets -/

/-- Without its cells in the register file a key is not found. -/
theorem lookupNat_filter_none (k : Nat) (p : Nat × Nat → Bool) (hp : ∀ v, p (k, v) = false) (l : List (Nat × Nat)) :
    lookupNat k (l.filter p) = none := by
  induction l with
  | nil => rfl
  | cons e r ih =>
    rw [List.filter_cons]
    split
    · rename_i he
      have hne : e.1 ≠ k := by
        rintro rfl
        exact absurd he (by simp [hp e.2])
      rw [lookupNat, if_neg hne, ih]
    · exact ih

/-- A register that a reset selects reads its reset value. -/
theorem State.reg_resetRegs_selected (s : State) {sel : Nat → Bool} {f : Field} (h : sel (f.key / 64) = true) :
    (s.resetRegs sel).reg f = f.reset := by
  unfold State.reg State.resetRegs
  rw [lookupNat_filter_none _ _ (fun _ => by simp [h])]
  rfl

/-- A range set to zero reads zero, and every other byte as before. -/
theorem Memory.read_apply_zero (m : Memory) (k n j : Nat) :
    (m.apply (.zero k n)).read j = if k ≤ j ∧ j < k + n then 0 else m.read j :=
  cellAt_splice _ _ _ _ _ (by simp)

/-- What a function reset clears besides the Chart, its jobs and the Chart state. -/
def State.functionCleared (s : State) : State :=
  let s1 := (s.resetRegs functionResetOffset).memOps [.zero (tileKey 0 0) (2 ^ 31)]
  let s2 : State := { s1 with
    rings := s1.rings.map Ring.functionReset,
    eventSeq := 0,
    sysreset := none,
    fabric := { s1.fabric with requests := [], replies := [], waiting := [], coalescer := [] },
    pcie := { s1.pcie with bar2Log2Gib := 0, msixEnable := false, msixMaskAll := false, msix := [], pba := [],
                           holdoff := [], reads := [] } }
  s2.setRegs [(Reg.CHT_CTRL_load, 0), (Reg.CHT_CTRL_unload, 0)]

/-- No load is in progress, and no unload waits for one. -/
def State.unloaded (s : State) : State := { s with load := none, unloadWaiting := false }

/-- The parts of a function reset. -/
theorem State.functionReset_eq (s : State) :
    s.functionReset = s.unloaded.dropChart.functionCleared.setChart chtNone := by
  unfold State.functionReset State.unloaded
  generalize State.dropChart _ = t
  rfl

/-- A function reset takes back every feature's acceptance (R400). -/
theorem State.accepted_functionCleared (s : State) (f : Nat) : s.functionCleared.accepted f = false := by
  have hreg : s.functionCleared.reg Reg.DEV_FEAT_CTRL_committed = 0 :=
    (State.reg_setRegs_other [(Reg.CHT_CTRL_load, 0), (Reg.CHT_CTRL_unload, 0)] _ (by decide) _).trans
      (s.reg_resetRegs_selected (by decide))
  simp [State.accepted, hreg]

@[simp] theorem State.functionCleared_mem (s : State) :
    s.functionCleared.mem = s.mem.apply (.zero (tileKey 0 0) (2 ^ 31)) := State.setRegs_mem ..
@[simp] theorem State.functionCleared_chart (s : State) : s.functionCleared.chart = s.chart := State.setRegs_chart ..
@[simp] theorem State.functionCleared_jobs (s : State) : s.functionCleared.jobs = s.jobs := State.setRegs_jobs ..
@[simp] theorem State.functionCleared_tasks (s : State) : s.functionCleared.tasks = s.tasks := State.setRegs_tasks ..

/-- A Chart state set where no event ring is accepted leaves memory. -/
theorem State.setChart_mem (s : State) (state : Nat) (h : s.accepted 1 = false) : (s.setChart state).mem = s.mem := by
  have ha : (s.setReg Reg.CHT_STATUS_state state).accepted 1 = s.accepted 1 := by
    unfold State.accepted
    rw [State.reg_setReg_other _ _ (by decide), State.reg_setReg_other _ _ (by decide)]
  exact (State.chartChanged_linkEffect _).2 (ha.trans h)

/-- The Chart state that is set. -/
theorem State.setChart_chtState (s : State) (state : Nat) : (s.setChart state).chtState = state % 4 :=
  (State.chartChanged_linkEffect _).chtState.trans (State.reg_setReg_self ..)

/-- Memory after a function reset: that of the Chart's going with the tile stores zeroed. -/
theorem State.functionReset_mem (s : State) :
    s.functionReset.mem = s.unloaded.dropChart.mem.apply (.zero (tileKey 0 0) (2 ^ 31)) := by
  rw [s.functionReset_eq, State.setChart_mem _ _ (State.accepted_functionCleared ..), State.functionCleared_mem]

/-- A function reset leaves no Chart, no job and no task (R400). -/
theorem State.functionReset_empty (s : State) :
    s.functionReset.chart = none ∧ s.functionReset.jobs = [] ∧ s.functionReset.tasks = [] := by
  have hkeep := (State.setChart_keeps s.unloaded.dropChart.functionCleared chtNone).1
  obtain ⟨hchart, hjobs, htasks⟩ := s.unloaded.dropChart_empty
  rw [s.functionReset_eq]
  exact ⟨(hkeep .chart rfl).trans ((State.functionCleared_chart _).trans hchart),
    (hkeep .jobs rfl).trans ((State.functionCleared_jobs _).trans hjobs),
    (hkeep .tasks rfl).trans ((State.functionCleared_tasks _).trans htasks)⟩

/-- After a function reset the Chart state is NONE. -/
theorem State.functionReset_chtState (s : State) : s.functionReset.chtState = chtNone := by
  rw [s.functionReset_eq, State.setChart_chtState]
  rfl

/-- A function reset leaves HBM where no event ring is accepted. -/
theorem State.functionReset_hbm (s : State) (h : s.accepted 1 = false) {k : Nat} (hk : k < 2 ^ 45) :
    s.functionReset.mem.read k = s.mem.read k := by
  have hout : ¬ (tileKey 0 0 ≤ k ∧ k < tileKey 0 0 + 2 ^ 31) := by
    unfold tileKey
    omega
  have hmem : s.unloaded.dropChart.mem = s.mem := s.unloaded.dropChart_mem h
  rw [s.functionReset_mem, Memory.read_apply_zero, if_neg hout, hmem]

/-- A function reset zeroes the tile stores. -/
theorem State.functionReset_tiles (s : State) {k : Nat} (hk : 2 ^ 45 ≤ k) (hk' : k < 2 ^ 45 + 2 ^ 31) :
    s.functionReset.mem.read k = 0 := by
  have hin : tileKey 0 0 ≤ k ∧ k < tileKey 0 0 + 2 ^ 31 := by
    unfold tileKey
    omega
  rw [s.functionReset_mem, Memory.read_apply_zero, if_pos hin]

/-- DEV_RESET written by the host: its confirming value starts a module reset, any other does nothing. -/
theorem exec_devReset_of_hostServes {s : State} (h : hostServes s) (v : Nat) :
    exec (.devReset v) s = .next (if v % 2 ^ 32 = 0x4D525354 then s.moduleReset else s) :=
  (perform_of_wf (c := .devReset v) rfl _).trans (congrArg _ (State.hostWrite_of_hostServes h _))

/-- Settles O49: a module reset by its fields, DEV_RESET by the host's write, and a function reset by what its parts leave. -/
theorem resets : Obligations.Resets := by
  intro s
  refine ⟨⟨s.moduleReset, rfl, rfl, rfl, rfl, rfl, rfl, rfl, rfl, rfl, rfl, rfl, rfl, rfl, rfl, rfl, rfl, rfl⟩,
    fun hs v hv => ?_, fun hs v hv => ?_, ⟨s.functionReset, rfl, ?_⟩⟩
  · rw [exec_devReset_of_hostServes hs, if_pos hv]
  · rw [exec_devReset_of_hostServes hs, if_neg hv]
  · obtain ⟨hchart, hjobs, htasks⟩ := s.functionReset_empty
    have hkeep := s.functionReset_keeps.1
    exact ⟨hchart, hjobs, htasks, s.functionReset_chtState, fun h _ hk => s.functionReset_hbm h hk,
      fun _ hk hk' => s.functionReset_tiles hk hk', hkeep .binnacle rfl, hkeep .silicon rfl, hkeep .carrier rfl⟩

end

end Sys2Proof.Machine
end

section
namespace Sys2Proof.Machine

open Sys2Proof

section

-- As in the model's Laws: one declaration after another keeps the joined text within the check's memory.
set_option Elab.async false

/-! ### Lengths of bytes that are written -/

@[simp] theorem leBytes_length (n v : Nat) : (leBytes n v).length = n := by
  induction n generalizing v with
  | zero => rfl
  | succ n ih => rw [leBytes, List.length_cons, ih]

@[simp] theorem sliceBytes_length (l : List Byte) (off n : Nat) : (sliceBytes l off n).length = n := by
  simp [sliceBytes]

@[simp] theorem decodeElems_length (f : Nat) (b : List Byte) (n : Nat) : (decodeElems f b n).length = n := by
  simp [decodeElems]

@[simp] theorem convertList_length (f : Nat) (mode : Rounding) (l : List Num) : (convertList f mode l).1.length = l.length := by
  simp [convertList]

/-- An element of whole bytes is stored by itself. -/
theorem packElems_cons {f : Nat} (hf : f ≠ fmtE2M1) (c : Nat) (r : List Nat) :
    packElems f (c :: r) = leBytes (fmtBits f / 8) c ++ packElems f r := by
  cases r <;> exact if_neg hf

/-- Elements of whole bytes take their size each. -/
theorem packElems_length {f : Nat} (hf : f ≠ fmtE2M1) (l : List Nat) : (packElems f l).length = l.length * (fmtBits f / 8) := by
  induction l with
  | nil => exact (Nat.zero_mul _).symm
  | cons c r ih => rw [packElems_cons hf, List.length_append, leBytes_length, ih, List.length_cons, Nat.succ_mul, Nat.add_comm]

/-! ### What the owner of a job's windows lets a request change

A byte that differs after a request was written by it, so the request passed its owner's checks: `State.remoteWritable` is what
they admit, and each effect of `State.serveBody` writes inside it. -/

/-- Memory stays where it is not among the parts that may change. -/
theorem Keeps.mem_eq {ps : List Part} {s t : State} (h : Keeps ps s t) (hm : ps.contains .mem = false := by rfl) :
    t.mem = s.mem :=
  h.1 .mem hm

/-- A byte that changes where bytes are written and then blocks are poisoned is one of the bytes written: poison is no byte. -/
theorem Memory.changed_by_write {m : Memory} {k b : Nat} {d : List Byte} {marks : List MemOp}
    (hmarks : ∀ op ∈ marks, ∃ a n, op = .poison a n) (h : (m.applyAll (.write k d :: marks)).read b ≠ m.read b) :
    k ≤ b ∧ b < k + d.length := by
  have hkept : ∀ m' : Memory, (m'.applyAll marks).read b = m'.read b := by
    clear h
    unfold Memory.applyAll
    induction marks with
    | nil => exact fun _ => rfl
    | cons op r ih =>
      intro m'
      obtain ⟨a, n, rfl⟩ := hmarks op (List.mem_cons_self ..)
      exact ih (fun x hx => hmarks x (List.mem_cons_of_mem _ hx)) _
  by_contra hout
  exact h ((hkept _).trans ((m.read_write k b d).trans (if_neg hout)))

/-- The key of a byte from an address on, inside one window of a job that is open to remote writes (R76). -/
def State.remoteWritable (s : State) (job a b : Nat) : Prop :=
  ∃ w ∈ s.windowsAt job a false true true, ∃ j, b = s.key a + j ∧ addrOff a + j < w.base + w.length

/-- A window that admits reads and writes admits writes. -/
theorem State.windowsAt_write {s : State} {job a : Nat} {read : Bool} {w : Window} (h : w ∈ s.windowsAt job a read true true) :
    w ∈ s.windowsAt job a false true true := by
  simp only [State.windowsAt, List.mem_filter, Bool.and_eq_true] at h ⊢
  tauto

/-- A range that its owner admits for writes lies in one window. -/
theorem State.remoteWritable_of_ownerStatus {s : State} {job a n b : Nat} {read : Bool}
    (hok : s.ownerStatus job a n read true = stOK) (hlo : s.key a ≤ b) (hhi : b < s.key a + n) : s.remoteWritable job a b := by
  unfold State.ownerStatus at hok
  split at hok
  · exact absurd hok (by decide)
  · split at hok
    · exact absurd hok (by decide)
    · unfold failIf at hok
      split at hok
      · exact absurd hok (by decide)
      · rename_i hany
        simp only [Bool.not_eq_true', Bool.not_eq_false, List.any_eq_true, decide_eq_true_eq] at hany
        obtain ⟨w, hw, hend⟩ := hany
        exact ⟨w, State.windowsAt_write hw, b - s.key a, by omega, by omega⟩

/-- A PUT changes bytes of its payload's range, and only where its owner admits that range for writes (R283). -/
theorem State.servePut_changed {s : State} {k : Packet} {b : Nat} (h : (s.servePut k).1.mem.read b ≠ s.mem.read b) :
    s.remoteWritable k.jobId k.addr b := by
  unfold State.servePut at h
  dsimp only at h
  split at h
  · rename_i hok
    obtain ⟨hlo, hhi⟩ := Memory.changed_by_write (List.forall_mem_map.2 fun _ _ => ⟨_, _, rfl⟩) h
    rw [sliceBytes_length] at hhi
    exact State.remoteWritable_of_ownerStatus hok hlo hhi
  · exact absurd rfl h

/-- The formats of NM_ACC are of whole bytes. -/
theorem nmFormats_ne_E2M1 : ∀ f ∈ nmFormats, f ≠ fmtE2M1 := by decide

/-- An NM_ACC changes bytes of its targets: as many codes are written as there are targets, each of an element's size (R285). -/
theorem State.serveNmAcc_changed {s : State} {k : Packet} {b : Nat} (h : (s.serveNmAcc k).1.mem.read b ≠ s.mem.read b) :
    s.remoteWritable k.jobId k.addr b := by
  unfold State.serveNmAcc at h
  dsimp only at h
  split at h
  · exact absurd rfl h
  · rename_i hfmt
    split at h
    · exact absurd rfl h
    · rename_i hok
      have hne : k.fmt ≠ fmtE2M1 := nmFormats_ne_E2M1 _ (by simp_all)
      dsimp only at h
      rw [(State.bumps_keeps ..).mem_eq, List.append_assoc, List.singleton_append] at h
      obtain ⟨hlo, hhi⟩ := Memory.changed_by_write (List.forall_mem_append.2
        ⟨List.forall_mem_map.2 fun _ _ => ⟨_, _, rfl⟩, List.forall_mem_map.2 fun _ _ => ⟨_, _, rfl⟩⟩) h
      simp only [packElems_length hne, convertList_length, List.length_map, List.length_zip, decodeElems_length, Nat.min_self] at hhi
      exact State.remoteWritable_of_ownerStatus (not_not.1 hok) hlo hhi

/-- A CAS changes bytes of its word (R286). -/
theorem State.serveCas_changed {s : State} {k : Packet} {b : Nat} (h : (s.serveCas k).1.mem.read b ≠ s.mem.read b) :
    s.remoteWritable k.jobId k.addr b := by
  unfold State.serveCas at h
  dsimp only at h
  split at h
  · exact absurd rfl h
  · split at h
    · exact absurd rfl h
    · rename_i hok
      dsimp only at h
      split at h
      · obtain ⟨hlo, hhi⟩ := Memory.changed_by_write (marks := []) (by simp) h
        rw [leBytes_length] at hhi
        exact State.remoteWritable_of_ownerStatus (not_not.1 hok) hlo hhi
      · exact absurd rfl h

/-- The ops of requests whose effect in memory is no reduction's and no signal's. -/
def windowOps : List Nat := [pktPUT, pktGET, pktLIST_GET, pktNM_ACC, pktCAS]

/-- The effect of one of them at its owner: a refused one and a read change no byte, each other one those of its own effect. -/
theorem State.serveBody_changed {s : State} {a : Arrival} {b : Nat} (hop : a.packet.op ∈ windowOps)
    (h : (s.serveBody a).1.mem.read b ≠ s.mem.read b) :
    s.jobState a.packet.jobId < 2 ∧ s.remoteWritable a.packet.jobId a.packet.addr b := by
  have hfree : ∀ t : State, (t.freeArrival a).mem = t.mem := fun t => (t.freeArrival_keeps a).mem_eq
  unfold State.serveBody at h
  dsimp only at h
  split at h
  · exact absurd (by rw [hfree]) h
  · rename_i hjob
    refine ⟨Nat.not_le.1 hjob, ?_⟩
    split at h
    · exact absurd (by rw [hfree]) h
    · split at h
      · rw [hfree] at h
        exact State.servePut_changed h
      · split at h
        · exact absurd (by rw [hfree]) h
        · split at h
          · exact absurd (by rw [hfree]) h
          · split at h
            · rename_i hexact
              exact absurd (hexact ▸ hop) (by decide)
            · split at h
              · rw [hfree] at h
                exact State.serveNmAcc_changed h
              · split at h
                · rw [hfree] at h
                  exact State.serveCas_changed h
                · simp_all [windowOps]

/-- The packet of the record of one that has arrived. -/
theorem State.arrivalOf_packet (s : State) (k : Packet) : (s.arrivalOf k).packet = k := by
  unfold State.arrivalOf
  cases hfind : s.fabric.inbox.find? (fun a => decide (a.packet = k)) with
  | none => rfl
  | some a => simpa using List.find?_some hfind

/-- A request at an owner that is awake: besides its effect it counts and sends, which is not in memory. -/
theorem State.serveRequest_changed {s : State} {k : Packet} {b : Nat} (hawake : s.power.anchor = .awake) (hop : k.op ∈ windowOps)
    (h : (s.serveRequest k).mem.read b ≠ s.mem.read b) :
    s.jobState k.jobId < 2 ∧ s.remoteWritable k.jobId k.addr b := by
  have hwake : (s.unlist (s.arrivalOf k)).wakeTrigger = s.unlist (s.arrivalOf k) := by
    unfold State.wakeTrigger
    rw [show (s.unlist (s.arrivalOf k)).power.anchor = .awake from hawake]
  unfold State.serveRequest at h
  dsimp only at h
  split at h
  · exact absurd (by rw [(s.noChart_keeps k).mem_eq]) h
  · split at h
    · exact absurd rfl h
    · rw [hwake, if_pos (show (s.unlist (s.arrivalOf k)).power.anchor = .awake from hawake), (State.sendAll_keeps ..).mem_eq,
        (State.tagTraffic_keeps ..).mem_eq] at h
      have hbody := State.serveBody_changed (by rwa [s.arrivalOf_packet k]) h
      rwa [s.arrivalOf_packet k] at hbody

/-- A command of a request that is none of an op changes nothing. -/
theorem State.serveOp_changed {s : State} {op : Nat} {k : Packet} {b : Nat} (hawake : s.power.anchor = .awake)
    (hop : op ∈ windowOps) (h : (s.serveOp op k).mem.read b ≠ s.mem.read b) :
    s.jobState k.jobId < 2 ∧ s.remoteWritable k.jobId k.addr b := by
  unfold State.serveOp at h
  split at h
  · rename_i he
    exact State.serveRequest_changed hawake (he ▸ hop) h
  · exact absurd rfl h

/-- A command that is answered with a state is answered with its effect. -/
theorem eq_of_perform_eq_next {c : Instr} {u t : State} (h : perform c u = .next t) : u = t := by
  unfold perform at h
  split at h
  · exact Host.Outcome.next.inj h
  · cases h

/-- The commands of these requests serve them. -/
theorem exec_eq_serveOp {k : Packet} {c : Instr} (hc : c ∈ [Instr.put k, .get k, .listGet k, .nmAcc k, .cas k]) (s : State) :
    ∃ op ∈ windowOps, exec c s = perform c (s.serveOp op k) := by
  simp only [List.mem_cons, List.not_mem_nil, or_false] at hc
  rcases hc with rfl | rfl | rfl | rfl | rfl
  · exact ⟨pktPUT, by decide, rfl⟩
  · exact ⟨pktGET, by decide, rfl⟩
  · exact ⟨pktLIST_GET, by decide, rfl⟩
  · exact ⟨pktNM_ACC, by decide, rfl⟩
  · exact ⟨pktCAS, by decide, rfl⟩

/-- Settles O57: of what these commands do only the write of an effect that the owner's checks admit changes a byte. -/
theorem requestsStayInWindows : Obligations.RequestsStayInWindows := by
  intro s t k c b hc hawake hexec hchanged
  obtain ⟨op, hop, he⟩ := exec_eq_serveOp hc s
  obtain rfl := eq_of_perform_eq_next (he.symm.trans hexec)
  exact State.serveOp_changed hawake hop hchanged

end
end Sys2Proof.Machine
end

section
namespace Sys2Proof.Machine

open Sys2Proof

section

-- As in the model's Laws: one declaration after another keeps the joined text within the check's memory.
set_option Elab.async false

/-! ### The parts that a command may change -/

/-- What posting an event changes: its bit, its record, the ring's registers and its vector (R395). -/
def eventParts : List Part := [.mem, .writes, .regs, .eventSeq, .pcie, .outputs]

/-- What an engine's task changes: its results and statistics, itself, and its events. -/
def taskParts : List Part := eventParts ++ [.free, .tasks, .drift]

/-- What a module reset changes (R400). -/
def resetParts : List Part :=
  [.mem, .writes, .regs, .eventSeq, .errorSeq, .chart, .load, .unloadWaiting, .zeroing, .rings, .tasks, .signals, .jobs, .streams,
    .memQueue, .tables, .drift, .lanes, .corrections, .scrubbed, .bankQuiet, .fabric, .reductions, .combining, .sysreset, .power,
    .pcie, .boot]

/-- The frame of each command: every part of the state that it may change. -/
def frameOf : Instr → List Part
  | .registerWrite .. | .doorbellTail .. | .cqHead .. | .ringEnable | .ringDisable | .wakeComplete =>
    eventParts ++ [.rings, .memQueue, .fabric, .power]
  | .load .. | .unload | .force | .discard .. =>
    eventParts ++ [.free, .load, .unloadWaiting, .rings, .tasks, .signals, .fabric]
  | .loadChecksEnd => eventParts ++ [.free, .chart, .load, .unloadWaiting, .rings, .tasks, .signals, .jobs, .fabric, .power]
  | .unloadDrained => [.mem, .writes, .zeroing]
  | .unloadDone =>
    eventParts ++ [.chart, .zeroing, .rings, .tasks, .signals, .jobs, .streams, .memQueue, .tables, .fabric,
      .reductions, .combining]
  | .ringNop .. | .tasks .. | .signal .. | .fence .. | .fenceCleared .. | .taskRegister .. | .completionRecordWrite .. |
    .deadlineExpiry .. | .delayExpiry .. | .successorSignalPlace .. =>
    [.mem, .writes, .regs, .rings, .tasks, .signals, .pcie, .outputs]
  | .dispatch .. => [.free, .mem, .writes, .regs, .tasks, .tables]
  | .taskComplete .. => eventParts ++ [.free, .errorSeq, .rings, .tasks, .signals, .jobs, .tables, .fabric, .binnacle]
  | .tickWrite .. | .errLogEnable .. | .errLogHead .. | .evqEnable .. | .evqHead .. | .rcRead .. => [.regs, .outputs]
  | .nop .. | .fill .. | .scatterAdd .. | .intersect .. | .product .. | .productSparse .. | .chain .. | .grad .. |
    .apply .. | .store .. | .root .. | .exportRows .. | .toHost .. | .fromHost .. => taskParts
  | .arrayPassStart .. | .fix .. => [.regs, .tasks]
  | .copy .. | .copy2d .. => taskParts ++ [.errorSeq, .lanes, .corrections, .binnacle]
  | .streamOpen .. | .streamClose .. | .gather .. | .segReduce .. => taskParts ++ [.streams, .memQueue, .fabric]
  | .streamBlockArrival .. | .streamBlockConsume .. =>
    [.free, .mem, .writes, .regs, .streams, .memQueue, .fabric, .pcie, .outputs]
  | .bankCapEval .. => eventParts ++ [.memQueue, .bankQuiet]
  | .scrubCodeword .. => eventParts ++ [.free, .errorSeq, .lanes, .corrections, .scrubbed, .binnacle]
  | .bar2Access .. => eventParts ++ [.free, .errorSeq, .lanes, .corrections, .binnacle]
  | .sample .. | .lookup .. | .tableRefresh .. | .hostCompletion .. | .hostTimeout .. => taskParts ++ [.fabric]
  | .push .. | .norm .. => taskParts ++ [.signals, .fabric, .reductions]
  | .tableOpen .. | .tableSwap .. | .swapComplete .. => taskParts ++ [.tables]
  | .driftCfgWrite .. => [.regs, .drift, .outputs]
  | .remotePut .. | .remoteGet .. | .remoteExactAcc .. | .remoteNmAcc .. | .remoteCas .. | .remotePutSignal .. |
    .responseTimeout .. | .ack .. | .getResp .. | .listResp .. | .casResp .. =>
    eventParts ++ [.free, .tasks, .signals, .fabric, .reductions]
  | .put .. | .get .. | .listGet .. | .exactAcc .. | .nmAcc .. | .cas .. | .putSignal .. =>
    eventParts ++ [.free, .tasks, .signals, .fabric, .reductions, .power]
  | .nak .. | .keepalive .. | .width .. | .chart .. | .nakRepeat .. | .ackTimer .. | .ackProgressTimeout .. |
    .chartResend .. | .keepaliveTimer .. | .returnTo16Lanes .. | .packetGapTimeout .. | .breakNotice .. |
    .linkTrainStart .. | .equalisationEnd .. | .alignmentEnd .. | .trainingRetry .. | .fecLockLost .. | .keepaliveLost .. |
    .portEnable .. | .retrain .. => eventParts ++ [.fabric, .combining]
  | .flitReceive .. | .ident .. | .accept .. => eventParts ++ [.fabric, .combining, .binnacle]
  | .barUp .. | .barDown .. | .bcastData .. | .fixUp .. | .fixDown .. => eventParts ++ [.tasks, .fabric, .combining, .power]
  | .barrier .. | .fixDrained .. | .broadcast .. => [.free, .mem, .writes, .regs, .tasks, .fabric, .combining, .outputs]
  | .collOpen .. | .collClose .. | .closeLedgerComplete .. | .collectiveDeadline .. =>
    eventParts ++ [.free, .errorSeq, .tasks, .fabric, .reductions, .combining]
  | .parityError .. | .jobKill | .jobTerminated .. | .jobRevive =>
    eventParts ++ [.free, .errorSeq, .rings, .tasks, .signals, .jobs, .streams, .memQueue, .tables, .corrections,
      .fabric, .reductions, .combining]
  | .pilotInterval .. => eventParts ++ [.jobs, .power]
  | .multSlewStep .. | .voltageAdjust .. | .prefRevise .. | .railLimit .. | .droop .. | .droopPersist .. | .droopHoldEnd .. |
    .junctionThrottle .. | .ageingMeasure .. | .capWrite .. | .oppWrite .. | .inputLow .. => eventParts ++ [.power]
  | .anchor | .anchorCommit | .wake => eventParts ++ [.tasks, .fabric, .power]
  | .rthUpdate .. => eventParts ++ [.power, .binnacle]
  | .ageingStore | .commitSvn => [.binnacle, .outputs]
  | .featCommit | .linkChanged .. | .msixHoldoffEnd .. | .msixUnmask .. | .configurationRequest .. => eventParts
  | .getCert .. | .getNonce .. | .getReport .. => [.pcie, .outputs]
  | .enroll .. | .release .. => eventParts ++ [.binnacle]
  | .mgmtEnroll .. => eventParts ++ [.fabric, .binnacle]
  | .functionReset | .moduleReset | .devReset .. | .sysreset .. | .resetDown .. | .resetUp .. | .ackCredit .. =>
    resetParts ++ [.outputs]
  | .boot | .update | .recover => eventParts ++ [.free, .boot]
  | .bootFlashWaitEnd | .updateDone .. => eventParts ++ [.free, .boot, .binnacle]
  | .recoveryFlashWriteEnd .. => resetParts ++ [.binnacle]
  | .powerSequence .. | .inputUndervoltage .. | .presSBreak => resetParts ++ [.carrier, .outputs]
  | .inputOvervoltage .. | .railOvercurrent .. | .junctionOvertemp .. | .coolantLoss .. | .leakage .. | .powerOff .. |
    .latchUnderPower | .vauxLoss => resetParts ++ [.binnacle, .carrier, .outputs]
  | .inputRestored .. | .inputHigh .. | .attentionPress | .attentionLongPress | .presenceWindowEnd | .handleHot .. |
    .handleCool .. => eventParts ++ [.power, .carrier]
  | .mgmt .. | .getStatus .. | .getSensors .. | .getEvents .. | .setIdentify .. | .powerOn .. | .clearSafe .. |
    .getAgeing .. => [.free, .regs, .fabric, .carrier, .outputs]
  | .setAutoOn .. | .clearRetired .. | .clearPeer .. => [.regs, .fabric, .binnacle, .outputs]

/-- Nothing outside its frame changes when a command answers a state. -/
theorem exec_keeps {c : Instr} {s t : State} (h : exec c s = .next t) : Keeps (frameOf c) s t := by
  cases c with
  | registerWrite => exact (execRegisterWrite_keeps h).mono rfl
  | load => exact (execLoad_keeps h).mono rfl
  | loadChecksEnd => exact (execLoadChecksEnd_keeps h).mono rfl
  | unload => exact (execUnload_keeps h).mono rfl
  | force => exact (execForce_keeps h).mono rfl
  | unloadDrained => exact (execUnloadDrained_keeps h).mono rfl
  | unloadDone => exact (execUnloadDone_keeps h).mono rfl
  | doorbellTail => exact (execDoorbellTail_keeps h).mono rfl
  | cqHead => exact (execCqHead_keeps h).mono rfl
  | ringNop => exact (execRingNop_keeps h).mono rfl
  | tasks => exact (execTasks_keeps h).mono rfl
  | signal => exact (execSignal_keeps h).mono rfl
  | discard => exact (execDiscard_keeps h).mono rfl
  | fence => exact (execFence_keeps h).mono rfl
  | fenceCleared => exact (execFenceCleared_keeps h).mono rfl
  | taskRegister => exact (execTaskRegister_keeps h).mono rfl
  | dispatch => exact (execDispatch_keeps h).mono rfl
  | taskComplete => exact (execTaskComplete_keeps h).mono rfl
  | completionRecordWrite => exact (execCompletionRecordWrite_keeps h).mono rfl
  | successorSignalPlace => exact (execSuccessorSignalPlace_keeps h).mono rfl
  | delayExpiry => exact (execDelayExpiry_keeps h).mono rfl
  | deadlineExpiry => exact (execDeadlineExpiry_keeps h).mono rfl
  | tickWrite => exact (execTickWrite_keeps h).mono rfl
  | ringEnable => exact (execRingEnable_keeps h).mono rfl
  | ringDisable => exact (execRingDisable_keeps h).mono rfl
  | nop => exact (execNop_keeps h).mono rfl
  | copy => exact (execCopy_keeps h).mono rfl
  | copy2d => exact (execCopy2d_keeps h).mono rfl
  | fill => exact (execFill_keeps h).mono rfl
  | streamOpen => exact (execStreamOpen_keeps h).mono rfl
  | streamClose => exact (execStreamClose_keeps h).mono rfl
  | streamBlockArrival => exact (execStreamBlockArrival_keeps h).mono rfl
  | streamBlockConsume => exact (execStreamBlockConsume_keeps h).mono rfl
  | bankCapEval => exact (execBankCapEval_keeps h).mono rfl
  | scrubCodeword => exact (execScrubCodeword_keeps h).mono rfl
  | sample => exact (execSample_keeps h).mono rfl
  | lookup => exact (execLookup_keeps h).mono rfl
  | push => exact (execPush_keeps h).mono rfl
  | tableOpen => exact (execTableOpen_keeps h).mono rfl
  | tableSwap => exact (execTableSwap_keeps h).mono rfl
  | swapComplete => exact (execSwapComplete_keeps h).mono rfl
  | tableRefresh => exact (execTableRefresh_keeps h).mono rfl
  | gather => exact (execGather_keeps h).mono rfl
  | segReduce => exact (execSegReduce_keeps h).mono rfl
  | scatterAdd => exact (execScatterAdd_keeps h).mono rfl
  | intersect => exact (execIntersect_keeps h).mono rfl
  | product => exact (execProduct_keeps h).mono rfl
  | productSparse => exact (execProductSparse_keeps h).mono rfl
  | arrayPassStart => exact (execArrayPassStart_keeps h).mono rfl
  | chain => exact (execChain_keeps h).mono rfl
  | grad => exact (execGrad_keeps h).mono rfl
  | driftCfgWrite => exact (execDriftCfgWrite_keeps h).mono rfl
  | remotePut => exact (execRemotePut_keeps h).mono rfl
  | remoteGet => exact (execRemoteGet_keeps h).mono rfl
  | remoteExactAcc => exact (execRemoteExactAcc_keeps h).mono rfl
  | remoteNmAcc => exact (execRemoteNmAcc_keeps h).mono rfl
  | remoteCas => exact (execRemoteCas_keeps h).mono rfl
  | remotePutSignal => exact (execRemotePutSignal_keeps h).mono rfl
  | flitReceive => exact (execFlitReceive_keeps h).mono rfl
  | ackCredit => exact (execAckCredit_keeps h).mono rfl
  | nak => exact (execNak_keeps h).mono rfl
  | keepalive => exact (execKeepalive_keeps h).mono rfl
  | ident => exact (execIdent_keeps h).mono rfl
  | width => exact (execWidth_keeps h).mono rfl
  | chart => exact (execChart_keeps h).mono rfl
  | nakRepeat => exact (execNakRepeat_keeps h).mono rfl
  | ackTimer => exact (execAckTimer_keeps h).mono rfl
  | ackProgressTimeout => exact (execAckProgressTimeout_keeps h).mono rfl
  | chartResend => exact (execChartResend_keeps h).mono rfl
  | packetGapTimeout => exact (execPacketGapTimeout_keeps h).mono rfl
  | responseTimeout => exact (execResponseTimeout_keeps h).mono rfl
  | breakNotice => exact (execBreakNotice_keeps h).mono rfl
  | put => exact (execPut_keeps h).mono rfl
  | get => exact (execGet_keeps h).mono rfl
  | listGet => exact (execListGet_keeps h).mono rfl
  | exactAcc => exact (execExactAcc_keeps h).mono rfl
  | nmAcc => exact (execNmAcc_keeps h).mono rfl
  | cas => exact (execCas_keeps h).mono rfl
  | putSignal => exact (execPutSignal_keeps h).mono rfl
  | mgmt => exact (execMgmt_keeps h).mono rfl
  | ack => exact (execAck_keeps h).mono rfl
  | getResp => exact (execGetResp_keeps h).mono rfl
  | listResp => exact (execListResp_keeps h).mono rfl
  | casResp => exact (execCasResp_keeps h).mono rfl
  | linkTrainStart => exact (execLinkTrainStart_keeps h).mono rfl
  | equalisationEnd => exact (execEqualisationEnd_keeps h).mono rfl
  | alignmentEnd => exact (execAlignmentEnd_keeps h).mono rfl
  | trainingRetry => exact (execTrainingRetry_keeps h).mono rfl
  | fecLockLost => exact (execFecLockLost_keeps h).mono rfl
  | keepaliveLost => exact (execKeepaliveLost_keeps h).mono rfl
  | accept => exact (execAccept_keeps h).mono rfl
  | retrain => exact (execRetrain_keeps h).mono rfl
  | portEnable => exact (execPortEnable_keeps h).mono rfl
  | collOpen => exact (execCollOpen_keeps h).mono rfl
  | collClose => exact (execCollClose_keeps h).mono rfl
  | closeLedgerComplete => exact (execCloseLedgerComplete_keeps h).mono rfl
  | collectiveDeadline => exact (execCollectiveDeadline_keeps h).mono rfl
  | barrier => exact (execBarrier_keeps h).mono rfl
  | broadcast => exact (execBroadcast_keeps h).mono rfl
  | fix => exact (execFix_keeps h).mono rfl
  | fixDrained => exact (execFixDrained_keeps h).mono rfl
  | barUp => exact (execBarUp_keeps h).mono rfl
  | barDown => exact (execBarDown_keeps h).mono rfl
  | bcastData => exact (execBcastData_keeps h).mono rfl
  | fixUp => exact (execFixUp_keeps h).mono rfl
  | fixDown => exact (execFixDown_keeps h).mono rfl
  | sysreset => exact (execSysreset_keeps h).mono rfl
  | resetDown => exact (execResetDown_keeps h).mono rfl
  | resetUp => exact (execResetUp_keeps h).mono rfl
  | norm => exact (execNorm_keeps h).mono rfl
  | apply => exact (execApply_keeps h).mono rfl
  | store => exact (execStore_keeps h).mono rfl
  | root => exact (execRoot_keeps h).mono rfl
  | exportRows => exact (execExportRows_keeps h).mono rfl
  | parityError => exact (execParityError_keeps h).mono rfl
  | jobKill => exact (execJobKill_keeps h).mono rfl
  | jobTerminated => exact (execJobTerminated_keeps h).mono rfl
  | jobRevive => exact (execJobRevive_keeps h).mono rfl
  | errLogEnable => exact (execErrLogEnable_keeps h).mono rfl
  | errLogHead => exact (execErrLogHead_keeps h).mono rfl
  | pilotInterval => exact (execPilotInterval_keeps h).mono rfl
  | multSlewStep => exact (execMultSlewStep_keeps h).mono rfl
  | voltageAdjust => exact (execVoltageAdjust_keeps h).mono rfl
  | prefRevise => exact (execPrefRevise_keeps h).mono rfl
  | railLimit => exact (execRailLimit_keeps h).mono rfl
  | droop => exact (execDroop_keeps h).mono rfl
  | droopPersist => exact (execDroopPersist_keeps h).mono rfl
  | droopHoldEnd => exact (execDroopHoldEnd_keeps h).mono rfl
  | rthUpdate => exact (execRthUpdate_keeps h).mono rfl
  | junctionThrottle => exact (execJunctionThrottle_keeps h).mono rfl
  | ageingMeasure => exact (execAgeingMeasure_keeps h).mono rfl
  | ageingStore => exact (execAgeingStore_keeps h).mono rfl
  | capWrite => exact (execCapWrite_keeps h).mono rfl
  | oppWrite => exact (execOppWrite_keeps h).mono rfl
  | inputLow => exact (execInputLow_keeps h).mono rfl
  | anchor => exact (execAnchor_keeps h).mono rfl
  | anchorCommit => exact (execAnchorCommit_keeps h).mono rfl
  | wake => exact (execWake_keeps h).mono rfl
  | wakeComplete => exact (execWakeComplete_keeps h).mono rfl
  | bar2Access => exact (execBar2Access_keeps h).mono rfl
  | featCommit => exact (execFeatCommit_keeps h).mono rfl
  | evqEnable => exact (execEvqEnable_keeps h).mono rfl
  | evqHead => exact (execEvqHead_keeps h).mono rfl
  | msixHoldoffEnd => exact (execMsixHoldoffEnd_keeps h).mono rfl
  | msixUnmask => exact (execMsixUnmask_keeps h).mono rfl
  | toHost => exact (execToHost_keeps h).mono rfl
  | fromHost => exact (execFromHost_keeps h).mono rfl
  | hostCompletion => exact (execHostCompletion_keeps h).mono rfl
  | hostTimeout => exact (execHostTimeout_keeps h).mono rfl
  | linkChanged => exact (execLinkChanged_keeps h).mono rfl
  | functionReset => exact (execFunctionReset_keeps h).mono rfl
  | devReset => exact (execDevReset_keeps h).mono rfl
  | moduleReset => exact (execModuleReset_keeps h).mono rfl
  | boot => exact (execBoot_keeps h).mono rfl
  | bootFlashWaitEnd => exact (execBootFlashWaitEnd_keeps h).mono rfl
  | commitSvn => exact (execCommitSvn_keeps h).mono rfl
  | update => exact (execUpdate_keeps h).mono rfl
  | updateDone => exact (execUpdateDone_keeps h).mono rfl
  | recover => exact (execRecover_keeps h).mono rfl
  | getCert => exact (execGetCert_keeps h).mono rfl
  | getNonce => exact (execGetNonce_keeps h).mono rfl
  | getReport => exact (execGetReport_keeps h).mono rfl
  | enroll => exact (execEnroll_keeps h).mono rfl
  | release => exact (execRelease_keeps h).mono rfl
  | powerSequence => exact (execPowerSequence_keeps h).mono rfl
  | inputUndervoltage => exact (execInputUndervoltage_keeps h).mono rfl
  | inputRestored => exact (execInputRestored_keeps h).mono rfl
  | inputOvervoltage => exact (execInputOvervoltage_keeps h).mono rfl
  | latchUnderPower => exact (execLatchUnderPower_keeps h).mono rfl
  | presSBreak => exact (execPresSBreak_keeps h).mono rfl
  | attentionPress => exact (execAttentionPress_keeps h).mono rfl
  | attentionLongPress => exact (execAttentionLongPress_keeps h).mono rfl
  | presenceWindowEnd => exact (execPresenceWindowEnd_keeps h).mono rfl
  | railOvercurrent => exact (execRailOvercurrent_keeps h).mono rfl
  | junctionOvertemp => exact (execJunctionOvertemp_keeps h).mono rfl
  | coolantLoss => exact (execCoolantLoss_keeps h).mono rfl
  | leakage => exact (execLeakage_keeps h).mono rfl
  | handleHot => exact (execHandleHot_keeps h).mono rfl
  | handleCool => exact (execHandleCool_keeps h).mono rfl
  | vauxLoss => exact (execVauxLoss_keeps h).mono rfl
  | getStatus => exact (execGetStatus_keeps h).mono rfl
  | getSensors => exact (execGetSensors_keeps h).mono rfl
  | getEvents => exact (execGetEvents_keeps h).mono rfl
  | setIdentify => exact (execSetIdentify_keeps h).mono rfl
  | powerOn => exact (execPowerOn_keeps h).mono rfl
  | powerOff => exact (execPowerOff_keeps h).mono rfl
  | clearSafe => exact (execClearSafe_keeps h).mono rfl
  | setAutoOn => exact (execSetAutoOn_keeps h).mono rfl
  | mgmtEnroll => exact (execMgmtEnroll_keeps h).mono rfl
  | clearRetired => exact (execClearRetired_keeps h).mono rfl
  | clearPeer => exact (execClearPeer_keeps h).mono rfl
  | getAgeing => exact (execGetAgeing_keeps h).mono rfl
  | rcRead => exact (execRcRead_keeps h).mono rfl
  | configurationRequest => exact (execConfigurationRequest_keeps h).mono rfl
  | keepaliveTimer => exact (execKeepaliveTimer_keeps h).mono rfl
  | inputHigh => exact (execInputHigh_keeps h).mono rfl
  | returnTo16Lanes => exact (execReturnTo16Lanes_keeps h).mono rfl
  | recoveryFlashWriteEnd => exact (execRecoveryFlashWriteEnd_keeps h).mono rfl

/-- Commands whose frames lie in a list of parts touch only those parts. -/
theorem touchesOnly_of_frames {ps : List Part} {cs : List Instr}
    (h : (cs.all fun c => (frameOf c).all ps.contains) = true := by rfl) : ∀ c ∈ cs, touchesOnly ps c :=
  fun c hc _ _ hexec => ((exec_keeps hexec).mono (List.all_eq_true.1 h c hc)).1

/-! ### ACK_CREDIT -/

/-- While no system reset waits for its answers to leave, none follows. -/
theorem State.resetIfSent_of_not_ready {s : State} (h : (s.sysreset.map (·.ready)).getD false = false) : s.resetIfSent = s := by
  simp [State.resetIfSent, h]

/-- An ACK_CREDIT without a system reset that waits changes its port alone. -/
theorem exec_ackCredit_keeps {p a : Nat} {freed : List Nat} {s t : State}
    (hidle : (s.sysreset.map (·.ready)).getD false = false) (h : exec (.ackCredit p a freed) s = .next t) :
    Keeps [.regs, .fabric, .outputs] s t := by
  have htaken : Keeps [.regs, .fabric, .outputs] s ((s.heard p).onAckCredit p a freed) :=
    (State.onAckCredit_keeps ..).after ((State.heard_keeps ..).mono rfl)
  have hsame : ((s.heard p).onAckCredit p a freed).resetIfSent = (s.heard p).onAckCredit p a freed :=
    State.resetIfSent_of_not_ready (by rwa [show _ = s.sysreset from htaken.1 .sysreset rfl])
  refine Keeps.performed (.ite (fun _ => ?_) fun _ => .refl _ s) h
  rwa [hsame]

/-- Settles O59: each family's frames lie in its list, and without the reset an ACK_CREDIT is heard and taken. -/
theorem familyFrames : Obligations.FamilyFrames :=
  ⟨fun _ => touchesOnly_of_frames, fun _ _ => touchesOnly_of_frames, fun _ _ => touchesOnly_of_frames,
    fun _ _ => touchesOnly_of_frames, fun _ _ => touchesOnly_of_frames, fun _ _ => touchesOnly_of_frames,
    fun _ _ _ => touchesOnly_of_frames, fun _ => touchesOnly_of_frames, fun _ => touchesOnly_of_frames,
    fun _ _ _ _ _ _ _ _ => touchesOnly_of_frames, fun _ _ _ _ _ hidle hexec => (exec_ackCredit_keeps hidle hexec).1,
    fun _ _ _ _ _ _ => touchesOnly_of_frames, fun _ _ _ _ _ _ _ => touchesOnly_of_frames,
    fun _ _ _ => touchesOnly_of_frames, fun _ _ _ _ => touchesOnly_of_frames, fun _ _ => touchesOnly_of_frames,
    fun _ => touchesOnly_of_frames⟩

end

end Sys2Proof.Machine
end

section
namespace Sys2Proof.Machine

open Sys2Proof

section

-- As in the model's Laws: one declaration after another keeps the joined text within the check's memory.
set_option Elab.async false

/-! ### The owner stays -/

/-- From s to t the module's owner has not changed. -/
def OwnerKept (s t : State) : Prop := t.binnacle.ownerKey = s.binnacle.ownerKey

theorem OwnerKept.refl (s : State) : OwnerKept s s := rfl

/-- What leaves the Binnacle's records leaves the owner. -/
theorem OwnerKept.of_keeps {ps : List Part} {s t : State} (h : Keeps ps s t) (hb : ps.contains .binnacle = false := by rfl) :
    OwnerKept s t :=
  congrArg Binnacle.ownerKey (h.1 .binnacle hb)

/-- One change after another. -/
theorem OwnerKept.trans {s t u : State} (h1 : OwnerKept s t) (h2 : OwnerKept t u) : OwnerKept s u :=
  Eq.trans h2 h1

/-- A change more that leaves the Binnacle's records. -/
theorem OwnerKept.after {ps : List Part} {s t u : State} (h2 : Keeps ps t u) (h1 : OwnerKept s t)
    (hb : ps.contains .binnacle = false := by rfl) : OwnerKept s u :=
  h1.trans (.of_keeps h2 hb)

/-- Either branch. -/
theorem OwnerKept.ite {c : Prop} [Decidable c] {s t u : State} (h1 : OwnerKept s t) (h2 : OwnerKept s u) :
    OwnerKept s (if c then t else u) := by
  split
  · exact h1
  · exact h2

/-- Changes in order. -/
theorem OwnerKept.foldl {α : Type} {f : State → α → State} (hf : ∀ t a, OwnerKept t (f t a)) (l : List α) (s : State) :
    OwnerKept s (l.foldl f s) := by
  induction l generalizing s with
  | nil => exact .refl s
  | cons a r ih => exact (hf s a).trans (ih _)

/-- A host write to a boot and attestation register keeps the owner where its effect does. -/
theorem OwnerKept.secWrite {s t : State} (h : OwnerKept s t) : OwnerKept s (s.secWrite t) :=
  .ite (.refl s) (.ite (.refl s) h)

/-- A host write to another register does likewise. -/
theorem OwnerKept.hostWrite {s t : State} (h : OwnerKept s t) : OwnerKept s (s.hostWrite t) :=
  .secWrite (.ite (.refl s) h)

/-- A management request does likewise. -/
theorem OwnerKept.mgmtRequest {s t : State} (r : MgmtRequest) (code : Nat) (lengthOk : Bool) (h : OwnerKept s t) :
    OwnerKept s (s.mgmtRequest r code lengthOk t) := by
  have hreply : ∀ status, OwnerKept s (s.mgmtReply r code status []) := fun _ => .of_keeps (State.mgmtReply_keeps ..)
  exact .ite (.refl s) (.ite (hreply _) (.ite (hreply _) h))

/-! What memory corrects, and what reads it. -/

theorem State.laneCorrected_ownerKept (s : State) (p : HbmPlace) (lane : Nat) : OwnerKept s (s.laneCorrected p lane) :=
  .ite (.ite (.after (State.post_keeps ..) rfl) (.after (State.post_keeps ..) rfl)) rfl

theorem State.codeword_ownerKept (s : State) (offset : Nat) (lanes : List Nat) (uncorrectable : Bool) :
    OwnerKept s (s.codeword offset lanes uncorrectable) := by
  have hlanes : ∀ (p : HbmPlace) (l : List Nat), OwnerKept s (l.foldl (fun a x => a.laneCorrected p x) s) :=
    fun _ l => .foldl (fun _ _ => State.laneCorrected_ownerKept ..) l s
  unfold State.codeword
  dsimp only
  refine .ite (.refl s) (.ite (.of_keeps (State.codewordUncorrectable_keeps ..)) (.ite (.ite (hlanes ..) ?_) ?_))
  · exact .after (State.corrected_keeps ..) (.after (State.bump_keeps ..) (hlanes ..))
  · exact .after (State.corrected_keeps ..) rfl

theorem State.demandReads_ownerKept (s : State) (ranges : List (Nat × Nat)) (errors : List CodewordError) :
    OwnerKept s (s.demandReads ranges errors) :=
  .foldl (fun t _ => .ite (State.codeword_ownerKept ..) (.refl t)) errors s

theorem State.scrub_ownerKept (s : State) (offset : Nat) (lanes : List Nat) (uncorrectable : Bool) :
    OwnerKept s (s.scrub offset lanes uncorrectable) :=
  .ite (.refl s) (.after (State.scrubbedOne_keeps ..) (State.codeword_ownerKept ..))

theorem State.copyStep_ownerKept (s : State) (id : TaskId) (op : Nat) (errors : List CodewordError) :
    OwnerKept s (s.copyStep id op errors) := by
  unfold State.copyStep
  split
  · exact .after (State.applyResult_keeps ..) (State.demandReads_ownerKept ..)
  · exact .refl s

theorem State.bar2Access_ownerKept (s : State) (off : Nat) (write : Option (List Byte)) (ep : Bool) (r : Bar2Reads) :
    OwnerKept s (s.bar2Access off write ep r) :=
  .after (State.bar2Transfer_keeps ..) (State.demandReads_ownerKept ..)

/-! What retires a tile. -/

theorem State.retireTile_ownerKept (s : State) (tile : Nat) : OwnerKept s (s.retireTile tile) := by
  have hmoved : ∀ (r : Binnacle) (l : List Task), r.ownerKey = s.binnacle.ownerKey →
      OwnerKept s (l.foldl (fun a t => a.moveFromTile tile t) { s with binnacle := r }) := fun r l hr =>
    .trans (show OwnerKept s { s with binnacle := r } from hr) (.foldl (fun _ _ => .of_keeps (State.moveFromTile_keeps ..)) l _)
  exact .ite (.refl s) (.after (State.post_keeps ..) (.after (State.logError_keeps ..) (hmoved _ _ rfl)))

theorem State.suspectAgain_ownerKept (s : State) (t : Task) (tile major : Nat) (x : ShadowRuns) :
    OwnerKept s (s.suspectAgain t tile major x) := by
  have hsuspect : OwnerKept s (s.suspectTile tile) := .of_keeps (State.suspectTile_keeps ..)
  exact .ite (.after (State.bump_keeps ..) hsuspect)
    (.trans (.after (State.shadowDiffers_keeps ..) hsuspect) (State.retireTile_ownerKept ..))

theorem State.shadowOutcome_ownerKept (s : State) (t : Task) (x : ShadowRuns) : OwnerKept s (s.shadowOutcome t x).1 := by
  have hown : OwnerKept s (if x.own = t.csum.getD x.own then s else s.undefine t.outs) :=
    .ite (.refl s) (.of_keeps (State.undefine_keeps ..))
  have hdiffers : ∀ {u : State} (tile other status : Nat), OwnerKept s u →
      OwnerKept s (u.shadowDiffers t tile other status x) := fun _ _ _ h => .after (State.shadowDiffers_keeps ..) h
  unfold State.shadowOutcome
  dsimp only
  split
  · exact hown
  · split
    · exact hdiffers _ _ _ hown
    · split
      · exact (hdiffers _ _ _ hown).trans (State.suspectAgain_ownerKept ..)
      · split
        · exact .trans (.after (State.setTask_keeps ..) (hdiffers _ _ _ (.refl s))) (State.suspectAgain_ownerKept ..)
        · dsimp only
          exact hdiffers _ _ _ (hdiffers _ _ _ hown)

theorem State.shadowCheck_ownerKept (s : State) (t : Task) (runs : List (Option Nat)) :
    OwnerKept s (s.shadowCheck t runs).1 := by
  unfold State.shadowCheck
  split
  · exact .refl s
  · split
    · exact .of_keeps (State.bump_keeps ..)
    · split
      · exact .of_keeps (State.bump_keeps ..)
      · split
        · exact .refl s
        · have hruns := s.shadowOutcome_ownerKept t (shadowRuns ‹_› runs)
          exact .ite (.after (State.bump_keeps ..) hruns) hruns

theorem State.replayEnd_ownerKept (s : State) (t : Task) : OwnerKept s (s.replayEnd t) :=
  .ite (.refl s) (.ite (.of_keeps (State.bump_keeps ..)) (.ite (State.retireTile_ownerKept ..) (.refl s)))

theorem State.finishTask_ownerKept (s : State) (t : Task) (runs : List (Option Nat)) :
    OwnerKept s (s.finishTask t runs) := by
  have hchecked : OwnerKept s (((s.undefineOverwritten t).replayEnd t).shadowCheck t runs).1 :=
    .trans (.trans (.of_keeps (State.undefineOverwritten_keeps ..)) (State.replayEnd_ownerKept ..))
      (State.shadowCheck_ownerKept ..)
  refine .ite (.of_keeps (State.complete_keeps ..)) ?_
  dsimp only
  split
  · rename_i he
    rwa [he] at hchecked
  · rename_i status he
    rw [he] at hchecked
    dsimp only at hchecked ⊢
    have hends := OwnerKept.ite (c := status = stOK) (.after (State.refreshEnds_keeps _ t) hchecked) hchecked
    have hdone := OwnerKept.after (State.complete_keeps _ t status) hends
    exact .ite (.after (State.poisonConsumed_keeps ..) hdone) hdone

theorem State.taskComplete_ownerKept (s : State) (id : TaskId) (runs : List (Option Nat)) :
    OwnerKept s (s.taskComplete id runs) := by
  unfold State.taskComplete
  split
  · exact .refl s
  · rename_i t _
    have hcommitted : OwnerKept s (if t.committed then s else s.bump Reg.SCH_CNT_SPEC_COMMIT 1) :=
      .ite (.refl s) (.of_keeps (State.bump_keeps ..))
    refine .ite (.refl s) (.ite (.ite (.of_keeps (State.setTask_keeps ..)) ?_) (State.finishTask_ownerKept ..))
    dsimp only
    split
    · exact .after (State.runAgain_keeps ..) (.after (State.bump_keeps ..) hcommitted)
    · exact hcommitted.trans (State.finishTask_ownerKept ..)

/-! What is learned of a peer. -/

theorem State.acceptPeer_ownerKept (s : State) (p : Nat) : OwnerKept s (s.acceptPeer p) :=
  .after (State.beginCheck_keeps ..) (.after (State.extendMeasure_keeps ..) rfl)

theorem State.judgePeer_ownerKept (s : State) (p : Nat) (key : List Byte) (node : Nat) :
    OwnerKept s (s.judgePeer p key node) := by
  have hquarantine : ∀ (t : State) (reason : Nat), OwnerKept t (t.setLink p psQUARANTINE reason) :=
    fun _ _ => .of_keeps (State.setLink_keeps ..)
  unfold State.judgePeer
  dsimp only
  generalize hu : s.setRegs _ = u
  have hregs : OwnerKept s u := hu ▸ .of_keeps (State.setRegs_keeps ..)
  refine hregs.trans (.ite (.of_keeps (State.beginCheck_keeps ..)) (.ite (.ite (State.acceptPeer_ownerKept ..) ?_) ?_))
  · exact hquarantine ..
  · have hposted := OwnerKept.after (State.post_keeps _ Reg.FAB_EVENT_peer_changed p
      (leNat ((fingerprint key).take 8)) (leNat ((fingerprint key).drop 8))) (hquarantine u 1)
    exact hposted.trans rfl

theorem State.onIdent_ownerKept (s : State) (p part : Nat) (content : List Byte) :
    OwnerKept s (s.onIdent p part content) := by
  have hquarantine : ∀ t : State, OwnerKept t (t.setLink p psQUARANTINE 3) := fun _ => .of_keeps (State.setLink_keeps ..)
  have hport : ∀ x, OwnerKept s (s.setPort p x) := fun _ => .of_keeps (State.setPort_keeps ..)
  refine .ite (.refl s) (.ite (hquarantine s) (.ite (.after (State.sendStatement_keeps ..) (hport _)) (.ite (.refl s) ?_)))
  refine .ite (hport _) (.ite ?_ ?_)
  · exact (hport _).trans (State.judgePeer_ownerKept ..)
  · exact (hport _).trans (hquarantine _)

theorem State.onControl_ownerKept (s : State) (p : Nat) (c : List Byte) : OwnerKept s (s.onControl p c) := by
  unfold State.onControl
  split
  · exact .of_keeps (State.onAckCredit_keeps ..)
  · exact .of_keeps (State.onNak_keeps ..)
  · exact .refl s
  · exact State.onIdent_ownerKept ..
  · exact .of_keeps (State.onWidth_keeps ..)
  · exact .of_keeps (State.onChart_keeps ..)
  · exact .of_keeps (State.bump_keeps ..)

theorem State.unitArrives_ownerKept (s : State) (p seq u fec value : Nat) :
    OwnerKept s (s.unitArrives p seq u fec value) := by
  have hheard : OwnerKept s ((s.heard p).fecResult p u fec) :=
    .after (State.fecResult_keeps ..) (.of_keeps (State.heard_keeps ..))
  have hbad := OwnerKept.after (State.bump_keeps _ (Reg.FAB_P_CNT_CRC p) 1) hheard
  refine .ite hheard (.ite (.ite (.after (State.discardFlit_keeps ..) hbad) hbad) (.ite ?_ (.ite ?_ ?_)))
  · exact hheard.trans (State.onControl_ownerKept ..)
  · exact .after (State.discardFlit_keeps ..) hheard
  · exact .after (State.acceptFlit_keeps ..) hheard

/-! What a boot, an update and a recovery write to the flash. -/

theorem State.flashWritten_ownerKept (s : State) (ok : Bool) : OwnerKept s (s.flashWritten ok) := by
  unfold State.flashWritten
  split
  · cases ok <;> rfl
  · exact .refl s

theorem State.bootGoesOn_ownerKept (s : State) : OwnerKept s s.bootGoesOn :=
  .ite (.after (State.bootImage_keeps ..) (s.flashWritten_ownerKept true)) (.refl s)

theorem State.updateDone_ownerKept (s : State) (ok : Bool) : OwnerKept s (s.updateDone ok) := by
  have hflash := s.flashWritten_ownerKept ok
  unfold State.updateDone
  split
  · exact .refl s
  · refine .ite (.refl s) (.ite hflash (.ite ?_ (.after (State.updateFails_keeps ..) hflash)))
    exact .after (State.post_keeps ..) (.after (State.setRegs_keeps ..) hflash)

theorem State.recoveryWritten_ownerKept (s : State) (ok : Bool) : OwnerKept s (s.recoveryWritten ok) := by
  have hflash := s.flashWritten_ownerKept ok
  unfold State.recoveryWritten
  split
  · exact .refl s
  · exact .ite (.refl s) (.ite (.after (State.moduleReset_keeps ..) hflash) (.after (State.setRegs_keeps ..) hflash))

/-! The loss of power, and what the Pilot and the carrier record. -/

theorem State.rthUpdate_ownerKept (s : State) (tjMax tIn pIn : Nat) : OwnerKept s (s.rthUpdate tjMax tIn pIn) :=
  .after (State.rebudget_keeps ..) (.after (State.setRegs_keeps ..) rfl)

theorem State.ageingStore_ownerKept (s : State) : OwnerKept s s.ageingStore := rfl

theorem State.commitSvn_ownerKept (s : State) : OwnerKept s s.commitSvn := rfl

theorem State.trip_ownerKept (s : State) (cause : Nat) (lasts : Bool) (r : Reading) : OwnerKept s (s.trip cause lasts r) :=
  .ite (.after (State.emit_keeps ..) (.after (State.setCarrier_keeps ..) (.after (State.railsOff_keeps ..) rfl))) (.refl s)

theorem State.inputOvervoltage_ownerKept (s : State) (vin : Nat) (persisted : Bool) :
    OwnerKept s (s.inputOvervoltage vin persisted) := by
  have hinput : OwnerKept s (s.setInput (Nat.min vin 6600)) := .of_keeps (State.setInput_keeps ..)
  exact .ite (hinput.trans (State.trip_ownerKept ..)) hinput

theorem State.latchUnderPower_ownerKept (s : State) : OwnerKept s s.latchUnderPower := by
  have hlatch : OwnerKept s (s.setCarrier { s.carrier with latchOpen := true }) := .of_keeps (State.setCarrier_keeps ..)
  exact .ite (.trans (.after (State.railsOff_keeps ..) hlatch) rfl) hlatch

theorem State.vauxLoss_ownerKept (s : State) : OwnerKept s s.vauxLoss := by
  refine .trans (t := s.railsOff .off) (.of_keeps (State.railsOff_keeps ..)) ?_
  unfold State.vauxLoss OwnerKept
  dsimp only
  split <;> rfl

theorem State.powerOff_ownerKept (s : State) (r : MgmtRequest) : OwnerKept s (s.powerOff r) := by
  have hstored : OwnerKept s (if s.powered then s.ageingStore else s) := .ite s.ageingStore_ownerKept (.refl s)
  refine .mgmtRequest r 6 _ (.ite (.after (State.mgmtReply_keeps ..) ?_) (.of_keeps (State.mgmtReply_keeps ..)))
  exact .after (State.setCarrier_keeps ..) (.after (State.railsOff_keeps ..) hstored)

/-! Management requests that write records. -/

theorem State.setAutoOn_ownerKept (s : State) (r : MgmtRequest) : OwnerKept s (s.setAutoOn r) :=
  .mgmtRequest r 8 _ (.after (State.mgmtReply_keeps ..) rfl)

theorem State.clearRetired_ownerKept (s : State) (r : MgmtRequest) : OwnerKept s (s.clearRetired r) :=
  .mgmtRequest r 10 _ (.ite (.of_keeps (State.mgmtReply_keeps ..)) (.after (State.mgmtReply_keeps ..) rfl))

theorem State.clearPeer_ownerKept (s : State) (r : MgmtRequest) : OwnerKept s (s.clearPeer r) :=
  .mgmtRequest r 11 _ (.after (State.mgmtReply_keeps ..) rfl)

/-- A command that answers a state keeps the owner where its effect does. -/
theorem OwnerKept.answered {s u t : State} {c : Instr} (hk : OwnerKept s u) (h : exec c s = .next t)
    (he : exec c s = perform c u := by rfl) : OwnerKept s t :=
  eq_of_perform_eq_next (he.symm.trans h) ▸ hk

/-- Of the commands that write the Binnacle's records only those that may change the owner do so. -/
theorem exec_ownerKept {c : Instr} {s t : State} (hc : ((frameOf c).contains .binnacle && !mayChangeOwner c) = true)
    (h : exec c s = .next t) : OwnerKept s t := by
  cases c
  case taskComplete => exact .answered (State.taskComplete_ownerKept ..) h
  case copy => exact .answered (State.copyStep_ownerKept ..) h
  case copy2d => exact .answered (State.copyStep_ownerKept ..) h
  case scrubCodeword => exact .answered (State.scrub_ownerKept ..) h
  case bar2Access => exact .answered (.secWrite (State.bar2Access_ownerKept ..)) h
  case flitReceive => exact .answered (.ite (State.unitArrives_ownerKept ..) (.refl s)) h
  case ident =>
    exact .answered (.ite (.trans (.of_keeps (State.heard_keeps ..)) (State.onIdent_ownerKept ..)) (.refl s)) h
  case accept => exact .answered (.hostWrite (.ite (State.acceptPeer_ownerKept ..) (.refl s))) h
  case rthUpdate => exact .answered (State.rthUpdate_ownerKept ..) h
  case ageingStore => exact .answered s.ageingStore_ownerKept h
  case commitSvn => exact .answered (.secWrite s.commitSvn_ownerKept) h
  case bootFlashWaitEnd => exact .answered s.bootGoesOn_ownerKept h
  case updateDone => exact .answered (State.updateDone_ownerKept ..) h
  case recoveryFlashWriteEnd => exact .answered (State.recoveryWritten_ownerKept ..) h
  case inputOvervoltage => exact .answered (State.inputOvervoltage_ownerKept ..) h
  case railOvercurrent => exact .answered (State.trip_ownerKept ..) h
  case junctionOvertemp => exact .answered (State.trip_ownerKept ..) h
  case coolantLoss => exact .answered (State.trip_ownerKept ..) h
  case leakage => exact .answered (State.trip_ownerKept ..) h
  case latchUnderPower => exact .answered s.latchUnderPower_ownerKept h
  case vauxLoss => exact .answered s.vauxLoss_ownerKept h
  case powerOff => exact .answered (State.powerOff_ownerKept ..) h
  case setAutoOn => exact .answered (State.setAutoOn_ownerKept ..) h
  case clearRetired => exact .answered (State.clearRetired_ownerKept ..) h
  case clearPeer => exact .answered (State.clearPeer_ownerKept ..) h
  -- The others have no Binnacle in their frame, or may change the owner.
  all_goals exact Bool.noConfusion hc

/-- The Chart is in the frame of no other command than those that may change it. -/
theorem frameOf_chart (c : Instr) : (mayChangeChart c || !(frameOf c).contains .chart) = true := by
  cases c <;> rfl

/-- Settles O58: the Chart is in the frame of the commands alone that may change it, and the owner stays as the Binnacle's records
do or by their writers. -/
theorem chartAndOwnerChanges : Obligations.ChartAndOwnerChanges := by
  intro c s t h
  refine ⟨fun hchart => (exec_keeps h).1 .chart ?_, fun howner => ?_⟩
  · simpa [hchart] using frameOf_chart c
  · cases hb : (frameOf c).contains .binnacle with
    | false => exact OwnerKept.of_keeps (exec_keeps h) hb
    | true => exact exec_ownerKept (by rw [hb, howner]; rfl) h

end

end Sys2Proof.Machine
end

section
namespace Sys2Proof.Machine

open Sys2Proof

section

-- As in the model's Laws: one declaration after another keeps the joined text within the check's memory.
set_option Elab.async false

/-! ### The host's writes to CHT_CTRL -/

theorem State.loading_of_none {s : State} (h : s.load = none) : s.loading = false := by
  simp [State.loading, h]

theorem exec_load_of_hostServes {s : State} (h : hostServes s) (withUnload : Bool) :
    exec (.load withUnload) s = .next (s.loadWrite withUnload) :=
  (perform_of_wf (c := .load withUnload) rfl _).trans (congrArg _ (State.hostWrite_of_hostServes h _))

theorem exec_unload_of_hostServes {s : State} (h : hostServes s) : exec .unload s = .next s.unload :=
  (perform_of_wf (c := .unload) rfl _).trans (congrArg _ (State.hostWrite_of_hostServes h _))

theorem exec_force_of_hostServes {s : State} (h : hostServes s) : exec .force s = .next s.force :=
  (perform_of_wf (c := .force) rfl _).trans (congrArg _ (State.hostWrite_of_hostServes h _))

/-! ### LOAD -/

/-- While a load is in progress another changes nothing. -/
theorem State.loadWrite_of_loading {s : State} (h : s.loading = true) : s.loadWrite false = s := by
  simp [State.loadWrite, h]

/-- While a load is in progress LOAD with UNLOAD is the unload. -/
theorem State.loadWrite_unload_of_loading {s : State} (h : s.loading = true) : s.loadWrite true = s.unload := by
  simp [State.loadWrite, h]

/-- LOAD with UNLOAD performs the unload and rejects the load. -/
theorem State.loadWrite_unload {s : State} (h : s.load = none) : s.loadWrite true = s.unload.rejectLoad := by
  simp [State.loadWrite, State.loading_of_none h]

/-- From NONE a load starts. -/
theorem State.loadWrite_of_none {s : State} (h : s.load = none) (hs : s.chtState = chtNone) :
    s.loadWrite false = s.startLoad := by
  simp [State.loadWrite, State.loading_of_none h, hs]

/-- In any other state a load is rejected. -/
theorem State.loadWrite_of_ne_none {s : State} (h : s.load = none) (hs : s.chtState ≠ chtNone) :
    s.loadWrite false = s.rejectLoad := by
  simp [State.loadWrite, State.loading_of_none h, hs]

/-- The load that starts, by whether its image's length and place allow its copy. -/
theorem State.startLoad_eq (s : State) {base len : Nat} (hbase : base = s.reg Reg.CHT_IMAGE_ADDR_addr * 4096)
    (hlen : len = s.reg Reg.CHT_IMAGE_LEN_len) {fits : Bool}
    (hfits : fits = true ↔ 256 ≤ len ∧ len ≤ 536870912 ∧ len % 16 = 0 ∧ base + len ≤ hbmEnd) :
    s.startLoad = ({ s with load := some ⟨if fits then s.mem.readN base len else [], fits, s.now⟩ }.setReg
      Reg.CHT_CTRL_load 1).setChart chtLoading := by
  have hchecks : (decide (256 ≤ len) && decide (len ≤ 536870912) && decide (len % 16 = 0) && decide (base + len ≤ hbmEnd)) =
      fits := by
    rw [Bool.eq_iff_iff, hfits]
    simp only [Bool.and_eq_true, decide_eq_true_eq, and_assoc]
  subst hbase hlen hchecks
  rfl

/-- Settles O9: LOAD by the state that it finds. -/
theorem chartLoad : Obligations.ChartLoad := by
  intro s hs
  rw [exec_load_of_hostServes hs]
  refine ⟨fun hload hnone base len hbase hlen fits hfits => ?_, fun hload => ?_, fun hload hstate => ?_⟩
  · rw [State.loadWrite_of_none hload hnone, State.startLoad_eq s hbase hlen hfits]
  · rw [State.loadWrite_of_loading hload]
  · rw [State.loadWrite_of_ne_none hload hstate]
    rfl

/-! ### The end of the load checks -/

/-- Without a load there is nothing to end. -/
theorem State.loadChecksEnd_of_none {s : State} (h : s.load = none) : s.loadChecksEnd = s := by
  simp [State.loadChecksEnd, h]

/-- The end of a load keeps whether an unload waits for it. -/
theorem State.loadEnds_unloadWaiting (s : State) (r : Except Failure Chart) : (s.loadEnds r).unloadWaiting = s.unloadWaiting :=
  (s.loadEnds_keeps r).1 .unloadWaiting rfl

/-- A load ends with the outcome of its checks; an unload that waited for it then proceeds. -/
theorem State.loadChecksEnd_of_load {s u : State} {l : Load} (h : s.load = some l)
    (hu : u = s.loadEnds (s.checkImage l)) :
    (s.unloadWaiting = false → s.loadChecksEnd = u) ∧
      (s.unloadWaiting = true → s.loadChecksEnd = { u with unloadWaiting := false }.unload) := by
  have hwaits : u.unloadWaiting = s.unloadWaiting := hu ▸ s.loadEnds_unloadWaiting _
  have hends : s.loadChecksEnd = if u.unloadWaiting then { u with unloadWaiting := false }.unload else u := by
    simp only [State.loadChecksEnd, h, hu]
  rw [hends, hwaits]
  exact ⟨fun hw => by simp [hw], fun hw => by simp [hw]⟩

/-- Settles O10: the checks' outcome decides how the load ends, and the waiting unload what follows. -/
theorem chartChecksEnd : Obligations.ChartChecksEnd := by
  have hexec : ∀ s : State, exec .loadChecksEnd s = .next s.loadChecksEnd :=
    fun _ => perform_of_wf (c := .loadChecksEnd) rfl _
  refine ⟨fun s l hl => ⟨fun c u hok hu => ?_, fun reason offset u hfail hu => ?_⟩, fun s hnone => ?_⟩
  · obtain ⟨halone, hwaited⟩ := State.loadChecksEnd_of_load (u := u) hl (by rw [hu, hok]; rfl)
    exact ⟨fun hw => by rw [hexec, halone hw], fun hw => by rw [hexec, hwaited hw]⟩
  · obtain ⟨halone, hwaited⟩ := State.loadChecksEnd_of_load (u := u) hl (by rw [hu, hfail]; rfl)
    exact ⟨fun hw => by rw [hexec, halone hw], fun hw => by rw [hexec, hwaited hw]⟩
  · rw [hexec, State.loadChecksEnd_of_none hnone]

/-! ### UNLOAD and FORCE -/

/-- During a load an unload waits. -/
theorem State.unload_of_loading {s : State} (h : s.loading = true) :
    s.unload = { s with unloadWaiting := true }.setReg Reg.CHT_CTRL_unload 1 := by
  simp [State.unload, h]

/-- From ACTIVE an unload begins draining; with force it ends what remains. -/
theorem State.unload_of_active {s : State} (h : s.load = none) (hs : s.chtState = chtActive) :
    s.unload = if s.reg Reg.CHT_CTRL_force = 1 then ((s.setReg Reg.CHT_CTRL_unload 1).setChart chtDraining).forceDrain
      else (s.setReg Reg.CHT_CTRL_unload 1).setChart chtDraining := by
  simp [State.unload, State.loading_of_none h, hs]

/-- From NONE an unload completes at once. -/
theorem State.unload_of_none {s : State} (h : s.load = none) (hs : s.chtState = chtNone) :
    s.unload = (s.setReg Reg.CHT_CTRL_unload 0).post Reg.CHT_EVENT_unload_done := by
  have hactive : chtNone ≠ chtActive := by decide
  simp [State.unload, State.loading_of_none h, hs, hactive]

/-- While DRAINING an unload changes nothing. -/
theorem State.unload_of_draining {s : State} (h : s.load = none) (hs : s.chtState = chtDraining) : s.unload = s := by
  have hactive : chtDraining ≠ chtActive := by decide
  have hnone : chtDraining ≠ chtNone := by decide
  simp [State.unload, State.loading_of_none h, hs, hactive, hnone]

/-- FORCE while DRAINING, with what remains not yet ended, ends it. -/
theorem State.force_of_draining {s : State} (hs : s.chtState = chtDraining) (hz : s.zeroing = false) :
    s.force = (s.setReg Reg.CHT_CTRL_force 1).forceDrain := by
  simp [State.force, hs, hz]

/-- FORCE elsewhere only sets force. -/
theorem State.force_of_not_draining {s : State} (h : s.chtState ≠ chtDraining ∨ s.zeroing = true) :
    s.force = s.setReg Reg.CHT_CTRL_force 1 := by
  rw [State.force, if_neg]
  rintro ⟨hs, hz⟩
  exact h.elim (· hs) fun ht => Bool.noConfusion (hz.symm.trans ht)

/-! ### The stores are zeroed, and the Chart goes -/

/-- Zeroing reaches the tile stores and the hot-row backing, and no other byte. -/
theorem State.zeroStores_read (s : State) {hot : Nat} (hhot : hot = (s.chart.map (·.hotBytes)).getD 0) (a : Nat) :
    s.zeroStores.mem.read a =
      if (2 ^ 45 ≤ a ∧ a < 2 ^ 45 + 2 ^ 31) ∨ (hbmEnd - hot ≤ a ∧ a < hbmEnd - hot + hot) then 0 else s.mem.read a := by
  have hstep : s.zeroStores.mem =
      (s.mem.apply (.zero (tileKey 0 0) (2 ^ 31))).apply (.zero (hbmEnd - hot) hot) := hhot ▸ rfl
  rw [hstep, Memory.read_apply_zero, Memory.read_apply_zero, show tileKey 0 0 = 2 ^ 45 from rfl, ← ite_or]
  exact if_congr or_comm rfl rfl

/-- UNLOAD_DRAINED waits until nothing remains, and acts once. -/
theorem State.unloadDrained_of_not_drained {s : State}
    (h : s.chtState ≠ chtDraining ∨ s.zeroing = true ∨ s.drained = false) : s.unloadDrained = s := by
  rw [State.unloadDrained, if_neg]
  rintro ⟨hs, hz, hd⟩
  rcases h with h | h | h
  · exact h hs
  · exact Bool.noConfusion (hz.symm.trans h)
  · exact Bool.noConfusion (hd.symm.trans h)

/-- Once nothing remains, UNLOAD_DRAINED zeroes the stores. -/
theorem State.unloadDrained_of_drained {s : State} (hs : s.chtState = chtDraining) (hz : s.zeroing = false)
    (hd : s.drained = true) : s.unloadDrained = { s with zeroing := true }.zeroStores :=
  if_pos ⟨hs, hz, hd⟩

/-- Before zeroing has begun UNLOAD_DONE changes nothing. -/
theorem State.unloadDone_of_not_zeroing {s : State} (h : s.zeroing = false) : s.unloadDone = s := by
  simp [State.unloadDone, h]

/-- When zeroing has ended the Chart goes. -/
theorem State.unloadDone_of_zeroing {s : State} (h : s.zeroing = true) :
    s.unloadDone = ((s.zeroStores.dropChart.setReg Reg.CHT_CTRL_unload 0).setChart chtNone).post Reg.CHT_EVENT_unload_done :=
  if_pos h

/-- Settles O11: UNLOAD, FORCE and LOAD with UNLOAD by the state that they find, and the end of the unload by what zeroing
reaches. -/
theorem chartUnload : Obligations.ChartUnload := by
  have hdrained : ∀ s : State, exec .unloadDrained s = .next s.unloadDrained :=
    fun _ => perform_of_wf (c := .unloadDrained) rfl _
  have hdone : ∀ s : State, exec .unloadDone s = .next s.unloadDone :=
    fun _ => perform_of_wf (c := .unloadDone) rfl _
  refine ⟨fun s hs => ?_, fun s u hs hload hu => ?_, fun s hs hload => ?_, fun s => ?_⟩
  · rw [exec_unload_of_hostServes hs, exec_force_of_hostServes hs]
    refine ⟨fun hload hstate hforce => ?_, fun hload hstate hforce => ?_, fun hload hstate => ?_, fun hload hstate => ?_,
      fun hload => ?_, fun hstate hz => ?_, fun hother => ?_⟩
    · rw [State.unload_of_active hload hstate, if_neg (by omega)]
    · rw [State.unload_of_active hload hstate, if_pos hforce]
    · rw [State.unload_of_none hload hstate]
    · rw [State.unload_of_draining hload hstate]
    · rw [State.unload_of_loading hload]
    · rw [State.force_of_draining hstate hz]
    · rw [State.force_of_not_draining hother]
  · rw [exec_unload_of_hostServes hs] at hu
    obtain rfl := Host.Outcome.next.inj hu
    rw [exec_load_of_hostServes hs, State.loadWrite_unload hload]
    rfl
  · rw [exec_load_of_hostServes hs, State.loadWrite_unload_of_loading hload, State.unload_of_loading hload]
  · rw [hdrained, hdone]
    refine ⟨fun h => ?_, fun hz => ?_, fun hstate hz hd => ?_, fun hz => ?_⟩
    · rw [State.unloadDrained_of_not_drained h]
    · rw [State.unloadDone_of_not_zeroing hz]
    · rw [State.unloadDrained_of_drained hstate hz hd]
      exact ⟨_, rfl, rfl, fun a hot hhot => State.zeroStores_read { s with zeroing := true } hhot a⟩
    · rw [State.unloadDone_of_zeroing hz]

end

end Sys2Proof.Machine
end

section
namespace Sys2Proof.Machine

open Sys2Proof

section

-- As in the model's Laws: one declaration after another keeps the joined text within the check's memory.
set_option Elab.async false

/-! ### Rings and tasks by their names -/

/-- A ring has the ID that it is asked for by. -/
@[simp] theorem State.ring_id (s : State) (ring : Nat) : (s.ring ring).id = ring := by
  unfold State.ring
  cases h : s.rings.find? (fun r => decide (r.id = ring)) with
  | none => rfl
  | some r => simpa using List.find?_some h

/-- A list of rings after one is put into it, by ID. -/
theorem find?_putRing (r : Ring) (id : Nat) (l : List Ring) :
    (putRing r l).find? (fun x => decide (x.id = id)) =
      if r.id = id then some r else l.find? (fun x => decide (x.id = id)) := by
  induction l with
  | nil => by_cases h : r.id = id <;> simp [putRing, h]
  | cons a l ih =>
    unfold putRing
    split
    · by_cases h : r.id = id <;> simp [h]
    · split
      · rename_i ha
        by_cases h : r.id = id
        · simp [h]
        · simp [h, ← ha]
      · rename_i ha
        by_cases h : a.id = id
        · have hr : r.id ≠ id := fun e => ha (e.trans h.symm)
          simp [h, hr]
        · simp [h, ih]

/-- The rings after one is replaced. -/
theorem State.ring_setRing (s : State) (r : Ring) (id : Nat) :
    (s.setRing r).ring id = if r.id = id then r else s.ring id := by
  unfold State.ring State.setRing
  dsimp only
  rw [find?_putRing]
  split <;> rfl

/-- A ring that is replaced under its own ID. -/
theorem State.ring_setRing_of_id (s : State) {r : Ring} {id : Nat} (h : r.id = id) : (s.setRing r).ring id = r := by
  simp [State.ring_setRing, h]

/-- The other rings stay. -/
theorem State.ring_setRing_other (s : State) {r : Ring} {id : Nat} (h : id ≠ r.id) : (s.setRing r).ring id = s.ring id := by
  simp [State.ring_setRing, h.symm]

/-- The list of rings decides every ring. -/
theorem State.ring_congr {s t : State} (h : t.rings = s.rings) (id : Nat) : t.ring id = s.ring id := by
  unfold State.ring; rw [h]

/-- A job's state decides whether it runs. -/
theorem State.jobRuns_iff {s : State} {job : Nat} : s.jobRuns job = true ↔ s.jobState job = 1 := by
  simp [State.jobRuns]

theorem State.jobRuns_of_ne {s : State} {job : Nat} (h : s.jobState job ≠ 1) : s.jobRuns job = false := by
  simp [State.jobRuns, h]

/-- A task handle of a compute die. -/
theorem TaskId.wf_of_lt {id : TaskId} (h : id.die < 8) : id.wf = true := decide_eq_true h

/-! ### Signals (R55, R57) -/

/-- A signal of an amount for a tag that no live task holds goes to the pending-signal table. -/
theorem State.signal?_of_not_tagged {s : State} {job tag amount : Nat} (ha : 0 < amount) (ht : tag ≠ 0)
    (hnone : s.tagged? job tag = none) (c : Bool) : s.signal? job tag amount c = s.pendSignal job tag amount := by
  simp [State.signal?, Nat.ne_of_gt ha, ht, hnone]

/-- A signal for a live task's tag decrements its counters. -/
theorem State.signal?_of_tagged {s : State} {job tag amount : Nat} {t : Task} (ha : 0 < amount) (ht : tag ≠ 0)
    (hsome : s.tagged? job tag = some t) (c : Bool) : s.signal? job tag amount c = some (s.decrement t amount c) := by
  simp [State.signal?, Nat.ne_of_gt ha, ht, hsome]

/-- Whether the pending-signal table has an entry for a tag of a job. -/
theorem State.pending_eq_false {s : State} {job tag : Nat} (h : ∀ p ∈ s.signals, ¬ (p.job = job ∧ p.tag = tag)) :
    s.signals.any (fun p => decide (p.job = job) && decide (p.tag = tag)) = false := by
  simpa using h

/-- A signal adds to the entry that its tag has. -/
theorem State.pendSignal_of_entry {s : State} {job tag : Nat} (h : ∃ p ∈ s.signals, p.job = job ∧ p.tag = tag) (amount : Nat) :
    s.pendSignal job tag amount = some { s with signals := s.signals.map (fun p =>
      if p.job = job ∧ p.tag = tag then { p with count := p.count + amount } else p) } := by
  rw [State.pendSignal, if_pos (by simpa using h)]

/-- A full table turns a tag without an entry away. -/
theorem State.pendSignal_of_full {s : State} {job tag : Nat} (h : ∀ p ∈ s.signals, ¬ (p.job = job ∧ p.tag = tag))
    (hfull : pendingSize ≤ s.signals.length) (amount : Nat) : s.pendSignal job tag amount = none := by
  rw [State.pendSignal, State.pending_eq_false h, if_neg Bool.false_ne_true, if_pos hfull]

/-- A tag without an entry takes a free one; the last sets pending_full. -/
theorem State.pendSignal_of_room {s : State} {job tag : Nat} (h : ∀ p ∈ s.signals, ¬ (p.job = job ∧ p.tag = tag))
    (hroom : s.signals.length < pendingSize) (amount : Nat) :
    s.pendSignal job tag amount = some (if s.signals.length + 1 = pendingSize then
        ({ s with signals := s.signals ++ [⟨job, tag, amount⟩] } : State).setReg Reg.SCH_EVENT_pending_full 1
      else { s with signals := s.signals ++ [⟨job, tag, amount⟩] }) := by
  rw [State.pendSignal, State.pending_eq_false h, if_neg Bool.false_ne_true, if_neg (Nat.not_le.2 hroom)]
  simp only [List.length_append, List.length_singleton]

/-- A signal for a task that is not speculative acts on its dependence counter alone; the rest is an excess (R55). -/
theorem State.decrement_of_not_spec {s : State} {t : Task} (h : t.desc.spec = false) {amount dep : Nat}
    (hdep : dep = Nat.min amount t.counter) (c : Bool) :
    s.decrement t amount c =
      (if 0 < dep ∧ dep = t.counter ∧ t.phase = .waiting then
          (s.setTask { t with counter := t.counter - dep }).counterZero { t with counter := t.counter - dep }
        else s.setTask { t with counter := t.counter - dep }).bump Reg.SCH_CNT_SIGNAL_EXCESS (amount - dep) := by
  subst hdep
  simp [State.decrement, h]

/-- The last signal that a waiting task needs, without a wait, makes it ready. -/
theorem State.decrement_to_zero {s : State} {t : Task} (h : t.desc.spec = false) {amount : Nat} (ha : 0 < amount)
    (hc : amount = t.counter) (hp : t.phase = .waiting) (hw : t.desc.waitMode ≠ 1) (c : Bool) :
    s.decrement t amount c =
      ((s.setTask { t with counter := 0 }).makeReady { t with counter := 0 }).bump Reg.SCH_CNT_SIGNAL_EXCESS 0 := by
  have hdep : amount = Nat.min amount t.counter := by rw [← hc]; exact (Nat.min_self _).symm
  rw [State.decrement_of_not_spec h hdep, if_pos ⟨ha, hc, hp⟩]
  simp [State.counterZero, hw, hc]

/-- A signal below what the task still waits for lowers its counter. -/
theorem State.decrement_below {s : State} {t : Task} (h : t.desc.spec = false) {amount : Nat} (hlt : amount < t.counter)
    (c : Bool) :
    s.decrement t amount c = (s.setTask { t with counter := t.counter - amount }).bump Reg.SCH_CNT_SIGNAL_EXCESS 0 := by
  have hdep : amount = Nat.min amount t.counter := (Nat.min_eq_left (Nat.le_of_lt hlt)).symm
  rw [State.decrement_of_not_spec h hdep, if_neg fun hall => Nat.ne_of_lt hlt hall.2.1, Nat.sub_self]

/-- Every signal beyond a counter of zero is an excess. -/
theorem State.decrement_at_zero {s : State} {t : Task} (h : t.desc.spec = false) (hc : t.counter = 0) (amount : Nat) (c : Bool) :
    s.decrement t amount c = (s.setTask t).bump Reg.SCH_CNT_SIGNAL_EXCESS amount := by
  have hdep : 0 = Nat.min amount t.counter := by rw [hc]; exact (Nat.min_zero _).symm
  rw [State.decrement_of_not_spec h hdep, if_neg fun hall => Nat.lt_irrefl _ hall.1]
  rfl

/-- Settles O14: a signal by its amount, its tag, the pending entries and the live task's counter. -/
theorem signalPlaced : Obligations.SignalPlaced := by
  intro s job tag amount c
  refine ⟨rfl, fun ha => ?_, fun ha ht hnone hentry => ?_, fun ha ht hnone hno hroom => ?_, fun ha ht hnone hno hfull => ?_,
    fun ha ht hnone hno hlast => ?_, fun t ha ht hsome hspec hc hp hw => ?_, fun t ha ht hsome hspec hlt => ?_,
    fun t ha ht hsome hspec hc => ?_⟩
  · simp [State.signal?, Nat.ne_of_gt ha]
  · rw [State.signal?_of_not_tagged ha ht hnone, State.pendSignal_of_entry hentry]
  · have hmore : s.signals.length + 1 ≠ pendingSize := Nat.ne_of_lt (Nat.succ_lt_succ hroom)
    rw [State.signal?_of_not_tagged ha ht hnone, State.pendSignal_of_room hno (Nat.lt_succ_of_lt hroom), if_neg hmore]
  · rw [State.signal?_of_not_tagged ha ht hnone, State.pendSignal_of_full hno hfull]
  · have hnow : s.signals.length + 1 = pendingSize := congrArg Nat.succ hlast
    rw [State.signal?_of_not_tagged ha ht hnone, State.pendSignal_of_room hno (Nat.lt_of_succ_le hnow.le), if_pos hnow]
  · rw [State.signal?_of_tagged ha ht hsome, State.decrement_to_zero hspec ha hc hp hw]
  · rw [State.signal?_of_tagged ha ht hsome, State.decrement_below hspec hlt]
  · rw [State.signal?_of_tagged ha ht hsome, State.decrement_at_zero hspec hc]

end

end Sys2Proof.Machine
end

section
namespace Sys2Proof.Machine

open Sys2Proof

section

-- As in the model's Laws: one declaration after another keeps the joined text within the check's memory.
set_option Elab.async false

/-! ### A record in its ring's queue (R66) -/

/-- The state with a completion record written at the slot that cq_tail names, before any vector is raised. -/
def State.recordStored (s : State) (ring : Nat) (w : WaitingRecord) : State :=
  (s.write ((s.ring ring).cqBase * 16 + (s.ring ring).cqTail % 2 ^ (s.ring ring).log2Size * 16)
    (w.bytes (phaseBit (s.ring ring).cqTail (s.ring ring).log2Size))).setRing
      { s.ring ring with cqTail := ((s.ring ring).cqTail + 1) % 2 ^ 32 }

/-- A record is written, and then raises the ring's vector where it asks for it. -/
theorem State.writeRecord_eq (s : State) (ring : Nat) (w : WaitingRecord) :
    s.writeRecord ring w = if w.interrupt then (s.recordStored ring w).raiseVector ((s.recordStored ring w).ringVector ring)
      else s.recordStored ring w := rfl

theorem State.recordStored_keeps (s : State) (ring : Nat) (w : WaitingRecord) :
    Keeps [.mem, .writes, .rings] s (s.recordStored ring w) :=
  (State.setRing_keeps ..).after ((State.write_keeps ..).mono rfl)

theorem State.recordStored_ring (s : State) (ring : Nat) (w : WaitingRecord) :
    (s.recordStored ring w).ring ring = { s.ring ring with cqTail := ((s.ring ring).cqTail + 1) % 2 ^ 32 } :=
  State.ring_setRing_of_id _ (s.ring_id ring)

theorem State.recordStored_ring_other (s : State) {ring other : Nat} (w : WaitingRecord) (h : other ≠ ring) :
    (s.recordStored ring w).ring other = s.ring other :=
  (State.ring_setRing_other _ (by simpa using h)).trans (State.ring_congr rfl other)

/-- A completion record has 16 bytes. -/
theorem WaitingRecord.bytes_length (w : WaitingRecord) (phase : Nat) : (w.bytes phase).length = 16 := by
  simp [WaitingRecord.bytes]

/-! ### A task completes (R56, R66) -/

/-- A task that owes no record goes on at once. -/
theorem State.complete_of_silent {s u : State} {t : Task} {status : Nat} (hu : u = s.countCompleted t)
    (h : status = stOK ∧ t.desc.notify = false) : s.complete t status = u.afterRecord { t with status := status } := by
  subst hu
  exact if_pos h

/-- With room in its queue and no other record waiting a task's record is written at once. -/
theorem State.complete_of_room {s u : State} {t : Task} {status : Nat} (hu : u = s.countCompleted t)
    (h : ¬ (status = stOK ∧ t.desc.notify = false)) (hroom : (u.ring t.ring).cqFull = false)
    (hnone : (u.ring t.ring).waiting = []) :
    s.complete t status = (u.writeRecord t.ring (t.record status u.now)).afterRecord { t with status := status } := by
  subst hu
  have hfree : ¬ (((s.countCompleted t).ring t.ring).cqFull = true ∨ ((s.countCompleted t).ring t.ring).waiting ≠ []) := by
    simp [hroom, hnone]
  exact (if_neg h).trans (if_neg hfree)

/-- Else a task's record waits, and its entry with it. -/
theorem State.complete_of_queued {s u : State} {t : Task} {status : Nat} (hu : u = s.countCompleted t)
    (h : ¬ (status = stOK ∧ t.desc.notify = false))
    (hfull : (u.ring t.ring).cqFull = true ∨ (u.ring t.ring).waiting ≠ []) :
    s.complete t status = (u.setTask { t with status := status, phase := .recordDue }).setRing
      { u.ring t.ring with waiting := (u.ring t.ring).waiting ++ [t.record status u.now] } := by
  subst hu
  exact (if_neg h).trans (if_pos hfull)

/-- The signals that a task owes once its record is written (R56, R69). -/
def Task.signalsAfter (t : Task) : List Nat :=
  if t.status = stOK then t.desc.succ.filter (· ≠ 0)
  else if t.status = stLATE ∧ t.dispatched.isNone ∧ t.desc.expirySucc ≠ 0 then [t.desc.expirySucc] else []

/-- A task whose signals are all placed frees its entry; else it keeps what it still owes. -/
theorem State.afterRecord_of_placed {s u : State} {t : Task} {owed : List Nat}
    (h : (s.setTask { t with phase := .signalling, owed := [] }).placeSignals t.job t.signalsAfter = (u, owed)) :
    s.afterRecord t = if owed.isEmpty then u.dropTask t.id else u.setTask { t with phase := .signalling, owed := owed } := by
  change (let (s1, owed) := (s.setTask { t with phase := .signalling, owed := [] }).placeSignals t.job t.signalsAfter
    if owed.isEmpty then s1.dropTask t.id else s1.setTask { t with phase := .signalling, owed := owed }) = _
  rw [h]

/-! ### Waiting records and signals that are owed -/

/-- With the queue full, or no record waiting, none is written. -/
theorem State.recordWrite_of_none {s : State} {ring : Nat}
    (h : (s.ring ring).waiting = [] ∨ (s.ring ring).cqFull = true) : s.recordWrite ring = s := by
  unfold State.recordWrite
  rcases h with h | h
  · simp [h]
  · cases hw : (s.ring ring).waiting <;> simp [hw, h]

/-- With a free slot the oldest waiting record is written, and what it belongs to goes on. -/
theorem State.recordWrite_of_waiting {s u v : State} {ring : Nat} {w : WaitingRecord} {rest : List WaitingRecord}
    (hw : (s.ring ring).waiting = w :: rest) (hroom : (s.ring ring).cqFull = false)
    (hu : u = (s.setRing { s.ring ring with waiting := rest }).writeRecord ring w)
    (hv : v = u.setRing (u.ring ring).closeIfDone) :
    (w.task = none → s.recordWrite ring = v.setRing { (v.ring ring).advanceDescriptor with heldByRecord := false }) ∧
    (∀ id t, w.task = some id → v.task? id = some t → s.recordWrite ring = v.afterRecord t) ∧
    (∀ id, w.task = some id → v.task? id = none → s.recordWrite ring = v) := by
  subst hv hu
  simp only [State.recordWrite, hw, hroom, Bool.false_eq_true, if_false]
  exact ⟨fun hnone => by simp only [hnone], fun id t hsome ht => by simp only [hsome, ht],
    fun id hsome ht => by simp only [hsome, ht]⟩

/-- Signals that a completed task owes are placed. -/
theorem State.signalPlace_of_signalling {s u : State} {t : Task} {owed : List Nat} (h : s.task? t.id = some t)
    (hp : t.phase = .signalling) (hs : s.placeSignals t.job t.owed = (u, owed)) :
    s.signalPlace t.id = if owed.isEmpty then u.dropTask t.id else u.setTask { t with owed := owed } := by
  simp [State.signalPlace, h, hp, hs]

/-- Settles O19: what a completing task's record meets, the bytes and the slot of a record, the oldest waiting record and
what it belongs to, and the signals that are owed. -/
theorem completionRecords : Obligations.CompletionRecords := by
  refine ⟨fun s u t status hu => ⟨State.complete_of_silent hu, State.complete_of_room hu, State.complete_of_queued hu⟩,
    fun s ring w => ?_, fun s ring hr => ?_, fun s u t owed ht hd hp hs => ?_⟩
  · exact ⟨s.recordStored ring w, (s.recordStored_keeps ring w).1, rfl, w.bytes_length _, s.recordStored_ring ring w,
      fun _ h => s.recordStored_ring_other w h, s.writeRecord_eq ring w⟩
  · have hexec : exec (.completionRecordWrite ring) s = .next (s.recordWrite ring) :=
      perform_of_wf (c := .completionRecordWrite ring) (decide_eq_true hr) _
    rw [hexec]
    refine ⟨fun h => by rw [State.recordWrite_of_none h], fun w rest u v hw hroom hu hv => ?_⟩
    obtain ⟨hentry, htask, hgone⟩ := State.recordWrite_of_waiting hw hroom hu hv
    exact ⟨fun hnone => by rw [hentry hnone], fun id t hsome ht => by rw [htask id t hsome ht],
      fun id hsome ht => by rw [hgone id hsome ht]⟩
  · have hexec : exec (.successorSignalPlace t.id) s = .next (s.signalPlace t.id) :=
      perform_of_wf (c := .successorSignalPlace t.id) (TaskId.wf_of_lt hd) _
    rw [hexec, State.signalPlace_of_signalling ht hp hs]
    exact ⟨fun h => by rw [h]; rfl, fun h => by rw [if_neg (by simpa using h)]⟩

/-! ### Expiries (R69) -/

/-- A deadline whose tick has passed completes a waiting task with LATE. -/
theorem State.deadlineExpiry_of_due {s : State} {t : Task} {due : Nat} (h : s.task? t.id = some t)
    (hd : t.deadlineTick = some due) (hp : t.phase = .waiting) (hj : s.jobState t.job = 1) (hdue : due ≤ s.tick) :
    s.deadlineExpiry t.id = s.complete t stLATE := by
  simp [State.deadlineExpiry, h, hd, hp, hdue, State.jobRuns_iff.2 hj]

/-- Before its tick a deadline does nothing. -/
theorem State.deadlineExpiry_of_early {s : State} {t : Task} {due : Nat} (h : s.task? t.id = some t)
    (hd : t.deadlineTick = some due) (hearly : s.tick < due) : s.deadlineExpiry t.id = s := by
  simp [State.deadlineExpiry, h, hd, Nat.not_le.2 hearly]

/-- A delay ends with its tick. -/
theorem State.delayExpiry_of_delaying {s : State} {t : Task} {due : Nat} (h : s.task? t.id = some t)
    (hp : t.phase = .delaying due) : s.delayExpiry t.id = if due ≤ s.tick then s.makeReady t else s := by
  simp [State.delayExpiry, h, hp]

/-- A task that was never dispatched is not counted among the completed ones. -/
theorem State.countCompleted_of_not_dispatched {s : State} {t : Task} (h : t.dispatched = none) :
    s = s.countCompleted t := by
  simp [State.countCompleted, h]

/-- A task that ends with LATE before it was dispatched owes expiry_succ alone. -/
theorem Task.signalsAfter_late {t : Task} (h : t.dispatched = none) :
    { t with status := stLATE }.signalsAfter = if t.desc.expirySucc = 0 then [] else [t.desc.expirySucc] := by
  have hok : stLATE ≠ stOK := by decide
  by_cases he : t.desc.expirySucc = 0 <;> simp [Task.signalsAfter, hok, h, he]

/-- Settles O20: a task whose deadline has passed completes with LATE, and its record meets its queue as every record does. -/
theorem expiries : Obligations.Expiries := by
  intro s t due ht hd
  have hdeadline : exec (.deadlineExpiry t.id) s = .next (s.deadlineExpiry t.id) :=
    perform_of_wf (c := .deadlineExpiry t.id) (TaskId.wf_of_lt hd) _
  have hdelay : exec (.delayExpiry t.id) s = .next (s.delayExpiry t.id) :=
    perform_of_wf (c := .delayExpiry t.id) (TaskId.wf_of_lt hd) _
  have hrecord : ¬ (stLATE = stOK ∧ t.desc.notify = false) := fun h => absurd h.1 (by decide)
  rw [hdeadline, hdelay]
  refine ⟨fun hdue hp hnone hj hle => ?_, fun hdue hlt => ?_, fun hp hle => ?_, fun hp hlt => ?_⟩
  · have hcount : s = s.countCompleted t := State.countCompleted_of_not_dispatched hnone
    rw [State.deadlineExpiry_of_due ht hdue hp hj hle]
    refine ⟨fun hroom hempty u owed hplaced => ?_, fun hfull => by rw [State.complete_of_queued hcount hrecord hfull]⟩
    rw [← Task.signalsAfter_late hnone] at hplaced
    rw [State.complete_of_room hcount hrecord hroom hempty, State.afterRecord_of_placed hplaced]
    exact ⟨fun h => by rw [h]; rfl, fun h => by rw [if_neg (by simpa using h)]⟩
  · rw [State.deadlineExpiry_of_early ht hdue hlt]
  · rw [State.delayExpiry_of_delaying ht hp, if_pos hle]
  · rw [State.delayExpiry_of_delaying ht hp, if_neg (Nat.not_le.2 hlt)]

end

end Sys2Proof.Machine
end

section
namespace Sys2Proof.Machine

open Sys2Proof

section

-- As in the model's Laws: one declaration after another keeps the joined text within the check's memory.
set_option Elab.async false

/-! ### The cycle that passes on an empty queue (R67, R357) -/

/-- Within a tick a cycle only passes. -/
theorem State.passCycle_of_within {s : State} (h : s.now + 1 ≤ s.boundary) :
    s.passCycle = ({ s with now := s.now + 1 } : State).writeCorrections :=
  if_neg (Nat.not_lt.2 h)

/-- Past the boundary the next tick begins. -/
theorem State.passCycle_of_past {s : State} (h : s.boundary < s.now + 1) :
    s.passCycle = ({ s with
      now := s.now + 1, tick := s.tick + 1, period := s.reg Reg.SCH_TICK_period,
      boundary := (s.boundary / s.reg Reg.SCH_TICK_period + 1) * s.reg Reg.SCH_TICK_period } : State).writeCorrections :=
  if_pos h

/-- Where no merged correction is due none is recorded. -/
theorem State.writeCorrections_of_none_due {s : State} (h : ∀ c ∈ s.corrections, s.now < c.since + mergeCycles) :
    s.writeCorrections = s := by
  have hnone : s.corrections.filter (fun c => decide (c.since + mergeCycles ≤ s.now)) = [] :=
    List.filter_eq_nil_iff.2 fun c hc => by simpa using h c hc
  have hall : s.corrections.filter (fun c => !decide (c.since + mergeCycles ≤ s.now)) = s.corrections :=
    List.filter_eq_self.2 fun c hc => by simpa using h c hc
  simp only [State.writeCorrections, hnone, hall, List.foldl_nil]

/-- A merged correction that is alone and due becomes its error record. -/
theorem State.writeCorrections_of_one_due {s : State} {c : Correction} (h : s.corrections = [c])
    (hdue : c.since + mergeCycles ≤ s.now) :
    s.writeCorrections = ({ s with corrections := [] } : State).logError c.record := by
  simp [State.writeCorrections, h, hdue]

/-- Settles O2: a cycle within a tick, a cycle past its boundary, and the merged corrections that are due. -/
theorem idleCycle : Obligations.IdleCycle := by
  intro s hidle
  have hstep : step s = .next s.passCycle := by simp only [step, hidle]
  rw [hstep]
  exact ⟨fun h => by rw [State.passCycle_of_within h], fun h => by rw [State.passCycle_of_past h],
    State.writeCorrections_of_none_due, fun _ h hdue => State.writeCorrections_of_one_due h hdue⟩

/-! ### The entry at a ring's head (R62, R65) -/

/-- The entry that a ring has read and waits with is not read again, and its poison not asked for. -/
theorem State.ringEntryPoisoned_of_stalled {s : State} {ring : Nat} {e : RingEntry} (h : (s.ring ring).stalled = some e) :
    s.ringEntryPoisoned ring = false := by
  simp [State.ringEntryPoisoned, h]

/-- An open ring may take the entry that memory holds at its head. -/
theorem State.ringEntry?_of_open {s : State} {ring job : Nat} (h : ringOpen s ring job) :
    s.ringEntry? ring = some (job, parseEntry (s.mem.readN ((s.ring ring).entryKey (s.ring ring).head) 64)) := by
  obtain ⟨-, hjob, hruns, hactive, hon, hrung, hfence, hheld, hprogress, hstall⟩ := h
  simp [State.ringEntry?, hjob, State.jobRuns_iff.2 hruns, hactive, hon, hrung, hfence, hheld, hprogress, hstall]

/-- A ring with a SIGNAL that waits may take it again, enabled or not, and while the Chart is DRAINING. -/
theorem State.ringEntry?_of_stalled {s : State} {ring job : Nat} {e : RingEntry} (hjob : s.ringJob? ring = some job)
    (hruns : s.jobState job = 1) (hchart : s.chtState = chtActive ∨ s.chtState = chtDraining)
    (hstall : (s.ring ring).stalled = some e) (hfence : (s.ring ring).fenced = false)
    (hheld : (s.ring ring).heldByRecord = false) (hprogress : (s.ring ring).progress = none) :
    s.ringEntry? ring = some (job, e) := by
  simp [State.ringEntry?, hjob, State.jobRuns_iff.2 hruns, hchart, hstall, hfence, hheld, hprogress]

/-- An entry of a kind that the command takes acts. -/
theorem State.takeEntry_of_entry {s : State} {ring job : Nat} {e : RingEntry} {kinds : Nat → Bool}
    {act : Nat → RingEntry → State} (he : s.ringEntry? ring = some (job, e)) (hp : s.ringEntryPoisoned ring = false)
    (hk : kinds e.kind = true) : s.takeEntry ring kinds act = act job e := by
  simp [State.takeEntry, he, hp, hk]

/-- At an open ring the entry at head acts, where the command takes its kind. -/
theorem State.takeEntry_of_open {s : State} {ring job : Nat} {e : RingEntry} (ho : ringOpen s ring job)
    (he : headEntry s ring e) {kinds : Nat → Bool} (hk : kinds e.kind = true) (act : Nat → RingEntry → State) :
    s.takeEntry ring kinds act = act job e := by
  obtain ⟨hp, rfl⟩ := he
  exact State.takeEntry_of_entry (State.ringEntry?_of_open ho) hp hk

/-- A poisoned entry fails with PARITY, whatever its kind (R343). -/
theorem State.takeEntry_of_poisoned {s : State} {ring job : Nat} (ho : ringOpen s ring job)
    (hp : s.ringEntryPoisoned ring = true) (kinds : Nat → Bool) (act : Nat → RingEntry → State) :
    s.takeEntry ring kinds act = s.rejectEntry ring stPARITY := by
  simp [State.takeEntry, State.ringEntry?_of_open ho, hp]

/-! ### NOP, TASKS and SIGNAL entries -/

/-- RING_NOP at an open ring. -/
theorem State.ringNop_of_open {s : State} {ring job : Nat} {e : RingEntry} (ho : ringOpen s ring job)
    (he : headEntry s ring e) (hk : e.kind = 0 ∨ 5 ≤ e.kind) :
    s.ringNop ring = if e.kind = 0 then s.setRing (s.ring ring).advance else s.rejectEntry ring stFORMAT :=
  State.takeEntry_of_open ho he (by simpa using hk) _

/-- TASKS at an open ring. -/
theorem State.ringTasks_of_open {s : State} {ring job : Nat} {e : RingEntry} (ho : ringOpen s ring job)
    (he : headEntry s ring e) (hk : e.kind = 1) :
    s.ringTasks ring = if e.count = 0 then s.setRing (s.ring ring).advance
      else if s.tasksCheck job e = stOK then s.setRing { s.ring ring with progress := some (0, e.addr, e.count) }
      else s.rejectEntry ring (s.tasksCheck job e) :=
  State.takeEntry_of_open ho he (by simpa using hk) _

/-- SIGNAL with the entry that its ring may take: what the signal does decides how the ring goes on. -/
theorem State.ringSignal_of_entry {s : State} {ring job : Nat} {e : RingEntry} (he : s.ringEntry? ring = some (job, e))
    (hp : s.ringEntryPoisoned ring = false) (hk : e.kind = 2) :
    (65535 < e.count → s.ringSignal ring = s.rejectEntry ring stFORMAT) ∧
    (∀ t, e.count ≤ 65535 → s.signal? job e.tag e.count (e.target == 1) = some t →
      s.ringSignal ring = t.setRing (t.ring ring).advance) ∧
    (e.count ≤ 65535 → s.signal? job e.tag e.count (e.target == 1) = none →
      s.ringSignal ring = s.setRing { s.ring ring with stalled := some e }) := by
  have htaken : s.ringSignal ring = if 65535 < e.count then s.rejectEntry ring stFORMAT
      else match s.signal? job e.tag e.count (e.target == 1) with
        | some s1 => s1.setRing (s1.ring ring).advance
        | none => s.setRing { s.ring ring with stalled := some e } :=
    State.takeEntry_of_entry he hp (by simpa using hk)
  rw [htaken]
  exact ⟨fun h => if_pos h, fun t h hsome => by rw [if_neg (Nat.not_lt.2 h), hsome],
    fun h hnone => by rw [if_neg (Nat.not_lt.2 h), hnone]⟩

/-- What a command that takes ring entries answers. -/
theorem exec_takesEntry {ring : Nat} (h : ring < 32768) (s : State) :
    exec (.ringNop ring) s = .next (s.ringNop ring) ∧ exec (.tasks ring) s = .next (s.ringTasks ring) ∧
      exec (.signal ring) s = .next (s.ringSignal ring) ∧ exec (.discard ring) s = .next (s.ringDiscard ring) ∧
      exec (.fence ring) s = .next (s.ringFence ring) :=
  have hwf : decide (ring < 32768) = true := decide_eq_true h
  ⟨perform_of_wf (c := .ringNop ring) hwf _, perform_of_wf (c := .tasks ring) hwf _,
    perform_of_wf (c := .signal ring) hwf _, perform_of_wf (c := .discard ring) hwf _,
    perform_of_wf (c := .fence ring) hwf _⟩

/-- Settles O13: the entry at an open ring's head by its kind, a SIGNAL also where it waits, and an entry that is poisoned. -/
theorem ringEntries : Obligations.RingEntries := by
  refine ⟨fun s ring job e ho he => ?_, fun s ring job e hk h => ?_, fun s ring job ho hp c hc => ?_⟩
  · obtain ⟨hnop, htasks, -⟩ := exec_takesEntry ho.1 s
    rw [hnop, htasks]
    refine ⟨fun hk => ?_, fun hk => ?_, fun hk hc => ?_, fun hk hc hok => ?_, fun hk hc hfail => ?_⟩
    · rw [State.ringNop_of_open ho he (.inl hk), if_pos hk]
    · rw [State.ringNop_of_open ho he (.inr hk), if_neg (by omega)]
    · rw [State.ringTasks_of_open ho he hk, if_pos hc]
    · rw [State.ringTasks_of_open ho he hk, if_neg hc, if_pos hok]
    · rw [State.ringTasks_of_open ho he hk, if_neg hc, if_neg hfail]
  · have hentry : ring < 32768 ∧ s.ringEntry? ring = some (job, e) ∧ s.ringEntryPoisoned ring = false := by
      rcases h with ⟨ho, hp, rfl⟩ | ⟨hr, hjob, hruns, hchart, hstall, hfence, hheld, hprogress⟩
      · exact ⟨ho.1, State.ringEntry?_of_open ho, hp⟩
      · exact ⟨hr, State.ringEntry?_of_stalled hjob hruns hchart hstall hfence hheld hprogress,
          State.ringEntryPoisoned_of_stalled hstall⟩
    obtain ⟨hr, he, hp⟩ := hentry
    obtain ⟨hformat, hplaced, hfull⟩ := State.ringSignal_of_entry he hp hk
    obtain ⟨-, -, hsignal, -⟩ := exec_takesEntry hr s
    rw [hsignal]
    exact ⟨fun h => by rw [hformat h], fun t h hsome => by rw [hplaced t h hsome], fun h hnone => by rw [hfull h hnone]⟩
  · obtain ⟨hnop, htasks, hsignal, hdiscard, hfence⟩ := exec_takesEntry ho.1 s
    simp only [List.mem_cons, List.not_mem_nil, or_false] at hc
    rcases hc with rfl | rfl | rfl | rfl | rfl
    · exact hnop.trans (congrArg _ (State.takeEntry_of_poisoned ho hp _ _))
    · exact htasks.trans (congrArg _ (State.takeEntry_of_poisoned ho hp _ _))
    · exact hsignal.trans (congrArg _ (State.takeEntry_of_poisoned ho hp _ _))
    · exact hdiscard.trans (congrArg _ (State.takeEntry_of_poisoned ho hp _ _))
    · exact hfence.trans (congrArg _ (State.takeEntry_of_poisoned ho hp _ _))

/-! ### DISCARD and FENCE entries -/

/-- DISCARD at an open ring: the ring goes on, and the live task under the entry's tag is discarded while its outcome is
open. -/
theorem State.ringDiscard_of_open {s u : State} {ring job : Nat} {e : RingEntry} (ho : ringOpen s ring job)
    (he : headEntry s ring e) (hk : e.kind = 3) (hu : u = s.setRing (s.ring ring).advance) :
    (s.tagged? job e.tag = none → s.ringDiscard ring = u.bump Reg.SCH_CNT_SIGNAL_EXCESS 1) ∧
    (∀ t, s.tagged? job e.tag = some t →
      s.ringDiscard ring = if t.undecided then u.discardTask t else u.bump Reg.SCH_CNT_SIGNAL_EXCESS 1) := by
  have htag : u.tagged? job e.tag = s.tagged? job e.tag := by rw [hu]; rfl
  rw [State.ringDiscard, State.takeEntry_of_open ho he (by simpa using hk), ← hu]
  dsimp only
  rw [htag]
  exact ⟨fun hnone => by rw [hnone], fun t ht => by rw [ht]⟩

/-- A discarded task completes with SPEC_DISCARD after what its phase asks for (R73, R139, R293). -/
theorem State.discardTask_of_phase (s : State) (t : Task) :
    (t.mayHaveWritten = false → s.discardTask t =
      ((s.bump Reg.SCH_CNT_SPEC_DISCARD 1).dropRequests t.id).complete t stSPEC_DISCARD) ∧
    (t.phase = .finished ∨ t.phase = .undecided → s.discardTask t =
      (((s.bump Reg.SCH_CNT_SPEC_DISCARD 1).undefine t.outs).dropRequests t.id).complete t stSPEC_DISCARD) ∧
    (t.phase = .running → s.discardTask t =
      ((((s.bump Reg.SCH_CNT_SPEC_DISCARD 1).undefine t.outs).cutRecord t).dropRequests t.id).complete t stSPEC_DISCARD) := by
  refine ⟨fun h => ?_, fun h => ?_, fun h => ?_⟩
  · have hrun : t.phase ≠ .running := by
      rintro hrun
      simp [Task.mayHaveWritten, hrun] at h
    simp [State.discardTask, State.cutOff, h, hrun]
  · rcases h with h | h <;> simp [State.discardTask, State.cutOff, Task.mayHaveWritten, h]
  · simp [State.discardTask, State.cutOff, h]

/-- FENCE at an open ring. -/
theorem State.ringFence_of_open {s : State} {ring job : Nat} {e : RingEntry} (ho : ringOpen s ring job)
    (he : headEntry s ring e) (hk : e.kind = 4) :
    s.ringFence ring = s.setRing { (s.ring ring).advance with fenced := s.ringHasLive ring } :=
  State.takeEntry_of_open ho he (by simpa using hk) _

/-- A fence opens once no task registered from its ring is left. -/
theorem State.fenceCleared_of_fenced {s : State} {ring : Nat} (h : (s.ring ring).fenced = true) :
    s.fenceCleared ring = if s.ringHasLive ring = false then s.setRing { s.ring ring with fenced := false } else s := by
  simp [State.fenceCleared, h]

/-- Settles O15: DISCARD by the live task of its tag and that task's phase, and FENCE by the tasks of its ring. -/
theorem ringDiscardAndFence : Obligations.RingDiscardAndFence := by
  refine ⟨fun s ring job e ho he hk => ?_, fun s ring => ⟨fun job e ho he hk => ?_, fun hr hf hnone => ?_, fun hr hf hlive => ?_⟩⟩
  · obtain ⟨-, -, -, hdiscard, -⟩ := exec_takesEntry ho.1 s
    obtain ⟨hexcess, htagged⟩ := State.ringDiscard_of_open ho he hk rfl
    rw [hdiscard]
    refine ⟨fun hnone => by rw [hexcess hnone], fun t ht hu => by rw [htagged t ht, hu, if_neg Bool.false_ne_true],
      fun t u ht hu hcount => ?_⟩
    obtain ⟨hidle, hdone, hrun⟩ := (s.setRing (s.ring ring).advance).discardTask_of_phase t
    rw [htagged t ht, hu, if_pos rfl, hcount]
    exact ⟨fun h => by rw [hidle h], fun h => by rw [hdone h], fun h => by rw [hrun h]⟩
  · obtain ⟨-, -, -, -, hfence⟩ := exec_takesEntry ho.1 s
    rw [hfence, State.ringFence_of_open ho he hk]
    exact ⟨fun h => by rw [h], fun h => by rw [h]⟩
  · have hexec : exec (.fenceCleared ring) s = .next (s.fenceCleared ring) :=
      perform_of_wf (c := .fenceCleared ring) (decide_eq_true hr) _
    rw [hexec, State.fenceCleared_of_fenced hf, if_pos hnone]
  · have hexec : exec (.fenceCleared ring) s = .next (s.fenceCleared ring) :=
      perform_of_wf (c := .fenceCleared ring) (decide_eq_true hr) _
    rw [hexec, State.fenceCleared_of_fenced hf, if_neg (by simp [hlive])]

/-! ### Engines that run a task -/

/-- The task that an engine command names is the one its engine runs. -/
theorem State.runningTask?_of_runs {s : State} {t : Task} {engine op : Nat} (h : engineRuns s t engine op) :
    s.runningTask? t.id engine op = some t := by
  obtain ⟨ht, -, hp, he, hop, hj⟩ := h
  simp [State.runningTask?, ht, Option.filter, hp, he, hop, State.jobRuns_iff.2 hj]

/-- An engine command whose task runs has the effects of its run. -/
theorem State.engineStep_of_runs {s : State} {t : Task} {engine op : Nat} (h : engineRuns s t engine op) (run : Task → Result) :
    s.engineStep t.id engine op run = s.applyResult t (run t) := by
  simp only [State.engineStep, State.runningTask?_of_runs h]

/-- The handle of a task that an engine runs names a compute die. -/
theorem engineRuns.wf {s : State} {t : Task} {engine op : Nat} (h : engineRuns s t engine op) : t.id.wf = true :=
  TaskId.wf_of_lt h.2.1

/-! ### TICK_WRITE, ring enable and disable, NOP -/

/-- The periods that SCH_TICK permits (R77). -/
theorem permits_SCH_TICK (v : Nat) : Reg.SCH_TICK_period.permits v = true ↔ 1 ≤ v ∧ v ≤ 100000 := by
  simp [Field.permits, Reg.SCH_TICK_period]

/-- Settles O21: a period by whether it is permitted, an enable by its checks, a disable, and the NOP class. -/
theorem tickRingsNop : Obligations.TickRingsNop := by
  intro s r hs hr
  have htick : ∀ v, exec (.tickWrite v) s = .next (s.tickWrite v) := fun v =>
    (perform_of_wf (c := .tickWrite v) rfl _).trans (congrArg _ (State.hostWrite_of_hostServes hs _))
  have henable : exec .ringEnable s = .next s.ringEnable :=
    (perform_of_wf (c := .ringEnable) rfl _).trans (congrArg _ (State.hostWrite_of_hostServes hs _))
  have hdisable : exec .ringDisable s = .next s.ringDisable :=
    (perform_of_wf (c := .ringDisable) rfl _).trans (congrArg _ (State.hostWrite_of_hostServes hs _))
  subst hr
  refine ⟨fun v hlo hhi => ?_, fun v hres => ?_, fun hoff hok => ?_, fun hoff hbad => ?_, hdisable, fun t ht => ?_⟩
  · rw [htick]
    exact congrArg _ (if_pos ((permits_SCH_TICK _).2 ⟨hlo, hhi⟩))
  · rw [htick]
    refine congrArg _ (if_neg fun hp => ?_)
    obtain ⟨hlo, hhi⟩ := (permits_SCH_TICK _).1 hp
    exact hres.elim (Nat.ne_of_gt hlo) (Nat.not_lt.2 hhi)
  · rw [henable]
    simp [State.ringEnable, hoff, hok]
  · rw [henable]
    simp [State.ringEnable, hoff, hbad]
  · have hnop : exec (.nop t.id) s = .next (s.engineStep t.id engNOP 0 fun _ => { status := stOK }) :=
      perform_of_wf (c := .nop t.id) ht.wf _
    rw [hnop, State.engineStep_of_runs ht]

end

end Sys2Proof.Machine
end

section
namespace Sys2Proof.Machine

open Sys2Proof

section

-- As in the model's Laws: one declaration after another keeps the joined text within the check's memory.
set_option Elab.async false

/-! ### Registration (R52, R53) -/

/-- Fewer indices are in use than are looked at, so the free one is not in use. -/
theorem freeIndex_not_mem (used : List Nat) : freeIndex used ∉ used := by
  unfold freeIndex
  cases h : (List.range (used.length + 1)).find? (fun i => !used.contains i) with
  | some i => simpa using List.find?_some h
  | none =>
    have hall : List.range (used.length + 1) ⊆ used := fun i hi => by simpa using List.find?_eq_none.1 h i hi
    have hlen := (List.nodup_range.subperm hall).length_le
    rw [List.length_range] at hlen
    exact absurd hlen (Nat.not_succ_le_self _)

/-- No task of any table has the index that a die's next task takes there. -/
theorem State.id_ne_freeIndex (s : State) (die : Nat) : ∀ u ∈ s.tasks,
    u.id ≠ ⟨die, freeIndex ((s.tasks.filter (fun t => decide (t.id.die = die))).map (·.id.index))⟩ := by
  intro u hu hid
  have hhere : u ∈ s.tasks.filter (fun t => decide (t.id.die = die)) :=
    List.mem_filter.2 ⟨hu, decide_eq_true (congrArg TaskId.die hid)⟩
  have hused := List.mem_map_of_mem (f := fun t : Task => t.id.index) hhere
  rw [show u.id.index = _ from congrArg TaskId.index hid] at hused
  exact freeIndex_not_mem _ hused

/-- The pending entry of a descriptor's tag (R57); tag 0 has none. -/
def State.pendingFor (s : State) (job : Nat) (d : TaskDesc) : Option PendingSignal :=
  if d.signalTag = 0 then none else s.signals.find? (fun p => decide (p.job = job) && decide (p.tag = d.signalTag))

/-- Once the pending entries of a tag are freed none is left. -/
theorem State.pendingFor_freed (s : State) (job : Nat) {d : TaskDesc} (ht : d.signalTag ≠ 0) :
    ∀ p ∈ s.signals.filter (fun p => !((s.pendingFor job d).isSome && decide (p.job = job) && decide (p.tag = d.signalTag))),
      ¬ (p.job = job ∧ p.tag = d.signalTag) := by
  rintro p hp ⟨hj, hg⟩
  obtain ⟨hmem, hkept⟩ := List.mem_filter.1 hp
  have hfound : (s.pendingFor job d).isSome = true := by
    rw [State.pendingFor, if_neg ht, List.find?_isSome]
    exact ⟨p, hmem, by simp [hj, hg]⟩
  simp [hfound, hj, hg] at hkept

/-- What registration makes of a descriptor: a new task with what its pending signals leave of its count, and where nothing is
left of it, what follows a counter of zero. -/
theorem State.registerTask_eq (s : State) (job ring : Nat) (d : TaskDesc) :
    ∃ (t : Task) (v : State), s.registerTask job ring d = (if t.counter = 0 then v.counterZero t else v) ∧
      v.tasks = s.tasks ++ [t] ∧ t.job = job ∧ t.ring = ring ∧ t.desc = d ∧
      t.counter = d.depCount - ((s.pendingFor job d).map (·.count)).getD 0 ∧ t.commit = d.commitCount ∧ t.phase = .waiting ∧
      t.id = ⟨s.homeDie d, freeIndex ((s.tasks.filter (fun t => decide (t.id.die = s.homeDie d))).map (·.id.index))⟩ ∧
      v.signals = s.signals.filter
        (fun p => !((s.pendingFor job d).isSome && decide (p.job = job) && decide (p.tag = d.signalTag))) := by
  refine ⟨_, _, rfl, ?_, rfl, rfl, rfl, rfl, rfl, rfl, rfl, ?_⟩
  · simp only [apply_ite State.tasks, State.setReg_tasks, State.raiseReg_tasks, State.bump_tasks, ite_self]
  · simp only [apply_ite State.signals, State.setReg_signals, State.raiseReg_signals, State.bump_signals, ite_self,
      State.pendingFor]

/-! ### TASK_REGISTER -/

/-- A ring that registers and whose descriptor is poisoned in memory. -/
theorem State.taskRegister_of_poisoned {s : State} {ring job i addr n : Nat} (hprogress : (s.ring ring).progress = some (i, addr, n))
    (hjob : s.ringJob? ring = some job) (hruns : s.jobState job = 1) (hchart : s.chtState = chtActive)
    (hheld : (s.ring ring).heldByRecord = false) (hp : s.poisonedAt (addrPlus addr (i * 64)) 64 = true) :
    s.taskRegister ring = s.rejectDescriptor ring 0 0 stPARITY false := by
  simp [State.taskRegister, hprogress, hjob, State.jobRuns_iff.2 hruns, hchart, hheld, hp]

/-- A ring that registers a descriptor: its checks, and the room in its die's table. -/
theorem State.taskRegister_of_next {s : State} {ring job i addr n : Nat} {d : TaskDesc} (h : registersNext s ring job i addr n d) :
    s.taskRegister ring = if s.descCheck job d ≠ stOK then
        s.rejectDescriptor ring d.userTag d.signalTag (s.descCheck job d) d.interrupt
      else if tableSize ≤ s.tableUse (s.homeDie d) then s.setRing { s.ring ring with tableFull := true }
      else (s.registerTask job ring d).setRing ((s.registerTask job ring d).ring ring).advanceDescriptor := by
  obtain ⟨-, hprogress, hjob, hruns, hchart, hheld, hp, rfl⟩ := h
  simp [State.taskRegister, hprogress, hjob, State.jobRuns_iff.2 hruns, hchart, hheld, hp]

theorem exec_taskRegister {ring : Nat} (h : ring < 32768) (s : State) :
    exec (.taskRegister ring) s = .next (s.taskRegister ring) :=
  perform_of_wf (c := .taskRegister ring) (decide_eq_true h) _

/-- Settles O16: a descriptor by its checks and the room in its table, a poisoned one, and what registration makes of one. -/
theorem taskRegister : Obligations.TaskRegister := by
  refine ⟨fun s ring job i addr n d h => ?_, fun s ring job i addr n hr hprogress hjob hruns hchart hheld hp => ?_,
    fun s job ring d got hgot => ?_⟩
  · rw [exec_taskRegister h.1, State.taskRegister_of_next h, show tableSize = 131072 from rfl]
    exact ⟨fun hok hroom => by rw [if_neg (not_not.2 hok), if_neg (Nat.not_le.2 hroom)],
      fun hok hfull => by rw [if_neg (not_not.2 hok), if_pos hfull], fun hfail => by rw [if_pos hfail]⟩
  · rw [exec_taskRegister hr, State.taskRegister_of_poisoned hprogress hjob hruns hchart hheld hp]
  · have hpending : got = ((s.pendingFor job d).map (·.count)).getD 0 := by
      rw [hgot, State.pendingFor]
      split <;> rfl
    obtain ⟨t, v, heq, htasks, htjob, htring, htdesc, htcounter, htcommit, htphase, htid, hsignals⟩ := s.registerTask_eq job ring d
    rw [← hpending] at htcounter
    refine ⟨t, v, htasks, htjob, htring, htdesc, htcounter, htcommit, htphase, by rw [htid], htid ▸ s.id_ne_freeIndex _,
      fun ht => hsignals ▸ s.pendingFor_freed job ht, fun hlt => ?_, fun hle => ?_⟩
    · rw [heq, if_neg (by omega)]
    · rw [heq, if_pos (by omega)]

end

end Sys2Proof.Machine
end

section
namespace Sys2Proof.Machine

open Sys2Proof

section

-- As in the model's Laws: one declaration after another keeps the joined text within the check's memory.
set_option Elab.async false

/-! ### The order of ready tasks (R59) -/

/-- A task does not go before another. -/
theorem Task.before_eq_false_iff {a b : Task} : a.before b = false ↔
    a.desc.priority < b.desc.priority ∨ (a.desc.priority = b.desc.priority ∧
      (b.readySince < a.readySince ∨ (b.readySince = a.readySince ∧ b.id.index ≤ a.id.index))) := by
  unfold Task.before
  split_ifs <;> simp only [decide_eq_false_iff_not] <;> omega

theorem Task.before_self (a : Task) : a.before a = false := by
  simp [Task.before_eq_false_iff]

/-- Of three tasks, one that does not go before a second, and the second not before a third. -/
theorem Task.before_trans {a b c : Task} (hab : a.before b = false) (hbc : b.before c = false) : a.before c = false := by
  rw [Task.before_eq_false_iff] at *
  omega

/-- Of two tasks one does not go before the other. -/
theorem Task.before_asymm {a b : Task} (h : a.before b = true) : b.before a = false := by
  rw [← Bool.not_eq_false, Task.before_eq_false_iff] at h
  rw [Task.before_eq_false_iff]
  omega

/-- The one that goes first of a task and a list of tasks. -/
def Task.firstOf (h : Task) (r : List Task) : Task := r.foldl (fun a b => if b.before a then b else a) h

/-- The first task is one of them, and none of them goes before it. -/
theorem Task.firstOf_first (h : Task) (r : List Task) :
    h.firstOf r ∈ h :: r ∧ ∀ u ∈ h :: r, u.before (h.firstOf r) = false := by
  induction r generalizing h with
  | nil => simp [Task.firstOf, Task.before_self]
  | cons b r ih =>
    obtain ⟨hmem, hfirst⟩ := ih (if b.before h then b else h)
    have hstep : h.firstOf (b :: r) = (if b.before h then b else h).firstOf r := rfl
    rw [hstep]
    have hhead := hfirst _ (List.mem_cons_self ..)
    have hpair : h.before (if b.before h then b else h) = false ∧ b.before (if b.before h then b else h) = false := by
      cases hb : b.before h with
      | true => exact ⟨Task.before_asymm hb, b.before_self⟩
      | false => exact ⟨h.before_self, hb⟩
    refine ⟨?_, fun u hu => ?_⟩
    · rcases List.mem_cons.1 hmem with hm | hm
      · rw [hm]
        split <;> simp
      · exact List.mem_cons_of_mem _ (List.mem_cons_of_mem _ hm)
    · rcases List.mem_cons.1 hu with rfl | hu
      · exact Task.before_trans hpair.1 hhead
      · rcases List.mem_cons.1 hu with rfl | hu
        · exact Task.before_trans hpair.2 hhead
        · exact hfirst u (List.mem_cons_of_mem _ hu)

/-- The task that an engine takes next is one of its candidates, and none of them goes before it. -/
theorem State.nextTask?_first {s : State} {engine place : Nat} {t : Task} (h : s.nextTask? engine place = some t) :
    t ∈ s.candidates engine place ∧ ∀ u ∈ s.candidates engine place, u.before t = false := by
  unfold State.nextTask? at h
  split at h
  · exact absurd h (by simp)
  · rename_i a r hlist
    rw [hlist, ← Option.some.inj h]
    exact a.firstOf_first r

/-! ### DISPATCH (R54) -/

/-- In the anchor watch, and on the way there and back, nothing is taken. -/
theorem State.dispatchAt_of_asleep {s : State} (h : s.power.anchor ≠ .awake) (engine place : Nat) :
    s.dispatchAt engine place = s := if_pos h

/-- A busy engine takes nothing. -/
theorem State.dispatchAt_of_busy {s : State} {engine place : Nat} {t : Task} (ht : s.nextTask? engine place = some t)
    (hbusy : s.engineFree t = false) : s.dispatchAt engine place = s := by
  simp [State.dispatchAt, ht, hbusy]

/-- A free engine takes its next task. -/
theorem State.dispatchAt_of_free {s : State} {engine place : Nat} {t : Task} (hawake : s.power.anchor = .awake)
    (ht : s.nextTask? engine place = some t) (hfree : s.engineFree t = true) :
    s.dispatchAt engine place = s.dispatchTask t := by
  simp [State.dispatchAt, hawake, ht, hfree]

/-- An empty block: a NOP task runs, any other finishes with OK. -/
theorem State.dispatchTask_of_empty {s : State} {t : Task} (h : t.desc.argsBytes = 0) :
    s.dispatchTask t = if t.desc.engine = engNOP then
        s.setTask { t with phase := .running, dispatched := some s.now, args := [], outs := [], status := stOK }
      else s.dispatchEnds t stOK := if_pos h

/-- A block below every class's size fails with FORMAT. -/
theorem State.dispatchTask_of_tiny {s : State} {t : Task} (h0 : 0 < t.desc.argsBytes) (h : t.desc.argsBytes < 64) :
    s.dispatchTask t = s.dispatchEnds t stFORMAT := by
  rw [State.dispatchTask, if_neg (Nat.ne_of_gt h0), if_pos h]

/-- A block that may give its own size: whether that size is poisoned, then whether it is short, then whether the block is
poisoned, then its checks. -/
theorem State.dispatchTask_of_block {s : State} {t : Task} (h : 64 ≤ t.desc.argsBytes) :
    s.dispatchTask t = if s.sizePoisoned t.desc then s.dispatchEnds t stPARITY
      else if s.blockShort t.desc then s.dispatchEnds t stFORMAT
      else if s.poisonedAt t.desc.args (s.blockSize t.desc) then s.dispatchEnds t stPARITY
      else s.dispatchWith (s.taken t) (s.argsCheck (s.taken t)) := by
  rw [State.dispatchTask, if_neg (by omega), if_neg (Nat.not_lt.2 h)]

/-- The end of a block's checks for a task that is not speculative. -/
theorem State.dispatchWith_of_failure {s : State} {t : Task} {status : Nat} (h : status ≠ stOK)
    (hspec : t.speculative = false) : s.dispatchWith t status = s.dispatchFails t status := by
  simp [State.dispatchWith, h, hspec]

/-- What a speculative task suppresses is neither OK nor a stale epoch. -/
theorem State.dispatchWith_of_suppressed {s : State} {t : Task} {status : Nat} (h : status = stACCESS ∨ status = stBOUND)
    (hspec : t.speculative = true) : s.dispatchWith t status = s.dispatchSuppressed t := by
  rcases h with rfl | rfl <;> simp [State.dispatchWith, hspec, suppressible, stACCESS, stBOUND, stOK, stEPOCH_STALE]

/-- A speculative lookup of a stale epoch is counted and marked, and runs on. -/
theorem State.dispatchWith_of_stale {s : State} {t : Task} (hspec : t.speculative = true) :
    s.dispatchWith t stEPOCH_STALE =
      (s.bump Reg.MEM_CNT_SPEC_FAULT_SUPPRESSED 1).dispatchRuns { t with marked := true, stage := 1 } := by
  have hok : stEPOCH_STALE ≠ stOK := by decide
  rw [State.dispatchWith, if_neg hok, if_pos ⟨hspec, rfl⟩]
  rfl

/-- Any other failure of a speculative task is one. -/
theorem State.dispatchWith_of_other {s : State} {t : Task} {status : Nat} (hok : status ≠ stOK) (haccess : status ≠ stACCESS)
    (hbound : status ≠ stBOUND) (hstale : status ≠ stEPOCH_STALE) : s.dispatchWith t status = s.dispatchFails t status := by
  simp [State.dispatchWith, hok, haccess, hbound, hstale, suppressible]

/-- Settles O17: whether the engine takes a task, what its block meets in order, and which task it takes. -/
theorem dispatch : Obligations.Dispatch := by
  refine ⟨fun s engine place t he hp => ?_, fun s engine place t ht => ?_⟩
  · have hexec : exec (.dispatch engine place) s = .next (s.dispatchAt engine place) :=
      perform_of_wf (c := .dispatch engine place) (by simp [Instr.wf, he, hp]) _
    rw [hexec]
    refine ⟨fun h => by rw [State.dispatchAt_of_asleep h], fun ht hbusy => by rw [State.dispatchAt_of_busy ht hbusy],
      fun hawake ht hfree => ?_⟩
    rw [State.dispatchAt_of_free hawake ht hfree]
    refine ⟨fun h0 hnop => ?_, fun h0 hnop => ?_, fun h0 hlt => ?_, fun hge hsize hshort => ?_, fun hge hparity => ?_,
      fun hge hsize hshort hclean st hst => ?_⟩
    · rw [State.dispatchTask_of_empty h0, if_pos hnop]
    · rw [State.dispatchTask_of_empty h0, if_neg hnop, State.dispatchEnds]
    · rw [State.dispatchTask_of_tiny h0 hlt, State.dispatchEnds]
    · rw [State.dispatchTask_of_block hge, hsize, if_neg Bool.false_ne_true, if_pos hshort, State.dispatchEnds]
    · have hends : s.dispatchTask t = s.dispatchEnds t stPARITY := by
        rw [State.dispatchTask_of_block hge]
        rcases hparity with hsize | ⟨hshort, hpoison⟩
        · rw [if_pos hsize]
        · simp only [hshort, hpoison, Bool.false_eq_true, if_false, if_true, ite_self]
      rw [hends, State.dispatchEnds]
    · have hchecked : s.dispatchTask t = s.dispatchWith (s.taken t) st := by
        rw [State.dispatchTask_of_block hge, hsize, hshort, hclean, hst]
        rfl
      have htaken : (s.taken t).speculative = t.speculative := rfl
      rw [hchecked]
      refine ⟨fun hok => by rw [hok, State.dispatchWith, if_pos rfl],
        fun hfail hspec => by rw [State.dispatchWith_of_failure hfail (htaken.trans hspec)], fun hspec =>
        ⟨fun h => by rw [State.dispatchWith_of_suppressed h (htaken.trans hspec), State.dispatchSuppressed],
          fun h => by rw [h, State.dispatchWith_of_stale (htaken.trans hspec)],
          fun hok haccess hbound hstale => by rw [State.dispatchWith_of_other hok haccess hbound hstale]⟩⟩
  · obtain ⟨hmem, hfirst⟩ := State.nextTask?_first ht
    refine ⟨hmem, fun u hu => ?_⟩
    have hnot := Task.before_eq_false_iff.1 (hfirst u hu)
    omega

end

end Sys2Proof.Machine
end

section
namespace Sys2Proof.Machine

open Sys2Proof

section

-- As in the model's Laws: one declaration after another keeps the joined text within the check's memory.
set_option Elab.async false

/-! ### A finished task's replay and shadow (R348, R352, R353) -/

/-- A task that was not replayed ends no replay. -/
theorem State.replayEnd_of_no_attempt {s : State} {t : Task} (h : t.attempts = 0) : s.replayEnd t = s := by
  simp [State.replayEnd, h]

/-- A replay that one attempt ended was of a transient fault. -/
theorem State.replayEnd_of_one_attempt {s : State} {t : Task} (h : t.attempts = 1) (hp : t.status ≠ stPARITY)
    (hs : t.settled = false) : s.replayEnd t = s.bump Reg.ERR_CNT_REPLAY_TRANSIENT 1 := by
  simp [State.replayEnd, h, hp, hs]

/-- One that took two retires the first tile. -/
theorem State.replayEnd_of_two_attempts {s : State} {t : Task} (h : t.attempts = 2) (hp : t.status ≠ stPARITY)
    (hs : t.settled = false) : s.replayEnd t = s.retireTile (t.faulty.getD t.tile) := by
  simp [State.replayEnd, h, hp, hs]

/-- Outside a shadowed phase nothing is compared. -/
theorem State.shadowCheck_of_no_phase {s : State} {t : Task} (h : s.shadowPhase t = false) (runs : List (Option Nat)) :
    s.shadowCheck t runs = (s, some t.status) := by
  simp [State.shadowCheck, h]

/-- A task that is not shadowed although its phase asks for it is counted as skipped. -/
theorem State.shadowCheck_of_skipped {s : State} {t : Task} (h : s.shadowPhase t = true) (hs : t.settled = false)
    (hskip : s.shadowSkipped t = true) (runs : List (Option Nat)) :
    s.shadowCheck t runs = (s.bump Reg.ERR_CNT_SHADOW_SKIPPED 1, some t.status) := by
  simp [State.shadowCheck, h, hs, hskip]

/-- Runs without a fault agree with one another and with the task's checksum. -/
theorem State.shadowOutcome_of_agreement (s : State) {t : Task} {c : Nat} (h : t.csum = some c) :
    s.shadowOutcome t (shadowRuns c []) = (s, some t.status) := by
  simp [State.shadowOutcome, shadowRuns, h]

/-- A comparison of runs without a fault is counted, and the task's status stands. -/
theorem State.shadowCheck_of_agreement {s : State} {t : Task} (h : s.shadowPhase t = true) (hs : t.settled = false)
    (hskip : s.shadowSkipped t = false) (hc : t.csum.isSome = true) :
    s.shadowCheck t [] = (s.bump Reg.ERR_CNT_SHADOW 1, some t.status) := by
  obtain ⟨c, hc⟩ := Option.isSome_iff_exists.1 hc
  simp [State.shadowCheck, h, hs, hskip, hc, State.shadowOutcome_of_agreement s hc]

/-! ### TASK_COMPLETE (R56, R70 to R72) -/

/-- A finished task of a job that does not run completes with JOB_KILLED. -/
theorem State.finishTask_of_killed {s : State} {t : Task} (h : s.jobState t.job ≠ 1) (runs : List (Option Nat)) :
    s.finishTask t runs = s.complete t stJOB_KILLED := by
  simp [State.finishTask, State.jobRuns_of_ne h]

/-- A finished task of a running job completes with its status after its replay and its comparison: a refresh makes its replica
current, and poison is reported. -/
theorem State.finishTask_of_runs {s v w : State} {t : Task} {runs : List (Option Nat)} (hj : s.jobState t.job = 1)
    (hv : (s.undefineOverwritten t).replayEnd t = v) (hw : v.shadowCheck t runs = (w, some t.status)) :
    s.finishTask t runs = if t.status = stPOISON then
        ((if t.status = stOK then w.refreshEnds t else w).complete t t.status).poisonConsumed t
      else (if t.status = stOK then w.refreshEnds t else w).complete t t.status := by
  simp [State.finishTask, State.jobRuns_iff.2 hj, hv, hw]

/-- A task that is not speculative, or whose job does not run, ends as it has finished. -/
theorem State.taskComplete_of_finished {s : State} {t : Task} (h : s.task? t.id = some t) (hp : t.phase = .finished)
    (hend : t.speculative = false ∨ s.jobState t.job ≠ 1) (runs : List (Option Nat)) :
    s.taskComplete t.id runs = s.finishTask t runs := by
  have hno : (t.speculative && s.jobRuns t.job) = false := by
    rcases hend with hspec | hj
    · rw [hspec, Bool.false_and]
    · rw [State.jobRuns_of_ne hj, Bool.and_false]
  simp [State.taskComplete, h, hp, hno]

/-- A speculative task is held while its commit counter is above zero. -/
theorem State.taskComplete_of_held {s : State} {t : Task} (h : s.task? t.id = some t) (hp : t.phase = .finished)
    (hj : s.jobState t.job = 1) (hspec : t.speculative = true) (hcommit : t.commit ≠ 0) (hnot : t.committed = false)
    (runs : List (Option Nat)) : s.taskComplete t.id runs = s.setTask { t with phase := .undecided } := by
  simp [State.taskComplete, h, hp, State.jobRuns_iff.2 hj, hspec, hcommit, hnot]

/-- Once committed a speculative task runs again where an access of it was suppressed, and else ends. -/
theorem State.taskComplete_of_committed {s v : State} {t : Task} (h : s.task? t.id = some t) (hp : t.phase = .finished)
    (hj : s.jobState t.job = 1) (hspec : t.speculative = true) (hcommit : t.commit = 0 ∨ t.committed = true)
    (hv : v = if t.committed then s else s.bump Reg.SCH_CNT_SPEC_COMMIT 1) (runs : List (Option Nat)) :
    s.taskComplete t.id runs = if t.marked then (v.bump Reg.SCH_CNT_SPEC_RERUN 1).runAgain t
      else v.finishTask { t with committed := true } runs := by
  have hopen : ¬ (t.commit ≠ 0 ∧ t.committed = false) := fun ⟨hc, hn⟩ =>
    hcommit.elim hc fun ht => Bool.noConfusion (hn.symm.trans ht)
  subst hv
  simp only [State.taskComplete, h, hp, State.jobRuns_iff.2 hj, hspec, ne_eq, not_true_eq_false, if_false, Bool.and_self, if_true,
    if_neg hopen]

/-- Where the tile it ran on is still there a task runs again on it (R72). -/
theorem State.runAgain_of_present {s : State} {t a : Task}
    (ha : a = { t with committed := true, rerun := true, marked := false, status := stOK, poisonAt := none })
    (h : isTileClass t.desc.engine = false ∨ s.retired t.runTile = false) :
    s.runAgain t = s.setTask { a with phase := .ready s.now } := by
  subst ha
  rcases h with h | h <;> simp [State.runAgain, h]

/-- Where that tile has retired the task is placed again (R351). -/
theorem State.runAgain_of_retired {s : State} {t a : Task}
    (ha : a = { t with committed := true, rerun := true, marked := false, status := stOK, poisonAt := none })
    (hc : isTileClass t.desc.engine = true) (h : s.retired t.runTile = true) : s.runAgain t = s.makeReady a := by
  subst ha
  simp [State.runAgain, hc, h]

/-- The module's retired tiles decide whether a tile is retired. -/
theorem State.retired_congr {s u : State} (h : u.binnacle = s.binnacle) (tile : Nat) : u.retired tile = s.retired tile := by
  simp only [State.retired, State.retiredMask, h]

/-- Settles O18: a finished task by its job, its speculation and its suppressed accesses, and then by its replay, its comparison
and its status. -/
theorem taskComplete : Obligations.TaskComplete := by
  refine ⟨fun s t runs ht hd hp => ?_, fun s t runs hj v w hv hw => ?_⟩
  · have hexec : exec (.taskComplete t.id runs) s = .next (s.taskComplete t.id runs) :=
      perform_of_wf (c := .taskComplete t.id runs) (TaskId.wf_of_lt hd) _
    rw [hexec]
    refine ⟨fun hj => ?_, fun hj hspec hcommit hnot => ?_, fun hj hspec hcommit v hv => ?_, fun hj hspec => ?_⟩
    · rw [State.taskComplete_of_finished ht hp (.inr hj), State.finishTask_of_killed hj]
    · rw [State.taskComplete_of_held ht hp hj hspec hcommit hnot]
    · rw [State.taskComplete_of_committed ht hp hj hspec hcommit hv]
      have hparts : (v.bump Reg.SCH_CNT_SPEC_RERUN 1).binnacle = s.binnacle ∧ (v.bump Reg.SCH_CNT_SPEC_RERUN 1).now = s.now := by
        rw [hv]
        cases t.committed <;> exact ⟨rfl, rfl⟩
      obtain ⟨hbinnacle, hnow⟩ := hparts
      have hretired := State.retired_congr hbinnacle t.runTile
      refine ⟨fun hm a ha => ⟨fun hthere => ?_, fun hc hgone => ?_⟩, fun hm => by rw [hm, if_neg Bool.false_ne_true]⟩
      · rw [if_pos hm, State.runAgain_of_present ha (hretired ▸ hthere), hnow]
      · rw [if_pos hm, State.runAgain_of_retired ha hc (hretired.trans hgone)]
    · rw [State.taskComplete_of_finished ht hp (.inl hspec)]
  · have hreplay : (s.undefineOverwritten t).replayEnd t = v := by
      rcases hv with ⟨h, rfl⟩ | ⟨h, hparity, hs, rfl⟩ | ⟨h, hparity, hs, rfl⟩
      · exact State.replayEnd_of_no_attempt h
      · exact State.replayEnd_of_one_attempt h hparity hs
      · exact State.replayEnd_of_two_attempts h hparity hs
    have hshadow : v.shadowCheck t runs = (w, some t.status) := by
      rcases hw with ⟨h, rfl⟩ | ⟨h, hs, hskip, rfl⟩ | ⟨h, hs, hskip, hc, rfl, rfl⟩
      · exact State.shadowCheck_of_no_phase h runs
      · exact State.shadowCheck_of_skipped h hs hskip runs
      · exact State.shadowCheck_of_agreement h hs hskip hc
    rw [State.finishTask_of_runs hj hreplay hshadow]
    have hok : stOK ≠ stPOISON := by decide
    exact ⟨fun h => by rw [h, if_neg hok, if_pos rfl], fun h hpoison => by rw [if_neg hpoison, if_neg h],
      fun h => by rw [h, if_pos rfl, if_neg hok.symm]⟩

end

end Sys2Proof.Machine
end

section
namespace Sys2Proof.Machine

open Sys2Proof

section

-- As in the model's Laws: one declaration after another keeps the joined text within the check's memory.
set_option Elab.async false

/-! ### What keeps the accepted features

A result's counters, telemetry and events write memory only through the device event ring, so not at all where EVENT_RING is
not accepted, and they leave the registers that say whether it is. -/

/-- The keys of the registers that say which features are accepted. -/
def featureKey (k : Nat) : Prop := k = Reg.DEV_FEAT_CTRL_committed.key ∨ k = Reg.DEV_FEAT_ACCEPT_accept.key

/-- From s to t the accepted features have stayed, and memory where EVENT_RING is not accepted. -/
def FeaturesKept (s t : State) : Prop :=
  (∀ f : Field, featureKey f.key → t.reg f = s.reg f) ∧ (s.accepted 1 = false → t.mem = s.mem)

/-- The registers of every other block lie above the host interface's. -/
theorem not_featureKey_of_le {k : Nat} (h : 2 ^ 26 ≤ k) : ¬ featureKey k := by
  rintro (rfl | rfl)
  · exact absurd h (by decide)
  · exact absurd h (by decide)

theorem FeaturesKept.accepted {s t : State} (h : FeaturesKept s t) (f : Nat) : t.accepted f = s.accepted f := by
  unfold State.accepted
  rw [h.1 _ (.inl rfl), h.1 _ (.inr rfl)]

theorem FeaturesKept.trans {s t u : State} (h1 : FeaturesKept s t) (h2 : FeaturesKept t u) : FeaturesKept s u :=
  ⟨fun f hf => (h2.1 f hf).trans (h1.1 f hf), fun ha => (h2.2 ((h1.accepted 1).trans ha)).trans (h1.2 ha)⟩

theorem FeaturesKept.refl (s : State) : FeaturesKept s s := ⟨fun _ _ => rfl, fun _ => rfl⟩

/-- What changes neither registers nor memory. -/
theorem FeaturesKept.of_keeps {ps : List Part} {s t : State} (h : Keeps ps s t) (hr : ps.contains .regs = false := by rfl)
    (hm : ps.contains .mem = false := by rfl) : FeaturesKept s t :=
  ⟨fun f _ => State.reg_congr (h.1 .regs hr) f, fun _ => h.1 .mem hm⟩

theorem FeaturesKept.ite {c : Prop} [Decidable c] {s t u : State} (h1 : FeaturesKept s t) (h2 : FeaturesKept s u) :
    FeaturesKept s (if c then t else u) := by
  split
  · exact h1
  · exact h2

/-- One effect more under a condition. -/
theorem FeaturesKept.thenIf {c : Prop} [Decidable c] {s t u : State} (h1 : FeaturesKept s t) (h2 : FeaturesKept t u) :
    FeaturesKept s (if c then u else t) :=
  .ite (h1.trans h2) h1

theorem FeaturesKept.foldl {α : Type} {f : State → α → State} (l : List α) (s : State)
    (hf : ∀ t, ∀ a ∈ l, FeaturesKept t (f t a)) : FeaturesKept s (l.foldl f s) := by
  induction l generalizing s with
  | nil => exact .refl s
  | cons a r ih => exact (hf s a (List.mem_cons_self ..)).trans (ih _ fun t b hb => hf t b (List.mem_cons_of_mem _ hb))

theorem State.setReg_featuresKept (s : State) {f : Field} (hf : ¬ featureKey f.key) (v : Nat) : FeaturesKept s (s.setReg f v) :=
  ⟨fun _ hg => State.reg_setReg_other _ _ fun h => hf (h ▸ hg), fun _ => rfl⟩

theorem State.raiseReg_featuresKept (s : State) {f : Field} (hf : ¬ featureKey f.key) (v : Nat) :
    FeaturesKept s (s.raiseReg f v) :=
  .ite (s.setReg_featuresKept hf v) (.refl s)

/-- An event that is posted. -/
theorem State.post_featuresKept (s : State) {e : Field} (he : ¬ featureKey e.key) (unit arg0 arg1 : Nat) :
    FeaturesKept s (s.post e unit arg0 arg1) := by
  refine (s.setReg_featuresKept he 1).trans ⟨fun g hg => ?_, fun ha => ?_⟩
  · have hring : ∀ f ∈ [Reg.DEV_EVQ_PTR_tail, Reg.DEV_CNT_EVENT_LOST, Reg.DEV_EVENT_event_lost], ¬ featureKey f.key := by
      unfold featureKey
      decide
    exact State.reg_eventRing_other _ _ _ _ _ (fun h => hring _ (by simp) (h ▸ hg)) (fun h => hring _ (by simp) (h ▸ hg))
      (fun h => hring _ (by simp) (h ▸ hg))
  · rw [State.post, State.eventRing]
    simp [ha]

/-- The telemetry's registers are none of the features'. -/
theorem not_featureKey_telemetry (k : Nat) : ∀ f ∈ [Reg.TEL_AMAX_amax k, Reg.TEL_DRIFT_STATUS_last_max k,
    Reg.TEL_DRIFT_STATUS_prev_max k, Reg.TEL_DRIFT_STATUS_vanish_frac k, Reg.TEL_DRIFT_STATUS_clamp k,
    Reg.TEL_DRIFT_STATUS_shift k, Reg.TEL_DRIFT_STATUS_vanish k, Reg.TEL_EVENT_nonfinite, Reg.TEL_EVENT_calibration_drift],
    ¬ featureKey f.key := by
  have hlow : ∀ f : Field, 2 ^ 20 ≤ f.off → ¬ featureKey f.key := fun f hf =>
    not_featureKey_of_le (Nat.le_trans (Nat.mul_le_mul_right 64 hf) (Nat.le_add_right _ _))
  intro f hf
  refine hlow f ?_
  simp only [List.mem_cons, List.not_mem_nil, or_false] at hf
  rcases hf with rfl | rfl | rfl | rfl | rfl | rfl | rfl | rfl | rfl <;>
    simp only [Reg.TEL_AMAX_amax, Reg.TEL_DRIFT_STATUS_last_max, Reg.TEL_DRIFT_STATUS_prev_max,
      Reg.TEL_DRIFT_STATUS_vanish_frac, Reg.TEL_DRIFT_STATUS_clamp, Reg.TEL_DRIFT_STATUS_shift, Reg.TEL_DRIFT_STATUS_vanish,
      Reg.TEL_EVENT_nonfinite, Reg.TEL_EVENT_calibration_drift] <;> omega

/-- A scaled block enters the drift watch (R173). -/
theorem State.driftBlock_featuresKept (s : State) (b : BlockStat) : FeaturesKept s (s.driftBlock b) := by
  have htel := not_featureKey_telemetry b.kind
  have hdrift : ∀ (t : State) (d : List DriftWindow), FeaturesKept t { t with drift := d } := fun t d =>
    .of_keeps (Keeps.made_drift (Keeps.refl [.drift] t))
  have hset : ∀ (t : State) {f : Field} (v : Nat), ¬ featureKey f.key → FeaturesKept t (t.setReg f v) := fun t _ v hf =>
    t.setReg_featuresKept hf v
  have hsets : ∀ (t : State) (x y z : Nat), FeaturesKept t (t.setRegs [(Reg.TEL_DRIFT_STATUS_last_max b.kind, x),
      (Reg.TEL_DRIFT_STATUS_prev_max b.kind, y), (Reg.TEL_DRIFT_STATUS_vanish_frac b.kind, z)]) := fun t x y z =>
    ((hset t x (htel _ (by simp))).trans (hset _ y (htel _ (by simp)))).trans (hset _ z (htel _ (by simp)))
  unfold State.driftBlock
  dsimp only
  refine .ite (.refl s) (.ite (hdrift ..) ((hdrift ..).trans (.ite ?_ (.refl _))))
  refine .trans ?_ (State.post_featuresKept _ (htel _ (by simp)) ..)
  refine .thenIf ?_ (hset _ 1 (htel _ (by simp)))
  refine .thenIf ?_ (hset _ 1 (htel _ (by simp)))
  exact .thenIf (hsets ..) (hset _ 1 (htel _ (by simp)))

/-- Scaled blocks reach the telemetry (R172). -/
theorem State.blockStats_featuresKept (s : State) (l : List BlockStat) : FeaturesKept s (s.blockStats l) := by
  refine .foldl l s fun t b _ => ?_
  have htel := not_featureKey_telemetry b.kind
  refine .trans ?_ (State.driftBlock_featuresKept _ b)
  refine .trans (.ite (t.raiseReg_featuresKept (htel _ (by simp)) _) (.refl t)) (.ite ?_ (.refl _))
  exact State.post_featuresKept _ (htel _ (by simp)) ..

/-- Events of other registers are posted in order. -/
theorem State.postAll_featuresKept (s : State) {l : List (Field × Nat × Nat)} (h : ∀ e ∈ l, ¬ featureKey e.1.key) :
    FeaturesKept s (s.postAll l) :=
  .foldl l s fun t e he => t.post_featuresKept (h e he) ..

/-- Other counters count. -/
theorem State.bumps_featuresKept (s : State) {l : List (Field × Nat)} (h : ∀ p ∈ l, ¬ featureKey p.1.key) :
    FeaturesKept s (s.bumps l) :=
  .foldl l s fun t p hp => t.setReg_featuresKept (h p hp) _

/-! ### A result, step by step -/

/-- The result that takes effect: the outputs of a run that was disturbed are undefined (R177). -/
def State.effective (s : State) (t : Task) (r : Result) : Result :=
  if s.disturbed t then r.disturbed t.outs s.free else r

/-- The state with the result's effects on memory. -/
def State.resultStored (s : State) (t : Task) (r : Result) : State :=
  { s with free := s.free + (s.effective t r).draws }.memOps (s.effective t r).ops

/-- The suppressed accesses of the task's run. -/
def State.resultSuppressed (s : State) (t : Task) (r : Result) : Nat := (s.effective t r).suppressedCount t.speculative

/-- The state with the result's counters and maxima besides. -/
def State.resultCounted (s : State) (t : Task) (r : Result) : State :=
  (s.effective t r).raises.foldl (fun a p => a.raiseReg p.1 p.2)
    (((s.resultStored t r).bumps (s.effective t r).bumps).bump Reg.MEM_CNT_SPEC_FAULT_SUPPRESSED (s.resultSuppressed t r))

/-- The state with the result's telemetry and events besides. -/
def State.resultPosted (s : State) (t : Task) (r : Result) : State :=
  ((s.resultCounted t r).blockStats (s.effective t r).blocks).postAll (s.effective t r).events

/-- The task as its result leaves it. -/
def State.finished (s : State) (t : Task) (r : Result) : Task :=
  { t with phase := .finished, status := (s.effective t r).finalStatus t.speculative,
           marked := t.marked || decide (0 < s.resultSuppressed t r), poisonAt := (s.effective t r).poisonAt,
           startedAt := (s.resultStored t r).writes.length,
           csum := if s.shadowPhase t then some ((s.resultStored t r).outCsum (s.effective t r).ops) else none }

/-- A result's steps in order; at the end its requests and cycles are counted and its task has finished. -/
theorem State.applyResult_eq (s : State) (t : Task) (r : Result) :
    s.applyResult t r =
      (((s.resultPosted t r).traffic t r).countCycles t (s.effective t r)).setTask (s.finished t r) := rfl

/-- A disturbed run keeps all of its result but its effects on memory and its draws. -/
theorem State.effective_same (s : State) (t : Task) (r : Result) :
    (s.effective t r).status = r.status ∧ (s.effective t r).bumps = r.bumps ∧ (s.effective t r).raises = r.raises ∧
      (s.effective t r).events = r.events ∧ (s.effective t r).blocks = r.blocks ∧
      (s.effective t r).poisonAt = r.poisonAt ∧ (s.effective t r).suppressed = r.suppressed ∧
      (s.effective t r).busy = r.busy := by
  unfold State.effective
  split <;> exact ⟨rfl, rfl, rfl, rfl, rfl, rfl, rfl, rfl⟩

/-- A run that was not disturbed has its own result. -/
theorem State.effective_of_undisturbed {s : State} {t : Task} (h : s.disturbed t = false) (r : Result) : s.effective t r = r := by
  simp [State.effective, h]

/-- A disturbed run finishes its task as its own result says. -/
theorem State.finished_eq (s : State) (t : Task) (r : Result) :
    s.finished t r = { t with
      phase := .finished, status := r.finalStatus t.speculative, poisonAt := r.poisonAt,
      marked := t.marked || decide (0 < r.suppressedCount t.speculative), startedAt := (s.resultStored t r).writes.length,
      csum := if s.shadowPhase t then some ((s.resultStored t r).outCsum (s.effective t r).ops) else none } := by
  obtain ⟨hstatus, -, -, -, -, hpoison, hsuppressed, -⟩ := s.effective_same t r
  have hfinal : (s.effective t r).finalStatus t.speculative = r.finalStatus t.speculative := by
    simp only [Result.finalStatus, hstatus, hpoison]
  have hcount : s.resultSuppressed t r = r.suppressedCount t.speculative := by
    simp only [State.resultSuppressed, Result.suppressedCount, hstatus, hpoison, hsuppressed]
  rw [State.finished, hfinal, hpoison, hcount]

/-- Of the tasks a result changes only its own. -/
theorem State.applyResult_tasks (s : State) (t : Task) (r : Result) :
    (s.applyResult t r).tasks = (s.setTask (s.finished t r)).tasks := by
  have hkept : Keeps [.free, .mem, .writes, .regs, .eventSeq, .drift, .pcie, .outputs] s
      (((s.resultPosted t r).traffic t r).countCycles t (s.effective t r)) := by
    refine Keeps.after (State.countCycles_keeps ..) (Keeps.after (State.traffic_keeps ..) ?_)
    refine Keeps.after (State.postAll_keeps ..) (Keeps.after (State.blockStats_keeps ..) ?_)
    refine Keeps.foldl (fun _ _ => (State.raiseReg_keeps ..).mono rfl) ?_
    refine Keeps.after (State.bump_keeps ..) (Keeps.after (State.bumps_keeps ..) (Keeps.after (State.memOps_keeps ..) ?_))
    exact Keeps.made_free (Keeps.refl _ _)
  have htasks : (((s.resultPosted t r).traffic t r).countCycles t (s.effective t r)).tasks = s.tasks := hkept.1 .tasks rfl
  rw [State.applyResult_eq]
  simp only [State.setTask, htasks]

/-! ### A result's memory -/

/-- Free bytes over ranges change no byte outside them. -/
theorem range_mem_of_undefinedOps {l : List (Nat × Nat)} {d : Nat} {op : MemOp} (h : op ∈ undefinedOps l d) : op.range ∈ l := by
  induction l generalizing d with
  | nil => exact absurd h (by simp [undefinedOps])
  | cons a r ih =>
    rcases List.mem_cons.1 h with rfl | h
    · exact List.mem_cons_self ..
    · exact List.mem_cons_of_mem _ (ih h)

/-- The result's own effects, and the task's outputs where its run was disturbed, are all that the effects on memory reach. -/
theorem State.range_of_effective {s : State} {t : Task} {r : Result} {op : MemOp} (h : op ∈ (s.effective t r).ops) :
    op ∈ r.ops ∨ (s.disturbed t = true ∧ op.range ∈ t.outs) := by
  unfold State.effective at h
  split at h
  · rename_i hd
    rcases List.mem_append.1 h with h | h
    · exact .inl h
    · exact .inr ⟨hd, range_mem_of_undefinedOps h⟩
  · exact .inl h

/-- The registers of a result's maxima and counters. -/
theorem State.resultCounted_featuresKept (s : State) (t : Task) (r : Result)
    (h : ∀ p ∈ r.bumps ++ r.raises, ¬ featureKey p.1.key) : FeaturesKept (s.resultStored t r) (s.resultCounted t r) := by
  obtain ⟨-, hbumps, hraises, -⟩ := s.effective_same t r
  refine .trans (.trans (State.bumps_featuresKept _ fun p hp => h p ?_) (State.setReg_featuresKept _ (by unfold featureKey; decide) _))
    (.foldl _ _ fun u p hp => u.raiseReg_featuresKept (h p ?_) _)
  · exact List.mem_append_left _ (hbumps ▸ hp)
  · exact List.mem_append_right _ (hraises ▸ hp)

/-- With EVENT_RING not accepted a result's effects on memory are all that reaches it. -/
theorem State.applyResult_mem {s : State} {t : Task} {r : Result} (ha : s.accepted 1 = false)
    (hcount : ∀ p ∈ r.bumps ++ r.raises, ¬ featureKey p.1.key) (hevents : ∀ e ∈ r.events, ¬ featureKey e.1.key) :
    (s.applyResult t r).mem = s.mem.applyAll (s.effective t r).ops := by
  obtain ⟨-, -, -, heq, -⟩ := s.effective_same t r
  have hposted : FeaturesKept (s.resultStored t r) (s.resultPosted t r) :=
    ((s.resultCounted_featuresKept t r hcount).trans (State.blockStats_featuresKept _ _)).trans
      (State.postAll_featuresKept _ (heq ▸ hevents))
  have hlast : (s.applyResult t r).mem = (s.resultPosted t r).mem :=
    ((State.countCycles_keeps ..).mem_eq).trans (State.traffic_keeps ..).mem_eq
  exact hlast.trans (hposted.2 ha)

/-! ### A result's registers -/

/-- Fields that no entry of a list raises keep their values. -/
theorem State.reg_raises_other {l : List (Field × Nat)} {g : Field} (h : ∀ p ∈ l, g.key ≠ p.1.key) (s : State) :
    (l.foldl (fun a p => a.raiseReg p.1 p.2) s).reg g = s.reg g := by
  induction l generalizing s with
  | nil => rfl
  | cons p r ih =>
    have hstep : (s.raiseReg p.1 p.2).reg g = s.reg g := by
      unfold State.raiseReg
      split
      · exact State.reg_setReg_other _ _ (h p (List.mem_cons_self ..))
      · rfl
    exact (ih (fun q hq => h q (List.mem_cons_of_mem _ hq)) _).trans hstep

/-- The registers of a result's counters and maxima, and of its suppressed accesses, are all that it counts in. -/
theorem State.reg_resultCounted_other {s : State} {t : Task} {r : Result} {g : Field}
    (hsup : g.key ≠ Reg.MEM_CNT_SPEC_FAULT_SUPPRESSED.key) (h : ∀ p ∈ r.bumps ++ r.raises, g.key ≠ p.1.key) :
    (s.resultCounted t r).reg g = s.reg g := by
  obtain ⟨-, hbumps, hraises, -⟩ := s.effective_same t r
  unfold State.resultCounted
  rw [State.reg_raises_other fun p hp => h p (List.mem_append_right _ (hraises ▸ hp)), State.reg_bump, if_neg hsup,
    State.reg_bumps_other _ _ fun p hp => h p (List.mem_append_left _ (hbumps ▸ hp))]
  rfl

/-- A result without scaled blocks and events posts nothing. -/
theorem State.resultPosted_of_quiet {s : State} {t : Task} {r : Result} (he : r.events = []) (hb : r.blocks = []) :
    s.resultPosted t r = s.resultCounted t r := by
  obtain ⟨-, -, -, hevents, hblocks, -⟩ := s.effective_same t r
  unfold State.resultPosted
  rw [hevents, hblocks, he, hb]
  rfl

/-- Requests are counted in two registers. -/
theorem State.reg_traffic_other (s : State) (t : Task) (r : Result) {g : Field} (hhot : g.key ≠ Reg.MEM_CNT_HOT_BANK.key)
    (hmerged : g.key ≠ Reg.MEM_CNT_MERGED.key) : (s.traffic t r).reg g = s.reg g := by
  unfold State.traffic State.tagTraffic State.missTraffic
  split
  · split
    · rfl
    · rw [State.reg_bump, if_neg hhot]
      rfl
  · split
    · rw [State.reg_bumps_other _ _ (by simp [hhot, hmerged])]
      rfl
    · rfl

/-- A run's cycles are counted in the registers of its cycles. -/
theorem State.reg_countCycles_other (s : State) (t : Task) (r : Result) {g : Field}
    (h : ∀ p ∈ s.cycleBumps t r, g.key ≠ p.1.key) : (s.countCycles t r).reg g = s.reg g := by
  unfold State.countCycles
  split
  · rfl
  · rename_i hl
    rw [State.reg_bumps_other _ _ h]
    rfl

/-- The Chart decides which tiles a task holds. -/
theorem State.heldTiles_congr {s u : State} (h : u.chart = s.chart) (t : Task) : u.heldTiles t = s.heldTiles t := by
  simp only [State.heldTiles, State.wideGroupOf?, State.group?, h]

/-- The task and the Chart decide in which registers a run's cycles are counted. -/
theorem State.cycleBumps_fields {s u : State} (h : u.chart = s.chart) (t : Task) (r r' : Result) :
    (u.cycleBumps t r').map (·.1) = (s.cycleBumps t r).map (·.1) := by
  unfold State.cycleBumps
  rw [State.heldTiles_congr h]
  dsimp only
  split_ifs
  · rfl
  · rfl
  · simp only [List.map_map]
    rfl
  · rfl

/-- Settles O23: a result's frame, its task, and what of memory and of the registers it does not reach. -/
theorem resultFrame : Obligations.ResultFrame := by
  intro s t r
  refine ⟨(s.applyResult_keeps t r).1,
    ⟨_, _, (s.applyResult_tasks t r).trans (congrArg (fun u => (s.setTask u).tasks) (s.finished_eq t r))⟩,
    fun ha hregs hevents k hops houts => ?_, fun he hb g hsup hhot hmerged hlist => ?_⟩
  · rw [State.applyResult_mem ha (fun p hp => not_or.2 (hregs p hp)) fun e hmem => not_or.2 (hevents e hmem)]
    refine Memory.read_applyAll_outside _ _ _ fun op hop => ?_
    rcases State.range_of_effective hop with hown | ⟨hdisturbed, hout⟩
    · exact hops op hown
    · exact houts hdisturbed _ hout
  · have hcycles : ∀ p ∈ ((s.resultPosted t r).traffic t r).cycleBumps t (s.effective t r), g.key ≠ p.1.key := by
      have hchart : ((s.resultPosted t r).traffic t r).chart = s.chart := by
        have hkept := State.applyResult_keeps s t r
        have hrest := State.countCycles_keeps ((s.resultPosted t r).traffic t r) t (s.effective t r)
        exact (hrest.1 .chart rfl).symm.trans (hkept.1 .chart rfl)
      intro p hp
      have hfield := List.mem_map_of_mem (f := Prod.fst) hp
      rw [State.cycleBumps_fields hchart t r] at hfield
      obtain ⟨q, hq, hsame⟩ := List.mem_map.1 hfield
      exact hsame ▸ hlist q (List.mem_append_right _ hq)
    rw [State.applyResult_eq, State.reg_setTask, State.reg_countCycles_other _ _ _ hcycles,
      State.reg_traffic_other _ _ _ hhot hmerged, State.resultPosted_of_quiet he hb,
      State.reg_resultCounted_other hsup fun p hp => hlist p (List.mem_append_left _ hp)]

end

end Sys2Proof.Machine
end

section
namespace Sys2Proof.Machine

open Sys2Proof

section

-- As in the model's Laws: one declaration after another keeps the joined text within the check's memory.
set_option Elab.async false

/-! ### Bytes that are moved (R85) -/

/-- A shifted cell is found where the cell is. -/
theorem cellAt_shiftedCells (cells : List Host.Cell) {src n k : Nat} (dst : Nat) (hk : k < n) :
    cellAt (dst + k) (shiftedCells cells src dst n) = cellAt (src + k) cells := by
  unfold shiftedCells
  induction cells with
  | nil => rfl
  | cons c r ih =>
    by_cases hin : src ≤ c.1 ∧ c.1 < src + n
    · rw [List.filter_cons_of_pos (by simpa using hin), List.map_cons, cellAt, cellAt, ih]
      exact if_congr (by dsimp only; omega) rfl rfl
    · rw [List.filter_cons_of_neg (by simpa using hin), ih, cellAt, if_neg (by omega)]

/-- A byte of a moved range reads as the byte that it was moved from. -/
theorem Memory.read_apply_move (m : Memory) (src dst : Nat) {n k : Nat} (hk : k < n) :
    (m.apply (.move src dst n)).read (dst + k) = m.read (src + k) := by
  have hin : ∀ c ∈ shiftedCells m.cells src dst n, dst ≤ c.1 ∧ c.1 < dst + n := by
    intro c hc
    obtain ⟨a, ha, rfl⟩ := List.mem_map.1 hc
    have hrange := (List.mem_filter.1 ha).2
    simp only [Bool.and_eq_true, decide_eq_true_eq] at hrange
    dsimp only
    omega
  refine (cellAt_splice _ _ _ _ _ hin).trans ?_
  rw [if_pos ⟨Nat.le_add_right .., Nat.add_lt_add_left hk _⟩]
  exact cellAt_shiftedCells _ dst hk

/-! ### Orders that free values choose -/

theorem insertBy_perm {α : Type} (before : α → α → Bool) (a : α) (l : List α) : (insertBy before a l).Perm (a :: l) := by
  induction l with
  | nil => exact .refl _
  | cons b r ih =>
    unfold insertBy
    split
    · exact .refl _
    · exact (ih.cons b).trans (.swap a b r)

theorem sortBy_perm {α : Type} (before : α → α → Bool) (l : List α) : (sortBy before l).Perm l := by
  unfold sortBy
  rw [List.foldl_reverse]
  induction l with
  | nil => exact .refl _
  | cons a r ih => exact (insertBy_perm _ a _).trans (ih.cons a)

/-- A free order loses and adds nothing. -/
theorem freeOrder_perm {α : Type} (free : Nat) (l : List α) : (freeOrder free l).Perm l := by
  unfold freeOrder
  refine ((sortBy_perm _ _).map _).trans (.of_eq ?_)
  rw [List.map_map]
  exact List.zipIdx_map_fst 0 l

/-! ### A result that posts nothing -/

/-- Without scaled blocks and events a result leaves the event ring, the drift watch and what leaves the module. -/
theorem State.applyResult_keeps_of_quiet {s : State} {t : Task} {r : Result} (he : r.events = []) (hb : r.blocks = []) :
    Keeps [.free, .mem, .writes, .regs, .tasks] s (s.applyResult t r) := by
  rw [State.applyResult_eq, State.resultPosted_of_quiet he hb]
  refine Keeps.after (State.setTask_keeps ..) (Keeps.after (State.countCycles_keeps ..) (Keeps.after (State.traffic_keeps ..) ?_))
  refine Keeps.foldl (fun _ _ => (State.raiseReg_keeps ..).mono rfl) ?_
  refine Keeps.after (State.bump_keeps ..) (Keeps.after (State.bumps_keeps ..) (Keeps.after (State.memOps_keeps ..) ?_))
  exact Keeps.made_free (Keeps.refl _ _)

/-- And its effects on memory are all that reaches memory. -/
theorem State.applyResult_mem_of_quiet {s : State} {t : Task} {r : Result} (he : r.events = []) (hb : r.blocks = []) :
    (s.applyResult t r).mem = s.mem.applyAll (s.effective t r).ops := by
  have hcounted : Keeps [.regs] (s.resultStored t r) (s.resultCounted t r) :=
    Keeps.foldl (fun _ _ => State.raiseReg_keeps ..) (Keeps.after (State.bump_keeps ..) (State.bumps_keeps ..))
  have hlast : (s.applyResult t r).mem = (s.resultPosted t r).mem :=
    ((State.countCycles_keeps ..).mem_eq).trans (State.traffic_keeps ..).mem_eq
  rw [hlast, State.resultPosted_of_quiet he hb]
  exact hcounted.mem_eq

/-! ### A DMA task's result -/

/-- A DMA task's run is never disturbed, its phase is never shadowed, and no cycles are counted for it. -/
theorem State.dma_unguarded (s : State) {t : Task} (h : t.desc.engine = engDMA) :
    s.disturbed t = false ∧ s.shadowPhase t = false ∧ ∀ r, s.cycleBumps t r = [] := by
  refine ⟨?_, ?_, fun r => ?_⟩
  · simp [State.disturbed, Task.guarded, h, engDMA, engEDGE, engVECTOR, engARRAY_A, engARRAY_B]
  · simp [State.shadowPhase, h, engDMA, engEDGE, engVECTOR, engARRAY_A, engARRAY_B, engARRAY_AB]
  · simp [State.cycleBumps, h, engDMA, engEDGE, engVECTOR]

/-- A DMA task's requests are counted in one register. -/
theorem State.reg_traffic_dma (s : State) {t : Task} (h : t.desc.engine = engDMA) (r : Result) {g : Field}
    (hhot : g.key ≠ Reg.MEM_CNT_HOT_BANK.key) : (s.traffic t r).reg g = s.reg g := by
  rw [State.traffic, if_pos h, State.tagTraffic]
  split
  · rfl
  · rw [State.reg_bump, if_neg hhot]
    rfl

/-- A result without a failure, poison and suppressed accesses ends its task with OK, and marks nothing. -/
theorem Result.plain_ends {r : Result} (hstatus : r.status = stOK) (hpoison : r.poisonAt = none) (hsup : r.suppressed = 0)
    (spec : Bool) : r.finalStatus spec = stOK ∧ r.suppressedCount spec = 0 := by
  have haccess : stOK ≠ stACCESS := by decide
  have hbound : stOK ≠ stBOUND := by decide
  cases spec <;> simp [Result.finalStatus, Result.suppressedCount, hstatus, hpoison, hsup, haccess, hbound, flag]

/-- What a DMA task's effects on memory and reads alone make of the state. -/
theorem State.applyResult_of_dma {s : State} {t : Task} (h : t.desc.engine = engDMA) (ops : List MemOp) (reads : List (Nat × Nat)) :
    ∃ u n, s.applyResult t { ops := ops, reads := reads } = u ∧ changesOnly [.free, .mem, .writes, .regs, .tasks] s u ∧
      u.mem = s.mem.applyAll ops ∧
      (∀ g : Field, g.key ≠ Reg.MEM_CNT_SPEC_FAULT_SUPPRESSED.key → g.key ≠ Reg.MEM_CNT_HOT_BANK.key → u.reg g = s.reg g) ∧
      u.tasks = (s.setTask { t with phase := .finished, status := stOK, marked := t.marked, poisonAt := none, startedAt := n,
                                    csum := none }).tasks := by
  obtain ⟨hcalm, hplain, hcycles⟩ := s.dma_unguarded h
  refine ⟨_, (s.resultStored t { ops := ops, reads := reads }).writes.length, rfl,
    (State.applyResult_keeps_of_quiet rfl rfl).1, ?_, fun g hsup hhot => ?_, ?_⟩
  · rw [State.applyResult_mem_of_quiet rfl rfl, State.effective_of_undisturbed hcalm]
  · rw [State.applyResult_eq, State.reg_setTask, State.reg_countCycles_other _ _ _ (by simp [(State.dma_unguarded _ h).2.2]),
      State.reg_traffic_dma _ h _ hhot, State.resultPosted_of_quiet rfl rfl,
      State.reg_resultCounted_other hsup fun p hp => absurd hp List.not_mem_nil]
  · obtain ⟨hstatus, hcount⟩ := Result.plain_ends rfl rfl rfl t.speculative (r := { ops := ops, reads := reads })
    rw [State.applyResult_tasks, State.finished_eq, hplain, hstatus, hcount, decide_eq_false (Nat.lt_irrefl 0),
      Bool.or_false]
    rfl

/-! ### COPY, COPY2D and FILL (R92) -/

/-- Without symbol errors demand reads change nothing. -/
theorem State.demandReads_nil (s : State) (ranges : List (Nat × Nat)) : s.demandReads ranges [] = s := rfl

/-- Nothing is read, so no symbol error is met. -/
theorem State.demandReads_of_no_ranges (s : State) (errors : List CodewordError) : s.demandReads [] errors = s := by
  unfold State.demandReads
  induction errors with
  | nil => rfl
  | cons e r ih => exact ih

/-- The op of a DMA task's block is that of the command that runs it. -/
theorem engineRuns.dma_op {s : State} {t : Task} {op : Nat} (h : engineRuns s t engDMA op) : (parseDma t.args).op = op := by
  obtain ⟨-, -, -, -, hop, -⟩ := h
  exact hop

/-- A copy that runs has its run's result after its reads. -/
theorem State.copyStep_of_runs {s : State} {t : Task} {op : Nat} (h : engineRuns s t engDMA op) (errs : List CodewordError) :
    s.copyStep t.id op errs = (s.demandReads (s.copyReads t) errs).applyResult t ((s.demandReads (s.copyReads t) errs).copyRun t) := by
  simp only [State.copyStep, State.runningTask?_of_runs h]

/-- The run of a copy that has something to do. -/
theorem State.copyRun_of_nonempty (s : State) {t : Task} (h : (parseDma t.args).empty = false) :
    s.copyRun t = if (parseDma t.args).xform = 0 then s.plainCopy (parseDma t.args) else s.transformCopy t (parseDma t.args) := by
  simp [State.copyRun, h]

/-- A copy of nothing does nothing. -/
theorem State.copyStep_of_empty {s : State} {t : Task} {op : Nat} (h : engineRuns s t engDMA op)
    (hempty : (parseDma t.args).empty = true) (errs : List CodewordError) : s.copyStep t.id op errs = s.applyResult t {} := by
  have hreads : s.copyReads t = [] := by simp [State.copyReads, hempty]
  rw [State.copyStep_of_runs h, hreads, State.demandReads_of_no_ranges]
  simp [State.copyRun, hempty]

/-- COPY moves its one row. -/
theorem State.plainCopy_of_copy (s : State) {a : DmaArgs} (h : a.op = 0) :
    s.plainCopy a = { ops := [.move (s.key a.src) (s.key a.dst) a.length], reads := [(s.key a.src, a.length)] } := by
  simp [State.plainCopy, State.copyRows, DmaArgs.rowCount, h]

/-- The rows of a COPY2D. -/
theorem State.copyRows_of_copy2d (s : State) {a : DmaArgs} (h : a.op = 1) :
    s.copyRows a = (List.range a.rows).map (fun r =>
      (s.key (rowAddr a.src a.srcStride r), s.key (rowAddr a.dst a.dstStride r), a.length)) := by
  simp [State.copyRows, DmaArgs.rowCount, h]

/-- COPY2D moves its rows, each whole, where none overlaps another. -/
theorem State.plainCopy_of_apart (s : State) {a : DmaArgs} (hapart : a.rows = 1 ∨ a.length ≤ a.dstStride.natAbs) :
    s.plainCopy a = { ops := (s.copyRows a).map (fun p => .move p.1 p.2.1 p.2.2),
                      reads := (s.copyRows a).map (fun p => (p.1, p.2.2)) } :=
  if_neg (by omega)

/-- Where rows overlap the pieces of all of them land in some order. -/
theorem State.plainCopy_of_overlap (s : State) {a : DmaArgs} (h : a.op = 1) (hrows : 1 < a.rows)
    (hover : a.dstStride.natAbs < a.length) :
    (s.plainCopy a).ops.Perm (((s.copyRows a).flatMap rowPieces).map (fun p => .move p.1 p.2.1 p.2.2)) := by
  have hfree : (s.plainCopy a).ops = (freeOrder s.free ((s.copyRows a).flatMap rowPieces)).map (fun p => .move p.1 p.2.1 p.2.2) :=
    congrArg Result.ops (if_pos ⟨h, hrows, hover⟩)
  exact hfree ▸ (freeOrder_perm _ _).map _

theorem exec_copy {t : Task} {op : Nat} {s : State} (h : engineRuns s t engDMA op) {errs : List CodewordError}
    (he : errs.all CodewordError.wf = true) :
    exec (.copy ⟨t.id, errs⟩) s = .next (s.copyStep t.id 0 errs) ∧
      exec (.copy2d ⟨t.id, errs⟩) s = .next (s.copyStep t.id 1 errs) :=
  have hwf : TaskReads.wf ⟨t.id, errs⟩ = true := by simp only [TaskReads.wf, h.wf, he, Bool.and_self]
  ⟨perform_of_wf (c := .copy ⟨t.id, errs⟩) hwf _, perform_of_wf (c := .copy2d ⟨t.id, errs⟩) hwf _⟩

theorem exec_fill {t : Task} {s : State} (h : engineRuns s t engDMA 4) :
    exec (.fill t.id) s = .next (s.applyResult t (s.fillRun t)) :=
  (perform_of_wf (c := .fill t.id) h.wf _).trans (congrArg _ (State.engineStep_of_runs h _))

/-- Settles O22: what one move and one pattern leave in memory, and the moves that every form of a copy makes. -/
theorem copies : Obligations.Copies := by
  refine ⟨fun s t a ha hlen hplain => ⟨fun hrun => ?_, fun hrun => ?_⟩, fun s v t a errs keys ha hwf hv hkeys => ?_⟩
  · subst ha
    have hne : (parseDma t.args).empty = false := by simp [DmaArgs.empty, hlen, hrun.dma_op]
    obtain ⟨u, n, hu, hkept, hmem, hreg, htasks⟩ := State.applyResult_of_dma (s := s) hrun.2.2.2.1
      [.move (s.key (parseDma t.args).src) (s.key (parseDma t.args).dst) (parseDma t.args).length]
      [(s.key (parseDma t.args).src, (parseDma t.args).length)]
    refine ⟨u, n, ?_, hkept, fun k hk => ?_, fun k hk => ?_, hreg, htasks⟩
    · rw [(exec_copy hrun rfl).1, State.copyStep_of_runs hrun, State.demandReads_nil, State.copyRun_of_nonempty _ hne, if_pos hplain,
        State.plainCopy_of_copy _ hrun.dma_op, hu]
    · rw [hmem]
      exact Memory.read_apply_move _ _ _ hk
    · rw [hmem]
      exact Memory.read_applyAll_outside _ [_] k (List.forall_mem_singleton.2 hk)
  · subst ha
    have hne : (parseDma t.args).empty = false := by simp [DmaArgs.empty, hlen, hrun.dma_op]
    obtain ⟨u, n, hu, hkept, hmem, hreg, htasks⟩ := State.applyResult_of_dma (s := s) hrun.2.2.2.1
      [.write (s.key (parseDma t.args).dst)
        ((List.range (parseDma t.args).length).map (fun k => (leBytes 8 (parseDma t.args).src).getD (k % 8) 0))] []
    refine ⟨u, n, ?_, hkept, fun k hk => ?_, fun k hk => ?_, hreg, htasks⟩
    · rw [exec_fill hrun, ← hu, State.fillRun, hne]
      rfl
    · rw [hmem]
      refine (Memory.read_write ..).trans ?_
      rw [if_pos (by simpa using hk), Nat.add_sub_cancel_left]
      simp [hk]
    · rw [hmem]
      exact Memory.read_applyAll_outside _ [_] k (List.forall_mem_singleton.2 (by simpa [MemOp.range] using hk))
  · subst ha hkeys
    have hcopy : ∀ {op}, engineRuns s t engDMA op → (parseDma t.args).length ≠ 0 → (op = 1 → (parseDma t.args).rows ≠ 0) →
        s.copyStep t.id op errs = v.applyResult t (if (parseDma t.args).xform = 0 then v.plainCopy (parseDma t.args)
          else v.transformCopy t (parseDma t.args)) := by
      intro op hrun hlen hrows
      have hne : (parseDma t.args).empty = false := by simpa [DmaArgs.empty, hlen, hrun.dma_op] using hrows
      rw [State.copyStep_of_runs hrun, ← hv, State.copyRun_of_nonempty _ hne]
    refine ⟨fun hrun hlen hx => ?_, fun hrun hlen hrows hx hapart => ?_, fun hrun hlen hrows hx hover => ?_,
      fun hrun hlen hrows hx => ?_, fun hrun hlen hx => ?_, fun hrun hlen => ?_, fun hrun hlen => ?_, fun hrun hlen => ?_⟩
    · rw [(exec_copy hrun hwf).1, hcopy hrun hlen (by omega), if_pos hx, State.plainCopy_of_copy _ hrun.dma_op]
    · rw [(exec_copy hrun hwf).2, hcopy hrun hlen fun _ => hrows, if_pos hx, State.plainCopy_of_apart _ hapart,
        State.copyRows_of_copy2d _ hrun.dma_op, List.map_map, List.map_map]
      rfl
    · refine ⟨by rw [(exec_copy hrun hwf).2, hcopy hrun hlen (by omega), if_pos hx], ?_⟩
      have hperm := v.plainCopy_of_overlap hrun.dma_op hrows hover
      rwa [State.copyRows_of_copy2d _ hrun.dma_op, List.flatMap_map] at hperm
    · rw [(exec_copy hrun hwf).2, hcopy hrun hlen fun _ => hrows, if_neg hx]
    · rw [(exec_copy hrun hwf).1, hcopy hrun hlen (by omega), if_neg hx]
    · rw [(exec_copy hrun hwf).1, State.copyStep_of_empty hrun (by simp [DmaArgs.empty, hlen])]
    · rw [(exec_copy hrun hwf).2, State.copyStep_of_empty hrun (by simpa [DmaArgs.empty, hrun.dma_op] using hlen)]
    · rw [exec_fill hrun, State.fillRun]
      simp [DmaArgs.empty, hlen]

end

end Sys2Proof.Machine
end

section
namespace Sys2Proof.Machine

open Sys2Proof

section

-- As in the model's Laws: one declaration after another keeps the joined text within the check's memory.
set_option Elab.async false

/-! ### Consumers of stream blocks (R97, R190) -/

/-- A consumer that has all its blocks finishes with the result over them; one that lacks some keeps what it has and waits. -/
theorem State.consumeStep_of_taken {s u : State} {t : Task} {slot n : Nat} {remote : List RemoteReply} {l : List Taken} {all : Bool}
    (h : s.takeBlocks (t.runTile / 8) slot remote t.speculative (n - t.blocks.length) t.blocks = (u, l, all))
    (run : State → List Taken → Result) :
    s.consumeStep t slot remote n run = if all then u.applyResult t (run u l) else u.setTask { t with blocks := l } := by
  unfold State.consumeStep
  rw [h]
  cases all <;> rfl

/-! ### GATHER (R191) -/

theorem exec_gather {s : State} {t : Task} (h : engineRuns s t engEDGE 1) (remote : List RemoteReply) :
    exec (.gather t.id remote) s = .next (if (parseGather t.args).streamEn ∧ (parseGather t.args).rowBytes ≠ 0 then
        s.consumeStep t (parseGather t.args).stream remote (parseGather t.args).count (fun s1 l => s1.gatherStream t l)
      else s.applyResult t (s.gatherRun t)) := by
  refine (perform_of_wf (c := .gather t.id remote) h.wf _).trans (congrArg _ ?_)
  simp only [State.gatherStep, State.runningTask?_of_runs h]

/-- A GATHER by index that has rows and columns: its rows, and how many indices were out of range. -/
theorem State.gatherRun_of_rows (s : State) {t : Task} (hb : (parseGather t.args).rowBytes ≠ 0) (hc : (parseGather t.args).count ≠ 0) :
    s.gatherRun t =
      { ops := ((List.range (parseGather t.args).count).map (s.gatherRow (parseGather t.args))).flatMap (·.1),
        bumps := ({ edges := (parseGather t.args).count, indexRange :=
          (((List.range (parseGather t.args).count).map (s.gatherRow (parseGather t.args))).filter (·.2)).length } :
            EdgeCount).bumps t.runTile } :=
  if_neg (not_or.2 ⟨hb, hc⟩)

theorem State.gatherRun_of_empty (s : State) {t : Task} (h : (parseGather t.args).rowBytes = 0 ∨ (parseGather t.args).count = 0) :
    s.gatherRun t = {} := if_pos h

/-- One row of a GATHER: zeros of a whole stride, then the source row that its index names. -/
theorem State.gatherRow_eq (s : State) (a : GatherArgs) {i x out : Nat} {poison : List MemOp}
    (hx : x = if a.idx64 then bits (s.indexAt (s.key a.idx) true i) 47 0 else s.indexAt (s.key a.idx) false i)
    (hout : out = s.key a.out + i * a.outStride)
    (hpoison : poison = if s.mem.poisoned (s.key a.idx + i * indexBytes a.idx64) (indexBytes a.idx64) then
      [.poison out a.outStride] else []) :
    s.gatherRow a i = if a.srcRows ≤ x then ([.zero out a.outStride] ++ poison, true)
      else ([.zero out a.outStride, .move (s.key a.src + x * a.srcStride) out a.rowBytes] ++ poison, false) := by
  have hindex : x = if a.idx64 then bits (leNat (s.mem.readN (s.key a.idx + i * indexBytes a.idx64) (indexBytes a.idx64))) 47 0
      else leNat (s.mem.readN (s.key a.idx + i * indexBytes a.idx64) (indexBytes a.idx64)) := by
    rw [hx]
    cases a.idx64 <;> simp only [State.indexAt, if_true, Bool.false_eq_true, if_false]
  unfold State.gatherRow
  dsimp only
  rw [← hindex, ← hout, ← hpoison]
  by_cases hrange : a.srcRows ≤ x
  · rw [if_pos hrange, if_pos hrange, decide_eq_true hrange]
  · rw [if_neg hrange, if_neg hrange, decide_eq_false hrange]

/-! ### SEG_REDUCE, SCATTER_ADD and INTERSECT (R186, R193, R195) -/

theorem exec_segReduce {s : State} {t : Task} (h : engineRuns s t engEDGE 2) (remote : List RemoteReply) :
    exec (.segReduce t.id remote) s = .next (if (parseSeg t.args).streamEn ∧ (parseSeg t.args).width ≠ 0 then
        s.consumeStep t (parseSeg t.args).stream remote
          (sumNat ((s.segments (parseSeg t.args)).map (fun g => (g.edges.map (·.length)).getD 0)))
          (fun s1 l => s1.segStream t (s.segments (parseSeg t.args)) l)
      else s.applyResult t (s.segRun t)) := by
  refine (perform_of_wf (c := .segReduce t.id remote) h.wf _).trans (congrArg _ ?_)
  simp only [State.segStep, State.runningTask?_of_runs h]

theorem State.segRun_of_rows (s : State) {t : Task} (hw : (parseSeg t.args).width ≠ 0) (hc : (parseSeg t.args).count ≠ 0) :
    s.segRun t = s.segResult t
      ((s.segments (parseSeg t.args)).map (fun g => (g.edges.map (fun es => es.map (s.edgeRow (parseSeg t.args))), g.taint))) :=
  if_neg (not_or.2 ⟨hw, hc⟩)

theorem State.segRun_of_empty (s : State) {t : Task} (h : (parseSeg t.args).width = 0 ∨ (parseSeg t.args).count = 0) :
    s.segRun t = {} := if_pos h

theorem exec_scatterAdd {s : State} {t : Task} (h : engineRuns s t engEDGE 3) :
    exec (.scatterAdd t.id) s = .next (s.applyResult t (s.scatterRun t)) :=
  (perform_of_wf (c := .scatterAdd t.id) h.wf _).trans (congrArg _ (State.engineStep_of_runs h _))

theorem State.scatterRun_of_empty (s : State) {t : Task} (h : (parseScatter t.args).width = 0 ∨ (parseScatter t.args).count = 0) :
    s.scatterRun t = {} := if_pos h

theorem exec_intersect {s : State} {t : Task} (h : engineRuns s t engEDGE 4) :
    exec (.intersect t.id) s = .next (s.applyResult t (s.intersectRun t)) :=
  (perform_of_wf (c := .intersect t.id) h.wf _).trans (congrArg _ (State.engineStep_of_runs h _))

theorem State.intersectRun_of_empty (s : State) {t : Task} (h : (parseIntersect t.args).pairs = 0) : s.intersectRun t = {} :=
  if_pos h

/-- Settles O26: each operation by its supply, its rows and what is empty of it. -/
theorem edgeOps : Obligations.EdgeOps := by
  intro s t
  refine ⟨fun h hs hb hc remote => ?_, fun i x hx out poison hout hpoison => s.gatherRow_eq _ hx hout hpoison,
    fun h hs hw hc remote => ?_, fun remote u l h hs hb => ?_, fun remote u l n h hs hw hn => ?_, exec_scatterAdd,
    exec_intersect, fun h hempty remote => ?_, fun h hempty remote => ?_, fun h hempty => ?_, fun h hempty => ?_⟩
  · rw [exec_gather h, hs, if_neg (fun hall => Bool.false_ne_true hall.1), s.gatherRun_of_rows hb hc]
  · rw [exec_segReduce h, hs, if_neg (fun hall => Bool.false_ne_true hall.1), s.segRun_of_rows hw hc]
  · rw [exec_gather h, if_pos ⟨hs, hb⟩]
    exact ⟨fun htaken => by rw [State.consumeStep_of_taken htaken, if_pos rfl],
      fun htaken => by rw [State.consumeStep_of_taken htaken, if_neg Bool.false_ne_true]⟩
  · rw [exec_segReduce h, if_pos ⟨hs, hw⟩, ← hn]
    exact ⟨fun htaken => by rw [State.consumeStep_of_taken htaken, if_pos rfl],
      fun htaken => by rw [State.consumeStep_of_taken htaken, if_neg Bool.false_ne_true]⟩
  · have hindex : ¬ ((parseGather t.args).streamEn = true ∧ (parseGather t.args).rowBytes ≠ 0) := fun ⟨hs, hb⟩ =>
      hempty.elim hb fun hall => Bool.false_ne_true (hall.1.symm.trans hs)
    rw [exec_gather h, if_neg hindex, s.gatherRun_of_empty (hempty.imp_right And.right)]
  · have hindex : ¬ ((parseSeg t.args).streamEn = true ∧ (parseSeg t.args).width ≠ 0) := fun ⟨hs, hw⟩ =>
      hempty.elim hw fun hall => Bool.false_ne_true (hall.1.symm.trans hs)
    rw [exec_segReduce h, if_neg hindex, s.segRun_of_empty (hempty.imp_right And.right)]
  · rw [exec_scatterAdd h, s.scatterRun_of_empty hempty]
  · rw [exec_intersect h, s.intersectRun_of_empty hempty]

end

end Sys2Proof.Machine
end

section
namespace Sys2Proof.Machine

open Sys2Proof

section

-- As in the model's Laws: one declaration after another keeps the joined text within the check's memory.
set_option Elab.async false

/-! ### SAMPLE (R117 to R125) -/

/-- Any op byte names the one operation of the sampler. -/
theorem exec_sample {s : State} {t : Task} {op : Nat} (h : engineRuns s t engSAMPLE op) (remote : List RemoteReply) :
    exec (.sample t.id remote) s = .next ((s.setTask { t with stage := s.sampleHeld remote (s.repliesFor t.id) t }).applyRemote t
      t.desc.place (s.sampleRun remote (s.repliesFor t.id) t)) := by
  refine (perform_of_wf (c := .sample t.id remote) h.wf _).trans (congrArg _ ?_)
  obtain ⟨htask, -, -, -, rfl, -⟩ := id h
  simp only [State.sampleStep, htask, State.runningTask?_of_runs h]

/-- A result that needs nothing of other modules reaches the state, and what was asked for is forgotten. -/
theorem State.applyRemote_of_complete (s : State) (t : Task) (die : Nat) {r : Result} (h : r.missing = []) :
    s.applyRemote t die r = (s.applyResult t r).dropRequests t.id :=
  if_pos (by rw [h]; rfl)

/-- Else its gets go out. -/
theorem State.applyRemote_of_missing (s : State) (t : Task) (die : Nat) {r : Result} (h : r.missing ≠ []) :
    s.applyRemote t die r = s.sendGets t die r.missing :=
  if_neg (by simpa using h)

theorem State.sampleRun_of_empty (s : State) (remote replies : List RemoteReply) {t : Task}
    (h : (parseSample t.args).seedCount = 0 ∨ (parseSample t.args).hopCount = 0) : s.sampleRun remote replies t = {} :=
  if_pos h

/-- One get that is not asked for yet leaves where its I/O die and the limit have room. -/
theorem State.sendGets_of_one {s : State} {t : Task} {die a n : Nat} {gets : List (Nat × Nat)}
    (hnew : s.unasked t.id gets.eraseDups = [(a, n)]) (hroom : s.outstanding (ioOfDie die) < 16384)
    (hlimit : ((s.requestsOf t.id).filter (·.ended.isNone)).length < s.reg Reg.SND_CFG_remote_limit) :
    s.sendGets t die gets = (s.bump Reg.SND_CNT_REMOTE_GETS 1).issue (ioOfDie die) t.id
      { Packet.blank with dst := addrNode a, jobId := t.job, op := pktGET, tc := 1, addr := a, length := n } 0 [] := by
  simp only [State.sendGets, hnew, List.foldl_cons, List.foldl_nil, if_pos (And.intro hroom hlimit)]

/-- At the limit none leaves. -/
theorem State.sendGets_of_limit {s : State} {t : Task}
    (h : s.reg Reg.SND_CFG_remote_limit ≤ ((s.requestsOf t.id).filter (·.ended.isNone)).length) (die : Nat)
    (gets : List (Nat × Nat)) : s.sendGets t die gets = s := by
  unfold State.sendGets
  generalize s.unasked t.id gets.eraseDups = l
  induction l with
  | nil => rfl
  | cons p r ih => rw [List.foldl_cons, if_neg fun hall => Nat.not_lt.2 h hall.2, ih]

/-- Settles O29: a task without seeds or hops, one that has its data, one that lacks some, and what its gets do. -/
theorem sampling : Obligations.Sampling := by
  intro s u t op remote r h hu hr
  rw [exec_sample h, ← hu, ← hr]
  refine ⟨fun hempty => ?_, fun hall => by rw [State.applyRemote_of_complete _ _ _ hall],
    fun hlack => by rw [State.applyRemote_of_missing _ _ _ hlack],
    fun gets a n hnew hroom hlimit => State.sendGets_of_one hnew hroom hlimit, fun gets hlimit => State.sendGets_of_limit hlimit _ _⟩
  have hnothing : r = {} := hr.trans (s.sampleRun_of_empty remote _ hempty)
  rw [hnothing, State.applyRemote_of_complete _ _ _ rfl]

/-! ### NORM, APPLY, STORE, ROOT and EXPORT (R324 to R339) -/

/-- NORM starts once. -/
theorem exec_norm {s : State} {t : Task} (h : engineRuns s t engUPDATE updNORM) :
    (s.requestsOf t.id = [] → (∀ w ∈ s.fabric.waiting, w.1 ≠ t.id) → exec (.norm t.id) s = .next (s.normRun t)) ∧
    (s.requestsOf t.id ≠ [] ∨ (∃ w ∈ s.fabric.waiting, w.1 = t.id) → exec (.norm t.id) s = .next s) := by
  have hstep : exec (.norm t.id) s = .next (if s.requestsOf t.id = [] ∧ s.fabric.waiting.all (fun w => !decide (w.1 = t.id)) then
      s.normRun t else s) := by
    refine (perform_of_wf (c := .norm t.id) h.wf _).trans (congrArg _ ?_)
    simp only [State.normStep, State.runningTask?_of_runs h]
  have hnone : s.fabric.waiting.all (fun w => !decide (w.1 = t.id)) = true ↔ ∀ w ∈ s.fabric.waiting, w.1 ≠ t.id := by
    simp [List.all_eq_true]
  rw [hstep]
  refine ⟨fun hreq hwait => by rw [if_pos ⟨hreq, hnone.2 hwait⟩], fun hsent => ?_⟩
  rw [if_neg]
  rintro ⟨hreq, hwait⟩
  exact hsent.elim (· hreq) fun ⟨w, hw, hid⟩ => hnone.1 hwait w hw hid

/-- The run of a NORM: one contribution of the exact sum of its blocks' partials (R328). -/
theorem State.normRun_cases (s : State) (t : Task) :
    ((parseUpd t.args).empty = true → s.normRun t = s.applyResult t {}) ∧
    ((parseUpd t.args).empty = false → s.updCtx? t = none → s.normRun t = s.applyResult t { status := stFORMAT }) ∧
    (∀ c taint, (parseUpd t.args).empty = false → s.updCtx? t = some c →
      taint = s.firstPoisonOf ((s.key c.a.grad + 4 * c.localFirst, 4 * c.units.2) ::
        (c.freezeRange.map (fun r => (s.key r.addr, r.len)))) →
      s.normRun t = (s.setTask { t with poisonAt := taint }).queueRequests t.id (ioOfDie t.desc.place)
        [normPacket c t.job (normCell (s.normPartials c)) taint.isSome]) := by
  refine ⟨fun he => if_pos he, fun he hnone => ?_, fun c taint he hsome htaint => ?_⟩
  · simp only [State.normRun, he, hnone, Bool.false_eq_true, if_false]
  · simp only [State.normRun, he, hsome, Bool.false_eq_true, if_false, htaint]

/-- APPLY updates a dense group, or the touched rows of a table. -/
theorem exec_apply {s : State} {t : Task} (h : engineRuns s t engUPDATE updAPPLY) :
    ((parseUpd t.args).empty = true → exec (.apply t.id) s = .next (s.applyResult t {})) ∧
    ((parseUpd t.args).empty = false → s.updCtx? t = none → exec (.apply t.id) s = .next (s.applyResult t { status := stFORMAT })) ∧
    (∀ c, (parseUpd t.args).empty = false → s.updCtx? t = some c →
      exec (.apply t.id) s = .next (if c.dense then s.applyDense t c else s.applyTable t c)) := by
  have hstep : exec (.apply t.id) s = .next (s.applyStep t.id) := perform_of_wf (c := .apply t.id) h.wf _
  rw [hstep]
  simp only [State.applyStep, State.runningTask?_of_runs h]
  exact ⟨fun he => by rw [if_pos he], fun he hnone => by simp only [he, hnone, Bool.false_eq_true, if_false],
    fun c he hsome => by simp only [he, hsome, Bool.false_eq_true, if_false]⟩

/-- The runs of STORE, ROOT and EXPORT where there is nothing to do. -/
theorem State.updRuns_of_empty (s : State) {t : Task} (h : (parseUpd t.args).empty = true) :
    s.storeRun t = {} ∧ s.rootRun t = {} ∧ s.exportRun t = {} :=
  ⟨if_pos h, if_pos h, if_pos h⟩

/-- And where the group is not there. -/
theorem State.updRuns_of_no_group (s : State) {t : Task} (h : (parseUpd t.args).empty = false) (hnone : s.updCtx? t = none) :
    s.storeRun t = { status := stFORMAT } ∧ s.rootRun t = { status := stFORMAT } ∧ s.exportRun t = { status := stFORMAT } := by
  simp only [State.storeRun, State.rootRun, State.exportRun, h, hnone, Bool.false_eq_true, if_false, and_self]

/-- ROOT writes the roots of its tiles. -/
theorem State.rootRun_of_group (s : State) {t : Task} {c : UpdCtx} (h : (parseUpd t.args).empty = false) (hsome : s.updCtx? t = some c) :
    s.rootRun t =
      { ops := (c.tiles.map (fun x => s.rootTile c x.1 x.2)).flatMap (·.1),
        bumps := [(Reg.UPD_CNT_ROOT_TILES, 2 * c.tiles.length),
          (Reg.UPD_CNT_ROOT_FAIL, sumNat ((c.tiles.map (fun x => s.rootTile c x.1 x.2)).map (·.2)))],
        poisonAt := s.firstPoisonOf (c.tiles.map (fun x => (c.tileKey x.1 x.2, 0x20000))) } := by
  simp only [State.rootRun, h, hsome, Bool.false_eq_true, if_false, List.length_map]

/-- Settles O39: each operation by what is empty of it and by its group. -/
theorem updateOps : Obligations.UpdateOps := by
  intro s t
  refine ⟨fun h => ?_, fun h => ?_, fun h => ?_, fun h => ?_, fun c he hsome => s.rootRun_of_group he hsome, fun h => ?_,
    fun he => s.updRuns_of_empty he, fun he hnone => s.updRuns_of_no_group he hnone⟩
  · obtain ⟨hstart, hstarted⟩ := exec_norm h
    obtain ⟨hempty, hmissing, hsend⟩ := s.normRun_cases t
    refine ⟨fun hreq hwait => ?_, hstarted⟩
    rw [hstart hreq hwait]
    exact ⟨fun he => by rw [hempty he], fun he hnone => by rw [hmissing he hnone],
      fun c taint he hsome htaint => by rw [hsend c taint he hsome htaint]⟩
  · obtain ⟨hempty, hmissing, hgroup⟩ := exec_apply h
    refine ⟨hempty, hmissing, fun c he hsome => ?_⟩
    rw [hgroup c he hsome]
    exact ⟨fun hd => by rw [if_pos hd], fun hd => by rw [hd, if_neg Bool.false_ne_true]⟩
  · exact (perform_of_wf (c := .store t.id) h.wf _).trans (congrArg _ (State.engineStep_of_runs h _))
  · exact (perform_of_wf (c := .root t.id) h.wf _).trans (congrArg _ (State.engineStep_of_runs h _))
  · exact (perform_of_wf (c := .exportRows t.id) h.wf _).trans (congrArg _ (State.engineStep_of_runs h _))

end

end Sys2Proof.Machine
end

section
namespace Sys2Proof.Machine

open Sys2Proof

section

-- As in the model's Laws: one declaration after another keeps the joined text within the check's memory.
set_option Elab.async false

/-! ### Doorbells that are accepted (R64, R66) -/

/-- A change of one ring is seen at that ring alone. -/
theorem State.setRing_changes (s : State) {r : Ring} {id : Nat} (h : r.id = id) :
    changesOnly [.rings] s (s.setRing r) ∧ (s.setRing r).ring id = r ∧
      ∀ other, other ≠ id → (s.setRing r).ring other = s.ring other :=
  ⟨(State.setRing_keeps ..).1, State.ring_setRing_of_id s h, fun _ hne => State.ring_setRing_other s (h ▸ hne)⟩

theorem State.doorbell_of_accepted {s : State} {ring value : Nat} (ha : s.accepted 0 = true) (he : (s.ring ring).enabled = true)
    (hc : s.chtState = chtActive) (hj : (s.ringJob? ring).isSome)
    (hv : (value % 2 ^ 32 + 2 ^ 32 - (s.ring ring).head) % 2 ^ 32 ≤ 2 ^ (s.ring ring).log2Size) :
    s.doorbell ring value = s.setRing { s.ring ring with tail := value % 2 ^ 32 } :=
  if_pos ⟨ha, he, hc, hj, hv⟩

theorem State.doorbellWrite_of_awake {s : State} (h : s.power.anchor = .awake) {size : Nat} (hsize : size = 4 ∨ size = 8)
    (ring value : Nat) : s.doorbellWrite ring 0 size value = s.doorbell ring value := by
  have hwake : s.wakeTrigger = s := by simp only [State.wakeTrigger, h]
  refine (if_pos ⟨rfl, hsize⟩).trans ?_
  rw [hwake]
  exact if_pos h

theorem State.cqHeadWrite_of_accepted {s : State} {ring size value : Nat} (hsize : size = 4 ∨ size = 8) (ha : s.accepted 0 = true)
    (hv : (value % 2 ^ 32 + 2 ^ 32 - (s.ring ring).cqHead) % 2 ^ 32 ≤
      ((s.ring ring).cqTail + 2 ^ 32 - (s.ring ring).cqHead) % 2 ^ 32) :
    s.cqHeadWrite ring size value = s.setRing { s.ring ring with cqHead := value % 2 ^ 32 } :=
  if_pos ⟨hsize, ha, hv⟩

/-! ### The record of an entry or a descriptor (R65, R66) -/

/-- What the end of a ring's work and its next descriptor leave of its completion queue and its name. -/
theorem Ring.closeIfDone_queue (r : Ring) :
    r.closeIfDone.id = r.id ∧ r.closeIfDone.waiting = r.waiting ∧ r.closeIfDone.cqTail = r.cqTail := by
  unfold Ring.closeIfDone
  split <;> exact ⟨rfl, rfl, rfl⟩

theorem Ring.advanceDescriptor_queue (r : Ring) :
    r.advanceDescriptor.id = r.id ∧ r.advanceDescriptor.waiting = r.waiting ∧ r.advanceDescriptor.cqTail = r.cqTail := by
  unfold Ring.advanceDescriptor
  split
  · split <;> exact ⟨rfl, rfl, rfl⟩
  · exact ⟨rfl, rfl, rfl⟩

/-- The oldest waiting record of an entry or a descriptor that asks for no vector: 16 bytes are written, and the ring goes on. -/
theorem State.recordWrite_of_entry {s : State} {ring : Nat} {w : WaitingRecord} {rest : List WaitingRecord}
    (hw : (s.ring ring).waiting = w :: rest) (hroom : (s.ring ring).cqFull = false) (hnone : w.task = none)
    (hquiet : w.interrupt = false) :
    changesOnly [.mem, .writes, .rings] s (s.recordWrite ring) ∧
    (s.recordWrite ring).mem = s.mem.write ((s.ring ring).cqBase * 16 + (s.ring ring).cqTail % 2 ^ (s.ring ring).log2Size * 16)
      (w.bytes (phaseBit (s.ring ring).cqTail (s.ring ring).log2Size)) ∧
    ((s.recordWrite ring).ring ring).waiting = rest ∧
    ((s.recordWrite ring).ring ring).cqTail = ((s.ring ring).cqTail + 1) % 2 ^ 32 ∧
    ((s.recordWrite ring).ring ring).heldByRecord = false := by
  obtain ⟨s1, hs1⟩ : ∃ s1, s1 = s.setRing { s.ring ring with waiting := rest } := ⟨_, rfl⟩
  obtain ⟨u, hu⟩ : ∃ u, u = s1.recordStored ring w := ⟨_, rfl⟩
  obtain ⟨v, hv⟩ : ∃ v, v = u.setRing (u.ring ring).closeIfDone := ⟨_, rfl⟩
  have hr1 : s1.ring ring = { s.ring ring with waiting := rest } := hs1 ▸ State.ring_setRing_of_id s (s.ring_id ring)
  have hru : u.ring ring = { s1.ring ring with cqTail := ((s1.ring ring).cqTail + 1) % 2 ^ 32 } := hu ▸ s1.recordStored_ring ring w
  have hrv : v.ring ring = (u.ring ring).closeIfDone :=
    hv ▸ State.ring_setRing_of_id u ((Ring.closeIfDone_queue _).1.trans (u.ring_id ring))
  have hwritten : u = s1.writeRecord ring w := by
    rw [State.writeRecord_eq, hquiet, hu]
    exact (if_neg Bool.false_ne_true).symm
  obtain ⟨hentry, -, -⟩ := State.recordWrite_of_waiting hw hroom (hs1 ▸ hwritten) hv
  obtain ⟨-, hcw, hct⟩ := Ring.closeIfDone_queue (u.ring ring)
  obtain ⟨haid, haw, hat⟩ := Ring.advanceDescriptor_queue (v.ring ring)
  have hrlast := State.ring_setRing_of_id v (r := { (v.ring ring).advanceDescriptor with heldByRecord := false })
    (haid.trans (v.ring_id ring))
  rw [hentry hnone]
  refine ⟨?_, ?_, ?_, ?_, ?_⟩
  · have hkeeps : Keeps [.mem, .writes, .rings] s v :=
      hv ▸ (State.setRing_keeps ..).after (hu ▸ (s1.recordStored_keeps ring w).after
        (hs1 ▸ (State.setRing_keeps ..).mono rfl))
    exact ((State.setRing_keeps ..).after hkeeps : Keeps _ _ _).1
  · have hmem : u.mem = s1.mem.write ((s1.ring ring).cqBase * 16 + (s1.ring ring).cqTail % 2 ^ (s1.ring ring).log2Size * 16)
        (w.bytes (phaseBit (s1.ring ring).cqTail (s1.ring ring).log2Size)) := by rw [hu]; rfl
    rw [State.setRing_mem, hv, State.setRing_mem, hmem, hr1, hs1, State.setRing_mem]
  · rw [hrlast]
    exact haw.trans (by rw [hrv, hcw, hru, hr1])
  · rw [hrlast]
    exact hat.trans (by rw [hrv, hct, hru, hr1])
  · rw [hrlast]

/-! ### LOOKUP without pooling (R133, R135) -/

theorem exec_lookup {s : State} {t : Task} (h : engineRuns s t engEDGE 0x20) (remote : List RemoteReply) :
    exec (.lookup t.id remote) s =
      .next (s.applyFetched t (t.runTile / 8) (s.lookupRun remote (s.repliesFor t.id) t)) := by
  refine (perform_of_wf (c := .lookup t.id remote) h.wf _).trans (congrArg _ ?_)
  simp only [State.lookupStep, State.runningTask?_of_runs h]

/-- With no row missing the result reaches the state and the task's requests are forgotten. -/
theorem State.applyFetched_of_complete (s : State) (t : Task) (die : Nat) {r : Result} (h : r.missing = []) :
    s.applyFetched t die r = (s.applyResult t r).dropRequests t.id :=
  if_pos (List.isEmpty_iff.2 h)

/-- A lookup without pooling that has indices is a gather. -/
theorem State.lookupRun_of_gather {s : State} {t : Task} {supplied replies : List RemoteReply} {a : LookupArgs} {x : OpenTable}
    (ha : a = parseLookup t.args) (hp : a.pooled = false) (hc : a.count ≠ 0) (hx : s.openTable? a.table = some x) :
    s.lookupRun supplied replies t =
      s.lookupGather t (s.tableCtx t (t.rowTraffic supplied replies).answers x a.epoch a.idx64) (t.rowTraffic supplied replies) a := by
  subst ha
  have hsome : (parseLookup t.args).empty = false := by simp [LookupArgs.empty, hp, hc]
  simp only [State.lookupRun, hsome, hx, hp, Bool.false_eq_true, if_false]

/-- A gather whose rows have all come. -/
theorem State.lookupGather_of_fetched {s : State} {t : Task} {c : TableCtx} {w : RowTraffic} {a : LookupArgs} {src : List RowSource}
    {rows : List FetchedRow} {y : Access} {n : Nat}
    (hsrc : src = (List.range a.count).map (fun i => s.resolve c (s.indexAt (s.key a.idx) a.idx64 i)))
    (hrows : s.fetchRows c (rowPayload c.table.format c.table.width) src {} = (rows, y)) (hok : y.status = stOK)
    (hn : n = (src.filter (fun r => decide (r = .outOfRange))).length) :
    s.lookupGather t c w a =
      { ops := rows.zipIdx.flatMap (fun p => [MemOp.zero (s.key a.out + p.2 * c.stride) c.stride] ++
          markedWrite (s.key a.out + p.2 * c.stride) p.1.bytes ++
          (if s.mem.poisoned (s.key a.idx + p.2 * indexBytes a.idx64) (indexBytes a.idx64) then
            [.poison (s.key a.out + p.2 * c.stride) c.stride] else [])) ++
          s.statsOps a.stats
            (w.count c.stride src [] { indices := a.count, indexRange := n, suppressed := y.suppressed + flag c.stale }) false,
        suppressed := y.suppressed, missing := y.missing,
        bumps := ({ edges := a.count, indexRange := n } : EdgeCount).bumps t.runTile } := by
  unfold State.lookupGather
  dsimp only
  rw [← hsrc, hrows]
  exact (if_neg fun hne => hne hok).trans (by rw [hn])

/-! ### PUSH (R143) -/

/-- PUSH starts once: with nothing sent yet, it runs. -/
theorem exec_push_of_unsent {s : State} {t : Task} (h : engineRuns s t engEDGE 0x21) (hreq : s.requestsOf t.id = [])
    (hwait : ∀ w ∈ s.fabric.waiting, w.1 ≠ t.id) : exec (.push t.id) s = .next (s.pushRun t) := by
  have hnone : s.fabric.waiting.all (fun w => !decide (w.1 = t.id)) = true := by simpa [List.all_eq_true] using hwait
  refine (perform_of_wf (c := .push t.id) h.wf _).trans (congrArg _ ?_)
  simp only [State.pushStep, State.runningTask?_of_runs h]
  exact if_pos ⟨hreq, hnone⟩

/-- The state in which a PUSH's packets go out: its scratch is undefined, its entries are counted, and its task keeps what the run
read and its statistics record. -/
def State.pushed (s : State) (t : Task) (a : PushArgs) (n : EdgeCount) (taint : Option Nat) (record : List (Byte × Bool)) : State :=
  ((({ s with free := s.free + 1 } : State).memOps [.undefinedBytes (s.key a.scratch) a.scratchBytes s.free]).bumps
    (n.bumps t.runTile)).setTask { t with poisonAt := taint, statsRecord := record }

theorem State.pushed_keeps (s : State) (t : Task) (a : PushArgs) (n : EdgeCount) (taint : Option Nat) (record : List (Byte × Bool)) :
    Keeps [.free, .mem, .writes, .regs, .tasks] s (s.pushed t a n taint record) := by
  have hfree : Keeps [.free, .mem, .writes, .regs, .tasks] s { s with free := s.free + 1 } := Keeps.made_free (Keeps.refl _ s)
  exact (State.setTask_keeps ..).after ((State.bumps_keeps ..).after ((State.memOps_keeps ..).after hfree))

theorem State.pushed_tasks (s : State) (t : Task) (a : PushArgs) (n : EdgeCount) (taint : Option Nat) (record : List (Byte × Bool)) :
    (s.pushed t a n taint record).tasks = (s.setTask { t with poisonAt := taint, statsRecord := record }).tasks := by
  simp only [State.pushed, State.setTask, State.bumps_tasks, State.memOps_tasks]

/-- A PUSH of an open table sends the sums of the rows that its list names in range. -/
theorem State.pushRun_of_open {s : State} {t : Task} {a : PushArgs} {x : OpenTable} {c : TableCtx} {rows : List PushRow}
    {targets : List (Nat × Nat)} {packets : List Packet} {st : TableStats} (ha : a = parsePush t.args) (hc : a.count ≠ 0)
    (hx : s.openTable? a.table = some x) (hctx : c = s.tableCtx t [] x 0 a.idx64)
    (hrows : rows = (List.range a.count).filterMap (s.pushRow c a x.width)) (htargets : targets = (rows.map (·.target)).eraseDups)
    (hpackets : packets = targets.flatMap (fun g => a.packets c g ((List.range x.width).map (fun j => ExactCell.sum
      ((rows.filter (fun r => decide (r.target = g))).map (fun r => r.cells.getD j ExactCell.zero))))))
    (hst : st = { indices := a.count, indexRange := a.count - rows.length, contributions := packets.length,
                  distinctRows := targets.length }) :
    s.pushRun t = (s.pushed t a { edges := a.count, indexRange := a.count - rows.length, contrib := rows.length * x.width }
      (firstTaint (rows.map (·.taint)))
      (st.bytes.map (fun b => (b, s.mem.poisoned (s.key a.idx) (a.count * indexBytes a.idx64))))).queueRequests t.id
        (ioOfDie (t.runTile / 8)) packets := by
  subst hst hpackets htargets hrows hctx ha
  simp only [State.pushRun, hc, hx, if_false, State.pushed]

/-! ### The ordinary forms -/

/-- Settles O60: accepted tail and head writes, the record of an entry, a task that owes nothing, a gather whose rows have come, and
a PUSH of an open table. -/
theorem ordinaryForms : Obligations.OrdinaryForms := by
  refine ⟨fun s ring size value hs hring hsize hacc => ⟨fun hawake hen hcht hjob hv => ?_, fun hv => ?_⟩,
    fun s ring w rest hring hw hroom hnone hquiet => ?_, fun s t ht hd hp howed => ?_,
    fun s t remote a x c w src rows y n h ha hp hc hx hw hctx hsrc hrows hok hmissing hn => ?_,
    fun s t a x c rows targets packets st h hreq hwait ha hc hx hctx hrows htargets hpackets hst => ?_⟩
  · refine ⟨_, ?_, s.setRing_changes (r := { s.ring ring with tail := value % 2 ^ 32 }) (s.ring_id ring)⟩
    refine (perform_of_wf (c := .doorbellTail ring 0 size value) (decide_eq_true hring) _).trans (congrArg _ ?_)
    rw [State.hostWrite_of_hostServes hs, State.doorbellWrite_of_awake hawake hsize, State.doorbell_of_accepted hacc hen hcht hjob hv]
  · refine ⟨_, ?_, s.setRing_changes (r := { s.ring ring with cqHead := value % 2 ^ 32 }) (s.ring_id ring)⟩
    refine (perform_of_wf (c := .cqHead ring size value) (decide_eq_true hring) _).trans (congrArg _ ?_)
    rw [State.hostWrite_of_hostServes hs, State.cqHeadWrite_of_accepted hsize hacc hv]
  · exact ⟨_, perform_of_wf (c := .completionRecordWrite ring) (decide_eq_true hring) _,
      State.recordWrite_of_entry hw hroom hnone hquiet⟩
  · have hplaced : s.placeSignals t.job t.owed = (s, []) := by rw [howed]; rfl
    refine (perform_of_wf (c := .successorSignalPlace t.id) (TaskId.wf_of_lt hd) _).trans (congrArg _ ?_)
    exact (State.signalPlace_of_signalling ht hp hplaced).trans (if_pos rfl)
  · have hgather : s.lookupRun remote (s.repliesFor t.id) t = s.lookupGather t c w a := by
      rw [hctx, hw]
      exact State.lookupRun_of_gather ha hp hc hx
    have hpayload : s.fetchRows c (rowPayload c.table.format c.table.width) src {} = (rows, y) := by
      have htable : c.table = x := congrArg TableCtx.table hctx
      rw [htable, hrows]
    rw [exec_lookup h, hgather, State.lookupGather_of_fetched hsrc hpayload hok hn, hmissing,
      State.applyFetched_of_complete _ _ _ rfl]
  · rw [exec_push_of_unsent h hreq hwait, State.pushRun_of_open ha hc hx hctx hrows htargets hpackets hst]
    exact ⟨_, rfl, (s.pushed_keeps ..).1, s.pushed_tasks ..⟩

end

end Sys2Proof.Machine
end

section
namespace Sys2Proof.Machine

open Sys2Proof

section

-- As in the model's Laws: one declaration after another keeps the joined text within the check's memory.
set_option Elab.async false

/-! ### Memory in its canonical form -/

/-- Settles O5: the cycle that passes on an empty queue and every command keep the form. -/
theorem memoryStaysCanonical : Obligations.MemoryStaysCanonical := by
  intro s t hwf hstep
  unfold step at hstep
  split at hstep
  · rw [← Host.Outcome.next.inj hstep]
    obtain ⟨-, hform, -⟩ := s.passCycle_keeps
    exact hform hwf
  · obtain ⟨-, hform, -⟩ := exec_keeps hstep
    exact hform hwf

/-! ### Bank caps (R90) -/

theorem exec_bankCapEval {die : Nat} (hdie : die < 8) (waited ranOut : Bool) (s : State) :
    exec (.bankCapEval die waited ranOut) s = .next (s.bankCapEval die waited ranOut).regrant :=
  perform_of_wf (c := .bankCapEval die waited ranOut) (decide_eq_true hdie) _

/-- With adapt at 0 the cap exponent is limit. -/
theorem State.bankCapEval_of_fixed {s : State} (h : s.reg Reg.MEM_BANK_CAP_adapt = 0) (die : Nat) (waited ranOut : Bool) :
    s.bankCapEval die waited ranOut = s.setReg (Reg.MEM_DIE_cap_exp die) (s.reg Reg.MEM_BANK_CAP_limit) := if_pos h

/-- A wait at a full bank ends the quiet windows, and raises an exponent that is below limit. -/
theorem State.bankCapEval_of_waited {s : State} (h : s.reg Reg.MEM_BANK_CAP_adapt ≠ 0) (die : Nat) (ranOut : Bool) :
    s.bankCapEval die true ranOut =
      if s.reg (Reg.MEM_DIE_cap_exp die) < s.reg Reg.MEM_BANK_CAP_limit then
        ({ s with bankQuiet := s.bankQuiet.set die 0 }.setReg (Reg.MEM_DIE_cap_exp die)
          (s.reg (Reg.MEM_DIE_cap_exp die) + 1)).post Reg.MEM_EVENT_hot_bank die
      else { s with bankQuiet := s.bankQuiet.set die 0 } := if_neg h

/-- A window in which the pool ran out is not quiet. -/
theorem State.bankCapEval_of_ranOut {s : State} (h : s.reg Reg.MEM_BANK_CAP_adapt ≠ 0) (die : Nat) :
    s.bankCapEval die false true = { s with bankQuiet := s.bankQuiet.set die 0 } := if_neg h

/-- The tenth quiet window lowers the exponent; each before it is counted. -/
theorem State.bankCapEval_of_quiet {s : State} (h : s.reg Reg.MEM_BANK_CAP_adapt ≠ 0) (die : Nat) :
    s.bankCapEval die false false =
      if s.bankQuiet.getD die 0 + 1 = 10 then
        { s with bankQuiet := s.bankQuiet.set die 0 }.setReg (Reg.MEM_DIE_cap_exp die)
          (Nat.max 3 (s.reg (Reg.MEM_DIE_cap_exp die) - 1))
      else { s with bankQuiet := s.bankQuiet.set die (s.bankQuiet.getD die 0 + 1) } := if_neg h

/-! ### Codewords and the patrol scrub (R82, R84, R101) -/

/-- A list without duplicates is what is left of it without duplicates. -/
theorem eraseDups_of_nodup {α : Type} [BEq α] [LawfulBEq α] {l : List α} (h : l.Nodup) : l.eraseDups = l := by
  induction l with
  | nil => rfl
  | cons a r ih =>
    obtain ⟨hnotin, hrest⟩ := List.nodup_cons.1 h
    have hfilter : r.filter (fun b => !b == a) = r := List.filter_eq_self.2 fun b hb => by
      simpa using fun e : b = a => hnotin (e ▸ hb)
    rw [List.eraseDups_cons, hfilter, ih hrest]

/-- A codeword without symbol errors changes nothing. -/
theorem State.codeword_of_clean (s : State) (offset : Nat) : s.codeword offset [] false = s := rfl

/-- A codeword that is found uncorrectable is handled as such, whatever its lanes. -/
theorem State.codeword_of_uncorrectable (s : State) (offset : Nat) (lanes : List Nat) :
    s.codeword offset lanes true = s.codewordUncorrectable offset (hbmMap offset) :=
  (if_neg fun h => Bool.noConfusion h.2).trans (if_pos rfl)

/-- Errors on unmarked lanes within the outer code's reach are corrected, each in its lane's record, and counted once. -/
theorem State.codeword_of_corrected {s : State} {offset : Nat} {lanes : List Nat} (hne : lanes ≠ []) (hnodup : lanes.Nodup)
    (hunmarked : ∀ l ∈ lanes, (s.lane (hbmMap offset).stack (hbmMap offset).pseudo l).marked = false)
    (hreach : lanes.length ≤ if s.lanes.any (fun x => x.marked && decide (x.stack = (hbmMap offset).stack) &&
      decide (x.pseudo = (hbmMap offset).pseudo)) then 3 else 4) :
    s.codeword offset lanes false =
      ((lanes.foldl (fun a l => a.laneCorrected (hbmMap offset) l) s).bump Reg.MEM_CNT_CE 1).corrected (hbmMap offset).die 0xFF
        (hbmMap offset).stack (s.addrOfKey (offset / 64 * 64)) := by
  have hfresh : lanes.filter (fun l => !(s.lane (hbmMap offset).stack (hbmMap offset).pseudo l).marked) = lanes :=
    List.filter_eq_self.2 fun l hl => by rw [hunmarked l hl]; rfl
  have hsome : lanes.isEmpty = false := by simpa using hne
  unfold State.codeword
  dsimp only
  rw [eraseDups_of_nodup hnodup, hfresh, hsome, if_neg fun h => Bool.noConfusion h.1, if_neg Bool.false_ne_true, if_pos hreach,
    if_neg Bool.false_ne_true]

theorem exec_scrubCodeword {offset : Nat} {lanes : List Nat} (hoffset : offset < hbmEnd) (hlanes : ∀ l ∈ lanes, l < 72)
    (uncorrectable : Bool) (s : State) :
    exec (.scrubCodeword offset lanes uncorrectable) s = .next (s.scrub offset lanes uncorrectable) := by
  have hwf : (CodewordError.mk offset lanes uncorrectable).wf = true := by
    simp only [CodewordError.wf, Bool.and_eq_true, decide_eq_true_eq, List.all_eq_true]
    exact ⟨hoffset, hlanes⟩
  exact perform_of_wf (c := .scrubCodeword offset lanes uncorrectable) hwf _

/-- The next codeword of its stack is read in the awake state with scrub on. -/
theorem State.scrub_of_next {s : State} {offset : Nat} (hon : s.reg Reg.MEM_SCRUB_CFG_enable ≠ 0) (hawake : s.power.anchor = .awake)
    (hnext : s.scrubbed.getD (hbmMap offset).stack 0 = scrubRank offset) (lanes : List Nat) (uncorrectable : Bool) :
    s.scrub offset lanes uncorrectable = (s.codeword offset lanes uncorrectable).scrubbedOne (hbmMap offset).stack :=
  if_neg (by simp only [hon, hawake, hnext, ne_eq, not_true_eq_false, or_self, not_false_eq_true])

/-- One more codeword of a stack. -/
theorem addAt_eq_set {l : List Nat} {i : Nat} (h : i < l.length) : State.scrubbedOne.addAt l i = l.set i (l.getD i 0 + 1) := by
  simp [State.scrubbedOne.addAt, setAt, List.modify_eq_set, h]

/-- The pass goes on until every stack has read all its codewords, and then ends. -/
theorem State.scrubbedOne_eq {s : State} {stack : Nat} {l : List Nat} (h : stack < s.scrubbed.length)
    (hl : l = s.scrubbed.set stack (s.scrubbed.getD stack 0 + 1)) :
    s.scrubbedOne stack =
      if l.all (fun n => decide (stackWords ≤ n)) then
        (({ s with scrubbed := List.replicate 16 0 } : State).bump Reg.MEM_SCRUB_STATUS_passes 1).post Reg.MEM_EVENT_scrub_pass
      else { s with scrubbed := l } := by
  rw [hl, ← addAt_eq_set h]
  rfl

/-- A stack has 805,306,368 codewords. -/
theorem all_stackWords_iff (l : List Nat) : l.all (fun n => decide (stackWords ≤ n)) = true ↔ ∀ n ∈ l, 805306368 ≤ n :=
  List.all_eq_true.trans (forall₂_congr fun _ _ => decide_eq_true_iff)

/-- Settles O25: the cap by adapt and the window's outcome, a codeword by its errors, and the pass by what is left to read. -/
theorem bankCapAndScrub : Obligations.BankCapAndScrub := by
  refine fun s => ⟨fun die w o hdie => ⟨fun ha => ?_, fun ha hw hlt => ?_, fun ha hw hle => ?_, fun ha hw ho hq => ?_,
      fun ha hw ho => ?_, fun ha hw ho hq => ?_⟩,
    fun offset p lanes hoffset hp hlanes => ⟨fun u hidle => ?_, fun hon hawake hnext => ?_⟩,
    fun stack l hl hstack => ⟨fun hleft => ?_, fun hall => ?_⟩⟩
  · rw [exec_bankCapEval hdie, State.bankCapEval_of_fixed ha]
  · rw [exec_bankCapEval hdie, hw, State.bankCapEval_of_waited ha, if_pos hlt]
  · rw [exec_bankCapEval hdie, hw, State.bankCapEval_of_waited ha, if_neg (Nat.not_lt.2 hle)]
  · rw [exec_bankCapEval hdie, hw, ho, State.bankCapEval_of_quiet ha, if_pos (by rw [hq])]
  · rw [exec_bankCapEval hdie, hw, ho, State.bankCapEval_of_ranOut ha]
  · rw [exec_bankCapEval hdie, hw, ho, State.bankCapEval_of_quiet ha, if_neg (by omega)]
  · subst hp
    rw [exec_scrubCodeword hoffset hlanes]
    exact congrArg _ (if_pos hidle)
  · subst hp
    have hread : ∀ {lanes : List Nat} (u : Bool), (∀ l ∈ lanes, l < 72) →
        exec (.scrubCodeword offset lanes u) s = .next ((s.codeword offset lanes u).scrubbedOne (hbmMap offset).stack) :=
      fun u h => by rw [exec_scrubCodeword hoffset h, State.scrub_of_next hon hawake hnext]
    refine ⟨?_, fun hpoisoned => ?_, fun hsound => ?_, fun hne hnodup hunmarked hreach => ?_⟩
    · rw [hread false (by simp), s.codeword_of_clean]
    · rw [hread true hlanes, s.codeword_of_uncorrectable, State.codewordUncorrectable, if_pos hpoisoned]
    · rw [hread true hlanes, s.codeword_of_uncorrectable, State.codewordUncorrectable, if_neg (by simp [hsound])]
    · rw [hread false hlanes, State.codeword_of_corrected hne hnodup hunmarked hreach]
  · obtain ⟨n, hn, hlt⟩ := hleft
    rw [State.scrubbedOne_eq hstack hl, if_neg fun h => Nat.not_le.2 hlt ((all_stackWords_iff l).1 h n hn)]
  · rw [State.scrubbedOne_eq hstack hl, if_pos ((all_stackWords_iff l).2 hall)]

end

end Sys2Proof.Machine
end

section
namespace Sys2Proof.Machine

open Sys2Proof

section

-- As in the model's Laws: one declaration after another keeps the joined text within the check's memory.
set_option Elab.async false

/-! ### STREAM_OPEN (R94, R95, R97) -/

/-- The class of the engine that runs a task. -/
theorem engineRuns.engine_eq {s : State} {t : Task} {engine op : Nat} (h : engineRuns s t engine op) : t.desc.engine = engine := by
  obtain ⟨-, -, -, hengine, -⟩ := h
  exact hengine

/-- A DMA task that finishes with nothing done changes registers and itself. -/
theorem State.applyResult_nothing_keeps (s : State) {t : Task} (h : t.desc.engine = engDMA) :
    Keeps [.regs, .tasks] s (s.applyResult t {}) := by
  have hstored : s.resultStored t {} = s := by
    rw [State.resultStored, State.effective_of_undisturbed (s.dma_unguarded h).1]
    exact congrArg (fun w => { s with writes := w }) (List.append_nil _)
  have hcounted : Keeps [.regs, .tasks] s (s.resultCounted t {}) := by
    refine Keeps.foldl (fun _ _ => (State.raiseReg_keeps ..).mono rfl) ?_
    rw [hstored]
    exact Keeps.after (State.bump_keeps ..) (Keeps.mono (State.bumps_keeps ..) rfl)
  have htraffic : (s.resultCounted t {}).traffic t {} = s.resultCounted t {} := (if_pos h).trans (if_pos rfl)
  have hcycles : (s.resultCounted t {}).countCycles t (s.effective t {}) = s.resultCounted t {} := by
    rw [State.countCycles, (State.dma_unguarded _ h).2.2]
  rw [State.applyResult_eq, State.resultPosted_of_quiet rfl rfl, htraffic, hcycles]
  exact Keeps.after (State.setTask_keeps ..) hcounted

theorem exec_streamOpen {s : State} {t : Task} {a : DmaArgs} {d : StreamDesc} {st : Nat} (h : engineRuns s t engDMA 2)
    (ha : a = parseDma t.args) (hd : d = parseStream (s.readAddr a.src 64))
    (hst : st = s.streamCheck t.job (t.runTile / 8) a.stream d) :
    exec (.streamOpen t.id) s = .next
      (if st = stOK then (s.openStream t a.stream d).applyResult t {} else s.applyResult t { status := st }) := by
  subst hst hd ha
  refine (perform_of_wf (c := .streamOpen t.id) h.wf _).trans (congrArg _ ?_)
  simp only [State.streamOpen, State.runningTask?_of_runs h]

theorem StreamDesc.empty_iff (d : StreamDesc) : d.empty = true ↔ d.blockBytes = 0 ∨ d.blockCount = 0 := by
  simp [StreamDesc.empty]

/-- An empty stream leaves its slot closed. -/
theorem State.openStream_of_empty (s : State) (t : Task) (slot : Nat) {d : StreamDesc} (h : d.blockBytes = 0 ∨ d.blockCount = 0) :
    s.openStream t slot d = s := if_pos ((StreamDesc.empty_iff d).2 h)

/-- Any other stream is open with nothing consumed and its first lookahead issued. -/
theorem State.openStream_of_blocks (s : State) (t : Task) (slot : Nat) {d : StreamDesc} (hbytes : d.blockBytes ≠ 0)
    (hcount : d.blockCount ≠ 0) :
    ∃ x : Stream, (s.openStream t slot d).streams = s.streams ++ [x] ∧ x.die = t.runTile / 8 ∧ x.slot = slot ∧ x.job = t.job ∧
      x.src = d.src ∧ x.dst = d.dst ∧ x.depth = (if d.adapt then d.depthMin else d.depthMax) ∧ x.consumed = 0 ∧
      x.issued = Nat.min d.blockCount x.depth := by
  have hsome : ¬ d.empty = true := fun h => ((StreamDesc.empty_iff d).1 h).elim hbytes hcount
  have hlookahead : ∀ n : Nat, Nat.max 0 (Nat.min d.blockCount (Nat.max 0 (0 + n))) = Nat.min d.blockCount n := fun n => by
    simp only [Nat.zero_add, Nat.max_eq_max, Nat.zero_max]
  rw [State.openStream, if_neg hsome]
  exact ⟨_, congrArg (· ++ _) ((State.issueStream_keeps ..).1 .streams rfl), rfl, rfl, rfl, rfl, rfl, rfl, rfl, hlookahead _⟩

/-! ### STREAM_CLOSE (R98) -/

theorem exec_streamClose {s : State} {t : Task} (h : engineRuns s t engDMA 3) :
    exec (.streamClose t.id) s = .next ((s.closeStreams (fun x => decide (x.die = t.runTile / 8) &&
      decide (x.slot = (parseDma t.args).stream))).applyResult t {}) := by
  refine (perform_of_wf (c := .streamClose t.id) h.wf _).trans (congrArg _ ?_)
  simp only [State.streamClose, State.runningTask?_of_runs h]

/-- Granting tags counts in one register. -/
theorem State.reg_regrant_other (s : State) {g : Field} (h : g.key ≠ Reg.MEM_CNT_HOT_BANK.key) : s.regrant.reg g = s.reg g := by
  unfold State.regrant
  dsimp only
  split
  · rfl
  · rw [State.reg_bump, if_neg h]
    rfl

/-- The streams that a test selects are gone, and the others stay. -/
theorem State.closeStreams_streams (s : State) (sel : Stream → Bool) :
    (s.closeStreams sel).streams = s.streams.filter (fun x => !sel x) := by
  unfold State.closeStreams
  dsimp only
  split
  · rename_i hnone
    refine (List.filter_eq_self.2 fun x hx => ?_).symm
    simpa using List.filter_eq_nil_iff.1 (List.isEmpty_iff.1 hnone) x hx
  · exact (State.releaseRequests_keeps ..).1 .streams rfl

/-- The blocks that were fetched for them and not consumed are counted. -/
theorem State.closeStreams_dropped (s : State) (sel : Stream → Bool) :
    (s.closeStreams sel).reg Reg.MEM_CNT_PREFETCH_DROPPED =
      if s.streams.filter sel = [] then s.reg Reg.MEM_CNT_PREFETCH_DROPPED
      else (s.reg Reg.MEM_CNT_PREFETCH_DROPPED + sumNat ((s.streams.filter sel).map Stream.dropped)) % 2 ^ 64 := by
  unfold State.closeStreams
  simp only [List.isEmpty_iff]
  split
  · rfl
  · rw [State.reg_bump, if_pos rfl, State.releaseRequests, State.reg_regrant_other _ (by decide)]
    rfl

/-! ### A block arrives (R96, R98) -/

theorem exec_streamBlockArrival {die slot : Nat} (hdie : die < 8) (hslot : slot < 256) (block : Nat) (remote : List RemoteReply)
    (s : State) :
    exec (.streamBlockArrival die slot block remote) s = .next (s.streamArrival die slot block remote) :=
  perform_of_wf (c := .streamBlockArrival die slot block remote)
    (Bool.and_eq_true_iff.2 ⟨decide_eq_true hdie, decide_eq_true hslot⟩) _

/-- An issued block that has its effect lands. -/
theorem State.streamArrival_of_effect {s : State} {x : Stream} {die slot block : Nat} {f : Flying} {remote : List RemoteReply}
    {ops : List MemOp} {st : BlockState} (hx : s.stream? die slot = some x)
    (hf : x.flying.find? (fun f => decide (f.block = block)) = some f) (heffect : s.blockEffect x f remote = some (ops, st)) :
    s.streamArrival die slot block remote = s.landBlock x f ops st := by
  simp only [State.streamArrival, hx, hf, heffect]

/-- Until then nothing arrives. -/
theorem State.streamArrival_of_no_effect {s : State} {x : Stream} {die slot block : Nat} {f : Flying} {remote : List RemoteReply}
    (hx : s.stream? die slot = some x) (hf : x.flying.find? (fun f => decide (f.block = block)) = some f)
    (heffect : s.blockEffect x f remote = none) : s.streamArrival die slot block remote = s := by
  simp only [State.streamArrival, hx, hf, heffect]

/-- The state with a block's bytes in its staging slot and the block among those that have arrived. -/
def State.landed (s : State) (x : Stream) (f : Flying) (ops : List MemOp) (st : BlockState) : State :=
  (({ s with free := s.free + 1 } : State).memOps ops).setStream
    { x with flying := x.flying.filter (fun g => !decide (g.block = f.block)), arrivals := x.arrivals ++ [(f.block, st)] }

/-- A block that lands besides takes its requests and gets with it, and is counted. -/
theorem State.landBlock_keeps_landed (s : State) (x : Stream) (f : Flying) (ops : List MemOp) (st : BlockState) :
    Keeps [.regs, .memQueue, .fabric, .pcie] (s.landed x f ops st) (s.landBlock x f ops st) := by
  have hforgotten : ∀ u sel id, Keeps [.regs, .memQueue, .fabric, .pcie] u ((State.releaseRequests u sel).dropRequests id) :=
    fun _ _ _ => Keeps.after (State.dropRequests_keeps ..) ((State.releaseRequests_keeps ..).mono rfl)
  cases st with
  | arrived => exact hforgotten ..
  | zeroFilled => exact Keeps.after (State.bump_keeps ..) (hforgotten ..)
  | failed e => exact Keeps.ite (fun _ => Keeps.after (State.bump_keeps ..) (hforgotten ..)) fun _ => hforgotten ..

/-- A block outside the bound is zero in its staging slot. -/
theorem State.blockEffect_of_outside (s : State) (x : Stream) {f : Flying} (remote : List RemoteReply) (h : f.addr = none) :
    s.blockEffect x f remote = some (.write (s.stagingKey x f.block) (List.replicate x.blockBytes 0) ::
      (if f.marked then [.poison (s.stagingKey x f.block) x.blockBytes] else []), .zeroFilled) := by
  simp only [State.blockEffect, h]

/-- A block of this module arrives once its requests have their tags, undefined where its source has been written. -/
theorem State.blockEffect_of_local {s : State} {x : Stream} {f : Flying} {b : Nat} (remote : List RemoteReply)
    (h : f.addr = some b) (hlocal : s.isLocal x.src = true) :
    s.blockEffect x f remote =
      if !s.blockGranted (x.die, x.slot) f.block then none
      else if s.spoiled x then some ([.undefinedBytes (s.stagingKey x f.block) x.blockBytes s.free], .arrived)
      else some ([.move (s.key b) (s.stagingKey x f.block) x.blockBytes] ++
        (if f.marked then [.poison (s.stagingKey x f.block) x.blockBytes] else []), .arrived) := by
  simp only [State.blockEffect, h]
  exact if_pos hlocal

/-- A block of another module waits for the answers to its gets. -/
theorem State.blockEffect_of_unanswered {s : State} {x : Stream} {f : Flying} {b : Nat} {remote : List RemoteReply}
    (h : f.addr = some b) (hremote : s.isLocal x.src = false)
    (hnone : remoteAnswer (s.blockReplies x f.block remote) b x.blockBytes = none) : s.blockEffect x f remote = none := by
  simp only [State.blockEffect, h, hremote, hnone, Bool.false_eq_true, if_false]

/-- Their bytes arrive, or zeros where a get has failed. -/
theorem State.blockEffect_of_answered {s : State} {x : Stream} {f : Flying} {b e : Nat} {m : Marked} {remote : List RemoteReply}
    (h : f.addr = some b) (hremote : s.isLocal x.src = false)
    (hsome : remoteAnswer (s.blockReplies x f.block remote) b x.blockBytes = some (e, m)) :
    s.blockEffect x f remote =
      if e = stOK then some (markedWrite (s.stagingKey x f.block) m ++
        (if f.marked then [.poison (s.stagingKey x f.block) x.blockBytes] else []), .arrived)
      else some ([.write (s.stagingKey x f.block) (List.replicate x.blockBytes 0)], .failed e) := by
  simp only [State.blockEffect, h, hremote, hsome, Bool.false_eq_true, if_false]

/-! ### A block is consumed (R97) -/

theorem exec_streamBlockConsume {s : State} {x : Stream} {die slot : Nat} (hdie : die < 8) (hslot : slot < 256)
    (hx : s.stream? die slot = some x) (busy : Bool) :
    exec (.streamBlockConsume die slot busy) s = .next
      (if x.arrivals.any (fun p => decide (p.1 = x.consumed)) then s.consumeBlock x busy else s.askBlock x) := by
  refine (perform_of_wf (c := .streamBlockConsume die slot busy)
    (Bool.and_eq_true_iff.2 ⟨decide_eq_true hdie, decide_eq_true hslot⟩) _).trans (congrArg _ ?_)
  simp only [State.streamConsume, hx]

/-- The first time that a consumer asks too early the block is late and is issued; after that it waits. -/
theorem State.askBlock_of_first {s : State} {x : Stream} (h : x.asked = false) :
    s.askBlock x = ((s.bump Reg.MEM_PF_LATE 1).issueStream { x with asked := true } (x.consumed + 1)).1.setStream
      ((s.bump Reg.MEM_PF_LATE 1).issueStream { x with asked := true } (x.consumed + 1)).2 :=
  if_neg (by simp [h])

theorem State.askBlock_of_asked {s : State} {x : Stream} (h : x.asked = true) : s.askBlock x = s := if_pos h

/-- Settles O24: a descriptor by its check, a close by what it selects, a block by where its source is and what has come of it,
and a consumer by whether its block is there. -/
theorem streams : Obligations.Streams := by
  refine ⟨fun s t a d ha hd => ⟨fun hrun st hst => ⟨fun hok hbytes hcount => ?_, fun hok hempty => ?_, fun hbad => ?_⟩,
      fun hrun sel hsel => ?_⟩,
    fun s x die slot hdie hslot hx => ⟨fun block remote f hf => ⟨fun ops st zeros marks hzeros hmarks hcase => ?_, fun b hb hwait => ?_⟩,
      fun busy => ⟨fun hhere => ?_, fun hnot hfirst => ?_, fun hnot hasked => ?_⟩⟩⟩
  · obtain ⟨x, hstreams, hdie, hslot, hjob, hsrc, hdst, hdepth, hconsumed, hissued⟩ := s.openStream_of_blocks t a.stream hbytes hcount
    have hfinish := (s.openStream t a.stream d).applyResult_nothing_keeps hrun.engine_eq
    have hkept : Keeps [.regs, .streams, .memQueue, .fabric, .tasks, .outputs] s ((s.openStream t a.stream d).applyResult t {}) :=
      hfinish.after ((s.openStream_keeps t a.stream d).mono rfl)
    refine ⟨_, x, ?_, (hfinish.1 .streams rfl).trans hstreams, hdie, hslot, hjob, hsrc, hdst, hdepth, hconsumed, hissued,
      hkept.mem_eq, hkept.1⟩
    rw [exec_streamOpen hrun ha hd hst, if_pos hok]
  · rw [exec_streamOpen hrun ha hd hst, if_pos hok, s.openStream_of_empty t _ hempty]
  · rw [exec_streamOpen hrun ha hd hst, if_neg hbad]
  · subst ha hsel
    exact ⟨_, exec_streamClose hrun, (s.closeStreams_keeps _).1, s.closeStreams_streams _, s.closeStreams_dropped _⟩
  · have hblock : f.block = block := by simpa using List.find?_some hf
    subst hzeros hmarks hblock
    have heffect : s.blockEffect x f remote = some (ops, st) := by
      rcases hcase with ⟨hnone, rfl, rfl⟩ | ⟨b, hb, hlocal, hgranted, hclean, rfl, rfl⟩ |
        ⟨b, hb, hlocal, hgranted, hspoiled, rfl, rfl⟩ | ⟨b, e, m, hb, hremote, hanswer, hend⟩
      · exact s.blockEffect_of_outside x remote hnone
      · rw [State.blockEffect_of_local remote hb hlocal, hgranted, hclean]
        rfl
      · rw [State.blockEffect_of_local remote hb hlocal, hgranted, hspoiled]
        rfl
      · rw [State.blockEffect_of_answered hb hremote hanswer]
        rcases hend with ⟨hok, rfl, rfl⟩ | ⟨hfailed, rfl, rfl⟩
        · exact if_pos hok
        · exact if_neg hfailed
    have hrest := s.landBlock_keeps_landed x f ops st
    refine ⟨_, ?_, hrest.mem_eq, hrest.1 .streams rfl, (s.landBlock_keeps x f ops st).1⟩
    rw [exec_streamBlockArrival hdie hslot, State.streamArrival_of_effect hx hf heffect]
  · have hblock : f.block = block := by simpa using List.find?_some hf
    subst hblock
    have heffect : s.blockEffect x f remote = none := by
      rcases hwait with ⟨hlocal, hungranted⟩ | ⟨hremote, hnone⟩
      · rw [State.blockEffect_of_local remote hb hlocal, hungranted]
        rfl
      · exact State.blockEffect_of_unanswered hb hremote hnone
    rw [exec_streamBlockArrival hdie hslot, State.streamArrival_of_no_effect hx hf heffect]
  · rw [exec_streamBlockConsume hdie hslot hx, if_pos hhere]
  · rw [exec_streamBlockConsume hdie hslot hx, if_neg (by simp [hnot]), State.askBlock_of_first hfirst]
  · rw [exec_streamBlockConsume hdie hslot hx, if_neg (by simp [hnot]), State.askBlock_of_asked hasked]

end

end Sys2Proof.Machine
end

section
namespace Sys2Proof.Machine

open Sys2Proof

section

-- As in the model's Laws: one declaration after another keeps the joined text within the check's memory.
set_option Elab.async false

/-! ### Lists of checks -/

/-- A list of checks passes only if every one of them does. -/
theorem firstFailure_eq_stOK_iff {l : List Nat} : firstFailure l = stOK ↔ ∀ x ∈ l, x = stOK := by
  induction l with
  | nil => simp [firstFailure]
  | cons x r ih =>
    rw [List.forall_mem_cons, ← ih]
    by_cases hx : x = stOK
    · simp only [firstFailure, hx, if_true, true_and]
    · simp only [firstFailure, hx, if_false, false_and]

/-- The first check of a list decides where its condition fails. -/
theorem firstFailure_failIf_cons {status : Nat} (hstatus : status ≠ stOK) (bad : Bool) (r : List Nat) :
    firstFailure (failIf bad status :: r) = if bad then status else firstFailure r := by
  cases bad with
  | true => exact if_neg hstatus
  | false => exact if_pos rfl

/-! ### TABLE_OPEN (R132) -/

/-- The table that TABLE_OPEN installs for a descriptor: its live epoch is the block's, and none is retained. -/
def TableDesc.opened (d : TableDesc) (t : Task) : OpenTable :=
  { table := d.table, job := t.job, edge := d.edge, format := d.format, width := d.width, region0 := d.region0,
    region1 := d.region1, grad := d.grad, edgeRows := d.edgeRows, live := fieldLe t.args 0x10 2, retained := none,
    replica := none, swapTask := none, refreshes := [] }

theorem exec_tableOpen {s : State} {t : Task} {d : TableDesc} (h : engineRuns s t engEDGE 0x22)
    (hd : d = parseTable (s.readAddr (fieldLe t.args 8 8) 64)) :
    exec (.tableOpen t.id) s = .next (if s.tableOpenCheck t ≠ stOK ∨ d.width = 0 then
        s.applyResult t { status := s.tableOpenCheck t }
      else ({ s with tables := s.tables ++ [d.opened t] } : State).applyResult t {}) := by
  refine (perform_of_wf (c := .tableOpen t.id) h.wf _).trans (congrArg _ ?_)
  simp only [State.tableOpen, State.runningTask?_of_runs h, hd, TableDesc.opened]

/-! ### TABLE_SWAP and SWAP_COMPLETE (R146) -/

theorem exec_tableSwap_of_not_open {s : State} {t : Task} (h : engineRuns s t engEDGE 0x23)
    (hx : s.openTable? (bits (fieldLe t.args 2 2) 11 0) = none) :
    exec (.tableSwap t.id) s = .next (s.applyResult t { status := stFORMAT }) := by
  refine (perform_of_wf (c := .tableSwap t.id) h.wf _).trans (congrArg _ ?_)
  simp only [State.tableSwap, State.runningTask?_of_runs h, hx]

/-- TABLE_SWAP of an open table: its own swap under way, its checks, a retained epoch to wait for, and the swap. -/
theorem exec_tableSwap_of_open {s : State} {t : Task} {x : OpenTable} (h : engineRuns s t engEDGE 0x23)
    (hx : s.openTable? (bits (fieldLe t.args 2 2) 11 0) = some x) :
    exec (.tableSwap t.id) s = .next (if x.swapTask = some t.id then s
      else if s.tableSwapCheck t ≠ stOK then s.applyResult t { status := s.tableSwapCheck t }
      else if x.retained.isSome then s
      else s.setTable { x with live := fieldLe t.args 4 2, retained := some x.live, swapTask := some t.id }) := by
  refine (perform_of_wf (c := .tableSwap t.id) h.wf _).trans (congrArg _ ?_)
  simp only [State.tableSwap, State.runningTask?_of_runs h, hx]

/-- TABLE_SWAP's checks of an open table, in order: another job's, then an epoch that does not follow the live one. -/
theorem State.tableSwapCheck_of_open {s : State} {t : Task} {x : OpenTable}
    (hx : s.openTable? (bits (fieldLe t.args 2 2) 11 0) = some x) :
    s.tableSwapCheck t = if x.job ≠ t.job then stACCESS
      else if fieldLe t.args 4 2 ≠ (x.live + 1) % 65536 then stEPOCH_STALE else stOK := by
  simp only [State.tableSwapCheck, hx]
  rw [firstFailure_failIf_cons (by decide), firstFailure_failIf_cons (by decide)]
  simp only [decide_eq_true_eq, firstFailure]

/-- A reader of the retained epoch keeps it. -/
theorem exec_swapComplete_of_read {s : State} {table e : Nat} {x : OpenTable} (hwf : table < 4096)
    (hx : s.openTable? table = some x) (he : x.retained = some e) (hread : ∃ u ∈ s.tasks, u.readsEpoch table e = true) :
    exec (.swapComplete table) s = .next s := by
  refine (perform_of_wf (c := .swapComplete table) (decide_eq_true hwf) _).trans (congrArg _ ?_)
  simp only [State.swapComplete, hx, he, if_pos (List.any_eq_true.2 hread)]

/-- With no reader left the retained epoch is released, and the swap's task finishes if it still runs. -/
theorem exec_swapComplete_of_unread {s u : State} {table e : Nat} {x : OpenTable} (hwf : table < 4096)
    (hx : s.openTable? table = some x) (he : x.retained = some e) (hfree : ∀ v ∈ s.tasks, v.readsEpoch table e = false)
    (hu : u = s.setTable { x with retained := none, swapTask := none }) :
    (∀ t, x.swapTask = some t.id → s.task? t.id = some t → t.phase = .running →
      exec (.swapComplete table) s = .next (u.applyResult t {})) ∧
    ((∀ i v, x.swapTask = some i → s.task? i = some v → v.phase ≠ .running) → exec (.swapComplete table) s = .next u) := by
  have hany : ¬ s.tasks.any (fun v => v.readsEpoch table e) = true := by simpa using hfree
  have htask? : u.task? = s.task? := by rw [hu]; rfl
  have hstep : exec (.swapComplete table) s = .next (s.swapComplete table) :=
    perform_of_wf (c := .swapComplete table) (decide_eq_true hwf) _
  rw [hstep]
  simp only [State.swapComplete, hx, he, if_neg hany, ← hu, htask?]
  refine ⟨fun t hswap htask hrun => ?_, fun hidle => ?_⟩
  · simp only [hswap, Option.bind_some, htask, if_pos hrun]
  · cases hbind : x.swapTask.bind s.task? with
    | none => rfl
    | some v =>
      obtain ⟨i, hswap, htask⟩ := Option.bind_eq_some_iff.1 hbind
      exact congrArg _ (if_neg (hidle i v hswap htask))

/-! ### LOOKUP, TABLE_REFRESH and PUSH (R140, R143, R145) -/

/-- A run that needs rows of other modules asks the coalescer of its die for each of them once. -/
theorem State.applyFetched_of_missing (s : State) (t : Task) (die : Nat) {r : Result} (h : r.missing ≠ []) :
    s.applyFetched t die r = (r.missing.eraseDups.foldl (fun a p => a.askRow t.id (t.rowFetch die p)) s).sendRows :=
  if_neg (mt List.isEmpty_iff.1 h)

theorem exec_tableRefresh {s : State} {t : Task} (h : engineRuns s t engEDGE 0x24) (remote : List RemoteReply) :
    exec (.tableRefresh t.id remote) s = .next (if s.refreshWaits t then s
      else s.applyFetched t (t.runTile / 8) (s.refreshRun remote (s.repliesFor t.id) t)) := by
  refine (perform_of_wf (c := .tableRefresh t.id remote) h.wf _).trans (congrArg _ ?_)
  simp only [State.refreshStep, State.runningTask?_of_runs h]

/-- A PUSH whose contributions are on their way or wait to leave does not send them again. -/
theorem exec_push_of_sent {s : State} {t : Task} (h : engineRuns s t engEDGE 0x21)
    (hsent : s.requestsOf t.id ≠ [] ∨ ∃ w ∈ s.fabric.waiting, w.1 = t.id) : exec (.push t.id) s = .next s := by
  refine (perform_of_wf (c := .push t.id) h.wf _).trans (congrArg _ ?_)
  simp only [State.pushStep, State.runningTask?_of_runs h]
  rw [if_neg]
  rintro ⟨hreq, hwait⟩
  rcases hsent with hreq' | ⟨w, hw, hid⟩
  · exact hreq' hreq
  · simpa [hid] using List.all_eq_true.1 hwait w hw

theorem State.pushRun_of_empty (s : State) {t : Task} (h : (parsePush t.args).count = 0) : s.pushRun t = s.applyResult t {} :=
  if_pos h

/-! ### Stale epochs (R134, R148) -/

theorem OpenTable.epochOpen_eq_false {x : OpenTable} {epoch : Nat} (hlive : epoch ≠ x.live) (hretained : x.retained ≠ some epoch) :
    x.epochOpen epoch = false := by
  simp [OpenTable.epochOpen, hlive.symm, hretained]

/-- A lookup that has indices fails its checks when its epoch cannot be read, whatever the checks before that find. -/
theorem State.lookupCheck_of_stale {s : State} {t : Task} {x : OpenTable} (hsome : (parseLookup t.args).empty = false)
    (hx : s.openTable? (parseLookup t.args).table = some x) (hstale : x.epochOpen (parseLookup t.args).epoch = false) :
    s.lookupCheck t ≠ stOK := by
  simp only [State.lookupCheck, hsome, hx, hstale]
  split
  · decide
  · intro hok
    have hepoch : failIf (!false) stEPOCH_STALE = stOK := firstFailure_eq_stOK_iff.1 hok _ (by simp)
    exact absurd hepoch (by decide)

/-- A speculative lookup that runs on stale resolves every index to a zero row, which it fetches from nowhere. -/
theorem State.fetchRow_of_stale {s : State} {c : TableCtx} (h : c.stale = true) (i n : Nat) (y : Access) :
    s.fetchRow c n (s.resolve c i) y = (FetchedRow.zero n, y) := by
  have hzero : s.resolve c i = .stale := if_pos h
  rw [hzero]
  rfl

/-- Settles O27: each operation by what its checks find and by what it waits for, and the two sides of a stale epoch. -/
theorem tables : Obligations.Tables := by
  refine ⟨fun s t => ⟨fun h d hd => ?_, fun h => ⟨exec_tableSwap_of_not_open h, fun x hx => ?_⟩,
      fun table e x hwf hx he => ⟨fun hfree => ?_, fun hfree => ?_, exec_swapComplete_of_read hwf hx he⟩,
      fun h remote r hr => ?_, fun h remote r hr => ?_, fun h => ⟨fun hreq hwait => ?_, exec_push_of_sent h⟩⟩,
    fun s t x a ha hsome hx hlive hretained => ?_, fun s t x remote epoch i n idx64 y hstage c hc => ?_⟩
  · rw [exec_tableOpen h hd]
    exact ⟨fun hok hwidth => by rw [if_neg (not_or.2 ⟨not_not.2 hok, hwidth⟩), TableDesc.opened],
      fun hok hwidth => by rw [if_pos (.inr hwidth), hok]; rfl, fun hfail => by rw [if_pos (.inl hfail)]⟩
  · rw [exec_tableSwap_of_open h hx, State.tableSwapCheck_of_open hx]
    refine ⟨fun hmine => by rw [if_pos hmine], fun hmine hjob => ?_, fun hmine hjob hepoch => ?_,
      fun hmine hjob hepoch hnone => ?_, fun hmine hjob hepoch hsome => ?_⟩
    · rw [if_neg hmine, if_pos hjob, if_pos (by decide)]
    · rw [if_neg hmine, if_neg (not_not.2 hjob), if_pos hepoch, if_pos (by decide)]
    · rw [if_neg hmine, if_neg (not_not.2 hjob), if_neg (not_not.2 hepoch), if_neg (not_not.2 rfl), if_neg (by simp [hnone])]
    · rw [if_neg hmine, if_neg (not_not.2 hjob), if_neg (not_not.2 hepoch), if_neg (not_not.2 rfl),
        if_pos (Option.isSome_iff_ne_none.2 hsome)]
  · obtain ⟨hfinish, -⟩ := exec_swapComplete_of_unread hwf hx he hfree rfl
    exact hfinish t
  · obtain ⟨-, hrelease⟩ := exec_swapComplete_of_unread hwf hx he hfree rfl
    exact hrelease
  · rw [exec_lookup h, ← hr]
    exact ⟨fun hall => by rw [State.applyFetched_of_complete _ _ _ hall],
      fun hlack => by rw [State.applyFetched_of_missing _ _ _ hlack]⟩
  · rw [exec_tableRefresh h, ← hr]
    refine ⟨fun hturn hall => ?_, fun hturn hlack => ?_, fun hwait => by rw [if_pos hwait]⟩
    · rw [hturn, if_neg Bool.false_ne_true, State.applyFetched_of_complete _ _ _ hall]
    · rw [hturn, if_neg Bool.false_ne_true, State.applyFetched_of_missing _ _ _ hlack]
  · rw [exec_push_of_unsent h hreq hwait]
    exact ⟨fun hnothing => by rw [s.pushRun_of_empty hnothing], fun _ => rfl⟩
  · subst ha
    exact State.lookupCheck_of_stale hsome hx (OpenTable.epochOpen_eq_false hlive hretained)
  · subst hc
    exact State.fetchRow_of_stale (decide_eq_true hstage) i n y

end

end Sys2Proof.Machine
end

section
namespace Sys2Proof.Machine

open Sys2Proof

section

-- As in the model's Laws: one declaration after another keeps the joined text within the check's memory.
set_option Elab.async false

/-! ### The arithmetic of conversions on a whole mantissa -/

theorem ratLog2_one {m : Nat} (hm : m ≠ 0) (e : Int) : ratLog2 m 1 e = Nat.log2 m + e := by
  have hle : ¬ m < 2 ^ Nat.log2 m := Nat.not_lt.2 (Nat.log2_self_le hm)
  have hone : Nat.log2 1 = 0 := rfl
  simp [ratLog2, hone, hle]

@[simp] theorem shiftRatio_zero (p q : Nat) : shiftRatio p q 0 = (p, q) := by
  simp [shiftRatio]

@[simp] theorem rneDiv_one (p : Nat) : rneDiv p 1 = p := by
  simp [rneDiv, Nat.mod_one]

/-- No magnitude is less than itself. -/
@[simp] theorem magLt_self (m : Nat) (e : Int) : magLt m e m e = false := by
  simp [magLt]

/-! ### The magnitude codes of the floating formats (R149) -/

/-- The exponent of a code's step, as a count above the smallest subnormal's: the codes of the first two binades, the subnormals
and the smallest normals, share the smallest step. -/
def codeStep (f c : Nat) : Nat := c / 2 ^ (fmtShape f).2.2 - 1

theorem codeStep_mul_le (f c : Nat) : codeStep f c * 2 ^ (fmtShape f).2.2 ≤ c :=
  (Nat.mul_le_mul_right _ (Nat.sub_le _ _)).trans (Nat.div_mul_le_self _ _)

theorem codeStep_mono {f c d : Nat} (h : c ≤ d) : codeStep f c ≤ codeStep f d :=
  Nat.sub_le_sub_right (Nat.div_le_div_right h) 1

theorem fmtMinExp_eq (f : Nat) : fmtMinExp f = 1 - ((fmtShape f).2.1 : Int) - (fmtShape f).2.2 := rfl

theorem codeMag_of_subnormal {f c : Nat} (h : c / 2 ^ (fmtShape f).2.2 = 0) : codeMag f c = (c, fmtMinExp f) := if_pos h

theorem codeMag_of_normal {f c : Nat} (h : c / 2 ^ (fmtShape f).2.2 ≠ 0) :
    codeMag f c = (2 ^ (fmtShape f).2.2 + c % 2 ^ (fmtShape f).2.2,
      ((c / 2 ^ (fmtShape f).2.2 : Nat) : Int) - (fmtShape f).2.1 - (fmtShape f).2.2) := if_neg h

/-- Subnormal and normal codes alike: the mantissa is the code less what its step index adds, in units of its step. -/
theorem codeMag_eq (f c : Nat) :
    codeMag f c = (c - codeStep f c * 2 ^ (fmtShape f).2.2, fmtMinExp f + codeStep f c) := by
  have hdiv := Nat.div_add_mod' c (2 ^ (fmtShape f).2.2)
  cases hfield : c / 2 ^ (fmtShape f).2.2 with
  | zero => simp [codeMag_of_subnormal hfield, codeStep, hfield]
  | succ k =>
    rw [hfield, Nat.succ_mul] at hdiv
    rw [codeMag_of_normal (hfield.trans_ne (Nat.succ_ne_zero k)), codeStep, hfield, Nat.add_sub_cancel, fmtMinExp_eq, Prod.mk.injEq]
    constructor <;> omega

theorem codeMag_fst_lt (f c : Nat) : (codeMag f c).1 < 2 * 2 ^ (fmtShape f).2.2 := by
  have hdiv := Nat.div_add_mod' c (2 ^ (fmtShape f).2.2)
  have hmod := Nat.mod_lt c (Nat.two_pow_pos (fmtShape f).2.2)
  have hpred := Nat.sub_one_mul (c / 2 ^ (fmtShape f).2.2) (2 ^ (fmtShape f).2.2)
  simp only [codeMag_eq, codeStep]
  omega

/-- Above the smallest step the mantissa has its leading bit. -/
theorem le_codeMag_fst {f c : Nat} (h : 0 < codeStep f c) : 2 ^ (fmtShape f).2.2 ≤ (codeMag f c).1 := by
  have hfield : c / 2 ^ (fmtShape f).2.2 ≠ 0 := fun hzero => by simp [codeStep, hzero] at h
  rw [codeMag_of_normal hfield]
  exact Nat.le_add_right _ _

theorem codeMag_fst_eq_zero_iff (f c : Nat) : (codeMag f c).1 = 0 ↔ c = 0 := by
  constructor
  · intro h
    rcases Nat.eq_zero_or_pos (codeStep f c) with hstep | hstep
    · simpa [codeMag_eq, hstep] using h
    · have := le_codeMag_fst hstep
      have := Nat.two_pow_pos (fmtShape f).2.2
      omega
  · rintro rfl
    rw [codeMag_of_subnormal (Nat.zero_div _)]

/-- A conversion takes the value of a code at the code's own step. -/
theorem stepIndex_codeMag {f c : Nat} (hc : c ≠ 0) : stepIndex f (codeMag f c).1 1 (codeMag f c).2 = codeStep f c := by
  have hm : (codeMag f c).1 ≠ 0 := (codeMag_fst_eq_zero_iff f c).not.2 hc
  have hhigh : Nat.log2 (codeMag f c).1 < (fmtShape f).2.2 + 1 :=
    (Nat.log2_lt hm).2 (by rw [Nat.pow_succ']; exact codeMag_fst_lt f c)
  have hlow : 0 < codeStep f c → (fmtShape f).2.2 ≤ Nat.log2 (codeMag f c).1 := fun h =>
    (Nat.le_log2 hm).2 (le_codeMag_fst h)
  have hexp : (codeMag f c).2 = fmtMinExp f + codeStep f c := by rw [codeMag_eq]
  rw [stepIndex, ratLog2_one hm, hexp]
  simp only [fmtMinExp_eq]
  omega

/-- The values of the codes rise with the codes. -/
theorem magLt_codeMag_of_le {f c d : Nat} (h : c ≤ d) :
    magLt (codeMag f d).1 (codeMag f d).2 (codeMag f c).1 (codeMag f c).2 = false := by
  have hstep := codeStep_mono (f := f) h
  have hexp : ∀ x, (codeMag f x).2 = fmtMinExp f + codeStep f x := fun x => by rw [codeMag_eq]
  have hshift : (codeMag f c).1 ≤ (codeMag f d).1 * 2 ^ (codeStep f d - codeStep f c) := by
    rcases hstep.eq_or_lt with heq | hlt
    · rw [heq, Nat.sub_self, pow_zero, Nat.mul_one, codeMag_eq, codeMag_eq, heq]
      exact Nat.sub_le_sub_right h _
    · calc (codeMag f c).1 ≤ 2 ^ (fmtShape f).2.2 * 2 ^ 1 := by have := codeMag_fst_lt f c; omega
        _ ≤ (codeMag f d).1 * 2 ^ (codeStep f d - codeStep f c) :=
          Nat.mul_le_mul (le_codeMag_fst (by omega)) (Nat.pow_le_pow_right (by omega) (by omega))
  have hmin : min (codeMag f d).2 (codeMag f c).2 = (codeMag f c).2 := by rw [hexp, hexp]; omega
  have hdiff : ((codeMag f d).2 - (codeMag f c).2).toNat = codeStep f d - codeStep f c := by rw [hexp, hexp]; omega
  simp only [magLt, hmin, alignTo, hdiff, Int.sub_self, Int.toNat_zero, pow_zero, Int.mul_one, decide_eq_false_iff_not, Int.not_lt]
  exact_mod_cast hshift

/-! ### The magnitude codes of all formats -/

/-- The value of a magnitude code of any format; an INT8 magnitude is its own code. -/
def codeValue (f c : Nat) : Nat × Int := if f = fmtINT8 then (c, 0) else codeMag f c

theorem codeValue_int8 (c : Nat) : codeValue fmtINT8 c = (c, 0) := if_pos rfl

theorem codeValue_of_float {f : Nat} (hf : f ≠ fmtINT8) (c : Nat) : codeValue f c = codeMag f c := if_neg hf

theorem codeValue_fst_eq_zero_iff (f c : Nat) : (codeValue f c).1 = 0 ↔ c = 0 := by
  by_cases hf : f = fmtINT8
  · rw [hf, codeValue_int8]
  · rw [codeValue_of_float hf, codeMag_fst_eq_zero_iff]

theorem fmtMax_eq (f : Nat) : fmtMax f = codeValue f (fmtMaxCode f) := by
  by_cases hf : f = fmtINT8
  · subst hf; rfl
  · rw [codeValue_of_float hf, fmtMax, if_neg hf]

/-- No code up to a format's largest has a value above the largest finite one. -/
theorem magLt_fmtMax_codeValue {f c : Nat} (h : c ≤ fmtMaxCode f) :
    magLt (fmtMax f).1 (fmtMax f).2 (codeValue f c).1 (codeValue f c).2 = false := by
  rw [fmtMax_eq]
  by_cases hf : f = fmtINT8
  · subst hf
    simpa [codeValue_int8, magLt, alignTo] using h
  · rw [codeValue_of_float hf, codeValue_of_float hf]
    exact magLt_codeMag_of_le h

theorem codeIsExact_codeValue (f c : Nat) : codeIsExact f c (codeValue f c).1 1 (codeValue f c).2 = true := by
  have hvalue : (if f = fmtINT8 then (c, (0 : Int)) else codeMag f c) = codeValue f c := rfl
  simp [codeIsExact, hvalue]

theorem nearestCode_codeValue (f c : Nat) : nearestCode f (codeValue f c).1 1 (codeValue f c).2 = c := by
  rcases Nat.eq_zero_or_pos c with rfl | hc
  · exact if_pos ((codeValue_fst_eq_zero_iff f 0).2 rfl)
  rw [nearestCode, if_neg ((codeValue_fst_eq_zero_iff f c).not.2 hc.ne')]
  by_cases hf : f = fmtINT8
  · simp [hf, codeValue_int8]
  · rw [if_neg hf, codeValue_of_float hf, stepIndex_codeMag hc.ne', codeMag_eq]
    simp only [Int.sub_self, shiftRatio_zero, rneDiv_one]
    exact Nat.add_sub_of_le (codeStep_mul_le f c)

theorem floorCode_codeValue (f c : Nat) : floorCode f (codeValue f c).1 1 (codeValue f c).2 = (c, 0) := by
  rcases Nat.eq_zero_or_pos c with rfl | hc
  · exact if_pos ((codeValue_fst_eq_zero_iff f 0).2 rfl)
  rw [floorCode, if_neg ((codeValue_fst_eq_zero_iff f c).not.2 hc.ne')]
  by_cases hf : f = fmtINT8
  · simp [hf, codeValue_int8, Nat.mod_one]
  · simp only [if_neg hf]
    rw [codeValue_of_float hf, stepIndex_codeMag hc.ne', codeMag_eq]
    simp only [Int.sub_self, shiftRatio_zero, Nat.div_one, Nat.mod_one, Nat.zero_mul, Nat.add_sub_of_le (codeStep_mul_le f c)]

/-! ### Conversions of representable values (R152, R171) -/

/-- To nearest even the value of a code stays the code. -/
theorem convertRne_codeValue {f c : Nat} (n : Bool) (h : c ≤ fmtMaxCode f) :
    (convertRne f (.fin n (codeValue f c).1 (codeValue f c).2)).1 = withSign f n c := by
  simp only [convertRne, convertRatio, nearestCode_codeValue, finishCode, if_neg (Nat.not_lt.2 h)]

/-- R171 returns a representable value before it looks at the random bits. -/
theorem convertSr_codeValue {f c : Nat} (r : Nat) (n : Bool) (h : c ≤ fmtMaxCode f) :
    (convertSr f r (.fin n (codeValue f c).1 (codeValue f c).2)).1 = withSign f n c := by
  simp [convertSr, convertSrRatio, magLt_fmtMax_codeValue h, floorCode_codeValue, codeIsExact_codeValue]

/-! ### The stored bits of a finite element (R149, R151) -/

/-- The sign bit and the magnitude bits make up the element. -/
theorem withSign_bit_mod {f b : Nat} (hf : f ≠ fmtINT8) (hb : b < 2 ^ (fmtMagBits f + 1)) :
    withSign f (bit b (fmtMagBits f)) (b % 2 ^ fmtMagBits f) = b := by
  have hdiv := Nat.div_add_mod' b (2 ^ fmtMagBits f)
  have htop : b / 2 ^ fmtMagBits f < 2 := Nat.div_lt_of_lt_mul (by rwa [← Nat.pow_succ])
  rw [withSign, if_neg hf, bit, Nat.mod_eq_of_lt htop]
  rcases Nat.lt_succ_iff_lt_or_eq.1 htop with hzero | hone
  · rw [Nat.lt_one_iff.1 hzero] at hdiv ⊢
    simpa using hdiv
  · rw [hone] at hdiv ⊢
    simpa [Nat.add_comm] using hdiv

/-- Two's complement of the reading of eight bits gives them back, by the reading's sign and magnitude. -/
theorem withSign_toSigned {b : Nat} (hb : b < 256) :
    withSign fmtINT8 (decide (toSigned 8 b < 0)) (toSigned 8 b).natAbs = b := by
  have hmod : b % 2 ^ 8 = b := Nat.mod_eq_of_lt hb
  have hsigned : signedMag (decide (toSigned 8 b < 0)) (toSigned 8 b).natAbs = toSigned 8 b := by
    simp only [signedMag, decide_eq_true_eq]
    split <;> omega
  rw [withSign, if_pos rfl, hsigned, ofSigned, toSigned, hmod]
  split <;> omega

/-- A finite element is a signed magnitude code of its format: its value is the code's and its bits are the code with the sign.
INT8's −128 has no magnitude code. -/
theorem decodeElem_of_finite {f b : Nat} (hb : b < 2 ^ (fmtMagBits f + 1)) (hint : f = fmtINT8 → b ≠ 128)
    (hfin : (decodeElem f b).isFinite = true) :
    ∃ n c, c ≤ fmtMaxCode f ∧ decodeElem f b = .fin n (codeValue f c).1 (codeValue f c).2 ∧ withSign f n c = b := by
  by_cases hf : f = fmtINT8
  · subst hf
    have hb8 : b < 256 := hb
    have hmag : (toSigned 8 b).natAbs ≤ 127 := by
      have hne := hint rfl
      unfold toSigned
      split <;> omega
    refine ⟨_, _, hmag, ?_, withSign_toSigned hb8⟩
    rw [codeValue_int8, decodeElem, if_pos rfl, Num.ofInt]
  · have hsign := withSign_bit_mod hf hb
    simp only [decodeElem, if_neg hf] at hfin ⊢
    by_cases hmax : b % 2 ^ fmtMagBits f ≤ fmtMaxCode f
    · exact ⟨_, _, hmax, by rw [if_pos hmax, codeValue_of_float hf], hsign⟩
    · rw [if_neg hmax] at hfin
      split at hfin <;> exact absurd hfin Bool.false_ne_true

/-- Settles O56: a finite element is the value of a magnitude code, which both roundings leave as it is. -/
theorem formatsRoundTrip : Obligations.FormatsRoundTrip := by
  intro f b r _ hb hint hfin _
  obtain ⟨n, c, hmax, hvalue, hsign⟩ := decodeElem_of_finite hb hint hfin
  rw [hvalue, convertRne_codeValue n hmax, convertSr_codeValue r n hmax]
  exact ⟨hsign, hsign⟩

end

end Sys2Proof.Machine
end

section
namespace Sys2Proof.Machine

open Sys2Proof

section

-- As in the model's Laws: one declaration after another keeps the joined text within the check's memory.
set_option Elab.async false

/-! ### Contributions to an accumulator, in any order and any pieces (R179, R181, R212) -/

/-- An accumulator that another's sum and flags enter; its anchor and its count stay. -/
def Acc.merge (a d : Acc) : Acc :=
  { a with v := a.v + d.v, nan := a.nan || d.nan, posInf := a.posInf || d.posInf, negInf := a.negInf || d.negInf,
           invalid := a.invalid || d.invalid }

@[simp] theorem Acc.merge_anchor (a d : Acc) : (a.merge d).anchor = a.anchor := rfl

theorem Acc.merge_right_comm (a d e : Acc) : (a.merge d).merge e = (a.merge e).merge d := by
  simp only [Acc.merge, Int.add_right_comm, Bool.or_right_comm]

/-- What a contribution brings to an accumulator of an anchor, and whether it is truncated. -/
def Contrib.brings (explicit : Bool) (anchor : Int) (c : Contrib) : Acc × Nat := (Acc.start anchor).add explicit c

/-- A finite non-zero contribution that the anchor does not turn away enters the window. -/
theorem Acc.add_eq_addRatio {explicit neg : Bool} {a : Acc} {p den : Nat} {e : Int} (hp : p ≠ 0)
    (hin : ¬ (explicit && !magLt p e den (a.anchor - 34)) = true) :
    a.add explicit ⟨.fin neg p e, den⟩ = a.addRatio neg p den e :=
  (if_neg hp).trans (if_neg hin)

theorem Acc.addRatio_eq_merge (a : Acc) (neg : Bool) (p q : Nat) (e : Int) :
    a.addRatio neg p q e =
      (a.merge ((Acc.start a.anchor).addRatio neg p q e).1, ((Acc.start a.anchor).addRatio neg p q e).2) :=
  Prod.ext (by simp [Acc.addRatio, Acc.merge, Acc.start]) rfl

/-- What a contribution brings depends on the accumulator's anchor alone, not on what the accumulator holds. -/
theorem Acc.add_eq_merge (explicit : Bool) (a : Acc) (c : Contrib) :
    a.add explicit c = (a.merge (c.brings explicit a.anchor).1, (c.brings explicit a.anchor).2) := by
  obtain ⟨value, den⟩ := c
  cases value with
  | nan => simp [Contrib.brings, Acc.add, Acc.merge, Acc.start]
  | inf neg => cases neg <;> simp [Contrib.brings, Acc.add, Acc.merge, Acc.start]
  | fin neg p e =>
    by_cases hp : p = 0
    · simp [Contrib.brings, Acc.add, Acc.merge, Acc.start, hp]
    · by_cases hbig : (explicit && !magLt p e den (a.anchor - 34)) = true
      · simp [Contrib.brings, Acc.add, Acc.merge, Acc.start, hp, hbig]
      · rw [Contrib.brings, Acc.add_eq_addRatio hp hbig, Acc.add_eq_addRatio (a := Acc.start a.anchor) hp hbig]
        exact a.addRatio_eq_merge neg p den e

/-- One step of `Acc.addAll`: a contribution, and the truncations counted so far. -/
def Acc.addCounted (explicit : Bool) (x : Acc × Nat) (c : Contrib) : Acc × Nat :=
  ((x.1.add explicit c).1, x.2 + (x.1.add explicit c).2)

theorem Acc.addAll_eq_foldl (explicit : Bool) (a : Acc) (cs : List Contrib) :
    a.addAll explicit cs = cs.foldl (Acc.addCounted explicit) (a, 0) := rfl

theorem Acc.addCounted_rightCommutative (explicit : Bool) : RightCommutative (Acc.addCounted explicit) where
  right_comm x c d := by
    simp only [Acc.addCounted, Acc.add_eq_merge, Acc.merge_anchor]
    rw [Acc.merge_right_comm, Nat.add_right_comm]

theorem Acc.addAll_perm {cs ds : List Contrib} (h : cs.Perm ds) (explicit : Bool) (a : Acc) :
    a.addAll explicit cs = a.addAll explicit ds := by
  have := Acc.addCounted_rightCommutative explicit
  rw [Acc.addAll_eq_foldl, Acc.addAll_eq_foldl, h.foldl_eq]

/-- The accumulator, without the count of truncations, is the fold of its contributions. -/
theorem Acc.addAll_fst (explicit : Bool) (a : Acc) (cs : List Contrib) :
    (a.addAll explicit cs).1 = cs.foldl (fun b c => (b.add explicit c).1) a :=
  (List.foldl_hom Prod.fst fun _ _ => rfl).symm

theorem Acc.addAll_append (explicit : Bool) (a : Acc) (cs ds : List Contrib) :
    (a.addAll explicit (cs ++ ds)).1 = ((a.addAll explicit cs).1.addAll explicit ds).1 := by
  simp only [Acc.addAll_fst, List.foldl_append]

/-- The exponent that a contribution gives a DATA anchor: none where it is zero or not finite. -/
def Contrib.exponent? (c : Contrib) : Option Int :=
  match c.value with
  | .fin _ m e => if m = 0 then none else some (ratLog2 m c.den e)
  | _ => none

/-- A DATA anchor comes from the largest exponent of its contributions. -/
theorem dataAnchor_eq_max? (cs : List Contrib) (n : Nat) :
    dataAnchor cs n = ((cs.filterMap Contrib.exponent?).max?.map (· + 2 + (ceilLog2 n : Int))).getD 0 := by
  change (match cs.filterMap Contrib.exponent? with | [] => 0 | h :: r => r.foldl max h + 2 + (ceilLog2 n : Int)) = _
  cases cs.filterMap Contrib.exponent? with
  | nil => rfl
  | cons h r => rfl

theorem max?_perm {l m : List Int} (h : l.Perm m) : l.max? = m.max? :=
  Option.ext fun a => by simp only [List.max?_eq_some_iff, h.mem_iff]

theorem windowSum_perm {cs ds : List Contrib} (h : cs.Perm ds) (n : Nat) : windowSum cs n = windowSum ds n := by
  have hanchor : dataAnchor cs n = dataAnchor ds n := by
    rw [dataAnchor_eq_max?, dataAnchor_eq_max?, max?_perm (h.filterMap _)]
  rw [windowSum, windowSum, hanchor, Acc.addAll_perm h]

/-! ### Fields, numbers and flags of a record read back (R3) -/

theorem leNat_leBytes (n v : Nat) : leNat (leBytes n v) = v % 2 ^ (8 * n) := by
  induction n generalizing v with
  | zero => exact (Nat.mod_one v).symm
  | succ n ih => rw [leBytes, leNat, ih, BitVec.toNat_ofNat, Nat.mul_succ, Nat.add_comm (8 * n), Nat.pow_add, Nat.mod_mul]

/-- A field is what was written where the value fits its bytes. -/
theorem fieldLe_leBytes {n v : Nat} (hv : v < 2 ^ (8 * n)) : fieldLe (leBytes n v) 0 n = v := by
  have hwhole : (leBytes n v).take n = leBytes n v := List.take_of_length_le (leBytes_length n v).le
  simp [fieldLe, sliceBytes, hwhole, leNat_leBytes, Nat.mod_eq_of_lt hv]

theorem fieldLe_append_left {l : List Byte} (r : List Byte) {off n : Nat} (h : off + n ≤ l.length) :
    fieldLe (l ++ r) off n = fieldLe l off n := by
  have hdrop : (l ++ r).drop off = l.drop off ++ r := List.drop_append_of_le_length (by omega)
  have htake : (l.drop off ++ r).take n = (l.drop off).take n :=
    List.take_append_of_le_length (by rw [List.length_drop]; omega)
  simp only [fieldLe, sliceBytes, hdrop, htake]

theorem fieldLe_append_right {l : List Byte} (r : List Byte) {off : Nat} (n : Nat) (h : l.length ≤ off) :
    fieldLe (l ++ r) off n = fieldLe r (off - l.length) n := by
  have hdrop : (l ++ r).drop off = r.drop (off - l.length) := by
    rw [List.drop_append, List.drop_of_length_le h, List.nil_append]
  simp only [fieldLe, sliceBytes, hdrop]

theorem ofSigned_lt (w : Nat) (x : Int) : ofSigned w x < 2 ^ w := by
  have hpos : (0 : Int) < (2 ^ w : Nat) := by exact_mod_cast Nat.two_pow_pos w
  have hlt := Int.emod_lt_of_pos x hpos
  have hnonneg := Int.emod_nonneg x hpos.ne'
  rw [ofSigned]
  omega

/-- Two's complement reads back as the integer it stands for. -/
theorem toSigned_ofSigned {w : Nat} (hw : 0 < w) {x : Int} (hlo : -(2 : Int) ^ (w - 1) ≤ x) (hhi : x < 2 ^ (w - 1)) :
    toSigned w (ofSigned w x) = x := by
  obtain ⟨w, rfl⟩ := Nat.exists_eq_add_of_lt hw
  rw [toSigned, Nat.mod_eq_of_lt (ofSigned_lt _ x), ofSigned]
  simp only [Nat.zero_add, Nat.add_sub_cancel, Nat.pow_succ] at hlo hhi ⊢
  have hcast : (2 : Int) ^ w = (2 ^ w : Nat) := by push_cast; rfl
  rw [hcast] at hlo hhi
  generalize 2 ^ w = m at hlo hhi ⊢
  rcases lt_or_ge x 0 with hneg | hpos
  · have hmod : x % ((m * 2 : Nat) : Int) = x + (m * 2 : Nat) := by
      rw [← Int.add_emod_right, Int.emod_eq_of_lt (by omega) (by omega)]
    rw [hmod, if_neg (by omega)]
    omega
  · rw [Int.emod_eq_of_lt hpos (by omega), if_pos (by omega)]
    omega

/-- The bits above a number do not change its reading. -/
theorem toSigned_add_high (w v f : Nat) : toSigned w (v + 2 ^ w * f) = toSigned w v := by
  simp only [toSigned, Nat.add_mul_mod_self_left]

theorem bit_add_high {w v : Nat} (hv : v < 2 ^ w) (f i : Nat) : bit (v + 2 ^ w * f) (w + i) = bit f i := by
  rw [bit, bit, Nat.pow_add, ← Nat.div_div_eq_div_mul, Nat.add_mul_div_left _ _ (Nat.two_pow_pos w),
    Nat.div_eq_of_lt hv, Nat.zero_add]

theorem add_high_lt {w k v f : Nat} (hv : v < 2 ^ w) (hf : f < 2 ^ k) : v + 2 ^ w * f < 2 ^ (w + k) :=
  calc v + 2 ^ w * f < 2 ^ w * (f + 1) := by rw [Nat.mul_succ]; omega
    _ ≤ 2 ^ w * 2 ^ k := Nat.mul_le_mul_left _ hf
    _ = 2 ^ (w + k) := (Nat.pow_add ..).symm

/-- The five flags of a cell as a number, the first one lowest (R299); a carry record has the first four (R182). -/
def flagBits (a b c d e : Bool) : Nat := flag a + 2 * flag b + 4 * flag c + 8 * flag d + 16 * flag e

theorem flagBits_lt (a b c d e : Bool) : flagBits a b c d e < 2 ^ 8 := by
  revert a b c d e; decide

theorem bit_flagBits (a b c d e : Bool) :
    bit (flagBits a b c d e) 0 = a ∧ bit (flagBits a b c d e) 1 = b ∧ bit (flagBits a b c d e) 2 = c ∧
      bit (flagBits a b c d e) 3 = d ∧ bit (flagBits a b c d e) 4 = e := by
  revert a b c d e; decide

/-! ### Carry records (R182) -/

/-- The fields of a carry record. -/
theorem Acc.record_fields (a : Acc) :
    fieldLe a.record 0 24 = ofSigned 192 a.v ∧ fieldLe a.record 0x18 2 = ofSigned 16 a.anchor ∧
      fieldLe a.record 0x1A 1 = flagBits a.nan a.posInf a.negInf a.invalid false ∧
      fieldLe a.record 0x1C 4 = Nat.min a.count 0xFFFFFFFF := by
  have hsum := fieldLe_leBytes (n := 24) (ofSigned_lt 192 a.v)
  have hanchor := fieldLe_leBytes (n := 2) (ofSigned_lt 16 a.anchor)
  have hflags := fieldLe_leBytes (n := 1) (flagBits_lt a.nan a.posInf a.negInf a.invalid false)
  have hcount : fieldLe (leBytes 4 (Nat.min a.count 0xFFFFFFFF)) 0 4 = _ :=
    fieldLe_leBytes (Nat.lt_of_le_of_lt (Nat.min_le_right ..) (by decide))
  have hrecord : a.record = leBytes 24 (ofSigned 192 a.v) ++ (leBytes 2 (ofSigned 16 a.anchor) ++
      (leBytes 1 (flagBits a.nan a.posInf a.negInf a.invalid false) ++ (leBytes 1 0 ++
        leBytes 4 (Nat.min a.count 0xFFFFFFFF)))) := by
    simp only [Acc.record, List.append_assoc]
    rfl
  rw [hrecord]
  refine ⟨?_, ?_, ?_, ?_⟩
  · rw [fieldLe_append_left _ (by simp), hsum]
  · rw [fieldLe_append_right _ _ (by simp), fieldLe_append_left _ (by simp), leBytes_length, hanchor]
  · simp [fieldLe_append_right, fieldLe_append_left, hflags]
  · simp [fieldLe_append_right, hcount]

theorem parseRecord_record {a : Acc} (hlo : -(2 : Int) ^ 191 ≤ a.v) (hhi : a.v < 2 ^ 191)
    (halo : -(2 : Int) ^ 15 ≤ a.anchor) (hahi : a.anchor < 2 ^ 15) (hcount : a.count < 2 ^ 32) :
    parseRecord a.record = a := by
  obtain ⟨hv, hanchor, hflags, hcnt⟩ := a.record_fields
  obtain ⟨hnan, hpos, hneg, hinv, -⟩ := bit_flagBits a.nan a.posInf a.negInf a.invalid false
  have hmin : Nat.min a.count 0xFFFFFFFF = a.count := Nat.min_eq_left (by omega)
  simp only [parseRecord, hv, hanchor, hflags, hcnt, hnan, hpos, hneg, hinv, hmin]
  rw [toSigned_ofSigned (by decide) hlo hhi, toSigned_ofSigned (by decide) halo hahi]

/-! ### Exact-sum cells (R299) -/

theorem add_flags_eq (w v : Nat) (a b c d e : Bool) :
    v + flag a * 2 ^ w + flag b * 2 ^ (w + 1) + flag c * 2 ^ (w + 2) + flag d * 2 ^ (w + 3) + flag e * 2 ^ (w + 4) =
      v + 2 ^ w * flagBits a b c d e := by
  rw [flagBits]
  ring

set_option exponentiation.threshold 320 in
/-- A cell's bytes hold its sum in their low 312 bits and its flags above. -/
theorem ExactCell.bytes_field (c : ExactCell) :
    fieldLe c.bytes 0 40 = ofSigned 312 c.s + 2 ^ 312 * flagBits c.nan c.posInf c.negInf c.invalid c.poison := by
  have hbytes : c.bytes =
      leBytes 40 (ofSigned 312 c.s + 2 ^ 312 * flagBits c.nan c.posInf c.negInf c.invalid c.poison) :=
    congrArg (leBytes 40) (add_flags_eq 312 _ c.nan c.posInf c.negInf c.invalid c.poison)
  rw [hbytes]
  exact fieldLe_leBytes (add_high_lt (k := 8) (ofSigned_lt 312 c.s) (flagBits_lt ..))

theorem parseCell_bytes {c : ExactCell} (hlo : -(2 : Int) ^ 311 ≤ c.s) (hhi : c.s < 2 ^ 311) :
    parseCell c.bytes = c := by
  have hbit := bit_add_high (ofSigned_lt 312 c.s) (flagBits c.nan c.posInf c.negInf c.invalid c.poison)
  obtain ⟨hnan, hpos, hneg, hinv, hpoison⟩ := bit_flagBits c.nan c.posInf c.negInf c.invalid c.poison
  rw [parseCell, ExactCell.bytes_field]
  rw [toSigned_add_high, toSigned_ofSigned (by decide) hlo hhi, hbit 0, hbit 1, hbit 2, hbit 3, hbit 4,
    hnan, hpos, hneg, hinv, hpoison]

/-- A contribution that keeps the sum in range enters a valid cell exactly. -/
theorem ExactCell.add_of_lt {c e : ExactCell} (hc : c.invalid = false) (h : (c.s + e.s).natAbs < 2 ^ 311) :
    c.add e = { c with s := c.s + e.s, nan := c.nan || e.nan, posInf := c.posInf || e.posInf,
                       negInf := c.negInf || e.negInf } := by
  unfold ExactCell.add
  rw [hc, if_neg Bool.false_ne_true, if_neg (Nat.not_le.2 h)]

theorem ExactCell.add_add_of_lt {c a b : ExactCell} (hc : c.invalid = false) (ha : (c.s + a.s).natAbs < 2 ^ 311)
    (hab : (c.s + a.s + b.s).natAbs < 2 ^ 311) :
    (c.add a).add b = { c with s := c.s + a.s + b.s, nan := c.nan || a.nan || b.nan,
                               posInf := c.posInf || a.posInf || b.posInf,
                               negInf := c.negInf || a.negInf || b.negInf } := by
  rw [add_of_lt hc ha]
  exact add_of_lt hc hab

theorem ExactCell.add_right_comm {c a b : ExactCell} (hc : c.invalid = false) (ha : (c.s + a.s).natAbs < 2 ^ 311)
    (hb : (c.s + b.s).natAbs < 2 ^ 311) (hab : (c.s + a.s + b.s).natAbs < 2 ^ 311) :
    (c.add a).add b = (c.add b).add a := by
  have hba : (c.s + b.s + a.s).natAbs < 2 ^ 311 := Int.add_right_comm .. ▸ hab
  rw [add_add_of_lt hc ha hab, add_add_of_lt hc hb hba]
  simp only [Int.add_right_comm, Bool.or_right_comm]

/-- A contribution makes a valid cell invalid exactly where it would take the sum out of range. -/
theorem ExactCell.add_invalid_iff {c e : ExactCell} (hc : c.invalid = false) :
    (c.add e).invalid = true ↔ 2 ^ 311 ≤ (c.s + e.s).natAbs := by
  by_cases h : 2 ^ 311 ≤ (c.s + e.s).natAbs
  · unfold ExactCell.add
    rw [hc, if_neg Bool.false_ne_true, if_pos h]
    exact iff_of_true rfl h
  · rw [add_of_lt hc (Nat.not_le.1 h)]
    exact iff_of_false (by rw [hc]; exact Bool.false_ne_true) h

/-- Settles O55: contributions to a window and to a cell commute, and both images are read back field by field. -/
theorem exactSums : Obligations.ExactSums :=
  ⟨fun _ _ n h => windowSum_perm h n,
    fun a explicit cs ds => ⟨fun h => Acc.addAll_perm h explicit a, Acc.addAll_append explicit a cs ds⟩,
    fun _ hlo hhi halo hahi hcount => parseRecord_record hlo hhi halo hahi hcount,
    fun _ hlo hhi => parseCell_bytes hlo hhi,
    fun _ _ _ hc ha hb hab => ⟨ExactCell.add_right_comm hc ha hb hab,
      congrArg ExactCell.s (ExactCell.add_add_of_lt hc ha hab)⟩,
    fun _ _ hc => ExactCell.add_invalid_iff hc⟩

end

end Sys2Proof.Machine
end

section
namespace Sys2Proof.Machine

open Sys2Proof

section

-- As in the model's Laws: one declaration after another keeps the joined text within the check's memory.
set_option Elab.async false

/-! ### PRODUCT and PRODUCT_SPARSE (R200, R228) -/

/-- An op of the two array classes has the effects of its run on whichever of the two slots its task runs. -/
theorem State.arrayStep_of_runs {s : State} {t : Task} {op : Nat}
    (h : engineRuns s t engARRAY_A op ∨ engineRuns s t engARRAY_B op) (run : Task → Result) :
    s.arrayStep t.id op run = s.applyResult t (run t) := by
  have htask : s.task? t.id = some t := h.elim And.left And.left
  simp only [State.arrayStep, htask]
  obtain hA | hB := h
  · have hne : t.desc.engine ≠ engARRAY_B := by rw [hA.engine_eq]; decide
    rw [if_neg hne, State.engineStep_of_runs hA]
  · rw [if_pos hB.engine_eq, State.engineStep_of_runs hB]

theorem exec_product {s : State} {t : Task} (h : engineRuns s t engARRAY_A 1 ∨ engineRuns s t engARRAY_B 1) :
    exec (.product t.id) s = .next (s.applyResult t (s.productRun t)) :=
  (perform_of_wf (c := .product t.id) (h.elim engineRuns.wf engineRuns.wf) _).trans (congrArg _ (State.arrayStep_of_runs h _))

theorem exec_productSparse {s : State} {t : Task} (h : engineRuns s t engARRAY_A 2 ∨ engineRuns s t engARRAY_B 2) :
    exec (.productSparse t.id) s = .next (s.applyResult t (s.productRun t)) :=
  (perform_of_wf (c := .productSparse t.id) (h.elim engineRuns.wf engineRuns.wf) _).trans
    (congrArg _ (State.arrayStep_of_runs h _))

theorem State.productRun_of_empty (s : State) {t : Task} (h : (parseProduct t.args).empty = true) : s.productRun t = {} :=
  if_pos h

theorem State.productRun_of_scan_failed {s : State} {t : Task} (hempty : (parseProduct t.args).empty = false)
    (hpasses : t.passes = 0) (hscan : s.productScan t ≠ stOK) : s.productRun t = scanFailed (s.productScan t) :=
  (if_neg (by simp [hempty])).trans (if_pos ⟨hpasses, hscan⟩)

/-! ### GRAD and CHAIN (R262, R239) -/

theorem exec_grad {s : State} {t : Task} (h : engineRuns s t engARRAY_AB 1) :
    exec (.grad t.id) s = .next (s.applyResult t (s.gradRun t)) :=
  (perform_of_wf (c := .grad t.id) h.wf _).trans (congrArg _ (State.engineStep_of_runs h _))

theorem State.gradRun_of_empty (s : State) {t : Task} (h : (parseGrad t.args).empty = true) : s.gradRun t = {} :=
  if_pos h

theorem State.gradRun_of_scan_failed {s : State} {t : Task} (hempty : (parseGrad t.args).empty = false)
    (hpasses : t.passes = 0) (hscan : s.gradScan t ≠ stOK) : s.gradRun t = scanFailed (s.gradScan t) :=
  (if_neg (by simp [hempty])).trans (if_pos ⟨hpasses, hscan⟩)

theorem exec_chain {s : State} {t : Task} (h : engineRuns s t engVECTOR 1) :
    exec (.chain t.id) s = .next (s.applyResult t (s.chainRun t)) :=
  (perform_of_wf (c := .chain t.id) h.wf _).trans (congrArg _ (State.engineStep_of_runs h _))

theorem State.chainRun_of_empty (s : State) {t : Task} (h : (parseChain t.args).rows = 0 ∨ (parseChain t.args).width = 0) :
    s.chainRun t = {} :=
  if_pos h

theorem State.chainRun_of_scan_failed {s : State} {t : Task} (hrows : (parseChain t.args).rows ≠ 0)
    (hwidth : (parseChain t.args).width ≠ 0) (hscan : s.chainScan (parseChain t.args) ≠ stOK) :
    s.chainRun t = scanFailed (s.chainScan (parseChain t.args)) :=
  (if_neg (not_or.2 ⟨hrows, hwidth⟩)).trans (if_pos hscan)

/-! ### Drain rows and passes (R206, R263) -/

/-- A task that holds the drain rows it needs. -/
def Task.withDrainRows (t : Task) : Task := { t with drainA := t.drainRows.1, drainB := t.drainRows.2 }

@[simp] theorem Task.withDrainRows_phase (t : Task) : t.withDrainRows.phase = t.phase := rfl

@[simp] theorem Task.withDrainRows_job (t : Task) : t.withDrainRows.job = t.job := rfl

@[simp] theorem Task.withDrainRows_passes (t : Task) : t.withDrainRows.passes = t.passes := rfl

@[simp] theorem Task.withDrainRows_isArray (t : Task) : t.withDrainRows.isArray = t.isArray := rfl

@[simp] theorem Task.withDrainRows_held (t : Task) :
    (t.withDrainRows.drainA, t.withDrainRows.drainB) = t.withDrainRows.drainRows := rfl

/-- The pre-scan reads no drain rows. -/
@[simp] theorem State.scanPassed_withDrainRows (s : State) (t : Task) : s.scanPassed t.withDrainRows = s.scanPassed t := rfl

/-- What passes a task has, and what each counts, does not depend on its drain rows. -/
@[simp] theorem State.arrayPasses_withDrainRows (s : State) (t : Task) : s.arrayPasses t.withDrainRows = s.arrayPasses t := rfl

/-- The two slots have room for a task's drain rows beside those of the other tasks. -/
def State.drainFits (s : State) (t : Task) : Prop :=
  (s.drainHeld t).1 + t.drainRows.1 ≤ 1024 ∧ (s.drainHeld t).2 + t.drainRows.2 ≤ 1024

theorem Task.withDrainRows_of_held {t : Task} (h : (t.drainA, t.drainB) = t.drainRows) : t.withDrainRows = t := by
  rw [Task.withDrainRows, ← h]

/-- An array task reserves its rows exactly where they fit. -/
theorem State.reserved_of_fits {s : State} {t : Task} (harray : t.isArray = true) (h : s.drainFits t) :
    s.reserved t = t.withDrainRows :=
  if_pos (by simp [harray, h.1, h.2])

theorem State.reserved_of_not_fits {s : State} {t : Task} (h : ¬ s.drainFits t) : s.reserved t = t :=
  if_neg (by simpa [and_assoc] using fun _ hA hB => h ⟨hA, hB⟩)

section

variable {s : State} {t : Task}

/-- A running array task whose pre-scan has passed starts its next pass where it holds its drain rows or they fit. -/
theorem State.arrayPassStart_of_room (htask : s.task? t.id = some t) (harray : t.isArray = true)
    (hphase : t.phase = .running) (hjob : s.jobState t.job = 1) (hscan : s.scanPassed t = true)
    (hroom : (t.drainA, t.drainB) = t.drainRows ∨ s.drainFits t) :
    s.arrayPassStart t.id = (s.arrayPasses t)[t.passes]?.elim s fun b =>
      (s.bumps b).setTask { t.withDrainRows with passes := t.passes + 1 } := by
  have hreserved : (if (t.drainA, t.drainB) = t.drainRows then t else s.reserved t) = t.withDrainRows := by
    split
    next hheld => exact (Task.withDrainRows_of_held hheld).symm
    next hheld => exact State.reserved_of_fits harray (hroom.resolve_left hheld)
  simp only [State.arrayPassStart, htask, hreserved]
  rw [if_pos (by simp [harray, hphase, hscan, State.jobRuns_iff.2 hjob])]
  simp only [State.arrayPasses_withDrainRows, Task.withDrainRows_passes]
  cases (s.arrayPasses t)[t.passes]? with
  | none => rfl
  | some b => rfl

/-- A task without its drain rows, for which there is no room, starts nothing. -/
theorem State.arrayPassStart_of_no_room (htask : s.task? t.id = some t) (hheld : (t.drainA, t.drainB) ≠ t.drainRows)
    (hroom : ¬ s.drainFits t) : s.arrayPassStart t.id = s := by
  simp only [State.arrayPassStart, htask, if_neg hheld, State.reserved_of_not_fits hroom]
  exact if_neg (by simp [hheld])

end

theorem exec_arrayPassStart {id : TaskId} (h : id.die < 8) (s : State) :
    exec (.arrayPassStart id) s = .next (s.arrayPassStart id) :=
  perform_of_wf (c := .arrayPassStart id) (TaskId.wf_of_lt h) _

/-- Settles O28: each array or vector task by its run, and ARRAY_PASS_START by the room for the task's drain rows. -/
theorem arraysAndVector : Obligations.ArraysAndVector := by
  intro s t
  refine ⟨exec_product, exec_productSparse, State.productRun_of_scan_failed, s.productRun_of_empty, exec_grad,
    State.gradRun_of_scan_failed, s.gradRun_of_empty, exec_chain, State.chainRun_of_scan_failed, s.chainRun_of_empty,
    fun htask hdie hlow hhigh hphase hjob hpassed => ?_⟩
  have harray : t.isArray = true := by simp [Task.isArray, hlow, hhigh]
  have hscan : s.scanPassed t = true := by simpa [State.scanPassed] using hpassed
  rw [exec_arrayPassStart hdie]
  refine ⟨fun b hb hroom => ?_, fun hnone => ?_, fun hheld hfull => ?_⟩
  · rw [State.arrayPassStart_of_room htask harray hphase hjob hscan hroom, hb]
    rfl
  · by_cases hroom : (t.drainA, t.drainB) = t.drainRows ∨ s.drainFits t
    · rw [State.arrayPassStart_of_room htask harray hphase hjob hscan hroom, hnone, Option.elim_none]
    · obtain ⟨hheld, hfits⟩ := not_or.1 hroom
      rw [State.arrayPassStart_of_no_room htask hheld hfits]
  · have hfits : ¬ s.drainFits t := fun ⟨hA, hB⟩ => hfull.elim (Nat.not_lt.2 hA) (Nat.not_lt.2 hB)
    rw [State.arrayPassStart_of_no_room htask hheld hfits]

end

end Sys2Proof.Machine
end

section
namespace Sys2Proof.Machine

open Sys2Proof

section

-- As in the model's Laws: one declaration after another keeps the joined text within the check's memory.
set_option Elab.async false

/-! ### The statuses of an owner's checks and the form of its answers (R23, R283) -/

/-- The owner's checks of a range answer OK, FORMAT or ACCESS. -/
theorem State.ownerStatus_cases (s : State) (job a n : Nat) (read write : Bool) :
    s.ownerStatus job a n read write = stOK ∨ s.ownerStatus job a n read write = stFORMAT ∨
      s.ownerStatus job a n read write = stACCESS := by
  unfold State.ownerStatus failIf
  split
  · exact .inr (.inl rfl)
  · split
    · exact .inr (.inr rfl)
    · split
      · exact .inr (.inr rfl)
      · exact .inl rfl

/-- They never answer POISON: a range is checked before its bytes are consumed. -/
theorem State.ownerStatus_ne_stPOISON (s : State) (job a n : Nat) (read write : Bool) :
    s.ownerStatus job a n read write ≠ stPOISON := by
  rcases s.ownerStatus_cases job a n read write with h | h | h <;> rw [h] <;> decide

/-- An answer names this module by its node alone. -/
theorem State.responseTo_congr {s t : State} (h : t.chart = s.chart) (k : Packet) (status : Nat) :
    t.responseTo k status = s.responseTo k status := by
  simp [State.responseTo, State.node?, h]

@[simp] theorem State.unlist_key (s : State) (a : Arrival) (b : Nat) : (s.unlist a).key b = s.key b := rfl

@[simp] theorem State.unlist_responseTo (s : State) (a : Arrival) (k : Packet) (status : Nat) :
    (s.unlist a).responseTo k status = s.responseTo k status := rfl

/-! ### The ranges that a served request reaches (R86) -/

section

variable {s : State} {k r : Packet}

theorem State.servedRanges_of_refused (hok : r.status ≠ stOK) (hpoison : r.status ≠ stPOISON) : s.servedRanges k [r] = [] := by
  simp [State.servedRanges, hok, hpoison]

theorem State.servedRanges_of_exactAcc (h : k.op = pktEXACT_ACC) (l : List Packet) : s.servedRanges k l = [] := by
  unfold State.servedRanges
  split
  · rfl
  · simp [h, pktEXACT_ACC, pktLIST_GET, pktCAS, pktNM_ACC]

theorem State.servedRanges_of_cas (h : k.op = pktCAS) (hr : r.status = stOK ∨ r.status = stPOISON) :
    s.servedRanges k [r] = [(s.key k.addr, 8)] := by
  have hany : [r].any (fun r => decide (r.status = stOK) || decide (r.status = stPOISON)) = true := by simpa using hr
  simp only [State.servedRanges, hany]
  simp [h, pktCAS, pktLIST_GET]

theorem State.servedRanges_of_payload (h : k.op = pktPUT ∨ k.op = pktGET ∨ k.op = pktPUT_SIGNAL) (hr : r.status = stOK) :
    s.servedRanges k [r] = [(s.key k.addr, k.length)] := by
  rcases h with h | h | h <;>
    simp [State.servedRanges, hr, h, pktPUT, pktGET, pktPUT_SIGNAL, pktCAS, pktLIST_GET, pktNM_ACC, pktEXACT_ACC]

end

/-! ### The effect of a request on a state (R282, R283, R285 to R287) -/

section

variable {u t : State} {a : Arrival} {k r : Packet} {st : Nat}

theorem State.servePut_of_ok (h : u.ownerStatus k.jobId k.addr k.length false true = stOK) :
    u.servePut k = (u.storePayload k.addr (sliceBytes k.payload 0 k.length) k.poisonMap, stOK) := by
  simp [State.servePut, h]

theorem State.servePut_of_refused (h : u.ownerStatus k.jobId k.addr k.length false true ≠ stOK) :
    u.servePut k = (u, u.ownerStatus k.jobId k.addr k.length false true) := by
  simp [State.servePut, h]

theorem State.serveGet_of_ok (h : u.ownerStatus k.jobId k.addr k.length true false = stOK) :
    u.serveGet k = u.answer k (u.readAddr k.addr k.length) (u.poisonMapOf k.addr k.length) 0 := if_pos h

theorem State.serveGet_of_refused (h : u.ownerStatus k.jobId k.addr k.length true false ≠ stOK) :
    u.serveGet k = u.responseTo k (u.ownerStatus k.jobId k.addr k.length true false) := if_neg h

theorem State.serveCas_of_misaligned (h : k.addr % 8 ≠ 0) : u.serveCas k = (u, u.responseTo k stFORMAT) := if_pos h

theorem State.serveCas_of_refused (ha : k.addr % 8 = 0) (h : u.ownerStatus k.jobId k.addr 8 true true ≠ stOK) :
    u.serveCas k = (u, u.responseTo k (u.ownerStatus k.jobId k.addr 8 true true)) := by
  simp [State.serveCas, ha, h]

/-- What a CAS answers of its word: POISON where it is poisoned. -/
def State.casStatus (s : State) (k : Packet) (st : Nat) : Prop :=
  (s.poisonedAt k.addr 8 = true ∧ st = stPOISON) ∨ (s.poisonedAt k.addr 8 = false ∧ st = stOK)

theorem State.casStatus_iff : u.casStatus k st ↔ st = if u.poisonedAt k.addr 8 then stPOISON else stOK := by
  cases hpoison : u.poisonedAt k.addr 8 <;> simp [State.casStatus, hpoison]

theorem State.casStatus.cases (h : u.casStatus k st) : st = stOK ∨ st = stPOISON :=
  h.elim (fun h => .inr h.2) (fun h => .inl h.2)

/-- The old word is answered in every case, and swap takes its place where it equals compare. -/
theorem State.serveCas_of_ok (ha : k.addr % 8 = 0) (h : u.ownerStatus k.jobId k.addr 8 true true = stOK)
    {old : Nat} (hold : u.readLe k.addr 8 = old) (hst : u.casStatus k st) :
    u.serveCas k = (if old = k.arg0 then u.write (u.key k.addr) (leBytes 8 k.arg1) else u,
      { u.responseTo k st with length := 0, poisonMap := 0, arg0 := old, payload := [] }) := by
  rcases hst with ⟨hpoison, rfl⟩ | ⟨hpoison, rfl⟩ <;>
    simp [State.serveCas, ha, h, hold, hpoison, State.answer, State.responseTo]

/-- A signal that finds its place is answered. -/
theorem State.serveSignal_of_placed {v : State} (h : u.signal? a.packet.jobId (bits a.packet.arg0 31 0) 1 false = some v) :
    u.serveSignal a = (v.freeArrival a, [v.responseTo a.packet stOK]) := by
  simp [State.serveSignal, h]

/-- A signal that finds none waits with its packet. -/
theorem State.serveSignal_of_full (h : u.signal? a.packet.jobId (bits a.packet.arg0 31 0) 1 false = none) :
    u.serveSignal a = ({ u with fabric := { u.fabric with heldSignals := u.fabric.heldSignals ++ [a] } }, []) := by
  simp [State.serveSignal, h]

/-! ### A request by its op -/

theorem State.serveBody_of_killed (h : 2 ≤ u.jobState a.packet.jobId) :
    u.serveBody a = (u.freeArrival a, [u.responseTo a.packet stJOB_KILLED]) := if_pos h

theorem State.serveBody_of_no_job (hjob : u.jobState a.packet.jobId < 2) (h : u.chartJob? a.packet.jobId = none) :
    u.serveBody a = (u.freeArrival a, [u.responseTo a.packet stACCESS]) := by
  simp [State.serveBody, Nat.not_le.2 hjob, h]

section

variable (hjob : u.jobState a.packet.jobId < 2) (hchart : (u.chartJob? a.packet.jobId).isNone = false)
include hjob hchart

theorem State.serveBody_of_put (h : a.packet.op = pktPUT) :
    u.serveBody a = ((u.servePut a.packet).1.freeArrival a,
      [(u.servePut a.packet).1.responseTo a.packet (u.servePut a.packet).2]) := by
  simp [State.serveBody, Nat.not_le.2 hjob, hchart, h]

theorem State.serveBody_of_get (h : a.packet.op = pktGET) :
    u.serveBody a = (u.freeArrival a, [u.serveGet a.packet]) := by
  simp [State.serveBody, Nat.not_le.2 hjob, hchart, h, pktGET, pktPUT]

theorem State.serveBody_of_listGet (h : a.packet.op = pktLIST_GET) :
    u.serveBody a = (u.freeArrival a, u.serveList a.packet) := by
  simp [State.serveBody, Nat.not_le.2 hjob, hchart, h, pktLIST_GET, pktGET, pktPUT]

theorem State.serveBody_of_exactAcc (h : a.packet.op = pktEXACT_ACC) :
    u.serveBody a = ((u.exactArrives a.packet).1.freeArrival a,
      [(u.exactArrives a.packet).1.responseTo a.packet (u.exactArrives a.packet).2]) := by
  simp [State.serveBody, Nat.not_le.2 hjob, hchart, h, pktEXACT_ACC, pktLIST_GET, pktGET, pktPUT]

theorem State.serveBody_of_nmAcc (h : a.packet.op = pktNM_ACC) :
    u.serveBody a = ((u.serveNmAcc a.packet).1.freeArrival a,
      [(u.serveNmAcc a.packet).1.responseTo a.packet (u.serveNmAcc a.packet).2]) := by
  simp [State.serveBody, Nat.not_le.2 hjob, hchart, h, pktNM_ACC, pktEXACT_ACC, pktLIST_GET, pktGET, pktPUT]

theorem State.serveBody_of_cas (h : a.packet.op = pktCAS) :
    u.serveBody a = ((u.serveCas a.packet).1.freeArrival a, [(u.serveCas a.packet).2]) := by
  simp [State.serveBody, Nat.not_le.2 hjob, hchart, h, pktCAS, pktNM_ACC, pktEXACT_ACC, pktLIST_GET, pktGET, pktPUT]

theorem State.serveBody_of_putSignal (h : a.packet.op = pktPUT_SIGNAL) :
    u.serveBody a = if (u.servePut a.packet).2 = stOK then (u.servePut a.packet).1.serveSignal a
      else ((u.servePut a.packet).1.freeArrival a,
        [(u.servePut a.packet).1.responseTo a.packet (u.servePut a.packet).2]) := by
  simp [State.serveBody, Nat.not_le.2 hjob, hchart, h, pktPUT_SIGNAL, pktCAS, pktNM_ACC, pktEXACT_ACC, pktLIST_GET, pktGET,
    pktPUT]

end

end

/-! ### A request at an owner that is awake (R282, R347) -/

theorem State.wakeTrigger_of_awake {s : State} (h : s.power.anchor = .awake) : s.wakeTrigger = s := by
  simp [State.wakeTrigger, h]

/-- In the watch and its wake a trigger leaves the module waking. -/
theorem State.wakeTrigger_of_asleep {u : State} (h : u.power.anchor = .watching ∨ u.power.anchor = .waking) :
    u.wakeTrigger = { u with power := { u.power with anchor := .waking } } := by
  rcases h with h | h
  · simp [State.wakeTrigger, h]
  · simp only [State.wakeTrigger, h]
    rw [← h]

section

variable {s t : State} {k r : Packet} {a : Arrival} {l : List Packet} {st : Nat}
variable (ha : a = s.arrivalOf k) (hnode : s.node? = some k.dst) (hawake : s.power.anchor = .awake)
include ha hnode hawake

/-- What the body of a request does is done, its accesses use tags, and its responses leave. -/
theorem State.serveRequest_of_awake (hbody : (s.unlist a).serveBody a = (t, l)) :
    s.serveRequest k = (t.tagTraffic (rangeUnits 512 (s.servedRanges k l))).sendAll l := by
  have hin : (s.unlist a).power.anchor = .awake := hawake
  simp only [State.serveRequest, hnode, ← ha, State.wakeTrigger_of_awake hin, hin, hbody, reduceCtorEq, if_false, if_true,
    ne_eq, not_true_eq_false]
  rfl

/-- A request that is answered gives its credit back, its accesses use tags, and the answer leaves. -/
theorem State.serveRequest_of_answered {ranges : List (Nat × Nat)} (hranges : s.servedRanges k [r] = ranges)
    (hbody : (s.unlist a).serveBody a = (t.freeArrival a, [r])) :
    s.serveRequest k = ((t.freeArrival a).tagTraffic (rangeUnits 512 ranges)).sendPacket r := by
  rw [State.serveRequest_of_awake ha hnode hawake hbody, hranges]
  rfl

/-- A request that is refused changes nothing but the inbox, gives its credit back and is answered. -/
theorem State.serveRequest_of_refused (hok : st ≠ stOK) (hpoison : st ≠ stPOISON)
    (hbody : (s.unlist a).serveBody a = ((s.unlist a).freeArrival a, [(s.unlist a).responseTo k st])) :
    s.serveRequest k = ((s.unlist a).freeArrival a).sendPacket (s.responseTo k st) :=
  State.serveRequest_of_answered ha hnode hawake (State.servedRanges_of_refused hok hpoison) hbody

end

theorem requestServed.wf {s : State} {k : Packet} (h : requestServed s k) : k.wf = true := h.1

section

variable {s : State} {k : Packet} {a : Arrival} {st : Nat} (h : requestServed s k) (ha : a = s.arrivalOf k)
include h ha

/-- What the body of a request goes by: its packet is the record's, and its job runs. -/
theorem requestServed.body : s.node? = some k.dst ∧ s.power.anchor = .awake ∧ a.packet = k ∧
    (s.unlist a).jobState k.jobId < 2 ∧ ((s.unlist a).chartJob? k.jobId).isNone = false := by
  obtain ⟨_, hnode, hawake, hjob, hchart⟩ := h
  have hnone : (s.chartJob? k.jobId).isNone = false := by simpa [Option.isSome_iff_ne_none] using hchart
  exact ⟨hnode, hawake, ha ▸ s.arrivalOf_packet k, hjob, hnone⟩

theorem State.serveRequest_put_of_ok (hop : k.op = pktPUT) (hok : s.ownerStatus k.jobId k.addr k.length false true = stOK) :
    s.serveRequest k = ((((s.unlist a).storePayload k.addr (sliceBytes k.payload 0 k.length) k.poisonMap).freeArrival a).tagTraffic
      (rangeUnits 512 [(s.key k.addr, k.length)])).sendPacket (s.responseTo k stOK) := by
  obtain ⟨hnode, hawake, rfl, hjob, hchart⟩ := h.body ha
  refine State.serveRequest_of_answered ha hnode hawake (State.servedRanges_of_payload (.inl hop) rfl) ?_
  rw [State.serveBody_of_put hjob hchart hop, State.servePut_of_ok (u := s.unlist a) hok]
  rfl

theorem State.serveRequest_put_of_refused (hop : k.op = pktPUT) (hst : st = s.ownerStatus k.jobId k.addr k.length false true)
    (hok : st ≠ stOK) : s.serveRequest k = ((s.unlist a).freeArrival a).sendPacket (s.responseTo k st) := by
  obtain ⟨hnode, hawake, rfl, hjob, hchart⟩ := h.body ha
  subst hst
  refine State.serveRequest_of_refused ha hnode hawake hok (s.ownerStatus_ne_stPOISON _ _ _ _ _) ?_
  rw [State.serveBody_of_put hjob hchart hop, State.servePut_of_refused (u := s.unlist a) hok]
  rfl

theorem State.serveRequest_get_of_ok (hop : k.op = pktGET) (hok : s.ownerStatus k.jobId k.addr k.length true false = stOK) :
    s.serveRequest k = (((s.unlist a).freeArrival a).tagTraffic (rangeUnits 512 [(s.key k.addr, k.length)])).sendPacket
      { s.responseTo k stOK with length := (s.readAddr k.addr k.length).length, poisonMap := s.poisonMapOf k.addr k.length,
                                 arg0 := 0, payload := s.readAddr k.addr k.length } := by
  obtain ⟨hnode, hawake, rfl, hjob, hchart⟩ := h.body ha
  refine State.serveRequest_of_answered ha hnode hawake (State.servedRanges_of_payload (.inr (.inl hop)) rfl) ?_
  rw [State.serveBody_of_get hjob hchart hop, State.serveGet_of_ok (u := s.unlist a) hok]
  rfl

theorem State.serveRequest_get_of_refused (hop : k.op = pktGET) (hst : st = s.ownerStatus k.jobId k.addr k.length true false)
    (hok : st ≠ stOK) : s.serveRequest k = ((s.unlist a).freeArrival a).sendPacket (s.responseTo k st) := by
  obtain ⟨hnode, hawake, rfl, hjob, hchart⟩ := h.body ha
  subst hst
  refine State.serveRequest_of_refused ha hnode hawake hok (s.ownerStatus_ne_stPOISON _ _ _ _ _) ?_
  rw [State.serveBody_of_get hjob hchart hop, State.serveGet_of_refused (u := s.unlist a) hok]
  rfl

theorem State.serveRequest_listGet (hop : k.op = pktLIST_GET) :
    s.serveRequest k = (((s.unlist a).freeArrival a).tagTraffic
      (rangeUnits 512 (s.servedRanges k ((s.unlist a).serveList k)))).sendAll ((s.unlist a).serveList k) := by
  obtain ⟨hnode, hawake, rfl, hjob, hchart⟩ := h.body ha
  exact State.serveRequest_of_awake ha hnode hawake (State.serveBody_of_listGet hjob hchart hop)

theorem State.serveRequest_exactAcc (hop : k.op = pktEXACT_ACC) :
    s.serveRequest k = (((s.unlist a).exactArrives k).1.freeArrival a).sendPacket
      (((s.unlist a).exactArrives k).1.responseTo k ((s.unlist a).exactArrives k).2) := by
  obtain ⟨hnode, hawake, rfl, hjob, hchart⟩ := h.body ha
  exact State.serveRequest_of_answered ha hnode hawake (State.servedRanges_of_exactAcc hop _)
    (State.serveBody_of_exactAcc hjob hchart hop)

theorem State.serveRequest_nmAcc (hop : k.op = pktNM_ACC) {r : Packet}
    (hr : r = ((s.unlist a).serveNmAcc k).1.responseTo k ((s.unlist a).serveNmAcc k).2) :
    s.serveRequest k = ((((s.unlist a).serveNmAcc k).1.freeArrival a).tagTraffic
      (rangeUnits 512 (s.servedRanges k [r]))).sendPacket r := by
  obtain ⟨hnode, hawake, rfl, hjob, hchart⟩ := h.body ha
  subst hr
  exact State.serveRequest_of_answered ha hnode hawake rfl (State.serveBody_of_nmAcc hjob hchart hop)

theorem State.serveRequest_cas_of_ok (hop : k.op = pktCAS) (halign : k.addr % 8 = 0)
    (hok : s.ownerStatus k.jobId k.addr 8 true true = stOK) (hst : s.casStatus k st) {r : Packet}
    (hr : r = { s.responseTo k st with length := 0, poisonMap := 0, arg0 := s.readLe k.addr 8, payload := [] }) :
    s.serveRequest k = (((if s.readLe k.addr 8 = k.arg0 then (s.unlist a).write (s.key k.addr) (leBytes 8 k.arg1)
      else s.unlist a).freeArrival a).tagTraffic (rangeUnits 512 [(s.key k.addr, 8)])).sendPacket r := by
  obtain ⟨hnode, hawake, rfl, hjob, hchart⟩ := h.body ha
  have hstatus : r.status = stOK ∨ r.status = stPOISON := by
    rw [hr]
    exact hst.cases
  refine State.serveRequest_of_answered ha hnode hawake (State.servedRanges_of_cas hop hstatus) ?_
  rw [State.serveBody_of_cas hjob hchart hop,
    State.serveCas_of_ok (u := s.unlist a) (old := s.readLe a.packet.addr 8) halign hok rfl hst, hr,
    State.unlist_key, State.unlist_responseTo]

theorem State.serveRequest_cas_of_misaligned (hop : k.op = pktCAS) (halign : k.addr % 8 ≠ 0) :
    s.serveRequest k = ((s.unlist a).freeArrival a).sendPacket (s.responseTo k stFORMAT) := by
  obtain ⟨hnode, hawake, rfl, hjob, hchart⟩ := h.body ha
  refine State.serveRequest_of_refused ha hnode hawake (by decide) (by decide) ?_
  rw [State.serveBody_of_cas hjob hchart hop, State.serveCas_of_misaligned halign]

theorem State.serveRequest_cas_of_refused (hop : k.op = pktCAS) (halign : k.addr % 8 = 0)
    (hst : st = s.ownerStatus k.jobId k.addr 8 true true) (hok : st ≠ stOK) :
    s.serveRequest k = ((s.unlist a).freeArrival a).sendPacket (s.responseTo k st) := by
  obtain ⟨hnode, hawake, rfl, hjob, hchart⟩ := h.body ha
  subst hst
  refine State.serveRequest_of_refused ha hnode hawake hok (s.ownerStatus_ne_stPOISON _ _ _ _ _) ?_
  rw [State.serveBody_of_cas hjob hchart hop, State.serveCas_of_refused (u := s.unlist a) halign hok]
  rfl

/-- A PUT_SIGNAL whose range is refused is answered with that status. -/
theorem State.serveRequest_putSignal_of_refused (hop : k.op = pktPUT_SIGNAL)
    (hst : st = s.ownerStatus k.jobId k.addr k.length false true) (hok : st ≠ stOK) :
    s.serveRequest k = ((s.unlist a).freeArrival a).sendPacket (s.responseTo k st) := by
  obtain ⟨hnode, hawake, rfl, hjob, hchart⟩ := h.body ha
  subst hst
  refine State.serveRequest_of_refused ha hnode hawake hok (s.ownerStatus_ne_stPOISON _ _ _ _ _) ?_
  rw [State.serveBody_of_putSignal hjob hchart hop, State.servePut_of_refused (u := s.unlist a) hok]
  exact if_neg hok

section

variable (hop : k.op = pktPUT_SIGNAL) (hok : s.ownerStatus k.jobId k.addr k.length false true = stOK)
variable {w : State} (hw : w = (s.unlist a).storePayload k.addr (sliceBytes k.payload 0 k.length) k.poisonMap)
include hop hok hw

/-- A PUT_SIGNAL whose range is admitted writes, and its signal decides. -/
theorem State.serveBody_putSignal_of_ok : (s.unlist a).serveBody a = w.serveSignal a := by
  obtain ⟨_, _, rfl, hjob, hchart⟩ := h.body ha
  rw [State.serveBody_of_putSignal hjob hchart hop, State.servePut_of_ok (u := s.unlist a) hok, if_pos rfl, hw]

theorem State.serveRequest_putSignal_of_placed {v : State} (hv : w.signal? k.jobId (bits k.arg0 31 0) 1 false = some v) :
    s.serveRequest k = ((v.freeArrival a).tagTraffic (rangeUnits 512 [(s.key k.addr, k.length)])).sendPacket
      (v.responseTo k stOK) := by
  have hbody := State.serveBody_putSignal_of_ok h ha hop hok hw
  obtain ⟨hnode, hawake, rfl, _, _⟩ := h.body ha
  exact State.serveRequest_of_answered ha hnode hawake (State.servedRanges_of_payload (.inr (.inr hop)) rfl)
    (hbody.trans (State.serveSignal_of_placed hv))

theorem State.serveRequest_putSignal_of_full (hv : w.signal? k.jobId (bits k.arg0 31 0) 1 false = none) :
    s.serveRequest k = { w with fabric := { w.fabric with heldSignals := w.fabric.heldSignals ++ [a] } } := by
  have hbody := State.serveBody_putSignal_of_ok h ha hop hok hw
  obtain ⟨hnode, hawake, rfl, _, _⟩ := h.body ha
  rw [State.serveRequest_of_awake ha hnode hawake (hbody.trans (State.serveSignal_of_full hv))]
  rfl

end

end

/-! ### A request that meets no running job, or a module in the anchor watch (R47, R347, R383) -/

section

variable {s : State} {k : Packet} {a : Arrival} (ha : a = s.arrivalOf k) (hnode : s.node? = some k.dst)
include ha hnode

theorem State.serveRequest_of_killed (hawake : s.power.anchor = .awake) (hjob : 2 ≤ s.jobState k.jobId) :
    s.serveRequest k = ((s.unlist a).freeArrival a).sendPacket (s.responseTo k stJOB_KILLED) := by
  obtain rfl : a.packet = k := ha ▸ s.arrivalOf_packet k
  exact State.serveRequest_of_refused ha hnode hawake (by decide) (by decide) (State.serveBody_of_killed (u := s.unlist a) hjob)

theorem State.serveRequest_of_no_job (hawake : s.power.anchor = .awake) (hjob : s.jobState k.jobId < 2)
    (hchart : s.chartJob? k.jobId = none) :
    s.serveRequest k = ((s.unlist a).freeArrival a).sendPacket (s.responseTo k stACCESS) := by
  obtain rfl : a.packet = k := ha ▸ s.arrivalOf_packet k
  exact State.serveRequest_of_refused ha hnode hawake (by decide) (by decide)
    (State.serveBody_of_no_job (u := s.unlist a) hjob hchart)

/-- The anchor watch answers a request with TRUNC and wakes. -/
theorem State.serveRequest_of_asleep (h : s.power.anchor = .watching ∨ s.power.anchor = .waking) (hk : Packet.answered k = true) :
    s.serveRequest k = ((({ s.unlist a with power := { s.power with anchor := .waking } }.freeArrival a).bump
      Reg.PLT_CNT_WAKE_REFUSED 1).sendPacket (s.responseTo k stTRUNC)) := by
  have hwake := State.wakeTrigger_of_asleep (u := s.unlist a) h
  have hanswer : ∀ u : State, u.chart = s.chart → ((u.freeArrival a).bump Reg.PLT_CNT_WAKE_REFUSED 1).responseTo k stTRUNC =
      s.responseTo k stTRUNC := fun u hu => State.responseTo_congr (((u.freeArrival_keeps a).1 .chart rfl).trans hu) k stTRUNC
  simp only [State.serveRequest, hnode, ← ha, hwake, reduceCtorEq, if_false, ne_eq, not_true_eq_false, State.respond, hk,
    if_true]
  rw [hanswer]
  · rfl
  · rfl

end

/-! ### The commands of requests -/

section

variable {s : State} {k : Packet}

/-- A command of an op with a request of that op serves it. -/
theorem perform_serveOp {c : Instr} {op : Nat} (hwf : c.wf = true) (hop : k.op = op) :
    perform c (s.serveOp op k) = .next (s.serveRequest k) := by
  rw [perform_of_wf hwf, State.serveOp, if_pos hop]

variable (hwf : k.wf = true)
include hwf

theorem exec_put (hop : k.op = pktPUT) : exec (.put k) s = .next (s.serveRequest k) :=
  perform_serveOp (c := .put k) hwf hop

theorem exec_get (hop : k.op = pktGET) : exec (.get k) s = .next (s.serveRequest k) :=
  perform_serveOp (c := .get k) hwf hop

theorem exec_listGet (hop : k.op = pktLIST_GET) : exec (.listGet k) s = .next (s.serveRequest k) :=
  perform_serveOp (c := .listGet k) hwf hop

theorem exec_exactAcc (hop : k.op = pktEXACT_ACC) : exec (.exactAcc k) s = .next (s.serveRequest k) :=
  perform_serveOp (c := .exactAcc k) hwf hop

theorem exec_nmAcc (hop : k.op = pktNM_ACC) : exec (.nmAcc k) s = .next (s.serveRequest k) :=
  perform_serveOp (c := .nmAcc k) hwf hop

theorem exec_cas (hop : k.op = pktCAS) : exec (.cas k) s = .next (s.serveRequest k) :=
  perform_serveOp (c := .cas k) hwf hop

/-- A PUT_SIGNAL that does not wait already is served like the others. -/
theorem exec_putSignal (hop : k.op = pktPUT_SIGNAL) (hheld : ∀ x ∈ s.fabric.heldSignals, x.packet ≠ k) :
    exec (.putSignal k) s = .next (s.serveRequest k) := by
  have hnone : s.fabric.heldSignals.find? (fun x => decide (x.packet = k)) = none := by simpa using hheld
  refine Eq.trans ?_ (perform_serveOp (c := .putSignal k) hwf hop)
  show perform _ (match s.fabric.heldSignals.find? _ with | some a => s.retrySignal a | none => _) = _
  rw [hnone]

/-- One that waits for a pending-signal entry tries again (R57, R287). -/
theorem exec_putSignal_of_held {a : Arrival} (hheld : s.fabric.heldSignals.find? (fun x => decide (x.packet = k)) = some a) :
    exec (.putSignal k) s = .next (s.retrySignal a) := by
  refine (perform_of_wf (c := .putSignal k) hwf _).trans ?_
  rw [hheld]

end

/-- The command that takes a request to its owner; a PUT_SIGNAL that waits already does not come again. -/
def servesRequest (s : State) (k : Packet) (c : Instr) : Prop :=
  (c = .put k ∧ k.op = pktPUT) ∨ (c = .get k ∧ k.op = pktGET) ∨ (c = .listGet k ∧ k.op = pktLIST_GET) ∨
    (c = .exactAcc k ∧ k.op = pktEXACT_ACC) ∨ (c = .nmAcc k ∧ k.op = pktNM_ACC) ∨ (c = .cas k ∧ k.op = pktCAS) ∨
    (c = .putSignal k ∧ k.op = pktPUT_SIGNAL ∧ ∀ x ∈ s.fabric.heldSignals, x.packet ≠ k)

section

variable {s : State} {k : Packet} {c : Instr}

/-- Each of them serves its request. -/
theorem exec_of_servesRequest (h : servesRequest s k c) (hwf : k.wf = true) : exec c s = .next (s.serveRequest k) := by
  rcases h with ⟨rfl, hop⟩ | ⟨rfl, hop⟩ | ⟨rfl, hop⟩ | ⟨rfl, hop⟩ | ⟨rfl, hop⟩ | ⟨rfl, hop⟩ | ⟨rfl, hop, hheld⟩
  · exact exec_put hwf hop
  · exact exec_get hwf hop
  · exact exec_listGet hwf hop
  · exact exec_exactAcc hwf hop
  · exact exec_nmAcc hwf hop
  · exact exec_cas hwf hop
  · exact exec_putSignal hwf hop hheld

theorem servesRequest.op_mem (h : servesRequest s k c) : k.op ∈ servedOps := by
  rcases h with ⟨_, hop⟩ | ⟨_, hop⟩ | ⟨_, hop⟩ | ⟨_, hop⟩ | ⟨_, hop⟩ | ⟨_, hop⟩ | ⟨_, hop, _⟩ <;> rw [hop] <;> decide

/-- A request on a request class has a response (R280 to R282). -/
theorem servesRequest.answered (h : servesRequest s k c) (htc : k.tc = 1 ∨ 3 ≤ k.tc) : Packet.answered k = true := by
  have hops : ∀ op ∈ servedOps, op ∉ collectiveOps := by decide
  simp [Packet.answered, Packet.isRequest, htc, hops _ h.op_mem]

end

section

variable {s u : State} {a : Arrival}
  (hu : u = { s with fabric := { s.fabric with heldSignals := s.fabric.heldSignals.erase a } })
include hu

theorem State.retrySignal_of_placed {v : State} (h : u.signal? a.packet.jobId (bits a.packet.arg0 31 0) 1 false = some v) :
    s.retrySignal a = (v.freeArrival a).sendPacket (v.responseTo a.packet stOK) := by
  simp only [State.retrySignal, ← hu, State.serveSignal_of_placed h]
  rfl

theorem State.retrySignal_of_full (h : u.signal? a.packet.jobId (bits a.packet.arg0 31 0) 1 false = none) :
    s.retrySignal a = { u with fabric := { u.fabric with heldSignals := u.fabric.heldSignals ++ [a] } } := by
  simp only [State.retrySignal, ← hu, State.serveSignal_of_full h]
  rfl

end

/-- Settles O31: a request by its op at an owner that serves it, by what stops it at one that does not, and one that waits. -/
theorem ownerServes : Obligations.OwnerServes := by
  refine ⟨fun s k a u h ha hu => ?_, fun s k a c hwf hnode ha hc => ?_, fun s k a hwf hheld u hu => ?_⟩
  · subst hu
    refine ⟨fun hop hok => ?_, fun hop hok => ?_, fun hop => ?_, fun hop => ?_, fun hop r hr => ?_,
      fun hop halign hok r st hst hr => ?_, fun hop hheld hok w hw => ⟨fun v hv => ?_, fun hfull => ?_⟩⟩
    · rw [exec_put h.wf hop, State.serveRequest_put_of_ok h ha hop hok]
    · rw [exec_get h.wf hop, State.serveRequest_get_of_ok h ha hop hok]
    · rw [exec_listGet h.wf hop, State.serveRequest_listGet h ha hop]
    · rw [exec_exactAcc h.wf hop, State.serveRequest_exactAcc h ha hop]
    · rw [exec_nmAcc h.wf hop, State.serveRequest_nmAcc h ha hop hr]
    · rw [exec_cas h.wf hop,
        State.serveRequest_cas_of_ok h ha hop halign hok (State.casStatus_iff.2 hst) hr]
      exact ⟨fun heq => by rw [if_pos heq], fun hne => by rw [if_neg hne]⟩
    · rw [exec_putSignal h.wf hop hheld,
        State.serveRequest_putSignal_of_placed h ha hop hok hw hv]
    · rw [exec_putSignal h.wf hop hheld,
        State.serveRequest_putSignal_of_full h ha hop hok hw hfull]
  · rw [exec_of_servesRequest hc hwf]
    refine ⟨fun hawake hjob => ?_, fun hawake hjob hchart => ?_, fun h hop st hst hok => ?_, fun h hop st hst hok => ?_,
      fun h hop halign => ?_, fun h hop halign st hst hok => ?_, fun hasleep htc => ?_⟩
    · rw [State.serveRequest_of_killed ha hnode hawake hjob]
    · rw [State.serveRequest_of_no_job ha hnode hawake hjob hchart]
    · rcases hop with hop | hop
      · rw [State.serveRequest_put_of_refused h ha hop hst hok]
      · rw [State.serveRequest_putSignal_of_refused h ha hop hst hok]
    · rw [State.serveRequest_get_of_refused h ha hop hst hok]
    · rw [State.serveRequest_cas_of_misaligned h ha hop halign]
    · rw [State.serveRequest_cas_of_refused h ha hop halign hst hok]
    · rw [State.serveRequest_of_asleep ha hnode hasleep (servesRequest.answered hc htc)]
  · obtain rfl : a.packet = k := by simpa using List.find?_some hheld
    rw [exec_putSignal_of_held hwf hheld]
    exact ⟨fun v hv => by rw [State.retrySignal_of_placed hu hv], fun hfull => by rw [State.retrySignal_of_full hu hfull]⟩

end

end Sys2Proof.Machine
end

section
namespace Sys2Proof.Machine

open Sys2Proof

section

-- As in the model's Laws: one declaration after another keeps the joined text within the check's memory.
set_option Elab.async false

/-! ### Commands of responses (R284, R293) -/

section

variable {s : State} {k : Packet} (hwf : k.wf = true) (hnode : s.node? = some k.dst ∨ s.node? = none)
include hwf hnode

/-- A response of an op but LIST_RESP ends its request. -/
theorem perform_takeResponse {c : Instr} {op : Nat} (hc : c.wf = k.wf) (hop : k.op = op) (hlist : op ≠ pktLIST_RESP) :
    perform c (s.takeResponse op k) =
      .next ((s.takeIn k).endRequest k.seq k.status k.poisonMap k.arg0 k.payload).settle := by
  simp only [perform_of_wf (hc.trans hwf), State.takeResponse, hop, hnode, hlist, and_self, if_true, if_false]

theorem exec_ack (hop : k.op = pktACK) : exec (.ack k) s =
    .next ((s.takeIn k).endRequest k.seq k.status k.poisonMap k.arg0 k.payload).settle :=
  perform_takeResponse (c := .ack k) hwf hnode rfl hop (by decide)

theorem exec_getResp (hop : k.op = pktGET_RESP) : exec (.getResp k) s =
    .next ((s.takeIn k).endRequest k.seq k.status k.poisonMap k.arg0 k.payload).settle :=
  perform_takeResponse (c := .getResp k) hwf hnode rfl hop (by decide)

theorem exec_casResp (hop : k.op = pktCAS_RESP) : exec (.casResp k) s =
    .next ((s.takeIn k).endRequest k.seq k.status k.poisonMap k.arg0 k.payload).settle :=
  perform_takeResponse (c := .casResp k) hwf hnode rfl hop (by decide)

theorem exec_listResp (hop : k.op = pktLIST_RESP) : exec (.listResp k) s = .next ((s.takeIn k).listResponse k).settle := by
  refine (perform_of_wf (c := .listResp k) hwf _).trans ?_
  simp only [State.takeResponse, hop, hnode, and_self, if_true]

end

theorem flag_decide (p : Prop) [Decidable p] : flag (decide p) = if p then 1 else 0 := by
  by_cases h : p <;> simp [flag, h]

/-! ### A request ends (R286, R288) -/

section

variable {u : State} {seq st map arg0 : Nat} {data : List Byte}

/-- A response to no outstanding request is counted. -/
theorem State.endRequest_of_stale (h : ∀ r ∈ u.fabric.requests, r.seq = seq → r.ended ≠ none) :
    u.endRequest seq st map arg0 data = u.bump Reg.FAB_CNT_STALE_RESP 1 := by
  have hnone : u.fabric.requests.find? (fun r => decide (r.seq = seq) && r.ended.isNone) = none := by simpa using h
  simp only [State.endRequest, hnone]

variable {r : Request} {t : Task}
  (hfind : u.fabric.requests.find? (fun r => decide (r.seq = seq) && r.ended.isNone) = some r)
  (htask : u.task? r.task = some t) (hawaits : t.awaitsResponses = true)
include hfind htask hawaits

/-- A request of a task that awaits responses ends, with what its answer brings to local memory. -/
theorem State.endRequest_of_awaited : u.endRequest seq st map arg0 data =
    (((if r.op = pktCAS ∧ (st = stOK ∨ st = stPOISON) then
        u.storePayload r.localAddr (leBytes 8 arg0) (flag (decide (st = stPOISON)))
      else if r.op = pktGET ∧ st = stOK then u.storePayload r.localAddr (sliceBytes data 0 r.length) map
      else u).setRequest { r with ended := some st }).dropClosed).remoteProgress r.task := by
  simp only [State.endRequest, hfind, htask, Option.map_some, Option.getD_some, hawaits, Bool.not_true, Bool.false_eq_true,
    if_false]

/-- Only a GET that succeeds and a CAS bring data. -/
theorem State.endRequest_without_data (hcas : r.op ≠ pktCAS) (hget : r.op ≠ pktGET ∨ st ≠ stOK) :
    u.endRequest seq st map arg0 data = ((u.setRequest { r with ended := some st }).dropClosed).remoteProgress r.task := by
  rw [State.endRequest_of_awaited hfind htask hawaits, if_neg (fun h => hcas h.1), if_neg (not_and_or.2 hget)]

theorem State.endRequest_of_get (hop : r.op = pktGET) (hst : st = stOK) :
    u.endRequest seq st map arg0 data =
      (((u.storePayload r.localAddr (sliceBytes data 0 r.length) map).setRequest { r with ended := some st }).dropClosed).remoteProgress
        r.task := by
  have hcas : r.op ≠ pktCAS := by rw [hop]; decide
  rw [State.endRequest_of_awaited hfind htask hawaits, if_neg (fun h => hcas h.1), if_pos ⟨hop, hst⟩]

theorem State.endRequest_of_cas (hop : r.op = pktCAS) (hst : st = stOK ∨ st = stPOISON) :
    u.endRequest seq st map arg0 data =
      (((u.storePayload r.localAddr (leBytes 8 arg0) (if st = stPOISON then 1 else 0)).setRequest
        { r with ended := some st }).dropClosed).remoteProgress r.task := by
  rw [State.endRequest_of_awaited hfind htask hawaits, if_pos ⟨hop, hst⟩, flag_decide]

end

/-! ### The response timer (R284) -/

theorem exec_responseTimeout (seq : Nat) (s : State) : exec (.responseTimeout seq) s = .next (s.responseTimeout seq).settle :=
  perform_of_wf (c := .responseTimeout seq) rfl _

section

variable {s : State} {seq : Nat}

theorem State.responseTimeout_of_none
    (h : s.fabric.requests.find? (fun r => decide (r.seq = seq) && r.ended.isNone) = none) : s.responseTimeout seq = s := by
  simp only [State.responseTimeout, h]

variable {r : Request} (hfind : s.fabric.requests.find? (fun r => decide (r.seq = seq) && r.ended.isNone) = some r)
include hfind

/-- The timer of a request whose last flit has not left does not run. -/
theorem State.responseTimeout_of_unsent (h : r.sentAt = none) : s.responseTimeout seq = s := by
  simp only [State.responseTimeout, hfind, State.responseDue, h, Option.map_none]

variable {left : Nat} (hleft : r.sentAt = some left)
include hleft

/-- The timer of one that has left decides. -/
theorem State.responseTimeout_of_sent : s.responseTimeout seq =
    if s.now < roundUp (left + s.reg Reg.FAB_CFG_resp_us * 100) 100 then s
    else if r.op = pktLIST_GET then
      ((s.bump Reg.FAB_CNT_RESP_TIMEOUT 1).failReplies r stTRUNC).setRequest { r with ended := some stTRUNC }
    else (s.bump Reg.FAB_CNT_RESP_TIMEOUT 1).endRequest seq stTRUNC 0 0 [] := by
  simp only [State.responseTimeout, hfind, State.responseDue, hleft, Option.map_some]

theorem State.responseTimeout_of_early (h : s.now < roundUp (left + s.reg Reg.FAB_CFG_resp_us * 100) 100) :
    s.responseTimeout seq = s := by
  rw [State.responseTimeout_of_sent hfind hleft, if_pos h]

theorem State.responseTimeout_of_due (h : roundUp (left + s.reg Reg.FAB_CFG_resp_us * 100) 100 ≤ s.now)
    (hop : r.op ≠ pktLIST_GET) :
    s.responseTimeout seq = (s.bump Reg.FAB_CNT_RESP_TIMEOUT 1).endRequest seq stTRUNC 0 0 [] := by
  rw [State.responseTimeout_of_sent hfind hleft, if_neg (Nat.not_lt.2 h), if_neg hop]

/-- A list get that expires fails for each of its rows. -/
theorem State.responseTimeout_of_due_list (h : roundUp (left + s.reg Reg.FAB_CFG_resp_us * 100) 100 ≤ s.now)
    (hop : r.op = pktLIST_GET) :
    s.responseTimeout seq =
      ((s.bump Reg.FAB_CNT_RESP_TIMEOUT 1).failReplies r stTRUNC).setRequest { r with ended := some stTRUNC } := by
  rw [State.responseTimeout_of_sent hfind hleft, if_neg (Nat.not_lt.2 h), if_pos hop]

end

/-- Settles O32: each response by what its request waits for, and the timer by when the request's last flit left. -/
theorem responses : Obligations.Responses := by
  intro s k hwf hnode
  refine ⟨exec_ack hwf hnode, exec_getResp hwf hnode, exec_listResp hwf hnode, exec_casResp hwf hnode,
    fun u st map arg0 data => State.endRequest_of_stale, fun u r t st map arg0 data hfind htask hawaits => ⟨fun hop => ?_,
      State.endRequest_of_get hfind htask hawaits, State.endRequest_of_cas hfind htask hawaits⟩,
    fun hnone => ?_, fun r hfind => ⟨fun hunsent => ?_, fun left hleft => ⟨fun hearly => ?_, fun hdue => ⟨fun hop => ?_, fun hop => ?_⟩⟩⟩⟩
  · have hdata : r.op ≠ pktCAS ∧ (r.op ≠ pktGET ∨ st ≠ stOK) := by
      simp only [pktPUT, pktEXACT_ACC, pktNM_ACC, pktPUT_SIGNAL, pktGET, pktCAS] at hop ⊢
      omega
    exact State.endRequest_without_data hfind htask hawaits hdata.1 hdata.2
  · rw [exec_responseTimeout, State.responseTimeout_of_none hnone]
  · rw [exec_responseTimeout, State.responseTimeout_of_unsent hfind hunsent]
  · rw [exec_responseTimeout, State.responseTimeout_of_early hfind hleft hearly]
  · rw [exec_responseTimeout, State.responseTimeout_of_due hfind hleft hdue hop]
  · rw [exec_responseTimeout, State.responseTimeout_of_due_list hfind hleft hdue hop]

end

end Sys2Proof.Machine
end

section
namespace Sys2Proof.Machine

open Sys2Proof

section

-- As in the model's Laws: one declaration after another keeps the joined text within the check's memory.
set_option Elab.async false

/-! ### Commands of flits on a port (R294) -/

section

variable {p : Nat} (hp : p < 8) (s : State)
include hp

theorem exec_flitReceive {value : Nat} (hvalue : value < 2 ^ 514) (seq unit fec : Nat) :
    exec (.flitReceive p seq unit fec value) s = .next (if s.linkRuns p then s.unitArrives p seq unit fec value else s) :=
  perform_of_wf (c := .flitReceive p seq unit fec value) (Bool.and_eq_true_iff.2 ⟨decide_eq_true hp, decide_eq_true hvalue⟩) _

theorem exec_ackCredit {freed : List Nat} (hfreed : freed.length = 16) (ackSeq : Nat) :
    exec (.ackCredit p ackSeq freed) s =
      .next (if s.linkRuns p then ((s.heard p).onAckCredit p ackSeq freed).resetIfSent else s) :=
  perform_of_wf (c := .ackCredit p ackSeq freed) (Bool.and_eq_true_iff.2 ⟨decide_eq_true hp, decide_eq_true hfreed⟩) _

theorem exec_nak (expected : Nat) :
    exec (.nak p expected) s = .next (if s.linkRuns p then (s.heard p).onNak p expected else s) :=
  perform_of_wf (c := .nak p expected) (decide_eq_true hp) _

theorem exec_keepalive : exec (.keepalive p) s = .next (if s.linkRuns p then s.heard p else s) :=
  perform_of_wf (c := .keepalive p) (decide_eq_true hp) _

end

/-! ### A unit by its type, its CRC and its number (R271, R272, R274) -/

section

variable {s v : State} {p seq unit fec value : Nat} (hv : v = (s.heard p).fecResult p unit fec)
include hv

/-- An idle unit is heard. -/
theorem State.unitArrives_of_idle (htype : unitTypeOf value = 0) : s.unitArrives p seq unit fec value = v := by
  simp only [State.unitArrives, ← hv, htype, if_true]

section

variable (htype : unitTypeOf value = 1)
include htype

/-- An intact control flit acts by its kind. -/
theorem State.unitArrives_of_control (hfec : fec < 2) (hintact : flitIntact 1 (unitFlit value) = true) :
    s.unitArrives p seq unit fec value = v.onControl p ((unitFlit value).take 60) := by
  simp [State.unitArrives, ← hv, htype, hintact, Nat.not_le.2 hfec]

/-- A damaged one is counted. -/
theorem State.unitArrives_of_damaged_control (hbad : 2 ≤ fec ∨ flitIntact 1 (unitFlit value) = false) :
    s.unitArrives p seq unit fec value = v.bump (Reg.FAB_P_CNT_CRC p) 1 := by
  simp [State.unitArrives, ← hv, htype, hbad]

end

variable (htype : 2 ≤ unitTypeOf value)
include htype

/-- A damaged numbered flit is counted and discarded. -/
theorem State.unitArrives_of_damaged (hbad : 2 ≤ fec ∨ flitIntact (unitTypeOf value) (unitFlit value) = false) :
    s.unitArrives p seq unit fec value = (v.bump (Reg.FAB_P_CNT_CRC p) 1).discardFlit p := by
  have hne : unitTypeOf value ≠ 0 := by omega
  simp [State.unitArrives, ← hv, htype, hne, hbad]

variable (hfec : fec < 2) (hintact : flitIntact (unitTypeOf value) (unitFlit value) = true)
include hfec hintact

/-- An intact one is accepted where it is the expected one, and else discarded. -/
theorem State.unitArrives_of_intact : s.unitArrives p seq unit fec value =
    if seq % 65536 ≠ (v.port p).rxExpected then v.discardFlit p else v.acceptFlit p (unitTypeOf value) (unitFlit value) := by
  have hne : unitTypeOf value ≠ 0 := by omega
  simp [State.unitArrives, ← hv, htype, hne, hintact, Nat.not_le.2 hfec]

theorem State.unitArrives_of_expected (hseq : seq % 65536 = (v.port p).rxExpected) :
    s.unitArrives p seq unit fec value = v.acceptFlit p (unitTypeOf value) (unitFlit value) := by
  rw [State.unitArrives_of_intact hv htype hfec hintact, if_neg (not_not_intro hseq)]

theorem State.unitArrives_of_unexpected (hseq : seq % 65536 ≠ (v.port p).rxExpected) :
    s.unitArrives p seq unit fec value = v.discardFlit p := by
  rw [State.unitArrives_of_intact hv htype hfec hintact, if_pos hseq]

end

/-- A discarded flit is answered with a NAK unless one is outstanding (R274). -/
theorem State.discardFlit_of_no_nak {v : State} {p : Nat} (h : (v.port p).nakAt = none) : v.discardFlit p = v.sendNak p := by
  simp [State.discardFlit, h]

theorem State.discardFlit_of_nak {v : State} {p : Nat} (h : (v.port p).nakAt ≠ none) : v.discardFlit p = v := by
  simp [State.discardFlit, Option.isSome_iff_ne_none, h]

/-! ### ACK_CREDIT and NAK (R274, R275) -/

section

variable {h : State} {p n : Nat}

section

variable {ackSeq : Nat} {freed : List Nat} (hn : n = (ackSeq + 1 + 65536 - (h.port p).replayFirst % 65536) % 65536)
include hn

/-- An acknowledgement of flits that the replay buffer holds frees them. -/
theorem State.onAckCredit_of_progress (hpos : 0 < n) (hle : n ≤ (h.port p).replay.length) :
    h.onAckCredit p ackSeq freed = (h.setPort p
      { h.port p with
        txFreed := freed.map (· % 65536), replay := (h.port p).replay.drop n,
        replayFirst := ((h.port p).replayFirst + n) % 65536, lastProgressAt := h.now }).pump p := by
  simp only [State.onAckCredit, ← hn, hpos, hle, and_self, if_true]

/-- Another one brings the peer's freed counts alone. -/
theorem State.onAckCredit_of_no_progress (hno : n = 0 ∨ (h.port p).replay.length < n) :
    h.onAckCredit p ackSeq freed = (h.setPort p { h.port p with txFreed := freed.map (· % 65536) }).pump p := by
  have hnot : ¬ (0 < n ∧ n ≤ (h.port p).replay.length) := by omega
  simp only [State.onAckCredit, ← hn, hnot, if_false]

end

variable {expected run : Nat}
  (hrun : run = (if (h.port p).nakRun ≠ 0 ∧ (h.port p).nakSeq = expected then (h.port p).nakRun + 1 else 1))
include hrun

/-- The eighth NAK in a row for one flit takes the link down. -/
theorem State.onNak_of_eighth (hle : 8 ≤ run) : h.onNak p expected = h.linkDown p 9 := by
  simp only [State.onNak, ← hrun, hle, if_true]

variable (hlt : run < 8) (hn : n = (expected + 65536 - (h.port p).replayFirst % 65536) % 65536)
include hlt hn

theorem State.onNak_of_held (hheld : n < (h.port p).replay.length) :
    h.onNak p expected = (h.setPort p { h.port p with nakRun := run, nakSeq := expected }).resend p n := by
  simp only [State.onNak, ← hrun, ← hn, Nat.not_le.2 hlt, if_false, hheld, if_true]

theorem State.onNak_of_not_held (hnot : (h.port p).replay.length ≤ n) :
    h.onNak p expected = h.setPort p { h.port p with nakRun := run, nakSeq := expected } := by
  simp only [State.onNak, ← hrun, ← hn, Nat.not_le.2 hlt, if_false, Nat.not_lt.2 hnot]

end

/-- A module that is ready for its reset, and has no answer of its own that waits to leave, resets (R319). -/
theorem State.resetIfSent_of_ready {s : State} {r : SysReset} (hr : s.sysreset = some r) (hready : r.ready = true)
    (hsent : ∀ x ∈ s.fabric.ports, ∀ o ∈ x.queue, o.vc / 2 = 7 → o.source ≠ none) : s.resetIfSent = s.moduleReset := by
  have hwaits : s.fabric.ports.any (fun x => x.queue.any (fun o => decide (o.vc / 2 = 7) && o.source.isNone)) = false := by
    simpa using hsent
  simp [State.resetIfSent, hr, hready, hwaits]

/-- Settles O33: each flit by its kind on a link that runs, and none on one that does not. -/
theorem flits : Obligations.Flits := by
  refine ⟨fun s p x h hp hruns hx hh => ?_, fun s p hp hdown => ?_, fun s hsent =>
    ⟨fun r hr hready => State.resetIfSent_of_ready hr hready hsent, fun hready => State.resetIfSent_of_not_ready ?_⟩⟩
  · obtain rfl : h = s.heard p := by
      rw [hh, hx]
      rfl
    refine ⟨fun seq unit fec value lane word flit v hvalue hflit hlane hword hv => ?_,
      fun v => ⟨State.discardFlit_of_no_nak, State.discardFlit_of_nak⟩, fun ackSeq n freed hfreed hn => ?_,
      fun e n hn run hrun => ?_, ?_⟩
    · have hfec : v = (s.heard p).fecResult p unit fec := by
        rw [hv, hlane, hword]
        rfl
      rw [exec_flitReceive hp s hvalue, if_pos hruns]
      subst hflit
      refine ⟨fun htype => ?_, fun htype hlt hintact hseq => ?_, fun htype hlt hintact hseq => ?_, fun htype hbad => ?_,
        fun htype hlt hintact => ?_, fun htype hbad => ?_⟩
      · rw [State.unitArrives_of_idle hfec htype]
      · rw [State.unitArrives_of_expected hfec htype hlt hintact hseq]
      · rw [State.unitArrives_of_unexpected hfec htype hlt hintact hseq]
      · rw [State.unitArrives_of_damaged hfec htype hbad]
      · rw [State.unitArrives_of_control hfec htype hlt hintact]
      · rw [State.unitArrives_of_damaged_control hfec htype hbad]
    · rw [exec_ackCredit hp s hfreed, if_pos hruns]
      refine ⟨fun hpos hle => ?_, fun hno => ?_⟩
      · rw [State.onAckCredit_of_progress hn hpos hle]
        rfl
      · rw [State.onAckCredit_of_no_progress hn hno]
    · rw [exec_nak hp, if_pos hruns]
      refine ⟨fun hle => ?_, fun hlt hheld => ?_, fun hlt hnot => ?_⟩
      · rw [State.onNak_of_eighth hrun hle]
      · rw [State.onNak_of_held hrun hlt hn hheld]
      · rw [State.onNak_of_not_held hrun hlt hn hnot]
    · rw [exec_keepalive hp, if_pos hruns]
  · have hnot : ¬ s.linkRuns p = true := by simp [hdown]
    refine ⟨fun seq unit fec value hvalue => ?_, fun ackSeq freed hfreed => ?_, fun e => ?_, ?_⟩
    · rw [exec_flitReceive hp s hvalue, if_neg hnot]
    · rw [exec_ackCredit hp s hfreed, if_neg hnot]
    · rw [exec_nak hp, if_neg hnot]
    · rw [exec_keepalive hp, if_neg hnot]
  · cases hr : s.sysreset with
    | none => rfl
    | some r => exact hready r hr

end

end Sys2Proof.Machine
end

section
namespace Sys2Proof.Machine

open Sys2Proof

section

-- As in the model's Laws: one declaration after another keeps the joined text within the check's memory.
set_option Elab.async false

/-! ### Commands with a condition -/

/-- A command that acts under a condition, and else leaves the state. -/
theorem perform_ite {c : Instr} (hc : c.wf = true) {b : Bool} {P : Prop} [Decidable P] (h : b = true ↔ P) (t s : State) :
    perform c (if b then t else s) = .next (if P then t else s) := by
  rw [perform_of_wf hc]
  exact congrArg _ (if_congr h rfl rfl)

/-! ### Commands of the identity, Chart and width flits, and of the timers of a link (R294 to R297) -/

section

variable {p : Nat} (hp : p < 8) (s : State)
include hp

theorem exec_ident (part : Nat) (content : List Byte) :
    exec (.ident p part content) s = .next (if s.linkRuns p then (s.heard p).onIdent p part content else s) :=
  perform_of_wf (c := .ident p part content) (decide_eq_true hp) _

theorem exec_chart {digest : List Byte} (hdigest : digest.length = 32) (part st node system : Nat) :
    exec (.chart p part st node system digest) s =
      .next (if s.linkRuns p then (s.heard p).onChart p part st node system digest else s) :=
  perform_of_wf (c := .chart p part st node system digest) (Bool.and_eq_true_iff.2 ⟨decide_eq_true hp, decide_eq_true hdigest⟩) _

theorem exec_width (code : Nat) :
    exec (.width p code) s = .next (if s.linkRuns p then (s.heard p).onWidth p code else s) :=
  perform_of_wf (c := .width p code) (decide_eq_true hp) _

theorem exec_nakRepeat_of_no_nak (h : (s.port p).nakAt = none) : exec (.nakRepeat p) s = .next s := by
  refine (perform_of_wf (c := .nakRepeat p) (decide_eq_true hp) _).trans ?_
  rw [h]

theorem exec_nakRepeat_of_nak {sent : Nat} (h : (s.port p).nakAt = some sent) :
    exec (.nakRepeat p) s = .next (if s.linkRuns p = true ∧ sent + 100 ≤ s.now then s.sendNak p else s) := by
  refine Eq.trans ?_ (perform_ite (c := .nakRepeat p) (decide_eq_true hp)
    (show (s.linkRuns p && s.due (sent + 100)) = true ↔ _ by simp [State.due]) (s.sendNak p) s)
  show perform _ (match (s.port p).nakAt with | some t => _ | none => s) = _
  rw [h]

theorem exec_ackTimer : exec (.ackTimer p) s =
    .next (if s.linkRuns p = true ∧ (s.port p).lastAckAt + 10 ≤ s.now then s.sendAck p else s) :=
  perform_ite (c := .ackTimer p) (decide_eq_true hp) (by simp [State.due]) _ s

theorem exec_ackProgressTimeout : exec (.ackProgressTimeout p) s =
    .next (if s.linkRuns p = true ∧ (s.port p).replay ≠ [] ∧ (s.port p).lastProgressAt + 10000 ≤ s.now then s.linkDown p 9
      else s) :=
  perform_ite (c := .ackProgressTimeout p) (decide_eq_true hp) (by simp [State.due, and_assoc]) _ s

theorem exec_chartResend : exec (.chartResend p) s =
    .next (if s.linkRuns p = true ∧ (s.port p).identified = true ∧ s.portState p ≠ psUP ∧
      (s.port p).chartSentAt + 10000 ≤ s.now then s.sendChart p else s) :=
  perform_ite (c := .chartResend p) (decide_eq_true hp) (by simp [State.due, and_assoc]) _ s

theorem exec_keepaliveTimer : exec (.keepaliveTimer p) s =
    .next (if s.linkRuns p = true ∧ s.reg (Reg.FAB_P_STATE_narrow p) = 1 ∧ (s.port p).lastKeepaliveAt + 1000 ≤ s.now then
      (s.setPort p { s.port p with lastKeepaliveAt := s.now }).sendControl p (leBytes 1 3) else s) :=
  perform_ite (c := .keepaliveTimer p) (decide_eq_true hp) (by simp [State.due, and_assoc]) _ s

theorem exec_returnTo16Lanes : exec (.returnTo16Lanes p) s =
    .next (if s.linkRuns p = true ∧ (s.port p).widening = true then
      (s.setPort p { s.port p with widening := false, fullAsked := false, fecCounted := List.replicate 16 0 }).setReg
        (Reg.FAB_P_STATE_narrow p) 0 else s) :=
  perform_ite (c := .returnTo16Lanes p) (decide_eq_true hp) (by simp) _ s

theorem exec_keepaliveLost : exec (.keepaliveLost p) s =
    .next (if s.linkRuns p = true ∧ (s.port p).lastFlitAt + 100000 ≤ s.now then s.linkDown p 10 else s) :=
  perform_ite (c := .keepaliveLost p) (decide_eq_true hp) (by simp [State.due]) _ s

theorem exec_fecLockLost : exec (.fecLockLost p) s = .next (if s.linkRuns p then s.linkDown p 0 else s) :=
  perform_of_wf (c := .fecLockLost p) (decide_eq_true hp) _

/-- On a link that does not run no timer does anything. -/
theorem exec_timers_of_down (hdown : s.linkRuns p = false) :
    ∀ c ∈ [Instr.nakRepeat p, .ackTimer p, .ackProgressTimeout p, .chartResend p, .keepaliveTimer p, .returnTo16Lanes p,
      .keepaliveLost p, .fecLockLost p], exec c s = .next s := by
  have hnak : exec (.nakRepeat p) s = .next s := by
    cases hsent : (s.port p).nakAt with
    | none => exact exec_nakRepeat_of_no_nak hp s hsent
    | some sent => rw [exec_nakRepeat_of_nak hp s hsent, if_neg (by simp [hdown])]
  simp [hnak, exec_ackTimer hp, exec_ackProgressTimeout hp, exec_chartResend hp, exec_keepaliveTimer hp, exec_returnTo16Lanes hp,
    exec_keepaliveLost hp, exec_fecLockLost hp, hdown]

variable {vc : Nat} (hvc : vc < 16)
include hvc

theorem exec_packetGapTimeout_of_none (h : ∀ o ∈ (s.port p).open_, o.vc ≠ vc) : exec (.packetGapTimeout p vc) s = .next s := by
  have hnone : (s.port p).open_.find? (fun o => decide (o.vc = vc)) = none := by simpa using h
  refine (perform_of_wf (c := .packetGapTimeout p vc) (Bool.and_eq_true_iff.2 ⟨decide_eq_true hp, decide_eq_true hvc⟩) _).trans ?_
  rw [hnone]

theorem exec_packetGapTimeout_of_open {o : OpenPacket} (h : (s.port p).open_.find? (fun o => decide (o.vc = vc)) = some o) :
    exec (.packetGapTimeout p vc) s =
      .next (if roundUp (o.lastAt + s.reg Reg.FAB_CFG_gap_us * 100) 100 ≤ s.now then s.truncatePacket p o else s) := by
  refine Eq.trans ?_ (perform_ite (c := .packetGapTimeout p vc) (Bool.and_eq_true_iff.2 ⟨decide_eq_true hp, decide_eq_true hvc⟩)
    (show s.due (s.gapDue o) = true ↔ s.gapDue o ≤ s.now from decide_eq_true_iff) (s.truncatePacket p o) s)
  show perform _ (match (s.port p).open_.find? _ with | some o => _ | none => s) = _
  rw [h]

end

/-! ### An identity part (R295, R412, R419) -/

section

variable {h : State} {p part : Nat} {content : List Byte}

theorem State.onIdent_of_other_state (hstate : h.portState p ≠ psIDENTITY) : h.onIdent p part content = h := if_pos hstate

variable (hstate : h.portState p = psIDENTITY)
include hstate

/-- A module without an identity of its own quarantines the port. -/
theorem State.onIdent_of_no_identity (hvalid : h.reg Reg.SEC_STATUS_identity_valid = 0) :
    h.onIdent p part content = h.setLink p psQUARANTINE 3 := by
  simp only [State.onIdent, hstate, hvalid, ne_eq, not_true_eq_false, if_false, if_true]

variable (hvalid : h.reg Reg.SEC_STATUS_identity_valid ≠ 0)
include hvalid

theorem State.onIdent_of_nonce : h.onIdent p 0 content =
    (h.setPort p { h.port p with peerNonce := sliceBytes content 0 32 }).sendStatement p := by
  simp only [State.onIdent, hstate, hvalid, ne_eq, not_true_eq_false, if_false, if_true]

variable (hpart : part ≠ 0)
include hpart

theorem State.onIdent_of_ignored (hno : 6 ≤ part ∨ (h.port p).peerNonce = []) : h.onIdent p part content = h := by
  simp only [State.onIdent, hstate, hvalid, hpart, hno, ne_eq, not_true_eq_false, if_false, if_true]

/-- A part of the statement is kept, and with all five the statement decides. -/
theorem State.onIdent_of_part (hle : part ≤ 5) (hnonce : (h.port p).peerNonce ≠ []) {parts : List (Nat × List Byte)}
    {found : List (List Byte)} {m : List Byte} {g : State}
    (hparts : parts = (h.port p).parts.filter (fun q => !decide (q.1 = part)) ++ [(part, sliceBytes content 0 56)])
    (hfound : found = (List.range 5).filterMap (fun i => (parts.find? (fun q => decide (q.1 = i + 1))).map (·.2)))
    (hm : m = found.flatten.take 242) (hg : g = h.setPort p { h.port p with parts := parts }) :
    h.onIdent p part content =
      if found.length < 5 then g
      else if (h.port p).statementVerifies m then g.judgePeer p (sliceBytes m 4 57) (fieldLe m 0x3E 2)
      else g.setLink p psQUARANTINE 3 := by
  have hkept : ¬ (6 ≤ part ∨ (h.port p).peerNonce = []) := by
    rintro (hge | hnil)
    · omega
    · exact hnonce hnil
  simp only [State.onIdent, hstate, hvalid, hpart, hkept, ne_eq, not_true_eq_false, if_false, ← hparts, ← hfound, ← hm, ← hg]

end

/-! ### A WIDTH flit (R297) -/

section

variable {h : State} {p : Nat}

theorem State.onWidth_of_not_up (hstate : h.portState p ≠ psUP) (code : Nat) : h.onWidth p code = h := if_pos hstate

variable (hup : h.portState p = psUP)
include hup

theorem State.onWidth_of_narrow_request : h.onWidth p 0 = (h.sendWidth p 1).narrowed p := if_neg (not_not_intro hup)

theorem State.onWidth_of_narrow_grant : h.onWidth p 1 = if (h.port p).narrowAsked then h.narrowed p else h :=
  if_neg (not_not_intro hup)

theorem State.onWidth_of_full_request : h.onWidth p 2 =
    if h.reg (Reg.FAB_P_STATE_narrow p) = 1 then (h.sendWidth p 3).setPort p { h.port p with widening := true } else h :=
  if_neg (not_not_intro hup)

theorem State.onWidth_of_full_grant : h.onWidth p 3 =
    if (h.port p).fullAsked then h.setPort p { h.port p with widening := true } else h :=
  if_neg (not_not_intro hup)

end

/-! ### A CHART part (R296) -/

theorem State.onChart_of_later_part {h : State} {p part : Nat} (hpart : 2 ≤ part) (st node system : Nat) (digest : List Byte) :
    h.onChart p part st node system digest = h := by
  have h0 : part ≠ 0 := by omega
  have h1 : part ≠ 1 := by omega
  simp only [State.onChart, h0, h1, if_false]

/-- Settles O34: each control flit by its parts, each timer by its time, and neither on a link that does not run. -/
theorem controlFlitsAndTimers : Obligations.ControlFlitsAndTimers := by
  refine ⟨fun s p h hp hruns hh => ?_, fun s p x hp hruns hx => ?_, fun s p hp => ⟨fun hdown => ?_, fun vc hvc => ?_⟩⟩
  · obtain rfl : h = s.heard p := hh
    refine ⟨fun part content => ?_, fun part st node system digest hdigest => ?_, fun hstate code => ?_, fun hup => ?_⟩
    · have hident : ∀ part, exec (.ident p part content) s = .next ((s.heard p).onIdent p part content) := fun part => by
        rw [exec_ident hp, if_pos hruns]
      refine ⟨fun hstate => ?_, fun hstate hvalid => ?_, fun hstate hvalid => ⟨?_, fun hpart hno => ?_,
        fun hge hle hnonce parts found m g hparts hfound hm hg => ?_⟩⟩
      · rw [hident, State.onIdent_of_other_state (h := s.heard p) hstate]
      · rw [hident, State.onIdent_of_no_identity (h := s.heard p) hstate hvalid]
      · rw [hident, State.onIdent_of_nonce (h := s.heard p) hstate hvalid]
      · rw [hident, State.onIdent_of_ignored (h := s.heard p) hstate hvalid hpart hno]
      · rw [hident, State.onIdent_of_part (h := s.heard p) hstate hvalid (Nat.ne_of_gt hge) hle hnonce hparts hfound hm hg]
        refine ⟨fun hfew => by rw [if_pos hfew], fun hall hverified => ?_, fun hall hbad => ?_⟩
        · rw [if_neg (Nat.not_lt.2 hall), if_pos hverified]
        · rw [if_neg (Nat.not_lt.2 hall), if_neg (by simp [hbad])]
    · have hchart : ∀ part, exec (.chart p part st node system digest) s =
          .next ((s.heard p).onChart p part st node system digest) := fun part => by
        rw [exec_chart hp s hdigest, if_pos hruns]
      refine ⟨?_, ?_, fun hpart => ?_⟩
      · rw [hchart]
        rfl
      · rw [hchart]
        rfl
      · rw [hchart, State.onChart_of_later_part hpart]
    · rw [exec_width hp, if_pos hruns, State.onWidth_of_not_up (h := s.heard p) hstate]
    · have hwidth : ∀ code, exec (.width p code) s = .next ((s.heard p).onWidth p code) := fun code => by
        rw [exec_width hp, if_pos hruns]
      refine ⟨?_, fun hasked => ?_, fun hasked => ?_, fun hnarrow => ?_, fun hwide => ?_, fun hasked => ?_, fun hasked => ?_⟩
      · rw [hwidth, State.onWidth_of_narrow_request (h := s.heard p) hup]
      · rw [hwidth, State.onWidth_of_narrow_grant (h := s.heard p) hup, if_pos hasked]
      · rw [hwidth, State.onWidth_of_narrow_grant (h := s.heard p) hup, if_neg (by simp [hasked])]
      · rw [hwidth, State.onWidth_of_full_request (h := s.heard p) hup]
        exact congrArg _ (if_pos hnarrow)
      · rw [hwidth, State.onWidth_of_full_request (h := s.heard p) hup]
        exact congrArg _ (if_neg hwide)
      · rw [hwidth, State.onWidth_of_full_grant (h := s.heard p) hup, if_pos hasked]
      · rw [hwidth, State.onWidth_of_full_grant (h := s.heard p) hup, if_neg (by simp [hasked])]
  · subst hx
    refine ⟨fun sent hsent => ?_, exec_nakRepeat_of_no_nak hp s, fun hdue => ?_, fun hearly => ?_, fun hheld hdue => ?_, fun hno => ?_,
      fun hid hstate hdue => ?_, fun hno => ?_, fun hnarrow hdue => ?_, fun hno => ?_, fun hwidening => ?_, fun hno => ?_,
      fun hdue => ?_, fun hearly => ?_, ?_⟩
    · rw [exec_nakRepeat_of_nak hp s hsent]
      exact ⟨fun hdue => by rw [if_pos ⟨hruns, hdue⟩], fun hearly => by rw [if_neg (fun h => Nat.not_le.2 hearly h.2)]⟩
    · rw [exec_ackTimer hp, if_pos ⟨hruns, hdue⟩]
    · rw [exec_ackTimer hp, if_neg (fun h => Nat.not_le.2 hearly h.2)]
    · rw [exec_ackProgressTimeout hp, if_pos ⟨hruns, hheld, hdue⟩]
    · rw [exec_ackProgressTimeout hp, if_neg (fun ⟨_, hheld, hdue⟩ => hno.elim hheld (Nat.not_lt.2 hdue))]
    · rw [exec_chartResend hp, if_pos ⟨hruns, hid, hstate, hdue⟩]
    · rw [exec_chartResend hp, if_neg]
      rintro ⟨_, hid, hstate, hdue⟩
      rcases hno with hno | hno | hno
      · rw [hid] at hno
        cases hno
      · exact hstate hno
      · exact Nat.not_lt.2 hdue hno
    · rw [exec_keepaliveTimer hp, if_pos ⟨hruns, hnarrow, hdue⟩]
      rfl
    · rw [exec_keepaliveTimer hp, if_neg (fun ⟨_, hnarrow, hdue⟩ => hno.elim (not_not_intro hnarrow) (Nat.not_lt.2 hdue))]
    · rw [exec_returnTo16Lanes hp, if_pos ⟨hruns, hwidening⟩]
    · rw [exec_returnTo16Lanes hp, if_neg (by simp [hno])]
    · rw [exec_keepaliveLost hp, if_pos ⟨hruns, hdue⟩]
    · rw [exec_keepaliveLost hp, if_neg (fun h => Nat.not_le.2 hearly h.2)]
    · rw [exec_fecLockLost hp, if_pos hruns]
  · have hnot : ¬ s.linkRuns p = true := by simp [hdown]
    refine ⟨?_, fun part content => ?_, fun code => ?_, fun part st node system digest hdigest => ?_⟩
    · exact exec_timers_of_down hp s hdown
    · rw [exec_ident hp, if_neg hnot]
    · rw [exec_width hp, if_neg hnot]
    · rw [exec_chart hp s hdigest, if_neg hnot]
  · refine ⟨fun o ho => ?_, exec_packetGapTimeout_of_none hp s hvc⟩
    rw [exec_packetGapTimeout_of_open hp s hvc ho]
    exact ⟨fun hdue => by rw [if_pos hdue], fun hearly => by rw [if_neg (Nat.not_le.2 hearly)]⟩

end

end Sys2Proof.Machine
end

section
namespace Sys2Proof.Machine

open Sys2Proof

section

-- As in the model's Laws: one declaration after another keeps the joined text within the check's memory.
set_option Elab.async false

/-! ### Commands of training and acceptance (R294, R295, R298) -/

section

variable {p : Nat} (hp : p < 8) (s : State)
include hp

theorem exec_linkTrainStart : exec (.linkTrainStart p) s =
    .next (if s.mayTrain p = true ∧ (s.portState p = psDOWN ∨ s.reg (Reg.FAB_P_CTRL_retrain p) = 1) then s.startTraining p
      else s) :=
  perform_ite (c := .linkTrainStart p) (decide_eq_true hp) (by simp) _ s

theorem exec_trainingRetry : exec (.trainingRetry p) s =
    .next (if s.mayTrain p = true ∧ s.portState p = psDOWN ∧ (s.port p).downAt + 100000000 ≤ s.now then s.startTraining p
      else s) :=
  perform_ite (c := .trainingRetry p) (decide_eq_true hp) (by simp [State.due, and_assoc]) _ s

/-- Outside training the end of equalisation finds nothing to end. -/
theorem exec_equalisationEnd_of_not_training (h : s.portState p ≠ psTRAINING) (ok : Bool) :
    exec (.equalisationEnd p ok) s = .next s :=
  (perform_of_wf (c := .equalisationEnd p ok) (decide_eq_true hp) _).trans (congrArg _ (if_pos h))

theorem exec_equalisationEnd_of_training (h : s.portState p = psTRAINING) (ok : Bool) :
    exec (.equalisationEnd p ok) s =
      .next (if ok then s.setPort p { s.port p with coefficients := true, equalised := true }
        else s.linkDown p (s.reg (Reg.FAB_P_STATE_reason p))) :=
  (perform_of_wf (c := .equalisationEnd p ok) (decide_eq_true hp) _).trans (congrArg _ (if_neg (not_not_intro h)))

/-- Alignment ends only after equalisation has. -/
theorem exec_alignmentEnd_of_not_equalised (h : s.portState p ≠ psTRAINING ∨ (s.port p).equalised = false) (ok : Bool)
    (nonce : Nonce) : exec (.alignmentEnd p ok nonce) s = .next s :=
  (perform_of_wf (c := .alignmentEnd p ok nonce) (decide_eq_true hp) _).trans (congrArg _ (if_pos h))

theorem exec_alignmentEnd_of_equalised (hstate : s.portState p = psTRAINING) (hequalised : (s.port p).equalised = true)
    (ok : Bool) (nonce : Nonce) : exec (.alignmentEnd p ok nonce) s =
      .next (if ok then
        (((s.clearPort p).setPort p
            { (s.clearPort p).port p with
              ownNonce := sliceBytes nonce 0 32, lastFlitAt := s.now, lastAckAt := s.now, lastKeepaliveAt := s.now }).setLink
          p psIDENTITY (s.reg (Reg.FAB_P_STATE_reason p))).sendIdent p 0 (sliceBytes nonce 0 32)
        else s.linkDown p (s.reg (Reg.FAB_P_STATE_reason p))) :=
  (perform_of_wf (c := .alignmentEnd p ok nonce) (decide_eq_true hp) _).trans
    (congrArg _ (if_neg (by simp [hstate, hequalised])))

variable {s} (hs : hostServes s)
include hs

/-- ACCEPT finds a peer whose statement has verified from QUARANTINE on, but for a port that a failed statement has put there. -/
theorem exec_accept : exec (.accept p) s =
    .next (if psQUARANTINE ≤ s.portState p ∧ ¬ (s.portState p = psQUARANTINE ∧ s.reg (Reg.FAB_P_STATE_reason p) = 3) then
      s.acceptPeer p else s) := by
  refine (perform_of_wf (c := .accept p) (decide_eq_true hp) _).trans ?_
  rw [State.hostWrite_of_hostServes hs]
  exact congrArg _ (if_congr (by simp only [Bool.and_eq_true, Bool.not_eq_true', decide_eq_true_eq, decide_eq_false_iff_not]) rfl rfl)

theorem exec_retrain : exec (.retrain p) s = .next (s.setReg (Reg.FAB_P_CTRL_retrain p) 1) := by
  refine (perform_of_wf (c := .retrain p) (decide_eq_true hp) _).trans ?_
  rw [State.hostWrite_of_hostServes hs]

theorem exec_portEnable (enable : Bool) : exec (.portEnable p enable) s = .next (s.portEnable p enable) := by
  refine (perform_of_wf (c := .portEnable p enable) (decide_eq_true hp) _).trans ?_
  rw [State.hostWrite_of_hostServes hs]

end

theorem State.portEnable_of_disabled {s : State} {p : Nat} (h : s.portState p = psDISABLED) :
    s.portEnable p true = (s.setReg (Reg.FAB_P_CTRL_enable p) 1).setLink p psDOWN 0 := if_pos h

theorem State.portEnable_of_not_disabled {s : State} {p : Nat} (h : s.portState p ≠ psDISABLED) :
    s.portEnable p true = s.setReg (Reg.FAB_P_CTRL_enable p) 1 := if_neg h

/-! ### BREAK notices (R279, R400) -/

section

variable {s u : State} {p : Nat} {k : Packet}

theorem exec_breakNotice (hp : p < 8) (hwf : k.wf = true) (hop : k.op = pktBREAK) (hcarries : s.portCarries p 0 = true) :
    exec (.breakNotice p k) s = .next ((s.takeIn k).onBreak p k) := by
  refine (perform_of_wf (c := .breakNotice p k) (Bool.and_eq_true_iff.2 ⟨decide_eq_true hp, hwf⟩) _).trans ?_
  rw [if_pos (by simp [hop, hcarries])]

variable {d c ahead : Nat}

/-- A module that knows no torus passes a notice on. -/
theorem State.onBreak_of_no_torus (hahead : ahead = if p % 2 = 0 then p + 1 else p - 1) (h : u.routing? = none) :
    u.onBreak p k = u.sendNotice ahead k.dst k.src k.arg0 := by
  simp only [State.onBreak, h, ← hahead]

variable {r : Routing} (hd : d = bits k.arg0 7 0) (hc : c = bits k.arg0 15 8) (hr : u.routing? = some r)
include hd hc hr

/-- A notice of another ring, of a link that the ring does not have, or of this module's own changes nothing. -/
theorem State.onBreak_of_other_ring (h : d ≠ p / 2 ∨ u.extent d ≤ c ∨ u.extent d ≤ 1 ∨ k.src = r.node) :
    u.onBreak p k = u := by
  simp only [State.onBreak, hr, ← hd, ← hc, if_pos h]

/-- Another one of the own ring sets its link's bit and goes on until it has gone round. -/
theorem State.onBreak_of_own_ring (hahead : ahead = if p % 2 = 0 then p + 1 else p - 1) (hring : d = p / 2)
    (hlink : c < u.extent d) (hlong : 1 < u.extent d) (hsrc : k.src ≠ r.node) {v : Nat} {w : State}
    (hv : v = (if bit (u.reg (Reg.FAB_BREAK_links d)) c then u.reg (Reg.FAB_BREAK_links d) - 2 ^ c
      else u.reg (Reg.FAB_BREAK_links d)) + (if bit k.arg0 16 then 1 else 0) * 2 ^ c)
    (hw : w = (u.setReg (Reg.FAB_BREAK_links d) v).breakChanged u.breakMaps) :
    u.onBreak p k = if w.neighbour ahead = k.src then w else w.sendNotice ahead (w.neighbour ahead) k.src k.arg0 := by
  have hown : ¬ (d ≠ p / 2 ∨ u.extent d ≤ c ∨ u.extent d ≤ 1 ∨ k.src = r.node) := by
    rintro (h | h | h | h)
    · exact h hring
    · exact Nat.not_le.2 hlink h
    · exact Nat.not_le.2 hlong h
    · exact hsrc h
  subst hw hv
  simp only [State.onBreak, hr, ← hd, ← hc, ← hahead, if_neg hown, flag]

end

/-- Settles O35: each command of training by the port's state, ACCEPT by the peer's statement, and a notice by its ring. -/
theorem training : Obligations.Training := by
  intro s p hp
  refine ⟨fun hmay hstate => ?_, fun hmay hretrain => ?_, fun hno => ?_, fun hmay hstate hdue => ?_, fun hno => ?_,
    fun hstate => ⟨?_, ?_⟩, exec_equalisationEnd_of_not_training hp s, fun nonce hstate heq => ⟨?_, ?_⟩,
    fun ok nonce hno => exec_alignmentEnd_of_not_equalised hp s hno ok nonce, fun hs hstate => ?_, fun hs hstate hreason => ?_,
    fun hs hno => ?_, exec_retrain hp, fun hs => ?_, fun hs hstate => ?_, fun hs hstate => ?_,
    fun k hwf hop hcarries u d c ahead hu hd hc hahead => ?_⟩
  · rw [exec_linkTrainStart hp, if_pos ⟨hmay, .inl hstate⟩]
  · rw [exec_linkTrainStart hp, if_pos ⟨hmay, .inr hretrain⟩]
  · rw [exec_linkTrainStart hp, if_neg]
    rintro ⟨hmay, hstart⟩
    rcases hno with hno | ⟨hstate, hretrain⟩
    · simp [hmay] at hno
    · exact hstart.elim hstate hretrain
  · rw [exec_trainingRetry hp, if_pos ⟨hmay, hstate, hdue⟩]
  · rw [exec_trainingRetry hp, if_neg]
    rintro ⟨hmay, hstate, hdue⟩
    rcases hno with hno | hno | hno
    · simp [hmay] at hno
    · exact hno hstate
    · exact Nat.not_lt.2 hdue hno
  · exact exec_equalisationEnd_of_training hp s hstate true
  · exact exec_equalisationEnd_of_training hp s hstate false
  · exact exec_alignmentEnd_of_equalised hp s hstate heq true nonce
  · exact exec_alignmentEnd_of_equalised hp s hstate heq false nonce
  · rw [exec_accept hp hs, if_pos ⟨Nat.le_of_lt hstate, fun h => Nat.ne_of_gt hstate h.1⟩]
  · rw [exec_accept hp hs, if_pos ⟨Nat.le_of_eq hstate.symm, fun h => hreason h.2⟩]
  · rw [exec_accept hp hs, if_neg (fun h => hno.elim (Nat.not_lt.2 h.1) h.2)]
  · rw [exec_portEnable hp hs]
    rfl
  · rw [exec_portEnable hp hs, State.portEnable_of_disabled hstate]
  · rw [exec_portEnable hp hs, State.portEnable_of_not_disabled hstate]
  · subst hu
    rw [exec_breakNotice hp hwf hop hcarries]
    refine ⟨fun hnone => ?_, fun r hr => ⟨fun hother => ?_, fun hring hlink hlong hsrc v w hv hw => ?_⟩⟩
    · rw [State.onBreak_of_no_torus hahead hnone]
    · rw [State.onBreak_of_other_ring hd hc hr hother]
    · rw [State.onBreak_of_own_ring hd hc hr hahead hring hlink hlong hsrc hv hw]
      exact ⟨fun hround => by rw [if_pos hround], fun hon => by rw [if_neg hon]⟩

end

end Sys2Proof.Machine
end

section
namespace Sys2Proof.Machine

open Sys2Proof

section

-- As in the model's Laws: one declaration after another keeps the joined text within the check's memory.
set_option Elab.async false

/-! ### The running task of a COLLECTIVE command (R305) -/

/-- The op of a COLLECTIVE task's block is that of the command that runs it. -/
theorem engineRuns.coll_op {s : State} {t : Task} {op : Nat} (h : engineRuns s t engCOLLECTIVE op) :
    (parseColl t.args).op = op := by
  obtain ⟨-, -, -, -, hop, -⟩ := h
  exact hop

theorem State.collTask?_of_runs {s : State} {t : Task} {op : Nat} (h : engineRuns s t engCOLLECTIVE op) :
    s.collTask? t.id op = some t := State.runningTask?_of_runs h

/-! ### OPEN (R307, R310) -/

section

variable {s : State} {t : Task} {a : CollArgs} (h : engineRuns s t engCOLLECTIVE 1)
include h

theorem exec_collOpen : exec (.collOpen t.id) s = .next (s.openReduction t.id) :=
  perform_of_wf (c := .collOpen t.id) h.wf _

variable (ha : a = parseColl t.args)
include ha

theorem State.openReduction_of_empty (hlen : a.length = 0) : s.openReduction t.id = s.collEnds t stOK := by
  simp only [State.openReduction, State.collTask?_of_runs h, ← ha, if_pos hlen]

variable (hlen : a.length ≠ 0)
include hlen

/-- An OPEN over a reduction of its job that is still open fails. -/
theorem State.openReduction_of_overlap
    (hover : ∃ r ∈ s.reductions, r.closed = false ∧ r.overlaps t.job (addrOff a.addr) a.length = true) :
    s.openReduction t.id = s.collEnds t stFORMAT := by
  have hany : s.reductions.any (fun r => !r.closed && r.overlaps t.job (addrOff a.addr) a.length) = true := by
    simpa using hover
  simp only [State.openReduction, State.collTask?_of_runs h, ← ha, if_neg hlen, if_pos hany]

variable (hclear : ∀ r ∈ s.reductions, r.closed = false → r.overlaps t.job (addrOff a.addr) a.length = false)
  {u : State} (hu : u = { s with reductions := s.reductions.filter (fun r => !r.overlaps t.job (addrOff a.addr) a.length) })
include hclear hu

/-- Any other OPEN frees the closed reductions that it overlaps, and then finds its table full or takes a place. -/
theorem State.openReduction_of_clear : s.openReduction t.id =
    if 4096 ≤ u.reductions.length then u
    else ({ u.memOps [.zero (s.key a.pool) (64 * a.entries), .zero (s.key a.ledger) a.ledgerSize] with
        reductions := u.reductions ++ [{ a.reduction t.job with pool := s.key a.pool, ledger := s.key a.ledger }] } :
      State).collEnds t stOK := by
  have hnone : ¬ s.reductions.any (fun r => !r.closed && r.overlaps t.job (addrOff a.addr) a.length) = true := by
    simpa using hclear
  subst hu
  simp only [State.openReduction, State.collTask?_of_runs h, ← ha, if_neg hlen, if_neg hnone]
  rfl

end

/-! ### CLOSE (R310) -/

section

variable {s : State} {t : Task} {a : CollArgs} {r : Reduction} (h : engineRuns s t engCOLLECTIVE 2)
include h

theorem exec_collClose : exec (.collClose t.id) s = .next (s.closeStart t.id) :=
  perform_of_wf (c := .collClose t.id) h.wf _

theorem exec_closeLedgerComplete : exec (.closeLedgerComplete t.id) s = .next (s.closeComplete t.id) :=
  perform_of_wf (c := .closeLedgerComplete t.id) h.wf _

variable (ha : a = parseColl t.args)
include ha

theorem State.closeStart_of_empty (hlen : a.length = 0) : s.closeStart t.id = s.collEnds t stOK := by
  simp only [State.closeStart, State.collTask?_of_runs h, ← ha, if_pos hlen]

theorem State.closeStart_of_none (hlen : a.length ≠ 0) (hr : s.closing? t.job a = none) :
    s.closeStart t.id = s.collEnds t stFORMAT := by
  simp only [State.closeStart, State.collTask?_of_runs h, ← ha, if_neg hlen, hr]

/-- A counted CLOSE waits for its ledger, and any other rounds out. -/
theorem State.closeStart_of_some (hlen : a.length ≠ 0) (hr : s.closing? t.job a = some r) :
    s.closeStart t.id = if r.counted && !s.ledgerFull r then s.setTask { t with stage := 1 } else s.closeNow t a r := by
  simp only [State.closeStart, State.collTask?_of_runs h, ← ha, if_neg hlen, hr]

theorem State.closeComplete_of_none (hr : s.closing? t.job a = none) : s.closeComplete t.id = s := by
  simp only [State.closeComplete, State.collTask?_of_runs h, ← ha, hr]

/-- A CLOSE that waits rounds out once its ledger is full. -/
theorem State.closeComplete_of_some (hr : s.closing? t.job a = some r) :
    s.closeComplete t.id = if t.stage = 1 ∧ s.ledgerFull r = true then s.closeNow t a r else s := by
  simp only [State.closeComplete, State.collTask?_of_runs h, ← ha, hr]

end

/-! ### Deadlines (R311, R314, R318) -/

section

variable {s : State} {t : Task} {op : Nat} (h : engineRuns s t engCOLLECTIVE op)
include h

theorem exec_collectiveDeadline : exec (.collectiveDeadline t.id) s = .next (s.collDeadline t.id) :=
  perform_of_wf (c := .collectiveDeadline t.id) h.wf _

/-- A task without a deadline, or before it, goes on. -/
theorem State.collDeadline_of_not_due (hno : ∀ due, t.expires = some due → s.now < due) : s.collDeadline t.id = s := by
  obtain ⟨htask, -⟩ := h
  have hdue : (t.expires.map (fun x => decide (x ≤ s.now))).getD false = false := by
    cases he : t.expires with
    | none => rfl
    | some due => simpa using hno due he
  simp only [State.collDeadline, htask, hdue, Bool.not_false, Bool.true_or, if_true]

/-- At its deadline the op of a task decides: a CLOSE looks at its ledger, and a task of the combining tree ends with LATE. -/
theorem State.collDeadline_of_due {due : Nat} (hexp : t.expires = some due) (hdue : due ≤ s.now) :
    s.collDeadline t.id = if op = 1 then s else if op = 2 then s.closeDeadline t (parseColl t.args)
      else ((s.undefine t.outs).dropEntryOf t.id).endsLate t := by
  have hop := h.coll_op
  obtain ⟨htask, -, hphase, hengine, -, hjob⟩ := h
  have hguard : ¬ (!(t.expires.map (fun x => decide (x ≤ s.now))).getD false || !decide (t.phase = .running) ||
      !decide (t.desc.engine = engCOLLECTIVE) || !s.jobRuns t.job) = true := by
    simp [hexp, hdue, hphase, hengine, State.jobRuns_iff.2 hjob]
  simp only [State.collDeadline, htask, if_neg hguard, hop]
  split
  · rfl
  · rfl
  next hopen hclose => rw [if_neg hopen, if_neg hclose]

end

section

variable {s : State} {t : Task} {a : CollArgs}

theorem State.closeDeadline_of_not_waiting (hstage : t.stage ≠ 1) : s.closeDeadline t a = s := if_pos hstage

variable (hstage : t.stage = 1)
include hstage

theorem State.closeDeadline_of_some {r : Reduction} (hr : s.closing? t.job a = some r) :
    s.closeDeadline t a = if s.ledgerFull r then s.closeNow t a r else s.closeLate t r := by
  simp only [State.closeDeadline, hstage, hr, ne_eq, not_true_eq_false, if_false]

theorem State.closeDeadline_of_none (hr : s.closing? t.job a = none) : s.closeDeadline t a = s.endsLate t := by
  simp only [State.closeDeadline, hstage, hr, ne_eq, not_true_eq_false, if_false]

end

/-! ### A contribution that is turned away (R308) -/

section

variable {s : State} {k : Packet}

theorem State.exactArrives_of_malformed (hbad : (decodeExact k).malformed = true) :
    s.exactArrives k = (s.bump Reg.FAB_CNT_BAD_HEADER 1, stFORMAT) :=
  if_pos (by rw [hbad, Bool.true_or])

variable (hspace : addrSpace k.addr = 0) (hnode : s.node? = some (addrNode k.addr)) {r : Reduction}
include hspace hnode

theorem State.exactArrives_of_past (hr : s.reductionAt? k.jobId (decodeExact k).off = some r)
    (hpast : r.addr + r.length < (decodeExact k).off + 4 * (decodeExact k).elems.length) :
    s.exactArrives k = (s.bump Reg.FAB_CNT_BAD_HEADER 1, stFORMAT) := by
  simp [State.exactArrives, hspace, hnode, hr, hpast]

variable (hform : (decodeExact k).malformed = false)
include hform

theorem State.exactArrives_of_not_open (hr : s.reductionAt? k.jobId (decodeExact k).off = none) :
    s.exactArrives k = (s.bump Reg.COL_CNT_NOT_OPEN 1, stACCESS) := by
  simp [State.exactArrives, hform, hspace, hnode, hr]

theorem State.exactArrives_of_late (hr : s.reductionAt? k.jobId (decodeExact k).off = some r)
    (hfits : (decodeExact k).off + 4 * (decodeExact k).elems.length ≤ r.addr + r.length)
    (hlate : r.closed = true ∨ (decodeExact k).step ≠ r.step) :
    s.exactArrives k = (s.bump Reg.COL_CNT_LATE_ARRIVAL 1, stLATE) := by
  have hclosed : (r.closed || decide ((decodeExact k).step ≠ r.step)) = true := by simpa using hlate
  simp only [State.exactArrives, hform, hspace, hnode, hr, and_self, if_true, Option.map_some, Option.getD_some,
    decide_eq_false (Nat.not_lt.2 hfits), Bool.or_self, Bool.false_eq_true, if_false, hclosed]

end

/-- Settles O36: OPEN and CLOSE by what they overlap or name, a deadline by the ledger, and a contribution by what it meets. -/
theorem reductions : Obligations.Reductions := by
  intro s t a ha
  refine ⟨fun h => ⟨fun hlen => ?_, fun hlen hover => ?_, fun hlen hclear u hu => ⟨fun hroom => ?_, fun hfull => ?_⟩⟩,
    fun h => ⟨fun hlen => ?_, fun hlen hr => ?_, fun hr => ?_, fun r hr =>
      ⟨fun hlen hcounted hwait => ?_, fun hlen hready => ?_, fun hstage hfull => ?_, fun hno => ?_⟩⟩,
    fun h => ⟨fun due hexp hdue hstage => ?_, fun hno => ?_⟩, fun k => ⟨State.exactArrives_of_malformed, fun hform hspace hnode =>
      ⟨State.exactArrives_of_not_open hspace hnode hform, fun r hr => ⟨State.exactArrives_of_past hspace hnode hr,
        State.exactArrives_of_late hspace hnode hform hr⟩⟩⟩⟩
  · rw [exec_collOpen h, State.openReduction_of_empty h ha hlen]
    rfl
  · rw [exec_collOpen h, State.openReduction_of_overlap h ha hlen hover]
    rfl
  · rw [exec_collOpen h, State.openReduction_of_clear h ha hlen hclear hu, if_neg (Nat.not_le.2 hroom)]
    rfl
  · rw [exec_collOpen h, State.openReduction_of_clear h ha hlen hclear hu, if_pos hfull]
  · rw [exec_collClose h, State.closeStart_of_empty h ha hlen]
    rfl
  · rw [exec_collClose h, State.closeStart_of_none h ha hlen hr]
    rfl
  · rw [exec_closeLedgerComplete h, State.closeComplete_of_none h ha hr]
  · rw [exec_collClose h, State.closeStart_of_some h ha hlen hr, if_pos (by simp [hcounted, hwait])]
  · rw [exec_collClose h, State.closeStart_of_some h ha hlen hr, if_neg]
    rcases hready with huncounted | hfull
    · simp [huncounted]
    · simp [hfull]
  · rw [exec_closeLedgerComplete h, State.closeComplete_of_some h ha hr, if_pos ⟨hstage, hfull⟩]
  · rw [exec_closeLedgerComplete h, State.closeComplete_of_some h ha hr, if_neg]
    rintro ⟨hstage, hfull⟩
    exact hno.elim (· hstage) (by simp [hfull])
  · rw [exec_collectiveDeadline h, State.collDeadline_of_due h hexp hdue, if_neg (by decide), if_pos rfl, ← ha]
    refine ⟨fun r hr hfull => ?_, fun r hr hwait => ?_, fun hr => ?_⟩
    · rw [State.closeDeadline_of_some hstage hr, if_pos hfull]
    · rw [State.closeDeadline_of_some hstage hr, if_neg (by simp [hwait])]
      rfl
    · rw [State.closeDeadline_of_none hstage hr]
      rfl
  · rw [exec_collectiveDeadline h]
    by_cases hearly : ∀ due, t.expires = some due → s.now < due
    · rw [State.collDeadline_of_not_due h hearly]
    · push Not at hearly
      obtain ⟨due, hexp, hdue⟩ := hearly
      rcases hno with hnone | ⟨later, hlater, hlt⟩ | hstage
      · simp [hnone] at hexp
      · obtain rfl : later = due := Option.some.inj (hlater.symm.trans hexp)
        exact absurd hdue (Nat.not_le.2 hlt)
      · rw [State.collDeadline_of_due h hexp hdue, if_neg (by decide), if_pos rfl, State.closeDeadline_of_not_waiting hstage]

end

end Sys2Proof.Machine
end

section
namespace Sys2Proof.Machine

open Sys2Proof

section

-- As in the model's Laws: one declaration after another keeps the joined text within the check's memory.
set_option Elab.async false

/-! ### A member arrives (R313, R314) -/

section

variable {s : State} {t : Task} {a : CollArgs} (ha : a = parseColl t.args)
include ha

theorem State.combineArrive_of_full (hfull : s.combiningFor t.job a.tc a.id = none) : s.combineArrive t = s := by
  simp only [State.combineArrive, ← ha, hfull]

/-- An entry that no other task holds is the arriving task's. -/
theorem State.combineArrive_of_entry {u : State} {e : Combining} (he : s.combiningFor t.job a.tc a.id = some (u, e))
    (hfree : e.task = none ∨ e.task = some t.id) :
    s.combineArrive t = (u.setCombining { e with task := some t.id }).combineProgress t.job a.tc a.id := by
  have hmine : ¬ (e.task.isSome = true ∧ e.task ≠ some t.id) := by
    rintro ⟨hsome, hother⟩
    exact hfree.elim (fun hnone => by simp [hnone] at hsome) hother
  simp only [State.combineArrive, ← ha, he, if_neg hmine]

end

theorem exec_barrier {s : State} {t : Task} (h : engineRuns s t engCOLLECTIVE 3) :
    exec (.barrier t.id) s = .next (s.combineArrive t) := by
  refine (perform_of_wf (c := .barrier t.id) h.wf _).trans (congrArg _ ?_)
  rw [State.collTask?_of_runs h]

/-! ### BROADCAST (R315) -/

section

variable {s : State} {t : Task} {a : CollArgs} (h : engineRuns s t engCOLLECTIVE 4)
include h

theorem exec_broadcast : exec (.broadcast t.id) s = .next (s.broadcastStart t.id) :=
  perform_of_wf (c := .broadcast t.id) h.wf _

variable (ha : a = parseColl t.args)
include ha

/-- The root sends its whole buffer and completes. -/
theorem State.broadcastStart_of_root (hroot : s.node? = some a.root) : s.broadcastStart t.id =
    ((s.broadcastPieces a).foldl (fun x p => x.broadcastOn t a p.1 p.2.1 p.2.2) s).broadcastEnds t := by
  simp only [State.broadcastStart, State.collTask?_of_runs h, ← ha, if_pos hroot]

variable (hmember : s.node? ≠ some a.root)
include hmember

theorem State.broadcastStart_of_empty (hlen : a.length = 0) : s.broadcastStart t.id = s.broadcastEnds t := by
  simp only [State.broadcastStart, State.collTask?_of_runs h, ← ha, if_neg hmember, if_pos hlen]

variable (hlen : a.length ≠ 0)
include hlen

theorem State.broadcastStart_of_full (hfull : s.combiningFor t.job a.tc a.id = none) : s.broadcastStart t.id = s := by
  simp only [State.broadcastStart, State.collTask?_of_runs h, ← ha, if_neg hmember, if_neg hlen, hfull]

variable {u : State} {e : Combining} (he : s.combiningFor t.job a.tc a.id = some (u, e))
include he

/-- A member takes what its key holds, into a buffer that is undefined until the last part. -/
theorem State.broadcastStart_of_free_entry (htask : e.task = none) : s.broadcastStart t.id =
    (u.undefine (u.collOuts t.args)).broadcastProgress t { e with task := some t.id } := by
  simp [State.broadcastStart, State.collTask?_of_runs h, ← ha, hmember, hlen, he, htask]

/-- A key that a task holds already, its own too, is not taken again. -/
theorem State.broadcastStart_of_held_entry (htask : e.task ≠ none) : s.broadcastStart t.id = s := by
  have hheld : e.task.isSome = true := Option.isSome_iff_ne_none.2 htask
  simp only [State.broadcastStart, State.collTask?_of_runs h, ← ha, if_neg hmember, if_neg hlen, he, if_pos hheld, ite_self]

end

/-! ### FIX (R318) -/

section

variable {s : State} {t : Task} (h : engineRuns s t engCOLLECTIVE 5)
include h

theorem exec_fix : exec (.fix t.id) s = .next (if t.stage = 0 then s.setTask { t with stage := 1 } else s) := by
  refine (perform_of_wf (c := .fix t.id) h.wf _).trans (congrArg _ ?_)
  rw [State.collTask?_of_runs h]

theorem exec_fixDrained : exec (.fixDrained t.id) s =
    .next (if t.stage ≠ 0 ∧ s.jobDrained t = true then (s.setTask { t with stage := 2 }).combineArrive { t with stage := 2 }
      else s) := by
  refine (perform_of_wf (c := .fixDrained t.id) h.wf _).trans (congrArg _ ?_)
  rw [State.collTask?_of_runs h]

end

/-- A task of the combining tree whose deadline has passed ends with LATE, and its entry goes (R314, R318). -/
theorem exec_collectiveDeadline_of_tree {s : State} {t : Task} {op : Nat} (h : engineRuns s t engCOLLECTIVE op) (hop : 2 < op)
    {due : Nat} (hexp : t.expires = some due) (hdue : due ≤ s.now) :
    exec (.collectiveDeadline t.id) s = .next (((s.undefine t.outs).dropEntryOf t.id).endsLate t) := by
  rw [exec_collectiveDeadline h, State.collDeadline_of_due h hexp hdue, if_neg (by omega), if_neg (by omega)]

/-! ### A combining message (R313) -/

/-- What a member does with a message of an op: the part of a broadcast is held, any other is noted. -/
def noteOfOp (op : Nat) : State → Arrival → Combining → State :=
  if op = pktBCAST_DATA then State.broadcastNote else State.combineNote

/-- Each command of a combining message brings the message to its member. -/
theorem exec_combining {s : State} {k : Packet} {c : Instr} (hwf : k.wf = true)
    (hc : (c = .barUp k ∧ k.op = pktBAR_UP) ∨ (c = .barDown k ∧ k.op = pktBAR_DOWN) ∨ (c = .fixUp k ∧ k.op = pktFIX_UP) ∨
      (c = .fixDown k ∧ k.op = pktFIX_DOWN) ∨ (c = .bcastData k ∧ k.op = pktBCAST_DATA)) :
    exec c s = .next (s.combineIn k (noteOfOp k.op)) := by
  have hnoted : ∀ op, k.op = op → op ≠ pktBCAST_DATA → s.combineOp op k = s.combineIn k (noteOfOp k.op) := fun op hop hno => by
    rw [State.combineOp, if_pos hop, hop, noteOfOp, if_neg hno]
  rcases hc with ⟨rfl, hop⟩ | ⟨rfl, hop⟩ | ⟨rfl, hop⟩ | ⟨rfl, hop⟩ | ⟨rfl, hop⟩
  · exact (perform_of_wf (c := .barUp k) hwf _).trans (congrArg _ (hnoted _ hop (by decide)))
  · exact (perform_of_wf (c := .barDown k) hwf _).trans (congrArg _ (hnoted _ hop (by decide)))
  · exact (perform_of_wf (c := .fixUp k) hwf _).trans (congrArg _ (hnoted _ hop (by decide)))
  · exact (perform_of_wf (c := .fixDown k) hwf _).trans (congrArg _ (hnoted _ hop (by decide)))
  · refine (perform_of_wf (c := .bcastData k) hwf _).trans (congrArg _ ?_)
    rw [if_pos hop, hop, noteOfOp, if_pos rfl]

section

variable {s : State} {k : Packet} {act : State → Arrival → Combining → State} (hnode : s.node? = some k.dst)
  (hawake : s.power.anchor = .awake)
include hnode hawake

theorem State.combineIn_of_other_job (hjob : s.jobState k.jobId ≠ 1) : s.combineIn k act = s.takeIn k := by
  simp [State.combineIn, hnode, State.wakeTrigger_of_awake hawake, hawake, hjob]

variable (hjob : s.jobState k.jobId = 1)
include hjob

theorem State.combineIn_of_full (hfull : s.combiningFor k.jobId k.tc (bits k.arg0 15 0) = none) : s.combineIn k act = s := by
  simp [State.combineIn, hnode, State.wakeTrigger_of_awake hawake, hawake, hjob, hfull]

theorem State.combineIn_of_entry {u : State} {e : Combining}
    (he : s.combiningFor k.jobId k.tc (bits k.arg0 15 0) = some (u, e)) :
    s.combineIn k act = act (u.unlist (u.arrivalOf k)) (u.arrivalOf k) e := by
  simp [State.combineIn, hnode, State.wakeTrigger_of_awake hawake, hawake, hjob, he]

end

/-- Settles O37: each operation by its stage and its key's entry, a deadline by the time, and a message by its job and its entry. -/
theorem barriers : Obligations.Barriers := by
  refine ⟨fun s t a ha => ⟨exec_barrier, fun u e => State.combineArrive_of_entry ha, State.combineArrive_of_full ha,
    fun h hroot => ?_, fun h hmember => ⟨fun hlen => ?_, fun hlen hfull => ?_, fun hlen u e he => ⟨fun htask => ?_, fun htask => ?_⟩⟩,
    fun h => ⟨fun hstage => ?_, fun hstage => ?_, fun hstage hdrained => ?_, fun hno => ?_⟩, fun h => ?_⟩,
    fun s k c hwf hnode hawake hc => ⟨fun hjob => ?_, fun hjob hfull => ?_, fun u e hjob he => ⟨fun hop => ?_, fun hop => ?_⟩⟩⟩
  · rw [exec_broadcast h, State.broadcastStart_of_root h ha hroot]
    rfl
  · rw [exec_broadcast h, State.broadcastStart_of_empty h ha hmember hlen]
    rfl
  · rw [exec_broadcast h, State.broadcastStart_of_full h ha hmember hlen hfull]
  · rw [exec_broadcast h, State.broadcastStart_of_free_entry h ha hmember hlen he htask]
  · rw [exec_broadcast h, State.broadcastStart_of_held_entry h ha hmember hlen he htask]
  · rw [exec_fix h, if_pos hstage]
  · rw [exec_fix h, if_neg hstage]
  · rw [exec_fixDrained h, if_pos ⟨hstage, hdrained⟩]
  · rw [exec_fixDrained h, if_neg]
    rintro ⟨hstage, hdrained⟩
    exact hno.elim hstage (by simp [hdrained])
  · obtain ⟨op, hop, h⟩ : ∃ op, 2 < op ∧ engineRuns s t engCOLLECTIVE op := by
      rcases h with h | h | h
      · exact ⟨3, by decide, h⟩
      · exact ⟨4, by decide, h⟩
      · exact ⟨5, by decide, h⟩
    refine ⟨fun due hexp hdue => exec_collectiveDeadline_of_tree h hop hexp hdue, fun due hexp hearly => ?_, fun hnone => ?_⟩
    · rw [exec_collectiveDeadline h, State.collDeadline_of_not_due h fun later hlater =>
        Option.some.inj (hexp.symm.trans hlater) ▸ hearly]
    · rw [exec_collectiveDeadline h, State.collDeadline_of_not_due h (by simp [hnone])]
  · rw [exec_combining hwf hc, State.combineIn_of_other_job hnode hawake hjob]
  · rw [exec_combining hwf hc, State.combineIn_of_full hnode hawake hjob hfull]
  · rw [exec_combining hwf hc, State.combineIn_of_entry hnode hawake hjob he, noteOfOp, if_pos hop]
  · rw [exec_combining hwf hc, State.combineIn_of_entry hnode hawake hjob he, noteOfOp, if_neg hop, State.combineNote,
      State.arrivalOf_packet]

end

end Sys2Proof.Machine
end

section
namespace Sys2Proof.Machine

open Sys2Proof

section

-- As in the model's Laws: one declaration after another keeps the joined text within the check's memory.
set_option Elab.async false

/-! ### The commands of a system reset (R319, R383) -/

theorem exec_sysreset {s : State} (hs : hostServes s) (value : Nat) :
    exec (.sysreset value) s = .next (s.sysresetWrite value) := by
  refine (perform_of_wf (c := .sysreset value) rfl _).trans ?_
  rw [State.hostWrite_of_hostServes hs]

section

variable {s : State} {value : Nat}

theorem State.sysresetWrite_of_other_value (hvalue : value % 2 ^ 32 ≠ 0x52534554) : s.sysresetWrite value = s := if_pos hvalue

variable (hvalue : value % 2 ^ 32 = 0x52534554)
include hvalue

theorem State.sysresetWrite_of_no_chart (hchart : s.chtState ≠ chtActive) : s.sysresetWrite value = s.moduleReset := by
  rw [State.sysresetWrite, if_neg (not_not_intro hvalue), if_pos hchart]

/-- Under an ACTIVE Chart the notice starts here, unless a system reset runs already. -/
theorem State.sysresetWrite_of_active (hchart : s.chtState = chtActive) :
    s.sysresetWrite value = if s.sysreset.isSome then s else s.resetNotice true (s.node?.getD 0) := by
  rw [State.sysresetWrite, if_neg (not_not_intro hvalue), if_neg (not_not_intro hchart)]

end

section

variable {s u : State} {k : Packet} (hwf : k.wf = true) (hnode : s.node? = some k.dst) (hu : u = (s.takeIn k).wakeTrigger)
include hwf hnode hu

theorem exec_resetDown (hop : k.op = pktRESET_DOWN) : exec (.resetDown k) s =
    .next (if u.sysreset.isSome then u else u.resetNotice false (bits k.arg0 47 32)) := by
  subst hu
  exact (perform_of_wf (c := .resetDown k) hwf _).trans (congrArg _ (if_pos ⟨hop, hnode⟩))

variable (hop : k.op = pktRESET_UP)
include hop

/-- An answer that comes while no system reset runs here changes nothing more. -/
theorem exec_resetUp_of_none (hr : u.sysreset = none) : exec (.resetUp k) s = .next u := by
  subst hu
  refine (perform_of_wf (c := .resetUp k) hwf _).trans (congrArg _ ?_)
  rw [State.resetIn, if_pos ⟨hop, hnode⟩, hr]

theorem exec_resetUp_of_some {r : SysReset} (hr : u.sysreset = some r) : exec (.resetUp k) s =
    .next ({ u with sysreset := some { r with answered := k.src :: r.answered } } : State).resetProgress := by
  subst hu
  refine (perform_of_wf (c := .resetUp k) hwf _).trans (congrArg _ ?_)
  rw [State.resetIn, if_pos ⟨hop, hnode⟩, hr]

end

/-! ### The answers of the children (R319) -/

section

variable {s v : State} {r : SysReset} (hr : s.sysreset = some r)
include hr

/-- A module that has answered already, or that waits for a child, does nothing. -/
theorem State.resetProgress_of_waiting (hwait : r.ready = true ∨ ∃ c ∈ s.resetChildren r.root, c ∉ r.answered) :
    s.resetProgress = s := by
  have hguard : (r.ready || !(s.resetChildren r.root).all (r.answered.contains ·)) = true := by simpa using hwait
  simp only [State.resetProgress, hr, if_pos hguard]

/-- With every child's answer the module is ready, and answers its parent where it has one. -/
theorem State.resetProgress_of_answered (hv : v = { s with sysreset := some { r with ready := true } }) (hready : r.ready = false)
    (hall : ∀ c ∈ s.resetChildren r.root, c ∈ r.answered) :
    s.resetProgress = ((s.treeHop (s.node?.getD 0) r.root s.fullScope 7).elim v
      (fun up => v.resetMsg pktRESET_UP up r.root)).resetIfSent := by
  have hguard : ¬ (r.ready || !(s.resetChildren r.root).all (r.answered.contains ·)) = true := by simpa [hready] using hall
  subst hv
  simp only [State.resetProgress, hr, if_neg hguard]
  cases s.treeHop (s.node?.getD 0) r.root s.fullScope 7 with
  | none => rfl
  | some up => rfl

end

/-- Settles O38: SYSRESET by its value, the Chart and a reset that runs, both messages by the latter, and progress by what the
children have answered. -/
theorem systemReset : Obligations.SystemReset := by
  refine ⟨fun s value hs => ⟨fun hvalue => ?_, fun hvalue hchart => ?_, fun hvalue hchart hnone => ?_, fun hvalue hchart hruns => ?_⟩,
    fun s u k hwf hnode hu => ⟨fun hop hnone => ?_, fun hop hruns => ?_, fun r hop => exec_resetUp_of_some hwf hnode hu hop,
      exec_resetUp_of_none hwf hnode hu⟩,
    fun s r v hr hv => ⟨State.resetProgress_of_waiting hr, fun hready hall => ⟨fun hroot => ?_, fun up hparent => ?_⟩⟩⟩
  · rw [exec_sysreset hs, State.sysresetWrite_of_other_value hvalue]
  · rw [exec_sysreset hs, State.sysresetWrite_of_no_chart hvalue hchart]
  · rw [exec_sysreset hs, State.sysresetWrite_of_active hvalue hchart, if_neg (by simp [hnone])]
  · rw [exec_sysreset hs, State.sysresetWrite_of_active hvalue hchart, if_pos (Option.isSome_iff_ne_none.2 hruns)]
  · rw [exec_resetDown hwf hnode hu hop, if_neg (by simp [hnone])]
  · rw [exec_resetDown hwf hnode hu hop, if_pos (Option.isSome_iff_ne_none.2 hruns)]
  · rw [State.resetProgress_of_answered hr hv hready hall, hroot]
    rfl
  · rw [State.resetProgress_of_answered hr hv hready hall, hparent]
    rfl

end

end Sys2Proof.Machine
end

section
namespace Sys2Proof.Machine

open Sys2Proof

section

-- As in the model's Laws: one declaration after another keeps the joined text within the check's memory.
set_option Elab.async false

/-! ### How the host's commands answer (R387, R409, R433) -/

section

variable {s : State} {c : Instr} (hc : c.wf = true)
include hc

/-- A command that names units the module has and writes a register for the host takes effect where the module serves the host. -/
theorem perform_hostWrite (hs : hostServes s) (t : State) : perform c (s.hostWrite t) = .next t := by
  rw [perform_of_wf hc, State.hostWrite_of_hostServes hs]

theorem perform_secWrite (hs : bootServes s) (t : State) : perform c (s.secWrite t) = .next t := by
  rw [perform_of_wf hc, State.secWrite_of_bootServes hs]

/-- Without power a command of the host does nothing. -/
theorem perform_secWrite_of_unpowered (hp : s.carrier.power ≠ .on) (t : State) : perform c (s.secWrite t) = .next s := by
  rw [perform_of_wf hc, State.secWrite, State.powered, decide_eq_false hp]
  rfl

/-- In D3hot it is an Unsupported Request. -/
theorem perform_secWrite_of_d3hot (hp : s.carrier.power = .on) (hd : s.pcie.d3hot = true) (t : State) :
    perform c (s.secWrite t) = .next (s.emit .unsupported) := by
  rw [perform_of_wf hc, State.secWrite, State.powered, decide_eq_true hp, hd]
  rfl

/-- In RECOVERY one that writes no boot and attestation register does nothing. -/
theorem perform_hostWrite_of_recovery (hs : bootServes s) (hr : s.reg Reg.SEC_STATUS_state = secRecovery) (t : State) :
    perform c (s.hostWrite t) = .next s := by
  rw [State.hostWrite, if_pos hr, perform_secWrite hc hs]

end

/-! ### The logs' pointers (R357, R396) -/

section

variable {s : State} (hs : hostServes s)
include hs

theorem exec_errLogEnable (enable : Bool) : exec (.errLogEnable enable) s = .next (s.errLogEnable enable) :=
  perform_hostWrite (c := .errLogEnable enable) rfl hs _

theorem exec_evqEnable (enable : Bool) : exec (.evqEnable enable) s = .next (s.evqEnable enable) :=
  perform_hostWrite (c := .evqEnable enable) rfl hs _

theorem exec_errLogHead (head : Nat) : exec (.errLogHead head) s = .next (s.errLogHead head) :=
  perform_hostWrite (c := .errLogHead head) rfl hs _

theorem exec_evqHead (head : Nat) : exec (.evqHead head) s = .next (s.evqHead head) :=
  perform_hostWrite (c := .evqHead head) rfl hs _

end

theorem State.errLogEnable_true (s : State) : s.errLogEnable true =
    if s.reg Reg.ERR_LOG_CFG_enable = 1 then s
    else if s.reg Reg.ERR_LOG_BASE_base * 64 + 64 * 2 ^ s.reg Reg.ERR_LOG_CFG_log2_entries ≤ 0xC000000000 then
      s.setRegs [(Reg.ERR_LOG_CFG_enable, 1), (Reg.ERR_LOG_PTR_head, 0), (Reg.ERR_LOG_PTR_tail, 0)]
    else s.bump Reg.DEV_CNT_BAD_ACCESS 1 := rfl

theorem State.evqEnable_true (s : State) : s.evqEnable true =
    if s.reg Reg.DEV_EVQ_CFG_enable = 1 then s
    else if s.reg Reg.DEV_EVQ_BASE_base * 32 + 32 * 2 ^ s.reg Reg.DEV_EVQ_CFG_log2_size ≤ 0xC000000000 then
      s.setRegs [(Reg.DEV_EVQ_CFG_enable, 1), (Reg.DEV_EVQ_PTR_head, 0), (Reg.DEV_EVQ_PTR_tail, 0)]
    else s.bump Reg.DEV_CNT_BAD_ACCESS 1 := rfl

/-! ### Events (R356, R394 to R396) -/

/-- The event ring has no room for a record. -/
def State.eventRingFull (s : State) : Prop :=
  (s.reg Reg.DEV_EVQ_PTR_tail + 2 ^ 32 - s.reg Reg.DEV_EVQ_PTR_head) % 2 ^ 32 = 2 ^ s.reg Reg.DEV_EVQ_CFG_log2_size

/-- The place of the event ring's next record. -/
def State.eventPlace (s : State) : Nat :=
  s.reg Reg.DEV_EVQ_BASE_base * 32 + s.reg Reg.DEV_EVQ_PTR_tail % 2 ^ s.reg Reg.DEV_EVQ_CFG_log2_size * 32

/-- The phase bit of the event ring's next record. -/
def State.eventPhase (s : State) : Nat := phaseBit (s.reg Reg.DEV_EVQ_PTR_tail) (s.reg Reg.DEV_EVQ_CFG_log2_size)

/-- The state with a record written at the event ring's tail, before its vector. -/
def State.eventStored (s : State) (f : Field) (unit arg0 arg1 : Nat) : State :=
  { (s.write s.eventPlace (eventRecord f unit s.eventPhase s.eventSeq s.now arg0 arg1)).setReg Reg.DEV_EVQ_PTR_tail
      (s.reg Reg.DEV_EVQ_PTR_tail + 1) with eventSeq := s.eventSeq + 1 }

section

variable {s : State} (f : Field) (unit arg0 arg1 : Nat)

theorem State.eventRing_of_not_accepted (ha : s.accepted 1 = false) : s.eventRing f unit arg0 arg1 = s := by
  rw [State.eventRing, ha]
  rfl

theorem State.eventRing_of_lost (ha : s.accepted 1 = true) (h : s.reg Reg.DEV_EVQ_CFG_enable = 0 ∨ s.eventRingFull) :
    s.eventRing f unit arg0 arg1 = (s.bump Reg.DEV_CNT_EVENT_LOST 1).setReg Reg.DEV_EVENT_event_lost 1 := by
  rw [State.eventRing, ha]
  exact if_pos h

theorem State.eventRing_of_room (ha : s.accepted 1 = true) (hon : s.reg Reg.DEV_EVQ_CFG_enable ≠ 0)
    (hroom : ¬ s.eventRingFull) : s.eventRing f unit arg0 arg1 = (s.eventStored f unit arg0 arg1).raiseVector 0 := by
  rw [State.eventRing, ha]
  exact if_neg (not_or.2 ⟨hon, hroom⟩)

end

/-- An event bit's register lies above those of the host interface that posting reads. -/
theorem Field.key_ne_of_event {f g : Field} (hf : 0xB8 ≤ f.off) (hg : g.key < 0xB8 * 64) : g.key ≠ f.key := by
  have hkey : 0xB8 * 64 ≤ f.key := by
    unfold Field.key
    omega
  omega

/-- The registers that posting reads. -/
theorem eventRing_keys : ∀ g ∈ [Reg.DEV_FEAT_CTRL_committed, Reg.DEV_FEAT_ACCEPT_accept, Reg.DEV_EVQ_BASE_base,
    Reg.DEV_EVQ_CFG_enable, Reg.DEV_EVQ_CFG_log2_size, Reg.DEV_EVQ_PTR_head, Reg.DEV_EVQ_PTR_tail, Reg.DEV_CNT_EVENT_LOST],
    g.key < 0xB8 * 64 := by
  decide

section

variable {s : State} {f : Field} (hf : 0xB8 ≤ f.off)
include hf

/-- Setting an event bit leaves what posting reads. -/
theorem State.reg_setReg_event {g : Field} (v : Nat) (hg : g ∈ [Reg.DEV_FEAT_CTRL_committed, Reg.DEV_FEAT_ACCEPT_accept,
    Reg.DEV_EVQ_BASE_base, Reg.DEV_EVQ_CFG_enable, Reg.DEV_EVQ_CFG_log2_size, Reg.DEV_EVQ_PTR_head, Reg.DEV_EVQ_PTR_tail,
    Reg.DEV_CNT_EVENT_LOST]) : (s.setReg f v).reg g = s.reg g :=
  State.reg_setReg_other _ _ (Field.key_ne_of_event hf (eventRing_keys g hg))

theorem State.accepted_setReg_event (v n : Nat) : (s.setReg f v).accepted n = s.accepted n := by
  unfold State.accepted
  rw [State.reg_setReg_event hf v (by simp), State.reg_setReg_event hf v (by simp)]

theorem State.eventRingFull_setReg_event (v : Nat) : (s.setReg f v).eventRingFull ↔ s.eventRingFull := by
  unfold State.eventRingFull
  rw [State.reg_setReg_event hf v (by simp), State.reg_setReg_event hf v (by simp), State.reg_setReg_event hf v (by simp)]

theorem State.eventPlace_setReg_event (v : Nat) : (s.setReg f v).eventPlace = s.eventPlace := by
  unfold State.eventPlace
  rw [State.reg_setReg_event hf v (by simp), State.reg_setReg_event hf v (by simp), State.reg_setReg_event hf v (by simp)]

theorem State.eventPhase_setReg_event (v : Nat) : (s.setReg f v).eventPhase = s.eventPhase := by
  unfold State.eventPhase
  rw [State.reg_setReg_event hf v (by simp), State.reg_setReg_event hf v (by simp)]

variable (unit arg0 arg1 : Nat)

theorem State.post_of_not_accepted (ha : s.accepted 1 = false) : s.post f unit arg0 arg1 = s.setReg f 1 :=
  State.eventRing_of_not_accepted _ _ _ _ ((State.accepted_setReg_event hf 1 1).trans ha)

theorem State.post_of_lost (ha : s.accepted 1 = true) (h : s.reg Reg.DEV_EVQ_CFG_enable = 0 ∨ s.eventRingFull) :
    s.post f unit arg0 arg1 = ((s.setReg f 1).bump Reg.DEV_CNT_EVENT_LOST 1).setReg Reg.DEV_EVENT_event_lost 1 :=
  State.eventRing_of_lost _ _ _ _ ((State.accepted_setReg_event hf 1 1).trans ha)
    (h.imp (State.reg_setReg_event hf 1 (by simp)).trans (State.eventRingFull_setReg_event hf 1).2)

theorem State.post_of_room (ha : s.accepted 1 = true) (hon : s.reg Reg.DEV_EVQ_CFG_enable ≠ 0) (hroom : ¬ s.eventRingFull) :
    s.post f unit arg0 arg1 = ((s.setReg f 1).eventStored f unit arg0 arg1).raiseVector 0 :=
  State.eventRing_of_room _ _ _ _ ((State.accepted_setReg_event hf 1 1).trans ha)
    (fun h => hon ((State.reg_setReg_event hf 1 (by simp)).symm.trans h))
    (fun h => hroom ((State.eventRingFull_setReg_event hf 1).1 h))

/-- The bit of an event that is posted reads 1, that of lost events too. -/
theorem State.reg_post_event (hw : f.width = 1) : (s.post f unit arg0 arg1).reg f = 1 := by
  have hset : (s.setReg f 1).reg f = 1 := by rw [State.reg_setReg_self, hw]; rfl
  have hkey : ∀ g ∈ [Reg.DEV_EVQ_PTR_tail, Reg.DEV_CNT_EVENT_LOST], f.key ≠ g.key := fun g hg =>
    (Field.key_ne_of_event hf (eventRing_keys g (by
      simp only [List.mem_cons, List.not_mem_nil, or_false] at hg ⊢
      tauto))).symm
  cases ha : s.accepted 1 with
  | false => rw [State.post_of_not_accepted hf unit arg0 arg1 ha, hset]
  | true =>
    by_cases hlost : s.reg Reg.DEV_EVQ_CFG_enable = 0 ∨ s.eventRingFull
    · rw [State.post_of_lost hf unit arg0 arg1 ha hlost, State.reg_setReg]
      split
      · rfl
      · exact (State.reg_setReg_other _ _ (hkey _ (by simp))).trans hset
    · obtain ⟨hon, hroom⟩ := not_or.1 hlost
      rw [State.post_of_room hf unit arg0 arg1 ha hon hroom, State.reg_raiseVector]
      exact (State.reg_setReg_other _ _ (hkey _ (by simp))).trans hset

/-- Where there is room the event's record is written, and the tail and the sequence number rise by one. -/
theorem State.post_stored (ha : s.accepted 1 = true) (hon : s.reg Reg.DEV_EVQ_CFG_enable ≠ 0) (hroom : ¬ s.eventRingFull) :
    (s.post f unit arg0 arg1).mem =
        s.mem.write s.eventPlace (eventRecord f unit s.eventPhase s.eventSeq s.now arg0 arg1) ∧
      (s.post f unit arg0 arg1).reg Reg.DEV_EVQ_PTR_tail = (s.reg Reg.DEV_EVQ_PTR_tail + 1) % 2 ^ 32 ∧
      (s.post f unit arg0 arg1).eventSeq = s.eventSeq + 1 := by
  rw [State.post_of_room hf unit arg0 arg1 ha hon hroom]
  refine ⟨?_, ?_, ?_⟩
  · rw [State.raiseVector_mem, ← State.eventPlace_setReg_event hf 1, ← State.eventPhase_setReg_event hf 1]
    rfl
  · rw [State.reg_raiseVector, ← State.reg_setReg_event (s := s) hf (g := Reg.DEV_EVQ_PTR_tail) 1 (by simp)]
    exact State.reg_setReg_self ..
  · rw [State.raiseVector_eventSeq]
    rfl

end

/-! ### Error records (R356, R357) -/

section

variable {s : State} (r : ErrorRecord)

theorem State.logError_of_off (h : s.reg Reg.ERR_LOG_CFG_enable = 0) : s.logError r = s.bump Reg.ERR_CNT_LOST 1 := if_pos h

variable (hon : s.reg Reg.ERR_LOG_CFG_enable ≠ 0)
include hon

theorem State.logError_of_full (h : (s.reg Reg.ERR_LOG_PTR_tail + 2 ^ 32 - s.reg Reg.ERR_LOG_PTR_head) % 2 ^ 32 =
    2 ^ s.reg Reg.ERR_LOG_CFG_log2_entries) :
    s.logError r = (s.bump Reg.ERR_CNT_LOST 1).post Reg.ERR_EVENT_log_overflow :=
  (if_neg hon).trans (if_pos h)

theorem State.logError_of_room (h : (s.reg Reg.ERR_LOG_PTR_tail + 2 ^ 32 - s.reg Reg.ERR_LOG_PTR_head) % 2 ^ 32 ≠
    2 ^ s.reg Reg.ERR_LOG_CFG_log2_entries) :
    s.logError r = ((({ s with errorSeq := s.errorSeq + 1 } : State).write
      (s.reg Reg.ERR_LOG_BASE_base * 64 + s.reg Reg.ERR_LOG_PTR_tail % 2 ^ s.reg Reg.ERR_LOG_CFG_log2_entries * 64)
      (r.bytes s.now s.errorSeq (phaseBit (s.reg Reg.ERR_LOG_PTR_tail) (s.reg Reg.ERR_LOG_CFG_log2_entries)))).setReg
        Reg.ERR_LOG_PTR_tail (s.reg Reg.ERR_LOG_PTR_tail + 1)).post Reg.ERR_EVENT_error_logged :=
  (if_neg hon).trans (if_neg h)

end

/-! ### Vectors (R394) -/

section

variable {s : State} {v : Nat}

theorem State.raiseVector_of_masked (h : s.vectorMasked v = true) :
    s.raiseVector v = { s with pcie := { s.pcie with pba := insertNat v s.pcie.pba } } := if_pos h

variable (hv : s.vectorMasked v = false)
include hv

theorem State.raiseVector_of_holdoff (h : ∃ x ∈ s.pcie.holdoff, x.1 = v) : s.raiseVector v =
    { s with pcie := { s.pcie with holdoff := s.pcie.holdoff.map (fun x => if x.1 = v then (x.1, x.2.1, true) else x) } } := by
  rw [State.raiseVector, if_neg (by simp [hv]), if_pos (List.any_eq_true.2 (h.imp fun _ hx => ⟨hx.1, decide_eq_true hx.2⟩))]

theorem State.raiseVector_of_free (h : ∀ x ∈ s.pcie.holdoff, x.1 ≠ v) : s.raiseVector v = s.sendVector v := by
  have hnone : ¬ s.pcie.holdoff.any (fun x => decide (x.1 = v)) = true := by
    rw [List.any_eq_true]
    rintro ⟨x, hx, hxv⟩
    exact h x hx (of_decide_eq_true hxv)
  rw [State.raiseVector, if_neg (by simp [hv]), if_neg hnone]

end

/-- Settles O42: each pointer by its write, an event by the event ring, a record by the error log, and a vector by its mask and
its holdoff. -/
theorem logsAndEvents : Obligations.LogsAndEvents := by
  refine ⟨fun s hs => ⟨exec_errLogEnable hs false, exec_evqEnable hs false, fun h => ?_, fun h => ⟨fun hfits => ?_, fun hlong => ?_⟩,
      fun h => ?_, fun h => ⟨fun hfits => ?_, fun hlong => ?_⟩, fun value v hv => ?_⟩,
    fun s => ⟨fun f unit a0 a1 hw hf => ⟨State.reg_post_event hf unit a0 a1 hw, (s.post_keeps f unit a0 a1).1,
      State.post_of_not_accepted hf unit a0 a1, State.post_stored hf unit a0 a1, State.post_of_lost hf unit a0 a1⟩,
      fun r => ⟨State.logError_of_off r, State.logError_of_full r, State.logError_of_room r⟩,
      fun v => ⟨State.raiseVector_of_masked, fun hv h => ?_, fun hv h => ?_⟩⟩⟩
  · rw [exec_errLogEnable hs, State.errLogEnable_true, if_pos h]
  · rw [exec_errLogEnable hs, State.errLogEnable_true, if_neg h, if_pos hfits]
  · rw [exec_errLogEnable hs, State.errLogEnable_true, if_neg h, if_neg (Nat.not_le.2 hlong)]
  · rw [exec_evqEnable hs, State.evqEnable_true, if_pos h]
  · rw [exec_evqEnable hs, State.evqEnable_true, if_neg h, if_pos hfits]
  · rw [exec_evqEnable hs, State.evqEnable_true, if_neg h, if_neg (Nat.not_le.2 hlong)]
  · subst hv
    rw [exec_errLogHead hs, exec_evqHead hs]
    exact ⟨fun h => congrArg _ (if_pos h), fun h => congrArg _ (if_neg (Nat.not_le.2 h)),
      fun h => congrArg _ (if_pos h), fun h => congrArg _ (if_neg (Nat.not_le.2 h))⟩
  · rw [State.raiseVector_of_holdoff hv h]
    refine ⟨rfl, fun x hx hxv => ?_⟩
    obtain ⟨y, -, rfl⟩ := List.mem_map.1 hx
    by_cases hy : y.1 = v
    · rw [if_pos hy]
    · rw [if_neg hy] at hxv
      exact absurd hxv hy
  · rw [State.raiseVector_of_free hv h]
    rfl

/-! ### Parity and SRAM errors (R341, R343, R345) -/

theorem exec_parityError {site : ParitySite} (h : site.wf = true) (s : State) :
    exec (.parityError site) s = .next (s.parityError site) :=
  perform_of_wf (c := .parityError site) h _

section

variable {s : State} {t : Task} (ht : s.task? t.id = some t)
include ht

theorem State.parityError_tileEngine (tile : Nat) : s.parityError (.tileEngine t.id tile) =
    if t.phase = .running ∧ isTileClass t.desc.engine ∧ t.desc.engine ≠ engDMA ∧ s.jobRuns t.job ∧
      (s.heldTiles t).contains tile then s.tileParity t tile else s := by
  rw [State.parityError, ht]

theorem State.parityError_control : s.parityError (.control t.id) =
    if t.unfinished then (s.bump Reg.ERR_CNT_PARITY 1).parityEnds t else s := by
  rw [State.parityError, ht]

theorem State.parityError_taskEntry : s.parityError (.taskEntry t.id) =
    if t.phase = .recordDue ∨ t.phase = .signalling then s else s.entryParity t := by
  rw [State.parityError, ht]

end

/-! An error inside the engine of a tile, by the task that the tile runs (R348 to R350). -/

section

variable {s u : State} {t : Task} {tile : Nat} (hu : u = (s.bump Reg.ERR_CNT_PARITY 1).suspectTile tile)
include hu

theorem State.tileParity_of_speculative (hspec : t.speculative = true) :
    s.tileParity t tile = (u.bump Reg.MEM_CNT_SPEC_FAULT_SUPPRESSED 1).setTask { t with marked := true } := by
  rw [State.tileParity, if_pos hspec, hu]

variable (hspec : t.speculative = false)
include hspec

theorem State.tileParity_of_inPlace (hplace : t.inPlace = true) :
    s.tileParity t tile = (u.logError (t.parityRecord tile 0 0xFF 2 stPARITY)).parityEnds t := by
  rw [State.tileParity, if_neg (by simp [hspec]), if_pos hplace, hu]

variable (hplace : t.inPlace = false)
include hplace

theorem State.tileParity_of_first (h : t.attempts = 0) : s.tileParity t tile = u.replay t tile 1 0xFF := by
  rw [State.tileParity, if_neg (by simp [hspec]), if_neg (by simp [hplace]), if_pos h, hu]

theorem State.tileParity_of_second {x : Nat} {v : Task} (h : t.attempts = 1) (hx : u.substitute? t.job tile = some x)
    (hv : u.movedOff t tile = some v) : s.tileParity t tile = u.replay { v with faulty := some tile } tile 2 x := by
  subst hu
  simp only [State.tileParity, hspec, hplace, h, hx, hv, Bool.false_eq_true, if_false, Nat.one_ne_zero]

theorem State.tileParity_of_last (h : 2 ≤ t.attempts ∨ (t.attempts = 1 ∧ u.substitute? t.job tile = none)) :
    s.tileParity t tile = (u.logError (t.parityRecord tile t.attempts 0xFF 2 stPARITY)).parityEnds t := by
  have h0 : t.attempts ≠ 0 := by omega
  subst hu
  simp only [State.tileParity, hspec, hplace, h0, Bool.false_eq_true, if_false]
  split
  · rename_i h1 hsub _
    rcases h with h2 | ⟨-, hnone⟩
    · omega
    · exact absurd (hsub.symm.trans hnone) (by simp)
  · rfl

end

/-! What of a ring is lost. -/

section

variable {s : State} {ring : Nat}

theorem State.ringParity_of_held (h : (s.ring ring).heldByRecord = true) : s.ringParity ring = s := if_pos h

variable (hheld : (s.ring ring).heldByRecord = false)
include hheld

theorem State.ringParity_of_progress (h : (s.ring ring).progress ≠ none) :
    s.ringParity ring = s.rejectDescriptor ring 0 0 stPARITY false := by
  rw [State.ringParity, if_neg (by simp [hheld]), if_pos (Option.isSome_iff_ne_none.2 h)]

theorem State.ringParity_of_no_progress (h : (s.ring ring).progress = none) :
    s.ringParity ring = if (s.ringEntry? ring).isSome then s.rejectEntry ring stPARITY else s := by
  rw [State.ringParity, if_neg (by simp [hheld]), if_neg (by simp [h])]

end

/-- Settles O40: each site by what it names: a block, a tile store, a tile's engine and its task, a task, a ring, or a job. -/
theorem parityErrors : Obligations.ParityErrors := by
  refine fun s => ⟨fun key h => exec_parityError h s, fun key h => exec_parityError h s, exec_parityError rfl s,
    fun tile h => exec_parityError (site := .sramCorrected (some tile)) (decide_eq_true h) s, fun t tile ht hdie htile => ?_, fun t ht hdie => ?_,
    fun ring hring u hu => ?_, fun j u hu => ?_, fun u hu => ?_⟩
  · have hwf : (ParitySite.tileEngine t.id tile).wf = true := by simp [ParitySite.wf, TaskId.wf_of_lt hdie, htile]
    rw [exec_parityError hwf, State.parityError_tileEngine ht]
    refine ⟨fun hp hj hclass hdma hheld u hu => ?_, fun h => congrArg _ (if_neg ?_)⟩
    · rw [if_pos ⟨hp, hclass, hdma, State.jobRuns_iff.2 hj, hheld⟩]
      exact ⟨fun hspec => congrArg _ (State.tileParity_of_speculative hu hspec),
        fun hspec hplace => congrArg _ (State.tileParity_of_inPlace hu hspec hplace),
        fun hspec hplace h => congrArg _ (State.tileParity_of_first hu hspec hplace h),
        fun x v hspec hplace h hx hv => congrArg _ (State.tileParity_of_second hu hspec hplace h hx hv),
        fun hspec hplace h => congrArg _ (State.tileParity_of_last hu hspec hplace h)⟩
    · rintro ⟨hp, hclass, hdma, hj, hheld⟩
      rcases h with h | h | h | h | h
      · exact h hp
      · exact h (State.jobRuns_iff.1 hj)
      · exact Bool.noConfusion (hclass.symm.trans h)
      · exact hdma h
      · exact Bool.noConfusion (hheld.symm.trans h)
  · rw [exec_parityError (site := .control t.id) (TaskId.wf_of_lt hdie),
      exec_parityError (site := .taskEntry t.id) (TaskId.wf_of_lt hdie), State.parityError_control ht,
      State.parityError_taskEntry ht]
    refine ⟨fun h => congrArg _ (if_pos h), fun h => congrArg _ (if_neg (by simp [h])), fun hrecord hsignal u hu => ?_,
      fun h => congrArg _ (if_pos h)⟩
    rw [if_neg (not_or.2 ⟨hrecord, hsignal⟩), hu]
    simp only [State.entryParity, State.jobRuns_iff]
  · have hring' : s.ring ring = u.ring ring := hu ▸ rfl
    rw [exec_parityError (site := .ringEntry ring) (decide_eq_true hring), hring', State.parityError, ← hu]
    refine ⟨fun h => congrArg _ (State.ringParity_of_held h), fun hheld h => congrArg _ (State.ringParity_of_progress hheld h),
      fun e hheld h he => ?_, fun hheld h he => ?_⟩
    · rw [State.ringParity_of_no_progress hheld h, if_pos (by rw [he]; rfl)]
    · rw [State.ringParity_of_no_progress hheld h, if_neg (by simp [he])]
  · rw [exec_parityError rfl, hu]
    rfl
  · rw [exec_parityError rfl, hu]
    rfl

/-! ### Jobs (R346, R347) -/

theorem State.jobKill_of_runs {s : State} (h : s.jobState (s.reg Reg.ERR_JOB_SEL_job_id) = 1) : s.jobKill =
    (s.terminateJob (s.reg Reg.ERR_JOB_SEL_job_id) stJOB_KILLED).setReg Reg.ERR_JOB_CTRL_kill 1 :=
  if_pos (State.jobRuns_iff.2 h)

theorem State.jobKill_of_not_running {s : State} (h : s.jobState (s.reg Reg.ERR_JOB_SEL_job_id) ≠ 1) : s.jobKill = s :=
  if_neg (mt State.jobRuns_iff.1 h)

theorem State.jobRevive_of_some {s : State} {j : Job} (h : s.job? (s.reg Reg.ERR_JOB_SEL_job_id) = some j) :
    s.jobRevive = if j.state = 3 then s.setJob { j with state := 1, cause := 0 } else s := by
  rw [State.jobRevive, h]

theorem State.jobRevive_of_none {s : State} (h : s.job? (s.reg Reg.ERR_JOB_SEL_job_id) = none) : s.jobRevive = s := by
  rw [State.jobRevive, h]

section

variable {s : State} (hs : hostServes s)
include hs

theorem exec_jobKill : exec .jobKill s = .next s.jobKill := perform_hostWrite (c := .jobKill) rfl hs _

theorem exec_jobRevive : exec .jobRevive s = .next s.jobRevive := perform_hostWrite (c := .jobRevive) rfl hs _

end

theorem exec_jobTerminated (s : State) (job : Nat) : exec (.jobTerminated job) s = .next (s.jobTerminated job) :=
  perform_of_wf (c := .jobTerminated job) rfl _

section

variable {s : State} {job : Nat} {j : Job} (h : s.job? job = some j)
include h

/-- A job that is found has the ID that was asked for. -/
theorem State.job?_id : j.id = job := by
  simpa using List.find?_some h

theorem State.jobTerminated_of_other (hstate : j.state ≠ 2) : s.jobTerminated job = s := by
  simp only [State.jobTerminated, h, if_neg hstate]

theorem State.jobTerminated_of_terminating (hstate : j.state = 2) : s.jobTerminated job =
    if ((s.killJobTasks job).closeJob job).jobRecordsDone job then ((s.killJobTasks job).closeJob job).jobKilled j
    else (s.killJobTasks job).closeJob job := by
  simp only [State.jobTerminated, h, if_pos hstate]

/-- The state of a job that is set. -/
theorem State.job?_setJob {k : Job} (hk : k.id = j.id) : (s.setJob k).job? job = some k := by
  have hj := State.job?_id h
  have hcomp : (fun i : Job => decide (i.id = job)) ∘ (fun i => if i.id = k.id then k else i) = fun i => decide (i.id = job) := by
    funext i
    by_cases hi : i.id = k.id
    · simp [hi]
    · simp [hi]
  have hfound : s.jobs.find? (fun i => decide (i.id = job)) = some j := h
  show (s.jobs.map _).find? _ = _
  rw [List.find?_map, hcomp, hfound]
  simp [hk]

theorem State.terminateJob_of_running (hstate : j.state = 1) (cause : Nat) :
    (s.terminateJob job cause).jobs = (s.setJob { j with state := 2, cause := cause }).jobs := by
  simp only [State.terminateJob, h, if_pos hstate]

/-- A running job whose termination starts is TERMINATING. -/
theorem State.jobState_terminateJob (hstate : j.state = 1) (cause : Nat) : (s.terminateJob job cause).jobState job = 2 := by
  have hjob : (s.terminateJob job cause).job? job = some { j with state := 2, cause := cause } := by
    rw [State.job?, State.terminateJob_of_running h hstate]
    exact State.job?_setJob h rfl
  rw [State.jobState, hjob]
  rfl

end

/-- Settles O41: the host's two commands by the selected job's state, and the end of a termination by its records. -/
theorem jobs : Obligations.Jobs := by
  refine fun s job => ⟨fun hs hjob => ?_, fun c hc => ?_, fun j u h hu => ⟨fun hstate hdone v hv => ?_, fun hstate hdone => ?_,
    fun hstate => ?_⟩, fun h => ?_, fun j h hstate cause => ⟨((s.terminateJob_keeps job cause).mono rfl).1,
      State.jobState_terminateJob h hstate cause⟩⟩
  · subst hjob
    rw [exec_jobKill hs, exec_jobRevive hs]
    exact ⟨fun h => congrArg _ (State.jobKill_of_runs h), fun h => congrArg _ (State.jobKill_of_not_running h),
      fun j h hstate => by rw [State.jobRevive_of_some h, if_pos hstate],
      fun j h hstate => by rw [State.jobRevive_of_some h, if_neg hstate], fun h => congrArg _ (State.jobRevive_of_none h)⟩
  · rcases hc with rfl | rfl
    · exact ⟨fun hp => perform_secWrite_of_unpowered (c := .jobKill) rfl hp _,
        fun hp hd => perform_secWrite_of_d3hot (c := .jobKill) rfl hp hd _⟩
    · exact ⟨fun hp => perform_secWrite_of_unpowered (c := .jobRevive) rfl hp _,
        fun hp hd => perform_secWrite_of_d3hot (c := .jobRevive) rfl hp hd _⟩
  · subst hu hv
    rw [exec_jobTerminated, State.jobTerminated_of_terminating h hstate, if_pos hdone]
    rfl
  · subst hu
    rw [exec_jobTerminated, State.jobTerminated_of_terminating h hstate, if_neg (by simp [hdone])]
  · rw [exec_jobTerminated, State.jobTerminated_of_other h hstate]
  · rw [exec_jobTerminated, State.jobTerminated, h]

end

end Sys2Proof.Machine
end

section
namespace Sys2Proof.Machine

open Sys2Proof

section

-- As in the model's Laws: one declaration after another keeps the joined text within the check's memory.
set_option Elab.async false

/-! ### Clocks and voltages (R364, R366, R367) -/

theorem exec_multSlewStep {d : Nat} (hd : d < 10) (s : State) : exec (.multSlewStep d) s = .next (s.multSlewStep d) :=
  perform_of_wf (c := .multSlewStep d) (decide_eq_true hd) _

theorem exec_voltageAdjust {d : Nat} (hd : d < 8) (slack : Int) (s : State) :
    exec (.voltageAdjust d slack) s = .next (s.voltageAdjust d slack) :=
  perform_of_wf (c := .voltageAdjust d slack) (decide_eq_true hd) _

/-- A die whose root does not move: an I/O die's, or one that is off in the watch. -/
def State.rootRests (s : State) (d : Nat) : Prop := 8 ≤ d ∨ s.power.anchor = .watching ∨ s.power.anchor = .waking

theorem State.not_rootRests {s : State} {d : Nat} (hd : d < 8) (h : s.power.anchor = .awake ∨ s.power.anchor = .entering) :
    ¬ s.rootRests d := by
  rintro (h8 | hwatch | hwake)
  · omega
  · simp [hwatch] at h
  · simp [hwake] at h

section

variable {s : State} {d : Nat}

theorem State.multSlewStep_of_rests (h : s.rootRests d) : s.multSlewStep d = s := if_pos h

theorem State.voltageAdjust_of_rests (h : s.rootRests d) (slack : Int) : s.voltageAdjust d slack = s := if_pos h

variable (hruns : ¬ s.rootRests d)
include hruns

theorem State.multSlewStep_of_below (h : s.reg (Reg.PLT_DIE_mult d) < (s.diePower d).target) : s.multSlewStep d = s.setRegs
    [(Reg.PLT_DIE_v_mv d, Nat.max (s.reg (Reg.PLT_DIE_v_mv d)) (railMv (s.planMv d (s.diePower d).target))),
      (Reg.PLT_DIE_mult d, s.reg (Reg.PLT_DIE_mult d) + 1)] :=
  (if_neg hruns).trans (if_pos h)

theorem State.multSlewStep_of_above (h : (s.diePower d).target < s.reg (Reg.PLT_DIE_mult d)) {u : State}
    (hu : u = s.setReg (Reg.PLT_DIE_mult d) (s.reg (Reg.PLT_DIE_mult d) - 1)) : s.multSlewStep d =
    if s.reg (Reg.PLT_DIE_mult d) - 1 = (s.diePower d).target then
      u.setReg (Reg.PLT_DIE_v_mv d) (railMv (s.planMv d (s.diePower d).target)) else u := by
  subst hu
  exact (if_neg hruns).trans ((if_neg (by omega)).trans (if_pos h))

theorem State.multSlewStep_of_target (h : s.reg (Reg.PLT_DIE_mult d) = (s.diePower d).target) : s.multSlewStep d = s :=
  (if_neg hruns).trans ((if_neg (by omega)).trans (if_neg (by omega)))

variable {slack : Int} {u : State} (hu : u = s.setReg (Reg.PLT_AGE_slack_ps d) (ofSigned 16 slack))
include hu

theorem State.voltageAdjust_of_short (h : (slack : Rat) < guardband (s.power.drift.getD d 0)) : s.voltageAdjust d slack =
    u.setReg (Reg.PLT_DIE_v_mv d) (Nat.min 900 (s.reg (Reg.PLT_DIE_v_mv d) + 5)) := by
  subst hu
  exact (if_neg hruns).trans (if_pos h)

theorem State.voltageAdjust_of_long (h : guardband (s.power.drift.getD d 0) + 8 < (slack : Rat)) : s.voltageAdjust d slack =
    u.setReg (Reg.PLT_DIE_v_mv d) (Nat.max 550 (s.reg (Reg.PLT_DIE_v_mv d) - 5)) := by
  have hnot : ¬ (slack : Rat) < guardband (s.power.drift.getD d 0) := by linarith
  subst hu
  exact (if_neg hruns).trans ((if_neg hnot).trans (if_pos h))

theorem State.voltageAdjust_of_settled (h1 : guardband (s.power.drift.getD d 0) ≤ (slack : Rat))
    (h2 : (slack : Rat) ≤ guardband (s.power.drift.getD d 0) + 8) : s.voltageAdjust d slack =
    (u.setDiePower d { s.diePower d with
      planned := storeNat (s.reg (Reg.PLT_DIE_mult d)) (s.reg (Reg.PLT_DIE_v_mv d)) (s.diePower d).planned }).checkFmax d := by
  subst hu
  exact (if_neg hruns).trans ((if_neg (not_lt.2 h1)).trans (if_neg (not_lt.2 h2)))

end

theorem permits_PLT_OPP_mult (e v : Nat) : (Reg.PLT_OPP_mult e).permits v = true ↔ 22 ≤ v ∧ v ≤ 72 := by
  simp [Field.permits, Reg.PLT_OPP_mult]

theorem permits_PLT_CAP (v : Nat) : Reg.PLT_CAP_cap_w.permits v = true ↔ v ≤ 2800 := by
  simp [Field.permits, Reg.PLT_CAP_cap_w]

section

variable {s : State} (hs : hostServes s)
include hs

/-- An operating point is taken within its range, where the table stays without a descent (R366). -/
theorem exec_oppWrite {e : Nat} (he : e < 64) (value : Nat) : exec (.oppWrite e value) s = .next
    (if 22 ≤ value % 128 ∧ value % 128 ≤ 72 then
      if (e = 0 ∨ s.reg (Reg.PLT_OPP_mult (e - 1)) ≤ value % 128) ∧ (e = 63 ∨ value % 128 ≤ s.reg (Reg.PLT_OPP_mult (e + 1))) then
        s.setReg (Reg.PLT_OPP_mult e) (value % 128) else s
    else s) :=
  (perform_hostWrite (c := .oppWrite e value) (decide_eq_true he) hs _).trans
    (congrArg _ (if_congr (permits_PLT_OPP_mult e (value % 128)) rfl rfl))

theorem exec_capWrite (value : Nat) : exec (.capWrite value) s = .next
    (if value % 4096 ≤ 2800 then (s.setReg Reg.PLT_CAP_cap_w (value % 4096)).rebudget else s) :=
  (perform_hostWrite (c := .capWrite value) rfl hs _).trans (congrArg _ (if_congr (permits_PLT_CAP (value % 4096)) rfl rfl))

end

/-- Forming the budget anew changes nothing of the Pilot but whether the thermal limit is the lower one (R376). -/
theorem State.rebudget_power (s : State) : s.rebudget.power =
    { s.power with thermalLow := decide (s.thermalLimit < (s.reg Reg.PLT_CAP_cap_w : Rat)) } := by
  unfold State.rebudget
  dsimp only
  split
  · rw [State.post_power, State.setRegs_power]
  · split
    · rw [State.setReg_power, State.setRegs_power]
    · rw [State.setRegs_power]

/-- A fall of fmax leaves the drift. -/
theorem State.checkFmax_drift (s : State) (d : Nat) : (s.checkFmax d).power.drift = s.power.drift := by
  unfold State.checkFmax
  dsimp only
  split
  · rw [State.post_power]
    rfl
  · rfl

theorem State.foldl_checkFmax_drift (l : List Nat) (s : State) : (l.foldl State.checkFmax s).power.drift = s.power.drift := by
  induction l generalizing s with
  | nil => rfl
  | cons d r ih => exact (ih _).trans (s.checkFmax_drift d)

/-- The drift of each die is the worst of its tiles (R377). -/
theorem State.ageingMeasure_drift (s : State) (l : List Nat) :
    (s.ageingMeasure l).power.drift = (List.range 8).map (fun d => maxNat ((l.drop (8 * d)).take 8)) := by
  rw [State.ageingMeasure, State.foldl_checkFmax_drift]

theorem State.ageingMeasure_tasks (s : State) (l : List Nat) : (s.ageingMeasure l).tasks = s.tasks :=
  (s.ageingMeasure_keeps l).1 .tasks rfl

/-! ### Rail limits, droop and heat (R361, R375, R376) -/

theorem exec_railLimit {r : RailReport} {g : Nat} (hr : r.rail < 27) (hpos : 0 < g) (hg : g ≤ 64) (s : State) :
    exec (.railLimit r g) s = .next (s.railLimit r g) :=
  perform_of_wf (c := .railLimit r g) (by simp [Instr.wf, hr, hpos, hg]) _

section

variable {s : State} {r : RailReport} {d : Nat} (hdie : railDie? r.rail = some d) {others : List (Nat × Nat)}
  (hothers : others = s.power.railActing.filter (fun a => !decide (a.1 = r.rail)))
include hdie hothers

theorem State.railLimit_of_over (hover : railOver r = true) (g : Nat) : s.railLimit r g = (({ s with power := { s.power with
    railActing := others ++ [(r.rail, g)], railActed := true } } : State).bump Reg.PLT_CNT_STRETCH r.stretched).showGate d := by
  subst hothers
  simp only [State.railLimit, hdie, hover, if_true, Bool.or_true]

theorem State.railLimit_of_below (hover : railOver r = false) (g : Nat) : s.railLimit r g =
    ({ s with power := { s.power with railActing := others } } : State).showGate d := by
  subst hothers
  simp only [State.railLimit, hdie, hover, Bool.false_eq_true, if_false, Bool.or_false]

end

/-- The least of a list of numbers and a bound. -/
theorem foldl_min_le {l : List Nat} {b x : Nat} (h : x = b ∨ x ∈ l) : l.foldl Nat.min b ≤ x := by
  induction l generalizing b x with
  | nil => exact (h.resolve_right List.not_mem_nil).ge
  | cons a r ih =>
    have hbound : r.foldl Nat.min (Nat.min b a) ≤ Nat.min b a := ih (.inl rfl)
    rcases h with rfl | h
    · exact hbound.trans (Nat.min_le_left ..)
    · rcases List.mem_cons.1 h with rfl | h
      · exact hbound.trans (Nat.min_le_right ..)
      · exact ih (.inr h)

/-- The gate that a compute die shows is no more than the Pilot's and its rail limits'. -/
theorem State.gate_showGate_le (s : State) {d : Nat} (hd : d < 8) :
    (s.showGate d).reg (Reg.PLT_DIE_gate d) ≤ Nat.min (s.diePower d).gate (s.railGate d) := by
  rw [State.showGate, if_pos hd, State.reg_setReg_self]
  exact Nat.mod_le ..

/-- A rail limit that acts holds its die's gate. -/
theorem State.railGate_le (s : State) {d : Nat} {a : Nat × Nat} (ha : a ∈ s.power.railActing) (hdie : railDie? a.1 = some d) :
    s.railGate d ≤ a.2 :=
  foldl_min_le (.inr (List.mem_map_of_mem (List.mem_filter.2 ⟨ha, decide_eq_true hdie⟩)))

theorem exec_droop {d : Nat} (hd : d < 8) (n : Nat) (s : State) :
    exec (.droop d n) s = .next (s.bump Reg.PLT_CNT_STRETCH n) :=
  perform_of_wf (c := .droop d n) (decide_eq_true hd) _

theorem exec_droopPersist {d : Nat} (hd : d < 8) (s : State) : exec (.droopPersist d) s = .next (s.setDiePower d { s.diePower d with
    held := true, heldAt := s.now, target := Nat.max 22 (s.reg (Reg.PLT_DIE_mult d) - 2) }) :=
  (perform_of_wf (c := .droopPersist d) (decide_eq_true hd) _).trans (congrArg _ (if_neg (Nat.not_le.2 hd)))

theorem exec_droopHoldEnd {d : Nat} (hd : d < 8) (s : State) : exec (.droopHoldEnd d) s = .next
    (if (s.diePower d).held = true ∧ (s.diePower d).heldAt + 10000 ≤ s.now then
      s.setDiePower d { s.diePower d with held := false } else s) :=
  perform_of_wf (c := .droopHoldEnd d) (decide_eq_true hd) _

theorem exec_junctionThrottle {d : Nat} (hd : d < 10) (tj : Nat) (s : State) :
    exec (.junctionThrottle d tj) s = .next (s.junctionThrottle d tj) :=
  perform_of_wf (c := .junctionThrottle d tj) (decide_eq_true hd) _

section

variable {s : State} {d tj : Nat}

theorem State.junctionThrottle_of_io (hd : 8 ≤ d) : s.junctionThrottle d tj = s.setReg (Reg.PLT_DIE_tj d) tj := if_pos hd

variable (hd : d < 8)
include hd

theorem State.junctionThrottle_of_hot (h : s.reg Reg.PLT_THERMAL_tj_target < tj) : s.junctionThrottle d tj =
    (s.setReg (Reg.PLT_DIE_tj d) tj).setDiePower d { s.diePower d with
      hot := true, target := Nat.max 22 (Nat.min (s.diePower d).target (s.reg (Reg.PLT_DIE_mult d)) - 1) } :=
  (if_neg (Nat.not_le.2 hd)).trans (if_pos h)

theorem State.junctionThrottle_of_cool (h : tj ≤ s.reg Reg.PLT_THERMAL_tj_target) : s.junctionThrottle d tj =
    (s.setReg (Reg.PLT_DIE_tj d) tj).setDiePower d { s.diePower d with hot := false } :=
  (if_neg (Nat.not_le.2 hd)).trans (if_neg (Nat.not_lt.2 h))

end

/-- R_th and the inlet's temperature after an update (R376). -/
theorem State.rthUpdate_power (s : State) (tj tin pin : Nat) : (s.rthUpdate tj tin pin).power.tin = some tin ∧
    (s.rthUpdate tj tin pin).power.rth = if 1000 ≤ pin then
      s.power.rth + ((((tj : Rat) - (tin : Rat)) * 1000000) / (pin : Rat) - s.power.rth) / 16 else s.power.rth := by
  unfold State.rthUpdate
  dsimp only
  rw [State.rebudget_power, State.setRegs_power]
  exact ⟨rfl, rfl⟩

theorem exec_inputLow (vin : Nat) {s u : State}
    (hu : u = (({ s with power := { s.power with vin := vin } } : State).setReg Reg.PLT_POWER_vin vin).rebudget) :
    exec (.inputLow vin) s = .next (if vin < 4000 then u.post Reg.PLT_EVENT_input_low else u) := by
  subst hu
  exact perform_of_wf (c := .inputLow vin) rfl _

/-- Settles O43: a root and a voltage by the die's target and slack, and each report by what it is compared with. -/
theorem clocksVoltagesLimits : Obligations.ClocksVoltagesLimits := by
  refine ⟨fun s d hd => ⟨fun hruns => ?_, fun hrests => ?_, fun n => exec_droop hd n s, exec_droopPersist hd s,
      fun hheld hdue => ?_, fun h => ?_, fun tj h => ?_, fun tj h => ?_⟩,
    fun s => ⟨fun d tj hd => ?_, fun e value v hs he hv => ?_, fun value v hs hv => ?_, fun vin u hu => ?_, fun l hl => ?_, rfl,
      fun r g hr hpos hg => ?_, fun d hd => ?_, fun tj tin pin => ?_⟩⟩
  · have hruns := State.not_rootRests hd hruns
    rw [exec_multSlewStep (by omega)]
    refine ⟨fun h => congrArg _ (State.multSlewStep_of_below hruns h), fun h => ?_, fun h => ?_,
      fun h => congrArg _ (State.multSlewStep_of_target hruns h), fun slack u hu => ?_⟩
    · rw [State.multSlewStep_of_above hruns (by omega) rfl, if_neg (by omega)]
    · rw [State.multSlewStep_of_above hruns (by omega) rfl, if_pos (by omega), ← h, Nat.add_sub_cancel]
    · rw [exec_voltageAdjust hd]
      exact ⟨fun h => congrArg _ (State.voltageAdjust_of_short hruns hu h),
        fun h => congrArg _ (State.voltageAdjust_of_long hruns hu h),
        fun h1 h2 => congrArg _ (State.voltageAdjust_of_settled hruns hu h1 h2)⟩
  · exact ⟨(exec_multSlewStep (by omega) s).trans (congrArg _ (State.multSlewStep_of_rests (.inr hrests))),
      fun slack => (exec_voltageAdjust hd slack s).trans (congrArg _ (State.voltageAdjust_of_rests (.inr hrests) slack))⟩
  · rw [exec_droopHoldEnd hd, if_pos ⟨hheld, hdue⟩]
  · rw [exec_droopHoldEnd hd, if_neg]
    rintro ⟨hheld, hdue⟩
    rcases h with h | h
    · exact Bool.noConfusion (hheld.symm.trans h)
    · omega
  · rw [exec_junctionThrottle (by omega), State.junctionThrottle_of_hot hd h]
  · rw [exec_junctionThrottle (by omega), State.junctionThrottle_of_cool hd h]
  · rw [exec_multSlewStep (by omega), State.multSlewStep_of_rests (.inl (by omega)), exec_junctionThrottle (by omega),
      State.junctionThrottle_of_io (by omega)]
    exact ⟨rfl, rfl⟩
  · subst hv
    rw [exec_oppWrite hs he]
    refine ⟨fun hlo hhi hbelow habove => ?_, fun h => ?_, fun hpos hlt => ?_, fun hlast hlt => ?_⟩
    · rw [if_pos ⟨hlo, hhi⟩, if_pos ⟨hbelow, habove⟩]
    · rw [if_neg (by omega)]
    · rw [if_neg (c := (e = 0 ∨ _) ∧ _) (by omega), ite_self]
    · rw [if_neg (c := (e = 0 ∨ _) ∧ _) (by omega), ite_self]
  · subst hv
    rw [exec_capWrite hs]
    exact ⟨fun h => congrArg _ (if_pos h), fun h => congrArg _ (if_neg (Nat.not_le.2 h))⟩
  · rw [exec_inputLow vin hu]
    exact ⟨fun h => congrArg _ (if_pos h), fun h => congrArg _ (if_neg (Nat.not_lt.2 h))⟩
  · exact ⟨s.ageingMeasure l, perform_of_wf (c := .ageingMeasure l) (decide_eq_true hl) _, s.ageingMeasure_drift l,
      s.ageingMeasure_tasks l⟩
  · rw [exec_railLimit hr hpos hg]
    refine ⟨fun h => ?_, fun d others hdie hothers => ⟨fun hover => congrArg _ (State.railLimit_of_over hdie hothers hover g),
      fun hover => congrArg _ (State.railLimit_of_below hdie hothers hover g)⟩⟩
    rw [State.railLimit, h]
    rfl
  · have hle := s.gate_showGate_le hd
    exact ⟨hle.trans (Nat.min_le_left ..), fun a ha hdie => (hle.trans (Nat.min_le_right ..)).trans (s.railGate_le ha hdie)⟩
  · obtain ⟨htin, hrth⟩ := s.rthUpdate_power tj tin pin
    exact ⟨fun h => ⟨s.rthUpdate tj tin pin, rfl, htin, hrth.trans (if_pos h)⟩,
      fun h => ⟨s.rthUpdate tj tin pin, rfl, htin, hrth.trans (if_neg (Nat.not_le.2 h))⟩⟩

/-! ### The Pilot's interval (R361, R369 to R373) -/

theorem exec_pilotInterval {m : PilotMeasure} (hm : m.wf = true) (s : State) :
    exec (.pilotInterval m) s = .next (s.pilotInterval m) :=
  perform_of_wf (c := .pilotInterval m) hm _

theorem State.countRailLimit_of_none {s : State} (h : s.power.railActed = false) : s.countRailLimit = s := by
  rw [State.countRailLimit, if_neg (by simp [h])]

theorem State.countRailLimit_of_acted {s : State} (h : s.power.railActed = true) : s.countRailLimit =
    ({ s with power := { s.power with railActed := !s.power.railActing.isEmpty } } : State).bump Reg.PLT_CNT_RAIL_LIMIT 1 :=
  if_pos h

section

variable {s c : State} {m : PilotMeasure}
  (hc : c = (({ s with power := { s.power with vin := m.vin } } : State)).countRailLimit)
include hc

theorem State.pilotInterval_of_asleep (h : s.power.anchor = .watching ∨ s.power.anchor = .waking) : s.pilotInterval m =
    ((c.setRegs [(Reg.PLT_POWER_vin, m.vin), (Reg.PLT_POWER_pin_w, m.pinW), (Reg.PLT_HBM_p_w, m.hbmW)]).rebudget).accountEnergy
      m := by
  subst hc
  exact if_pos h

theorem State.pilotInterval_of_awake (h : s.power.anchor = .awake ∨ s.power.anchor = .entering) {phases : List Nat} {u : State}
    (hphases : phases = (List.range 8).map (fun d => s.diePhase d (m.dies.getD d ⟨[], 0, 0, [], 0⟩)))
    (hu : u = (((c.learnPhases phases m).reportInterval phases m).rebudget.applyPilot phases m).reportPhases phases m) :
    s.pilotInterval m = (if (List.range 8).any (fun d => decide (u.reg (Reg.PLT_DIE_gate d) < 64)) then
      u.bump Reg.PLT_CNT_GATE 1 else u).accountEnergy m := by
  have hawake : ¬ (s.power.anchor = .watching ∨ s.power.anchor = .waking) := by
    rcases h with h | h <;> simp [h]
  subst hu hphases hc
  exact if_neg hawake

end

/-! ### Learning of phases (R372) -/

section

variable {s : State} {p : Nat} (w b : Nat)

theorem exec_prefRevise (hp : p < 64) (atPref : Bool) (s : State) :
    exec (.prefRevise p w b atPref) s = .next (s.prefRevise p w b atPref) :=
  perform_of_wf (c := .prefRevise p w b atPref) (decide_eq_true hp) _

theorem State.prefRevise_of_not_at_pref : s.prefRevise p w b false = s := rfl

theorem State.prefRevise_of_not_learning (h : ((s.phaseEntry? p).map (·.learn)).getD false = false) :
    s.prefRevise p w b true = s := by
  rw [State.prefRevise, h]
  rfl

variable {w b} (hlearn : ((s.phaseEntry? p).map (·.learn)).getD false = true)
include hlearn

theorem State.prefRevise_of_waits (h : b < 2 * w) :
    s.prefRevise p w b true = s.setReg (Reg.PLT_PHASE_pref p) (s.reg (Reg.PLT_PHASE_pref p) - 1) := by
  rw [State.prefRevise, hlearn]
  exact if_pos h

theorem State.prefRevise_of_balanced (h1 : 2 * w ≤ b) (h2 : b ≤ 8 * w) : s.prefRevise p w b true = s := by
  rw [State.prefRevise, hlearn]
  exact (if_neg (Nat.not_lt.2 h1)).trans (if_neg fun h => Nat.not_lt.2 h2 h.1)

/-- With every compute die in the phase its preferred entry rises to the lowest of their fmax entries at most. -/
theorem State.prefRevise_of_busy (h1 : 2 * w ≤ b) (h2 : 8 * w < b) (hall : ∀ d < 8, s.reg (Reg.PLT_DIE_phase d) = p) :
    s.prefRevise p w b true =
      if s.reg (Reg.PLT_PHASE_pref p) < ((List.range 8).map s.fmaxEntry).foldl Nat.min 63 then
        s.setReg (Reg.PLT_PHASE_pref p) (s.reg (Reg.PLT_PHASE_pref p) + 1) else s := by
  have hdies : (List.range 8).filter (fun d => decide (s.reg (Reg.PLT_DIE_phase d) = p)) = List.range 8 :=
    List.filter_eq_self.2 fun d hd => decide_eq_true (hall d (List.mem_range.1 hd))
  rw [State.prefRevise, hlearn, hdies]
  exact (if_neg (Nat.not_lt.2 h1)).trans (if_congr (and_iff_right h2) rfl rfl)

end

/-- Settles O44: the interval by the anchor's stage and the gates, and a phase's preferred entry by its busy and wait cycles. -/
theorem pilotIntervals : Obligations.PilotIntervals := by
  intro s m hm c hc
  refine ⟨fun h => ?_, fun h => ?_, fun hawake phases u hphases hu => ⟨fun hfull => ?_, fun hgated => ?_⟩, fun hasleep => ?_,
    fun p w b hp => ⟨fun hlearn => ?_, fun hlearn => ?_, ?_⟩⟩
  · exact hc.trans (State.countRailLimit_of_none h)
  · exact hc.trans (State.countRailLimit_of_acted h)
  · rw [exec_pilotInterval hm, State.pilotInterval_of_awake hc hawake hphases hu, if_neg]
    simpa using hfull
  · rw [exec_pilotInterval hm, State.pilotInterval_of_awake hc hawake hphases hu, if_pos]
    simpa using hgated
  · rw [exec_pilotInterval hm, State.pilotInterval_of_asleep hc hasleep]
  · rw [exec_prefRevise w b hp]
    refine ⟨fun h => congrArg _ (State.prefRevise_of_waits hlearn h),
      fun h1 h2 => congrArg _ (State.prefRevise_of_balanced hlearn h1 h2), fun h1 h2 hall => ?_⟩
    rw [State.prefRevise_of_busy hlearn h1 h2 hall]
    exact ⟨fun h => congrArg _ (if_pos h), fun h => congrArg _ (if_neg (Nat.not_lt.2 h))⟩
  · rw [exec_prefRevise w b hp, State.prefRevise_of_not_learning w b hlearn]
  · rw [exec_prefRevise w b hp, State.prefRevise_of_not_at_pref]

/-! ### The anchor watch (R381, R382, R384) -/

/-- A register of a list that sets no register twice. -/
theorem State.reg_setRegs_of_mem {l : List (Field × Nat)} (hl : (l.map (fun p => p.1.key)).Nodup) {f : Field} {v : Nat}
    (h : (f, v) ∈ l) (s : State) : (s.setRegs l).reg f = v % 2 ^ f.width := by
  induction l generalizing s with
  | nil => exact absurd h List.not_mem_nil
  | cons p r ih =>
    obtain ⟨hnew, hrest⟩ := List.nodup_cons.1 hl
    show ((s.setReg p.1 p.2).setRegs r).reg f = _
    rcases List.mem_cons.1 h with rfl | h
    · rw [State.reg_setRegs_other r f (fun q hq hk => hnew (List.mem_map.2 ⟨q, hq, hk.symm⟩)), State.reg_setReg_self]
    · exact ih hrest h _

/-- Memory with the tile stores zeroed (R381, R384). -/
theorem Memory.read_tilesZeroed {m n : Memory} (h : n = m.apply (.zero (tileKey 0 0) (2 ^ 31))) :
    (∀ k, k < 2 ^ 45 → n.read k = m.read k) ∧ ∀ k, 2 ^ 45 ≤ k → k < 2 ^ 45 + 2 ^ 31 → n.read k = 0 := by
  refine ⟨fun k hk => ?_, fun k hlo hhi => ?_⟩
  · rw [h, Memory.read_apply_zero, if_neg (by unfold tileKey; omega)]
  · rw [h, Memory.read_apply_zero, if_pos (by unfold tileKey; omega)]

section

variable {s : State} (hs : hostServes s)
include hs

theorem exec_anchor : exec .anchor s = .next s.anchorWrite := perform_hostWrite (c := .anchor) rfl hs _

theorem exec_wake : exec .wake s = .next s.wakeWrite := perform_hostWrite (c := .wake) rfl hs _

end

section

variable {s : State}

theorem State.anchorWrite_of_ready (h : s.power.anchor = .awake) (hready : s.anchorReady = true) : s.anchorWrite =
    (List.range 8).foldl State.askNarrow
      (({ s with power := { s.power with anchor := .entering } } : State).setReg Reg.PLT_CTRL_anchor 1) :=
  (if_neg (not_not_intro h)).trans (if_pos hready)

theorem State.anchorWrite_of_not_ready (h : s.power.anchor = .awake) (hready : s.anchorReady = false) :
    s.anchorWrite = (s.setReg Reg.PLT_CTRL_anchor 0).post Reg.PLT_EVENT_anchor_refused :=
  (if_neg (not_not_intro h)).trans (if_neg (by simp [hready]))

theorem State.anchorWrite_of_not_awake (h : s.power.anchor ≠ .awake) : s.anchorWrite = s := if_pos h

theorem State.wakeWrite_of_awake (h : s.power.anchor = .awake) : s.wakeWrite = s := by
  rw [State.wakeWrite, State.wakeTrigger_of_awake h]
  exact if_neg (by simp [h])

theorem State.wakeWrite_of_asleep (h : s.power.anchor = .watching ∨ s.power.anchor = .waking) : s.wakeWrite =
    ({ s with power := { s.power with anchor := .waking } } : State).setReg Reg.PLT_CTRL_wake 1 := by
  rw [State.wakeWrite, State.wakeTrigger_of_asleep h]
  exact if_pos rfl

/-- A module that has abandoned its entry is awake. -/
theorem State.abandonEntry_anchor (s : State) : s.abandonEntry.power.anchor = .awake := by
  have hwiden : ∀ t : State, Keeps [.fabric, .outputs] t ((List.range 8).foldl State.widenLink t) := fun t =>
    Keeps.foldl (fun u p => u.widenLink_keeps p) (Keeps.refl _ t)
  rw [State.abandonEntry, State.post_power, State.setRegs_power, (hwiden _).1 .power rfl]

theorem State.wakeWrite_of_entering (h : s.power.anchor = .entering) : s.wakeWrite = s.abandonEntry := by
  have htrigger : s.wakeTrigger = s.abandonEntry := by rw [State.wakeTrigger, h]
  rw [State.wakeWrite, htrigger]
  exact if_neg (by simp [State.abandonEntry_anchor])

end

/-- What the commit sets: the compute dies off, the I/O dies at mult 22 and 0.55 V. -/
def commitRegs : List (Field × Nat) :=
  [(Reg.PLT_STATUS_anchor, 1), (Reg.PLT_CTRL_anchor, 0)] ++ (List.range 8).map (fun d => (Reg.PLT_DIE_v_mv d, 0)) ++
    [8, 9].flatMap (fun d => [(Reg.PLT_DIE_mult d, 22), (Reg.PLT_DIE_v_mv d, 550)])

theorem commitRegs_nodup : (commitRegs.map (fun p => p.1.key)).Nodup := by decide

/-- What the wake's end sets, with the compute dies' voltages. -/
def wokenRegs (v : Nat → Nat) : List (Field × Nat) :=
  [(Reg.PLT_STATUS_anchor, 0), (Reg.PLT_CTRL_wake, 0)] ++ (List.range 8).map (fun d => (Reg.PLT_DIE_v_mv d, v d)) ++
    [8, 9].flatMap (fun d => [(Reg.PLT_DIE_mult d, 66), (Reg.PLT_DIE_v_mv d, 750)])

theorem wokenRegs_nodup (v : Nat → Nat) : ((wokenRegs v).map (fun p => p.1.key)).Nodup := by
  have hkeys : (wokenRegs v).map (fun p => p.1.key) = (wokenRegs id).map (fun p => p.1.key) := rfl
  rw [hkeys]
  decide

/-- The state after the commit. -/
def State.committed (s : State) : State :=
  (({ s with tasks := [], power := { s.power with
    anchor := .watching, rails := List.replicate 8 false ++ s.power.rails.drop 8, railActing := [] } } : State).memOps
      [.zero (tileKey 0 0) (2 ^ 31)]).setRegs commitRegs

/-- The state in which the kept doorbells are processed. -/
def State.woken (s : State) : State :=
  (({ s with power := { s.power with
    anchor := .awake, rails := List.replicate 8 true ++ s.power.rails.drop 8, keptDoorbells := [] } } : State).memOps
      [.zero (tileKey 0 0) (2 ^ 31)]).setRegs (wokenRegs fun d => railMv (s.planMv d (s.reg (Reg.PLT_DIE_mult d))))

section

variable {s : State}

theorem exec_anchorCommit (s : State) : exec .anchorCommit s = .next s.anchorCommit := rfl

theorem exec_wakeComplete (s : State) : exec .wakeComplete s = .next s.wakeComplete := rfl

theorem State.anchorCommit_of_entering (h : s.power.anchor = .entering) : s.anchorCommit = s.committed := if_pos h

theorem State.anchorCommit_of_other (h : s.power.anchor ≠ .entering) : s.anchorCommit = s := if_neg h

theorem State.wakeComplete_of_waking (h : s.power.anchor = .waking) : s.wakeComplete =
    (s.power.keptDoorbells.foldl (fun a k => a.doorbell k.1 k.2) s.woken).post Reg.PLT_EVENT_anchor_exit :=
  if_pos h

theorem State.wakeComplete_of_other (h : s.power.anchor ≠ .waking) : s.wakeComplete = s := if_neg h

theorem State.woken_keeps (s : State) : Keeps [.mem, .writes, .regs, .power] s s.woken :=
  .after (State.setRegs_keeps ..) (.after (State.memOps_keeps ..) (.made_power (.refl _ s)))

end

/-- Settles O45: ANCHOR and WAKE by the stage they find, the commit and the wake's end by what they set. -/
theorem anchorWatch : Obligations.AnchorWatch := by
  refine fun s => ⟨fun hs h => ⟨fun hready => ?_, fun hready => ?_, ?_⟩, fun hs h => ?_, fun h => ⟨s.committed, ?_, ?_⟩, fun h => ?_,
    fun hs h => ?_, fun hs h => ?_, fun h => ⟨s.woken, ?_, ?_⟩, fun h => ?_⟩
  · rw [exec_anchor hs, State.anchorWrite_of_ready h hready]
  · rw [exec_anchor hs, State.anchorWrite_of_not_ready h hready]
  · rw [exec_wake hs, State.wakeWrite_of_awake h]
  · rw [exec_anchor hs, State.anchorWrite_of_not_awake h]
  · rw [exec_anchorCommit, State.anchorCommit_of_entering h]
  · have hreg : ∀ f v, (f, v) ∈ commitRegs → s.committed.reg f = v % 2 ^ f.width := fun _ _ hf =>
      State.reg_setRegs_of_mem commitRegs_nodup hf _
    have hmem : s.committed.mem = s.mem.apply (.zero (tileKey 0 0) (2 ^ 31)) := State.setRegs_mem ..
    have hpower : s.committed.power = { s.power with
        anchor := .watching, rails := List.replicate 8 false ++ s.power.rails.drop 8, railActing := [] } := State.setRegs_power ..
    refine ⟨State.setRegs_tasks .., by rw [hpower], by rw [hpower], hreg _ 1 (by decide), fun d hd => hreg _ 0 ?_, fun d hd => ?_,
      Memory.read_tilesZeroed hmem⟩
    · revert d
      decide
    · rcases hd with rfl | rfl
      · exact ⟨hreg _ 22 (by decide), hreg _ 550 (by decide)⟩
      · exact ⟨hreg _ 22 (by decide), hreg _ 550 (by decide)⟩
  · rw [exec_anchorCommit, State.anchorCommit_of_other h]
  · rw [exec_wake hs, State.wakeWrite_of_entering h]
    rfl
  · rw [exec_wake hs, State.wakeWrite_of_asleep h]
  · rw [exec_wakeComplete, State.wakeComplete_of_waking h]
  · have hreg : ∀ f v, (f, v) ∈ wokenRegs (fun d => railMv (s.planMv d (s.reg (Reg.PLT_DIE_mult d)))) →
        s.woken.reg f = v % 2 ^ f.width := fun _ _ hf => State.reg_setRegs_of_mem (wokenRegs_nodup _) hf _
    have hmem : s.woken.mem = s.mem.apply (.zero (tileKey 0 0) (2 ^ 31)) := State.setRegs_mem ..
    refine ⟨State.setRegs_power .., hreg _ 0 (by simp [wokenRegs]), fun d hd => ?_, s.woken_keeps.1,
      Memory.read_tilesZeroed hmem⟩
    rcases hd with rfl | rfl
    · exact ⟨hreg _ 66 (by simp [wokenRegs]), hreg _ 750 (by simp [wokenRegs])⟩
    · exact ⟨hreg _ 66 (by simp [wokenRegs]), hreg _ 750 (by simp [wokenRegs])⟩
  · rw [exec_wakeComplete, State.wakeComplete_of_other h]

end

end Sys2Proof.Machine
end

section
namespace Sys2Proof.Machine

open Sys2Proof

section

-- As in the model's Laws: one declaration after another keeps the joined text within the check's memory.
set_option Elab.async false

/-! ### BAR0 (R7, R389) -/

section

variable {s : State}

theorem exec_registerWrite (hs : bootServes s) (off size value : Nat) :
    exec (.registerWrite off size value) s = .next (s.bar0Write off size value) :=
  perform_secWrite (c := .registerWrite off size value) rfl hs _

theorem exec_rcRead (hs : bootServes s) (off size : Nat) : exec (.rcRead off size) s = .next (s.bar0Read off size) :=
  perform_secWrite (c := .rcRead off size) rfl hs _

theorem State.bar0Write_of_misaligned {off size : Nat} (h : aligned off size = false) (value : Nat) :
    s.bar0Write off size value = s.bump Reg.DEV_CNT_BAD_ACCESS 1 := by
  rw [State.bar0Write, h]
  rfl

theorem State.bar0Read_of_misaligned {off size : Nat} (h : aligned off size = false) :
    s.bar0Read off size = (s.bump Reg.DEV_CNT_BAD_ACCESS 1).emit (.readData 0) := by
  rw [State.bar0Read, h]
  rfl

/-- An aligned read of a register outside the MSI-X table answers its bytes; one of 8 bytes clears what it reads. -/
theorem State.bar0Read_of_register (hs : hostServes s) {off size : Nat} (ha : aligned off size = true) (hoff : off < msixTable) :
    s.bar0Read off size = (if size = 8 then s.clearRead off else s).emit (.readData (s.regRead off size)) := by
  have hserved : s.bar0Served off = true := by simp [State.bar0Served, hs.2]
  have hmsix : ¬ (msixTable ≤ off ∧ off < msixPbaEnd) := fun h => Nat.not_le.2 hoff h.1
  simp only [State.bar0Read, ha, hserved, Bool.not_true, Bool.false_eq_true, if_false, if_neg hmsix]

end

/-- The counter's register, by the offsets of its two halves. -/
theorem fieldsAt_SIGNAL_EXCESS : ∀ off ∈ [0x100090, 0x100094], fieldsAt off = [Reg.SCH_CNT_SIGNAL_EXCESS] := by decide

/-- A field that is no view of other state reads what the register file holds. -/
theorem State.fieldValue_of_no_view {s : State} {f : Field} (hty : f.ty ≠ .wo) (h : ∀ p ∈ s.views f.off, p.1.key ≠ f.key) :
    s.fieldValue f = s.reg f := by
  have hnone : (s.views f.off).find? (fun p => decide (p.1.key = f.key)) = none :=
    List.find?_eq_none.2 fun p hp => by simpa using h p hp
  rw [State.fieldValue, if_neg hty, hnone]

/-- The counter is no view of other state. -/
theorem State.fieldValue_SIGNAL_EXCESS (s : State) :
    s.fieldValue Reg.SCH_CNT_SIGNAL_EXCESS = s.reg Reg.SCH_CNT_SIGNAL_EXCESS := by
  have htable : ∀ d ∈ List.range 8, (Reg.SCH_TABLE_USE_live d).key ≠ Reg.SCH_CNT_SIGNAL_EXCESS.key := by decide
  have hrings : ∀ f ∈ [Reg.SCH_RING_BASE_base, Reg.SCH_RING_CFG_enable, Reg.SCH_RING_CFG_log2_size, Reg.SCH_RING_CQ_cq_base,
      Reg.SCH_RING_STATE_head, Reg.SCH_RING_STATE_state, Reg.SCH_RING_TAILS_cq_tail, Reg.SCH_RING_TAILS_tail,
      Reg.SCH_PENDING_USE_live], f.key ≠ Reg.SCH_CNT_SIGNAL_EXCESS.key := by decide
  refine State.fieldValue_of_no_view (by decide) fun p hp => ?_
  rcases List.mem_append.1 (show p ∈ s.schViews from hp) with hp | hp
  · exact hrings p.1 (List.mem_map_of_mem (f := Prod.fst) hp)
  · obtain ⟨d, hd, rfl⟩ := List.mem_map.1 hp
    exact htable d hd

/-- A read of the counter's register. -/
theorem State.regRead_SIGNAL_EXCESS (s : State) {off : Nat} (hoff : off ∈ [0x100090, 0x100094]) (size : Nat) :
    s.regRead off size = s.reg Reg.SCH_CNT_SIGNAL_EXCESS / 2 ^ (8 * (off - 0x100090)) % 2 ^ (8 * size) := by
  have hpart : fieldPart Reg.SCH_CNT_SIGNAL_EXCESS (s.reg Reg.SCH_CNT_SIGNAL_EXCESS) off size =
      s.reg Reg.SCH_CNT_SIGNAL_EXCESS * 1 / 2 ^ (8 * (off - 0x100090)) % 2 ^ (8 * size) := rfl
  rw [State.regRead, fieldsAt_SIGNAL_EXCESS off hoff, List.foldl_cons, List.foldl_nil, State.fieldValue_SIGNAL_EXCESS, hpart,
    Nat.zero_or, Nat.mul_one]

theorem State.clearRead_SIGNAL_EXCESS (s : State) : s.clearRead 0x100090 = s.setReg Reg.SCH_CNT_SIGNAL_EXCESS 0 := by
  rw [State.clearRead, fieldsAt_SIGNAL_EXCESS _ (by simp)]
  rfl

/-- Settles O7: a misaligned access by its count, and the counter's reads by their size and the half they cover. -/
theorem registerReads : Obligations.RegisterReads := by
  refine ⟨fun s off size value hs h => ?_, fun s hs => ?_⟩
  · rw [exec_registerWrite hs, exec_rcRead hs, State.bar0Write_of_misaligned h, State.bar0Read_of_misaligned h]
    exact ⟨rfl, rfl⟩
  · have hread : ∀ off ∈ [0x100090, 0x100094], ∀ size, aligned off size = true → exec (.rcRead off size) s =
        .next ((if size = 8 then s.clearRead off else s).emit
          (.readData (s.reg Reg.SCH_CNT_SIGNAL_EXCESS / 2 ^ (8 * (off - 0x100090)) % 2 ^ (8 * size)))) := by
      have hlow : ∀ off ∈ [0x100090, 0x100094], off < msixTable := by decide
      intro off hoff size ha
      rw [exec_rcRead hs.1, State.bar0Read_of_register hs ha (hlow off hoff), State.regRead_SIGNAL_EXCESS s hoff]
    refine ⟨?_, ?_, ?_⟩
    · rw [hread _ (by simp) 8 rfl, if_pos rfl, State.clearRead_SIGNAL_EXCESS]
      simp
    · rw [hread _ (by simp) 4 rfl]
      simp
    · rw [hread _ (by simp) 4 rfl]
      simp

/-! ### BAR2 (R390) -/

theorem exec_bar2Access {s : State} (hs : bootServes s) {r : Bar2Reads} (hr : r.errors.all CodewordError.wf = true) (off : Nat)
    (w : Option (List Byte)) (ep : Bool) {u : State} (hu : u = s.demandReads (s.bar2Reads off w r.length) r.errors) :
    exec (.bar2Access off w ep r) s = .next (u.bar2Transfer off w ep r.length) := by
  subst hu
  exact perform_secWrite (c := .bar2Access off w ep r) hr hs _

section

variable {s : State} {off : Nat} {d : List Byte} {ep : Bool} {length : Nat}

theorem State.bar2Transfer_write_of_served {k : Nat} (h : s.bar2At? off d.length = some k) :
    s.bar2Transfer off (some d) ep length = s.memOps [if ep then .writePoisoned k d else .write k d] := by
  simp only [State.bar2Transfer, h]

theorem State.bar2Transfer_write_of_unserved (h : s.bar2At? off d.length = none) :
    s.bar2Transfer off (some d) ep length = s.emit .unsupported := by
  simp only [State.bar2Transfer, h]

theorem State.bar2Transfer_read_of_served {k : Nat} (h : s.bar2At? off length = some k) : s.bar2Transfer off none ep length =
    s.emit (.bar2Data (s.mem.readN k length) ((blocksOf k length).filter (s.mem.poison.contains ·))) := by
  simp only [State.bar2Transfer, h]

theorem State.bar2Transfer_read_of_unserved (h : s.bar2At? off length = none) :
    s.bar2Transfer off none ep length = s.emit .unsupported := by
  simp only [State.bar2Transfer, h]

end

/-! ### Vectors, the drift watch and the link (R174, R387, R394) -/

theorem exec_msixUnmask {s : State} (hs : hostServes s) {v : Nat} (hv : v < 2048) : exec (.msixUnmask v) s =
    .next ((s.setMsix { s.msixEntry v with masked := false }).sendPending v) :=
  perform_hostWrite (c := .msixUnmask v) (decide_eq_true hv) hs _

theorem exec_msixHoldoffEnd {v : Nat} (hv : v < 2048) (s : State) :
    exec (.msixHoldoffEnd v) s = .next (s.msixHoldoffEnd v) :=
  perform_of_wf (c := .msixHoldoffEnd v) (decide_eq_true hv) _

section

variable {s : State} {v : Nat}

theorem State.msixHoldoffEnd_of_none (h : s.pcie.holdoff.find? (fun x => decide (x.1 = v)) = none) : s.msixHoldoffEnd v = s := by
  rw [State.msixHoldoffEnd, h]

theorem State.msixHoldoffEnd_of_some {due : Nat} {w : Bool} {t : State}
    (h : s.pcie.holdoff.find? (fun x => decide (x.1 = v)) = some (v, due, w))
    (ht : t = { s with pcie := { s.pcie with holdoff := s.pcie.holdoff.filter (fun x => !decide (x.1 = v)) } }) :
    s.msixHoldoffEnd v = if due ≤ s.now then (if w then t.raiseVector v else t) else s := by
  subst ht
  rw [State.msixHoldoffEnd, h]

end

/-- Every open window of the drift watch ends. -/
theorem State.driftCfgWrite_drift (s : State) (v : Nat) :
    (s.driftCfgWrite v).drift = s.drift.map (fun _ => DriftWindow.reset) := by
  unfold State.driftCfgWrite
  dsimp only [List.foldl_cons, List.foldl_nil]
  have hput : ∀ (t : State) (f : Field) (x : Nat), (if f.permits x then t.setReg f x else t).drift = t.drift := fun t f x => by
    split <;> rfl
  rw [hput, hput, hput, hput]

/-- A trigger leaves the link's state. -/
theorem State.raiseVector_linkUp (s : State) (v : Nat) : (s.raiseVector v).pcie.linkUp = s.pcie.linkUp := by
  unfold State.raiseVector
  split
  · rfl
  · split <;> rfl

theorem State.eventRing_linkUp (s : State) (f : Field) (unit arg0 arg1 : Nat) :
    (s.eventRing f unit arg0 arg1).pcie.linkUp = s.pcie.linkUp := by
  cases ha : s.accepted 1 with
  | false => rw [State.eventRing_of_not_accepted _ _ _ _ ha]
  | true =>
    by_cases hlost : s.reg Reg.DEV_EVQ_CFG_enable = 0 ∨ s.eventRingFull
    · rw [State.eventRing_of_lost _ _ _ _ ha hlost]
      rfl
    · obtain ⟨hon, hroom⟩ := not_or.1 hlost
      rw [State.eventRing_of_room _ _ _ _ ha hon hroom, State.raiseVector_linkUp]
      rfl

theorem State.post_linkUp (s : State) (f : Field) (unit arg0 arg1 : Nat) :
    (s.post f unit arg0 arg1).pcie.linkUp = s.pcie.linkUp :=
  (s.setReg f 1).eventRing_linkUp f unit arg0 arg1

/-- The link's state is in no register. -/
theorem State.reg_withLinkUp (s : State) (b : Bool) (f : Field) :
    State.reg { s with pcie := { s.pcie with linkUp := b } } f = s.reg f := rfl

theorem State.setRegs_cons (s : State) (f : Field) (v : Nat) (l : List (Field × Nat)) :
    s.setRegs ((f, v) :: l) = (s.setReg f v).setRegs l := rfl

/-- A link change reports the speed in its 4 bits, and whether the link is up. -/
theorem State.linkChanged_reports (s : State) (speed width : Nat) (flit : Bool) :
    (s.linkChanged speed width flit).reg Reg.DEV_EVENT_link_changed = 1 ∧
      (s.linkChanged speed width flit).pcie.linkUp = decide (speed ≠ 0) ∧
      (s.linkChanged speed width flit).reg Reg.DEV_LINK_speed = speed % 2 ^ 4 := by
  have hevent : 0xB8 ≤ Reg.DEV_EVENT_link_changed.off := by decide
  have hwidth : Reg.DEV_LINK_speed.width = 4 := rfl
  have hkeys : ∀ p ∈ [(Reg.DEV_LINK_width, width), (Reg.DEV_LINK_flit, if flit then 1 else 0)],
      Reg.DEV_LINK_speed.key ≠ p.1.key := by
    simp [Field.key, Reg.DEV_LINK_width, Reg.DEV_LINK_flit, Reg.DEV_LINK_speed]
  unfold State.linkChanged
  dsimp only
  refine ⟨State.reg_post_event hevent _ _ _ rfl, State.post_linkUp .., ?_⟩
  rw [State.reg_post_other _ _ _ _ _ (by decide) (by decide) (by decide) (by decide), State.reg_withLinkUp, State.setRegs_cons,
    State.reg_setRegs_other _ _ hkeys, State.reg_setReg_self, hwidth]

/-! ### Which writes of the host reach the module (R387, R409, R433) -/

/-- A command of the host that writes a boot and attestation register or accesses BAR0 or BAR2. -/
def actsBySecWrite (c : Instr) : Prop := c.wf = true ∧ ∀ s, ∃ t, exec c s = perform c (s.secWrite t)

/-- A command of the host that writes another register or a doorbell. -/
def actsByHostWrite (c : Instr) : Prop := c.wf = true ∧ ∀ s, ∃ t, exec c s = perform c (s.hostWrite t)

/-- Both are subject to power and D3hot. -/
theorem actsByHostWrite.sec {c : Instr} (h : actsByHostWrite c) : actsBySecWrite c := by
  obtain ⟨hwf, hacts⟩ := h
  refine ⟨hwf, fun s => ?_⟩
  obtain ⟨t, ht⟩ := hacts s
  exact ⟨_, ht⟩

theorem actsBySecWrite.unserved {c : Instr} (h : actsBySecWrite c) (s : State) :
    (s.carrier.power ≠ .on → exec c s = .next s) ∧
      (s.carrier.power = .on → s.pcie.d3hot = true → exec c s = .next (s.emit .unsupported)) := by
  obtain ⟨hwf, hacts⟩ := h
  obtain ⟨t, ht⟩ := hacts s
  rw [ht]
  exact ⟨fun hp => perform_secWrite_of_unpowered hwf hp t, fun hp hd => perform_secWrite_of_d3hot hwf hp hd t⟩

theorem actsByHostWrite.in_recovery {c : Instr} (h : actsByHostWrite c) {s : State} (hs : bootServes s)
    (hr : s.reg Reg.SEC_STATUS_state = secRecovery) : exec c s = .next s := by
  obtain ⟨hwf, hacts⟩ := h
  obtain ⟨t, ht⟩ := hacts s
  rw [ht, perform_hostWrite_of_recovery hwf hs hr]

/-- The commands that RECOVERY stops. -/
theorem actsByHostWrite_of_mem {v w p size ring : Nat} {b : Bool} (hp : p < 8) (hring : ring < 32768) :
    ∀ c ∈ [Instr.load b, .unload, .force, .doorbellTail ring v size w, .cqHead ring size v, .tickWrite v, .ringEnable, .ringDisable,
      .retrain p, .portEnable p b, .sysreset v, .jobKill, .jobRevive, .errLogEnable b, .errLogHead v, .capWrite v, .oppWrite (v % 64) w,
      .anchor, .wake, .featCommit, .evqEnable b, .evqHead v, .msixUnmask (v % 2048), .driftCfgWrite v, .devReset v],
    actsByHostWrite c := by
  have hentry : v % 64 < 64 := Nat.mod_lt _ (by decide)
  have hvector : v % 2048 < 2048 := Nat.mod_lt _ (by decide)
  intro c hc
  simp only [List.mem_cons, List.not_mem_nil, or_false] at hc
  rcases hc with rfl | rfl | rfl | rfl | rfl | rfl | rfl | rfl | rfl | rfl | rfl | rfl | rfl | rfl | rfl | rfl | rfl | rfl | rfl |
    rfl | rfl | rfl | rfl | rfl | rfl
  all_goals exact ⟨by simp [Instr.wf, hp, hring, hentry, hvector], fun s => ⟨_, rfl⟩⟩

/-- The commands that RECOVERY serves. -/
theorem actsBySecWrite_of_mem {off size value : Nat} {ep : Bool} {w : Option (List Byte)} :
    ∀ c ∈ [Instr.registerWrite off size value, .rcRead off size, .bar2Access off w ep ⟨size, []⟩, .commitSvn, .update, .recover],
    actsBySecWrite c := by
  intro c hc
  simp only [List.mem_cons, List.not_mem_nil, or_false] at hc
  rcases hc with rfl | rfl | rfl | rfl | rfl | rfl
  all_goals exact ⟨rfl, fun s => ⟨_, rfl⟩⟩

/-- Settles O46: BAR2 by whether it is served, a vector by its holdoff, the configuration by the boot, and the host's commands by
power, D3hot and RECOVERY. -/
theorem hostAccess : Obligations.HostAccess := by
  refine fun s => ⟨fun hs off k ep r w u hr hu => ?_, State.demandReads_nil s, fun hs => ⟨fun v => exec_msixUnmask hs, fun v => ?_⟩,
    fun v hv => ?_, fun hp => ⟨fun speed width flit => ?_, fun r v hrun => ?_, fun r v hboot => ?_⟩,
    fun v w p size ring b hport hring c hc => ?_, fun off size value ep w c hc => (actsBySecWrite_of_mem c hc).unserved s⟩
  · rw [exec_bar2Access hs hr off w ep hu]
    refine ⟨?_, ?_, ?_, ?_⟩
    · rintro d rfl h
      rw [State.bar2Transfer_write_of_served h]
    · rintro d rfl h
      rw [State.bar2Transfer_write_of_unserved h]
    · rintro rfl h
      rw [State.bar2Transfer_read_of_served h]
    · rintro rfl h
      rw [State.bar2Transfer_read_of_unserved h]
  · exact ⟨s.driftCfgWrite v, perform_hostWrite (c := .driftCfgWrite v) rfl hs _, s.driftCfgWrite_drift v,
      (s.driftCfgWrite_keeps v).1⟩
  · rw [exec_msixHoldoffEnd hv]
    refine ⟨fun h => congrArg _ (State.msixHoldoffEnd_of_none h), fun due w h => ?_⟩
    rw [State.msixHoldoffEnd_of_some h rfl]
    refine ⟨fun hearly => ?_, fun hdue hw => ?_, fun hdue hw => ?_⟩
    · rw [if_neg (Nat.not_le.2 hearly)]
    · rw [if_pos hdue, if_neg (by simp [hw])]
    · rw [if_pos hdue, if_pos hw]
  · obtain ⟨hposted, hup, hspeed⟩ := s.linkChanged_reports speed width flit
    have hexec : exec (.linkChanged speed width flit) s = .next (s.linkChanged speed width flit) :=
      (perform_of_wf (c := .linkChanged speed width flit) rfl _).trans (congrArg _ (if_pos (decide_eq_true hp)))
    exact ⟨_, hexec, hposted, hup, fun h => hspeed.trans (Nat.mod_eq_of_lt h)⟩
  · refine (perform_of_wf (c := .configurationRequest r v) rfl _).trans (congrArg _ ?_)
    rw [State.configurationRequest, State.powered, decide_eq_true hp, if_neg (by simp), if_neg hrun]
  · refine (perform_of_wf (c := .configurationRequest r v) rfl _).trans (congrArg _ ?_)
    rw [State.configurationRequest, State.powered, decide_eq_true hp, if_neg (by simp), if_pos hboot]
  · have hacts := actsByHostWrite_of_mem hport hring c hc
    obtain ⟨hunpowered, hd3hot⟩ := hacts.sec.unserved s
    exact ⟨hunpowered, hd3hot, fun hs => hacts.in_recovery hs⟩

/-! ### Features (R392, R393) -/

theorem exec_featCommit {s : State} (hs : hostServes s) : exec .featCommit s = .next s.featCommit :=
  perform_hostWrite (c := .featCommit) rfl hs _

/-- Before a commit no feature is accepted. -/
theorem State.accepted_of_not_committed {s : State} (h : s.reg Reg.DEV_FEAT_CTRL_committed ≠ 1) (f : Nat) :
    s.accepted f = false := by
  simp [State.accepted, h]

section

variable {s : State} {v : Nat} (hv : v = s.reg Reg.DEV_FEAT_ACCEPT_accept)
include hv

theorem State.featCommit_of_valid (hopen : s.reg Reg.DEV_FEAT_CTRL_committed ≠ 1) (hoffer : Nat.land v s.boot.offer = v)
    (h0 : bit v 0 = true) : s.featCommit = s.setReg Reg.DEV_FEAT_CTRL_committed 1 := by
  subst hv
  exact (if_neg hopen).trans (if_pos ⟨hoffer, h0⟩)

/-- A refused value sets its event bit and no more: with no feature accepted there is no event ring. -/
theorem State.featCommit_of_refused (hopen : s.reg Reg.DEV_FEAT_CTRL_committed ≠ 1)
    (h : Nat.land v s.boot.offer ≠ v ∨ bit v 0 = false) : s.featCommit = s.setReg Reg.DEV_EVENT_feat_rejected 1 := by
  subst hv
  have hbad : ¬ (Nat.land (s.reg Reg.DEV_FEAT_ACCEPT_accept) s.boot.offer = s.reg Reg.DEV_FEAT_ACCEPT_accept ∧
      bit (s.reg Reg.DEV_FEAT_ACCEPT_accept) 0 = true) := by
    rintro ⟨hoffer, h0⟩
    rcases h with h | h
    · exact h hoffer
    · exact Bool.noConfusion (h0.symm.trans h)
  exact (if_neg hopen).trans ((if_neg hbad).trans
    (State.post_of_not_accepted (by decide) _ _ _ (State.accepted_of_not_committed hopen 1)))

end

theorem State.featCommit_of_committed {s : State} (h : s.reg Reg.DEV_FEAT_CTRL_committed = 1) : s.featCommit = s := if_pos h

/-! What a write of a word leaves in DEV_FEAT_ACCEPT. -/

theorem bit_eq_testBit (v k : Nat) : bit v k = v.testBit k := by
  rw [Nat.testBit_eq_decide_div_mod_eq]
  rfl

/-- A number put together from n bits, lowest first. -/
def ofBits (b : Nat → Bool) (n : Nat) : Nat := (List.range n).foldl (fun a k => a + flag (b k) * 2 ^ k) 0

theorem ofBits_succ (b : Nat → Bool) (n : Nat) : ofBits b (n + 1) = 2 ^ n * flag (b n) + ofBits b n := by
  rw [ofBits, List.range_succ, List.foldl_append, List.foldl_cons, List.foldl_nil, ← ofBits, Nat.mul_comm, Nat.add_comm]

theorem ofBits_lt (b : Nat → Bool) (n : Nat) : ofBits b n < 2 ^ n := by
  induction n with
  | zero => exact Nat.one_pos
  | succ n ih =>
    have hflag : 2 ^ n * flag (b n) ≤ 2 ^ n := by
      cases b n <;> simp [flag]
    rw [ofBits_succ, Nat.pow_succ]
    omega

theorem bit_ofBits (b : Nat → Bool) {n k : Nat} (hk : k < n) : bit (ofBits b n) k = b k := by
  induction n with
  | zero => exact absurd hk (Nat.not_lt_zero k)
  | succ n ih =>
    rw [bit_eq_testBit, ofBits_succ, Nat.testBit_two_pow_mul_add _ (ofBits_lt b n), ← bit_eq_testBit, ← bit_eq_testBit]
    by_cases h : k < n
    · rw [if_pos h, ih h]
    · obtain rfl : k = n := by omega
      rw [if_neg h, Nat.sub_self]
      cases b k <;> rfl

/-- The bits of a field after a write: the written ones where the write covers them. -/
theorem bit_merged (f : Field) (old off size value : Nat) {k : Nat} (hk : k < f.width) : bit (merged f old off size value) k =
    if 8 * (off - f.off) ≤ f.lo + k ∧ f.lo + k < 8 * (off - f.off) + 8 * size then
      bit value (f.lo + k - 8 * (off - f.off)) else bit old k :=
  bit_ofBits _ hk

theorem merged_lt (f : Field) (old off size value : Nat) : merged f old off size value < 2 ^ f.width := ofBits_lt ..

/-- Every word of the register holds the one field. -/
theorem fieldsAt_FEAT_ACCEPT : ∀ off < 0x50, 0x30 ≤ off → fieldsAt off = [Reg.DEV_FEAT_ACCEPT_accept] := by decide

theorem State.fieldValue_FEAT_ACCEPT (s : State) :
    s.fieldValue Reg.DEV_FEAT_ACCEPT_accept = s.reg Reg.DEV_FEAT_ACCEPT_accept := by
  have hviews : ∀ f ∈ [Reg.DEV_ID_stepping, Reg.DEV_ID_fw_major, Reg.DEV_FEAT_OFFER_offer, Reg.DEV_RING_VEC_vector],
      f.key ≠ Reg.DEV_FEAT_ACCEPT_accept.key := by decide
  exact State.fieldValue_of_no_view (by decide) fun p (hp : p ∈ s.devViews) =>
    hviews p.1 (List.mem_map_of_mem (f := Prod.fst) hp)

section

variable {s : State} {off size : Nat} (hlo : 0x30 ≤ off) (hhi : off < 0x50) (ha : aligned off size = true) (value : Nat)
include hlo hhi ha

/-- A write of a word of the register, which is ignored after a commit. -/
theorem State.regWrite_FEAT_ACCEPT : s.regWrite off size value = if s.reg Reg.DEV_FEAT_CTRL_committed = 1 then s else
    s.setReg Reg.DEV_FEAT_ACCEPT_accept
      (merged Reg.DEV_FEAT_ACCEPT_accept (s.reg Reg.DEV_FEAT_ACCEPT_accept) off size value) := by
  have hsize : 0 < size := by
    rcases size with _ | n
    · simp [aligned] at ha
    · omega
  have hcovers : covers Reg.DEV_FEAT_ACCEPT_accept off size = true := by
    simp [covers, Reg.DEV_FEAT_ACCEPT_accept]
    omega
  have hignored : ∀ v, s.writeIgnored Reg.DEV_FEAT_ACCEPT_accept v = (s.reg Reg.DEV_FEAT_CTRL_committed == 1) := fun _ => rfl
  have hput : ∀ v, s.putField Reg.DEV_FEAT_ACCEPT_accept v = s.setReg Reg.DEV_FEAT_ACCEPT_accept v := fun _ => rfl
  have hrow : hasOwnRow Reg.DEV_FEAT_ACCEPT_accept = false := by decide
  have hty : Reg.DEV_FEAT_ACCEPT_accept.ty = .rw := rfl
  have hpermits : ∀ v, Reg.DEV_FEAT_ACCEPT_accept.permits v = true := fun _ => rfl
  rw [State.regWrite, fieldsAt_FEAT_ACCEPT off hhi hlo, List.foldl_cons, List.foldl_nil, State.writeField]
  simp only [hcovers, hrow, hty, hpermits, hignored, hput, State.fieldValue_FEAT_ACCEPT, Bool.not_true, Bool.or_false,
    Bool.false_eq_true, if_false, Bool.true_and]
  by_cases h : s.reg Reg.DEV_FEAT_CTRL_committed = 1
  · simp [h]
  · simp [h]

theorem exec_registerWrite_FEAT_ACCEPT (hs : hostServes s) : exec (.registerWrite off size value) s =
    .next (if s.reg Reg.DEV_FEAT_CTRL_committed = 1 then s else s.setReg Reg.DEV_FEAT_ACCEPT_accept
      (merged Reg.DEV_FEAT_ACCEPT_accept (s.reg Reg.DEV_FEAT_ACCEPT_accept) off size value)) := by
  have hlow : off < msixTable := by
    unfold msixTable
    omega
  rw [exec_registerWrite_of_hostServes hs value ha hlow, State.regWrite_FEAT_ACCEPT hlo hhi ha]

end

/-- The two fields of the acceptance are among those that a function reset selects, and no field of the Chart. -/
theorem features_reset : ∀ f ∈ [Reg.DEV_FEAT_CTRL_committed, Reg.DEV_FEAT_ACCEPT_accept],
    f.key ≠ Reg.CHT_STATUS_state.key ∧ (∀ p ∈ [(Reg.CHT_CTRL_load, 0), (Reg.CHT_CTRL_unload, 0)], f.key ≠ p.1.key) ∧
      functionResetOffset (f.key / 64) = true ∧ f.reset = 0 := by decide

theorem State.reg_functionCleared_features (s : State) {f : Field}
    (hf : f ∈ [Reg.DEV_FEAT_CTRL_committed, Reg.DEV_FEAT_ACCEPT_accept]) : s.functionCleared.reg f = 0 := by
  obtain ⟨-, hctrl, hselected, hreset⟩ := features_reset f hf
  exact (State.reg_setRegs_other [(Reg.CHT_CTRL_load, 0), (Reg.CHT_CTRL_unload, 0)] _ hctrl _).trans
    ((s.reg_resetRegs_selected hselected).trans hreset)

/-- A function reset clears the acceptance and its commit (R400). -/
theorem State.reg_functionReset_features (s : State) {f : Field}
    (hf : f ∈ [Reg.DEV_FEAT_CTRL_committed, Reg.DEV_FEAT_ACCEPT_accept]) : s.functionReset.reg f = 0 := by
  have hlink : ¬ linkKey f.key := not_linkKey_chart f (List.mem_append_left [Reg.CHT_STATUS_state] hf)
  rw [s.functionReset_eq, State.setChart, (State.chartChanged_linkEffect _).1 f hlink,
    State.reg_setReg_other _ _ (features_reset f hf).1, State.reg_functionCleared_features _ hf]

/-- Settles O47: a commit by its value, a write by whether a commit has been, and both cleared by a function reset. -/
theorem featureAcceptance : Obligations.FeatureAcceptance := by
  intro s hs
  refine ⟨fun hopen => ⟨fun hoffer h0 => ?_, fun hbad => ?_, fun off size value hlo hhi ha => ?_⟩,
    fun hdone => ⟨?_, fun off size value hlo hhi ha => ?_⟩, ⟨s.functionReset, rfl, ?_, ?_⟩⟩
  · refine ⟨_, exec_featCommit hs, ?_⟩
    rw [State.featCommit_of_valid rfl hopen hoffer h0]
    have hcommitted : (s.setReg Reg.DEV_FEAT_CTRL_committed 1).reg Reg.DEV_FEAT_CTRL_committed = 1 := State.reg_setReg_self ..
    refine ⟨(State.setReg_keeps ..).1, hcommitted, fun f => ?_⟩
    rw [State.accepted, hcommitted, State.reg_setReg_other _ _ (by decide)]
    rfl
  · refine ⟨_, exec_featCommit hs, ?_⟩
    rw [State.featCommit_of_refused rfl hopen hbad]
    refine ⟨(State.setReg_keeps ..).1, State.reg_setReg_self .., State.accepted_of_not_committed ?_⟩
    rwa [State.reg_setReg_other _ _ (by decide)]
  · refine ⟨_, exec_registerWrite_FEAT_ACCEPT hlo hhi ha value hs, ?_⟩
    rw [if_neg hopen]
    refine ⟨(State.setReg_keeps ..).1, State.accepted_of_not_committed ?_, fun k hk => ?_⟩
    · rwa [State.reg_setReg_other _ _ (by decide)]
    · rw [State.reg_setReg_self, Nat.mod_eq_of_lt (merged_lt ..), bit_merged _ _ _ _ _ hk]
      show (if 8 * (off - 0x30) ≤ 0 + k ∧ 0 + k < 8 * (off - 0x30) + 8 * size then bit value (0 + k - 8 * (off - 0x30))
        else _) = _
      rw [Nat.zero_add]
  · rw [exec_featCommit hs, State.featCommit_of_committed hdone]
  · rw [exec_registerWrite_FEAT_ACCEPT hlo hhi ha value hs, if_pos hdone]
  · exact s.reg_functionReset_features (by simp)
  · exact s.reg_functionReset_features (by simp)

/-! ### HOST_DMA (R397 to R399) -/

theorem exec_toHost {s : State} {t : Task} (h : engineRuns s t engHOST_DMA 1) : exec (.toHost t.id) s = .next (s.sendHost t) := by
  refine (perform_of_wf (c := .toHost t.id) h.wf _).trans (congrArg _ ?_)
  rw [State.toHost, State.runningTask?_of_runs h]

theorem exec_fromHost {s : State} {t : Task} (h : engineRuns s t engHOST_DMA 2) : exec (.fromHost t.id) s =
    .next (if t.stage = 0 then (s.issueReads { t with stage := 1 }).readerDone t.id else s) := by
  refine (perform_of_wf (c := .fromHost t.id) h.wf _).trans (congrArg _ ?_)
  rw [State.fromHost, State.runningTask?_of_runs h]

section

variable {s : State} {tag : Nat} (htag : tag < 16384)
include htag

theorem exec_hostCompletion (hp : s.carrier.power = .on) (status : CplStatus) (ep : Bool) (data : List Byte) :
    exec (.hostCompletion tag status ep data) s = .next (s.hostCompletion tag status ep data) :=
  (perform_of_wf (c := .hostCompletion tag status ep data) (decide_eq_true htag) _).trans
    (congrArg _ (if_pos (decide_eq_true hp)))

theorem exec_hostTimeout : exec (.hostTimeout tag) s = .next (s.hostTimeout tag) :=
  perform_of_wf (c := .hostTimeout tag) (decide_eq_true htag) _

end

theorem State.hostCompletion_of_none {s : State} {tag : Nat} (h : ∀ r ∈ s.pcie.reads, r.tag ≠ tag) (status : CplStatus)
    (ep : Bool) (data : List Byte) :
    s.hostCompletion tag status ep data = { s with pcie := { s.pcie with unexpected := true } } := by
  have hnone : s.pcie.reads.find? (fun r => decide (r.tag = tag)) = none :=
    List.find?_eq_none.2 fun r hr => by simpa using h r hr
  rw [State.hostCompletion, hnone]

section

variable {s : State} {tag : Nat} {r : HostRead} (h : s.pcie.reads.find? (fun r => decide (r.tag = tag)) = some r)
include h

theorem State.hostCompletion_of_success (ep : Bool) (data : List Byte) :
    s.hostCompletion tag .success ep data = ((s.landRead r ep data).resumeReads).readerDone r.task := by
  rw [State.hostCompletion, h]

theorem State.hostCompletion_of_failure {status : CplStatus} (hst : status ≠ .success) (ep : Bool) (data : List Byte) :
    s.hostCompletion tag status ep data = (s.readerFails r.task stACCESS).resumeReads := by
  rw [State.hostCompletion, h]
  cases status with
  | success => exact absurd rfl hst
  | _ => rfl

theorem State.hostTimeout_of_read : s.hostTimeout tag =
    if roundUp (r.issued + timeoutUs s.pcie.cplTimeout * 100) 100 ≤ s.now then
      ((s.bump Reg.DEV_CNT_HOSTTIMEOUT 1).readerFails r.task stHOSTTIMEOUT).resumeReads else s := by
  rw [State.hostTimeout, h]
  rfl

end

/-- Each piece of a host transfer has a byte, is no longer than it may be, and crosses no 4 KiB boundary (R398). -/
theorem cutHost_pieces {addr size : Nat} (hsize : 0 < size) (fuel off left : Nat) : ∀ p ∈ cutHost addr size fuel off left,
    0 < p.2 ∧ p.2 ≤ size ∧ (addr + p.1) % 4096 + p.2 ≤ 4096 := by
  induction fuel generalizing off left with
  | zero => exact fun p hp => absurd hp List.not_mem_nil
  | succ fuel ih =>
    intro p hp
    rw [cutHost] at hp
    split at hp
    · exact absurd hp List.not_mem_nil
    · rcases List.mem_cons.1 hp with rfl | hp
      · have hroom : (addr + off) % 4096 < 4096 := Nat.mod_lt _ (by decide)
        simp only [Nat.min_def]
        split <;> split <;> omega
      · exact ih _ _ p hp

/-- Settles O48: each direction by its task, a completion and a timeout by the read of their tag, and the pieces of a transfer. -/
theorem hostDma : Obligations.HostDma := by
  refine ⟨fun s t a ha => ⟨fun h => ?_, fun h h0 => ?_, fun h h0 => ?_⟩,
    fun s tag ep data htag hp => ⟨fun h => ?_, fun r h => ⟨?_, fun st hst => ?_, fun hdue => ?_, fun hearly => ?_⟩⟩,
    fun addr size length hsize => cutHost_pieces hsize _ _ _⟩
  · rw [exec_toHost h, ha]
    rfl
  · rw [exec_fromHost h, if_pos h0]
  · rw [exec_fromHost h, if_neg h0]
  · rw [exec_hostCompletion htag hp, State.hostCompletion_of_none h]
  · rw [exec_hostCompletion htag hp, State.hostCompletion_of_success h]
  · rw [exec_hostCompletion htag hp, State.hostCompletion_of_failure h hst]
  · rw [exec_hostTimeout htag, State.hostTimeout_of_read h, if_pos hdue]
  · rw [exec_hostTimeout htag, State.hostTimeout_of_read h, if_neg (Nat.not_le.2 hearly)]

end

end Sys2Proof.Machine
end

section
namespace Sys2Proof.Machine

open Sys2Proof

section

-- As in the model's Laws: one declaration after another keeps the joined text within the check's memory.
set_option Elab.async false

/-! ### The queue and what no step changes -/

theorem step_of_front {s : State} {c : Instr} {rest : List Instr} (h : s.pending = c :: rest) :
    step s = exec c { s with pending := rest } := by
  rw [step, h]

theorem step_of_empty {s : State} (h : s.pending = []) : step s = .next s.passCycle := by
  rw [step, h]

/-- Settles O1: the step matches on the queue. -/
theorem stepRunsFront : Obligations.StepRunsFront :=
  fun _ _ _ => step_of_front

/-- Neither the queue nor the silicon is in the frame of a command. -/
theorem frameOf_fixed (c : Instr) : ((frameOf c).contains .pending || (frameOf c).contains .silicon) = false := by
  cases c <;> rfl

/-- Settles O4: the cycle of an empty queue and every command leave the queue's rest and the silicon. -/
theorem oneCommandPerStep : Obligations.OneCommandPerStep := by
  intro s t hstep
  cases hp : s.pending with
  | nil =>
    obtain rfl := Host.Outcome.next.inj ((step_of_empty hp).symm.trans hstep)
    obtain ⟨hkeep, -, -⟩ := s.passCycle_keeps
    exact ⟨(hkeep .pending rfl).trans hp, hkeep .silicon rfl⟩
  | cons c rest =>
    obtain ⟨hkeep, -, -⟩ := exec_keeps ((step_of_front hp).symm.trans hstep)
    obtain ⟨hpending, hsilicon⟩ := Bool.or_eq_false_iff.1 (frameOf_fixed c)
    exact ⟨hkeep .pending hpending, hkeep .silicon hsilicon⟩

/-! ### The security version numbers (R406)

The monotonic counter is one of the Binnacle's records and the running svn part of the boot state. COMMIT_SVN alone raises the
counter; what sets the running svn is an image's 4-byte field or a reset. -/

/-- From s to t the monotonic counter has not changed, and a running svn of 32 bits is one still. -/
def SvnsKept (s t : State) : Prop :=
  t.binnacle.counter = s.binnacle.counter ∧ (s.boot.svn < 2 ^ 32 → t.boot.svn < 2 ^ 32)

theorem SvnsKept.refl (s : State) : SvnsKept s s := ⟨rfl, id⟩

/-- What changes neither number. -/
theorem SvnsKept.of_eq {s t : State} (hc : t.binnacle.counter = s.binnacle.counter) (hsvn : t.boot.svn = s.boot.svn) :
    SvnsKept s t :=
  ⟨hc, fun h => hsvn ▸ h⟩

/-- What leaves the Binnacle's records and the boot state. -/
theorem SvnsKept.of_keeps {ps : List Part} {s t : State} (h : Keeps ps s t)
    (hb : (ps.contains .binnacle || ps.contains .boot) = false := by rfl) : SvnsKept s t := by
  obtain ⟨hrecords, hboot⟩ := Bool.or_eq_false_iff.1 hb
  exact .of_eq (congrArg Binnacle.counter (h.1 .binnacle hrecords)) (congrArg Boot.svn (h.1 .boot hboot))

/-- One change after another. -/
theorem SvnsKept.trans {s t u : State} (h1 : SvnsKept s t) (h2 : SvnsKept t u) : SvnsKept s u :=
  ⟨h2.1.trans h1.1, fun h => h2.2 (h1.2 h)⟩

/-- A change more that leaves the Binnacle's records and the boot state. -/
theorem SvnsKept.after {ps : List Part} {s t u : State} (h2 : Keeps ps t u) (h1 : SvnsKept s t)
    (hb : (ps.contains .binnacle || ps.contains .boot) = false := by rfl) : SvnsKept s u :=
  h1.trans (.of_keeps h2 hb)

/-- Either branch. -/
theorem SvnsKept.ite {c : Prop} [Decidable c] {s t u : State} (h1 : SvnsKept s t) (h2 : SvnsKept s u) :
    SvnsKept s (if c then t else u) := by
  split
  · exact h1
  · exact h2

/-- Changes in order. -/
theorem SvnsKept.foldl {α : Type} {f : State → α → State} (hf : ∀ t a, SvnsKept t (f t a)) (l : List α) (s : State) :
    SvnsKept s (l.foldl f s) := by
  induction l generalizing s with
  | nil => exact .refl s
  | cons a r ih => exact (hf s a).trans (ih _)

/-- A host write to a boot and attestation register keeps both numbers where its effect does. -/
theorem SvnsKept.secWrite {s t : State} (h : SvnsKept s t) : SvnsKept s (s.secWrite t) :=
  .ite (.refl s) (.ite (.of_keeps (State.emit_keeps ..)) h)

/-- A host write to another register does likewise. -/
theorem SvnsKept.hostWrite {s t : State} (h : SvnsKept s t) : SvnsKept s (s.hostWrite t) :=
  .secWrite (.ite (.refl s) h)

/-- A management request does likewise. -/
theorem SvnsKept.mgmtRequest {s t : State} (r : MgmtRequest) (code : Nat) (lengthOk : Bool) (h : SvnsKept s t) :
    SvnsKept s (s.mgmtRequest r code lengthOk t) := by
  have hreply : ∀ status, SvnsKept s (s.mgmtReply r code status []) := fun _ => .of_keeps (State.mgmtReply_keeps ..)
  exact .ite (.refl s) (.ite (hreply _) (.ite (hreply _) h))

/-- A DOE request does likewise. -/
theorem SvnsKept.doeRequest {s t : State} (code : Nat) (lengthOk : Bool) (h : SvnsKept s t) :
    SvnsKept s (s.doeRequest code lengthOk t) :=
  .ite (.refl s) (.ite (.of_keeps (State.emit_keeps ..)) (.ite (.of_keeps (State.doeReply_keeps ..)) h))

/-! What memory corrects, and what reads it. -/

theorem State.laneCorrected_svnsKept (s : State) (p : HbmPlace) (lane : Nat) : SvnsKept s (s.laneCorrected p lane) :=
  .ite (.ite (.after (State.post_keeps ..) (.of_eq rfl rfl)) (.after (State.post_keeps ..) (.of_eq rfl rfl)))
    (.of_eq rfl rfl)

theorem State.codeword_svnsKept (s : State) (offset : Nat) (lanes : List Nat) (uncorrectable : Bool) :
    SvnsKept s (s.codeword offset lanes uncorrectable) := by
  have hlanes : ∀ (p : HbmPlace) (l : List Nat), SvnsKept s (l.foldl (fun a x => a.laneCorrected p x) s) :=
    fun _ l => .foldl (fun _ _ => State.laneCorrected_svnsKept ..) l s
  unfold State.codeword
  dsimp only
  refine .ite (.refl s) (.ite (.of_keeps (State.codewordUncorrectable_keeps ..)) (.ite (.ite (hlanes ..) ?_) ?_))
  · exact .after (State.corrected_keeps ..) (.after (State.bump_keeps ..) (hlanes ..))
  · exact .after (State.corrected_keeps ..) (.of_eq rfl rfl)

theorem State.demandReads_svnsKept (s : State) (ranges : List (Nat × Nat)) (errors : List CodewordError) :
    SvnsKept s (s.demandReads ranges errors) :=
  .foldl (fun t _ => .ite (State.codeword_svnsKept ..) (.refl t)) errors s

theorem State.copyStep_svnsKept (s : State) (id : TaskId) (op : Nat) (errors : List CodewordError) :
    SvnsKept s (s.copyStep id op errors) := by
  unfold State.copyStep
  split
  · exact .after (State.applyResult_keeps ..) (State.demandReads_svnsKept ..)
  · exact .refl s

/-! What retires a tile. -/

theorem State.retireTile_svnsKept (s : State) (tile : Nat) : SvnsKept s (s.retireTile tile) := by
  have hmoved : ∀ (b : Binnacle) (l : List Task), b.counter = s.binnacle.counter →
      SvnsKept s (l.foldl (fun a t => a.moveFromTile tile t) { s with binnacle := b }) := fun b l hb =>
    .trans (t := { s with binnacle := b }) (.of_eq hb rfl) (.foldl (fun _ _ => .of_keeps (State.moveFromTile_keeps ..)) l _)
  exact .ite (.refl s) (.after (State.post_keeps ..) (.after (State.logError_keeps ..) (hmoved _ _ rfl)))

theorem State.suspectAgain_svnsKept (s : State) (t : Task) (tile major : Nat) (x : ShadowRuns) :
    SvnsKept s (s.suspectAgain t tile major x) := by
  have hsuspect : SvnsKept s (s.suspectTile tile) := .of_keeps (State.suspectTile_keeps ..)
  exact .ite (.after (State.bump_keeps ..) hsuspect)
    (.trans (.after (State.shadowDiffers_keeps ..) hsuspect) (State.retireTile_svnsKept ..))

theorem State.shadowOutcome_svnsKept (s : State) (t : Task) (x : ShadowRuns) : SvnsKept s (s.shadowOutcome t x).1 := by
  have hown : SvnsKept s (if x.own = t.csum.getD x.own then s else s.undefine t.outs) :=
    .ite (.refl s) (.of_keeps (State.undefine_keeps ..))
  have hdiffers : ∀ {u : State} (tile other status : Nat), SvnsKept s u →
      SvnsKept s (u.shadowDiffers t tile other status x) := fun _ _ _ h => .after (State.shadowDiffers_keeps ..) h
  unfold State.shadowOutcome
  dsimp only
  split
  · exact hown
  · split
    · exact hdiffers _ _ _ hown
    · split
      · exact (hdiffers _ _ _ hown).trans (State.suspectAgain_svnsKept ..)
      · split
        · exact .trans (.after (State.setTask_keeps ..) (hdiffers _ _ _ (.refl s))) (State.suspectAgain_svnsKept ..)
        · dsimp only
          exact hdiffers _ _ _ (hdiffers _ _ _ hown)

theorem State.shadowCheck_svnsKept (s : State) (t : Task) (runs : List (Option Nat)) :
    SvnsKept s (s.shadowCheck t runs).1 := by
  unfold State.shadowCheck
  split
  · exact .refl s
  · split
    · exact .of_keeps (State.bump_keeps ..)
    · split
      · exact .of_keeps (State.bump_keeps ..)
      · split
        · exact .refl s
        · have hruns := s.shadowOutcome_svnsKept t (shadowRuns ‹_› runs)
          exact .ite (.after (State.bump_keeps ..) hruns) hruns

theorem State.replayEnd_svnsKept (s : State) (t : Task) : SvnsKept s (s.replayEnd t) :=
  .ite (.refl s) (.ite (.of_keeps (State.bump_keeps ..)) (.ite (State.retireTile_svnsKept ..) (.refl s)))

theorem State.finishTask_svnsKept (s : State) (t : Task) (runs : List (Option Nat)) : SvnsKept s (s.finishTask t runs) := by
  have hchecked : SvnsKept s (((s.undefineOverwritten t).replayEnd t).shadowCheck t runs).1 :=
    .trans (.trans (.of_keeps (State.undefineOverwritten_keeps ..)) (State.replayEnd_svnsKept ..))
      (State.shadowCheck_svnsKept ..)
  refine .ite (.of_keeps (State.complete_keeps ..)) ?_
  dsimp only
  split
  · rename_i he
    rwa [he] at hchecked
  · rename_i status he
    rw [he] at hchecked
    have hends := SvnsKept.ite (c := status = stOK) (.after (State.refreshEnds_keeps _ t) hchecked) hchecked
    have hdone := SvnsKept.after (State.complete_keeps _ t status) hends
    exact .ite (.after (State.poisonConsumed_keeps ..) hdone) hdone

theorem State.taskComplete_svnsKept (s : State) (id : TaskId) (runs : List (Option Nat)) :
    SvnsKept s (s.taskComplete id runs) := by
  unfold State.taskComplete
  split
  · exact .refl s
  · rename_i t _
    have hcommitted : SvnsKept s (if t.committed then s else s.bump Reg.SCH_CNT_SPEC_COMMIT 1) :=
      .ite (.refl s) (.of_keeps (State.bump_keeps ..))
    refine .ite (.refl s) (.ite (.ite (.of_keeps (State.setTask_keeps ..)) ?_) (State.finishTask_svnsKept ..))
    dsimp only
    split
    · exact .after (State.runAgain_keeps ..) (.after (State.bump_keeps ..) hcommitted)
    · exact hcommitted.trans (State.finishTask_svnsKept ..)

/-! What is learned of a peer, and who owns the module. -/

theorem State.acceptPeer_svnsKept (s : State) (p : Nat) : SvnsKept s (s.acceptPeer p) :=
  .after (State.beginCheck_keeps ..) (.after (State.extendMeasure_keeps ..) (.of_eq rfl rfl))

theorem State.judgePeer_svnsKept (s : State) (p : Nat) (key : List Byte) (node : Nat) :
    SvnsKept s (s.judgePeer p key node) := by
  have hquarantine : ∀ (t : State) (reason : Nat), SvnsKept t (t.setLink p psQUARANTINE reason) :=
    fun _ _ => .of_keeps (State.setLink_keeps ..)
  unfold State.judgePeer
  dsimp only
  generalize hu : s.setRegs _ = u
  have hregs : SvnsKept s u := hu ▸ .of_keeps (State.setRegs_keeps ..)
  refine hregs.trans (.ite (.of_keeps (State.beginCheck_keeps ..)) (.ite (.ite (State.acceptPeer_svnsKept ..) ?_) ?_))
  · exact hquarantine ..
  · have hposted := SvnsKept.after (State.post_keeps _ Reg.FAB_EVENT_peer_changed p
      (leNat ((fingerprint key).take 8)) (leNat ((fingerprint key).drop 8))) (hquarantine u 1)
    exact hposted.trans (.of_eq rfl rfl)

theorem State.onIdent_svnsKept (s : State) (p part : Nat) (content : List Byte) :
    SvnsKept s (s.onIdent p part content) := by
  have hquarantine : ∀ t : State, SvnsKept t (t.setLink p psQUARANTINE 3) := fun _ => .of_keeps (State.setLink_keeps ..)
  have hport : ∀ x, SvnsKept s (s.setPort p x) := fun _ => .of_keeps (State.setPort_keeps ..)
  refine .ite (.refl s) (.ite (hquarantine s) (.ite (.after (State.sendStatement_keeps ..) (hport _)) (.ite (.refl s) ?_)))
  refine .ite (hport _) (.ite ?_ ?_)
  · exact (hport _).trans (State.judgePeer_svnsKept ..)
  · exact (hport _).trans (hquarantine _)

theorem State.onControl_svnsKept (s : State) (p : Nat) (c : List Byte) : SvnsKept s (s.onControl p c) := by
  unfold State.onControl
  split
  · exact .of_keeps (State.onAckCredit_keeps ..)
  · exact .of_keeps (State.onNak_keeps ..)
  · exact .refl s
  · exact State.onIdent_svnsKept ..
  · exact .of_keeps (State.onWidth_keeps ..)
  · exact .of_keeps (State.onChart_keeps ..)
  · exact .of_keeps (State.bump_keeps ..)

theorem State.unitArrives_svnsKept (s : State) (p seq u fec value : Nat) :
    SvnsKept s (s.unitArrives p seq u fec value) := by
  have hheard : SvnsKept s ((s.heard p).fecResult p u fec) :=
    .after (State.fecResult_keeps ..) (.of_keeps (State.heard_keeps ..))
  have hbad := SvnsKept.after (State.bump_keeps _ (Reg.FAB_P_CNT_CRC p) 1) hheard
  refine .ite hheard (.ite (.ite (.after (State.discardFlit_keeps ..) hbad) hbad) (.ite ?_ (.ite ?_ ?_)))
  · exact hheard.trans (State.onControl_svnsKept ..)
  · exact .after (State.discardFlit_keeps ..) hheard
  · exact .after (State.acceptFlit_keeps ..) hheard

theorem State.enrolKey_svnsKept (s : State) (key : List Byte) : SvnsKept s (s.enrolKey key) :=
  .after (State.post_keeps ..) (.after (State.extendMeasure_keeps ..) (.of_eq rfl rfl))

theorem State.doeEnroll_svnsKept (s : State) (key : List Byte) : SvnsKept s (s.doeEnroll key) :=
  .ite (.of_keeps (State.doeReply_keeps ..)) (.ite (.of_keeps (State.doeReply_keeps ..))
    (.after (State.doeReply_keeps ..) (State.enrolKey_svnsKept ..)))

theorem State.doeRelease_svnsKept (s : State) (sig : List Byte) : SvnsKept s (s.doeRelease sig) := by
  have hreply : ∀ result, SvnsKept s (({ s with pcie := { s.pcie with nonce := none } } : State).doeReply 5 result []) :=
    fun _ => .after (State.doeReply_keeps ..) (.of_eq rfl rfl)
  unfold State.doeRelease
  dsimp only
  split
  · exact hreply _
  · refine .ite (hreply _) (.ite (hreply _) (.after (State.doeReply_keeps ..) ?_))
    exact .after (State.post_keeps ..) (.after (State.extendMeasure_keeps ..) (.of_eq rfl rfl))

/-! Resets, and the loss of power. -/

/-- After a module reset no firmware runs yet. -/
theorem State.moduleReset_svnsKept (s : State) : SvnsKept s s.moduleReset := ⟨rfl, fun _ => (by decide : (0 : Nat) < 2 ^ 32)⟩

theorem State.resetIfSent_svnsKept (s : State) : SvnsKept s s.resetIfSent := .ite s.moduleReset_svnsKept (.refl s)

theorem State.resetProgress_svnsKept (s : State) : SvnsKept s s.resetProgress := by
  unfold State.resetProgress
  split
  · exact .refl s
  · refine .ite (.refl s) (.trans ?_ (State.resetIfSent_svnsKept _))
    split
    · exact .after (State.resetMsg_keeps ..) (.of_eq rfl rfl)
    · exact .of_eq rfl rfl

theorem State.resetNotice_svnsKept (s : State) (initiator : Bool) (root : Nat) :
    SvnsKept s (s.resetNotice initiator root) := by
  have hjobs : ∀ (t : State) (l : List Job), SvnsKept t (l.foldl (fun a j => a.terminateJob j.id stJOB_KILLED) t) :=
    fun t l => .foldl (fun _ _ => .of_keeps (State.terminateJob_keeps ..)) l t
  have hnotices : ∀ (t : State) (l : List Nat), SvnsKept t (l.foldl (fun a c => a.resetMsg pktRESET_DOWN c root) t) :=
    fun t l => .foldl (fun _ _ => .of_keeps (State.resetMsg_keeps ..)) l t
  have hbegun : SvnsKept s { s with sysreset := some ⟨initiator, root, [], false⟩ } := .of_eq rfl rfl
  exact .trans (.after (State.post_keeps ..) ((hbegun.trans (hjobs _ _)).trans (hnotices _ _)))
    (State.resetProgress_svnsKept _)

theorem State.resetIn_svnsKept (s : State) (op : Nat) (k : Packet) {act : State → State} (h : ∀ x, SvnsKept x (act x)) :
    SvnsKept s (s.resetIn op k act) :=
  .ite (.trans (.after (State.wakeTrigger_keeps ..) (.of_keeps (State.takeIn_keeps ..))) (h _)) (.refl s)

theorem State.railsOff_svnsKept (s : State) (p : PowerState) : SvnsKept s (s.railsOff p) :=
  s.moduleReset_svnsKept.trans (.of_eq rfl rfl)

theorem State.trip_svnsKept (s : State) (cause : Nat) (lasts : Bool) (r : Reading) : SvnsKept s (s.trip cause lasts r) := by
  have hrecorded : ∀ b : Binnacle, b.counter = s.binnacle.counter → SvnsKept s ({ s with binnacle := b } : State) :=
    fun _ hb => .of_eq hb rfl
  refine .ite (.after (State.emit_keeps ..) (.after (State.setCarrier_keeps ..) (.trans ?_ (State.railsOff_svnsKept ..)))) (.refl s)
  exact hrecorded _ rfl

theorem State.inputOvervoltage_svnsKept (s : State) (vin : Nat) (persisted : Bool) :
    SvnsKept s (s.inputOvervoltage vin persisted) := by
  have hinput : SvnsKept s (s.setInput (Nat.min vin 6600)) := .of_keeps (State.setInput_keeps ..)
  exact .ite (hinput.trans (State.trip_svnsKept ..)) hinput

theorem State.inputUndervoltage_svnsKept (s : State) (vin : Nat) : SvnsKept s (s.inputUndervoltage vin) := by
  have hinput : SvnsKept s (s.setInput vin).inputCalm :=
    .after (State.inputCalm_keeps ..) (.of_keeps (State.setInput_keeps ..))
  exact .after (State.setCarrier_keeps ..) (.ite (hinput.trans (State.railsOff_svnsKept ..)) hinput)

theorem State.latchUnderPower_svnsKept (s : State) : SvnsKept s s.latchUnderPower := by
  have hlatch : SvnsKept s (s.setCarrier { s.carrier with latchOpen := true }) := .of_keeps (State.setCarrier_keeps ..)
  exact .ite (.trans (hlatch.trans (State.railsOff_svnsKept ..)) (.of_eq rfl rfl)) hlatch

theorem State.presSBreak_svnsKept (s : State) : SvnsKept s s.presSBreak := by
  have hpres : SvnsKept s (s.setCarrier { s.carrier with presS := false }) := .of_keeps (State.setCarrier_keeps ..)
  exact .ite (hpres.trans (State.railsOff_svnsKept ..)) hpres

theorem State.vauxLoss_svnsKept (s : State) : SvnsKept s s.vauxLoss := by
  refine (s.railsOff_svnsKept .off).trans (.of_eq ?_ rfl)
  unfold State.vauxLoss
  dsimp only
  split <;> rfl

theorem State.powerSequence_svnsKept (s : State) (ok : Bool) : SvnsKept s (s.powerSequence ok) := by
  unfold State.powerSequence
  split
  · refine .ite (.refl s) (.ite (.after (State.emit_keeps ..) (s.railsOff_svnsKept _)) (.ite (.of_eq rfl rfl) ?_))
    exact s.moduleReset_svnsKept.trans (.of_eq rfl rfl)
  · exact .refl s

theorem State.powerOff_svnsKept (s : State) (r : MgmtRequest) : SvnsKept s (s.powerOff r) := by
  have hstored : SvnsKept s (if s.powered then s.ageingStore else s) := .ite (.of_eq rfl rfl) (.refl s)
  refine .mgmtRequest r 6 _ (.ite (.after (State.mgmtReply_keeps ..) ?_) (.of_keeps (State.mgmtReply_keeps ..)))
  exact .after (State.setCarrier_keeps ..) (hstored.trans (State.railsOff_svnsKept ..))

/-! What the Pilot and the management record. -/

theorem State.rthUpdate_svnsKept (s : State) (tjMax tIn pIn : Nat) : SvnsKept s (s.rthUpdate tjMax tIn pIn) :=
  .after (State.rebudget_keeps ..) (.after (State.setRegs_keeps ..) (.of_eq rfl rfl))

theorem State.ageingStore_svnsKept (s : State) : SvnsKept s s.ageingStore := .of_eq rfl rfl

theorem State.setAutoOn_svnsKept (s : State) (r : MgmtRequest) : SvnsKept s (s.setAutoOn r) :=
  .mgmtRequest r 8 _ (.after (State.mgmtReply_keeps ..) (.of_eq rfl rfl))

theorem State.clearRetired_svnsKept (s : State) (r : MgmtRequest) : SvnsKept s (s.clearRetired r) :=
  .mgmtRequest r 10 _ (.ite (.of_keeps (State.mgmtReply_keeps ..)) (.after (State.mgmtReply_keeps ..) (.of_eq rfl rfl)))

theorem State.clearPeer_svnsKept (s : State) (r : MgmtRequest) : SvnsKept s (s.clearPeer r) :=
  .mgmtRequest r 11 _ (.after (State.mgmtReply_keeps ..) (.of_eq rfl rfl))

theorem State.mgmtEnroll_svnsKept (s : State) (r : MgmtRequest) : SvnsKept s (s.mgmtEnroll r) := by
  have hreply : ∀ result, SvnsKept s (s.mgmtReply r 9 result []) := fun _ => .of_keeps (State.mgmtReply_keeps ..)
  exact .mgmtRequest r 9 _ (.ite (hreply _) (.ite (hreply _) (.after (State.mgmtReply_keeps ..) (State.enrolKey_svnsKept ..))))

/-! Boot, updates and recovery. -/

/-- A field of n bytes. -/
theorem leNat_lt (l : List Byte) : leNat l < 256 ^ l.length := by
  induction l with
  | nil => decide
  | cons b r ih =>
    have hb := b.isLt
    rw [leNat, List.length_cons, Nat.pow_succ]
    omega

theorem fieldLe_lt (l : List Byte) (off n : Nat) : fieldLe l off n < 256 ^ n := by
  simpa [fieldLe] using leNat_lt (sliceBytes l off n)

/-- The svn of an image is a field of 4 bytes. -/
theorem State.runFirmware_svnsKept (s : State) (image : List Byte) : SvnsKept s (s.runFirmware image) := by
  refine .after (State.setReg_keeps ..) (.after (State.extendMeasure_keeps ..) (.after (State.memOps_keeps ..) ⟨rfl, fun _ => ?_⟩))
  exact fieldLe_lt image 0x0C 4

theorem State.enterRecovery_svnsKept (s : State) (reason : Nat) : SvnsKept s (s.enterRecovery reason) :=
  .after (State.setRegs_keeps ..) (.after (State.memOps_keeps ..) ⟨rfl, fun _ => (by decide : (0 : Nat) < 2 ^ 32)⟩)

theorem State.bootImage_svnsKept (s : State) : SvnsKept s s.bootImage := by
  refine .ite (.trans (t := { s with free := s.free + 1 }) (.of_eq rfl rfl) (State.enterRecovery_svnsKept ..)) (.ite ?_ ?_)
  · exact .trans (.of_keeps (State.extendMeasure_keeps ..)) (State.runFirmware_svnsKept ..)
  · exact State.enterRecovery_svnsKept ..

theorem State.bootIdentity_svnsKept (s : State) : SvnsKept s s.bootIdentity := by
  have hzeroed : ∀ l : List (Field × Nat), SvnsKept s ((s.setRegs l).extendMeasure 0 s.silicon.romDigest) :=
    fun _ => .after (State.extendMeasure_keeps ..) (.of_keeps (State.setRegs_keeps ..))
  unfold State.bootIdentity
  dsimp only
  refine .ite (.after (State.setRegs_keeps ..) ((hzeroed _).trans (.of_eq rfl rfl))) ?_
  refine .after (State.post_keeps ..) (.after (State.setRegs_keeps ..) ((hzeroed _).trans (.of_eq rfl ?_)))
  split <;> rfl

theorem State.bootRom_svnsKept (s : State) : SvnsKept s s.bootRom :=
  .ite (s.bootIdentity_svnsKept.trans (.ite (.of_eq rfl rfl) (State.bootImage_svnsKept _))) (.refl s)

theorem State.flashWritten_svnsKept (s : State) (ok : Bool) : SvnsKept s (s.flashWritten ok) := by
  unfold State.flashWritten
  split
  · cases ok <;> exact .of_eq rfl rfl
  · exact .refl s

theorem State.bootGoesOn_svnsKept (s : State) : SvnsKept s s.bootGoesOn :=
  .ite (.trans ((s.flashWritten_svnsKept true).trans (.of_eq rfl rfl)) (State.bootImage_svnsKept _)) (.refl s)

theorem State.updateWrite_svnsKept (s : State) : SvnsKept s s.updateWrite :=
  .ite (.refl s) (.ite (.after (State.setRegs_keeps ..) (.of_eq rfl rfl)) (.of_keeps (State.updateFails_keeps ..)))

theorem State.updateDone_svnsKept (s : State) (ok : Bool) : SvnsKept s (s.updateDone ok) := by
  have hflash := s.flashWritten_svnsKept ok
  unfold State.updateDone
  split
  · exact .refl s
  · refine .ite (.refl s) (.ite hflash (.ite ?_ (.after (State.updateFails_keeps ..) hflash)))
    exact .after (State.post_keeps ..) (.after (State.setRegs_keeps ..) hflash)

theorem State.recoverWrite_svnsKept (s : State) : SvnsKept s s.recoverWrite :=
  .ite (.refl s) (.ite (.after (State.setReg_keeps ..) (.of_eq rfl rfl)) (.of_keeps (State.setReg_keeps ..)))

theorem State.recoveryWritten_svnsKept (s : State) (ok : Bool) : SvnsKept s (s.recoveryWritten ok) := by
  have hflash := s.flashWritten_svnsKept ok
  unfold State.recoveryWritten
  split
  · exact .refl s
  · exact .ite (.refl s) (.ite (hflash.trans (State.moduleReset_svnsKept _)) (.after (State.setRegs_keeps ..) hflash))

/-- A command that answers a state keeps both numbers where its effect does. -/
theorem SvnsKept.answered {s u t : State} {c : Instr} (hk : SvnsKept s u) (h : exec c s = .next t)
    (he : exec c s = perform c u := by rfl) : SvnsKept s t :=
  eq_of_perform_eq_next (he.symm.trans h) ▸ hk

/-- Every command but COMMIT_SVN leaves the counter, and keeps the running svn within its 32 bits. -/
theorem exec_svnsKept {c : Instr} {s t : State} (hc : c ≠ .commitSvn) (h : exec c s = .next t) : SvnsKept s t := by
  cases hframe : (frameOf c).contains .binnacle || (frameOf c).contains .boot with
  | false => exact .of_keeps (exec_keeps h) hframe
  | true =>
    cases c
    case commitSvn => exact absurd rfl hc
    case taskComplete => exact .answered (State.taskComplete_svnsKept ..) h
    case copy => exact .answered (State.copyStep_svnsKept ..) h
    case copy2d => exact .answered (State.copyStep_svnsKept ..) h
    case scrubCodeword =>
      exact .answered (.ite (.refl s) (.after (State.scrubbedOne_keeps ..) (State.codeword_svnsKept ..))) h
    case bar2Access =>
      exact .answered (.secWrite (.after (State.bar2Transfer_keeps ..) (State.demandReads_svnsKept ..))) h
    case flitReceive => exact .answered (.ite (State.unitArrives_svnsKept ..) (.refl s)) h
    case ackCredit =>
      refine .answered (.ite (.trans ?_ (State.resetIfSent_svnsKept _)) (.refl s)) h
      exact .after (State.onAckCredit_keeps ..) (.of_keeps (State.heard_keeps ..))
    case ident =>
      exact .answered (.ite (.trans (.of_keeps (State.heard_keeps ..)) (State.onIdent_svnsKept ..)) (.refl s)) h
    case accept => exact .answered (.hostWrite (.ite (State.acceptPeer_svnsKept ..) (.refl s))) h
    case enroll => exact .answered (.doeRequest _ _ (State.doeEnroll_svnsKept ..)) h
    case release => exact .answered (.doeRequest _ _ (State.doeRelease_svnsKept ..)) h
    case sysreset =>
      refine .answered (.hostWrite (.ite (.refl s) (.ite s.moduleReset_svnsKept (.ite (.refl s) ?_)))) h
      exact State.resetNotice_svnsKept ..
    case resetDown =>
      exact .answered (State.resetIn_svnsKept _ _ _ fun x => .ite (.refl x) (State.resetNotice_svnsKept ..)) h
    case resetUp =>
      refine .answered (State.resetIn_svnsKept _ _ _ fun x => ?_) h
      split
      · exact .trans (.of_eq rfl rfl) (State.resetProgress_svnsKept _)
      · exact .refl x
    case functionReset => exact .answered (.of_keeps s.functionReset_keeps) h
    case moduleReset => exact .answered s.moduleReset_svnsKept h
    case devReset => exact .answered (.hostWrite (.ite s.moduleReset_svnsKept (.refl s))) h
    case rthUpdate => exact .answered (State.rthUpdate_svnsKept ..) h
    case ageingStore => exact .answered s.ageingStore_svnsKept h
    case boot => exact .answered s.bootRom_svnsKept h
    case bootFlashWaitEnd => exact .answered s.bootGoesOn_svnsKept h
    case update => exact .answered (.secWrite s.updateWrite_svnsKept) h
    case updateDone => exact .answered (State.updateDone_svnsKept ..) h
    case recover => exact .answered (.secWrite s.recoverWrite_svnsKept) h
    case recoveryFlashWriteEnd => exact .answered (State.recoveryWritten_svnsKept ..) h
    case powerSequence => exact .answered (State.powerSequence_svnsKept ..) h
    case inputUndervoltage => exact .answered (State.inputUndervoltage_svnsKept ..) h
    case inputOvervoltage => exact .answered (State.inputOvervoltage_svnsKept ..) h
    case railOvercurrent => exact .answered (State.trip_svnsKept ..) h
    case junctionOvertemp => exact .answered (State.trip_svnsKept ..) h
    case coolantLoss => exact .answered (State.trip_svnsKept ..) h
    case leakage => exact .answered (State.trip_svnsKept ..) h
    case latchUnderPower => exact .answered s.latchUnderPower_svnsKept h
    case presSBreak => exact .answered s.presSBreak_svnsKept h
    case vauxLoss => exact .answered s.vauxLoss_svnsKept h
    case powerOff => exact .answered (State.powerOff_svnsKept ..) h
    case setAutoOn => exact .answered (State.setAutoOn_svnsKept ..) h
    case mgmtEnroll => exact .answered (State.mgmtEnroll_svnsKept ..) h
    case clearRetired => exact .answered (State.clearRetired_svnsKept ..) h
    case clearPeer => exact .answered (State.clearPeer_svnsKept ..) h
    -- The others have neither in their frame.
    all_goals exact Bool.noConfusion hframe

/-- COMMIT_SVN raises the counter to the running svn (R406). -/
theorem exec_commitSvn {s : State} (h : bootServes s) : exec .commitSvn s = .next s.commitSvn := by
  refine (perform_of_wf (c := .commitSvn) rfl _).trans ?_
  rw [State.secWrite_of_bootServes h]

/-- It changes the Binnacle only. -/
theorem State.commitSvn_changesOnly (s : State) : changesOnly [.binnacle] s s.commitSvn := by
  intro p hp
  cases p
  case binnacle => exact absurd hp (by decide)
  all_goals rfl

/-- COMMIT_SVN leaves the counter or sets it to the greater of the two numbers, and leaves the running svn. -/
theorem exec_commitSvn_cases {s t : State} (h : exec .commitSvn s = .next t) :
    (t.binnacle.counter = s.binnacle.counter ∨ t.binnacle.counter = Nat.max s.binnacle.counter s.boot.svn) ∧
      t.boot.svn = s.boot.svn := by
  obtain rfl := eq_of_perform_eq_next (c := .commitSvn) (u := s.secWrite s.commitSvn) h
  unfold State.secWrite
  split
  · exact ⟨.inl rfl, rfl⟩
  · split
    · exact ⟨.inl rfl, rfl⟩
    · exact ⟨.inr rfl, rfl⟩

/-- A step keeps both numbers, unless it runs COMMIT_SVN. -/
theorem step_svns {s t : State} (h : step s = .next t) :
    SvnsKept s t ∨ ((t.binnacle.counter = s.binnacle.counter ∨ t.binnacle.counter = Nat.max s.binnacle.counter s.boot.svn) ∧
      t.boot.svn = s.boot.svn) := by
  cases hp : s.pending with
  | nil =>
    obtain rfl := Host.Outcome.next.inj ((step_of_empty hp).symm.trans h)
    exact .inl (.of_keeps s.passCycle_keeps)
  | cons c rest =>
    have hexec := (step_of_front hp).symm.trans h
    by_cases hc : c = .commitSvn
    · subst hc
      exact .inr (exec_commitSvn_cases (s := { s with pending := rest }) hexec)
    · exact .inl (exec_svnsKept (s := { s with pending := rest }) hc hexec)

/-- No step lowers the counter. -/
theorem step_counter_le {s t : State} (h : step s = .next t) : s.binnacle.counter ≤ t.binnacle.counter := by
  cases hp : s.pending with
  | nil =>
    obtain rfl := Host.Outcome.next.inj ((step_of_empty hp).symm.trans h)
    obtain ⟨-, -, hcounter⟩ := s.passCycle_keeps
    exact hcounter
  | cons c rest =>
    obtain ⟨-, -, hcounter⟩ := exec_keeps ((step_of_front hp).symm.trans h)
    exact hcounter

/-- Settles O6: what a step may do to the two numbers, and COMMIT_SVN by which of them is greater. -/
theorem monotonicCounter : Obligations.MonotonicCounter := by
  refine ⟨fun s t => step_counter_le, fun s t hcounter hsvn hstep => ?_, fun s t hboot => ?_, fun s hs =>
    ⟨s.commitSvn, exec_commitSvn hs, ?_, fun hlt => Nat.max_eq_right hlt.le, fun hle => Nat.max_eq_left hle⟩⟩
  · rcases step_svns hstep with ⟨hc, hkept⟩ | ⟨hc | hc, hkept⟩
    · exact ⟨hc ▸ hcounter, hkept hsvn, fun h => hc.trans h⟩
    · exact ⟨hc ▸ hcounter, hkept ▸ hsvn, fun h => hc.trans h⟩
    · rw [hc, hkept]
      refine ⟨Nat.max_lt.2 ⟨hcounter, hsvn⟩, hsvn, fun h => ?_⟩
      exact (Nat.max_eq_left (by omega)).trans h
  · rcases hboot with h | h
    · exact (exec_svnsKept (by simp) h).1
    · exact (exec_svnsKept (by simp) h).1
  · exact s.commitSvn_changesOnly

end

end Sys2Proof.Machine
end

section
namespace Sys2Proof.Machine

open Sys2Proof

section

-- As in the model's Laws: one declaration after another keeps the joined text within the check's memory.
set_option Elab.async false

/-! ### Boot (R402, R405, R409) -/

section

variable {s : State}

theorem exec_boot (s : State) : exec .boot s = .next s.bootRom := perform_of_wf (c := .boot) rfl _

theorem exec_bootFlashWaitEnd (s : State) : exec .bootFlashWaitEnd s = .next s.bootGoesOn :=
  perform_of_wf (c := .bootFlashWaitEnd) rfl _

theorem State.bootRom_of_running (h : s.reg Reg.SEC_STATUS_state ≠ secBooting) : s.bootRom = s :=
  if_neg fun hb => h hb.2.1

/-- A boot that has not begun to wait stops for a flash write in progress, or comes to its image. -/
theorem State.bootRom_of_booting (hp : s.carrier.power = .on) (hb : s.reg Reg.SEC_STATUS_state = secBooting)
    (hw : s.boot.waiting = false) : s.bootRom = if s.bootIdentity.boot.writing.isSome then
      { s.bootIdentity with boot := { s.bootIdentity.boot with waiting := true } } else s.bootIdentity.bootImage :=
  if_pos ⟨decide_eq_true hp, hb, hw⟩

theorem State.bootGoesOn_of_waiting (hw : s.boot.waiting = true) (hp : s.carrier.power = .on) : s.bootGoesOn =
    State.bootImage { s.flashWritten true with boot := { (s.flashWritten true).boot with waiting := false } } :=
  if_pos ⟨hw, decide_eq_true hp⟩

/-- The checks give one of six answers, so a reason fits its 8 bits. -/
theorem State.checkFirmware_lt (s : State) (image : List Byte) : s.checkFirmware image < 2 ^ 8 := by
  unfold State.checkFirmware
  dsimp only
  split_ifs <;> decide

theorem State.bootImage_of_good (ht : s.binnacle.torn = false) (h : s.checkFirmware s.binnacle.flash = 0) :
    s.bootImage = (s.extendMeasure 1 (fwDigest s.binnacle.flash)).runFirmware s.binnacle.flash := by
  rw [State.bootImage, ht]
  exact if_pos h

theorem State.bootImage_of_bad (ht : s.binnacle.torn = false) (h : s.checkFirmware s.binnacle.flash ≠ 0) :
    s.bootImage = s.enterRecovery (s.checkFirmware s.binnacle.flash) := by
  rw [State.bootImage, ht]
  exact if_neg h

/-- The firmware runs over zeroed HBM. -/
theorem State.runFirmware_mem (s : State) (image : List Byte) :
    (s.runFirmware image).mem = s.mem.apply (.zero 0 hbmEnd) := rfl

theorem State.runFirmware_state (s : State) (image : List Byte) :
    (s.runFirmware image).reg Reg.SEC_STATUS_state = secRunning := State.reg_setReg_self ..

end

/-- The ports' states and the reason are other fields than those that RECOVERY has set before them. -/
theorem recovery_keys : Reg.SEC_STATUS_state.key ≠ Reg.SEC_STATUS_reason.key ∧
    ∀ f ∈ [Reg.SEC_STATUS_state, Reg.SEC_STATUS_reason],
      ∀ q ∈ (List.range 8).map (fun p => (Reg.FAB_P_STATE_state p, psDISABLED)), f.key ≠ q.1.key := by decide

theorem State.setRegs_append (s : State) (l r : List (Field × Nat)) : s.setRegs (l ++ r) = (s.setRegs l).setRegs r :=
  List.foldl_append

/-- In RECOVERY the state and the reason are as set, and no feature is offered. -/
theorem State.enterRecovery_sets (s : State) {r : Nat} (hr : r < 2 ^ 8) :
    (s.enterRecovery r).reg Reg.SEC_STATUS_state = secRecovery ∧ (s.enterRecovery r).reg Reg.SEC_STATUS_reason = r ∧
      (s.enterRecovery r).boot.offer = 0 := by
  obtain ⟨hreason, hports⟩ := recovery_keys
  unfold State.enterRecovery
  dsimp only
  rw [State.setRegs_append, State.reg_setRegs_other _ _ (hports _ (by simp)), State.reg_setRegs_other _ _ (hports _ (by simp))]
  refine ⟨?_, ?_, by simp⟩
  · exact (State.reg_setReg_other _ _ hreason).trans (State.reg_setReg_self ..)
  · exact (State.reg_setReg_self ..).trans (Nat.mod_eq_of_lt hr)

/-! ### COMMIT_SVN, updates and recovery (R406 to R409) -/

section

variable {s : State}

theorem exec_update (hs : bootServes s) : exec .update s = .next s.updateWrite := perform_secWrite (c := .update) rfl hs _

theorem exec_recover (hs : bootServes s) : exec .recover s = .next s.recoverWrite := perform_secWrite (c := .recover) rfl hs _

theorem exec_updateDone (ok : Bool) (s : State) : exec (.updateDone ok) s = .next (s.updateDone ok) :=
  perform_of_wf (c := .updateDone ok) rfl _

theorem exec_recoveryFlashWriteEnd (ok : Bool) (s : State) :
    exec (.recoveryFlashWriteEnd ok) s = .next (s.recoveryWritten ok) :=
  perform_of_wf (c := .recoveryFlashWriteEnd ok) rfl _

section

variable (hrun : s.reg Reg.SEC_STATUS_state = secRunning) (hidle : s.reg Reg.SEC_STATUS_upd_state ≠ 1)
include hrun hidle

/-- An update in a running module, with none in progress, by the check of its image. -/
theorem State.updateWrite_of_running {image : List Byte} (hi : image = s.givenImage (s.reg Reg.SEC_IMAGE_ADDR_addr * 4096)) :
    s.updateWrite = if s.checkFirmware image = 0 then
      State.setRegs { s with boot := { s.boot with writing := some ⟨image, false⟩ } }
        [(Reg.SEC_STATUS_upd_state, 1), (Reg.SEC_CTRL_update, 1)]
      else s.updateFails (s.checkFirmware image) := by
  subst hi
  exact if_neg fun h => h.elim (absurd hrun) hidle

end

/-- A recovery, with no flash write in progress, by the check of its image. -/
theorem State.recoverWrite_of_recovery (hr : s.reg Reg.SEC_STATUS_state = secRecovery) (hw : s.boot.writing = none) :
    s.recoverWrite = if s.checkFirmware (s.givenImage 0) = 0 then
      State.setReg { s with boot := { s.boot with writing := some ⟨s.givenImage 0, true⟩ } } Reg.SEC_CTRL_recover 1
      else s.setReg Reg.SEC_STATUS_reason (s.checkFirmware (s.givenImage 0)) :=
  if_neg fun h => h.elim (absurd hr) fun h => by simp [hw] at h

section

variable {w : FlashWrite} (hw : s.boot.writing = some w)
include hw

/-- A flash write that ends well leaves its image in the slot, and one that fails leaves the slot. -/
theorem State.flashWritten_of_write (ok : Bool) : s.flashWritten ok = { s with
    boot := { s.boot with writing := none },
    binnacle := if ok then { s.binnacle with flash := w.image, torn := false } else s.binnacle } := by
  rw [State.flashWritten, hw]

/-- The end of an update's flash write for which the firmware waits. -/
theorem State.updateDone_of_busy (hrec : w.recovery = false) (hwait : s.boot.waiting = false)
    (hbusy : s.reg Reg.SEC_STATUS_upd_state = 1) (ok : Bool) : s.updateDone ok =
      if ok then ((s.flashWritten ok).setRegs [(Reg.SEC_STATUS_upd_state, 2), (Reg.SEC_CTRL_update, 0)]).post
        Reg.SEC_EVENT_update_done
      else (s.flashWritten ok).updateFails 6 := by
  have hstill : (s.flashWritten ok).reg Reg.SEC_STATUS_upd_state = 1 := by
    rw [State.flashWritten_of_write hw]
    exact hbusy
  rw [State.updateDone, hw]
  dsimp only
  rw [if_neg (by simp [hrec, hwait]), if_neg (not_not.2 hstill)]

/-- The end of a recovery's flash write. -/
theorem State.recoveryWritten_of_recovery (hrec : w.recovery = true) (hr : s.reg Reg.SEC_STATUS_state = secRecovery) (ok : Bool) :
    s.recoveryWritten ok = if ok then (s.flashWritten ok).moduleReset
      else (s.flashWritten ok).setRegs [(Reg.SEC_CTRL_recover, 0), (Reg.SEC_STATUS_reason, 6)] := by
  rw [State.recoveryWritten, hw]
  exact if_neg (by simp [hrec, hr])

end

end

/-- Settles O51: the boot by its flash write and the check of its image, an update and a recovery by theirs, and the ends of the
flash writes. -/
theorem bootAndUpdate : Obligations.BootAndUpdate := by
  intro s
  refine ⟨fun hp hb hw => ⟨fun h => ?_, fun h => ?_⟩, fun h => ?_, fun hw hp => ?_, fun ht => ⟨fun h => ⟨?_, fun k hk => ?_⟩, ?_⟩,
    fun hs => ⟨_, exec_commitSvn hs, rfl, s.commitSvn_changesOnly⟩, fun hs hrun hidle image hi => ⟨fun h => ?_, fun h => ?_⟩,
    fun w hw hrec hwait hbusy => ⟨?_, ?_⟩, fun hs hr hw => ⟨fun h => ?_, fun h => ?_⟩, fun w hw hrec hr => ⟨?_, ?_⟩⟩
  · rw [exec_boot, State.bootRom_of_booting hp hb hw, if_neg (by simp [h])]
  · rw [exec_boot, State.bootRom_of_booting hp hb hw, if_pos (Option.isSome_iff_ne_none.2 h)]
  · rw [exec_boot, State.bootRom_of_running h]
  · rw [exec_bootFlashWaitEnd, State.bootGoesOn_of_waiting hw hp]
  · rw [State.bootImage_of_good ht h, State.runFirmware_state]
  · rw [State.bootImage_of_good ht h, State.runFirmware_mem, Memory.read_apply_zero,
      if_pos ⟨Nat.zero_le k, (Nat.zero_add hbmEnd).symm ▸ hk⟩]
  · rintro r rfl hbad
    rw [State.bootImage_of_bad ht hbad]
    exact s.enterRecovery_sets (s.checkFirmware_lt _)
  · rw [exec_update hs, State.updateWrite_of_running hrun hidle hi, if_pos h]
  · rw [exec_update hs, State.updateWrite_of_running hrun hidle hi, if_neg h]
  · rw [exec_updateDone, State.updateDone_of_busy hw hrec hwait hbusy, State.flashWritten_of_write hw]
    rfl
  · rw [exec_updateDone, State.updateDone_of_busy hw hrec hwait hbusy, State.flashWritten_of_write hw]
    rfl
  · rw [exec_recover hs, State.recoverWrite_of_recovery hr hw, if_pos h]
  · rw [exec_recover hs, State.recoverWrite_of_recovery hr hw, if_neg h]
  · rw [exec_recoveryFlashWriteEnd, State.recoveryWritten_of_recovery hw hrec hr]
    rfl
  · rw [exec_recoveryFlashWriteEnd, State.recoveryWritten_of_recovery hw hrec hr, State.flashWritten_of_write hw]
    rfl

end

end Sys2Proof.Machine
end

section
namespace Sys2Proof.Machine

open Sys2Proof

section

-- As in the model's Laws: one declaration after another keeps the joined text within the check's memory.
set_option Elab.async false

/-! ### The power sequence and the rails (R362, R408, R431, R432) -/

section

variable {s : State}

/-- Without the main rails the module is as after its reset. -/
theorem State.railsOff_parts (s : State) (p : PowerState) : (s.railsOff p).carrier = { s.carrier with power := p } ∧
    (s.railsOff p).power.rails = List.replicate 26 false ∧ (s.railsOff p).regs = [] ∧ (s.railsOff p).binnacle = s.binnacle :=
  ⟨rfl, rfl, rfl, rfl⟩

theorem exec_powerSequence (ok : Bool) (s : State) : exec (.powerSequence ok) s = .next (s.powerSequence ok) :=
  perform_of_wf (c := .powerSequence ok) rfl _

/-- The state in which control passes to the boot ROM. -/
def State.sequenceDone (s : State) : State :=
  State.setCarrier { s.moduleReset with power := { s.moduleReset.power with rails := List.replicate 26 true } }
    { s.carrier with power := .on }

section

variable {n : Nat} (hn : s.carrier.power = .sequencing n) (hin : s.carrier.inputOk = true)
include hn hin

theorem State.powerSequence_of_fail : s.powerSequence false = (s.railsOff .auxOnly).emit (.railFailure (n + 2)) := by
  rw [State.powerSequence, hn]
  dsimp only
  rw [if_neg (by simp [hin])]
  rfl

theorem State.powerSequence_of_step : s.powerSequence true = if n + 1 < 5 then
    State.setCarrier { s with power := { s.power with rails := railsAfter (n + 1) } }
      { s.carrier with power := .sequencing (n + 1) }
    else s.sequenceDone := by
  rw [State.powerSequence, hn]
  dsimp only
  rw [if_neg (by simp [hin])]
  rfl

end

/-- A flash write on VAUX is cut off with it, and the monotonic counter stays. -/
theorem State.vauxLoss_parts (s : State) : s.vauxLoss.carrier.power = .off ∧ s.vauxLoss.boot.writing = none ∧
    s.vauxLoss.binnacle.counter = s.binnacle.counter ∧ s.vauxLoss.power.rails = List.replicate 26 false := by
  refine ⟨rfl, rfl, ?_, rfl⟩
  unfold State.vauxLoss
  dsimp only
  split <;> rfl

section

variable (h : s.power.rails.any id = true)
include h

theorem State.latchUnderPower_of_railsOn : s.latchUnderPower =
    ((s.setCarrier { s.carrier with latchOpen := true }).railsOff .auxOnly).recordRemoval 1 := if_pos h

theorem State.presSBreak_of_railsOn : s.presSBreak = (s.setCarrier { s.carrier with presS := false }).railsOff .auxOnly :=
  if_pos h

end

/-! ### The input (R424, R425) -/

theorem State.setInput_carrier (s : State) (vin : Nat) : (s.setInput vin).carrier = { s.carrier with vin := vin } := by
  unfold State.setInput
  dsimp only
  split
  · exact (State.rebudget_keeps _).1 .carrier rfl
  · rfl

/-- An input within 64 V: its voltage is taken, and the condition of an overvoltage ends. -/
theorem State.inputTaken_carrier (s : State) (vin : Nat) : (s.setInput vin).inputCalm.carrier =
    { s.carrier with vin := vin, tripsPresent := s.carrier.tripsPresent.filter (fun c => !(c == 2)) } := by
  show { (s.setInput vin).carrier with tripsPresent := (s.setInput vin).carrier.tripsPresent.filter (fun c => !(c == 2)) } = _
  rw [State.setInput_carrier]

theorem State.inputTaken_tasks (s : State) (vin : Nat) : (s.setInput vin).inputCalm.tasks = s.tasks :=
  (s.setInput_keeps vin).1 .tasks rfl

/-- The vaux of a module that has a supply. -/
theorem State.vaux_of_supply (h : s.carrier.power ≠ .off) : s.vaux = true := by simp [State.vaux, h]

theorem State.inputUndervoltage_of_powered (hp : s.carrier.power = .on) (vin : Nat) : s.inputUndervoltage vin =
    ((s.setInput vin).inputCalm.railsOff .auxOnly).setCarrier
      { (s.setInput vin).inputCalm.carrier with power := .auxOnly, inputOk := false, restart := true } := by
  have hon : s.powered = true := decide_eq_true hp
  unfold State.inputUndervoltage
  simp only [hon, Bool.true_or, if_true, Bool.or_true, State.railsOff_parts]

theorem State.inputRestored_of_restart (hp : s.carrier.power = .auxOnly) (hr : s.carrier.restart = true) (vin : Nat) :
    s.inputRestored vin = ((s.setInput vin).inputCalm.setCarrier
      { (s.setInput vin).inputCalm.carrier with inputOk := true }).startSequence := by
  unfold State.inputRestored
  simp only [State.inputTaken_carrier, hp, hr, if_true]

theorem State.inputHigh_of_supply (h : s.carrier.power ≠ .off) (vin : Nat) :
    s.inputHigh vin = (s.setInput vin).inputCalm.emit (.inputHigh vin) := if_pos (State.vaux_of_supply h)

/-! ### The front panel (R428, R429) -/

theorem State.attentionPress_of_supply (h : s.carrier.power ≠ .off) : s.attentionPress = State.emit
    { s with carrier := { s.carrier with pressedAt := some s.now, removeRequested := true } } (.notice 0x40 0) :=
  if_pos (State.vaux_of_supply h)

theorem State.attentionLongPress_of_supply (h : s.carrier.power ≠ .off) : s.attentionLongPress = State.emit
    { s with carrier := { s.carrier with removeRequested := false } } (.notice 0x41 0) :=
  if_pos (State.vaux_of_supply h)

/-- The window ends 60 s after the press. -/
theorem State.presenceWindowEnd_of_pressed {at_ : Nat} (h : s.carrier.pressedAt = some at_) : s.presenceWindowEnd =
    if s.now < at_ + 6000000000 then s else { s with carrier := { s.carrier with pressedAt := none } } := by
  have hpresent : s.present = decide (s.now < at_ + minute) := by
    rw [State.present, h, Option.map_some, Option.getD_some]
  have hminute : minute = 6000000000 := rfl
  rw [State.presenceWindowEnd, hpresent, hminute]
  exact if_congr decide_eq_true_iff rfl rfl

/-! ### Trips (R433 to R435) -/

/-- What a trip leaves: no rail, no register, the safe state, its record as the last one, and its cause among those that last. -/
theorem State.trip_of_supply (h : s.carrier.power ≠ .off) (cause : Nat) (lasts : Bool) (r : Reading) :
    (s.trip cause lasts r).carrier.power = .safe ∧ (s.trip cause lasts r).power.rails = List.replicate 26 false ∧
      (s.trip cause lasts r).regs = [] ∧
      (s.trip cause lasts r).binnacle.trips = s.binnacle.trips.drop (s.binnacle.trips.length + 1 - 256) ++
        [⟨s.binnacle.eventSeq, cause, s.now, r⟩] ∧
      (s.trip cause lasts r).carrier.tripsPresent =
        if lasts ∧ s.carrier.tripsPresent.contains cause = false then s.carrier.tripsPresent ++ [cause]
        else s.carrier.tripsPresent := by
  rw [State.trip, if_pos (State.vaux_of_supply h)]
  exact ⟨rfl, rfl, rfl, rfl, rfl⟩

/-- A condition that lasts is present after its trip. -/
theorem State.trip_present (h : s.carrier.power ≠ .off) (cause : Nat) (r : Reading) :
    (s.trip cause true r).carrier.tripsPresent.contains cause = true := by
  obtain ⟨-, -, -, -, hpresent⟩ := State.trip_of_supply h cause true r
  rw [hpresent]
  split
  · simp
  · rename_i hmem
    simpa using hmem

/-- The four commands that trip at once. -/
theorem exec_trips (s : State) (r : Reading) : ∀ c ∈ [Instr.railOvercurrent r, .junctionOvertemp r, .coolantLoss r, .leakage r],
    ∃ cause lasts, exec c s = .next (s.trip cause lasts r) := by
  simp only [List.mem_cons, List.not_mem_nil, or_false]
  rintro c (rfl | rfl | rfl | rfl)
  · exact ⟨1, false, perform_of_wf (c := .railOvercurrent r) rfl _⟩
  · exact ⟨3, false, perform_of_wf (c := .junctionOvertemp r) rfl _⟩
  · exact ⟨4, false, perform_of_wf (c := .coolantLoss r) rfl _⟩
  · exact ⟨5, true, perform_of_wf (c := .leakage r) rfl _⟩

end

/-- Settles O53: each command by the power state it finds, and every trip by what it records and turns off. -/
theorem carrierPowerAndTrips : Obligations.CarrierPowerAndTrips := by
  refine ⟨fun s => ⟨fun n hn hin => ⟨fun hlt => ?_, fun hge => ⟨s.sequenceDone, ?_, rfl, rfl, rfl⟩, ?_⟩,
    fun vin hp => ⟨s.inputUndervoltage vin, perform_of_wf (c := .inputUndervoltage vin) rfl _, ?_⟩,
    fun vin hp hr => ⟨s.inputRestored vin, perform_of_wf (c := .inputRestored vin) rfl _, ?_⟩,
    fun vin hp => ⟨s.inputHigh vin, (s.setInput vin).inputCalm, perform_of_wf (c := .inputHigh vin) rfl _, ?_⟩,
    ⟨s.vauxLoss, perform_of_wf (c := .vauxLoss) rfl _, s.vauxLoss_parts⟩,
    fun h => ⟨s.latchUnderPower, perform_of_wf (c := .latchUnderPower) rfl _, ?_⟩,
    fun h => ⟨s.presSBreak, perform_of_wf (c := .presSBreak) rfl _, ?_⟩, fun hp => ⟨?_, ?_⟩,
    fun at_ hat => ⟨fun hopen => ?_, fun hover => ?_⟩⟩,
    fun s hp => ⟨fun r c hc => ?_, fun vin => ⟨_, perform_of_wf (c := .inputOvervoltage vin true) rfl _, ?_⟩,
      fun vin => ⟨_, perform_of_wf (c := .inputOvervoltage vin false) rfl _, ?_⟩, fun c => ?_, fun c => ?_⟩⟩
  · rw [exec_powerSequence, State.powerSequence_of_step hn hin, if_pos (Nat.succ_lt_succ hlt)]
    rfl
  · rw [exec_powerSequence, State.powerSequence_of_step hn hin, if_neg (by omega)]
  · rw [exec_powerSequence, State.powerSequence_of_fail hn hin]
  · rw [State.inputUndervoltage_of_powered hp]
    exact ⟨rfl, rfl, rfl, rfl⟩
  · rw [State.inputRestored_of_restart hp hr]
    exact ⟨rfl, rfl⟩
  · rw [State.inputHigh_of_supply (by simp [hp]), State.emit_carrier, State.inputTaken_carrier, State.emit_tasks,
      State.inputTaken_tasks]
    exact ⟨rfl, hp, rfl, rfl⟩
  · rw [State.latchUnderPower_of_railsOn h]
    exact ⟨rfl, rfl, rfl, List.length_append⟩
  · rw [State.presSBreak_of_railsOn h]
    exact ⟨rfl, rfl, rfl, rfl⟩
  · exact (perform_of_wf (c := .attentionPress) rfl _).trans (congrArg _ (State.attentionPress_of_supply hp))
  · exact (perform_of_wf (c := .attentionLongPress) rfl _).trans (congrArg _ (State.attentionLongPress_of_supply hp))
  · refine (perform_of_wf (c := .presenceWindowEnd) rfl _).trans (congrArg _ ?_)
    rw [State.presenceWindowEnd_of_pressed hat, if_pos hopen]
  · refine (perform_of_wf (c := .presenceWindowEnd) rfl _).trans (congrArg _ ?_)
    rw [State.presenceWindowEnd_of_pressed hat, if_neg (Nat.not_lt.2 hover)]
  · obtain ⟨cause, lasts, hexec⟩ := exec_trips s r c hc
    obtain ⟨hsafe, hrails, hregs, htrips, -⟩ := State.trip_of_supply hp cause lasts r
    refine ⟨_, hexec, hsafe, hrails, hregs, ?_, ?_⟩
    · rw [htrips, List.length_append, List.length_drop]
      exact Nat.succ_le_succ (Nat.sub_le ..)
    · rw [htrips, List.getLast?_concat]
      rfl
  · have hsupply : (s.setInput (Nat.min vin 6600)).carrier.power ≠ .off := by rwa [State.setInput_carrier]
    exact ⟨(State.trip_of_supply hsupply 2 true ⟨0, vin⟩).1, State.trip_present hsupply 2 ⟨0, vin⟩⟩
  · show (s.setInput (Nat.min vin 6600)).carrier.power = s.carrier.power ∧ (s.setInput (Nat.min vin 6600)).tasks = s.tasks
    rw [State.setInput_carrier]
    exact ⟨rfl, (s.setInput_keeps _).1 .tasks rfl⟩
  · exact (perform_of_wf (c := .handleHot c) rfl _).trans (congrArg _ (if_pos (State.vaux_of_supply hp)))
  · exact (perform_of_wf (c := .handleCool c) rfl _).trans (congrArg _ (if_pos (State.vaux_of_supply hp)))

end

end Sys2Proof.Machine
end
